-- ==== Sys2Proof/Word.lean ====
section
/-!
DEFINITION. The word types of the CF-480 and the unit numbers of the manual.
Quantities the manual treats as bits (registers, addresses, header fields) are bit vectors; unit numbers
are bounded naturals, numbered from 0 (00_scope, "Numbers, sizes and units").
-/
namespace Sys2Proof

/-- A byte. -/
abbrev Byte := BitVec 8
/-- A register word (R5). -/
abbrev Word := BitVec 32
/-- A 64-bit quantity, such as an address or a timestamp (R12). -/
abbrev Dword := BitVec 64
/-- A run of bytes in address order; multi-byte quantities in it are little-endian (R4). -/
abbrev Bytes := List Byte

/-- A Thoade port, 0 to 191 (R31). -/
abbrev Port := Fin 192
/-- A link: port p as a whole or half 0 of split port p is 2p, half 1 of split port p is 2p + 1 (R90). -/
abbrev LinkId := Fin 384
/-- A switch-core input: ports 0 to 191, then the injection input of cluster k at 192 + k (R158). -/
abbrev InputId := Fin 204
/-- A fabric class, 0 to 7. -/
abbrev Cls := Fin 8
/-- A bench engine, 0 to 167. -/
abbrev BenchId := Fin 168
/-- A network unit, 0 to 35: 0 to 11 reduce, 12 to 23 gather, 24 to 35 filter. -/
abbrev NetId := Fin 36
/-- A memory stack. -/
abbrev StackId := Fin 8
/-- A flash tray. -/
abbrev TrayId := Fin 32
/-- A migration engine. -/
abbrev EngineId := Fin 16
/-- A submission or completion ring of one host port. -/
abbrev RingId := Fin 64
/-- A job number (R144). -/
abbrev JobId := Fin 4096
/-- A drawer number (R146). -/
abbrev DrawerId := Fin 65536
/-- A roll slot (R365). -/
abbrev SlotId := Fin 32768

/-- The port a link belongs to (R90). -/
def LinkId.port (l : LinkId) : Port := ⟨l.val / 2, by omega⟩
/-- The link of a port that is not split, or half 0 of one that is (R90). -/
def Port.link (p : Port) : LinkId := ⟨2 * p.val, by omega⟩

end Sys2Proof
end

