-- ==== Sys2Proof/Syntax.lean ====
section
/-!
DEFINITION. The commands the CF-480 takes from outside, one constructor of `Instr` per row of the command table
(spec/opcode_table.json), in the table's order, those without operands after the others. The table gives the rows no
operands; the operands here are what the row's rule says arrives with the event (a frame, a flit, host data, a measured
value) or the unit it concerns.
-/
namespace Sys2Proof

/-- The two host ports (R451). -/
inductive HostPort where
  | a
  | b
  deriving DecidableEq, Repr

/-- The PCI Express events that reset one host port's function (R527). -/
inductive PortResetKind where
  | perst
  | hotReset
  deriving DecidableEq, Repr

/-- The local table sets that BANK_ARM switches (R82, R472). -/
inductive TableSet where
  | mortise
  | drawer
  | object
  | roll
  deriving DecidableEq, Repr

/-- The public boundary-scan instructions of R552. -/
inductive JtagInstr where
  | bypass
  | idcode
  | samplePreload
  | extest
  | extestPulse
  | extestTrain
  | clamp
  | highz
  deriving DecidableEq, Repr

/-- A transaction frame as it travels (R128): the 256-bit header of R129, the payload and the transaction check. -/
structure Frame where
  /-- Header bits [255:0] of R129. -/
  hdr : BitVec 256
  /-- LEN bytes. -/
  payload : Bytes
  /-- CRC-32C of R137. -/
  check : Word
  deriving DecidableEq, Repr

/-- A link flit (R103 to R106, R117): 4 header bytes, 240 payload bytes, the sequence word, the check field. -/
structure Flit where
  /-- Header of R103. -/
  header : Word
  /-- 240 payload bytes, ciphertext on an encrypted link (R119). -/
  payload : Bytes
  /-- ROLL_CALL in [15:0], ACK_SEQ in [31:16] (R106). -/
  seq : Word
  /-- CRC-64 (R117) or GCM tag (R119). -/
  check : Dword
  deriving DecidableEq, Repr

/-- The capability block a peer sends in VERSION (R99). -/
structure PeerCaps where
  /-- Highest protocol version spoken, major then minor. -/
  major : BitVec 4
  minor : BitVec 4
  /-- Version bitmap: lists 0.9. -/
  has09 : Bool
  /-- Version bitmap: lists 1.0. -/
  has10 : Bool
  /-- Peer kind as PORT_PEER encodes it: 1 agent, 2 tray bridge, 3 switch. -/
  kind : BitVec 2
  switch : BitVec 12
  port : BitVec 8
  partition : BitVec 6
  /-- Supported FEC codes include RS(272,257), and FEC_LL is requested. -/
  fecLL : Bool
  encSupport : Bool
  encRequired : Bool
  deriving DecidableEq, Repr

/-- The announcement of a time parent, as it reaches a child-ring master (R77). -/
structure SoNotice where
  tag : Word
  lenM1 : BitVec 16
  term : BitVec 40
  period : BitVec 16
  commit : Bool
  deriving DecidableEq, Repr

/-- What a stack's read of one line found besides the stored content: flipped bits of the 1,024 data bits, the
56 MAC bits and the 8 correction bits (R212 to R214). -/
structure LineFlips where
  data : BitVec 1024
  mac : BitVec 56
  ecc : BitVec 8
  deriving DecidableEq, Repr

/-- One sensor sweep of the management island (R562): junctions in degrees, then the board values. -/
structure SensorSweep where
  /-- Hottest sensor of each die, compute dies 0 to 3 then I/O dies 4 and 5. -/
  dies : List (BitVec 8)
  /-- Hottest sensor of each stack. -/
  stackDeg : List (BitVec 8)
  /-- Hottest regulator sensor. -/
  regulator : BitVec 8
  inlet : BitVec 8
  outlet : BitVec 8
  vinMv : Word
  vauxMv : Word
  pinW : Nat
  pauxW : Nat
  deriving DecidableEq, Repr

/-- A tray frame from a bridge (R228, R229): the 16-byte header, the payload and the check. -/
structure TrayMsg where
  head : BitVec 128
  data : Bytes
  check : Word
  deriving DecidableEq, Repr

/-- The commands, one per row of the command table. -/
inductive Instr where
  -- 00 scope: BAR0 registers
  | regWrite (h : HostPort) (off : BitVec 25) (v : Word)
  | bar0UnsupportedAccess (h : HostPort) (off : BitVec 25) (size : Nat) (write : Bool)
  | readLoLatch (h : HostPort) (off : BitVec 25)
  | readHi (h : HostPort) (off : BitVec 25)
  | writeLoHold (h : HostPort) (off : BitVec 25) (v : Word)
  | writeHiApply (h : HostPort) (off : BitVec 25) (v : Word)
  | errW1cClear (h : HostPort) (off : BitVec 25) (v : Word)
  -- 02 bell and timetable
  | bellFrameReceive (content : BitVec 272)
  | timestampSend (p : Port)
  | timestampReceive (p : Port) (rxSub : BitVec 6) (parent : Option SoNotice)
  | ttLoad (h : HostPort) (q : RingId) (data : Bytes)
  | ttArm (h : HostPort) (q : RingId)
  | ttCancel (h : HostPort) (q : RingId)
  | strandedDiscard (inp : InputId) (o : Port) (c : Cls)
  | bankArm (h : HostPort) (q : RingId)
  | bankSwitchOver (t : TableSet)
  | gateEntryFire (p : Port)
  | recessStart (kind : Fin 3) (num : Fin 192)
  | ttLaunchFire (b : BenchId)
  | ttStartFire (u : NetId)
  -- 03 links
  | portCfgWrite (h : HostPort) (p : Port) (v : Word)
  | portRetrain (h : HostPort) (p : Port)
  | portDisable (h : HostPort) (p : Port)
  | portRekey (h : HostPort) (p : Port)
  | portClrCounters (h : HostPort) (p : Port)
  | signalDetect (l : LinkId) (lanes : BitVec 16)
  | eqLowDone (l : LinkId) (lanes : BitVec 16)
  | laneMapDone (l : LinkId) (reversed : Bool) (inverted : BitVec 4)
  | versionDecide (l : LinkId) (peer : PeerCaps)
  | eqFullDone (l : LinkId) (preset : BitVec 16)
  | configDone (l : LinkId) (credits : List (BitVec 16))
  | trainTimeout (l : LinkId)
  | flitReceive (l : LinkId) (f : Flit) (corrected : Nat) (uncorrectable : Nat)
  | replayReqReceive (l : LinkId)
  | replayWaitRetry (l : LinkId)
  | peerDead (l : LinkId)
  | recoveryDone (l : LinkId)
  | linkCtlRekeyAnnounce (l : LinkId)
  | egressFlitPosition (l : LinkId) (sub : BitVec 6)
  | laneMarginStart (h : HostPort) (p : Port) (lane : Fin 4)
  | laneMarginDone (p : Port) (lane : Fin 4) (eye : Word)
  | secureHello (l : LinkId)
  | secureKemEk (l : LinkId)
  | secureKemCt (l : LinkId)
  | secureFinished (l : LinkId)
  | secureAbort (l : LinkId)
  | secureResend (l : LinkId)
  | rekeyEk (l : LinkId)
  | rekeyCt (l : LinkId)
  -- 04, 05 transactions and the switch core
  | ingressFirstFlit (l : LinkId) (c : Cls)
  | safFrameComplete (l : LinkId) (c : Cls)
  | mortiseCheck (k : Fin 12)
  | stackLineRead (k : StackId) (line : Nat) (flips : LineFlips)
  | msgAcked (p : Port)
  | cplReceive (k : Fin 12)
  | tagTimeout (unit : BitVec 10) (tag : Fin 512)
  | drainBoundExpiry (d : DrawerId)
  | drawerShred (d : DrawerId)
  | mapResetDone (d : DrawerId)
  | gwCombineWrite (p : Port)
  | gwFlushTimeout (p : Port) (buf : Fin 8)
  | gwFlushComplete (p : Port)
  | gwOrderFrame (p : Port)
  | gwOrderForward (p : Port)
  | gwReadAhead (p : Port)
  | gwReadaheadFill (p : Port)
  | egressPortDown (p : Port)
  | failback (p : Port) (inp : InputId)
  | ageDiscard (inp : InputId) (o : Port) (c : Cls)
  | shapeBurstWrite (h : HostPort) (profile : Fin 256) (v : Word)
  | shapeSelWrite (h : HostPort) (p : Port) (c : Cls) (v : Word)
  | polSelWrite (h : HostPort) (p : Port) (slot : Fin 16) (v : Word)
  | polProfileWrite (h : HostPort) (profile : Fin 16) (burst : Bool) (v : Word)
  | mirCfgWrite (h : HostPort) (session : Fin 8) (n : Bool) (v : Word)
  | swRouteWrite (h : HostPort) (sw : Fin 4096) (v : Word)
  | swClrCounters (h : HostPort)
  -- 06 pool memory
  | poolInit (h : HostPort)
  | poolClrCounters (h : HostPort)
  | migrationCommit (e : EngineId)
  | ageDemote (frame : Nat)
  | poolMigrate (h : HostPort) (q : RingId)
  | stackRefresh (k : StackId)
  | stackTempHigh (k : StackId)
  | scrubStack (k : StackId)
  | scrubLate (k : StackId)
  | scrubNow (h : HostPort) (k : StackId)
  | stkClrCounters (h : HostPort) (k : StackId)
  -- 07 trays
  | trayIdentify (p : Port)
  | trayIdentifyDone (t : TrayId) (descriptor : Bytes) (bad : Bytes) (erases : Bytes)
  | trayIdentifyTimeout (t : TrayId)
  | trayLost (t : TrayId)
  | trayCompletion (t : TrayId) (msg : TrayMsg)
  | trayCmdTimeout (t : TrayId) (cmdId : BitVec 16)
  | plankDiscard (h : HostPort) (q : RingId)
  | gcFlash (t : TrayId)
  | wearLevel (t : TrayId)
  | trayClrCounters (h : HostPort)
  -- 08 ordering
  | ordClrCounters (h : HostPort)
  -- 09 directory
  | dirSnoopDeliver (f : Frame)
  | dirSnoopTimeout (tracker : Fin 4096)
  | dirFillData (tracker : Fin 4096)
  | dirRebuild (p : Port)
  | dirPurge (d : DrawerId)
  | poisonClear (h : HostPort) (q : RingId)
  | dirProbe (h : HostPort)
  | dirClrCounters (h : HostPort)
  -- 10 benches
  | benchLaunchStart (b : BenchId)
  | benchQueueTimeout (b : BenchId)
  | benchAcquirePoll (b : BenchId)
  | benchGatherWaitEnd (b : BenchId)
  | benchOperandsFetched (b : BenchId)
  | benchComputeDone (b : BenchId)
  | benchOutputsDone (b : BenchId)
  | benchReleaseDone (b : BenchId)
  | benchClearStore (h : HostPort) (b : BenchId)
  | benchClrCounters (h : HostPort) (b : BenchId)
  -- 11 roll
  | offerDeadline (slot : SlotId)
  | rollAgentDead (p : Port)
  | hbLost (sw : Fin 4096)
  | watchRetry (sw : Fin 4096) (port : Fin 256)
  | claimDiscardsDone (slot : SlotId)
  | rollStationBind (station : Fin 1024)
  | rollProbe (h : HostPort)
  | rollClrCounters (h : HostPort)
  -- 12 network units
  | nuAcquirePoll (u : NetId)
  | reduceFlagPoll (u : Fin 12)
  | reduceLocalReadDone (u : Fin 12)
  | reduceMergeStart (u : Fin 12)
  | reduceMergeDone (u : Fin 12)
  | reduceDeadline (u : Fin 12)
  | gatherFetchDone (u : NetId)
  | gatherWalkDone (u : NetId)
  | filterSelectDone (u : NetId)
  | netClrCounters (h : HostPort)
  -- 13 veneer
  | veneerCompress (e : EngineId)
  | veneerExpand (e : EngineId)
  | basisLoad (h : HostPort) (q : RingId) (data : Bytes)
  | basisSave (h : HostPort) (q : RingId)
  | basisSelect (h : HostPort) (q : RingId)
  | basisFree (h : HostPort) (q : RingId)
  | venClrCounters (h : HostPort)
  -- 14 host ports
  | sqDoorbell (h : HostPort) (r : RingId) (v : Word)
  | cqDoorbell (h : HostPort) (r : RingId) (v : Word)
  | evtDoorbell (h : HostPort) (v : Word)
  | ringCfgWrite (h : HostPort) (off : BitVec 25) (v : Word)
  | descriptorFetch (h : HostPort) (q : RingId) (data : Bytes)
  | intTimeout (h : HostPort) (ring : Fin 65)
  | hrdyReadbackDone (h : HostPort) (ring : Fin 65)
  | nop (h : HostPort) (q : RingId)
  | takeover (h : HostPort) (q : RingId)
  | takeoverGive (h : HostPort) (q : RingId)
  | takeoverWaitTimeout (h : HostPort)
  | mortLoad (h : HostPort) (q : RingId) (data : Bytes)
  | drawerLoad (h : HostPort) (q : RingId) (data : Bytes)
  | objLoad (h : HostPort) (q : RingId) (data : Bytes)
  | rollLoad (h : HostPort) (q : RingId) (data : Bytes)
  | ringLaunch (h : HostPort) (q : RingId)
  | fabric (h : HostPort) (q : RingId) (data : Bytes)
  | maintReq (h : HostPort) (q : RingId)
  | secGetChain (h : HostPort) (q : RingId)
  | secAttest (h : HostPort) (q : RingId) (data : Bytes)
  | secExtend (h : HostPort) (q : RingId) (data : Bytes)
  | fmOpen (h : HostPort) (q : RingId) (data : Bytes)
  | fmFinish (h : HostPort) (q : RingId) (data : Bytes)
  | fmClose (h : HostPort) (q : RingId)
  | fmRead (h : HostPort) (q : RingId)
  | bar4Read (h : HostPort) (addr : Dword) (len : Nat) (tag : BitVec 16)
  | bar4Write (h : HostPort) (addr : Dword) (data : Bytes) (be : List Bool)
  | bar4Atomic (h : HostPort) (addr : Dword) (op : Fin 3) (data : Bytes) (tag : BitVec 16)
  | bar4Complete (h : HostPort)
  | hostPortDown (h : HostPort)
  | ringsQuiesced (h : HostPort)
  | hostClrCounters (h : HostPort)
  -- 15 security
  | secLock (h : HostPort) (v : Word)
  | secClrCounters (h : HostPort)
  -- 16 faults
  | faultFenceSet (h : HostPort) (mask : Dword)
  | fenceTakesEffect (part : Fin 64)
  | faultLift (h : HostPort) (mask : Dword)
  | fenceLiftEffect (part : Fin 64)
  | faultOfflineWrite (h : HostPort) (word : Fin 8) (v : Word)
  | maintActivityAsk (cls : Fin 10) (kind : Fin 16) (unit : Nat)
  | maintActivityEnd (cls : Fin 10) (kind : Fin 16) (unit : Nat)
  | maintReqTimeout (h : HostPort)
  -- 17 power-up
  | resetCold (h : HostPort) (v : Word)
  | resetWarm (h : HostPort) (v : Word)
  | forceRecovery (h : HostPort) (v : Word)
  | portReset (h : HostPort) (kind : PortResetKind)
  | romStartDone (pass : Bool)
  | spiReadDone (image : Bytes) (answered : Bool)
  | bootClaim (h : HostPort)
  | recoverGo (h : HostPort) (program : Bool)
  | fwStartDone (stacksReady : BitVec 8)
  | keygenDone (entropyPass : Bool)
  | bootBistDone (benchFail : BitVec 168) (ok : Bool)
  | proceed (h : HostPort)
  | shutdownGo (h : HostPort) (v : Word)
  -- 18 test
  | testLbStart (h : HostPort) (p : Port) (depth : BitVec 2)
  | testLbStop (h : HostPort)
  | testHlbStart (h : HostPort) (port : HostPort) (depth : BitVec 2)
  | testHlbStop (h : HostPort)
  | echoRequest (l : LinkId)
  | bist (kind : Fin 16) (unit : Nat) (pass : Bool) (detail : Word) (line : Dword)
  | linkRecal (p : Port)
  | trcCfgWrite (h : HostPort) (buf : Fin 4) (v : Word)
  | jtagInstructionLoad (instr : JtagInstr)
  -- 19 module
  | sensorRead (sweep : SensorSweep)
  | hostCompletionTimeout (h : HostPort) (q : RingId)
  | stackPhyRetrain (k : StackId)
  -- commands without operands, in the table's order
  | bellSlotAdvance
  | jobViewCopy
  | bellFrameSend
  | missingFrame
  | ringOpen
  | holdoverExpiry
  | electionEntry
  | singleCardSelfMaster
  | bellReadyChange
  | refLost
  | refAppear
  | ppsEdge
  | soCommitPoint
  | timetableSwitchOver
  | msgDeliver
  | fabricLaunch
  | poolInitDone
  | promoteTimeout
  | pressureSweep
  | reportCardRebuild
  | orderFlushRange
  | orderRelease
  | orderReleaseRange
  | orderFence
  | guardSetEmpty
  | guardTimeout
  | dirGetS
  | dirGetM
  | dirUpgrade
  | dirPutE
  | dirPutM
  | dirInvAck
  | dirRecallAck
  | dirRecallData
  | dirAgeFreeze
  | rollRead
  | rollCommit
  | rollOffer
  | rollWithdraw
  | rollTake
  | rollClaim
  | rollClose
  | rollAttend
  | rollWatch
  | rollHeartbeat
  | rollAgentDown
  | rollForward
  | rollTrim
  | heartbeatSend
  | contrib
  | deliver
  | pfxLookup
  | pfxInsert
  | entropyFail
  | auxGood
  | mainEnable
  | mainResetRelease
  | mainLoss
  | auxLoss
  | verifyDone
  | recoveryVerifyDone
  | bootStateTimeout
  | linkTrainingDone
  | bellWaitDone
  | bellSlow
  | shutdownDone
  | mgmtHeartbeat
  | watchdogExpiry
  | clearTrip
  deriving DecidableEq, Repr

end Sys2Proof
end

