-- ==== Sys2Proof/Decode.lean ====
section
/-!
DEFINITION. Words that spell commands. The command table gives no row any bits, so no word spells a command: the block
has no instruction encoding.
-/
namespace Sys2Proof

/-- The command that a word of `nbits` bits spells by the command table: none, since no row has bits. -/
def decodeTableWord (_nbits _w : Nat) : Option Instr := none

end Sys2Proof
end

