-- ==== Sys2Proof/Config.lean ====
section
/-!
DEFINITION. What the manual leaves to the implementation or to a published standard that it only names: free values and
functions, each an opaque constant without a body, so that no proof can rest on what they are. Each is named in the
assumption log.
-/
namespace Sys2Proof.Config

/-- The n-th free value the model draws: a bit vector of 64 bits about which nothing is known. -/
opaque freeValue : Nat → BitVec 64

/-- The n-th run of bytes that the manual leaves open, to a number of bytes. -/
opaque freeBytes : Nat → Nat → Bytes

/-- The rounding of an odd difference in the offset of R52, where the manual gives the division by 2 without one. -/
opaque offsetRoundsUp : Int → Bool

/-- SRC_UNIT of a completion of pool memory, for which R130 gives no unit number. -/
opaque memoryUnit : BitVec 10

/-- AES-256-GCM of a flit (R119): key, nonce (salt and flit number), associated data, payload: ciphertext and 64-bit tag. -/
opaque gcmSeal : BitVec 256 → Bytes → Bytes → Bytes → Bytes × Dword
/-- The inverse: the plaintext when the tag verifies. -/
opaque gcmOpen : BitVec 256 → Bytes → Bytes → Bytes → Dword → Option Bytes
/-- GMAC of a TIMESTAMP flit (R120): key, nonce, content. -/
opaque gmac : BitVec 256 → Bytes → Bytes → Dword

/-- Sealing of a plank for flash (R245): session root, drawer, shred count, tweak, stored plank: ciphertext and MAC. -/
opaque flashSeal : Bytes → Nat → Nat → Bytes → Bytes → Bytes × Bytes
/-- The inverse: the stored plank when the MAC verifies. -/
opaque flashOpen : Bytes → Nat → Nat → Bytes → Bytes → Bytes → Option Bytes

/-- SHAKE256 of an input, to a number of bytes (R488, R496, R533). -/
opaque shake256 : Bytes → Nat → Bytes
/-- Falcon-1024: signature by the identity key of a seed, over a message with a random draw (R484, R490). -/
opaque falconSign : Bytes → Bytes → BitVec 64 → Bytes
/-- Falcon-1024: whether a signature verifies under a public key. -/
opaque falconVerify : Bytes → Bytes → Bytes → Bool
/-- Falcon-1024: the public key of a seed. -/
opaque falconPublic : Bytes → Bytes
/-- Falcon-1024: the public key of the root whose SHAKE256 hash a trust table entry holds (R486, R487). -/
opaque rootPublic : Bytes → Bytes
/-- ML-KEM-1024: key generation from a draw: encapsulation key and secret. -/
opaque kemKeygen : BitVec 64 → Bytes × Bytes
/-- ML-KEM-1024: encapsulation to a key with a draw: ciphertext and shared secret. -/
opaque kemEncaps : Bytes → BitVec 64 → Bytes × Bytes
/-- ML-KEM-1024: decapsulation with a secret. -/
opaque kemDecaps : Bytes → Bytes → Bytes

/-- How a trust table entry is laid out for MEAS3 (R488): VALID, KINDS and hash. -/
opaque trustRecord : Bool → BitVec 8 → Bytes → Bytes
/-- How FM_READ lays out the snapshot of the TELEMETRY block and the four trace buffers (R502). -/
opaque telemetryImage : List (Nat × Nat) → Bytes
opaque traceImage : List (List Bytes) → Bytes
/-- AES-256-GCM of an FM_READ response (R502): key, nonce, data: ciphertext and 128-bit tag. -/
opaque gcmSeal128 : BitVec 256 → Bytes → Bytes → Bytes × BitVec 128
/-- GMAC of a tagged request (R501): key, nonce, descriptor bytes. -/
opaque gmac128 : BitVec 256 → Bytes → Bytes → BitVec 128

/-- Random bytes drawn from the entropy source (R494): the n-th draw, to a number of bytes. -/
opaque random : Nat → Nat → Bytes

/-- Contents of the one-time-programmable store and the boot ROM (R484, R529, R533): the device seed, the device and CA
certificates, the Malbex root hash, the ROM measurement, the firmware keys, the rollback floor, the revoked keys. -/
opaque otpSeed : Bytes
opaque deviceCert : Bytes
opaque caCert : Bytes
opaque malbexRootHash : Bytes
opaque romMeasurement : Bytes
opaque firmwareKey : Nat → Bytes
opaque rollbackFloor : Nat
opaque signerRevoked : Nat → Bool

end Sys2Proof.Config
end

