-- ==== Sys2Proof/Machine/Bits.lean ====
section
/-!
DEFINITION. Bytes, byte order (R4), bit fields, the cyclic redundancy checks (R39, R117, R137), and the transaction
header (R129) with its fields.
-/
namespace Sys2Proof

/-- The number that bytes spell, first byte least significant (R4). -/
def leNat : Bytes → Nat
  | [] => 0
  | b :: bs => b.toNat + 256 * leNat bs

/-- The first `n` little-endian bytes of a number (R4). -/
def leBytes : Nat → Nat → Bytes
  | 0, _ => []
  | n + 1, v => BitVec.ofNat 8 v :: leBytes n (v / 256)

/-- `n` bytes from offset `i`, zero past the end. -/
def byteRun (bs : Bytes) (i n : Nat) : Bytes :=
  let r := (bs.drop i).take n
  r ++ List.replicate (n - r.length) 0

/-- The little-endian number in `n` bytes from offset `i`, zero past the end. -/
def field (bs : Bytes) (i n : Nat) : Nat := leNat ((bs.drop i).take n)

/-- Bits [hi:lo] of a number. -/
def bits (v hi lo : Nat) : Nat := (v >>> lo) % 2 ^ (hi + 1 - lo)

/-- Bit `i` of a word as a Bool. -/
def bit {w : Nat} (v : BitVec w) (i : Nat) : Bool := v.getLsbD i

/-- Word with bit `i` set. -/
def setBit {w : Nat} (v : BitVec w) (i : Nat) : BitVec w := v ||| (BitVec.ofNat w 1 <<< i)

/-- Word with bit `i` cleared. -/
def clrBit {w : Nat} (v : BitVec w) (i : Nat) : BitVec w := v &&& ~~~(BitVec.ofNat w 1 <<< i)

/-- A Bool as a number. -/
def b2n (b : Bool) : Nat := if b then 1 else 0

/-- One byte of CRC-32C, reflected (R137: polynomial 0x1EDC_6F41). -/
def crc32cByte (c : Word) (b : Byte) : Word :=
  let x := c ^^^ b.setWidth 32
  (List.range 8).foldl (fun (x : Word) _ => if bit x 0 then (x >>> 1) ^^^ 0x82F63B78 else x >>> 1) x

/-- CRC-32C: initial value and final XOR all ones (R137). -/
def crc32c (bs : Bytes) : Word := (bs.foldl crc32cByte 0xFFFFFFFF) ^^^ 0xFFFFFFFF

/-- One byte of CRC-64 of ECMA-182, most significant bit first (R117). -/
def crc64Byte (c : Dword) (b : Byte) : Dword :=
  let x := c ^^^ (b.setWidth 64 <<< 56)
  (List.range 8).foldl (fun (x : Dword) _ => if bit x 63 then (x <<< 1) ^^^ 0x42F0E1EBA9EA3693 else x <<< 1) x

/-- CRC-64: initial value 0, no final XOR (R117). -/
def crc64 (bs : Bytes) : Dword := bs.foldl crc64Byte 0

/-- One byte of CRC-16 with polynomial 0x1021, most significant bit first (R39). -/
def crc16Byte (c : BitVec 16) (b : Byte) : BitVec 16 :=
  let x := c ^^^ (b.setWidth 16 <<< 8)
  (List.range 8).foldl (fun (x : BitVec 16) _ => if bit x 15 then (x <<< 1) ^^^ 0x1021 else x <<< 1) x

/-- CRC-16: initial value 0xFFFF, no final XOR (R39). -/
def crc16 (bs : Bytes) : BitVec 16 := bs.foldl crc16Byte 0xFFFF

/-- Header fields of R129. -/
def Frame.addr (f : Frame) : Dword := f.hdr.extractLsb' 192 64
def Frame.seq (f : Frame) : Word := f.hdr.extractLsb' 160 32
def Frame.aux (f : Frame) : BitVec 16 := f.hdr.extractLsb' 144 16
def Frame.len (f : Frame) : Nat := (f.hdr.extractLsb' 128 16).toNat
def Frame.dest (f : Frame) : BitVec 12 := f.hdr.extractLsb' 112 12
def Frame.srcSwitch (f : Frame) : BitVec 12 := f.hdr.extractLsb' 96 12
def Frame.srcUnit (f : Frame) : BitVec 10 := f.hdr.extractLsb' 80 10
def Frame.tag (f : Frame) : BitVec 9 := f.hdr.extractLsb' 64 9
def Frame.status (f : Frame) : BitVec 8 := f.hdr.extractLsb' 56 8
def Frame.job (f : Frame) : BitVec 12 := f.hdr.extractLsb' 44 12
def Frame.scope (f : Frame) : BitVec 2 := f.hdr.extractLsb' 42 2
def Frame.flags (f : Frame) : BitVec 8 := f.hdr.extractLsb' 32 8
def Frame.opcode (f : Frame) : BitVec 8 := f.hdr.extractLsb' 8 8
def Frame.ak (f : Frame) : Bool := bit f.hdr 2
def Frame.fmtGen (f : Frame) : BitVec 2 := f.hdr.extractLsb' 0 2

/-- Bits of the header that R129 reserves in every frame. -/
def hdrReserved : BitVec 256 :=
  (0xF <<< 124) ||| (0xF <<< 108) ||| (0x3F <<< 90) ||| (0x7F <<< 73) ||| (0x3 <<< 40) ||| (0xE0 <<< 32)
    ||| (0xFFFF <<< 16) ||| (0x1F <<< 3)

/-- The fields of a header that is to be sent (R129); FMT_GEN = 1 and reserved bits 0 are implied. -/
structure HdrFields where
  addr : Dword
  seq : Word
  aux : BitVec 16 := 0
  len : Nat := 0
  dest : BitVec 12
  srcSwitch : BitVec 12
  srcUnit : BitVec 10
  tag : BitVec 9
  status : BitVec 8 := 0
  job : BitVec 12
  scope : BitVec 2 := 0
  flags : BitVec 8 := 0
  opcode : BitVec 8
  ak : Bool := false
  deriving DecidableEq, Repr

/-- The 256 bits of a header (R129). -/
def HdrFields.pack (h : HdrFields) : BitVec 256 :=
  h.addr ++ h.seq ++ h.aux ++ BitVec.ofNat 16 h.len ++ (0 : BitVec 4) ++ h.dest ++ (0 : BitVec 4) ++ h.srcSwitch
    ++ (0 : BitVec 6) ++ h.srcUnit ++ (0 : BitVec 7) ++ h.tag ++ h.status ++ h.job ++ h.scope ++ (0 : BitVec 2)
    ++ h.flags ++ (0 : BitVec 16) ++ h.opcode ++ (0 : BitVec 5) ++ BitVec.ofBool h.ak ++ (1 : BitVec 2)

/-- The byte stream that the transaction check covers (R137), with the folded address of R138. -/
def checkStream (fold : Dword) (f : Frame) : Bytes :=
  leBytes 8 fold.toNat ++ leBytes 4 f.seq.toNat ++ leBytes 2 f.job.toNat ++ leBytes 32 f.hdr.toNat ++ f.payload

/-- The transaction check of a frame under a folded address (R137). -/
def txCheck (fold : Dword) (f : Frame) : Word := crc32c (checkStream fold f)

/-- A frame with its check computed on its own ADDR, as an originator sends it (R138). -/
def Frame.sealed (hdr : BitVec 256) (payload : Bytes) : Frame :=
  let f : Frame := ⟨hdr, payload, 0⟩
  { f with check := txCheck f.addr f }

/-- The check of a frame verifies with its own ADDR (R138). -/
def Frame.checkOk (f : Frame) : Bool := f.check == txCheck f.addr f

/-- The bytes of a frame in order (R128). -/
def Frame.toBytes (f : Frame) : Bytes := leBytes 32 f.hdr.toNat ++ f.payload ++ leBytes 4 f.check.toNat

/-- The frame that received bytes spell: header, what lies between, the last four bytes as the check (R128). -/
def Frame.ofBytes (bs : Bytes) : Frame :=
  let body := bs.drop 32
  ⟨BitVec.ofNat 256 (leNat (bs.take 32)), body.take (body.length - 4), BitVec.ofNat 32 (leNat (body.drop (body.length - 4)))⟩

/-- Flits of a frame with a payload of `len` bytes (R128). -/
def frameFlits (len : Nat) : Nat := (36 + len + 239) / 240

/-- A completion, rather than a request (R132). -/
def Frame.isCpl (f : Frame) : Bool := f.opcode == 0x80 || f.opcode == 0x81

end Sys2Proof
end

