-- ==== Sys2Proof/Machine/Tab.lean ====
section
/-!
DEFINITION. Sparse tables: a list of (key, value) pairs in one canonical form, keys strictly rising and no value equal
to what an unlisted key reads as. Registers, memory bytes, table entries and per-unit records are kept in this form,
so that equal contents are equal data.
-/
namespace Sys2Proof.Machine

/-- A sparse table over natural keys. `Host.Cell` lists are the case of bytes. -/
abbrev Tab (α : Type) := List (Nat × α)

/-- The listed value at a key. -/
def Tab.find {α : Type} : Tab α → Nat → Option α
  | [], _ => none
  | (k, v) :: t, i => if i = k then some v else Tab.find t i

/-- The value at a key, `d` where unlisted. -/
def Tab.get {α : Type} (d : α) (t : Tab α) (i : Nat) : α := (t.find i).getD d

/-- List a value at a key, keeping the keys rising. -/
def Tab.insert {α : Type} : Tab α → Nat → α → Tab α
  | [], i, v => [(i, v)]
  | (k, w) :: t, i, v =>
    if i < k then (i, v) :: (k, w) :: t
    else if i = k then (i, v) :: t
    else (k, w) :: Tab.insert t i v

/-- Unlist a key. -/
def Tab.erase {α : Type} (t : Tab α) (i : Nat) : Tab α := t.filter (fun p => p.1 != i)

/-- Write a value at a key of a table whose unlisted keys read as `d`. -/
def Tab.put {α : Type} [DecidableEq α] (d : α) (t : Tab α) (i : Nat) (v : α) : Tab α :=
  if v = d then t.erase i else t.insert i v

/-- Read, change, write back. -/
def Tab.modify {α : Type} [DecidableEq α] (d : α) (t : Tab α) (i : Nat) (f : α → α) : Tab α :=
  t.put d i (f (t.get d i))

/-- Write a run of values at consecutive keys, in one pass. -/
def Tab.putRun {α : Type} [DecidableEq α] (d : α) (t : Tab α) (i : Nat) (vs : List α) : Tab α :=
  t.filter (fun p => p.1 < i) ++ ((List.range' i vs.length).zip vs).filter (fun p => p.2 ≠ d)
    ++ t.filter (fun p => i + vs.length ≤ p.1)

/-- Read `n` values at consecutive keys. -/
def Tab.getRun {α : Type} (d : α) (t : Tab α) (i n : Nat) : List α :=
  (List.range n).map (fun j => t.get d (i + j))

/-- `n` values at consecutive keys, in one pass. -/
def Tab.window {α : Type} (d : α) (t : Tab α) (i n : Nat) : Array α :=
  t.foldl (fun a p => if i ≤ p.1 && p.1 < i + n then a.setIfInBounds (p.1 - i) p.2 else a) (Array.replicate n d)

/-- Unlist every key from `lo` to `hi - 1`, so that they read as the default. -/
def Tab.clearRange {α : Type} (t : Tab α) (lo hi : Nat) : Tab α :=
  t.filter (fun p => p.1 < lo || hi ≤ p.1)

/-- The keys rise strictly. -/
def Tab.rising {α : Type} : Tab α → Bool
  | [] => true
  | [_] => true
  | (k, _) :: (l, w) :: t => k < l && Tab.rising ((l, w) :: t)

/-- The canonical form of a table whose unlisted key k reads as `d k`. -/
def Tab.wf {α : Type} [DecidableEq α] (d : Nat → α) (t : Tab α) : Bool :=
  t.rising && t.all (fun p => decide (p.2 ≠ d p.1))

end Sys2Proof.Machine
end

