-- ==== Sys2Proof/Machine/BellState.lean ====
section
/-!
DEFINITION. State of the bell (02 R35 to R57) and of the timetable (02 R58 to R84), as plain data.
-/
namespace Sys2Proof.Machine

/-- A point of bell time, the triple (term, period, slot) of R11. -/
structure BellTime where
  term : BitVec 40
  period : BitVec 16
  slot : BitVec 8
  deriving DecidableEq, Repr

/-- The 64-bit timestamp of R12. -/
def BellTime.stamp (t : BellTime) : Dword := t.term ++ t.period ++ t.slot

/-- The point a timestamp of R12 names. -/
def BellTime.ofStamp (d : Dword) : BellTime :=
  ⟨d.extractLsb' 24 40, d.extractLsb' 8 16, d.extractLsb' 0 8⟩

/-- R11: one point is earlier than another. -/
def BellTime.earlier (a b : BellTime) : Bool :=
  a.term < b.term ||
    (a.term == b.term && (a.period < b.period || (a.period == b.period && a.slot < b.slot)))

/-- The first slot of a period. -/
def BellTime.at0 (term : BitVec 40) (period : BitVec 16) : BellTime := ⟨term, period, 0⟩

/-- The lock states of R44. -/
inductive Lock where
  | unlocked
  | coarse
  | locked
  | holdover
  deriving DecidableEq, Repr

/-- LOCK_STATE as R44 codes it. -/
def Lock.code : Lock → BitVec 2
  | .unlocked => 0
  | .coarse => 1
  | .locked => 2
  | .holdover => 3

/-- A count that a switch has taken, and the term length it takes with it (R36); in effect at the next boundary. -/
structure Jump where
  term : BitVec 40
  period : BitVec 16
  /-- Term length in periods. -/
  len : Nat
  deriving DecidableEq, Repr

/-- A timetable switch-over announcement (R39 SO fields, R76). -/
structure Announce where
  tag : Word
  /-- Term length of the announced bank in periods. -/
  len : Nat
  term : BitVec 40
  period : BitVec 16
  /-- Past the commit point (R78). -/
  committed : Bool
  deriving DecidableEq, Repr

/-- What a time-link port remembers of its timestamp exchange (R52, R123). -/
structure TimeLink where
  /-- TX_TIME and TX_SUB of the last TIMESTAMP flit received. -/
  peerTx : Dword
  peerSub : BitVec 8
  /-- Receive time and fraction of that flit here. -/
  rxTime : Dword
  rxSub : BitVec 6
  /-- TX_TIME and TX_SUB of the last TIMESTAMP flit sent. -/
  txTime : Dword
  txSub : BitVec 6
  /-- A flit has been received and sent in this session. -/
  received : Bool
  sent : Bool
  /-- SENDER_STATE of the last flit received (R123). -/
  peerState : BitVec 8
  /-- Boundaries passed when the last flit was sent (R51: every 16 periods). -/
  lastSend : Nat
  deriving DecidableEq, Repr

/-- No exchange yet. -/
def TimeLink.reset : TimeLink := ⟨0, 0, 0, 0, 0, 0, false, false, 0, 0⟩

/-- The bell logic (R35 to R57). -/
structure Bell where
  /-- The bell count (R35). -/
  now : BellTime
  /-- Term length in force, in periods (R36, R37, R80). -/
  len : Nat
  /-- Slots since the management island left reset: the model's own measure of elapsed time. -/
  ticks : Nat
  /-- Period boundaries passed since then; every age in periods counts these (R150). -/
  bounds : Nat
  lock : Lock
  master : Bool
  /-- In election (R48), and the state before it. -/
  election : Bool
  before : Lock
  /-- Boundaries passed when election was entered (R27). -/
  electAt : Nat
  /-- A count to be taken at the next period boundary (R36). -/
  jump : Option Jump
  /-- Becomes master at the next boundary (R50). -/
  takeMaster : Bool
  /-- Consecutive good frames (R44). -/
  goodRun : Nat
  /-- Consecutive own frames that returned in election (R48). -/
  ownRun : Nat
  /-- Consecutive missing frames (R44). -/
  missRun : Nat
  /-- Consecutive exchanges within 4 ns (R44). -/
  fineRun : Nat
  /-- Boundaries passed at the last good frame, or where R565 restarts the count. -/
  goodAt : Nat
  /-- Boundaries passed when HOLDOVER was entered. -/
  holdAt : Nat
  /-- Boundaries passed when mastership began, and at the last return of an own frame (R43). -/
  masterAt : Nat
  returnAt : Nat
  /-- The arrival phase of the marker is tracked (R42). -/
  tracked : Bool
  /-- A frame with a bad CRC16 arrived in this and in the previous period (R40). -/
  crcThis : Bool
  crcPrev : Bool
  /-- The last forwarded period carried no frame, so the next frame sets CRC_SEEN (R41). -/
  crcNext : Bool
  /-- Last good frame since the switch last left UNLOCKED (R41). -/
  lastGood : Option (BitVec 272)
  /-- Last good own frame returned in this mastership (R49). -/
  lastReturn : Option (BitVec 272)
  /-- The last good frame received named this switch in BACKUP_SWITCH (R49). -/
  backup : Bool
  /-- HEALTH last received (R87). -/
  health : BitVec 16
  /-- BELL_READY driven (R45). -/
  ready : Bool
  /-- A reference is present on BELL_REF (R55). -/
  refPresent : Bool
  /-- The frame of this period has been sent (R38). -/
  sentThis : Bool
  /-- The time parent's count is known (R36 case 3). -/
  parentKnown : Bool
  /-- SO_NACK seen in a frame that returned to this child-ring master (R77). -/
  childNack : Bool
  /-- Time-link state by port. -/
  timeLinks : Tab TimeLink
  deriving DecidableEq, Repr

/-- R35, R37, R44: at management reset the count is (0, 0, 0), the term length 65,536, the state UNLOCKED. -/
def Bell.reset : Bell where
  now := ⟨0, 0, 0⟩
  len := 65536
  ticks := 0
  bounds := 0
  lock := .unlocked
  master := false
  election := false
  before := .unlocked
  electAt := 0
  jump := none
  takeMaster := false
  goodRun := 0
  ownRun := 0
  missRun := 0
  fineRun := 0
  goodAt := 0
  holdAt := 0
  masterAt := 0
  returnAt := 0
  tracked := false
  crcThis := false
  crcPrev := false
  crcNext := false
  lastGood := none
  lastReturn := none
  backup := false
  health := 0
  ready := false
  refPresent := false
  sentThis := false
  parentKnown := false
  childNack := false
  timeLinks := []

/-- A pending local switch-over (R82): the period it takes effect. -/
structure Point where
  term : BitVec 40
  period : BitVec 16
  deriving DecidableEq, Repr

/-- The timetable (R58 to R84). Tables are keyed by kind, number and entry: see `ttKey`. -/
structure Timetable where
  /-- The entries of banks 0 and 1, 128 bits each, unlisted 0 (R58, R73). -/
  bank0 : Tab (BitVec 128)
  bank1 : Tab (BitVec 128)
  /-- Bank 1 is active (TT_STATUS.ACTIVE_BANK). -/
  active : Bool
  activeTag : Word
  /-- Term length of the active bank (R37). -/
  activeLen : Nat
  /-- Tag and term length of the armed bank (R75). -/
  armed : Option (Word × Nat)
  /-- The announcement this switch makes, receives or copies (R75 to R77). -/
  ann : Option Announce
  /-- No scheduled work after a missed switch-over (R80). -/
  missed : Bool
  /-- OVERLAP has been raised for bank 0, bank 1 (R67: once per bank). -/
  overlap0 : Bool
  overlap1 : Bool
  /-- Gate state of each port, bit c for class c; unlisted all open (R69). -/
  gates : Tab (BitVec 8)
  /-- Boundaries passed at the last switch-over (R81). -/
  soAt : Nat
  /-- Armed points of the local table sets (R82). -/
  armMort : Option Point
  armDrawer : Option Point
  armObj : Option Point
  armRoll : Option Point
  deriving DecidableEq, Repr

/-- R37, R58, R69. -/
def Timetable.reset : Timetable where
  bank0 := []
  bank1 := []
  active := false
  activeTag := 0
  activeLen := 65536
  armed := none
  ann := none
  missed := false
  overlap0 := false
  overlap1 := false
  gates := []
  soAt := 0
  armMort := none
  armDrawer := none
  armObj := none
  armRoll := none

/-- Key of a timetable entry: kind 0 port, 1 bench, 2 network unit (R58). -/
def ttKey (kind num entry : Nat) : Nat := (kind * 256 + num) * 8192 + entry

end Sys2Proof.Machine
end

