-- ==== Sys2Proof/Machine/BootState.lean ====
section
/-!
DEFINITION. State of power-up and the boot (17 R525 to R538), of test and trace (18 R539 to R553) and of the module's
sensors and pins (19 R554 to R564).
-/
namespace Sys2Proof.Machine

/-- The boot states of R529. -/
inductive BootSt where
  | auxOnly
  | romStart
  | spiRead
  | verify
  | recoveryWait
  | recoveryVerify
  | fwStart
  | keygen
  | bist
  | configure
  | linkTraining
  | bellWait
  | timetable
  | poolInit
  | run
  | failed
  | shutdown
  | off
  deriving DecidableEq, Repr

/-- STATE as R529 codes it. -/
def BootSt.code : BootSt → Nat
  | .auxOnly => 0x00
  | .romStart => 0x01
  | .spiRead => 0x02
  | .verify => 0x03
  | .recoveryWait => 0x04
  | .recoveryVerify => 0x05
  | .fwStart => 0x06
  | .keygen => 0x07
  | .bist => 0x08
  | .configure => 0x09
  | .linkTraining => 0x0A
  | .bellWait => 0x0B
  | .timetable => 0x0C
  | .poolInit => 0x0D
  | .run => 0x0E
  | .failed => 0x0F
  | .shutdown => 0x10
  | .off => 0x11

/-- The reset kinds that restart the boot (R527, R528). -/
inductive ResetKind where
  | cold
  | warm
  deriving DecidableEq, Repr

/-- A reset asked for and not yet performed (R528: it starts 1 us after the write). -/
structure PendingReset where
  kind : ResetKind
  /-- RESET_CAUSE bits it sets. -/
  cause : Word
  force : Bool
  /-- Ticks when it was asked for. -/
  at_ : Nat
  deriving DecidableEq, Repr

/-- Supplies and boot (R525 to R538). -/
structure Boot where
  /-- The auxiliary supply is good and the management island is out of reset. -/
  auxGood : Bool
  /-- Main rails within regulation: PWR_GOOD driven. -/
  pwrGood : Bool
  /-- A main loss has occurred since the auxiliary supply became good (R525). -/
  lossSeen : Bool
  /-- A boundary-scan instruction holds the main domain in cold reset (R552). -/
  held : Bool
  state : BootSt
  failCause : BitVec 8
  bellSlow : Bool
  recoveryIgnored : Bool
  wdogSeen : Bool
  /-- Ticks at entry into the state, and at the last cold or warm reset (R529). -/
  enteredAt : Nat
  resetAt : Nat
  /-- Boundaries passed at entry into the state. -/
  enteredBound : Nat
  /-- FORCE_RECOVERY asked for the boot now running (R531). -/
  force : Bool
  claim : Option HostPort
  program : Bool
  /-- The recovery staging buffer (R531), and the image now being verified. -/
  staging : Tab Byte
  image : Bytes
  /-- The session root, empty where there is none (R491). -/
  root : Bytes
  /-- SW_IDENTITY as fixed at PROCEED (R27). -/
  identity : Option Word
  /-- Watchdog: running, boundaries passed when it was last restarted (R535). -/
  wdogOn : Bool
  wdogAt : Nat
  pendReset : Option PendingReset
  /-- The last start was preceded by a shutdown (RESET_CAUSE.SHUTDOWN). -/
  shutDown : Bool
  deriving DecidableEq, Repr

/-- Unpowered. -/
def Boot.reset : Boot where
  auxGood := false
  pwrGood := false
  lossSeen := false
  held := false
  state := .auxOnly
  failCause := 0
  bellSlow := false
  recoveryIgnored := false
  wdogSeen := false
  enteredAt := 0
  resetAt := 0
  enteredBound := 0
  force := false
  claim := none
  program := false
  staging := []
  image := []
  root := []
  identity := none
  wdogOn := false
  wdogAt := 0
  pendReset := none
  shutDown := false

/-- A port loop-back (R539 to R542). -/
structure Loopback where
  port : Port
  depth : BitVec 2
  running : Bool
  refused : Bool
  locked : Bool
  deriving DecidableEq, Repr

/-- A host port loop-back (R543). -/
structure HostLoopback where
  port : HostPort
  depth : BitVec 2
  running : Bool
  refused : Bool
  locked : Bool
  deriving DecidableEq, Repr

/-- Capture state of a trace buffer (R551). -/
inductive TraceSt where
  | idle
  | capturing
  | triggered
  | stopped
  deriving DecidableEq, Repr

/-- One trace buffer (R550, R551). -/
structure Trace where
  state : TraceSt
  /-- Entries of 32 bytes, oldest first, at most 2,048. -/
  entries : List Bytes
  /-- Entries still to be taken after the trigger. -/
  post : Nat
  deriving DecidableEq, Repr

/-- Idle and empty. -/
def Trace.reset : Trace := ⟨.idle, [], 0⟩

/-- Test and trace (R539 to R553). -/
structure Test where
  lb : Loopback
  hlb : HostLoopback
  /-- The 32 KiB echo buffer of depth 3 (R542), and the 64 KiB one of the host loop-back (R543). -/
  echo : Tab Byte
  hostEcho : Tab Byte
  trace : Tab Trace
  /-- Margin scans that run, by port and lane (R124). -/
  scans : List (Port × Fin 4)
  /-- The boundary-scan instruction in force (R552). -/
  jtag : JtagInstr
  deriving DecidableEq, Repr

/-- Nothing looped; IDCODE is the instruction after a test reset (IEEE 1149.1, which R552 names). -/
def Test.reset : Test where
  lb := ⟨0, 0, false, false, false⟩
  hlb := ⟨.a, 0, false, false, false⟩
  echo := []
  hostEcho := []
  trace := []
  scans := []
  jtag := .idcode

/-- Sensors, power and pins of the module (R560 to R564). -/
structure Module where
  /-- THERM_ALERT_N and THERMTRIP_N driven low. -/
  alert : Bool
  trip : Bool
  /-- 1 + the boundaries passed at the last sensor sweep, 0 before it (R562); boundaries passed at the last copy of power (R504). -/
  sweepAt : Nat
  powerAt : Nat
  /-- Full-resolution power in W and energy in nJ (R502, R564). -/
  pin : Nat
  paux : Nat
  energy : Nat
  deriving DecidableEq, Repr

/-- Before the first sweep. -/
def Module.reset : Module := ⟨false, false, 0, 0, 0, 0, 0⟩

end Sys2Proof.Machine
end

