-- ==== Sys2Proof/Machine/HostState.lean ====
section
/-!
DEFINITION. State of the host ports and rings (14 R451 to R483), of the fabric-manager sessions (15 R500 to R502), and
of fences and the maintenance arbiter (16 R507 to R524). Ring heads, tails, bases and configurations are registers
(R482) and live in the register file; here stands what those registers do not hold.
-/
namespace Sys2Proof.Machine

/-- RING_STATE of HOST_STATUS (R482). -/
inductive RingState where
  | active
  | quiescing
  | quiesced
  | adopted
  deriving DecidableEq, Repr

/-- RING_STATE as R482 codes it. -/
def RingState.code : RingState → BitVec 4
  | .active => 0
  | .quiescing => 1
  | .quiesced => 2
  | .adopted => 3

/-- A fetched descriptor that has not completed (R462, R463). -/
structure Desc where
  /-- Number of the descriptor, for the model's own reference. -/
  id : Nat
  sq : RingId
  /-- The CQ in which its final entry is reserved (R463). -/
  cq : RingId
  /-- Its 64 bytes (R469). -/
  bytes : Bytes
  started : Bool
  /-- Boundaries passed when it started. -/
  startedAt : Nat
  /-- An interim MAINT_PENDING entry has been handled (R467). -/
  interim : Bool
  /-- Progress count of the work it named (planks, bytes). -/
  progress : Nat
  deriving DecidableEq, Repr

/-- A completion entry kept in the held store (R464): the ring, the 32 bytes with PHASE 0, and whether an operator posted it. -/
structure Held where
  cq : RingId
  entry : Bytes
  operator : Bool
  deriving DecidableEq, Repr

/-- Kinds of BAR4 access (R456). -/
inductive Bar4Kind where
  | read
  | write
  | atomic
  deriving DecidableEq, Repr

/-- A BAR4 access in flight (R456, R457). -/
structure Bar4 where
  id : Nat
  kind : Bar4Kind
  offset : Dword
  /-- PCI Express tag of the requester. -/
  tag : BitVec 16
  len : Nat
  /-- Requests not yet completed. -/
  open_ : Nat
  /-- Status and data of each request, in line order. -/
  results : List (Option (BitVec 8 × Bytes))
  deriving DecidableEq, Repr

/-- Fabric-manager session of a host port (R500 to R502). -/
structure FmSession where
  /-- An FM_OPEN waits for its FM_FINISH. -/
  opened : Bool
  /-- The port holds the role. -/
  role : Bool
  g1 : Bytes
  g2 : Bytes
  k : Bytes
  /-- The fabric manager's leaf certificate. -/
  leaf : Bytes
  /-- Last REQ_COUNT accepted (R501). -/
  reqCount : Nat
  /-- Responses of FM_READ sent in this session (R502). -/
  respCount : Nat
  deriving DecidableEq, Repr

/-- No session. -/
def FmSession.reset : FmSession := ⟨false, false, [], [], [], [], 0, 0⟩

/-- One host port and the ring set of its host (R451 to R481). -/
structure HostSide where
  /-- Data link up, PERSTn_N asserted, function in D3hot (R476), trained width and rate (R482). -/
  dlUp : Bool
  perst : Bool
  d3hot : Bool
  width : BitVec 4
  rate : BitVec 4
  ring : RingState
  flight : List Desc
  nextId : Nat
  /-- Entries of each CQ reserved for final completions (R463). -/
  reserved : Tab Nat
  /-- Unsignalled entries by ring (64 is the event ring) and boundaries passed at the oldest (R465). -/
  unsig : Tab (Nat × Nat)
  held : List Held
  /-- LOST is to be set in the next event entry (R475). -/
  lost : Bool
  /-- SQ that the fetch round robin served last (R481). -/
  lastSq : RingId
  /-- Entries written whose readback has not completed, by ring (R466). -/
  readback : Tab Nat
  /-- HRDY pin driven low (R466). -/
  hrdy : Bool
  bar4 : List Bar4
  nextBar4 : Nat
  fm : FmSession
  deriving DecidableEq, Repr

/-- Before the host links train: data link down, rings ACTIVE with every ring disabled (R482). -/
def HostSide.reset : HostSide where
  dlUp := false
  perst := false
  d3hot := false
  width := 0
  rate := 0
  ring := .active
  flight := []
  nextId := 0
  reserved := []
  unsig := []
  held := []
  lost := false
  lastSq := 63
  readback := []
  hrdy := false
  bar4 := []
  nextBar4 := 0
  fm := FmSession.reset

/-- A maintenance activity (R516). -/
structure Activity where
  cls : Fin 10
  /-- UNIT_KIND of R520: 1 port, 2 stack, 3 tray, 4 bench, 5 network unit, 7 directory, 8 object, 9 basis stream. -/
  kind : Fin 16
  unit : Nat
  arg : Dword
  /-- The descriptor that waits for it, if any. -/
  desc : Option (HostPort × Nat)
  /-- Boundaries passed when it was requested; once it runs, when it started. -/
  at_ : Nat
  /-- It has asked and been deferred: it is PENDING (R518), and the ticks when it last asked. -/
  pending : Bool
  askedAt : Nat
  /-- Its work is done, with this status; it ends by its own command (R518). -/
  result : Option (BitVec 8)
  /-- Planks, lines or lanes done. -/
  progress : Nat
  deriving DecidableEq, Repr

/-- Fences and maintenance (R507 to R524). -/
structure Faults where
  /-- FAULT_FENCE: partitions fenced; for those that a write has asked to fence or to lift, 1 + the boundaries passed then
  (R509, R510). -/
  fenced : BitVec 64
  fencePend : Tab Nat
  liftPend : Tab Nat
  /-- Running activities, and those requested and not running, in the order in which they asked (R518). -/
  running : List Activity
  waiting : List Activity
  deriving DecidableEq, Repr

/-- Nothing fenced, nothing running. -/
def Faults.reset : Faults := ⟨0, [], [], [], []⟩

end Sys2Proof.Machine
end

