-- ==== Sys2Proof/Machine/LinkState.lean ====
section
/-!
DEFINITION. State of the Thoade links (03 R89 to R127, 15 R495 to R498) and of the switch core (05 R158 to R184).
-/
namespace Sys2Proof.Machine

/-- The training states of R98. -/
inductive Train where
  | disabled
  | detect
  | eqLow
  | laneMap
  | version
  | eqFull
  | secure
  | config
  | active
  | recovery
  | fenced
  | loopback
  deriving DecidableEq, Repr

/-- STATE as R98 codes it. -/
def Train.code : Train → BitVec 4
  | .disabled => 0
  | .detect => 1
  | .eqLow => 2
  | .laneMap => 3
  | .version => 4
  | .eqFull => 5
  | .secure => 6
  | .config => 7
  | .active => 8
  | .recovery => 9
  | .fenced => 10
  | .loopback => 11

/-- Key and salt of one direction of a link (R119, R496). -/
structure KeyDir where
  key : BitVec 256
  salt : Word
  deriving DecidableEq, Repr

/-- Link key material (R496, R498): 136 bytes K, from which each direction's key and the chaining value come. -/
structure LinkKey where
  tx : KeyDir
  rx : KeyDir
  chain : Bytes
  deriving DecidableEq, Repr

/-- The key exchange of a link (R495 to R498). -/
structure Kex where
  /-- This side is the initiator. -/
  initiator : Bool
  /-- Whole messages sent (MSG and content) since the peer last sent something new, and the tick of the last of these. -/
  sent : List (BitVec 8 × Bytes)
  lastTick : Nat
  /-- Whole messages assembled and not yet acted on. -/
  inbox : List (BitVec 8 × Bytes)
  helloOwn : Bytes
  helloPeer : Bytes
  /-- The peer's chain has passed R486. -/
  peerOk : Bool
  /-- The peer's leaf certificate. -/
  peerLeaf : Bytes
  /-- Encapsulation key and its secret half, where this side generated them. -/
  ek : Bytes
  dk : Bytes
  h1 : Bytes
  h2 : Bytes
  /-- K of R496 once known. -/
  k : Option Bytes
  finSent : Bool
  finGot : Bool
  /-- The exchange has stopped (R497, R494). -/
  stopped : Bool
  /-- Fragments of the message now arriving: MSG, fragment count, (index, bytes) (R495). -/
  fragMsg : BitVec 8
  fragCount : Nat
  frags : Tab Bytes
  /-- A rekey this side started: its encapsulation key and secret (R498). -/
  rekeyEk : Bytes
  rekeyDk : Bytes
  rekeyOwn : Bool
  deriving DecidableEq, Repr

/-- No exchange. -/
def Kex.reset : Kex :=
  ⟨false, [], 0, [], [], [], false, [], [], [], [], [], none, false, false, false, 0, 0, [], [], [], false⟩

/-- A frame that is arriving on a link (R106). -/
structure Arriving where
  cls : Cls
  /-- Content bytes of the flits accepted. -/
  bytes : Bytes
  flits : Nat
  /-- LAST has been accepted. -/
  whole : Bool
  /-- The frame has been admitted to a queue entry of this number, or is being dropped. -/
  entry : Option Nat
  dropped : Bool
  /-- Tick and bell time at which the first flit was accepted. -/
  tick : Nat
  stamp : Dword
  deriving DecidableEq, Repr

/-- A link-layer flit waiting for rank 1 of R172: type and payload content. -/
structure CtlFlit where
  type : BitVec 4
  content : Bytes
  deriving DecidableEq, Repr

/-- A DATA flit that a far-end loop-back sends to the peer: its class, FIRST, LAST and content (R539, R542). -/
structure EchoFlit where
  cls : Cls
  first : Bool
  last : Bool
  content : Bytes
  deriving DecidableEq, Repr

/-- One link (R89, R90): a port, or a half of a split port. -/
structure Link where
  train : Train
  /-- Ticks when the state was entered (R98 timeouts). -/
  enteredAt : Nat
  /-- PORT_CFG as read when the link last left DISABLED or DETECT (R94, R125). -/
  cfg : Word
  /-- Trained width, coded as MIN_WIDTH (R92). -/
  width : BitVec 2
  degraded : Bool
  /-- The port runs a loop-back at depth 2 or 3: the training state is its SUBSTATE (R540). -/
  looped : Bool
  /-- Credits advertised to the peer in CONFIG, by class (R107). -/
  adv : Vector Nat 8
  /-- Lanes that pass equalization. -/
  lanes : BitVec 16
  v09 : Bool
  fecLL : Bool
  encrypted : Bool
  /-- The peer's capability block. -/
  peer : Option PeerCaps
  /-- FENCED was entered by PARTITION_MISMATCH (R508). -/
  fencedByMismatch : Bool
  /-- Credits held from the peer, by class (R108). -/
  credits : Vector Nat 8
  /-- Credits to be returned to the peer, by class. -/
  owed : Vector Nat 8
  /-- Next roll-call count as a sender: sequenced flits since CONFIG (R119: its low 16 bits are ROLL_CALL). -/
  txNext : Nat
  /-- Stored flits not yet acknowledged, oldest first (R112). -/
  replay : List Flit
  /-- Flit number of the first stored flit. -/
  replayBase : Nat
  /-- Flit number to be re-sent next, while a replay runs. -/
  replayPos : Option Nat
  /-- Flits accepted in order since CONFIG; the expected count is its low 16 bits (R110). -/
  rxNext : Nat
  /-- Replay wait, requests made for this count, and the tick of the last request or acceptance (R111). -/
  waiting : Bool
  reqs : Nat
  waitTick : Nat
  /-- Ticks when a sequenced flit with an advancing count was last accepted (R114). -/
  aliveAt : Nat
  /-- Uncorrectable codewords and tag failures counted in the period that began at this boundary (R102, R121). -/
  errBound : Nat
  uncorr : Nat
  tagFails : Nat
  /-- Count asked for by a REPLAY_REQ received and not yet acted on (R112). -/
  reqIn : Option (BitVec 16)
  /-- TIMESTAMP payload received and not yet acted on, with its receive time (R123). -/
  tsIn : Option (Bytes × Dword)
  /-- LINK_CTL announcement received and not yet acted on (R122): the flit number. -/
  ctlIn : Option Nat
  /-- Link-layer flits waiting to leave (R172 rank 1). -/
  ctlOut : List CtlFlit
  /-- A TIMESTAMP flit is due (R51). -/
  tsDue : Bool
  /-- Link key in use and the key agreed for later (R122). -/
  key : Option LinkKey
  nextKey : Option LinkKey
  /-- KEY_PHASE of `key`: 0 none, 1, 2 (R103, R122); the next key takes the other of 1 and 2. -/
  phase : BitVec 2
  /-- Flits accepted under the next key. -/
  rxNew : Nat
  /-- Flit number from which the next key applies (R122); the peer's flits name theirs by KEY_PHASE. -/
  txSwitch : Option Nat
  /-- Flit number at which the present key began (R122: 2^32 flits). -/
  keyBase : Nat
  /-- Timestamp counters of R120: TIMESTAMP flits sent, and arrived. -/
  tsCount : Nat
  tsArrived : Nat
  kex : Kex
  /-- Frames arriving, in order of their first flits. -/
  arriving : List Arriving
  /-- MSG and DELIVER frames sent whose last flit the peer has not acknowledged: entry number and flit number (R133). -/
  unacked : List (Nat × Nat)
  /-- Flits that a loop-back at depth 2 or 3 has still to send (R539, R542). -/
  echo : List EchoFlit
  deriving DecidableEq, Repr

/-- R98: a link is in DISABLED after reset. -/
def Link.reset : Link where
  train := .disabled
  enteredAt := 0
  cfg := 0
  width := 0
  degraded := false
  looped := false
  adv := Vector.replicate 8 0
  lanes := 0
  v09 := false
  fecLL := false
  encrypted := false
  peer := none
  fencedByMismatch := false
  credits := Vector.replicate 8 0
  owed := Vector.replicate 8 0
  txNext := 0
  replay := []
  replayBase := 0
  replayPos := none
  rxNext := 0
  waiting := false
  reqs := 0
  waitTick := 0
  aliveAt := 0
  errBound := 0
  uncorr := 0
  tagFails := 0
  reqIn := none
  tsIn := none
  ctlIn := none
  ctlOut := []
  tsDue := false
  key := none
  nextKey := none
  phase := 0
  rxNew := 0
  txSwitch := none
  keyBase := 0
  tsCount := 0
  tsArrived := 0
  kex := Kex.reset
  arriving := []
  unacked := []
  echo := []

/-- Where a queued frame is bound (R160, R161). -/
inductive Dest where
  /-- A virtual output queue toward a port. -/
  | port (p : Port)
  /-- The local queue, toward the mortise check. -/
  | home
  deriving DecidableEq, Repr

/-- One frame in a queue of the switch core (R160). The queues of all inputs are one list in order of entry; the
queue of an input, output and class is its sublist. -/
structure QEntry where
  /-- Number of the entry, for the model's own reference. -/
  id : Nat
  input : InputId
  /-- It arrived on half 1 of a split port. -/
  half1 : Bool
  dest : Dest
  /-- The half of a split egress port it is bound for, where that is known. -/
  toHalf1 : Option Bool
  cls : Cls
  /-- Header, and all content bytes accepted so far (header included). -/
  hdr : BitVec 256
  bytes : Bytes
  /-- Flits accepted and whether LAST is among them. -/
  flits : Nat
  whole : Bool
  /-- Closed short: its ingress lost the rest (R170). -/
  short : Bool
  /-- Store-and-forward (R167, R169), and eligible (R168, R169). -/
  saf : Bool
  eligible : Bool
  /-- Flits sent on the egress, and the tick at which the last of them left. -/
  sent : Nat
  lastAt : Nat
  /-- Tick at which the first flit was accepted, boundaries passed and term length then (R166, R173). -/
  tick : Nat
  bound : Nat
  len : Nat
  /-- It crossed a timetable switch-over (R81, R166). -/
  crossed : Bool
  /-- A gateway has let it past (R275). -/
  past : Bool
  deriving DecidableEq, Repr

/-- Weighted round robin state of one egress (R174). -/
structure Egress where
  /-- Class whose turn it is, 4 to 7, and its remaining allowance. -/
  turn : Cls
  left : Nat
  /-- Input last served, by class. -/
  lastIn : Vector Nat 8
  /-- Entry whose frame is in progress, by class (R106). -/
  busy : Vector (Option Nat) 8
  deriving DecidableEq, Repr

/-- Before anything has been sent. The first turn is class 4's. -/
def Egress.reset : Egress := ⟨7, 0, Vector.replicate 8 203, Vector.replicate 8 none⟩

/-- A frame that has left its local output and waits for its own row: MSG, LAUNCH, ROLL_OP, DIR, ORDER, NET_OP. -/
structure Passed where
  frame : Frame
  cls : Cls
  cluster : Fin 12
  /-- Ingress port; none for an injection input. -/
  port : Option Port
  /-- Its number among the requests accepted, and the drawer and the local offset that the check gave it, where it names
  memory. -/
  id : Nat
  drawer : Option Nat
  offset : Nat
  deriving DecidableEq, Repr

/-- The switch core (R158 to R184). -/
structure Switch where
  queue : List QEntry
  nextId : Nat
  /-- Egress state by link. -/
  egress : Tab Egress
  /-- Shaper tokens in 1/256 flit of the active queue of (input, egress, class); unlisted 0 (R177). -/
  tokens : Tab Nat
  /-- Profiles and queues whose write is applied at the next slot boundary (R178). -/
  burstPend : List (Fin 256)
  selPend : List (Port × Cls)
  /-- Policer tokens in 1/256 flit by (port, slot, class); unlisted: full at reset with no profile (R179). -/
  police : Tab Nat
  /-- Ticks when a policer's tokens were last brought up to date. -/
  policeAt : Tab Nat
  /-- BE_PORTs failed over, and the inputs and classes that have routed back to one since it returned (R164). -/
  failed : List Port
  backOn : List (Port × InputId × Cls)
  /-- Frames selected by each mirror session since it was written (R181). -/
  mirSeen : Tab Nat
  /-- The sample ring: records of 160 bytes, oldest first (R182). -/
  samples : List Bytes
  /-- 1 + ticks when the sample path last took a record, 0 before (R182). -/
  sampleTick : Nat
  /-- A-role ports whose agent has died, for the roll (R382) and for the directory (R313). -/
  deadRoll : List Port
  deadDir : List Port
  /-- Frames that left their local output and wait for their own rows (MSG, LAUNCH, ROLL_OP, DIR, ORDER, NET_OP). -/
  passed : List Passed
  deriving DecidableEq, Repr

/-- Empty queues. -/
def Switch.reset : Switch where
  queue := []
  nextId := 0
  egress := []
  tokens := []
  burstPend := []
  selPend := []
  police := []
  policeAt := []
  failed := []
  backOn := []
  mirSeen := []
  samples := []
  sampleTick := 0
  deadRoll := []
  deadDir := []
  passed := []

/-- Key of a queue of an input toward an egress port in a class (R160). -/
def vqKey (input port cls : Nat) : Nat := (input * 192 + port) * 8 + cls

/-- Key of a policer (R179). -/
def polKey (port slot cls : Nat) : Nat := (port * 16 + slot) * 8 + cls

end Sys2Proof.Machine
end

