-- ==== Sys2Proof/Machine/MortiseState.lean ====
section
/-!
DEFINITION. State of the transaction layer and the mortise check (04 R128 to R157): tables, recalls, open tags, gateways.
-/
namespace Sys2Proof.Machine

/-- What a request that a CF-480 unit originated is for (R130, R141). -/
inductive Purpose where
  /-- Request `idx` of BAR4 access `id` of a host port (R456). -/
  | bar4 (h : HostPort) (id idx : Nat)
  /-- The fabric request of a FABRIC or LAUNCH descriptor (R473, R353). -/
  | desc (h : HostPort) (id : Nat)
  /-- Request `k` of a bench's operator (R356, R357). -/
  | bench (b : BenchId) (k : Nat)
  /-- Request `k` of a network unit's session, walk or selection. -/
  | net (u : NetId) (k : Nat)
  /-- The flush of a combine buffer, and the fetch of a read-ahead buffer, of a gateway port (R153, R154). -/
  | gwFlush (p : Port) (job dest plank : Nat)
  | gwFetch (p : Port) (job dest plank : Nat)
  /-- A message of the roll (events, watches, heartbeats, discards, forwards), by its own number. -/
  | roll (k : Nat)
  deriving DecidableEq, Repr

/-- An open tag of a CF-480 originator (R139 to R141). -/
structure Tag where
  unit : BitVec 10
  tag : BitVec 9
  /-- ADDR, SEQ, JOB, AK and OPCODE of the request, against which its completion is verified. -/
  addr : Dword
  seq : Word
  job : BitVec 12
  ak : Bool
  opcode : BitVec 8
  dest : BitVec 12
  /-- Boundaries passed when it was sent (R141). -/
  born : Nat
  purpose : Purpose
  deriving DecidableEq, Repr

/-- A tag that has closed: its status, FLAGS and data, until its unit takes it up. -/
structure TagDone where
  purpose : Purpose
  status : BitVec 8
  flags : BitVec 8
  data : Bytes
  deriving DecidableEq, Repr

/-- A request of an agent that has entered at its A-role port and has had no completion pass back (R140). -/
structure AgentTag where
  port : Port
  srcSwitch : BitVec 12
  srcUnit : BitVec 10
  tag : BitVec 9
  seq : Word
  dest : BitVec 12
  /-- It came from half 1 of a split port. -/
  half1 : Bool
  deriving DecidableEq, Repr

/-- A request of a CF-480 unit that waits for a free tag (R140). -/
structure TagWait where
  unit : BitVec 10
  cluster : Fin 12
  /-- Header with TAG and SEQ 0, and payload. -/
  hdr : BitVec 256
  payload : Bytes
  cls : Cls
  purpose : Purpose
  deriving DecidableEq, Repr

/-- Why a request that passed the mortise check has not completed (R150, R204, R270, R294). -/
inductive Wait where
  /-- Its plank's promotion or migration (R204). -/
  | promotion
  /-- Its line's stack read (R214). -/
  | stack
  /-- Its directory transaction (R294). -/
  | directory
  /-- Its guarded set (R273). -/
  | guard
  deriving DecidableEq, Repr

/-- A request that passed the mortise check and is open toward a drawer (R150). -/
structure Served where
  /-- Number of the request in order of acceptance. -/
  id : Nat
  frame : Frame
  cls : Cls
  drawer : DrawerId
  /-- Local offset of its extent (R147). -/
  offset : Nat
  /-- Local output cluster it came from. -/
  cluster : Fin 12
  wait : Wait
  /-- Boundaries passed when it began to wait. -/
  since : Nat
  /-- Its drawer is a shared window; lines served so far, their data, and the first status other than OK (R292). -/
  shared : Bool
  line : Nat
  acc : Bytes
  status : BitVec 8
  deriving DecidableEq, Repr

/-- A recall in progress (R150): the drawer and the boundaries passed at (P, 0). -/
structure Recall where
  drawer : DrawerId
  at_ : Nat
  /-- The drain bound has ended. -/
  drained : Bool
  deriving DecidableEq, Repr

/-- A MSG, or the message of a DELIVER, that has been sent to a port and whose acknowledgement has not come (R133). -/
structure Msg where
  port : Port
  frame : Frame
  cls : Cls
  /-- Its entry in the switch core. -/
  entry : Nat
  deriving DecidableEq, Repr

/-- A combine buffer of a gateway port (R153). -/
structure Combine where
  dest : BitVec 12
  /-- ADDR[63:15], AK, JOB and class of its writes. -/
  plank : BitVec 49
  ak : Bool
  job : BitVec 12
  cls : Cls
  /-- Byte masks of the lines present, and their bytes by offset in the plank. -/
  lines : Tab (BitVec 128)
  data : Tab Byte
  /-- Boundaries passed at its first line. -/
  at_ : Nat
  deriving DecidableEq, Repr

/-- A read-ahead buffer of a gateway port (R154). -/
structure ReadAhead where
  dest : BitVec 12
  plank : BitVec 49
  ak : Bool
  job : BitVec 12
  cls : Cls
  /-- Filled, and its 32,768 bytes. -/
  filled : Bool
  data : Tab Byte
  at_ : Nat
  /-- Line reads that wait for the fetch. -/
  waiting : List Frame
  deriving DecidableEq, Repr

/-- A gateway port (R152 to R155, R275). -/
structure Gateway where
  combine : List Combine
  ahead : List ReadAhead
  /-- Flushes sent and not completed: JOB, DEST_SWITCH, ADDR[63:15]. -/
  flushing : List (Nat × Nat × Nat)
  /-- First failed status for the next ORDER completion of a JOB and DEST_SWITCH (R153). -/
  failed : List ((Nat × Nat) × BitVec 8)
  /-- ORDER frames held until their flushes complete (R275). -/
  held : List (Frame × Cls)
  /-- ORDER frames forwarded whose completion takes a failed status in place of OK: TAG, SEQ, status. -/
  replace : List ((Nat × Nat) × BitVec 8)
  deriving DecidableEq, Repr

/-- Nothing held. -/
def Gateway.reset : Gateway := ⟨[], [], [], [], [], []⟩

/-- The transaction layer (R128 to R157). -/
structure Mortise where
  /-- Banks 0 and 1 of the job table (R144), the job address table (R145) and the admission table (R143: key
  16 * port + slot, bit 15 VALID). -/
  job0 : Tab (BitVec 64)
  job1 : Tab (BitVec 64)
  jat0 : Tab (BitVec 128)
  jat1 : Tab (BitVec 128)
  adm0 : Tab (BitVec 16)
  adm1 : Tab (BitVec 16)
  /-- Bank 1 of the mortise tables is active. -/
  mortBank : Bool
  /-- Banks 0 and 1 of the drawer table (R146). -/
  drw0 : Tab (BitVec 128)
  drw1 : Tab (BitVec 128)
  drawerBank : Bool
  recalls : List Recall
  served : List Served
  nextServed : Nat
  tags : List Tag
  tagQueue : List TagWait
  done : List TagDone
  agents : List AgentTag
  /-- Next SEQ of this switch's own units: one count for all of them. -/
  nextSeq : Nat
  gw : Tab Gateway
  /-- Shreds of each drawer this session (R492). -/
  shreds : Tab Nat
  /-- MSG and DELIVER frames that wait for the peer's acknowledgement (R133). -/
  msgs : List Msg
  /-- Live counts of the job views by 8 * job + word, and the values the views show (R504). -/
  jobLive : Tab Nat
  jobShown : Tab Word
  /-- Period of the last copy, 1 + the boundaries passed then (0 before), and 1 + the number of the first of the free values that
  stand for the jobs' estimated power (0 before the first copy of power). -/
  jobStamp : BitVec 16
  jobCopyAt : Nat
  jobPower : Nat
  /-- Local delivery: input last served in best effort, by cluster (R172). -/
  lastIn : Tab Nat
  deriving DecidableEq, Repr

/-- Empty tables (R13, R143, R144). -/
def Mortise.reset : Mortise where
  job0 := []
  job1 := []
  jat0 := []
  jat1 := []
  adm0 := []
  adm1 := []
  mortBank := false
  drw0 := []
  drw1 := []
  drawerBank := false
  recalls := []
  served := []
  nextServed := 0
  tags := []
  tagQueue := []
  done := []
  agents := []
  nextSeq := 0
  gw := []
  shreds := []
  msgs := []
  jobLive := []
  jobShown := []
  jobStamp := 0
  jobCopyAt := 0
  jobPower := 0
  lastIn := []

end Sys2Proof.Machine
end

