-- ==== Sys2Proof/Machine/PoolState.lean ====
section
/-!
DEFINITION. State of pool memory (06 R185 to R224), flash trays (07 R225 to R258), the release-scope tags and guarded sets
(08 R270 to R280), the directory (09 R290 to R318) and the veneer slots (13 R434 to R438). The tables that R188 places in
CONTROL, which no transaction reaches, stand here as typed tables.
-/
namespace Sys2Proof.Machine

/-- The states of a TIERED plank (R201). -/
inductive PlankSt where
  | zero
  | discarded
  | stacked
  | stackedV
  | flash
  | moving
  deriving DecidableEq, Repr

/-- STATE as R241 codes it. -/
def PlankSt.code : PlankSt → Nat
  | .zero => 0
  | .discarded => 1
  | .stacked => 2
  | .stackedV => 3
  | .flash => 4
  | .moving => 5

/-- An entry of the flash map (R241). -/
structure MapEntry where
  version : BitVec 16
  state : PlankSt
  ven : Bool
  tray : Nat
  /-- SIZE_M1 + 1: sectors or granules. -/
  size : Nat
  up : Bool
  loc : Nat
  deriving DecidableEq, Repr

/-- R189: ZERO with VERSION 0. -/
def MapEntry.reset : MapEntry := ⟨0, .zero, false, 0, 0, false, 0⟩

/-- A frame record (R188). -/
structure FrameRec where
  plank : Nat
  valid : Bool
  referenced : Bool
  /-- Boundaries passed at the last access; LAST_ACCESS counts them in units of 1,024. -/
  last : Nat
  deriving DecidableEq, Repr

/-- A frame that holds no plank. -/
def FrameRec.reset : FrameRec := ⟨0, false, false, 0⟩

/-- What a piece of migration work does (R202, R205, R448). -/
inductive Goal where
  /-- A plank on flash toward a frame. -/
  | promote
  /-- A plank in a frame toward flash. -/
  | demote
  /-- STACKED_V to STACKED. -/
  | unpack
  /-- STACKED to STACKED_V. -/
  | pack
  /-- A PLANK_WRITE whose payload is to be coded, expanded or checked first. -/
  | store
  /-- Expanded or stored data for one read, without a change of the plank. -/
  | read
  deriving DecidableEq, Repr

/-- How far a piece of migration work has come. -/
inductive Stage where
  /-- It waits to send its tray command, or for its completion. -/
  | media
  /-- It waits for the veneer coder. -/
  | compress
  | expand
  /-- It is ready to commit. -/
  | commit
  deriving DecidableEq, Repr

/-- A piece of migration work (R205). It runs on engine (plank mod 16). -/
structure Work where
  id : Nat
  plank : Nat
  goal : Goal
  stage : Stage
  /-- R205: 1 scheduled, 2 demand, 3 demotion, 4 bulk. -/
  rank : Nat
  /-- The map entry when it began (R242). -/
  old : MapEntry
  /-- Cluster whose expand cache a fill is for. -/
  cluster : Option Nat
  data : Bytes
  /-- `data` is veneered. -/
  ven : Bool
  /-- The request that it carries. -/
  req : Option Nat
  /-- Stream and slot whose reference it holds (R436). -/
  slot : Option (Nat × Nat)
  /-- The object entry that it began with (R200). -/
  obj : BitVec 192
  /-- Tray and MEDIA_ADDR of its PROGRAM, and PROGRAMs that failed (R243). -/
  place : Option (Nat × Nat)
  tries : Nat
  /-- Its tray command has been sent. -/
  sent : Bool
  deriving DecidableEq, Repr

/-- The tray states of R226. -/
inductive TraySt where
  | absent
  | identifying
  | ready
  | refused
  | live
  | full
  | lost
  deriving DecidableEq, Repr

/-- STATE as R226 codes it. -/
def TraySt.code : TraySt → Nat
  | .absent => 0
  | .identifying => 1
  | .ready => 2
  | .refused => 3
  | .live => 4
  | .full => 5
  | .lost => 6

/-- Block states (R188, R250). -/
inductive BlockSt where
  | free
  | open_
  | closed
  | suspect
  | retired
  deriving DecidableEq, Repr

/-- A tray block record (R188), with the sectors programmed since its erase. -/
structure Block where
  erases : Nat
  valid : Nat
  state : BlockSt
  next : Nat
  deriving DecidableEq, Repr

/-- A free block that has never been erased. -/
def Block.reset : Block := ⟨0, 0, .free, 0⟩

/-- What an open tray command is for. -/
inductive CmdFor where
  | identify
  | log (n : Nat)
  | event
  | abort
  /-- READ or PROGRAM of a piece of migration work. -/
  | work (id : Nat)
  /-- READ or PROGRAM of a relocation of a plank (R250, R252), for wear levelling or collection. -/
  | move (plank loc : Nat) (wear : Bool)
  | erase (block : Nat) (reloc : Bool)
  /-- A command of work that a recall has cancelled (R150 step 4). -/
  | late
  deriving DecidableEq, Repr

/-- An open command of a tray (R229 to R233). -/
structure TrayCmd where
  queue : Nat
  id : Nat
  opcode : Nat
  addr : Nat
  sectors : Nat
  why : CmdFor
  /-- Data of a PROGRAM, kept for relocations. -/
  data : Bytes
  /-- Boundaries passed when it was sent. -/
  at_ : Nat
  /-- It is the second READ of its kind; it has timed out and its CMD_ID is kept. -/
  again : Bool
  timedOut : Bool
  deriving DecidableEq, Repr

/-- A flash tray (R225 to R256). -/
structure Tray where
  state : TraySt
  port : Nat
  /-- Ticks when IDENTIFY was sent (R225). -/
  since : Nat
  /-- PARALLEL_UNITS, SECTORS_PER_BLOCK, BLOCKS_TOTAL, RATED_CYCLES and SERIAL (R235). -/
  units : Nat
  perBlock : Nat
  total : Nat
  rated : Nat
  serial : Bytes
  /-- Bad blocks on the log at discovery, and grown bad blocks since. -/
  initialBad : Nat
  grown : Nat
  share : Nat
  blocks : Tab Block
  /-- Open demotion block of each parallel unit, next unit, and the open relocation block (R243, R250). -/
  openBlock : Tab (Option Nat)
  nextUnit : Nat
  reloc : Option Nat
  /-- Open commands. -/
  cmds : List TrayCmd
  /-- Boundaries passed at recent timeouts (R233). -/
  timeouts : List Nat
  /-- The victim of the running collection or levelling, and erases since the last levelling (R252). -/
  victim : Option Nat
  wearVictim : Option Nat
  /-- Sectors read for relocation that wait for a place: plank, location, for levelling, data; locations that could not be read. -/
  moves : List (Nat × Nat × Bool × Bytes)
  unreadable : List Nat
  erasesSince : Nat
  /-- Sectors programmed for demotions, by collection and by levelling. -/
  sectDemote : Nat
  sectGc : Nat
  sectWear : Nat
  /-- Logs 0x03 and 0x04 as last read, temperature last reported, sectors corrected at the start of the window (R255, R256). -/
  health : Bytes
  temps : Bytes
  tempNow : Nat
  corrBase : Nat
  /-- Threshold notes now past their threshold, by bit of R255. -/
  past : BitVec 8
  cardAt : Nat
  deriving DecidableEq, Repr

/-- No tray. -/
def Tray.reset : Tray where
  state := .absent
  port := 0
  since := 0
  units := 0
  perBlock := 0
  total := 0
  rated := 0
  serial := []
  initialBad := 0
  grown := 0
  share := 0
  blocks := []
  openBlock := []
  nextUnit := 0
  reloc := none
  cmds := []
  timeouts := []
  victim := none
  wearVictim := none
  moves := []
  unreadable := []
  erasesSince := 0
  sectDemote := 0
  sectGc := 0
  sectWear := 0
  health := []
  temps := []
  tempNow := 0
  corrBase := 0
  past := 0
  cardAt := 0

/-- A release-scope tag (R278). -/
structure RelTag where
  job : BitVec 12
  srcSwitch : BitVec 12
  srcUnit : BitVec 10
  scope : BitVec 2
  /-- Order of entry. -/
  age : Nat
  deriving DecidableEq, Repr

/-- A FLUSH_RANGE or RELEASE_RANGE that waits for its guarded set (R271, R273). -/
structure Guard where
  /-- The request's number among those served. -/
  id : Nat
  release : Bool
  /-- Members that are open, and statuses other than OK of members that have completed, by their numbers. -/
  open_ : List Nat
  failed : Tab (BitVec 8)
  deriving DecidableEq, Repr

/-- A veneer slot (R434 to R436). -/
inductive SlotSt where
  | free
  | loading
  | resident
  deriving DecidableEq, Repr

/-- STATE as R434 codes it. -/
def SlotSt.code : SlotSt → Nat
  | .free => 0
  | .loading => 1
  | .resident => 2

/-- A basis slot: header and table (R434). -/
structure BasisSlot where
  state : SlotSt
  shape : Nat
  rmax : Nat
  cols : Nat
  tag : BitVec 16
  refs : Nat
  check : Word
  loaded : Dword
  /-- 2 × RMAX × N bytes, row by row. -/
  table : Bytes
  /-- FMT_GEN of its header: 1 once it has been written this session. -/
  gen : Bool
  deriving DecidableEq, Repr

/-- FREE with tag 0 (R438). -/
def BasisSlot.reset : BasisSlot := ⟨.free, 0, 0, 0, 0, 0, 0, 0, [], false⟩

/-- Pool memory and what is kept in it (R185 to R258, R278, R434). -/
structure Pool where
  initBusy : Bool
  initDone : Bool
  /-- Direct size in bytes, frames and managed flash bytes of the session (R189). -/
  direct : Nat
  frameCount : Nat
  flashBytes : Nat
  /-- Lendable bytes of each cluster's window (R218). -/
  lendable : Tab Nat
  /-- Bytes of stacked memory by physical address, and of WINDOW at 2^44 + offset. -/
  mem : Tab Byte
  /-- Stacked lines that a read has found uncorrectable (1) or failing integrity (2), until a write covers them (R214). -/
  badLines : Tab Nat
  /-- The written bitmap by plank number (R191). -/
  written : Tab Bool
  map : Tab MapEntry
  /-- Stream and slot that each stored veneered plank refers to, by map index (R436). -/
  stored : Tab (Option (Nat × Nat))
  frames : Tab FrameRec
  /-- Object table banks, active bank, and inert entries of the active one (R195, R198). -/
  obj0 : Tab (BitVec 192)
  obj1 : Tab (BitVec 192)
  objBank : Bool
  inert : Tab Bool
  works : List Work
  nextWork : Nat
  /-- Frame at which the sweep goes on, its pass number, and whether it runs (R208). -/
  sweepAt : Nat
  sweepPass : Nat
  sweeping : Bool
  /-- Expand cache of each cluster: planks with their bytes, latest used first (R202, R218). -/
  cache : Tab (List (Nat × Bytes))
  /-- Drawers whose map reset runs, with the map indices they cover (R193). -/
  resets : List (Nat × Nat × Nat)
  trays : Tab Tray
  /-- Round robin over trays (R244), and planks counted as pinned (R246). -/
  nextTray : Nat
  pinned : Tab Bool
  tags : Tab RelTag
  tagCount : Nat
  guards : List Guard
  /-- Basis slots by 4 × stream + slot, current slot of each stream, basis tables in each engine's cache (R434, R435, R442). -/
  slots : Tab BasisSlot
  current : Tab (Option Nat)
  tableCache : Tab (List Nat)
  /-- Patrol scrub of each stack (R216): 1 + the boundaries passed when a pass was last requested, and 1 + the start of the pass
  for which SCRUB_LATE has been raised. -/
  scrubAt : Tab Nat
  scrubLate : Tab Nat
  deriving DecidableEq, Repr

/-- Before pool initialization. -/
def Pool.reset : Pool where
  initBusy := false
  initDone := false
  direct := 0
  frameCount := 0
  flashBytes := 0
  lendable := []
  mem := []
  badLines := []
  written := []
  map := []
  stored := []
  frames := []
  obj0 := []
  obj1 := []
  objBank := false
  inert := []
  works := []
  nextWork := 0
  sweepAt := 0
  sweepPass := 0
  sweeping := false
  cache := []
  resets := []
  trays := []
  nextTray := 0
  pinned := []
  tags := []
  tagCount := 0
  guards := []
  slots := []
  current := []
  tableCache := []
  scrubAt := []
  scrubLate := []

/-- An agent identifier (R294): switch in [19:8], port in [7:0]. -/
abbrev AgentId := BitVec 20

/-- The directory states of R294. -/
inductive DirSt where
  | uncached
  | shared
  | exclusive
  | recalling
  | invalidating
  | filling
  | poisoned
  deriving DecidableEq, Repr

/-- STATE as R294 codes it. -/
def DirSt.code : DirSt → Nat
  | .uncached => 0
  | .shared => 1
  | .exclusive => 2
  | .recalling => 3
  | .invalidating => 4
  | .filling => 5
  | .poisoned => 6

/-- A directory entry (R294, R295), by line number L. Sharers in the order in which they became sharers; the owner alone in
EXCLUSIVE and RECALLING. -/
structure DirEntry where
  state : DirSt
  sharers : List AgentId
  /-- Overflow block, where the sharers are held in one. -/
  block : Option Nat
  /-- Ticks of the last use (R296). -/
  used : Nat
  deriving DecidableEq, Repr

/-- UNCACHED. -/
def DirEntry.reset : DirEntry := ⟨.uncached, [], none, 0⟩

/-- What a directory request is (R292, R296, R299, R313, R316). -/
inductive DirAsk where
  | getS
  | getM
  | upgrade
  /-- A read of a cache-less party. -/
  | rd
  /-- An invalidating write or atomic of a cache-less party. -/
  | wr
  /-- The eviction of a way for another line. -/
  | evict
  /-- A recall from a dead agent (R313). -/
  | rescue
  /-- A purge (R316). -/
  | purge
  deriving DecidableEq, Repr

/-- A request at the directory. -/
structure DirReq where
  ask : DirAsk
  line : Nat
  /-- The requester, for an agent's request. -/
  agent : AgentId
  /-- The request's frame, class and cluster; an evict, a rescue and a purge have none. -/
  frame : Option Frame
  cls : Cls
  cluster : Fin 12
  drawer : Nat
  /-- Number among the served requests, for a cache-less party's. -/
  served : Option Nat
  /-- Boundaries passed at its arrival (R310). -/
  at_ : Nat
  deriving DecidableEq, Repr

/-- An open snoop (R300, R301). -/
structure Snoop where
  agent : AgentId
  seq : Word
  /-- 0x10 INV, 0x11 RECALL, 0x12 RECALL_S. -/
  kind : BitVec 8
  at_ : Nat
  deriving DecidableEq, Repr

/-- A tracker (R304). -/
structure Tracker where
  line : Nat
  active : DirReq
  snoops : List Snoop
  wait : List DirReq
  /-- The entry before the line became transient, to which a MEDIA failure returns (R306). -/
  prior : DirEntry
  /-- PUT completions held until the owner answers (R304): request, class, cluster. -/
  held : List (Frame × Cls × Fin 12)
  deriving DecidableEq, Repr

/-- The directory of the home switch (R290 to R318). -/
structure Directory where
  entries : Tab DirEntry
  trackers : Tab (Option Tracker)
  hold : List DirReq
  /-- Requests of the hold pool whose lines are frozen (R310). -/
  frozen : List DirReq
  /-- The directory's sequence counter (R300). -/
  seq : Nat
  /-- Purges that run (R316): drawer, first line, last line + 1, and 1 + the boundaries passed when the snoops were sent, 0
  before. -/
  purges : List (Nat × Nat × Nat × Nat)
  deriving DecidableEq, Repr

/-- Empty. -/
def Directory.reset : Directory := ⟨[], [], [], [], 0, []⟩

end Sys2Proof.Machine
end

