-- ==== Sys2Proof/Machine/RegMap.lean ====
section
/-!
DEFINITION. The register map of BAR0 (R10): every register of every block with its access code (R8), its reset value
and its defined bits (R9), as the manual's register tables give them, and the offset of each by name.
A repeated register is one row with up to two counts and strides. The Scale Table values follow R31 and R33.
-/
namespace Sys2Proof.Machine

/-- The access codes of R8. -/
inductive Acc where
  | rw
  | ro
  | wo
  | w1c
  | w1s
  | rwl
  deriving DecidableEq, Repr

/-- One row of a register table: registers at base + i * s1 + j * s2 for i below n1 and j below n2. -/
structure RegRow where
  base : Nat
  n1 : Nat
  s1 : Nat
  n2 : Nat
  s2 : Nat
  acc : Acc
  /-- Reset value. -/
  reset : Word
  /-- Defined bits; the others read 0 and ignore writes (R9). -/
  mask : Word
  deriving DecidableEq, Repr

/-- Whether the row holds the register at an offset. -/
def RegRow.covers (r : RegRow) (off : Nat) : Bool :=
  r.base ≤ off &&
    (let d := off - r.base
     let i := if r.n1 ≤ 1 then 0 else d / r.s1
     let e := d - i * r.s1
     i < r.n1 && (if r.n2 ≤ 1 then e == 0 else e % r.s2 == 0 && e / r.s2 < r.n2))

/-- Block GLOBAL (01 R33). -/
def rowsGlobal0 : List RegRow := [
  ⟨0x0, 1, 0x0, 1, 0x0, .ro, 0x1F7A, 0xFFFFFFFF⟩,
  ⟨0x4, 1, 0x0, 1, 0x0, .ro, 0x480, 0xFFFFFFFF⟩,
  ⟨0x8, 1, 0x0, 1, 0x0, .ro, 0x0, 0xFFFFFFFF⟩,
  ⟨0xC, 1, 0x0, 1, 0x0, .ro, 0x100, 0xFFFFFFFF⟩,
  ⟨0x10, 1, 0x0, 1, 0x0, .ro, 0x2, 0xFFFFFFFF⟩,
  ⟨0x100, 1, 0x0, 1, 0x0, .ro, 0xC, 0xFFFFFFFF⟩,
  ⟨0x104, 1, 0x0, 1, 0x0, .ro, 0xC0, 0xFFFFFFFF⟩,
  ⟨0x108, 1, 0x0, 1, 0x0, .ro, 0x300, 0xFFFFFFFF⟩,
  ⟨0x10C, 1, 0x0, 1, 0x0, .ro, 0x20, 0xFFFFFFFF⟩,
  ⟨0x110, 1, 0x0, 1, 0x0, .ro, 0x1000, 0xFFFFFFFF⟩,
  ⟨0x114, 1, 0x0, 1, 0x0, .ro, 0x10000, 0xFFFFFFFF⟩,
  ⟨0x118, 1, 0x0, 1, 0x0, .ro, 0x15, 0xFFFFFFFF⟩,
  ⟨0x11C, 1, 0x0, 1, 0x0, .ro, 0x40, 0xFFFFFFFF⟩,
  ⟨0x120, 1, 0x0, 1, 0x0, .ro, 0x8, 0xFFFFFFFF⟩,
  ⟨0x124, 1, 0x0, 1, 0x0, .ro, 0x48, 0xFFFFFFFF⟩,
  ⟨0x128, 1, 0x0, 1, 0x0, .ro, 0xC, 0xFFFFFFFF⟩,
  ⟨0x12C, 1, 0x0, 1, 0x0, .ro, 0xE, 0xFFFFFFFF⟩,
  ⟨0x130, 1, 0x0, 1, 0x0, .ro, 0x1000, 0xFFFFFFFF⟩,
  ⟨0x134, 1, 0x0, 1, 0x0, .ro, 0x10, 0xFFFFFFFF⟩,
  ⟨0x138, 1, 0x0, 1, 0x0, .ro, 0x800000, 0xFFFFFFFF⟩,
  ⟨0x13C, 1, 0x0, 1, 0x0, .ro, 0x8000, 0xFFFFFFFF⟩,
  ⟨0x140, 1, 0x0, 1, 0x0, .ro, 0x8000, 0xFFFFFFFF⟩,
  ⟨0x144, 1, 0x0, 1, 0x0, .ro, 0x80, 0xFFFFFFFF⟩,
  ⟨0x148, 1, 0x0, 1, 0x0, .ro, 0x200, 0xFFFFFFFF⟩,
  ⟨0x14C, 1, 0x0, 1, 0x0, .ro, 0x1000, 0xFFFFFFFF⟩,
  ⟨0x150, 1, 0x0, 1, 0x0, .ro, 0x800, 0xFFFFFFFF⟩,
  ⟨0x154, 1, 0x0, 1, 0x0, .ro, 0x2000, 0xFFFFFFFF⟩,
  ⟨0x158, 1, 0x0, 1, 0x0, .ro, 0x10000, 0xFFFFFFFF⟩,
  ⟨0x15C, 1, 0x0, 1, 0x0, .ro, 0xC, 0xFFFFFFFF⟩,
  ⟨0x160, 1, 0x0, 1, 0x0, .ro, 0xC, 0xFFFFFFFF⟩,
  ⟨0x164, 1, 0x0, 1, 0x0, .ro, 0xC, 0xFFFFFFFF⟩,
  ⟨0x168, 1, 0x0, 1, 0x0, .ro, 0x10, 0xFFFFFFFF⟩,
  ⟨0x16C, 1, 0x0, 1, 0x0, .ro, 0xC0, 0xFFFFFFFF⟩,
  ⟨0x170, 1, 0x0, 1, 0x0, .ro, 0x1000, 0xFFFFFFFF⟩,
  ⟨0x174, 1, 0x0, 1, 0x0, .ro, 0x100, 0xFFFFFFFF⟩,
  ⟨0x178, 1, 0x0, 1, 0x0, .ro, 0x4, 0xFFFFFFFF⟩,
  ⟨0x17C, 1, 0x0, 1, 0x0, .ro, 0x4000000, 0xFFFFFFFF⟩,
  ⟨0x180, 1, 0x0, 1, 0x0, .ro, 0x0, 0xFFFFFFFF⟩,
  ⟨0x184, 1, 0x0, 1, 0x0, .ro, 0x0, 0xFFFFFFFF⟩,
  ⟨0x188, 1, 0x0, 1, 0x0, .ro, 0x0, 0xFFFFFFFF⟩]

/-- Block GLOBAL (01 R33). -/
def rowsGlobal1 : List RegRow := [
  ⟨0x18C, 1, 0x0, 1, 0x0, .ro, 0x0, 0xFFFFFFFF⟩,
  ⟨0x190, 1, 0x0, 1, 0x0, .ro, 0x0, 0xFFFFFFFF⟩,
  ⟨0x194, 1, 0x0, 1, 0x0, .ro, 0x0, 0xFFFFFFFF⟩,
  ⟨0x198, 1, 0x0, 1, 0x0, .ro, 0x0, 0xFFFFFFFF⟩,
  ⟨0x19C, 1, 0x0, 1, 0x0, .ro, 0x0, 0xFFFFFFFF⟩]

/-- Block BELL (02 R87). -/
def rowsBell : List RegRow := [
  ⟨0x100000, 1, 0x0, 1, 0x0, .rwl, 0xFF00, 0x3FF01⟩,
  ⟨0x100004, 1, 0x0, 1, 0x0, .ro, 0x0, 0xFFFFFFFF⟩,
  ⟨0x100008, 1, 0x0, 1, 0x0, .ro, 0x0, 0xFFFFFFFF⟩,
  ⟨0x10000C, 1, 0x0, 1, 0x0, .ro, 0x0, 0xFFFFFFFF⟩,
  ⟨0x100010, 1, 0x0, 1, 0x0, .ro, 0x0, 0xFFFFFFFF⟩,
  ⟨0x100014, 1, 0x0, 1, 0x0, .ro, 0x0, 0xFFFFFFFF⟩,
  ⟨0x100018, 1, 0x0, 1, 0x0, .ro, 0x0, 0xFFFFFFFF⟩,
  ⟨0x10001C, 1, 0x0, 1, 0x0, .ro, 0x0, 0xFFFFFFFF⟩,
  ⟨0x100020, 1, 0x0, 1, 0x0, .ro, 0x0, 0xFFFFFFFF⟩,
  ⟨0x100024, 1, 0x0, 1, 0x0, .rwl, 0x0, 0x3FFFF⟩,
  ⟨0x100028, 1, 0x0, 1, 0x0, .ro, 0x0, 0xFFFFFFFF⟩,
  ⟨0x10002C, 1, 0x0, 1, 0x0, .w1c, 0x0, 0xFF⟩,
  ⟨0x100030, 1, 0x0, 1, 0x0, .ro, 0x0, 0xFFFFFFFF⟩,
  ⟨0x100034, 1, 0x0, 1, 0x0, .ro, 0x0, 0xFFFFFFFF⟩,
  ⟨0x100038, 1, 0x0, 1, 0x0, .ro, 0x0, 0xFFFFFFFF⟩]

/-- Block TIMETABLE (02 R88). -/
def rowsTimetable : List RegRow := [
  ⟨0x200000, 1, 0x0, 1, 0x0, .ro, 0x0, 0xFFFFFFFF⟩,
  ⟨0x200004, 1, 0x0, 1, 0x0, .ro, 0x0, 0xFFFFFFFF⟩,
  ⟨0x200008, 1, 0x0, 1, 0x0, .ro, 0x0, 0xFFFFFFFF⟩,
  ⟨0x20000C, 1, 0x0, 1, 0x0, .ro, 0x0, 0xFFFFFFFF⟩,
  ⟨0x200010, 1, 0x0, 1, 0x0, .ro, 0x0, 0xFFFFFFFF⟩,
  ⟨0x200014, 1, 0x0, 1, 0x0, .ro, 0x0, 0xFFFFFFFF⟩,
  ⟨0x200018, 1, 0x0, 1, 0x0, .ro, 0x0, 0xFFFFFFFF⟩,
  ⟨0x20001C, 1, 0x0, 1, 0x0, .w1c, 0x0, 0xFF⟩,
  ⟨0x200020, 1, 0x0, 1, 0x0, .ro, 0x0, 0xFFFFFFFF⟩,
  ⟨0x200024, 1, 0x0, 1, 0x0, .ro, 0x0, 0xFFFFFFFF⟩,
  ⟨0x200028, 1, 0x0, 1, 0x0, .ro, 0x0, 0xFFFFFFFF⟩,
  ⟨0x20002C, 1, 0x0, 1, 0x0, .ro, 0x0, 0xFFFFFFFF⟩,
  ⟨0x200030, 1, 0x0, 1, 0x0, .ro, 0x80, 0xFFFFFFFF⟩,
  ⟨0x200034, 1, 0x0, 1, 0x0, .ro, 0x20, 0xFFFFFFFF⟩]

/-- Block PORT (03 R125). -/
def rowsPort : List RegRow := [
  ⟨0x400000, 192, 0x4000, 1, 0x0, .rwl, 0x2000100, 0x73F0F39⟩,
  ⟨0x400004, 192, 0x4000, 1, 0x0, .wo, 0x0, 0xFFFFFFFF⟩,
  ⟨0x400008, 192, 0x4000, 1, 0x0, .ro, 0x0, 0xFFFFFFFF⟩,
  ⟨0x40000C, 192, 0x4000, 1, 0x0, .ro, 0x0, 0xFFFFFFFF⟩,
  ⟨0x400010, 192, 0x4000, 1, 0x0, .ro, 0x0, 0xFFFFFFFF⟩,
  ⟨0x400014, 192, 0x4000, 1, 0x0, .ro, 0x0, 0xFFFFFFFF⟩,
  ⟨0x400018, 192, 0x4000, 1, 0x0, .ro, 0x0, 0xFFFFFFFF⟩,
  ⟨0x400020, 192, 0x4000, 1, 0x0, .rwl, 0x800080, 0xFFFFFFFF⟩,
  ⟨0x400024, 192, 0x4000, 1, 0x0, .rwl, 0x800080, 0xFFFFFFFF⟩,
  ⟨0x400028, 192, 0x4000, 1, 0x0, .rwl, 0x800080, 0xFFFFFFFF⟩,
  ⟨0x40002C, 192, 0x4000, 1, 0x0, .rwl, 0x800080, 0xFFFFFFFF⟩,
  ⟨0x400030, 192, 0x4000, 1, 0x0, .ro, 0x0, 0xFFFFFFFF⟩,
  ⟨0x400034, 192, 0x4000, 1, 0x0, .ro, 0x0, 0xFFFFFFFF⟩,
  ⟨0x400038, 192, 0x4000, 1, 0x0, .ro, 0x0, 0xFFFFFFFF⟩,
  ⟨0x40003C, 192, 0x4000, 1, 0x0, .ro, 0x0, 0xFFFFFFFF⟩,
  ⟨0x400040, 192, 0x4000, 1, 0x0, .ro, 0x0, 0xFFFFFFFF⟩,
  ⟨0x400044, 192, 0x4000, 1, 0x0, .ro, 0x0, 0xFFFFFFFF⟩,
  ⟨0x400048, 192, 0x4000, 1, 0x0, .ro, 0x0, 0xFFFFFFFF⟩,
  ⟨0x40004C, 192, 0x4000, 1, 0x0, .ro, 0x0, 0xFFFFFFFF⟩,
  ⟨0x400050, 192, 0x4000, 1, 0x0, .ro, 0x0, 0xFFFFFFFF⟩,
  ⟨0x400054, 192, 0x4000, 1, 0x0, .ro, 0x0, 0xFFFFFFFF⟩,
  ⟨0x400058, 192, 0x4000, 1, 0x0, .ro, 0x0, 0xFFFFFFFF⟩,
  ⟨0x40005C, 192, 0x4000, 1, 0x0, .ro, 0x0, 0xFFFFFFFF⟩,
  ⟨0x400060, 192, 0x4000, 1, 0x0, .ro, 0x0, 0xFFFFFFFF⟩,
  ⟨0x400064, 192, 0x4000, 1, 0x0, .ro, 0x0, 0xFFFFFFFF⟩,
  ⟨0x400068, 192, 0x4000, 1, 0x0, .ro, 0x0, 0xFFFFFFFF⟩,
  ⟨0x400070, 192, 0x4000, 1, 0x0, .w1c, 0x0, 0x7FFE⟩,
  ⟨0x400074, 192, 0x4000, 1, 0x0, .ro, 0x0, 0xFFFFFFFF⟩,
  ⟨0x400078, 192, 0x4000, 1, 0x0, .ro, 0x0, 0xFFFFFFFF⟩,
  ⟨0x40007C, 192, 0x4000, 1, 0x0, .ro, 0x0, 0xFFFFFFFF⟩,
  ⟨0x400100, 192, 0x4000, 4, 0x40, .ro, 0x0, 0xFFFFFFFF⟩,
  ⟨0x400104, 192, 0x4000, 4, 0x40, .ro, 0x0, 0xFFFFFFFF⟩,
  ⟨0x400108, 192, 0x4000, 4, 0x40, .ro, 0x0, 0xFFFFFFFF⟩,
  ⟨0x40010C, 192, 0x4000, 4, 0x40, .ro, 0x0, 0xFFFFFFFF⟩,
  ⟨0x400110, 192, 0x4000, 4, 0x40, .wo, 0x0, 0xFFFFFFFF⟩,
  ⟨0x400114, 192, 0x4000, 4, 0x40, .ro, 0x0, 0xFFFFFFFF⟩,
  ⟨0x400118, 192, 0x4000, 4, 0x40, .ro, 0x0, 0xFFFFFFFF⟩]

/-- Block MORTISE (04 R156, 08 R288). -/
def rowsMortise : List RegRow := [
  ⟨0x800000, 1, 0x0, 1, 0x0, .ro, 0x0, 0xFFFFFFFF⟩,
  ⟨0x800008, 1, 0x0, 1, 0x0, .ro, 0x0, 0xFFFFFFFF⟩,
  ⟨0x80000C, 1, 0x0, 1, 0x0, .ro, 0x0, 0xFFFFFFFF⟩,
  ⟨0x800010, 1, 0x0, 1, 0x0, .ro, 0x0, 0xFFFFFFFF⟩,
  ⟨0x800014, 1, 0x0, 1, 0x0, .ro, 0x0, 0xFFFFFFFF⟩,
  ⟨0x800020, 1, 0x0, 1, 0x0, .ro, 0x4, 0xFFFFFFFF⟩,
  ⟨0x800024, 1, 0x0, 1, 0x0, .rw, 0x100, 0xFFFF⟩,
  ⟨0x800028, 1, 0x0, 1, 0x0, .ro, 0x0, 0xFFFFFFFF⟩,
  ⟨0x80002C, 1, 0x0, 1, 0x0, .ro, 0x0, 0xFFFFFFFF⟩,
  ⟨0x800030, 1, 0x0, 1, 0x0, .ro, 0x0, 0xFFFFFFFF⟩,
  ⟨0x800034, 1, 0x0, 1, 0x0, .ro, 0x0, 0xFFFFFFFF⟩,
  ⟨0x800038, 1, 0x0, 1, 0x0, .ro, 0x0, 0xFFFFFFFF⟩,
  ⟨0x80003C, 1, 0x0, 1, 0x0, .ro, 0x0, 0xFFFFFFFF⟩,
  ⟨0x800040, 1, 0x0, 1, 0x0, .ro, 0x0, 0xFFFFFFFF⟩,
  ⟨0x800044, 1, 0x0, 1, 0x0, .ro, 0x0, 0xFFFFFFFF⟩,
  ⟨0x800070, 1, 0x0, 1, 0x0, .w1c, 0x0, 0x3FF⟩,
  ⟨0x800074, 1, 0x0, 1, 0x0, .ro, 0x0, 0xFFFFFFFF⟩,
  ⟨0x800078, 1, 0x0, 1, 0x0, .ro, 0x0, 0xFFFFFFFF⟩,
  ⟨0x80007C, 1, 0x0, 1, 0x0, .ro, 0x0, 0xFFFFFFFF⟩,
  ⟨0x800080, 1, 0x0, 1, 0x0, .ro, 0x0, 0xFFFFFFFF⟩,
  ⟨0x800084, 1, 0x0, 1, 0x0, .ro, 0x0, 0xFFFFFFFF⟩,
  ⟨0x801000, 192, 0x4, 1, 0x0, .rwl, 0xF0F01000, 0xFFFFFF00⟩,
  ⟨0x802000, 1, 0x0, 1, 0x0, .ro, 0x0, 0xFFFFFFFF⟩,
  ⟨0x802004, 1, 0x0, 1, 0x0, .rw, 0x80, 0xFFFF⟩,
  ⟨0x802008, 1, 0x0, 1, 0x0, .ro, 0x0, 0xFFFFFFFF⟩,
  ⟨0x80200C, 1, 0x0, 1, 0x0, .ro, 0x0, 0xFFFFFFFF⟩,
  ⟨0x802010, 1, 0x0, 1, 0x0, .ro, 0x0, 0xFFFFFFFF⟩,
  ⟨0x802014, 1, 0x0, 1, 0x0, .ro, 0x0, 0xFFFFFFFF⟩,
  ⟨0x802018, 1, 0x0, 1, 0x0, .ro, 0x0, 0xFFFFFFFF⟩,
  ⟨0x80201C, 1, 0x0, 1, 0x0, .wo, 0x0, 0xFFFFFFFF⟩,
  ⟨0x802070, 1, 0x0, 1, 0x0, .w1c, 0x0, 0xF⟩,
  ⟨0x802074, 1, 0x0, 1, 0x0, .ro, 0x0, 0xFFFFFFFF⟩,
  ⟨0x802078, 1, 0x0, 1, 0x0, .ro, 0x0, 0xFFFFFFFF⟩,
  ⟨0x80207C, 1, 0x0, 1, 0x0, .ro, 0x0, 0xFFFFFFFF⟩,
  ⟨0x802080, 1, 0x0, 1, 0x0, .ro, 0x0, 0xFFFFFFFF⟩,
  ⟨0x802084, 1, 0x0, 1, 0x0, .ro, 0x0, 0xFFFFFFFF⟩,
  ⟨0x802088, 1, 0x0, 1, 0x0, .ro, 0x0, 0xFFFFFFFF⟩,
  ⟨0x802090, 1, 0x0, 1, 0x0, .ro, 0x0, 0xFFFFFFFF⟩,
  ⟨0x802094, 1, 0x0, 1, 0x0, .ro, 0x0, 0xFFFFFFFF⟩]

/-- Block SWITCH (05 R183). -/
def rowsSwitch : List RegRow := [
  ⟨0x700000, 1, 0x0, 1, 0x0, .ro, 0x0, 0xFFFFFFFF⟩,
  ⟨0x700004, 1, 0x0, 1, 0x0, .wo, 0x0, 0xFFFFFFFF⟩,
  ⟨0x700008, 1, 0x0, 1, 0x0, .rw, 0x400, 0xFFFF⟩,
  ⟨0x70000C, 1, 0x0, 1, 0x0, .ro, 0x0, 0xFFFFFFFF⟩,
  ⟨0x700010, 1, 0x0, 1, 0x0, .ro, 0x0, 0xFFFFFFFF⟩,
  ⟨0x700014, 1, 0x0, 1, 0x0, .ro, 0x0, 0xFFFFFFFF⟩,
  ⟨0x700018, 1, 0x0, 1, 0x0, .ro, 0x0, 0xFFFFFFFF⟩,
  ⟨0x70001C, 1, 0x0, 1, 0x0, .ro, 0x0, 0xFFFFFFFF⟩,
  ⟨0x700020, 1, 0x0, 1, 0x0, .ro, 0x0, 0xFFFFFFFF⟩,
  ⟨0x700024, 1, 0x0, 1, 0x0, .ro, 0x0, 0xFFFFFFFF⟩,
  ⟨0x700028, 1, 0x0, 1, 0x0, .ro, 0x0, 0xFFFFFFFF⟩,
  ⟨0x700030, 1, 0x0, 1, 0x0, .rwl, 0x0, 0x10FFF⟩,
  ⟨0x700070, 1, 0x0, 1, 0x0, .w1c, 0x0, 0xFF⟩,
  ⟨0x700074, 1, 0x0, 1, 0x0, .ro, 0x0, 0xFFFFFFFF⟩,
  ⟨0x700078, 1, 0x0, 1, 0x0, .ro, 0x0, 0xFFFFFFFF⟩,
  ⟨0x70007C, 1, 0x0, 1, 0x0, .ro, 0x0, 0xFFFFFFFF⟩,
  ⟨0x700080, 1, 0x0, 1, 0x0, .ro, 0x0, 0xFFFFFFFF⟩,
  ⟨0x700100, 8, 0x10, 1, 0x0, .rw, 0x0, 0xFFFFFFFF⟩,
  ⟨0x700104, 8, 0x10, 1, 0x0, .rw, 0x1, 0xFFFF⟩,
  ⟨0x700108, 8, 0x10, 1, 0x0, .ro, 0x0, 0xFFFFFFFF⟩,
  ⟨0x701000, 192, 0x4, 1, 0x0, .rwl, 0x0, 0xFF⟩,
  ⟨0x701400, 192, 0x4, 1, 0x0, .rw, 0x8080808, 0xFFFFFFFF⟩,
  ⟨0x702000, 192, 0x20, 8, 0x4, .rw, 0x0, 0xFF⟩,
  ⟨0x704000, 256, 0x8, 1, 0x0, .rw, 0x0, 0x8000FFFF⟩,
  ⟨0x704004, 256, 0x8, 1, 0x0, .rw, 0x1000, 0x1FFF⟩,
  ⟨0x708000, 192, 0x40, 16, 0x4, .rw, 0x0, 0xFFFFFFFF⟩,
  ⟨0x70C000, 16, 0x8, 1, 0x0, .rw, 0x0, 0xFFFF⟩,
  ⟨0x70C004, 16, 0x8, 1, 0x0, .rw, 0x1000, 0x1FFF⟩,
  ⟨0x710000, 4096, 0x4, 1, 0x0, .rwl, 0x0, 0xFFFFFFFF⟩]

/-- Block POOL (06 R221). -/
def rowsPool : List RegRow := [
  ⟨0x900000, 1, 0x0, 1, 0x0, .ro, 0x0, 0xFFFFFFFF⟩,
  ⟨0x900004, 1, 0x0, 1, 0x0, .wo, 0x0, 0xFFFFFFFF⟩,
  ⟨0x900008, 1, 0x0, 1, 0x0, .rwl, 0x40, 0xFFFF⟩,
  ⟨0x90000C, 1, 0x0, 1, 0x0, .ro, 0x0, 0xFFFFFFFF⟩,
  ⟨0x900010, 1, 0x0, 1, 0x0, .ro, 0x0, 0xFFFFFFFF⟩,
  ⟨0x900014, 1, 0x0, 1, 0x0, .ro, 0x0, 0xFFFFFFFF⟩,
  ⟨0x900018, 1, 0x0, 1, 0x0, .rw, 0x8000, 0xFFFFFFFF⟩,
  ⟨0x90001C, 1, 0x0, 1, 0x0, .rw, 0x10000, 0xFFFFFFFF⟩,
  ⟨0x900020, 1, 0x0, 1, 0x0, .rw, 0x1000, 0xFFFF⟩,
  ⟨0x900024, 1, 0x0, 1, 0x0, .ro, 0x0, 0xFFFFFFFF⟩,
  ⟨0x900028, 1, 0x0, 1, 0x0, .ro, 0x0, 0xFFFFFFFF⟩,
  ⟨0x900030, 1, 0x0, 1, 0x0, .ro, 0x0, 0xFFFFFFFF⟩,
  ⟨0x900034, 1, 0x0, 1, 0x0, .ro, 0x0, 0xFFFFFFFF⟩,
  ⟨0x900040, 1, 0x0, 1, 0x0, .ro, 0x0, 0xFFFFFFFF⟩,
  ⟨0x900044, 1, 0x0, 1, 0x0, .ro, 0x0, 0xFFFFFFFF⟩,
  ⟨0x900048, 1, 0x0, 1, 0x0, .ro, 0x0, 0xFFFFFFFF⟩,
  ⟨0x90004C, 1, 0x0, 1, 0x0, .ro, 0x0, 0xFFFFFFFF⟩,
  ⟨0x900050, 1, 0x0, 1, 0x0, .ro, 0x0, 0xFFFFFFFF⟩,
  ⟨0x900054, 1, 0x0, 1, 0x0, .ro, 0x0, 0xFFFFFFFF⟩,
  ⟨0x900070, 1, 0x0, 1, 0x0, .w1c, 0x0, 0x7F⟩,
  ⟨0x900074, 1, 0x0, 1, 0x0, .ro, 0x0, 0xFFFFFFFF⟩,
  ⟨0x900078, 1, 0x0, 1, 0x0, .ro, 0x0, 0xFFFFFFFF⟩,
  ⟨0x90007C, 1, 0x0, 1, 0x0, .ro, 0x0, 0xFFFFFFFF⟩,
  ⟨0x900080, 1, 0x0, 1, 0x0, .ro, 0x0, 0xFFFFFFFF⟩,
  ⟨0x900100, 12, 0x4, 1, 0x0, .ro, 0x0, 0xFFFFFFFF⟩]

/-- Block STACK (06 R223). -/
def rowsStack : List RegRow := [
  ⟨0xA00000, 8, 0x10000, 1, 0x0, .ro, 0x0, 0xFFFFFFFF⟩,
  ⟨0xA00004, 8, 0x10000, 1, 0x0, .wo, 0x0, 0xFFFFFFFF⟩,
  ⟨0xA00008, 8, 0x10000, 1, 0x0, .rw, 0x18, 0xFFFF⟩,
  ⟨0xA0000C, 8, 0x10000, 1, 0x0, .ro, 0x0, 0xFFFFFFFF⟩,
  ⟨0xA00010, 8, 0x10000, 1, 0x0, .ro, 0x0, 0xFFFFFFFF⟩,
  ⟨0xA00014, 8, 0x10000, 1, 0x0, .ro, 0x0, 0xFFFFFFFF⟩,
  ⟨0xA00018, 8, 0x10000, 1, 0x0, .ro, 0x0, 0xFFFFFFFF⟩,
  ⟨0xA0001C, 8, 0x10000, 1, 0x0, .ro, 0x0, 0xFFFFFFFF⟩,
  ⟨0xA00020, 8, 0x10000, 1, 0x0, .ro, 0x0, 0xFFFFFFFF⟩,
  ⟨0xA00070, 8, 0x10000, 1, 0x0, .w1c, 0x0, 0x3F⟩,
  ⟨0xA00074, 8, 0x10000, 1, 0x0, .ro, 0x0, 0xFFFFFFFF⟩,
  ⟨0xA00078, 8, 0x10000, 1, 0x0, .ro, 0x0, 0xFFFFFFFF⟩,
  ⟨0xA0007C, 8, 0x10000, 1, 0x0, .ro, 0x0, 0xFFFFFFFF⟩,
  ⟨0xA00080, 8, 0x10000, 1, 0x0, .ro, 0x0, 0xFFFFFFFF⟩,
  ⟨0xA00084, 8, 0x10000, 1, 0x0, .ro, 0x0, 0xFFFFFFFF⟩]

/-- Block TRAY (07 R257). -/
def rowsTray0 : List RegRow := [
  ⟨0xB00000, 1, 0x0, 1, 0x0, .ro, 0x0, 0xFFFFFFFF⟩,
  ⟨0xB00004, 1, 0x0, 1, 0x0, .wo, 0x0, 0xFFFFFFFF⟩,
  ⟨0xB00008, 1, 0x0, 1, 0x0, .rwl, 0x78, 0xFFFF⟩,
  ⟨0xB0000C, 1, 0x0, 1, 0x0, .rw, 0xF000A, 0xFFFFFFFF⟩,
  ⟨0xB00010, 1, 0x0, 1, 0x0, .rw, 0xC8, 0xFFFF⟩,
  ⟨0xB00014, 1, 0x0, 1, 0x0, .rw, 0x7A12, 0xFFFF⟩,
  ⟨0xB00018, 1, 0x0, 1, 0x0, .rw, 0x46500A, 0xFFFFFF⟩,
  ⟨0xB0001C, 1, 0x0, 1, 0x0, .rw, 0x401000, 0xFFFFFFFF⟩,
  ⟨0xB00020, 1, 0x0, 1, 0x0, .ro, 0x0, 0xFFFFFFFF⟩,
  ⟨0xB00024, 1, 0x0, 1, 0x0, .ro, 0x0, 0xFFFFFFFF⟩,
  ⟨0xB00040, 1, 0x0, 1, 0x0, .ro, 0x0, 0xFFFFFFFF⟩,
  ⟨0xB00044, 1, 0x0, 1, 0x0, .ro, 0x0, 0xFFFFFFFF⟩,
  ⟨0xB00048, 1, 0x0, 1, 0x0, .ro, 0x0, 0xFFFFFFFF⟩,
  ⟨0xB0004C, 1, 0x0, 1, 0x0, .ro, 0x0, 0xFFFFFFFF⟩,
  ⟨0xB00050, 1, 0x0, 1, 0x0, .ro, 0x0, 0xFFFFFFFF⟩,
  ⟨0xB00070, 1, 0x0, 1, 0x0, .w1c, 0x0, 0xFF⟩,
  ⟨0xB00074, 1, 0x0, 1, 0x0, .ro, 0x0, 0xFFFFFFFF⟩,
  ⟨0xB00078, 1, 0x0, 1, 0x0, .ro, 0x0, 0xFFFFFFFF⟩,
  ⟨0xB0007C, 1, 0x0, 1, 0x0, .ro, 0x0, 0xFFFFFFFF⟩,
  ⟨0xB00080, 1, 0x0, 1, 0x0, .ro, 0x0, 0xFFFFFFFF⟩,
  ⟨0xB00090, 1, 0x0, 1, 0x0, .w1c, 0x0, 0xFF⟩,
  ⟨0xB00094, 1, 0x0, 1, 0x0, .ro, 0x0, 0xFFFFFFFF⟩,
  ⟨0xB00098, 1, 0x0, 1, 0x0, .ro, 0x0, 0xFFFFFFFF⟩,
  ⟨0xB0009C, 1, 0x0, 1, 0x0, .ro, 0x0, 0xFFFFFFFF⟩,
  ⟨0xB000A0, 1, 0x0, 1, 0x0, .ro, 0x0, 0xFFFFFFFF⟩,
  ⟨0xB10000, 32, 0x1000, 1, 0x0, .ro, 0x0, 0xFFFFFFFF⟩,
  ⟨0xB10004, 32, 0x1000, 1, 0x0, .ro, 0x0, 0xFFFFFFFF⟩,
  ⟨0xB10008, 32, 0x1000, 1, 0x0, .ro, 0x0, 0xFFFFFFFF⟩,
  ⟨0xB1000C, 32, 0x1000, 1, 0x0, .ro, 0x0, 0xFFFFFFFF⟩,
  ⟨0xB10010, 32, 0x1000, 1, 0x0, .ro, 0x0, 0xFFFFFFFF⟩,
  ⟨0xB10014, 32, 0x1000, 1, 0x0, .ro, 0x0, 0xFFFFFFFF⟩,
  ⟨0xB10018, 32, 0x1000, 1, 0x0, .ro, 0x0, 0xFFFFFFFF⟩,
  ⟨0xB1001C, 32, 0x1000, 1, 0x0, .ro, 0x0, 0xFFFFFFFF⟩,
  ⟨0xB10020, 32, 0x1000, 1, 0x0, .ro, 0x0, 0xFFFFFFFF⟩,
  ⟨0xB10024, 32, 0x1000, 1, 0x0, .ro, 0x0, 0xFFFFFFFF⟩,
  ⟨0xB10028, 32, 0x1000, 1, 0x0, .ro, 0x0, 0xFFFFFFFF⟩,
  ⟨0xB1002C, 32, 0x1000, 1, 0x0, .ro, 0x0, 0xFFFFFFFF⟩,
  ⟨0xB10030, 32, 0x1000, 1, 0x0, .ro, 0x0, 0xFFFFFFFF⟩,
  ⟨0xB10034, 32, 0x1000, 1, 0x0, .ro, 0x0, 0xFFFFFFFF⟩,
  ⟨0xB10038, 32, 0x1000, 4, 0x4, .ro, 0x0, 0xFFFFFFFF⟩]

/-- Block TRAY (07 R257). -/
def rowsTray1 : List RegRow := [
  ⟨0xB10100, 32, 0x1000, 64, 0x4, .ro, 0x0, 0xFFFFFFFF⟩]

/-- Block DIRECTORY (09 R317). -/
def rowsDirectory : List RegRow := [
  ⟨0xC00000, 1, 0x0, 1, 0x0, .ro, 0x0, 0xFFFFFFFF⟩,
  ⟨0xC00004, 1, 0x0, 1, 0x0, .wo, 0x0, 0xFFFFFFFF⟩,
  ⟨0xC00008, 1, 0x0, 1, 0x0, .rwl, 0x76, 0x77⟩,
  ⟨0xC0000C, 1, 0x0, 1, 0x0, .ro, 0x4, 0xFFFFFFFF⟩,
  ⟨0xC00010, 1, 0x0, 1, 0x0, .ro, 0x0, 0xFFFFFFFF⟩,
  ⟨0xC00014, 1, 0x0, 1, 0x0, .ro, 0x0, 0xFFFFFFFF⟩,
  ⟨0xC00018, 1, 0x0, 1, 0x0, .ro, 0x0, 0xFFFFFFFF⟩,
  ⟨0xC0001C, 1, 0x0, 1, 0x0, .ro, 0x0, 0xFFFFFFFF⟩,
  ⟨0xC00020, 1, 0x0, 1, 0x0, .ro, 0x0, 0xFFFFFFFF⟩,
  ⟨0xC00024, 1, 0x0, 1, 0x0, .ro, 0x0, 0xFFFFFFFF⟩,
  ⟨0xC00028, 1, 0x0, 1, 0x0, .ro, 0x0, 0xFFFFFFFF⟩,
  ⟨0xC00040, 1, 0x0, 1, 0x0, .ro, 0x0, 0xFFFFFFFF⟩,
  ⟨0xC00044, 1, 0x0, 1, 0x0, .ro, 0x0, 0xFFFFFFFF⟩,
  ⟨0xC00048, 1, 0x0, 1, 0x0, .ro, 0x0, 0xFFFFFFFF⟩,
  ⟨0xC0004C, 1, 0x0, 1, 0x0, .ro, 0x0, 0xFFFFFFFF⟩,
  ⟨0xC00050, 1, 0x0, 1, 0x0, .ro, 0x0, 0xFFFFFFFF⟩,
  ⟨0xC00054, 1, 0x0, 1, 0x0, .ro, 0x0, 0xFFFFFFFF⟩,
  ⟨0xC00058, 1, 0x0, 1, 0x0, .ro, 0x0, 0xFFFFFFFF⟩,
  ⟨0xC00070, 1, 0x0, 1, 0x0, .w1c, 0x0, 0x1FF⟩,
  ⟨0xC00074, 1, 0x0, 1, 0x0, .ro, 0x0, 0xFFFFFFFF⟩,
  ⟨0xC00078, 1, 0x0, 1, 0x0, .ro, 0x0, 0xFFFFFFFF⟩,
  ⟨0xC0007C, 1, 0x0, 1, 0x0, .ro, 0x0, 0xFFFFFFFF⟩,
  ⟨0xC00080, 1, 0x0, 1, 0x0, .ro, 0x0, 0xFFFFFFFF⟩,
  ⟨0xC00088, 1, 0x0, 1, 0x0, .ro, 0x0, 0xFFFFFFFF⟩,
  ⟨0xC0008C, 1, 0x0, 1, 0x0, .ro, 0x0, 0xFFFFFFFF⟩,
  ⟨0xC00100, 1, 0x0, 1, 0x0, .rw, 0x0, 0xFFFFFFFF⟩,
  ⟨0xC00104, 1, 0x0, 1, 0x0, .rw, 0x0, 0xFFFFFFFF⟩,
  ⟨0xC00108, 1, 0x0, 1, 0x0, .wo, 0x0, 0xFFFFFFFF⟩,
  ⟨0xC0010C, 1, 0x0, 1, 0x0, .ro, 0x0, 0xFFFFFFFF⟩,
  ⟨0xC00110, 1, 0x0, 1, 0x0, .ro, 0x0, 0xFFFFFFFF⟩,
  ⟨0xC00114, 1, 0x0, 1, 0x0, .ro, 0x0, 0xFFFFFFFF⟩]

/-- Block BENCH (10 R363). -/
def rowsBench : List RegRow := [
  ⟨0xD00000, 12, 0x10000, 14, 0x1000, .ro, 0x0, 0xFFFFFFFF⟩,
  ⟨0xD00004, 12, 0x10000, 14, 0x1000, .wo, 0x0, 0xFFFFFFFF⟩,
  ⟨0xD00008, 12, 0x10000, 14, 0x1000, .ro, 0x0, 0xFFFFFFFF⟩,
  ⟨0xD0000C, 12, 0x10000, 14, 0x1000, .ro, 0x0, 0xFFFFFFFF⟩,
  ⟨0xD00010, 12, 0x10000, 14, 0x1000, .ro, 0x0, 0xFFFFFFFF⟩,
  ⟨0xD00014, 12, 0x10000, 14, 0x1000, .ro, 0x0, 0xFFFFFFFF⟩,
  ⟨0xD00018, 12, 0x10000, 14, 0x1000, .ro, 0x0, 0xFFFFFFFF⟩,
  ⟨0xD0001C, 12, 0x10000, 14, 0x1000, .ro, 0x0, 0xFFFFFFFF⟩,
  ⟨0xD00020, 12, 0x10000, 14, 0x1000, .ro, 0x0, 0xFFFFFFFF⟩,
  ⟨0xD00024, 12, 0x10000, 14, 0x1000, .ro, 0x0, 0xFFFFFFFF⟩,
  ⟨0xD00070, 12, 0x10000, 14, 0x1000, .w1c, 0x0, 0x1FF⟩,
  ⟨0xD00074, 12, 0x10000, 14, 0x1000, .ro, 0x0, 0xFFFFFFFF⟩,
  ⟨0xD00078, 12, 0x10000, 14, 0x1000, .ro, 0x0, 0xFFFFFFFF⟩,
  ⟨0xD0007C, 12, 0x10000, 14, 0x1000, .ro, 0x0, 0xFFFFFFFF⟩,
  ⟨0xD00080, 12, 0x10000, 14, 0x1000, .ro, 0x0, 0xFFFFFFFF⟩,
  ⟨0xD00088, 12, 0x10000, 14, 0x1000, .ro, 0x0, 0xFFFFFFFF⟩,
  ⟨0xD0008C, 12, 0x10000, 14, 0x1000, .ro, 0x0, 0xFFFFFFFF⟩,
  ⟨0xD0F000, 12, 0x10000, 1, 0x0, .ro, 0x0, 0xFFFFFFFF⟩,
  ⟨0xD0F004, 12, 0x10000, 1, 0x0, .ro, 0x0, 0xFFFFFFFF⟩]

/-- Block ROLL (11 R396). -/
def rowsRoll : List RegRow := [
  ⟨0xE00000, 1, 0x0, 1, 0x0, .ro, 0x0, 0xFFFFFFFF⟩,
  ⟨0xE00004, 1, 0x0, 1, 0x0, .wo, 0x0, 0xFFFFFFFF⟩,
  ⟨0xE00008, 1, 0x0, 1, 0x0, .rw, 0x8400F, 0xFFFF0F⟩,
  ⟨0xE0000C, 1, 0x0, 1, 0x0, .rw, 0x1000, 0xFFFF⟩,
  ⟨0xE00010, 1, 0x0, 1, 0x0, .ro, 0x0, 0xFFFFFFFF⟩,
  ⟨0xE00014, 1, 0x0, 1, 0x0, .ro, 0x0, 0xFFFFFFFF⟩,
  ⟨0xE00018, 1, 0x0, 1, 0x0, .ro, 0x400, 0xFFFFFFFF⟩,
  ⟨0xE0001C, 1, 0x0, 1, 0x0, .ro, 0x100, 0xFFFFFFFF⟩,
  ⟨0xE00020, 1, 0x0, 1, 0x0, .ro, 0x0, 0xFFFFFFFF⟩,
  ⟨0xE00024, 1, 0x0, 1, 0x0, .ro, 0x0, 0xFFFFFFFF⟩,
  ⟨0xE00028, 1, 0x0, 1, 0x0, .ro, 0x0, 0xFFFFFFFF⟩,
  ⟨0xE0002C, 1, 0x0, 1, 0x0, .ro, 0x0, 0xFFFFFFFF⟩,
  ⟨0xE00030, 1, 0x0, 1, 0x0, .ro, 0x0, 0xFFFFFFFF⟩,
  ⟨0xE00040, 1, 0x0, 1, 0x0, .ro, 0x0, 0xFFFFFFFF⟩,
  ⟨0xE00044, 1, 0x0, 1, 0x0, .ro, 0x0, 0xFFFFFFFF⟩,
  ⟨0xE00048, 1, 0x0, 1, 0x0, .ro, 0x0, 0xFFFFFFFF⟩,
  ⟨0xE0004C, 1, 0x0, 1, 0x0, .ro, 0x0, 0xFFFFFFFF⟩,
  ⟨0xE00050, 1, 0x0, 1, 0x0, .ro, 0x0, 0xFFFFFFFF⟩,
  ⟨0xE00054, 1, 0x0, 1, 0x0, .ro, 0x0, 0xFFFFFFFF⟩,
  ⟨0xE00058, 1, 0x0, 1, 0x0, .ro, 0x0, 0xFFFFFFFF⟩,
  ⟨0xE0005C, 1, 0x0, 1, 0x0, .ro, 0x0, 0xFFFFFFFF⟩,
  ⟨0xE00070, 1, 0x0, 1, 0x0, .w1c, 0x0, 0x3FF⟩,
  ⟨0xE00074, 1, 0x0, 1, 0x0, .ro, 0x0, 0xFFFFFFFF⟩,
  ⟨0xE00078, 1, 0x0, 1, 0x0, .ro, 0x0, 0xFFFFFFFF⟩,
  ⟨0xE0007C, 1, 0x0, 1, 0x0, .ro, 0x0, 0xFFFFFFFF⟩,
  ⟨0xE00080, 1, 0x0, 1, 0x0, .ro, 0x0, 0xFFFFFFFF⟩,
  ⟨0xE00084, 1, 0x0, 1, 0x0, .ro, 0x0, 0xFFFFFFFF⟩,
  ⟨0xE00100, 1, 0x0, 1, 0x0, .rw, 0x0, 0x7FFF⟩,
  ⟨0xE00104, 1, 0x0, 1, 0x0, .wo, 0x0, 0xFFFFFFFF⟩,
  ⟨0xE00108, 1, 0x0, 1, 0x0, .ro, 0x0, 0xFFFFFFFF⟩,
  ⟨0xE00200, 64, 0x4, 1, 0x0, .ro, 0x0, 0xFFFFFFFF⟩]

/-- Block NETWORK (12 R429). -/
def rowsNetwork : List RegRow := [
  ⟨0xF00000, 1, 0x0, 1, 0x0, .ro, 0x0, 0xFFFFFFFF⟩,
  ⟨0xF00004, 1, 0x0, 1, 0x0, .wo, 0x0, 0xFFFFFFFF⟩,
  ⟨0xF00008, 1, 0x0, 1, 0x0, .rwl, 0x16, 0x1F⟩,
  ⟨0xF0000C, 1, 0x0, 1, 0x0, .ro, 0x0, 0xFFFFFFFF⟩,
  ⟨0xF00010, 1, 0x0, 1, 0x0, .ro, 0x0, 0xFFFFFFFF⟩,
  ⟨0xF00014, 1, 0x0, 1, 0x0, .ro, 0x0, 0xFFFFFFFF⟩,
  ⟨0xF00018, 1, 0x0, 1, 0x0, .ro, 0x0, 0xFFFFFFFF⟩,
  ⟨0xF0001C, 1, 0x0, 1, 0x0, .ro, 0x0, 0xFFFFFFFF⟩,
  ⟨0xF00020, 1, 0x0, 1, 0x0, .ro, 0x0, 0xFFFFFFFF⟩,
  ⟨0xF00024, 1, 0x0, 1, 0x0, .ro, 0x0, 0xFFFFFFFF⟩,
  ⟨0xF00028, 1, 0x0, 1, 0x0, .ro, 0x0, 0xFFFFFFFF⟩,
  ⟨0xF00070, 1, 0x0, 1, 0x0, .w1c, 0x0, 0x3FF⟩,
  ⟨0xF00074, 1, 0x0, 1, 0x0, .ro, 0x0, 0xFFFFFFFF⟩,
  ⟨0xF00078, 1, 0x0, 1, 0x0, .ro, 0x0, 0xFFFFFFFF⟩,
  ⟨0xF0007C, 1, 0x0, 1, 0x0, .ro, 0x0, 0xFFFFFFFF⟩,
  ⟨0xF00080, 1, 0x0, 1, 0x0, .ro, 0x0, 0xFFFFFFFF⟩,
  ⟨0xF00084, 1, 0x0, 1, 0x0, .ro, 0x0, 0xFFFFFFFF⟩,
  ⟨0xF01000, 36, 0x40, 1, 0x0, .ro, 0x0, 0xFFFFFFFF⟩,
  ⟨0xF01004, 36, 0x40, 1, 0x0, .ro, 0x0, 0xFFFFFFFF⟩,
  ⟨0xF01008, 36, 0x40, 1, 0x0, .ro, 0x0, 0xFFFFFFFF⟩,
  ⟨0xF0100C, 36, 0x40, 1, 0x0, .ro, 0x0, 0xFFFFFFFF⟩,
  ⟨0xF01010, 36, 0x40, 1, 0x0, .ro, 0x0, 0xFFFFFFFF⟩,
  ⟨0xF01014, 36, 0x40, 1, 0x0, .ro, 0x0, 0xFFFFFFFF⟩,
  ⟨0xF01018, 36, 0x40, 1, 0x0, .ro, 0x0, 0xFFFFFFFF⟩,
  ⟨0xF0101C, 36, 0x40, 1, 0x0, .ro, 0x0, 0xFFFFFFFF⟩]

/-- Block VENEER (13 R449). -/
def rowsVeneer : List RegRow := [
  ⟨0x1000000, 1, 0x0, 1, 0x0, .ro, 0x0, 0xFFFFFFFF⟩,
  ⟨0x1000004, 1, 0x0, 1, 0x0, .wo, 0x0, 0xFFFFFFFF⟩,
  ⟨0x1000008, 1, 0x0, 1, 0x0, .rw, 0x7000, 0xFFFF⟩,
  ⟨0x1000010, 1, 0x0, 1, 0x0, .ro, 0x0, 0xFFFFFFFF⟩,
  ⟨0x1000014, 1, 0x0, 1, 0x0, .ro, 0x0, 0xFFFFFFFF⟩,
  ⟨0x1000018, 1, 0x0, 1, 0x0, .ro, 0x0, 0xFFFFFFFF⟩,
  ⟨0x100001C, 1, 0x0, 1, 0x0, .ro, 0x0, 0xFFFFFFFF⟩,
  ⟨0x1000020, 1, 0x0, 1, 0x0, .ro, 0x0, 0xFFFFFFFF⟩,
  ⟨0x1000024, 1, 0x0, 1, 0x0, .ro, 0x0, 0xFFFFFFFF⟩,
  ⟨0x1000028, 1, 0x0, 1, 0x0, .ro, 0x0, 0xFFFFFFFF⟩,
  ⟨0x100002C, 1, 0x0, 1, 0x0, .ro, 0x0, 0xFFFFFFFF⟩,
  ⟨0x1000030, 1, 0x0, 1, 0x0, .ro, 0x0, 0xFFFFFFFF⟩,
  ⟨0x1000034, 1, 0x0, 1, 0x0, .ro, 0x0, 0xFFFFFFFF⟩,
  ⟨0x1000040, 6, 0x4, 1, 0x0, .ro, 0x0, 0xFFFFFFFF⟩,
  ⟨0x1000070, 1, 0x0, 1, 0x0, .w1c, 0x0, 0x7F⟩,
  ⟨0x1000074, 1, 0x0, 1, 0x0, .ro, 0x0, 0xFFFFFFFF⟩,
  ⟨0x1000078, 1, 0x0, 1, 0x0, .ro, 0x0, 0xFFFFFFFF⟩,
  ⟨0x100007C, 1, 0x0, 1, 0x0, .ro, 0x0, 0xFFFFFFFF⟩,
  ⟨0x1000080, 1, 0x0, 1, 0x0, .ro, 0x0, 0xFFFFFFFF⟩,
  ⟨0x1000088, 1, 0x0, 1, 0x0, .ro, 0x0, 0xFFFFFFFF⟩,
  ⟨0x100008C, 1, 0x0, 1, 0x0, .ro, 0x0, 0xFFFFFFFF⟩,
  ⟨0x1001000, 256, 0x4, 1, 0x0, .ro, 0x0, 0xFFFFFFFF⟩,
  ⟨0x1002000, 256, 0x40, 4, 0x10, .ro, 0x0, 0xFFFFFFFF⟩,
  ⟨0x1002004, 256, 0x40, 4, 0x10, .ro, 0x0, 0xFFFFFFFF⟩,
  ⟨0x1002008, 256, 0x40, 4, 0x10, .ro, 0x0, 0xFFFFFFFF⟩,
  ⟨0x100200C, 256, 0x40, 4, 0x10, .ro, 0x0, 0xFFFFFFFF⟩,
  ⟨0x1008000, 16, 0x20, 1, 0x0, .ro, 0x0, 0xFFFFFFFF⟩,
  ⟨0x1008004, 16, 0x20, 1, 0x0, .ro, 0x0, 0xFFFFFFFF⟩,
  ⟨0x1008008, 16, 0x20, 1, 0x0, .ro, 0x0, 0xFFFFFFFF⟩,
  ⟨0x100800C, 16, 0x20, 1, 0x0, .ro, 0x0, 0xFFFFFFFF⟩]

/-- Block HOST (14 R482). -/
def rowsHost : List RegRow := [
  ⟨0x1100000, 2, 0x8000, 1, 0x0, .ro, 0x0, 0xFFFFFFFF⟩,
  ⟨0x1100004, 2, 0x8000, 1, 0x0, .wo, 0x0, 0xFFFFFFFF⟩,
  ⟨0x1100008, 2, 0x8000, 1, 0x0, .rw, 0x44, 0xFFF77⟩,
  ⟨0x110000C, 2, 0x8000, 1, 0x0, .ro, 0x0, 0xFFFFFFFF⟩,
  ⟨0x1100010, 2, 0x8000, 1, 0x0, .ro, 0x0, 0xFFFFFFFF⟩,
  ⟨0x1100014, 2, 0x8000, 1, 0x0, .ro, 0x0, 0xFFFFFFFF⟩,
  ⟨0x1100018, 2, 0x8000, 1, 0x0, .ro, 0x0, 0xFFFFFFFF⟩,
  ⟨0x110001C, 2, 0x8000, 1, 0x0, .ro, 0x0, 0xFFFFFFFF⟩,
  ⟨0x1100070, 2, 0x8000, 1, 0x0, .w1c, 0x0, 0x1FFF⟩,
  ⟨0x1100074, 2, 0x8000, 1, 0x0, .ro, 0x0, 0xFFFFFFFF⟩,
  ⟨0x1100078, 2, 0x8000, 1, 0x0, .ro, 0x0, 0xFFFFFFFF⟩,
  ⟨0x110007C, 2, 0x8000, 1, 0x0, .ro, 0x0, 0xFFFFFFFF⟩,
  ⟨0x1100080, 2, 0x8000, 1, 0x0, .ro, 0x0, 0xFFFFFFFF⟩,
  ⟨0x1100088, 2, 0x8000, 1, 0x0, .ro, 0x0, 0xFFFFFFFF⟩,
  ⟨0x110008C, 2, 0x8000, 1, 0x0, .ro, 0x0, 0xFFFFFFFF⟩,
  ⟨0x1100100, 2, 0x8000, 64, 0x8, .rw, 0x0, 0xC003FFC1⟩,
  ⟨0x1100104, 2, 0x8000, 64, 0x8, .rw, 0x0, 0xFFFFFFFF⟩,
  ⟨0x1101000, 2, 0x8000, 64, 0x20, .rw, 0x0, 0xFFFFF000⟩,
  ⟨0x1101004, 2, 0x8000, 64, 0x20, .rw, 0x0, 0xFFFFFFFF⟩,
  ⟨0x1101008, 2, 0x8000, 64, 0x20, .rw, 0x0, 0x803F001F⟩,
  ⟨0x110100C, 2, 0x8000, 64, 0x20, .ro, 0x0, 0xFFFFFFFF⟩,
  ⟨0x1101010, 2, 0x8000, 64, 0x20, .ro, 0x0, 0xFFFFFFFF⟩,
  ⟨0x1101014, 2, 0x8000, 64, 0x20, .ro, 0x0, 0xFFFFFFFF⟩,
  ⟨0x1102000, 2, 0x8000, 64, 0x20, .rw, 0x0, 0xFFFFF000⟩,
  ⟨0x1102004, 2, 0x8000, 64, 0x20, .rw, 0x0, 0xFFFFFFFF⟩,
  ⟨0x1102008, 2, 0x8000, 64, 0x20, .rw, 0x0, 0xFFFFFFDF⟩,
  ⟨0x110200C, 2, 0x8000, 64, 0x20, .ro, 0x0, 0xFFFFFFFF⟩,
  ⟨0x1102010, 2, 0x8000, 64, 0x20, .ro, 0x0, 0xFFFFFFFF⟩,
  ⟨0x1103000, 2, 0x8000, 1, 0x0, .rw, 0x0, 0xFFFFF000⟩,
  ⟨0x1103004, 2, 0x8000, 1, 0x0, .rw, 0x0, 0xFFFFFFFF⟩,
  ⟨0x1103008, 2, 0x8000, 1, 0x0, .rw, 0x0, 0xFFFFFFDF⟩,
  ⟨0x110300C, 2, 0x8000, 1, 0x0, .ro, 0x0, 0xFFFFFFFF⟩,
  ⟨0x1103010, 2, 0x8000, 1, 0x0, .ro, 0x0, 0xFFFFFFFF⟩,
  ⟨0x1103014, 2, 0x8000, 1, 0x0, .ro, 0x0, 0xFFFFFFFF⟩]

/-- Block SECURITY (15 R505). -/
def rowsSecurity : List RegRow := [
  ⟨0x1200000, 1, 0x0, 1, 0x0, .ro, 0x0, 0xFFFFFFFF⟩,
  ⟨0x1200004, 1, 0x0, 1, 0x0, .w1s, 0x0, 0x1⟩,
  ⟨0x1200008, 1, 0x0, 1, 0x0, .wo, 0x0, 0xFFFFFFFF⟩,
  ⟨0x1200010, 1, 0x0, 1, 0x0, .ro, 0x0, 0xFFFFFFFF⟩,
  ⟨0x1200014, 1, 0x0, 1, 0x0, .ro, 0x0, 0xFFFFFFFF⟩,
  ⟨0x1200018, 1, 0x0, 1, 0x0, .ro, 0x0, 0xFFFFFFFF⟩,
  ⟨0x120001C, 1, 0x0, 1, 0x0, .ro, 0x0, 0xFFFFFFFF⟩,
  ⟨0x1200020, 8, 0x4, 1, 0x0, .ro, 0x0, 0xFFFFFFFF⟩,
  ⟨0x1200060, 1, 0x0, 1, 0x0, .ro, 0x0, 0xFFFFFFFF⟩,
  ⟨0x1200064, 1, 0x0, 1, 0x0, .ro, 0x0, 0xFFFFFFFF⟩,
  ⟨0x1200068, 1, 0x0, 1, 0x0, .ro, 0x0, 0xFFFFFFFF⟩,
  ⟨0x120006C, 1, 0x0, 1, 0x0, .ro, 0x0, 0xFFFFFFFF⟩,
  ⟨0x1200070, 1, 0x0, 1, 0x0, .w1c, 0x0, 0x7F⟩,
  ⟨0x1200074, 1, 0x0, 1, 0x0, .ro, 0x0, 0xFFFFFFFF⟩,
  ⟨0x1200078, 1, 0x0, 1, 0x0, .ro, 0x0, 0xFFFFFFFF⟩,
  ⟨0x120007C, 1, 0x0, 1, 0x0, .ro, 0x0, 0xFFFFFFFF⟩,
  ⟨0x1200080, 1, 0x0, 1, 0x0, .ro, 0x0, 0xFFFFFFFF⟩,
  ⟨0x1200084, 1, 0x0, 1, 0x0, .ro, 0x0, 0xFFFFFFFF⟩,
  ⟨0x1200100, 16, 0x4, 1, 0x0, .ro, 0x0, 0xFFFFFFFF⟩,
  ⟨0x1200200, 8, 0x40, 16, 0x4, .ro, 0x0, 0xFFFFFFFF⟩,
  ⟨0x1201000, 16, 0x80, 16, 0x4, .rwl, 0x0, 0xFFFFFFFF⟩,
  ⟨0x1201040, 16, 0x80, 1, 0x0, .rwl, 0x0, 0x1FF⟩]

/-- Block FAULT (16 R523, 17 R538). -/
def rowsFault0 : List RegRow := [
  ⟨0x1300000, 1, 0x0, 1, 0x0, .ro, 0x0, 0xFFFFFFFF⟩,
  ⟨0x1300010, 6, 0x4, 1, 0x0, .ro, 0x0, 0xFFFFFFFF⟩,
  ⟨0x1300028, 6, 0x4, 1, 0x0, .ro, 0x0, 0xFFFFFFFF⟩,
  ⟨0x1300040, 1, 0x0, 1, 0x0, .ro, 0x0, 0xFFFFFFFF⟩,
  ⟨0x1300050, 1, 0x0, 1, 0x0, .ro, 0x0, 0xFFFFFFFF⟩,
  ⟨0x1300054, 1, 0x0, 1, 0x0, .ro, 0x0, 0xFFFFFFFF⟩,
  ⟨0x1300058, 1, 0x0, 1, 0x0, .wo, 0x0, 0xFFFFFFFF⟩,
  ⟨0x130005C, 1, 0x0, 1, 0x0, .wo, 0x0, 0xFFFFFFFF⟩,
  ⟨0x1300060, 1, 0x0, 1, 0x0, .wo, 0x0, 0xFFFFFFFF⟩,
  ⟨0x1300064, 1, 0x0, 1, 0x0, .wo, 0x0, 0xFFFFFFFF⟩,
  ⟨0x1300070, 1, 0x0, 1, 0x0, .w1c, 0x0, 0x7F⟩,
  ⟨0x1300074, 1, 0x0, 1, 0x0, .ro, 0x0, 0xFFFFFFFF⟩,
  ⟨0x1300078, 1, 0x0, 1, 0x0, .ro, 0x0, 0xFFFFFFFF⟩,
  ⟨0x130007C, 1, 0x0, 1, 0x0, .ro, 0x0, 0xFFFFFFFF⟩,
  ⟨0x1300080, 1, 0x0, 1, 0x0, .ro, 0x0, 0xFFFFFFFF⟩,
  ⟨0x1300084, 1, 0x0, 1, 0x0, .ro, 0x0, 0xFFFFFFFF⟩,
  ⟨0x1300100, 1, 0x0, 1, 0x0, .ro, 0x0, 0xFFFFFFFF⟩,
  ⟨0x1300104, 1, 0x0, 1, 0x0, .ro, 0x0, 0xFFFFFFFF⟩,
  ⟨0x1300108, 1, 0x0, 1, 0x0, .ro, 0x0, 0xFFFFFFFF⟩,
  ⟨0x130010C, 1, 0x0, 1, 0x0, .ro, 0x0, 0xFFFFFFFF⟩,
  ⟨0x1300110, 1, 0x0, 1, 0x0, .ro, 0x8, 0xFFFFFFFF⟩,
  ⟨0x1300180, 6, 0x4, 1, 0x0, .rw, 0x0, 0xFFFFFFFF⟩,
  ⟨0x1300198, 1, 0x0, 1, 0x0, .rw, 0x0, 0xFFFFFFFF⟩,
  ⟨0x130019C, 1, 0x0, 1, 0x0, .rw, 0x0, 0xF⟩,
  ⟨0x1300200, 64, 0x8, 1, 0x0, .ro, 0x0, 0xFFFFFFFF⟩,
  ⟨0x1300204, 64, 0x8, 1, 0x0, .ro, 0x0, 0xFFFFFFFF⟩,
  ⟨0x1300800, 1, 0x0, 1, 0x0, .ro, 0x0, 0xFFFFFFFF⟩,
  ⟨0x1300804, 1, 0x0, 1, 0x0, .wo, 0x0, 0xFFFFFFFF⟩,
  ⟨0x1300808, 1, 0x0, 1, 0x0, .rw, 0x0, 0xFFFFFFFF⟩,
  ⟨0x130080C, 1, 0x0, 1, 0x0, .ro, 0x0, 0xFFFFFFFF⟩,
  ⟨0x1300810, 1, 0x0, 1, 0x0, .ro, 0x0, 0xFFFFFFFF⟩,
  ⟨0x1300814, 1, 0x0, 1, 0x0, .ro, 0x0, 0xFFFFFFFF⟩,
  ⟨0x1300818, 1, 0x0, 1, 0x0, .ro, 0x0, 0xFFFFFFFF⟩,
  ⟨0x130081C, 1, 0x0, 1, 0x0, .ro, 0x0, 0xFFFFFFFF⟩,
  ⟨0x1300820, 1, 0x0, 1, 0x0, .wo, 0x0, 0xFFFFFFFF⟩,
  ⟨0x1300824, 1, 0x0, 1, 0x0, .ro, 0x0, 0xFFFFFFFF⟩,
  ⟨0x1300828, 1, 0x0, 1, 0x0, .ro, 0x0, 0xFFFFFFFF⟩,
  ⟨0x130082C, 1, 0x0, 1, 0x0, .rwl, 0x200, 0xFFFF⟩,
  ⟨0x1300830, 1, 0x0, 1, 0x0, .ro, 0x0, 0xFFFFFFFF⟩,
  ⟨0x1300834, 1, 0x0, 1, 0x0, .ro, 0x0, 0xFFFFFFFF⟩]

/-- Block FAULT (16 R523, 17 R538). -/
def rowsFault1 : List RegRow := [
  ⟨0x1300838, 1, 0x0, 1, 0x0, .wo, 0x0, 0xFFFFFFFF⟩,
  ⟨0x130083C, 1, 0x0, 1, 0x0, .ro, 0x0, 0xFFFFFFFF⟩,
  ⟨0x1300840, 6, 0x4, 1, 0x0, .ro, 0x0, 0xFFFFFFFF⟩]

/-- Block TEST (18 R553). -/
def rowsTest : List RegRow := [
  ⟨0x1400000, 1, 0x0, 1, 0x0, .wo, 0x0, 0xFFFFFFFF⟩,
  ⟨0x1400004, 1, 0x0, 1, 0x0, .ro, 0x0, 0xFFFFFFFF⟩,
  ⟨0x1400008, 1, 0x0, 1, 0x0, .ro, 0x0, 0xFFFFFFFF⟩,
  ⟨0x140000C, 1, 0x0, 1, 0x0, .ro, 0x0, 0xFFFFFFFF⟩,
  ⟨0x1400010, 1, 0x0, 1, 0x0, .ro, 0x0, 0xFFFFFFFF⟩,
  ⟨0x1400040, 1, 0x0, 1, 0x0, .wo, 0x0, 0xFFFFFFFF⟩,
  ⟨0x1400044, 1, 0x0, 1, 0x0, .ro, 0x0, 0xFFFFFFFF⟩,
  ⟨0x1400048, 1, 0x0, 1, 0x0, .ro, 0x0, 0xFFFFFFFF⟩,
  ⟨0x140004C, 1, 0x0, 1, 0x0, .ro, 0x0, 0xFFFFFFFF⟩,
  ⟨0x1400050, 8, 0x4, 1, 0x0, .ro, 0x0, 0xFFFFFFFF⟩,
  ⟨0x1400080, 1, 0x0, 1, 0x0, .ro, 0x0, 0xFFFFFFFF⟩,
  ⟨0x1400084, 1, 0x0, 1, 0x0, .ro, 0x0, 0xFFFFFFFF⟩,
  ⟨0x1400088, 1, 0x0, 1, 0x0, .ro, 0x0, 0xFFFFFFFF⟩,
  ⟨0x140008C, 1, 0x0, 1, 0x0, .ro, 0x0, 0xFFFFFFFF⟩,
  ⟨0x1400090, 1, 0x0, 1, 0x0, .ro, 0x0, 0xFFFFFFFF⟩,
  ⟨0x1400094, 1, 0x0, 1, 0x0, .ro, 0x0, 0xFFFFFFFF⟩,
  ⟨0x1400098, 1, 0x0, 1, 0x0, .ro, 0x0, 0xFFFFFFFF⟩,
  ⟨0x140009C, 1, 0x0, 1, 0x0, .ro, 0x0, 0xFFFFFFFF⟩,
  ⟨0x1400100, 16, 0x4, 1, 0x0, .ro, 0x0, 0xFFFFFFFF⟩,
  ⟨0x1400200, 4, 0x20, 1, 0x0, .rw, 0x0, 0xFFFF0000⟩,
  ⟨0x1400204, 4, 0x20, 1, 0x0, .rw, 0x0, 0x7FFFFF1F⟩,
  ⟨0x1400208, 4, 0x20, 1, 0x0, .rw, 0x0, 0xFFF⟩,
  ⟨0x140020C, 4, 0x20, 1, 0x0, .ro, 0x0, 0xFFFFFFFF⟩,
  ⟨0x1400210, 4, 0x20, 1, 0x0, .ro, 0x0, 0xFFFFFFFF⟩,
  ⟨0x1400214, 4, 0x20, 1, 0x0, .ro, 0x0, 0xFFFFFFFF⟩,
  ⟨0x1400218, 4, 0x20, 1, 0x0, .ro, 0x0, 0xFFFFFFFF⟩]

/-- Block TELEMETRY (19 R564). -/
def rowsTelemetry : List RegRow := [
  ⟨0x1500000, 1, 0x0, 1, 0x0, .ro, 0x0, 0xFFFFFFFF⟩,
  ⟨0x1500004, 1, 0x0, 1, 0x0, .wo, 0x0, 0xFFFFFFFF⟩,
  ⟨0x1500008, 1, 0x0, 1, 0x0, .rw, 0x64, 0xFF⟩,
  ⟨0x1500010, 1, 0x0, 1, 0x0, .ro, 0x0, 0xFFFFFFFF⟩,
  ⟨0x1500014, 6, 0x4, 1, 0x0, .ro, 0x0, 0xFFFFFFFF⟩,
  ⟨0x1500030, 1, 0x0, 1, 0x0, .ro, 0x0, 0xFFFFFFFF⟩,
  ⟨0x1500034, 1, 0x0, 1, 0x0, .ro, 0x0, 0xFFFFFFFF⟩,
  ⟨0x1500040, 1, 0x0, 1, 0x0, .ro, 0x0, 0xFFFFFFFF⟩,
  ⟨0x1500044, 1, 0x0, 1, 0x0, .ro, 0x0, 0xFFFFFFFF⟩,
  ⟨0x1500048, 1, 0x0, 1, 0x0, .ro, 0x0, 0xFFFFFFFF⟩,
  ⟨0x150004C, 1, 0x0, 1, 0x0, .ro, 0x0, 0xFFFFFFFF⟩,
  ⟨0x1500050, 1, 0x0, 1, 0x0, .ro, 0x0, 0xFFFFFFFF⟩,
  ⟨0x1500054, 1, 0x0, 1, 0x0, .ro, 0x0, 0xFFFFFFFF⟩,
  ⟨0x1500058, 1, 0x0, 1, 0x0, .ro, 0x0, 0xFFFFFFFF⟩]

/-- The rows of the block an offset lies in (the table of R10). -/
def regRows (off : Nat) : List RegRow :=
  if off < 0x100000 then rowsGlobal0 ++ rowsGlobal1 else
  if off < 0x200000 then rowsBell else
  if off < 0x400000 then rowsTimetable else
  if off < 0x700000 then rowsPort else
  if off < 0x800000 then rowsSwitch else
  if off < 0x900000 then rowsMortise else
  if off < 0xA00000 then rowsPool else
  if off < 0xB00000 then rowsStack else
  if off < 0xC00000 then rowsTray0 ++ rowsTray1 else
  if off < 0xD00000 then rowsDirectory else
  if off < 0xE00000 then rowsBench else
  if off < 0xF00000 then rowsRoll else
  if off < 0x1000000 then rowsNetwork else
  if off < 0x1100000 then rowsVeneer else
  if off < 0x1200000 then rowsHost else
  if off < 0x1300000 then rowsSecurity else
  if off < 0x1400000 then rowsFault0 ++ rowsFault1 else
  if off < 0x1500000 then rowsTest else
  rowsTelemetry

/-- The row of a register, none at an unassigned offset. -/
def regRow (off : Nat) : Option RegRow := (regRows off).find? (·.covers off)

/-- The reset value of a register; 0 at an unassigned offset (R9). -/
def regReset (off : Nat) : Word :=
  match regRow off with
  | some r => r.reset
  | none => 0

namespace Reg

/-- VENDOR_ID (01 R33). -/
abbrev vendorId : Nat := 0x0
/-- DEVICE_ID (01 R33). -/
abbrev deviceId : Nat := 0x4
/-- STEPPING (01 R33). -/
abbrev stepping : Nat := 0x8
/-- LINK_PROTOCOL (01 R33). -/
abbrev linkProtocol : Nat := 0xC
/-- SCALE_STATUS (01 R33). -/
abbrev scaleStatus : Nat := 0x10
/-- SC_SWITCH_BITS (01 R33). -/
abbrev scSwitchBits : Nat := 0x100
/-- SC_PORTS (01 R33). -/
abbrev scPorts : Nat := 0x104
/-- SC_LANES (01 R33). -/
abbrev scLanes : Nat := 0x108
/-- SC_TRAY_PORTS_MAX (01 R33). -/
abbrev scTrayPortsMax : Nat := 0x10C
/-- SC_JOBS (01 R33). -/
abbrev scJobs : Nat := 0x110
/-- SC_DRAWERS (01 R33). -/
abbrev scDrawers : Nat := 0x114
/-- SC_DRAWER_MIN_LOG2 (01 R33). -/
abbrev scDrawerMinLog2 : Nat := 0x118
/-- SC_PARTITIONS (01 R33). -/
abbrev scPartitions : Nat := 0x11C
/-- SC_STACKS (01 R33). -/
abbrev scStacks : Nat := 0x120
/-- SC_STACK_GIB (01 R33). -/
abbrev scStackGib : Nat := 0x124
/-- SC_CLUSTERS (01 R33). -/
abbrev scClusters : Nat := 0x128
/-- SC_BENCHES_PER_CLUSTER (01 R33). -/
abbrev scBenchesPerCluster : Nat := 0x12C
/-- SC_BENCH_STORE_KIB (01 R33). -/
abbrev scBenchStoreKib : Nat := 0x130
/-- SC_WINDOW_MIB (01 R33). -/
abbrev scWindowMib : Nat := 0x134
/-- SC_DIR_ENTRIES (01 R33). -/
abbrev scDirEntries : Nat := 0x138
/-- SC_ROLL_ENTRIES (01 R33). -/
abbrev scRollEntries : Nat := 0x13C
/-- SC_PLANK_BYTES (01 R33). -/
abbrev scPlankBytes : Nat := 0x140
/-- SC_LINE_BYTES (01 R33). -/
abbrev scLineBytes : Nat := 0x144
/-- SC_OUTSTANDING (01 R33). -/
abbrev scOutstanding : Nat := 0x148
/-- SC_TT_PORT_ENTRIES (01 R33). -/
abbrev scTtPortEntries : Nat := 0x14C
/-- SC_TT_BENCH_ENTRIES (01 R33). -/
abbrev scTtBenchEntries : Nat := 0x150
/-- SC_TT_NET_ENTRIES (01 R33). -/
abbrev scTtNetEntries : Nat := 0x154
/-- SC_TERM_MAX (01 R33). -/
abbrev scTermMax : Nat := 0x158
/-- SC_REDUCE_UNITS (01 R33). -/
abbrev scReduceUnits : Nat := 0x15C
/-- SC_GATHER_UNITS (01 R33). -/
abbrev scGatherUnits : Nat := 0x160
/-- SC_FILTER_UNITS (01 R33). -/
abbrev scFilterUnits : Nat := 0x164
/-- SC_MIGRATION_DMA (01 R33). -/
abbrev scMigrationDma : Nat := 0x168
/-- SC_REDUCE_FANIN (01 R33). -/
abbrev scReduceFanin : Nat := 0x16C
/-- SC_TOPK_MAX (01 R33). -/
abbrev scTopkMax : Nat := 0x170
/-- SC_BASIS_STREAMS (01 R33). -/
abbrev scBasisStreams : Nat := 0x174
/-- SC_BASIS_GEN_SLOTS (01 R33). -/
abbrev scBasisGenSlots : Nat := 0x178
/-- SC_PREFIX_ENTRIES (01 R33). -/
abbrev scPrefixEntries : Nat := 0x17C
/-- SC_FLASH_MANAGED_LO (01 R33). -/
abbrev scFlashManagedLo : Nat := 0x180
/-- SC_FLASH_MANAGED_HI (01 R33). -/
abbrev scFlashManagedHi : Nat := 0x184
/-- SC_MAP_RESERVE_LO (01 R33). -/
abbrev scMapReserveLo : Nat := 0x188
/-- SC_MAP_RESERVE_HI (01 R33). -/
abbrev scMapReserveHi : Nat := 0x18C
/-- SC_STACK_USABLE_LO (01 R33). -/
abbrev scStackUsableLo : Nat := 0x190
/-- SC_STACK_USABLE_HI (01 R33). -/
abbrev scStackUsableHi : Nat := 0x194
/-- SC_TERM_LENGTH (01 R33). -/
abbrev scTermLength : Nat := 0x198
/-- SC_SWITCH_NUMBER (01 R33). -/
abbrev scSwitchNumber : Nat := 0x19C
/-- BELL_CTRL (02 R87). -/
abbrev bellCtrl : Nat := 0x100000
/-- BELL_STATUS (02 R87). -/
abbrev bellStatus : Nat := 0x100004
/-- BELL_MASTER (02 R87). -/
abbrev bellMaster : Nat := 0x100008
/-- BELL_HOPS (02 R87). -/
abbrev bellHops : Nat := 0x10000C
/-- BELL_NOW_LO (02 R87). -/
abbrev bellNowLo : Nat := 0x100010
/-- BELL_NOW_HI (02 R87). -/
abbrev bellNowHi : Nat := 0x100014
/-- BELL_PPS_STAMP_LO (02 R87). -/
abbrev bellPpsStampLo : Nat := 0x100018
/-- BELL_PPS_STAMP_HI (02 R87). -/
abbrev bellPpsStampHi : Nat := 0x10001C
/-- BELL_OFFSET (02 R87). -/
abbrev bellOffset : Nat := 0x100020
/-- BELL_TIME_LINK (02 R87). -/
abbrev bellTimeLink : Nat := 0x100024
/-- BELL_HOLDOVER (02 R87). -/
abbrev bellHoldover : Nat := 0x100028
/-- BELL_ERR (02 R87). -/
abbrev bellErr : Nat := 0x10002C
/-- BELL_ERR_COUNT (02 R87). -/
abbrev bellErrCount : Nat := 0x100030
/-- BELL_ERR_FIRST_LO (02 R87). -/
abbrev bellErrFirstLo : Nat := 0x100034
/-- BELL_ERR_FIRST_HI (02 R87). -/
abbrev bellErrFirstHi : Nat := 0x100038
/-- TT_STATUS (02 R88). -/
abbrev ttStatus : Nat := 0x200000
/-- TT_ACTIVE_TAG (02 R88). -/
abbrev ttActiveTag : Nat := 0x200004
/-- TT_ARMED_TAG (02 R88). -/
abbrev ttArmedTag : Nat := 0x200008
/-- TT_ARMED_TERM_LEN (02 R88). -/
abbrev ttArmedTermLen : Nat := 0x20000C
/-- TT_SO_POINT_LO (02 R88). -/
abbrev ttSoPointLo : Nat := 0x200010
/-- TT_SO_POINT_HI (02 R88). -/
abbrev ttSoPointHi : Nat := 0x200014
/-- TT_LOAD_INERT (02 R88). -/
abbrev ttLoadInert : Nat := 0x200018
/-- TT_ERR (02 R88). -/
abbrev ttErr : Nat := 0x20001C
/-- TT_ERR_COUNT (02 R88). -/
abbrev ttErrCount : Nat := 0x200020
/-- TT_ERR_FIRST_LO (02 R88). -/
abbrev ttErrFirstLo : Nat := 0x200024
/-- TT_ERR_FIRST_HI (02 R88). -/
abbrev ttErrFirstHi : Nat := 0x200028
/-- TT_OVERRUN_UNIT (02 R88). -/
abbrev ttOverrunUnit : Nat := 0x20002C
/-- TT_LEAD_MIN (02 R88). -/
abbrev ttLeadMin : Nat := 0x200030
/-- TT_COMMIT_LEAD (02 R88). -/
abbrev ttCommitLead : Nat := 0x200034
/-- PORT_CFG (03 R125). -/
abbrev portCfg (i : Nat) : Nat := 0x400000 + 0x4000 * i
/-- PORT_CTRL (03 R125). -/
abbrev portCtrl (i : Nat) : Nat := 0x400004 + 0x4000 * i
/-- PORT_STATUS (03 R125). -/
abbrev portStatus (i : Nat) : Nat := 0x400008 + 0x4000 * i
/-- PORT_PEER (03 R125). -/
abbrev portPeer (i : Nat) : Nat := 0x40000C + 0x4000 * i
/-- PORT_PEER_PORT (03 R125). -/
abbrev portPeerPort (i : Nat) : Nat := 0x400010 + 0x4000 * i
/-- PORT_LANE_MAP (03 R125). -/
abbrev portLaneMap (i : Nat) : Nat := 0x400014 + 0x4000 * i
/-- PORT_TRAIN_FAIL (03 R125). -/
abbrev portTrainFail (i : Nat) : Nat := 0x400018 + 0x4000 * i
/-- PORT_CREDIT_ADV0 (03 R125). -/
abbrev portCreditAdv0 (i : Nat) : Nat := 0x400020 + 0x4000 * i
/-- PORT_CREDIT_ADV1 (03 R125). -/
abbrev portCreditAdv1 (i : Nat) : Nat := 0x400024 + 0x4000 * i
/-- PORT_CREDIT_ADV2 (03 R125). -/
abbrev portCreditAdv2 (i : Nat) : Nat := 0x400028 + 0x4000 * i
/-- PORT_CREDIT_ADV3 (03 R125). -/
abbrev portCreditAdv3 (i : Nat) : Nat := 0x40002C + 0x4000 * i
/-- PORT_CREDIT_PEER0 (03 R125). -/
abbrev portCreditPeer0 (i : Nat) : Nat := 0x400030 + 0x4000 * i
/-- PORT_CREDIT_PEER1 (03 R125). -/
abbrev portCreditPeer1 (i : Nat) : Nat := 0x400034 + 0x4000 * i
/-- PORT_CREDIT_PEER2 (03 R125). -/
abbrev portCreditPeer2 (i : Nat) : Nat := 0x400038 + 0x4000 * i
/-- PORT_CREDIT_PEER3 (03 R125). -/
abbrev portCreditPeer3 (i : Nat) : Nat := 0x40003C + 0x4000 * i
/-- PORT_FEC_CORR_LO (03 R125). -/
abbrev portFecCorrLo (i : Nat) : Nat := 0x400040 + 0x4000 * i
/-- PORT_FEC_CORR_HI (03 R125). -/
abbrev portFecCorrHi (i : Nat) : Nat := 0x400044 + 0x4000 * i
/-- PORT_FEC_UNCORR (03 R125). -/
abbrev portFecUncorr (i : Nat) : Nat := 0x400048 + 0x4000 * i
/-- PORT_CRC_ERR (03 R125). -/
abbrev portCrcErr (i : Nat) : Nat := 0x40004C + 0x4000 * i
/-- PORT_DUP (03 R125). -/
abbrev portDup (i : Nat) : Nat := 0x400050 + 0x4000 * i
/-- PORT_GAP (03 R125). -/
abbrev portGap (i : Nat) : Nat := 0x400054 + 0x4000 * i
/-- PORT_REPLAY (03 R125). -/
abbrev portReplay (i : Nat) : Nat := 0x400058 + 0x4000 * i
/-- PORT_HOLD (03 R125). -/
abbrev portHold (i : Nat) : Nat := 0x40005C + 0x4000 * i
/-- PORT_SCHED_STALL (03 R125). -/
abbrev portSchedStall (i : Nat) : Nat := 0x400060 + 0x4000 * i
/-- PORT_AUTH_FAIL (03 R125). -/
abbrev portAuthFail (i : Nat) : Nat := 0x400064 + 0x4000 * i
/-- PORT_ROLE_DROP (03 R125). -/
abbrev portRoleDrop (i : Nat) : Nat := 0x400068 + 0x4000 * i
/-- PORT_ERR (03 R125). -/
abbrev portErr (i : Nat) : Nat := 0x400070 + 0x4000 * i
/-- PORT_ERR_COUNT (03 R125). -/
abbrev portErrCount (i : Nat) : Nat := 0x400074 + 0x4000 * i
/-- PORT_ERR_FIRST_LO (03 R125). -/
abbrev portErrFirstLo (i : Nat) : Nat := 0x400078 + 0x4000 * i
/-- PORT_ERR_FIRST_HI (03 R125). -/
abbrev portErrFirstHi (i : Nat) : Nat := 0x40007C + 0x4000 * i
/-- LANE_EYE (03 R125). -/
abbrev laneEye (i j : Nat) : Nat := 0x400100 + 0x4000 * i + 0x40 * j
/-- LANE_SNR (03 R125). -/
abbrev laneSnr (i j : Nat) : Nat := 0x400104 + 0x4000 * i + 0x40 * j
/-- LANE_BER_LO (03 R125). -/
abbrev laneBerLo (i j : Nat) : Nat := 0x400108 + 0x4000 * i + 0x40 * j
/-- LANE_BER_HI (03 R125). -/
abbrev laneBerHi (i j : Nat) : Nat := 0x40010C + 0x4000 * i + 0x40 * j
/-- LANE_MARGIN_CTRL (03 R125). -/
abbrev laneMarginCtrl (i j : Nat) : Nat := 0x400110 + 0x4000 * i + 0x40 * j
/-- LANE_MARGIN_STATUS (03 R125). -/
abbrev laneMarginStatus (i j : Nat) : Nat := 0x400114 + 0x4000 * i + 0x40 * j
/-- LANE_TX_PRESET (03 R125). -/
abbrev laneTxPreset (i j : Nat) : Nat := 0x400118 + 0x4000 * i + 0x40 * j
/-- MORT_STATUS (04 R156). -/
abbrev mortStatus : Nat := 0x800000
/-- MORT_SO_POINT_LO (04 R156). -/
abbrev mortSoPointLo : Nat := 0x800008
/-- MORT_SO_POINT_HI (04 R156). -/
abbrev mortSoPointHi : Nat := 0x80000C
/-- DRAWER_SO_POINT_LO (04 R156). -/
abbrev drawerSoPointLo : Nat := 0x800010
/-- DRAWER_SO_POINT_HI (04 R156). -/
abbrev drawerSoPointHi : Nat := 0x800014
/-- MORT_DRAIN_BOUND (04 R156). -/
abbrev mortDrainBound : Nat := 0x800020
/-- MORT_REQ_TIMEOUT (04 R156). -/
abbrev mortReqTimeout : Nat := 0x800024
/-- DRAWERS_LENT (04 R156). -/
abbrev drawersLent : Nat := 0x800028
/-- DRAWERS_RECALLING (04 R156). -/
abbrev drawersRecalling : Nat := 0x80002C
/-- MORT_DENIED (04 R156). -/
abbrev mortDenied : Nat := 0x800030
/-- MORT_FENCED (04 R156). -/
abbrev mortFenced : Nat := 0x800034
/-- MORT_CHECK (04 R156). -/
abbrev mortCheck : Nat := 0x800038
/-- MORT_LATE_DROP (04 R156). -/
abbrev mortLateDrop : Nat := 0x80003C
/-- MORT_SYNTH_FENCED (04 R156). -/
abbrev mortSynthFenced : Nat := 0x800040
/-- MORT_ADMIT_DROP (04 R156). -/
abbrev mortAdmitDrop : Nat := 0x800044
/-- MORT_ERR (04 R156). -/
abbrev mortErr : Nat := 0x800070
/-- MORT_ERR_COUNT (04 R156). -/
abbrev mortErrCount : Nat := 0x800074
/-- MORT_ERR_FIRST_LO (04 R156). -/
abbrev mortErrFirstLo : Nat := 0x800078
/-- MORT_ERR_FIRST_HI (04 R156). -/
abbrev mortErrFirstHi : Nat := 0x80007C
/-- MORT_ERR_CAPTURE (04 R156). -/
abbrev mortErrCapture : Nat := 0x800080
/-- MORT_ERR_CAPTURE_SW (04 R156). -/
abbrev mortErrCaptureSw : Nat := 0x800084
/-- GW_CFG (04 R156). -/
abbrev gwCfg (i : Nat) : Nat := 0x801000 + 0x4 * i
/-- SW_STATUS (05 R183). -/
abbrev swStatus : Nat := 0x700000
/-- SW_CTRL (05 R183). -/
abbrev swCtrl : Nat := 0x700004
/-- SW_BE_AGE (05 R183). -/
abbrev swBeAge : Nat := 0x700008
/-- SW_CT_DEMOTE (05 R183). -/
abbrev swCtDemote : Nat := 0x70000C
/-- SW_LEN_DROP (05 R183). -/
abbrev swLenDrop : Nat := 0x700010
/-- SW_PARTIAL_DROP (05 R183). -/
abbrev swPartialDrop : Nat := 0x700014
/-- SW_AGE_DROP (05 R183). -/
abbrev swAgeDrop : Nat := 0x700018
/-- SW_NOROUTE (05 R183). -/
abbrev swNoroute : Nat := 0x70001C
/-- SW_POLICE_DROP (05 R183). -/
abbrev swPoliceDrop : Nat := 0x700020
/-- SW_FAILOVER (05 R183). -/
abbrev swFailover : Nat := 0x700024
/-- SW_SAMPLE_DROP (05 R183). -/
abbrev swSampleDrop : Nat := 0x700028
/-- SW_IDENTITY (05 R183). -/
abbrev swIdentity : Nat := 0x700030
/-- SW_ERR (05 R183). -/
abbrev swErr : Nat := 0x700070
/-- SW_ERR_COUNT (05 R183). -/
abbrev swErrCount : Nat := 0x700074
/-- SW_ERR_FIRST_LO (05 R183). -/
abbrev swErrFirstLo : Nat := 0x700078
/-- SW_ERR_FIRST_HI (05 R183). -/
abbrev swErrFirstHi : Nat := 0x70007C
/-- SW_ERR_CAPTURE (05 R183). -/
abbrev swErrCapture : Nat := 0x700080
/-- MIR_CFG (05 R183). -/
abbrev mirCfg (i : Nat) : Nat := 0x700100 + 0x10 * i
/-- MIR_N (05 R183). -/
abbrev mirN (i : Nat) : Nat := 0x700104 + 0x10 * i
/-- MIR_COUNT (05 R183). -/
abbrev mirCount (i : Nat) : Nat := 0x700108 + 0x10 * i
/-- SW_PORT_CFG (05 R183). -/
abbrev swPortCfg (i : Nat) : Nat := 0x701000 + 0x4 * i
/-- SW_BE_WEIGHT (05 R183). -/
abbrev swBeWeight (i : Nat) : Nat := 0x701400 + 0x4 * i
/-- SW_SHAPE_SEL (05 R183). -/
abbrev swShapeSel (i j : Nat) : Nat := 0x702000 + 0x20 * i + 0x4 * j
/-- SHAPE_RATE (05 R183). -/
abbrev shapeRate (i : Nat) : Nat := 0x704000 + 0x8 * i
/-- SHAPE_BURST (05 R183). -/
abbrev shapeBurst (i : Nat) : Nat := 0x704004 + 0x8 * i
/-- SW_POL_SEL (05 R183). -/
abbrev swPolSel (i j : Nat) : Nat := 0x708000 + 0x40 * i + 0x4 * j
/-- POL_RATE (05 R183). -/
abbrev polRate (i : Nat) : Nat := 0x70C000 + 0x8 * i
/-- POL_BURST (05 R183). -/
abbrev polBurst (i : Nat) : Nat := 0x70C004 + 0x8 * i
/-- SW_ROUTE (05 R183). -/
abbrev swRoute (i : Nat) : Nat := 0x710000 + 0x4 * i
/-- POOL_STATUS (06 R221). -/
abbrev poolStatus : Nat := 0x900000
/-- POOL_CTRL (06 R221). -/
abbrev poolCtrl : Nat := 0x900004
/-- POOL_CFG (06 R221). -/
abbrev poolCfg : Nat := 0x900008
/-- POOL_DIRECT_GIB (06 R221). -/
abbrev poolDirectGib : Nat := 0x90000C
/-- POOL_FRAMES_TOTAL (06 R221). -/
abbrev poolFramesTotal : Nat := 0x900010
/-- POOL_FRAMES_FREE (06 R221). -/
abbrev poolFramesFree : Nat := 0x900014
/-- POOL_FRAME_LOW (06 R221). -/
abbrev poolFrameLow : Nat := 0x900018
/-- POOL_FRAME_HIGH (06 R221). -/
abbrev poolFrameHigh : Nat := 0x90001C
/-- POOL_PROMOTE_LIMIT (06 R221). -/
abbrev poolPromoteLimit : Nat := 0x900020
/-- POOL_RESET_PENDING (06 R221). -/
abbrev poolResetPending : Nat := 0x900024
/-- POOL_OBJ_INERT (06 R221). -/
abbrev poolObjInert : Nat := 0x900028
/-- POOL_OBJ_SO_POINT_LO (06 R221). -/
abbrev poolObjSoPointLo : Nat := 0x900030
/-- POOL_OBJ_SO_POINT_HI (06 R221). -/
abbrev poolObjSoPointHi : Nat := 0x900034
/-- POOL_PROMOTIONS (06 R221). -/
abbrev poolPromotions : Nat := 0x900040
/-- POOL_DEMOTIONS (06 R221). -/
abbrev poolDemotions : Nat := 0x900044
/-- POOL_STREAMS (06 R221). -/
abbrev poolStreams : Nat := 0x900048
/-- POOL_EXPANDS (06 R221). -/
abbrev poolExpands : Nat := 0x90004C
/-- POOL_DEMOTE_CANCEL (06 R221). -/
abbrev poolDemoteCancel : Nat := 0x900050
/-- POOL_RESERVED_DROP (06 R221). -/
abbrev poolReservedDrop : Nat := 0x900054
/-- POOL_ERR (06 R221). -/
abbrev poolErr : Nat := 0x900070
/-- POOL_ERR_COUNT (06 R221). -/
abbrev poolErrCount : Nat := 0x900074
/-- POOL_ERR_FIRST_LO (06 R221). -/
abbrev poolErrFirstLo : Nat := 0x900078
/-- POOL_ERR_FIRST_HI (06 R221). -/
abbrev poolErrFirstHi : Nat := 0x90007C
/-- POOL_ERR_CAPTURE (06 R221). -/
abbrev poolErrCapture : Nat := 0x900080
/-- POOL_WINDOW_LENDABLE (06 R221). -/
abbrev poolWindowLendable (i : Nat) : Nat := 0x900100 + 0x4 * i
/-- STK_STATUS (06 R223). -/
abbrev stkStatus (i : Nat) : Nat := 0xA00000 + 0x10000 * i
/-- STK_CTRL (06 R223). -/
abbrev stkCtrl (i : Nat) : Nat := 0xA00004 + 0x10000 * i
/-- STK_SCRUB_CFG (06 R223). -/
abbrev stkScrubCfg (i : Nat) : Nat := 0xA00008 + 0x10000 * i
/-- STK_TEMP (06 R223). -/
abbrev stkTemp (i : Nat) : Nat := 0xA0000C + 0x10000 * i
/-- STK_CORR_LO (06 R223). -/
abbrev stkCorrLo (i : Nat) : Nat := 0xA00010 + 0x10000 * i
/-- STK_CORR_HI (06 R223). -/
abbrev stkCorrHi (i : Nat) : Nat := 0xA00014 + 0x10000 * i
/-- STK_UNCORR (06 R223). -/
abbrev stkUncorr (i : Nat) : Nat := 0xA00018 + 0x10000 * i
/-- STK_MAC_FAIL (06 R223). -/
abbrev stkMacFail (i : Nat) : Nat := 0xA0001C + 0x10000 * i
/-- STK_SCRUB_PASSES (06 R223). -/
abbrev stkScrubPasses (i : Nat) : Nat := 0xA00020 + 0x10000 * i
/-- STK_ERR (06 R223). -/
abbrev stkErr (i : Nat) : Nat := 0xA00070 + 0x10000 * i
/-- STK_ERR_COUNT (06 R223). -/
abbrev stkErrCount (i : Nat) : Nat := 0xA00074 + 0x10000 * i
/-- STK_ERR_FIRST_LO (06 R223). -/
abbrev stkErrFirstLo (i : Nat) : Nat := 0xA00078 + 0x10000 * i
/-- STK_ERR_FIRST_HI (06 R223). -/
abbrev stkErrFirstHi (i : Nat) : Nat := 0xA0007C + 0x10000 * i
/-- STK_ERR_ADDR_LO (06 R223). -/
abbrev stkErrAddrLo (i : Nat) : Nat := 0xA00080 + 0x10000 * i
/-- STK_ERR_ADDR_HI (06 R223). -/
abbrev stkErrAddrHi (i : Nat) : Nat := 0xA00084 + 0x10000 * i
/-- TRAY_STATUS (07 R257). -/
abbrev trayStatus : Nat := 0xB00000
/-- TRAY_CTRL (07 R257). -/
abbrev trayCtrl : Nat := 0xB00004
/-- TRAY_OP (07 R257). -/
abbrev trayOp : Nat := 0xB00008
/-- TRAY_GC_CFG (07 R257). -/
abbrev trayGcCfg : Nat := 0xB0000C
/-- TRAY_WEAR_CFG (07 R257). -/
abbrev trayWearCfg : Nat := 0xB00010
/-- TRAY_CMD_TIMEOUT (07 R257). -/
abbrev trayCmdTimeout : Nat := 0xB00014
/-- TRAY_NOTE_THRESH0 (07 R257). -/
abbrev trayNoteThresh0 : Nat := 0xB00018
/-- TRAY_NOTE_THRESH1 (07 R257). -/
abbrev trayNoteThresh1 : Nat := 0xB0001C
/-- TRAY_LIVE_MASK (07 R257). -/
abbrev trayLiveMask : Nat := 0xB00020
/-- TRAY_LOST_MASK (07 R257). -/
abbrev trayLostMask : Nat := 0xB00024
/-- TRAY_DISCARDS (07 R257). -/
abbrev trayDiscards : Nat := 0xB00040
/-- TRAY_MAC_FAIL (07 R257). -/
abbrev trayMacFail : Nat := 0xB00044
/-- TRAY_VERSION_FAIL (07 R257). -/
abbrev trayVersionFail : Nat := 0xB00048
/-- TRAY_VERSION_PINNED (07 R257). -/
abbrev trayVersionPinned : Nat := 0xB0004C
/-- TRAY_DEMOTE_FAIL (07 R257). -/
abbrev trayDemoteFail : Nat := 0xB00050
/-- TRAY_ERR (07 R257). -/
abbrev trayErr : Nat := 0xB00070
/-- TRAY_ERR_COUNT (07 R257). -/
abbrev trayErrCount : Nat := 0xB00074
/-- TRAY_ERR_FIRST_LO (07 R257). -/
abbrev trayErrFirstLo : Nat := 0xB00078
/-- TRAY_ERR_FIRST_HI (07 R257). -/
abbrev trayErrFirstHi : Nat := 0xB0007C
/-- TRAY_ERR_CAPTURE (07 R257). -/
abbrev trayErrCapture : Nat := 0xB00080
/-- TRAY_NOTES (07 R257). -/
abbrev trayNotes : Nat := 0xB00090
/-- TRAY_NOTES_COUNT (07 R257). -/
abbrev trayNotesCount : Nat := 0xB00094
/-- TRAY_NOTES_FIRST_LO (07 R257). -/
abbrev trayNotesFirstLo : Nat := 0xB00098
/-- TRAY_NOTES_FIRST_HI (07 R257). -/
abbrev trayNotesFirstHi : Nat := 0xB0009C
/-- TRAY_NOTE_CAPTURE (07 R257). -/
abbrev trayNoteCapture : Nat := 0xB000A0
/-- TRAY_T_STATUS (07 R257). -/
abbrev trayTStatus (i : Nat) : Nat := 0xB10000 + 0x1000 * i
/-- TRAY_T_GOOD_BLOCKS (07 R257). -/
abbrev trayTGoodBlocks (i : Nat) : Nat := 0xB10004 + 0x1000 * i
/-- TRAY_T_FREE_BLOCKS (07 R257). -/
abbrev trayTFreeBlocks (i : Nat) : Nat := 0xB10008 + 0x1000 * i
/-- TRAY_T_RETIRED (07 R257). -/
abbrev trayTRetired (i : Nat) : Nat := 0xB1000C + 0x1000 * i
/-- TRAY_T_SHARE_GIB (07 R257). -/
abbrev trayTShareGib (i : Nat) : Nat := 0xB10010 + 0x1000 * i
/-- TRAY_T_ERASE_MIN (07 R257). -/
abbrev trayTEraseMin (i : Nat) : Nat := 0xB10014 + 0x1000 * i
/-- TRAY_T_ERASE_MAX (07 R257). -/
abbrev trayTEraseMax (i : Nat) : Nat := 0xB10018 + 0x1000 * i
/-- TRAY_T_WA (07 R257). -/
abbrev trayTWa (i : Nat) : Nat := 0xB1001C + 0x1000 * i
/-- TRAY_T_SECT_DEMOTE_LO (07 R257). -/
abbrev trayTSectDemoteLo (i : Nat) : Nat := 0xB10020 + 0x1000 * i
/-- TRAY_T_SECT_DEMOTE_HI (07 R257). -/
abbrev trayTSectDemoteHi (i : Nat) : Nat := 0xB10024 + 0x1000 * i
/-- TRAY_T_SECT_GC_LO (07 R257). -/
abbrev trayTSectGcLo (i : Nat) : Nat := 0xB10028 + 0x1000 * i
/-- TRAY_T_SECT_GC_HI (07 R257). -/
abbrev trayTSectGcHi (i : Nat) : Nat := 0xB1002C + 0x1000 * i
/-- TRAY_T_SECT_WEAR_LO (07 R257). -/
abbrev trayTSectWearLo (i : Nat) : Nat := 0xB10030 + 0x1000 * i
/-- TRAY_T_SECT_WEAR_HI (07 R257). -/
abbrev trayTSectWearHi (i : Nat) : Nat := 0xB10034 + 0x1000 * i
/-- TRAY_T_SERIAL (07 R257). -/
abbrev trayTSerial (i j : Nat) : Nat := 0xB10038 + 0x1000 * i + 0x4 * j
/-- TRAY_T_CARD (07 R257). -/
abbrev trayTCard (i j : Nat) : Nat := 0xB10100 + 0x1000 * i + 0x4 * j
/-- ORD_STATUS (08 R288). -/
abbrev ordStatus : Nat := 0x802000
/-- ORD_GUARD_LIMIT (08 R288). -/
abbrev ordGuardLimit : Nat := 0x802004
/-- ORD_TAG_FILL (08 R288). -/
abbrev ordTagFill : Nat := 0x802008
/-- ORD_TAG_EVICT (08 R288). -/
abbrev ordTagEvict : Nat := 0x80200C
/-- ORD_UNTAGGED_ACQ (08 R288). -/
abbrev ordUntaggedAcq : Nat := 0x802010
/-- ORD_SCOPE_WARN (08 R288). -/
abbrev ordScopeWarn : Nat := 0x802014
/-- ORD_GUARD_FAIL (08 R288). -/
abbrev ordGuardFail : Nat := 0x802018
/-- ORD_CTRL (08 R288). -/
abbrev ordCtrl : Nat := 0x80201C
/-- ORD_ERR (08 R288). -/
abbrev ordErr : Nat := 0x802070
/-- ORD_ERR_COUNT (08 R288). -/
abbrev ordErrCount : Nat := 0x802074
/-- ORD_ERR_FIRST_LO (08 R288). -/
abbrev ordErrFirstLo : Nat := 0x802078
/-- ORD_ERR_FIRST_HI (08 R288). -/
abbrev ordErrFirstHi : Nat := 0x80207C
/-- ORD_SCOPE_REL (08 R288). -/
abbrev ordScopeRel : Nat := 0x802080
/-- ORD_SCOPE_ACQ (08 R288). -/
abbrev ordScopeAcq : Nat := 0x802084
/-- ORD_SCOPE_INFO (08 R288). -/
abbrev ordScopeInfo : Nat := 0x802088
/-- ORD_SCOPE_ADDR_LO (08 R288). -/
abbrev ordScopeAddrLo : Nat := 0x802090
/-- ORD_SCOPE_ADDR_HI (08 R288). -/
abbrev ordScopeAddrHi : Nat := 0x802094
/-- DIR_STATUS (09 R317). -/
abbrev dirStatus : Nat := 0xC00000
/-- DIR_CTRL (09 R317). -/
abbrev dirCtrl : Nat := 0xC00004
/-- DIR_CFG (09 R317). -/
abbrev dirCfg : Nat := 0xC00008
/-- DIR_SNOOP_TIMEOUT (09 R317). -/
abbrev dirSnoopTimeout : Nat := 0xC0000C
/-- DIR_ENTRIES_VALID (09 R317). -/
abbrev dirEntriesValid : Nat := 0xC00010
/-- DIR_TRACKERS_BUSY (09 R317). -/
abbrev dirTrackersBusy : Nat := 0xC00014
/-- DIR_HOLD_FILL (09 R317). -/
abbrev dirHoldFill : Nat := 0xC00018
/-- DIR_POISONED (09 R317). -/
abbrev dirPoisoned : Nat := 0xC0001C
/-- DIR_OVF_USED (09 R317). -/
abbrev dirOvfUsed : Nat := 0xC00020
/-- DIR_PURGE_PENDING (09 R317). -/
abbrev dirPurgePending : Nat := 0xC00024
/-- DIR_MAX_AGE (09 R317). -/
abbrev dirMaxAge : Nat := 0xC00028
/-- DIR_GRANTS (09 R317). -/
abbrev dirGrants : Nat := 0xC00040
/-- DIR_INV_SENT (09 R317). -/
abbrev dirInvSent : Nat := 0xC00044
/-- DIR_RECALL_SENT (09 R317). -/
abbrev dirRecallSent : Nat := 0xC00048
/-- DIR_CAP_EVICT (09 R317). -/
abbrev dirCapEvict : Nat := 0xC0004C
/-- DIR_REPLACE_INV (09 R317). -/
abbrev dirReplaceInv : Nat := 0xC00050
/-- DIR_STALE (09 R317). -/
abbrev dirStale : Nat := 0xC00054
/-- DIR_FREEZE (09 R317). -/
abbrev dirFreeze : Nat := 0xC00058
/-- DIR_ERR (09 R317). -/
abbrev dirErr : Nat := 0xC00070
/-- DIR_ERR_COUNT (09 R317). -/
abbrev dirErrCount : Nat := 0xC00074
/-- DIR_ERR_FIRST_LO (09 R317). -/
abbrev dirErrFirstLo : Nat := 0xC00078
/-- DIR_ERR_FIRST_HI (09 R317). -/
abbrev dirErrFirstHi : Nat := 0xC0007C
/-- DIR_ERR_CAPTURE (09 R317). -/
abbrev dirErrCapture : Nat := 0xC00080
/-- DIR_ERR_ADDR_LO (09 R317). -/
abbrev dirErrAddrLo : Nat := 0xC00088
/-- DIR_ERR_ADDR_HI (09 R317). -/
abbrev dirErrAddrHi : Nat := 0xC0008C
/-- DIR_PROBE_ADDR_LO (09 R317). -/
abbrev dirProbeAddrLo : Nat := 0xC00100
/-- DIR_PROBE_ADDR_HI (09 R317). -/
abbrev dirProbeAddrHi : Nat := 0xC00104
/-- DIR_PROBE_CTRL (09 R317). -/
abbrev dirProbeCtrl : Nat := 0xC00108
/-- DIR_PROBE_STATUS (09 R317). -/
abbrev dirProbeStatus : Nat := 0xC0010C
/-- DIR_PROBE_ENTRY_LO (09 R317). -/
abbrev dirProbeEntryLo : Nat := 0xC00110
/-- DIR_PROBE_ENTRY_HI (09 R317). -/
abbrev dirProbeEntryHi : Nat := 0xC00114
/-- BN_STATUS (10 R363). -/
abbrev bnStatus (i j : Nat) : Nat := 0xD00000 + 0x10000 * i + 0x1000 * j
/-- BN_CTRL (10 R363). -/
abbrev bnCtrl (i j : Nat) : Nat := 0xD00004 + 0x10000 * i + 0x1000 * j
/-- BN_LAUNCH_TT (10 R363). -/
abbrev bnLaunchTt (i j : Nat) : Nat := 0xD00008 + 0x10000 * i + 0x1000 * j
/-- BN_LAUNCH_Q (10 R363). -/
abbrev bnLaunchQ (i j : Nat) : Nat := 0xD0000C + 0x10000 * i + 0x1000 * j
/-- BN_SKIPPED (10 R363). -/
abbrev bnSkipped (i j : Nat) : Nat := 0xD00010 + 0x10000 * i + 0x1000 * j
/-- BN_ABORTS (10 R363). -/
abbrev bnAborts (i j : Nat) : Nat := 0xD00014 + 0x10000 * i + 0x1000 * j
/-- BN_BUSY_LO (10 R363). -/
abbrev bnBusyLo (i j : Nat) : Nat := 0xD00018 + 0x10000 * i + 0x1000 * j
/-- BN_BUSY_HI (10 R363). -/
abbrev bnBusyHi (i j : Nat) : Nat := 0xD0001C + 0x10000 * i + 0x1000 * j
/-- BN_SAT (10 R363). -/
abbrev bnSat (i j : Nat) : Nat := 0xD00020 + 0x10000 * i + 0x1000 * j
/-- BN_NAN (10 R363). -/
abbrev bnNan (i j : Nat) : Nat := 0xD00024 + 0x10000 * i + 0x1000 * j
/-- BN_ERR (10 R363). -/
abbrev bnErr (i j : Nat) : Nat := 0xD00070 + 0x10000 * i + 0x1000 * j
/-- BN_ERR_COUNT (10 R363). -/
abbrev bnErrCount (i j : Nat) : Nat := 0xD00074 + 0x10000 * i + 0x1000 * j
/-- BN_ERR_FIRST_LO (10 R363). -/
abbrev bnErrFirstLo (i j : Nat) : Nat := 0xD00078 + 0x10000 * i + 0x1000 * j
/-- BN_ERR_FIRST_HI (10 R363). -/
abbrev bnErrFirstHi (i j : Nat) : Nat := 0xD0007C + 0x10000 * i + 0x1000 * j
/-- BN_ERR_CAPTURE (10 R363). -/
abbrev bnErrCapture (i j : Nat) : Nat := 0xD00080 + 0x10000 * i + 0x1000 * j
/-- BN_ERR_DESC_LO (10 R363). -/
abbrev bnErrDescLo (i j : Nat) : Nat := 0xD00088 + 0x10000 * i + 0x1000 * j
/-- BN_ERR_DESC_HI (10 R363). -/
abbrev bnErrDescHi (i j : Nat) : Nat := 0xD0008C + 0x10000 * i + 0x1000 * j
/-- CL_BUSY (10 R363). -/
abbrev clBusy (i : Nat) : Nat := 0xD0F000 + 0x10000 * i
/-- CL_RECESS (10 R363). -/
abbrev clRecess (i : Nat) : Nat := 0xD0F004 + 0x10000 * i
/-- ROLL_STATUS (11 R396). -/
abbrev rollStatus : Nat := 0xE00000
/-- ROLL_CTRL (11 R396). -/
abbrev rollCtrl : Nat := 0xE00004
/-- ROLL_CFG (11 R396). -/
abbrev rollCfg : Nat := 0xE00008
/-- ROLL_OFFER_TIMEOUT (11 R396). -/
abbrev rollOfferTimeout : Nat := 0xE0000C
/-- ROLL_SO_POINT_LO (11 R396). -/
abbrev rollSoPointLo : Nat := 0xE00010
/-- ROLL_SO_POINT_HI (11 R396). -/
abbrev rollSoPointHi : Nat := 0xE00014
/-- ROLL_STATIONS (11 R396). -/
abbrev rollStations : Nat := 0xE00018
/-- ROLL_SHAPES (11 R396). -/
abbrev rollShapes : Nat := 0xE0001C
/-- ROLL_OPEN (11 R396). -/
abbrev rollOpen : Nat := 0xE00020
/-- ROLL_HELD (11 R396). -/
abbrev rollHeld : Nat := 0xE00024
/-- ROLL_OFFERED (11 R396). -/
abbrev rollOffered : Nat := 0xE00028
/-- ROLL_ORPHANED (11 R396). -/
abbrev rollOrphaned : Nat := 0xE0002C
/-- ROLL_CLOSED (11 R396). -/
abbrev rollClosed : Nat := 0xE00030
/-- ROLL_OPS (11 R396). -/
abbrev rollOps : Nat := 0xE00040
/-- ROLL_STALE (11 R396). -/
abbrev rollStale : Nat := 0xE00044
/-- ROLL_RETURNED (11 R396). -/
abbrev rollReturned : Nat := 0xE00048
/-- ROLL_CLAIMS (11 R396). -/
abbrev rollClaims : Nat := 0xE0004C
/-- ROLL_BOUND (11 R396). -/
abbrev rollBound : Nat := 0xE00050
/-- ROLL_EMPTY (11 R396). -/
abbrev rollEmpty : Nat := 0xE00054
/-- ROLL_EVENT_DROP (11 R396). -/
abbrev rollEventDrop : Nat := 0xE00058
/-- ROLL_CACHE_MISS (11 R396). -/
abbrev rollCacheMiss : Nat := 0xE0005C
/-- ROLL_ERR (11 R396). -/
abbrev rollErr : Nat := 0xE00070
/-- ROLL_ERR_COUNT (11 R396). -/
abbrev rollErrCount : Nat := 0xE00074
/-- ROLL_ERR_FIRST_LO (11 R396). -/
abbrev rollErrFirstLo : Nat := 0xE00078
/-- ROLL_ERR_FIRST_HI (11 R396). -/
abbrev rollErrFirstHi : Nat := 0xE0007C
/-- ROLL_ERR_CAPTURE (11 R396). -/
abbrev rollErrCapture : Nat := 0xE00080
/-- ROLL_ERR_CAPTURE_SW (11 R396). -/
abbrev rollErrCaptureSw : Nat := 0xE00084
/-- ROLL_PROBE_SLOT (11 R396). -/
abbrev rollProbeSlot : Nat := 0xE00100
/-- ROLL_PROBE_CTRL (11 R396). -/
abbrev rollProbeCtrl : Nat := 0xE00104
/-- ROLL_PROBE_STATUS (11 R396). -/
abbrev rollProbeStatus : Nat := 0xE00108
/-- ROLL_PROBE_ENTRY (11 R396). -/
abbrev rollProbeEntry (i : Nat) : Nat := 0xE00200 + 0x4 * i
/-- NET_STATUS (12 R429). -/
abbrev netStatus : Nat := 0xF00000
/-- NET_CTRL (12 R429). -/
abbrev netCtrl : Nat := 0xF00004
/-- NET_PFX_CFG (12 R429). -/
abbrev netPfxCfg : Nat := 0xF00008
/-- NET_PFX_FILL (12 R429). -/
abbrev netPfxFill : Nat := 0xF0000C
/-- NET_PFX_LOOKUPS (12 R429). -/
abbrev netPfxLookups : Nat := 0xF00010
/-- NET_PFX_HITS (12 R429). -/
abbrev netPfxHits : Nat := 0xF00014
/-- NET_PFX_INSERTS (12 R429). -/
abbrev netPfxInserts : Nat := 0xF00018
/-- NET_PFX_DUP (12 R429). -/
abbrev netPfxDup : Nat := 0xF0001C
/-- NET_PFX_EVICT (12 R429). -/
abbrev netPfxEvict : Nat := 0xF00020
/-- NET_PFX_STALE (12 R429). -/
abbrev netPfxStale : Nat := 0xF00024
/-- NET_CONTRIB_DROP (12 R429). -/
abbrev netContribDrop : Nat := 0xF00028
/-- NET_ERR (12 R429). -/
abbrev netErr : Nat := 0xF00070
/-- NET_ERR_COUNT (12 R429). -/
abbrev netErrCount : Nat := 0xF00074
/-- NET_ERR_FIRST_LO (12 R429). -/
abbrev netErrFirstLo : Nat := 0xF00078
/-- NET_ERR_FIRST_HI (12 R429). -/
abbrev netErrFirstHi : Nat := 0xF0007C
/-- NET_ERR_CAPTURE (12 R429). -/
abbrev netErrCapture : Nat := 0xF00080
/-- NET_ERR_CAPTURE_SW (12 R429). -/
abbrev netErrCaptureSw : Nat := 0xF00084
/-- NU_STATUS (12 R429). -/
abbrev nuStatus (i : Nat) : Nat := 0xF01000 + 0x40 * i
/-- NU_STARTS (12 R429). -/
abbrev nuStarts (i : Nat) : Nat := 0xF01004 + 0x40 * i
/-- NU_SKIPPED (12 R429). -/
abbrev nuSkipped (i : Nat) : Nat := 0xF01008 + 0x40 * i
/-- NU_FAILED (12 R429). -/
abbrev nuFailed (i : Nat) : Nat := 0xF0100C + 0x40 * i
/-- NU_BUSY_LO (12 R429). -/
abbrev nuBusyLo (i : Nat) : Nat := 0xF01010 + 0x40 * i
/-- NU_BUSY_HI (12 R429). -/
abbrev nuBusyHi (i : Nat) : Nat := 0xF01014 + 0x40 * i
/-- NU_BYTES_LO (12 R429). -/
abbrev nuBytesLo (i : Nat) : Nat := 0xF01018 + 0x40 * i
/-- NU_BYTES_HI (12 R429). -/
abbrev nuBytesHi (i : Nat) : Nat := 0xF0101C + 0x40 * i
/-- VEN_STATUS (13 R449). -/
abbrev venStatus : Nat := 0x1000000
/-- VEN_CTRL (13 R449). -/
abbrev venCtrl : Nat := 0x1000004
/-- VEN_MAX_LEN (13 R449). -/
abbrev venMaxLen : Nat := 0x1000008
/-- VEN_COMPRESSED (13 R449). -/
abbrev venCompressed : Nat := 0x1000010
/-- VEN_EXPANDED (13 R449). -/
abbrev venExpanded : Nat := 0x1000014
/-- VEN_IN_BYTES_LO (13 R449). -/
abbrev venInBytesLo : Nat := 0x1000018
/-- VEN_IN_BYTES_HI (13 R449). -/
abbrev venInBytesHi : Nat := 0x100001C
/-- VEN_OUT_BYTES_LO (13 R449). -/
abbrev venOutBytesLo : Nat := 0x1000020
/-- VEN_OUT_BYTES_HI (13 R449). -/
abbrev venOutBytesHi : Nat := 0x1000024
/-- VEN_CMP_LEN (13 R449). -/
abbrev venCmpLen : Nat := 0x1000028
/-- VEN_TABLE_GEN (13 R449). -/
abbrev venTableGen : Nat := 0x100002C
/-- VEN_TABLE_BUSY (13 R449). -/
abbrev venTableBusy : Nat := 0x1000030
/-- VEN_CHECK_FAIL (13 R449). -/
abbrev venCheckFail : Nat := 0x1000034
/-- VEN_DECLINE (13 R449). -/
abbrev venDecline (i : Nat) : Nat := 0x1000040 + 0x4 * i
/-- VEN_ERR (13 R449). -/
abbrev venErr : Nat := 0x1000070
/-- VEN_ERR_COUNT (13 R449). -/
abbrev venErrCount : Nat := 0x1000074
/-- VEN_ERR_FIRST_LO (13 R449). -/
abbrev venErrFirstLo : Nat := 0x1000078
/-- VEN_ERR_FIRST_HI (13 R449). -/
abbrev venErrFirstHi : Nat := 0x100007C
/-- VEN_ERR_CAPTURE (13 R449). -/
abbrev venErrCapture : Nat := 0x1000080
/-- VEN_ERR_PLANK_LO (13 R449). -/
abbrev venErrPlankLo : Nat := 0x1000088
/-- VEN_ERR_PLANK_HI (13 R449). -/
abbrev venErrPlankHi : Nat := 0x100008C
/-- VEN_STREAM (13 R449). -/
abbrev venStream (i : Nat) : Nat := 0x1001000 + 0x4 * i
/-- VEN_SLOT_STATE (13 R449). -/
abbrev venSlotState (i j : Nat) : Nat := 0x1002000 + 0x40 * i + 0x10 * j
/-- VEN_SLOT_TAG (13 R449). -/
abbrev venSlotTag (i j : Nat) : Nat := 0x1002004 + 0x40 * i + 0x10 * j
/-- VEN_SLOT_REFS (13 R449). -/
abbrev venSlotRefs (i j : Nat) : Nat := 0x1002008 + 0x40 * i + 0x10 * j
/-- VEN_SLOT_CHECK (13 R449). -/
abbrev venSlotCheck (i j : Nat) : Nat := 0x100200C + 0x40 * i + 0x10 * j
/-- MDMA_STATUS (13 R449). -/
abbrev mdmaStatus (i : Nat) : Nat := 0x1008000 + 0x20 * i
/-- MDMA_BASIS_MISS (13 R449). -/
abbrev mdmaBasisMiss (i : Nat) : Nat := 0x1008004 + 0x20 * i
/-- MDMA_BUSY_LO (13 R449). -/
abbrev mdmaBusyLo (i : Nat) : Nat := 0x1008008 + 0x20 * i
/-- MDMA_BUSY_HI (13 R449). -/
abbrev mdmaBusyHi (i : Nat) : Nat := 0x100800C + 0x20 * i
/-- HOST_STATUS (14 R482). -/
abbrev hostStatus (i : Nat) : Nat := 0x1100000 + 0x8000 * i
/-- HOST_CTRL (14 R482). -/
abbrev hostCtrl (i : Nat) : Nat := 0x1100004 + 0x8000 * i
/-- HOST_CFG (14 R482). -/
abbrev hostCfg (i : Nat) : Nat := 0x1100008 + 0x8000 * i
/-- HOST_INFLIGHT (14 R482). -/
abbrev hostInflight (i : Nat) : Nat := 0x110000C + 0x8000 * i
/-- HOST_HELD (14 R482). -/
abbrev hostHeld (i : Nat) : Nat := 0x1100010 + 0x8000 * i
/-- HOST_DESC_DONE (14 R482). -/
abbrev hostDescDone (i : Nat) : Nat := 0x1100014 + 0x8000 * i
/-- HOST_BAR4_READS (14 R482). -/
abbrev hostBar4Reads (i : Nat) : Nat := 0x1100018 + 0x8000 * i
/-- HOST_BAR4_WRITES (14 R482). -/
abbrev hostBar4Writes (i : Nat) : Nat := 0x110001C + 0x8000 * i
/-- HOST_ERR (14 R482). -/
abbrev hostErr (i : Nat) : Nat := 0x1100070 + 0x8000 * i
/-- HOST_ERR_COUNT (14 R482). -/
abbrev hostErrCount (i : Nat) : Nat := 0x1100074 + 0x8000 * i
/-- HOST_ERR_FIRST_LO (14 R482). -/
abbrev hostErrFirstLo (i : Nat) : Nat := 0x1100078 + 0x8000 * i
/-- HOST_ERR_FIRST_HI (14 R482). -/
abbrev hostErrFirstHi (i : Nat) : Nat := 0x110007C + 0x8000 * i
/-- HOST_ERR_CAPTURE (14 R482). -/
abbrev hostErrCapture (i : Nat) : Nat := 0x1100080 + 0x8000 * i
/-- HOST_ERR_ADDR_LO (14 R482). -/
abbrev hostErrAddrLo (i : Nat) : Nat := 0x1100088 + 0x8000 * i
/-- HOST_ERR_ADDR_HI (14 R482). -/
abbrev hostErrAddrHi (i : Nat) : Nat := 0x110008C + 0x8000 * i
/-- HOST_BAR4_WIN_LO (14 R482). -/
abbrev hostBar4WinLo (i j : Nat) : Nat := 0x1100100 + 0x8000 * i + 0x8 * j
/-- HOST_BAR4_WIN_HI (14 R482). -/
abbrev hostBar4WinHi (i j : Nat) : Nat := 0x1100104 + 0x8000 * i + 0x8 * j
/-- SQ_BASE_LO (14 R482). -/
abbrev sqBaseLo (i j : Nat) : Nat := 0x1101000 + 0x8000 * i + 0x20 * j
/-- SQ_BASE_HI (14 R482). -/
abbrev sqBaseHi (i j : Nat) : Nat := 0x1101004 + 0x8000 * i + 0x20 * j
/-- SQ_CFG (14 R482). -/
abbrev sqCfg (i j : Nat) : Nat := 0x1101008 + 0x8000 * i + 0x20 * j
/-- SQ_HEAD (14 R482). -/
abbrev sqHead (i j : Nat) : Nat := 0x110100C + 0x8000 * i + 0x20 * j
/-- SQ_TAIL (14 R482). -/
abbrev sqTail (i j : Nat) : Nat := 0x1101010 + 0x8000 * i + 0x20 * j
/-- SQ_INFLIGHT (14 R482). -/
abbrev sqInflight (i j : Nat) : Nat := 0x1101014 + 0x8000 * i + 0x20 * j
/-- CQ_BASE_LO (14 R482). -/
abbrev cqBaseLo (i j : Nat) : Nat := 0x1102000 + 0x8000 * i + 0x20 * j
/-- CQ_BASE_HI (14 R482). -/
abbrev cqBaseHi (i j : Nat) : Nat := 0x1102004 + 0x8000 * i + 0x20 * j
/-- CQ_CFG (14 R482). -/
abbrev cqCfg (i j : Nat) : Nat := 0x1102008 + 0x8000 * i + 0x20 * j
/-- CQ_HEAD (14 R482). -/
abbrev cqHead (i j : Nat) : Nat := 0x110200C + 0x8000 * i + 0x20 * j
/-- CQ_TAIL (14 R482). -/
abbrev cqTail (i j : Nat) : Nat := 0x1102010 + 0x8000 * i + 0x20 * j
/-- EVT_BASE_LO (14 R482). -/
abbrev evtBaseLo (i : Nat) : Nat := 0x1103000 + 0x8000 * i
/-- EVT_BASE_HI (14 R482). -/
abbrev evtBaseHi (i : Nat) : Nat := 0x1103004 + 0x8000 * i
/-- EVT_CFG (14 R482). -/
abbrev evtCfg (i : Nat) : Nat := 0x1103008 + 0x8000 * i
/-- EVT_HEAD (14 R482). -/
abbrev evtHead (i : Nat) : Nat := 0x110300C + 0x8000 * i
/-- EVT_TAIL (14 R482). -/
abbrev evtTail (i : Nat) : Nat := 0x1103010 + 0x8000 * i
/-- EVT_DROP (14 R482). -/
abbrev evtDrop (i : Nat) : Nat := 0x1103014 + 0x8000 * i
/-- SEC_STATUS (15 R505). -/
abbrev secStatus : Nat := 0x1200000
/-- SEC_LOCK (15 R505). -/
abbrev secLock : Nat := 0x1200004
/-- SEC_CTRL (15 R505). -/
abbrev secCtrl : Nat := 0x1200008
/-- SEC_FM_COUNT_A_LO (15 R505). -/
abbrev secFmCountALo : Nat := 0x1200010
/-- SEC_FM_COUNT_A_HI (15 R505). -/
abbrev secFmCountAHi : Nat := 0x1200014
/-- SEC_FM_COUNT_B_LO (15 R505). -/
abbrev secFmCountBLo : Nat := 0x1200018
/-- SEC_FM_COUNT_B_HI (15 R505). -/
abbrev secFmCountBHi : Nat := 0x120001C
/-- SEC_SESSION_ID (15 R505). -/
abbrev secSessionId (i : Nat) : Nat := 0x1200020 + 0x4 * i
/-- SEC_SECURE_DONE (15 R505). -/
abbrev secSecureDone : Nat := 0x1200060
/-- SEC_AUTH_FAIL (15 R505). -/
abbrev secAuthFail : Nat := 0x1200064
/-- SEC_REKEYS (15 R505). -/
abbrev secRekeys : Nat := 0x1200068
/-- SEC_STORE_FOREIGN (15 R505). -/
abbrev secStoreForeign : Nat := 0x120006C
/-- SEC_ERR (15 R505). -/
abbrev secErr : Nat := 0x1200070
/-- SEC_ERR_COUNT (15 R505). -/
abbrev secErrCount : Nat := 0x1200074
/-- SEC_ERR_FIRST_LO (15 R505). -/
abbrev secErrFirstLo : Nat := 0x1200078
/-- SEC_ERR_FIRST_HI (15 R505). -/
abbrev secErrFirstHi : Nat := 0x120007C
/-- SEC_ERR_CAPTURE (15 R505). -/
abbrev secErrCapture : Nat := 0x1200080
/-- SEC_SHREDS (15 R505). -/
abbrev secShreds : Nat := 0x1200084
/-- SEC_IDENTITY_HASH (15 R505). -/
abbrev secIdentityHash (i : Nat) : Nat := 0x1200100 + 0x4 * i
/-- SEC_MEAS (15 R505). -/
abbrev secMeas (i j : Nat) : Nat := 0x1200200 + 0x40 * i + 0x4 * j
/-- SEC_TRUST_HASH (15 R505). -/
abbrev secTrustHash (i j : Nat) : Nat := 0x1201000 + 0x80 * i + 0x4 * j
/-- SEC_TRUST_CTRL (15 R505). -/
abbrev secTrustCtrl (i : Nat) : Nat := 0x1201040 + 0x80 * i
/-- FAULT_SUMMARY (16 R523). -/
abbrev faultSummary : Nat := 0x1300000
/-- FAULT_PORT_SUMMARY (16 R523). -/
abbrev faultPortSummary (i : Nat) : Nat := 0x1300010 + 0x4 * i
/-- FAULT_BENCH_SUMMARY (16 R523). -/
abbrev faultBenchSummary (i : Nat) : Nat := 0x1300028 + 0x4 * i
/-- FAULT_STACK_SUMMARY (16 R523). -/
abbrev faultStackSummary : Nat := 0x1300040
/-- FAULT_FENCE_LO (16 R523). -/
abbrev faultFenceLo : Nat := 0x1300050
/-- FAULT_FENCE_HI (16 R523). -/
abbrev faultFenceHi : Nat := 0x1300054
/-- FAULT_FENCE_SET_LO (16 R523). -/
abbrev faultFenceSetLo : Nat := 0x1300058
/-- FAULT_FENCE_SET_HI (16 R523). -/
abbrev faultFenceSetHi : Nat := 0x130005C
/-- FAULT_LIFT_LO (16 R523). -/
abbrev faultLiftLo : Nat := 0x1300060
/-- FAULT_LIFT_HI (16 R523). -/
abbrev faultLiftHi : Nat := 0x1300064
/-- FAULT_ERR (16 R523). -/
abbrev faultErr : Nat := 0x1300070
/-- FAULT_ERR_COUNT (16 R523). -/
abbrev faultErrCount : Nat := 0x1300074
/-- FAULT_ERR_FIRST_LO (16 R523). -/
abbrev faultErrFirstLo : Nat := 0x1300078
/-- FAULT_ERR_FIRST_HI (16 R523). -/
abbrev faultErrFirstHi : Nat := 0x130007C
/-- FAULT_ERR_CAPTURE (16 R523). -/
abbrev faultErrCapture : Nat := 0x1300080
/-- FAULT_LOCKED_ADDR (16 R523). -/
abbrev faultLockedAddr : Nat := 0x1300084
/-- MAINT_STATUS (16 R523). -/
abbrev maintStatus : Nat := 0x1300100
/-- MAINT_DEFERRALS (16 R523). -/
abbrev maintDeferrals : Nat := 0x1300104
/-- MAINT_TIMEOUTS (16 R523). -/
abbrev maintTimeouts : Nat := 0x1300108
/-- MAINT_LOG_NEXT (16 R523). -/
abbrev maintLogNext : Nat := 0x130010C
/-- MAINT_ROTATE_MAX (16 R523). -/
abbrev maintRotateMax : Nat := 0x1300110
/-- FAULT_OFFLINE (16 R523). -/
abbrev faultOffline (i : Nat) : Nat := 0x1300180 + 0x4 * i
/-- FAULT_OFFLINE_NU_LO (16 R523). -/
abbrev faultOfflineNuLo : Nat := 0x1300198
/-- FAULT_OFFLINE_NU_HI (16 R523). -/
abbrev faultOfflineNuHi : Nat := 0x130019C
/-- MAINT_LOG_W0 (16 R523). -/
abbrev maintLogW0 (i : Nat) : Nat := 0x1300200 + 0x8 * i
/-- MAINT_LOG_W1 (16 R523). -/
abbrev maintLogW1 (i : Nat) : Nat := 0x1300204 + 0x8 * i
/-- BOOT_STATUS (17 R538). -/
abbrev bootStatus : Nat := 0x1300800
/-- BOOT_CTRL (17 R538). -/
abbrev bootCtrl : Nat := 0x1300804
/-- BOOT_RECOVERY_LEN (17 R538). -/
abbrev bootRecoveryLen : Nat := 0x1300808
/-- BOOT_CLAIM (17 R538). -/
abbrev bootClaim : Nat := 0x130080C
/-- BOOT_STAMP_LO (17 R538). -/
abbrev bootStampLo : Nat := 0x1300810
/-- BOOT_STAMP_HI (17 R538). -/
abbrev bootStampHi : Nat := 0x1300814
/-- BOOT_ELAPSED (17 R538). -/
abbrev bootElapsed : Nat := 0x1300818
/-- RESET_CAUSE (17 R538). -/
abbrev resetCause : Nat := 0x130081C
/-- RESET_CTRL (17 R538). -/
abbrev resetCtrl : Nat := 0x1300820
/-- FW_VERSION_LO (17 R538). -/
abbrev fwVersionLo : Nat := 0x1300824
/-- FW_VERSION_HI (17 R538). -/
abbrev fwVersionHi : Nat := 0x1300828
/-- WDOG_CFG (17 R538). -/
abbrev wdogCfg : Nat := 0x130082C
/-- WDOG_STATUS (17 R538). -/
abbrev wdogStatus : Nat := 0x1300830
/-- MGMT_HEARTBEAT (17 R538). -/
abbrev mgmtHeartbeat : Nat := 0x1300834
/-- SHUTDOWN_CTRL (17 R538). -/
abbrev shutdownCtrl : Nat := 0x1300838
/-- BOOT_ORDER_IGNORED (17 R538). -/
abbrev bootOrderIgnored : Nat := 0x130083C
/-- BOOT_BENCH_FAIL (17 R538). -/
abbrev bootBenchFail (i : Nat) : Nat := 0x1300840 + 0x4 * i
/-- TEST_LB_CTRL (18 R553). -/
abbrev testLbCtrl : Nat := 0x1400000
/-- TEST_LB_STATUS (18 R553). -/
abbrev testLbStatus : Nat := 0x1400004
/-- TEST_LB_BITS_LO (18 R553). -/
abbrev testLbBitsLo : Nat := 0x1400008
/-- TEST_LB_BITS_HI (18 R553). -/
abbrev testLbBitsHi : Nat := 0x140000C
/-- TEST_LB_ECHO_OPS (18 R553). -/
abbrev testLbEchoOps : Nat := 0x1400010
/-- TEST_HLB_CTRL (18 R553). -/
abbrev testHlbCtrl : Nat := 0x1400040
/-- TEST_HLB_STATUS (18 R553). -/
abbrev testHlbStatus : Nat := 0x1400044
/-- TEST_HLB_BITS_LO (18 R553). -/
abbrev testHlbBitsLo : Nat := 0x1400048
/-- TEST_HLB_BITS_HI (18 R553). -/
abbrev testHlbBitsHi : Nat := 0x140004C
/-- TEST_HLB_ERR (18 R553). -/
abbrev testHlbErr (i : Nat) : Nat := 0x1400050 + 0x4 * i
/-- TEST_BIST_LAST (18 R553). -/
abbrev testBistLast : Nat := 0x1400080
/-- TEST_BIST_DETAIL (18 R553). -/
abbrev testBistDetail : Nat := 0x1400084
/-- TEST_BIST_ADDR_LO (18 R553). -/
abbrev testBistAddrLo : Nat := 0x1400088
/-- TEST_BIST_ADDR_HI (18 R553). -/
abbrev testBistAddrHi : Nat := 0x140008C
/-- TEST_BIST_RUNS (18 R553). -/
abbrev testBistRuns : Nat := 0x1400090
/-- TEST_BIST_FAILS (18 R553). -/
abbrev testBistFails : Nat := 0x1400094
/-- TEST_MARCH_DONE_LO (18 R553). -/
abbrev testMarchDoneLo : Nat := 0x1400098
/-- TEST_MARCH_DONE_HI (18 R553). -/
abbrev testMarchDoneHi : Nat := 0x140009C
/-- TEST_LB_ERR (18 R553). -/
abbrev testLbErr (i : Nat) : Nat := 0x1400100 + 0x4 * i
/-- TRC_CFG (18 R553). -/
abbrev trcCfg (i : Nat) : Nat := 0x1400200 + 0x20 * i
/-- TRC_TRIG (18 R553). -/
abbrev trcTrig (i : Nat) : Nat := 0x1400204 + 0x20 * i
/-- TRC_POST (18 R553). -/
abbrev trcPost (i : Nat) : Nat := 0x1400208 + 0x20 * i
/-- TRC_STATUS (18 R553). -/
abbrev trcStatus (i : Nat) : Nat := 0x140020C + 0x20 * i
/-- TRC_DROP (18 R553). -/
abbrev trcDrop (i : Nat) : Nat := 0x1400210 + 0x20 * i
/-- TRC_TRIG_TIME_LO (18 R553). -/
abbrev trcTrigTimeLo (i : Nat) : Nat := 0x1400214 + 0x20 * i
/-- TRC_TRIG_TIME_HI (18 R553). -/
abbrev trcTrigTimeHi (i : Nat) : Nat := 0x1400218 + 0x20 * i
/-- TEL_STATUS (19 R564). -/
abbrev telStatus : Nat := 0x1500000
/-- TEL_CTRL (19 R564). -/
abbrev telCtrl : Nat := 0x1500004
/-- TEL_THERM_CFG (19 R564). -/
abbrev telThermCfg : Nat := 0x1500008
/-- TEL_TJ_MAX (19 R564). -/
abbrev telTjMax : Nat := 0x1500010
/-- TEL_DIE_TEMP (19 R564). -/
abbrev telDieTemp (i : Nat) : Nat := 0x1500014 + 0x4 * i
/-- TEL_COOLANT (19 R564). -/
abbrev telCoolant : Nat := 0x1500030
/-- TEL_REG_TEMP (19 R564). -/
abbrev telRegTemp : Nat := 0x1500034
/-- TEL_VIN (19 R564). -/
abbrev telVin : Nat := 0x1500040
/-- TEL_VAUX (19 R564). -/
abbrev telVaux : Nat := 0x1500044
/-- TEL_PIN (19 R564). -/
abbrev telPin : Nat := 0x1500048
/-- TEL_PAUX (19 R564). -/
abbrev telPaux : Nat := 0x150004C
/-- TEL_ENERGY_LO (19 R564). -/
abbrev telEnergyLo : Nat := 0x1500050
/-- TEL_ENERGY_HI (19 R564). -/
abbrev telEnergyHi : Nat := 0x1500054
/-- TEL_TRIPS (19 R564). -/
abbrev telTrips : Nat := 0x1500058

end Reg

end Sys2Proof.Machine
end

