-- ==== Sys2Proof/Machine/UnitState.lean ====
section
/-!
DEFINITION. State of the roll (11 R365 to R395), of the bench engines (10 R319 to R360) and of the network units and the prefix
index (12 R398 to R427), as plain data.
-/
namespace Sys2Proof.Machine

/-! The roll. -/

/-- STATE of the hall pass (R368). -/
inductive PassSt where
  | held
  | offered
  | orphaned
  | closed
  deriving DecidableEq, Repr

/-- STATE as R368 codes it. -/
def PassSt.code : PassSt → Nat
  | .held => 0
  | .offered => 1
  | .orphaned => 2
  | .closed => 3

/-- The live half of a roll entry (R368). -/
structure Live where
  live : Bool
  state : PassSt
  frozen : Bool
  holderSession : BitVec 8
  epoch : BitVec 16
  /-- Agent in [19:0], pool in [23:20]. -/
  holder : BitVec 24
  targetSession : BitVec 8
  committed : Nat
  target : BitVec 24
  refs : Nat
  deadline : Dword
  lastChange : Dword
  /-- The holder has been declared dead (R382, R383) and has not been replaced: the model's own note of an event that R378 uses later. -/
  holderDead : Bool
  deriving DecidableEq, Repr

/-- All bytes 0. -/
def Live.reset : Live := ⟨false, .held, false, 0, 0, 0, 0, 0, 0, 0, 0, 0, false⟩

/-- A ticket that a station holds (R388, R389, R392). -/
structure Ticket where
  slot : Nat
  epoch : BitVec 16
  /-- The 64 bytes. -/
  data : Bytes
  /-- The ATTEND that brought it, with its class and cluster; none for a forwarded ticket. -/
  origin : Option (Frame × Cls × Fin 12)
  deriving DecidableEq, Repr

/-- A message of the roll engine that holds a tag. -/
inductive RollMsg where
  /-- The MSG of an event (R381). -/
  | event
  /-- WATCH or unwatch of an agent (R383). -/
  | watch (agent : Nat) (on : Bool)
  | forward
  /-- TRIM of a part, for the claim of a slot (R384). -/
  | trim (slot : Nat)
  /-- Read of the block table line `line` of a claim or a TRIM (R384). -/
  | table (slot line : Nat)
  deriving DecidableEq, Repr

/-- What the home knows of an agent of another switch that it watches (R383). -/
structure Watched where
  /-- Session count recorded, once a WATCH has completed. -/
  count : Option (BitVec 8)
  /-- It has been declared dead. -/
  dead : Bool
  /-- A WATCH or an unwatch that failed: which, and boundaries passed then. -/
  retry : Option (Bool × Nat)
  deriving DecidableEq, Repr

/-- The discards of a CLAIM, or of a TRIM at a part, that have not completed (R384). -/
structure Claim where
  slot : Nat
  frame : Frame
  cls : Cls
  cluster : Fin 12
  /-- COMMITTED from which blocks are discarded; the result block of a CLAIM. -/
  committed : Nat
  block : Bytes
  /-- Lines of the block table still to be read, planks still to be discarded, TRIMs still open. -/
  lines : List Nat
  planks : List Dword
  trims : Nat
  deriving DecidableEq, Repr

/-- The roll (R365 to R397). -/
structure Roll where
  /-- Banks 0 and 1 of the configuration halves (R367), the shape table (R369) and the station table (R387). -/
  cfg0 : Tab (BitVec 1024)
  cfg1 : Tab (BitVec 1024)
  shape0 : Tab (BitVec 128)
  shape1 : Tab (BitVec 128)
  station0 : Tab (BitVec 512)
  station1 : Tab (BitVec 512)
  /-- Bank 1 is active. -/
  bank : Bool
  live : Tab Live
  /-- Pending ticket of each station, and 1 + the boundaries passed at its last binding. -/
  tickets : Tab (Option Ticket)
  boundAt : Tab Nat
  /-- Bound descriptor areas: byte i of station n at 8,192 n + i (R366). -/
  bound : Tab Byte
  /-- Link sessions of each port so far, counted 1 to 255 (R383). -/
  sessions : Tab Nat
  /-- Switches that watch a port: key 4,096 × port + switch (R383). -/
  watchers : Tab Bool
  /-- Agents watched, by agent identifier; boundaries passed at the last heartbeat of each switch, and at the last sent. -/
  watched : Tab (Option Watched)
  heardAt : Tab Nat
  sentAt : Nat
  /-- Messages that hold tags, by number, and the next number. -/
  msgs : Tab (Option RollMsg)
  nextMsg : Nat
  claims : List Claim
  /-- The entry last probed (R396). -/
  probe : Option (Bytes × Bool)
  deriving DecidableEq, Repr

/-- Empty. -/
def Roll.reset : Roll where
  cfg0 := []
  cfg1 := []
  shape0 := []
  shape1 := []
  station0 := []
  station1 := []
  bank := false
  live := []
  tickets := []
  boundAt := []
  bound := []
  sessions := []
  watchers := []
  watched := []
  heardAt := []
  sentAt := 0
  msgs := []
  nextMsg := 0
  claims := []
  probe := none

/-! Requests of benches and network units. -/

/-- What a request of a unit is for. -/
inductive UWhat where
  /-- Line i of a descriptor. -/
  | desc (i : Nat)
  /-- The acquire read of the flag, and the write of 0 to it (R355, R400). -/
  | acquire
  | consume
  /-- Part i of operand o of a bench: tiles or lines, with scales apart. -/
  | operand (o i : Nat)
  | scale (o i : Nat)
  | output
  | release
  /-- The list line, block table line, plank, or line of a plank that a walk fetches; a read of a selection. -/
  | list
  | table
  | plank
  | line (i : Nat)
  /-- The flag, its clear, and part i of DATA and of ML of LOCAL entry e of a session. -/
  | flag (e : Nat)
  | clear (e : Nat)
  | data (e i : Nat)
  | ml (e i : Nat)
  /-- A DELIVER or a relayed CONTRIB. -/
  | deliver
  deriving DecidableEq, Repr

/-- An open request of a unit: its address, the ticks when it was sent and when its completion came, and that completion. -/
structure UReq where
  k : Nat
  what : UWhat
  addr : Nat
  sent : Nat
  back : Nat
  got : Option (BitVec 8 × BitVec 8 × Bytes)
  deriving DecidableEq, Repr

/-! Benches. -/

/-- Who launched an operator (R352, R353). -/
inductive LaunchSrc where
  /-- The timetable entry of this index. -/
  | timetable (entry : Nat)
  /-- A LAUNCH frame, of the fabric or of a host ring (R134). -/
  | fabric (frame : Frame) (cls : Cls) (cluster : Fin 12)
  deriving DecidableEq, Repr

/-- A launch in a bench's queue (R134, R354). -/
structure Launch where
  src : LaunchSrc
  /-- Local offset of the descriptor for a timetable launch, job-local address otherwise; and its JOB there. -/
  addr : Nat
  job : BitVec 12
  /-- Ticks, and boundaries passed, when it arrived. -/
  tick : Nat
  bound : Nat
  deriving DecidableEq, Repr

/-- Stages of an operator (R358). -/
inductive BenchStage where
  | acquire
  | gather
  | fetch
  | compute
  | write
  | release
  deriving DecidableEq, Repr

/-- An operator that runs on a bench. -/
structure BenchRun where
  launch : Launch
  desc : Bytes
  stage : BenchStage
  seed : Dword
  /-- Ticks at the launch, at the last acquire read, and when the inputs were all at hand. -/
  started : Nat
  lastRead : Nat
  readyAt : Nat
  /-- The acquire returned SCOPE; an operand returned POISON. -/
  scope : Bool
  poison : Bool
  reqs : List UReq
  deriving DecidableEq, Repr

/-- A store slot's residency record (R285, R321): ready for a GATHER operand, and the local offsets and lengths its data came from;
the status with which it is invalid (R447); and the job that last wrote the slot (R503). -/
structure Residency where
  ready : Bool
  sources : List (Nat × Nat)
  invalid : Option (BitVec 8)
  owner : Option (BitVec 12)
  deriving DecidableEq, Repr

/-- Nothing delivered, and no owner. -/
def Residency.reset : Residency := ⟨false, [], none, none⟩

/-- A bench (R319). -/
structure Bench where
  run : Option BenchRun
  queue : List Launch
  store : Tab Byte
  slots : Tab Residency
  nextReq : Nat
  /-- Slots spent outside IDLE (R363). -/
  busy : Nat
  /-- Descriptor reads of the launch at the head of the queue. -/
  head : List UReq
  /-- Status words whose writes are open: request, OP, descriptor (R357). -/
  posts : List (Nat × Nat × Nat)
  /-- 1 + ticks when a timetable entry last fired on the bench. -/
  firedAt : Nat
  deriving DecidableEq, Repr

/-- Idle with a store of zeros. -/
def Bench.reset : Bench := ⟨none, [], [], [], 0, 0, [], [], 0⟩

/-! Network units. -/

/-- A contribution of a session (R406 to R408): what its first segment said, the bytes taken so far, and its end: OK when complete,
otherwise the status with which it failed. -/
structure Contrib where
  row0 : Nat
  rc : Nat
  incomplete : Bool
  empty : Bool
  data : Bytes
  ended : Option (BitVec 8)
  deriving DecidableEq, Repr

/-- Nothing taken. -/
def Contrib.reset : Contrib := ⟨0, 0, false, false, [], none⟩

/-- Stages of a session, walk or selection (R401, R407 to R420). -/
inductive NetStage where
  | acquire
  /-- The flag is being cleared (R400). -/
  | consume
  | run
  /-- A session merges. -/
  | merge
  /-- Results are being written or sent. -/
  | deliver
  | release
  deriving DecidableEq, Repr

/-- A session, walk or selection that a network unit runs (R399). -/
structure NetWork where
  /-- Session context of a reduce unit. -/
  ctx : Nat
  desc : Bytes
  stage : NetStage
  seed : Dword
  /-- Ticks and PERIOD at its START, ticks at its last flag read. -/
  started : Nat
  period : BitVec 16
  lastRead : Nat
  /-- An acquire read returned SCOPE; a status that ends it. -/
  scope : Bool
  failed : Option (BitVec 8)
  reqs : List UReq
  /-- A walk: target, plank in it, first plank of the block at hand, source addresses of the plank at hand, bytes for a port. -/
  target : Nat
  pos : Nat
  base : Nat
  sources : List Nat
  buf : Bytes
  /-- A session: contributions by 192 × group + index, LOCAL entries whose flag has held, ticks when the last contributor ended and
  when the merge began. -/
  contribs : Tab Contrib
  held : List Nat
  endedAt : Nat
  mergeAt : Nat
  deriving DecidableEq, Repr

/-- A network unit (R398). -/
structure NetUnit where
  works : List NetWork
  nextReq : Nat
  /-- Slots spent outside IDLE (R429). -/
  busy : Nat
  /-- 1 + ticks when a timetable entry last fired on the unit. -/
  firedAt : Nat
  deriving DecidableEq, Repr

/-- Idle. -/
def NetUnit.reset : NetUnit := ⟨[], 0, 0, 0⟩

/-- The network units and the prefix index (R398, R423). -/
structure Net where
  units : Tab NetUnit
  /-- Ways by 16 × bucket + way, and BUCKETS_LOG2 as read at pool initialization; 0 before it. -/
  pfx : Tab (BitVec 128)
  pfxLog2 : Nat
  deriving DecidableEq, Repr

/-- Idle, with no index. -/
def Net.reset : Net := ⟨[], [], 0⟩

end Sys2Proof.Machine
end

