-- ==== Sys2Proof/Machine/State.lean ====
section
/-!
DEFINITION. The state of the CF-480, whole, as plain data: the register file of BAR0, the state of every block, the
queue of commands that wait, and what has left the device. `State.reset` is the device before its supplies are good.
-/
namespace Sys2Proof.Machine

/-- Reasons for which a command stops the machine with a fault. The manual gives every command an effect, a status or
an error record, so there is none. -/
inductive Fault where
  deriving DecidableEq, Repr

/-- Reasons for which a command has no meaning here. -/
inductive Refusal where
  /-- Raised by the dispatcher for a command whose meaning is not written. Safe: the machine stops. -/
  | notModelled (mnemonic : String)
  deriving DecidableEq, Repr

/-- What leaves the device, in order: the model's own record of it (nothing in the device reads it back). -/
inductive Out where
  /-- Completion of a BAR0 read with its data (R6). -/
  | cpl (h : HostPort) (v : Word)
  /-- Completion with Unsupported Request (R5, R452, R455). -/
  | unsupported (h : HostPort)
  /-- A bell frame on BELL_OUT (R38, R41); none: idle characters in its place. -/
  | bell (content : Option (BitVec 272))
  /-- A flit on a link. -/
  | flit (l : LinkId) (f : Flit)
  /-- A write to host memory (R463). -/
  | hostWrite (h : HostPort) (addr : Dword) (data : Bytes)
  /-- An MSI-X message (R465). -/
  | msix (h : HostPort) (vector : BitVec 8)
  /-- Completion of a BAR4 read or AtomicOp: Successful (with EP set for poison), or Completer Abort (R457). -/
  | bar4 (h : HostPort) (tag : BitVec 16) (abort : Bool) (poison : Bool) (data : Bytes)
  /-- The firmware image is programmed into the SPI flash (R531). -/
  | spiProgram (image : Bytes)
  /-- An I3C in-band interrupt (R562). -/
  | i3cInterrupt
  deriving DecidableEq, Repr

/-- The CF-480. -/
structure State where
  /-- BAR0 registers by offset (R10); unlisted ones read their reset value. Status registers that show other state are
  computed when read. -/
  regs : Tab Word
  /-- High words latched by a read of _LO (R6), and low words held by a write of _LO (R7), by port and offset. -/
  latch : Tab (Option Word)
  hold : Tab (Option Word)
  bell : Bell
  tt : Timetable
  /-- Links, by LinkId; unlisted ones in reset state. -/
  links : Tab Link
  sw : Switch
  mort : Mortise
  pool : Pool
  dir : Directory
  roll : Roll
  /-- Benches, by number. -/
  benches : Tab Bench
  net : Net
  hostA : HostSide
  hostB : HostSide
  fault : Faults
  boot : Boot
  test : Test
  mod : Module
  /-- Free values drawn so far: the model's own counter (Config.freeValue). -/
  free : Nat
  /-- Everything that has left the device, latest first. -/
  out : List Out
  /-- Commands that wait, first in first out. -/
  pending : List Instr
  deriving DecidableEq, Repr

/-- The device before its supplies are good: every field at the manual's reset value, empty tables and queues. -/
def State.reset : State where
  regs := []
  latch := []
  hold := []
  bell := Bell.reset
  tt := Timetable.reset
  links := []
  sw := Switch.reset
  mort := Mortise.reset
  pool := Pool.reset
  dir := Directory.reset
  roll := Roll.reset
  benches := []
  net := Net.reset
  hostA := HostSide.reset
  hostB := HostSide.reset
  fault := Faults.reset
  boot := Boot.reset
  test := Test.reset
  mod := Module.reset
  free := 0
  out := []
  pending := []

end Sys2Proof.Machine
end

