-- ==== Sys2Proof/Machine/Ops.lean ====
section
/-!
DEFINITION. The operations every family shares: named updates of the state, the register file, bell arithmetic, trace
capture, ring entries, events, and the raise of an error bit.
-/
namespace Sys2Proof.Machine

/-! Named updates, one per part of the state. -/

def State.withRegs (s : State) (r : Tab Word) : State := { s with regs := r }
def State.withLatch (s : State) (t : Tab (Option Word)) : State := { s with latch := t }
def State.withHold (s : State) (t : Tab (Option Word)) : State := { s with hold := t }
def State.withBell (s : State) (b : Bell) : State := { s with bell := b }
def State.withTt (s : State) (t : Timetable) : State := { s with tt := t }
def State.withLinks (s : State) (t : Tab Link) : State := { s with links := t }
def State.withSw (s : State) (w : Switch) : State := { s with sw := w }
def State.withMort (s : State) (m : Mortise) : State := { s with mort := m }
def State.withPool (s : State) (p : Pool) : State := { s with pool := p }
def State.withDir (s : State) (d : Directory) : State := { s with dir := d }
def State.withRoll (s : State) (r : Roll) : State := { s with roll := r }
def State.withBenches (s : State) (b : Tab Bench) : State := { s with benches := b }
def State.withNet (s : State) (n : Net) : State := { s with net := n }
def State.withFault (s : State) (f : Faults) : State := { s with fault := f }
def State.withBoot (s : State) (b : Boot) : State := { s with boot := b }
def State.withTest (s : State) (t : Test) : State := { s with test := t }
def State.withMod (s : State) (m : Module) : State := { s with mod := m }
def State.withFree (s : State) (n : Nat) : State := { s with free := n }
def State.withOut (s : State) (o : List Out) : State := { s with out := o }

/-- One host's port and ring set. -/
def State.host (s : State) : HostPort → HostSide
  | .a => s.hostA
  | .b => s.hostB

def State.withHost (s : State) (h : HostPort) (x : HostSide) : State :=
  match h with
  | .a => { s with hostA := x }
  | .b => { s with hostB := x }

/-- One link. -/
def State.link (s : State) (l : LinkId) : Link := s.links.get Link.reset l.val

def State.setLink (s : State) (l : LinkId) (k : Link) : State := s.withLinks (s.links.put Link.reset l.val k)

/-- Something leaves the device. -/
def State.emit (s : State) (o : Out) : State := s.withOut (o :: s.out)

/-- The next free value (Config.freeValue), and the state with it drawn. -/
def State.draw (s : State) : BitVec 64 × State := (Config.freeValue s.free, s.withFree (s.free + 1))

/-- Bytes that the manual leaves open. -/
def State.drawBytes (s : State) (n : Nat) : Bytes × State :=
  (byteRun (Config.freeBytes s.free n) 0 n, s.withFree (s.free + 1))

/-- The other host port. -/
def other : HostPort → HostPort
  | .a => .b
  | .b => .a

/-- Number of a host port in register groups and records: 0 A, 1 B. -/
def hostNum : HostPort → Nat
  | .a => 0
  | .b => 1

/-! The register file. -/

/-- A stored register (R8). -/
def State.rd (s : State) (off : Nat) : Word := s.regs.get (regReset off) off

/-- Store a register. -/
def State.wr (s : State) (off : Nat) (v : Word) : State := s.withRegs (s.regs.put (regReset off) off v)

/-- Add to a counter that saturates at its maximum. -/
def State.addReg (s : State) (off n : Nat) : State :=
  s.wr off (BitVec.ofNat 32 (min ((s.rd off).toNat + n) 0xFFFFFFFF))

/-- Count one event. -/
def State.bump (s : State) (off : Nat) : State := s.addReg off 1

/-- A pair of registers _LO at `lo`, _HI at `lo + 4`, as one quantity (R6). -/
def State.rd64 (s : State) (lo : Nat) : Dword := s.rd (lo + 4) ++ s.rd lo

/-- Store a pair of registers. -/
def State.wr64 (s : State) (lo : Nat) (v : Dword) : State :=
  (s.wr lo (v.extractLsb' 0 32)).wr (lo + 4) (v.extractLsb' 32 32)

/-- Add to a 64-bit counter that saturates at its maximum. -/
def State.add64 (s : State) (lo n : Nat) : State :=
  s.wr64 lo (BitVec.ofNat 64 (min ((s.rd64 lo).toNat + n) 0xFFFFFFFFFFFFFFFF))

/-- Return registers of a range to their reset values. -/
def State.clearRegs (s : State) (lo hi : Nat) : State := s.withRegs (s.regs.clearRange lo hi)

/-- Set registers of a list to 0 (CLR_COUNTERS). -/
def State.zeroRegs (s : State) (offs : List Nat) : State := offs.foldl (fun s o => s.wr o 0) s

/-- A parameter register where 0 acts as 1. -/
def State.rdPos (s : State) (off : Nat) : Nat := max 1 (s.rd off).toNat

/-! Bell time. -/

/-- Bell time now, as a timestamp of R12. -/
def State.now (s : State) : Dword := s.bell.now.stamp

/-- A (term, period) as a number of periods, at the term length in force. -/
def periodsOf (len : Nat) (term : BitVec 40) (period : BitVec 16) : Nat := term.toNat * len + period.toNat

/-- The (term, period) that lies `n` periods after one (R35). -/
def addPeriods (len : Nat) (term : BitVec 40) (period : BitVec 16) (n : Nat) : BitVec 40 × BitVec 16 :=
  let t := period.toNat + n
  (BitVec.ofNat 40 (term.toNat + t / len), BitVec.ofNat 16 (t % len))

/-- R46: the switch runs scheduled work: it has bell lock, has not missed a switch-over, and its count runs at the
term length of its active bank. -/
def State.runsSchedule (s : State) : Bool :=
  (s.bell.lock == .locked || s.bell.lock == .holdover) && !s.tt.missed && s.bell.len == s.tt.activeLen

/-- Switch number (R27): 0 in single-card mode; from PROCEED the value in force then. -/
def State.identity (s : State) : Word := s.boot.identity.getD (s.rd Reg.swIdentity)

/-- R27: fabric mode. -/
def State.isFabric (s : State) : Bool := bit s.identity 16

/-- This switch's number (R27). -/
def State.swNum (s : State) : BitVec 12 := if s.isFabric then s.identity.extractLsb' 0 12 else 0

/-! Trace buffers (R550, R551). -/

/-- One 32-byte trace entry; each data item is a 4-byte little-endian word unless it is bytes of a header or record. -/
def traceEntry (now : Dword) (src unit : Nat) (data : Bytes) : Bytes :=
  leBytes 8 now.toNat ++ leBytes 1 src ++ [0] ++ leBytes 2 unit ++ byteRun data 0 20

/-- Take an entry into one buffer if it captures this source and unit. -/
def traceInto (s : State) (src unit : Nat) (anyUnit : Bool) (data : Bytes) (b : Nat) : State :=
  let cfg := (s.rd (Reg.trcCfg b)).toNat
  let t := s.test.trace.get Trace.reset b
  let live := t.state == .capturing || t.state == .triggered
  if live && bits cfg 29 27 == src && (anyUnit || bits cfg 25 16 == unit) then
    let e := traceEntry s.now src unit data
    let full := decide (2048 ≤ t.entries.length)
    let es := if full then t.entries.drop 1 ++ [e] else t.entries ++ [e]
    let t := { t with entries := es }
    let t := if bits cfg 30 30 == 1 && decide (2048 ≤ es.length) then { t with state := .stopped } else t
    let t := if t.state == .triggered then
        (if t.post ≤ 1 then { t with post := 0, state := .stopped } else { t with post := t.post - 1 }) else t
    s.withTest { s.test with trace := s.test.trace.put Trace.reset b t }
  else s

/-- Capture an event of a trace source (R550). -/
def State.traceEv (s : State) (src unit : Nat) (anyUnit : Bool) (data : Bytes) : State :=
  [0, 1, 2, 3].foldl (fun s b => traceInto s src unit anyUnit data b) s

/-- The trigger of TRIG_ERR (R551): the raise of bit `b` of the record at `e`. -/
def traceTrigger (s : State) (e b k : Nat) : State :=
  let cfg := s.rd (Reg.trcCfg k)
  let trg := (s.rd (Reg.trcTrig k)).toNat
  let t := s.test.trace.get Trace.reset k
  if t.state == .capturing && bit cfg 26 && bits trg 30 8 == e / 4 && bits trg 4 0 == b then
    let post := bits (s.rd (Reg.trcPost k)).toNat 11 0
    let t := { t with post := post, state := if post == 0 then .stopped else .triggered }
    (s.withTest { s.test with trace := s.test.trace.put Trace.reset k t }).wr64 (Reg.trcTrigTimeLo k) s.now
  else s

/-! Ring entries (R459 to R466). Ring numbers 0 to 63 are CQs, 64 is the event ring. -/

/-- Register offsets of a CQ or of the event ring of host h (R482). -/
def ringBase (h : HostPort) (r : Nat) : Nat :=
  if r = 64 then Reg.evtBaseLo (hostNum h) else Reg.cqBaseLo (hostNum h) r
def ringCfg (h : HostPort) (r : Nat) : Nat := ringBase h r + 0x08
def ringHead (h : HostPort) (r : Nat) : Nat := ringBase h r + 0x0C
def ringTail (h : HostPort) (r : Nat) : Nat := ringBase h r + 0x10

/-- Entries of a ring with a configuration word: SIZE_LOG2 below 4 acts as 4, above 16 as 16 (R459, R482). -/
def ringSize (cfg : Word) : Nat := 2 ^ (max 4 (min 16 (cfg.extractLsb' 0 5).toNat))

/-- Whether a ring configuration has ENABLE. -/
def ringEnabled (cfg : Word) : Bool := bit cfg 31

/-- The set of host h takes entries: ACTIVE, or ADOPTED by the other host (R475, R478). -/
def State.setLive (s : State) (h : HostPort) : Bool := (s.host h).ring == .active || (s.host h).ring == .adopted

/-- The host that now owns the ring set of host h (R478). -/
def State.setOwner (s : State) (h : HostPort) : HostPort := if (s.host h).ring == .adopted then other h else h

/-- Entries written and not yet consumed: tail less head, modulo the size. -/
def State.ringFill (s : State) (h : HostPort) (r : Nat) : Nat :=
  let n := ringSize (s.rd (ringCfg h r))
  ((s.rd (ringTail h r)).toNat % 65536 + n - (s.rd (ringHead h r)).toNat % 65536 % n) % n

/-- Free entries of a ring; one entry stays empty (assumption log 2). -/
def State.ringRoom (s : State) (h : HostPort) (r : Nat) : Nat :=
  ringSize (s.rd (ringCfg h r)) - 1 - s.ringFill h r

/-- Raise the ring's vector if enough unsignalled entries have accumulated (R465). -/
def State.signal (s : State) (h : HostPort) (r : Nat) : State :=
  let cfg := (s.rd (ringCfg h r)).toNat
  let x := s.host h
  let u := x.unsig.get (0, 0) r
  if max 1 (bits cfg 21 14) ≤ u.1 then
    (s.withHost h { x with unsig := x.unsig.put (0, 0) r (0, 0) }).emit
      (.msix (s.setOwner h) (BitVec.ofNat 8 (bits cfg 29 22)))
  else s

/-- Write one entry at the tail of a ring, with the ring's phase in bit 2 of byte 0, and signal it (R463 to R466).
The caller has seen to it that there is room. -/
def State.ringWrite (s : State) (h : HostPort) (r : Nat) (entry : Bytes) : State :=
  let cfg := s.rd (ringCfg h r)
  let n := ringSize cfg
  let tail := s.rd (ringTail h r)
  let idx := tail.toNat % 65536
  let phase := bits tail.toNat 16 16
  let size := entry.length
  let e := match entry with
    | [] => []
    | g :: rest => (g ||| BitVec.ofNat 8 (4 * phase)) :: rest
  let wrapped := idx + 1 == n
  let tail' := BitVec.ofNat 32 ((if wrapped then 0 else idx + 1) + 65536 * (if wrapped then 1 - phase else phase))
  let s := (s.emit (.hostWrite (s.setOwner h) (s.rd64 (ringBase h r) + BitVec.ofNat 64 (idx * size)) e)).wr
    (ringTail h r) tail'
  let x := s.host h
  let u := x.unsig.get (0, 0) r
  let x := { x with unsig := x.unsig.put (0, 0) r (u.1 + 1, if u.1 = 0 then s.bell.bounds else u.2) }
  let x := if bit cfg 30 then { x with readback := x.readback.modify 0 r (· + 1) } else x
  (s.withHost h x).signal h r

/-- An event entry without its LOST bit (R475). -/
def eventEntry (now : Dword) (kind b subject : Nat) (detail : Bytes) : Bytes :=
  leBytes 1 1 ++ leBytes 1 kind ++ leBytes 1 b ++ [0] ++ leBytes 4 subject ++ leBytes 8 now.toNat
    ++ List.replicate 16 0 ++ byteRun detail 0 32

/-- Whether the event ring of host h can take an entry (R475). -/
def State.evtRoom (s : State) (h : HostPort) : Bool :=
  s.setLive h && ringEnabled (s.rd (ringCfg h 64)) && decide (0 < s.ringRoom h 64)

/-- Write an event to one host's ring, with LOST where earlier events were dropped (R475). -/
def State.evtWrite (s : State) (h : HostPort) (e : Bytes) : State :=
  let x := s.host h
  let e' := match e with
    | [] => []
    | g :: rest => (if x.lost then g ||| 8 else g) :: rest
  (s.withHost h { x with lost := false }).ringWrite h 64 e'

/-- Count a dropped event (R475). -/
def State.evtDrop (s : State) (h : HostPort) : State :=
  (s.withHost h { s.host h with lost := true }).bump (Reg.evtDrop (hostNum h))

/-- The part of a raise that concerns the record itself (R512): COUNT, and FIRST and the captures on a first raise;
`bitCaps` are captures that follow the bit alone. -/
def State.record (s : State) (e b : Nat) (caps bitCaps : List (Nat × Word)) : State :=
  let old := s.rd e
  let put := fun (s : State) (p : Nat × Word) => s.wr p.1 p.2
  let s := s.bump (e + 4)
  let s := if old = 0 then caps.foldl put (s.wr64 (e + 8) s.now) else s
  let s := if bit old b then s else bitCaps.foldl put s
  let s := s.wr e (setBit old b)
  let s := s.traceEv 3 0 true (leBytes 4 e ++ leBytes 4 b)
  [0, 1, 2, 3].foldl (fun s k => traceTrigger s e b k) s

/-- Post an event to one host; a drop raises EVT_OVERFLOW, whose own event is posted to both hosts while `fuel` lasts
(each record can add at most its one transition, so 4 covers both hosts). -/
def postEventTo : Nat → State → HostPort → Bytes → State
  | 0, s, h, _ => s.evtDrop h
  | fuel + 1, s, h, e =>
    if s.evtRoom h then s.evtWrite h e
    else
      let s := s.evtDrop h
      let err := Reg.hostErr (hostNum h)
      let was := bit (s.rd err) 7
      let s := s.record err 7
        [(Reg.hostErrCapture (hostNum h), 7), (Reg.hostErrAddrLo (hostNum h), 0), (Reg.hostErrAddrHi (hostNum h), 0)] []
      if was then s
      else
        let ev := eventEntry s.now 0x01 7 err []
        postEventTo fuel (postEventTo fuel s .a ev) .b ev

/-- Post an event to both hosts (R475). -/
def State.postEvent (s : State) (kind b subject : Nat) (detail : Bytes) : State :=
  let e := eventEntry s.now kind b subject detail
  postEventTo 4 (postEventTo 4 s .a e) .b e

/-- Raise bit `b` of the error record at `e` (R512, R513): the record, and one ERROR event to both hosts when the bit
goes from 0 to 1. -/
def State.raiseCap (s : State) (e b : Nat) (caps bitCaps : List (Nat × Word)) : State :=
  let was := bit (s.rd e) b
  let s := s.record e b caps bitCaps
  if was then s else s.postEvent 0x01 b e []

/-- Raise a bit of a record that has no capture, or a capture given here. -/
def State.raise (s : State) (e b : Nat) (caps : List (Nat × Word) := []) : State := s.raiseCap e b caps []

/-- Raise a bit of HOST_ERR of one host, with its capture (R482, R483). -/
def State.raiseHost (s : State) (h : HostPort) (b : Nat) (type status ring : Nat) (addr : Dword) : State :=
  let n := hostNum h
  s.raise (Reg.hostErr n) b
    [(Reg.hostErrCapture n, BitVec.ofNat 32 (type * 2 ^ 24 + status * 2 ^ 16 + ring % 64 * 2 ^ 8 + b)),
     (Reg.hostErrAddrLo n, addr.extractLsb' 0 32), (Reg.hostErrAddrHi n, addr.extractLsb' 32 32)]

/-- Raise a bit of FAULT_ERR with its capture (R524). -/
def State.raiseFault (s : State) (b subject status : Nat) : State :=
  s.raise Reg.faultErr b [(Reg.faultErrCapture, BitVec.ofNat 32 (status * 2 ^ 16 + subject % 256 * 2 ^ 8 + b))]

/-! Completion entries (R463, R464, R474). -/

/-- A completion entry without its phase (R474). -/
def cplEntry (now : Dword) (final operator : Bool) (type status sq head : Nat) (cookie result : Nat) : Bytes :=
  leBytes 1 (1 + 8 * b2n final + 16 * b2n operator) ++ leBytes 1 type ++ leBytes 1 status ++ [0] ++ leBytes 2 sq
    ++ leBytes 2 head ++ leBytes 8 cookie ++ leBytes 8 result ++ leBytes 8 now.toNat

/-- Whether CQ r of host h can take an entry beyond `keep` reserved ones, no held entry of it being ahead. -/
def State.cqRoom (s : State) (h : HostPort) (r keep : Nat) : Bool :=
  s.setLive h && ringEnabled (s.rd (ringCfg h r)) && decide (keep < s.ringRoom h r)
    && !((s.host h).held.any (fun e => e.cq.val == r))

/-- Write an entry to a CQ, or keep it in the held store (R464, R476). -/
def State.cqPost (s : State) (h : HostPort) (r : RingId) (entry : Bytes) (keep : Nat) : State :=
  if s.cqRoom h r.val keep then s.ringWrite h r.val entry
  else s.withHost h { s.host h with held := (s.host h).held ++ [⟨r, entry, false⟩] }

/-- SQ_HEAD as a completion entry reports it (R463). -/
def State.sqHead (s : State) (h : HostPort) (q : RingId) : Nat := (s.rd (Reg.sqHead (hostNum h) q.val)).toNat % 65536

/-- A held entry as it is written: TIME, and SQ_HEAD of a descriptor's entry, are those of the write (R463, R474). -/
def State.restamp (s : State) (h : HostPort) (e : Held) : Bytes :=
  let sq : RingId := ⟨field e.entry 4 1 % 64, Nat.mod_lt _ (by decide)⟩
  e.entry.take 6 ++ (if e.operator then e.entry.drop 6 |>.take 2 else leBytes 2 (s.sqHead h sq))
    ++ (e.entry.drop 8 |>.take 16) ++ leBytes 8 s.now.toNat

/-- Write held entries of one CQ, first held first, while the ring can take them (R464, R480). -/
def flushHeld : Nat → State → HostPort → RingId → State
  | 0, s, _, _ => s
  | fuel + 1, s, h, r =>
    match (s.host h).held.find? (fun e => e.cq == r) with
    | none => s
    | some e =>
      if s.setLive h && ringEnabled (s.rd (ringCfg h r.val)) && decide (0 < s.ringRoom h r.val) then
        let s := s.withHost h { s.host h with held := (s.host h).held.erase e }
        flushHeld fuel (s.ringWrite h r.val (s.restamp h e)) h r
      else s

/-- Complete a fetched descriptor (R463): its final entry is written or held, its reservation ends. -/
def State.finish (s : State) (h : HostPort) (d : Desc) (status result : Nat) : State :=
  let x := s.host h
  let x := { x with flight := x.flight.filter (fun e => e.id != d.id),
                    reserved := x.reserved.modify 0 d.cq.val (· - 1) }
  let s := (s.withHost h x).bump (Reg.hostDescDone (hostNum h))
  s.cqPost h d.cq
    (cplEntry s.now true false (field d.bytes 1 1) status d.sq.val (s.sqHead h d.sq) (field d.bytes 8 8) result) 0

/-- Write the interim MAINT_PENDING entry of a deferred descriptor, or omit it (R467). -/
def State.interim (s : State) (h : HostPort) (d : Desc) : State :=
  if d.interim then s
  else
    let x := s.host h
    let s := s.withHost h
      { x with flight := x.flight.map (fun e => if e.id == d.id then { e with interim := true } else e) }
    let keep := (s.host h).reserved.get 0 d.cq.val
    if s.cqRoom h d.cq.val keep then
      s.ringWrite h d.cq.val
        (cplEntry s.now false false (field d.bytes 1 1) 0x0D d.sq.val (s.sqHead h d.sq) (field d.bytes 8 8) 0)
    else s.raiseHost h 9 (field d.bytes 1 1) 0x0D d.cq.val 0

/-- A completion that an operator or session posts to a host ring (R464): the next free entry, the held store, or
dropped; answers whether it was kept. `unit` is the SRC_UNIT of R474. -/
def State.operatorCpl (s : State) (h : HostPort) (r : RingId) (op status arg unit : Nat) : State × Bool :=
  let e := cplEntry s.now true true op status 0 0 arg (unit % 1024)
  let keep := (s.host h).reserved.get 0 r.val
  if s.cqRoom h r.val keep then (s.ringWrite h r.val e, true)
  else
    let x := s.host h
    if (x.held.filter (·.operator)).length < 1792 then
      (s.withHost h { x with held := x.held ++ [⟨r, e, true⟩] }, true)
    else (s.raiseHost h 8 0 status r.val 0, false)

end Sys2Proof.Machine
end

