-- ==== Sys2Proof/Machine/Fabric.lean ====
section
/-!
DEFINITION. The transaction layer's shared operations: routing and queue entry (R160 to R165), completions (R140, R567),
tags of CF-480 originators (R141), table lookups and the steps of the mortise check (R143 to R147).
-/
namespace Sys2Proof.Machine

/-! Status codes of R17. -/
abbrev Status := BitVec 8
namespace St
abbrev ok : Status := 0x00
abbrev fenced : Status := 0x01
abbrev denied : Status := 0x02
abbrev poison : Status := 0x03
abbrev check : Status := 0x04
abbrev cmpLen : Status := 0x05
abbrev tableGen : Status := 0x06
abbrev tableBusy : Status := 0x07
abbrev scope : Status := 0x08
abbrev passStale : Status := 0x09
abbrev noRecess : Status := 0x0A
abbrev timeout : Status := 0x0B
abbrev media : Status := 0x0C
abbrev maintPending : Status := 0x0D
abbrev format : Status := 0x0E
abbrev rsvdSet : Status := 0x0F
end St

/-- R19: the statuses that deliver data. -/
def delivers (st : Status) : Bool := st == St.ok || st == St.poison || st == St.scope

/-! Ports and roles. -/

/-- ROLE in force: PORT_CFG as read when the port left DISABLED (R94). -/
def State.role (s : State) (p : Port) : Nat := bits (s.link p.link).cfg.toNat 5 4

/-- PARTITION in force (R126). -/
def State.portPartition (s : State) (p : Port) : Nat := bits (s.link p.link).cfg.toNat 21 16

def State.isSplit (s : State) (p : Port) : Bool := bit (s.link p.link).cfg 3

/-- The two links of a port: half 1 only where the port is split (R90). -/
def State.linksOf (s : State) (p : Port) : List LinkId :=
  if s.isSplit p then [p.link, ⟨2 * p.val + 1, by omega⟩] else [p.link]

/-- The port is in ACTIVE (either half of a split port). -/
def State.portActive (s : State) (p : Port) : Bool := (s.linksOf p).any (fun l => (s.link l).train == .active && !(s.link l).looped)

/-- The port keeps its routes: ACTIVE or RECOVERY (R165). -/
def State.portUp (s : State) (p : Port) : Bool :=
  (s.linksOf p).any (fun l => ((s.link l).train == .active || (s.link l).train == .recovery) && !(s.link l).looped)

/-- A partition is fenced (R509). -/
def State.isFenced (s : State) (part : Nat) : Bool := bit s.fault.fenced part

/-- The port a number names, if there is one. -/
def portOf (n : Nat) : Option Port := if h : n < 192 then some ⟨n, h⟩ else none

/-- Cluster of a port (R159). -/
def clusterOf (p : Port) : Fin 12 := ⟨p.val / 16, by omega⟩

/-- Injection input of a cluster (R158). -/
def injectIn (k : Fin 12) : InputId := ⟨192 + k.val, by omega⟩

/-- Input of a port (R158). -/
def portIn (p : Port) : InputId := ⟨p.val, by omega⟩

/-- Cluster whose local output an input leads to (R161). -/
def inputCluster (i : InputId) : Fin 12 :=
  if h : i.val < 192 then ⟨i.val / 16, by omega⟩ else ⟨i.val - 192, by omega⟩

/-! Routing (R161 to R164). -/

/-- A usable egress: a G-role port in ACTIVE or RECOVERY. -/
def State.egressOf (s : State) (n : Nat) : Option Port :=
  match portOf n with
  | some p => if s.role p == 3 && s.portUp p then some p else none
  | none => none

/-- R164: an input and class now route to the alternate of a BE_PORT. -/
def State.onAlternate (s : State) (p : Port) (i : InputId) (c : Cls) : Bool :=
  s.sw.failed.contains p && !s.sw.backOn.contains (p, i, c)

/-- The egress port of a frame for another switch: SCHED_PORT for classes 0 to 3, BE_PORT or its alternate for 4 to 7;
none where there is no route (R161 to R165). -/
def State.route (s : State) (dest : BitVec 12) (i : InputId) (c : Cls) : Option Port :=
  let e := (s.rd (Reg.swRoute dest.toNat)).toNat
  if bits e 25 24 != 1 then none
  else if c.val < 4 then s.egressOf (bits e 7 0)
  else
    match portOf (bits e 15 8) with
    | none => none
    | some p => if s.onAlternate p i c then s.egressOf (bits e 23 16) else s.egressOf p.val

/-- Egress port of a frame that this switch sends from no input of its own choosing: the route of the injection input
of the port's own cluster (R567). -/
def State.routeOut (s : State) (dest : BitVec 12) (c : Cls) : Option Port :=
  let e := (s.rd (Reg.swRoute dest.toNat)).toNat
  match portOf (bits e 15 8) with
  | some p => s.route dest (injectIn (clusterOf p)) c
  | none => s.route dest (injectIn 0) c

/-- Raise a bit of SW_ERR with its capture (R183, R184). -/
def State.raiseSw (s : State) (b input output cls : Nat) : State :=
  s.raise Reg.swErr b
    [(Reg.swErrCapture, BitVec.ofNat 32 (input % 256 * 2 ^ 16 + output % 256 * 2 ^ 8 + cls % 8 * 32 + b))]

/-- Raise a bit of MORT_ERR with its captures (R156, R157). -/
def State.raiseMort (s : State) (b : Nat) (f : Frame) (st : Status) : State :=
  s.raise Reg.mortErr b
    [(Reg.mortErrCapture, f.job ++ f.srcUnit ++ (0 : BitVec 2) ++ f.opcode),
     (Reg.mortErrCaptureSw, (0 : BitVec 4) ++ f.srcSwitch ++ st ++ (0 : BitVec 8))]

/-- Put a whole frame into a queue of the switch core (R160, R567); cut-through, so it is eligible at once (R167). -/
def State.enqueue (s : State) (i : InputId) (d : Dest) (half : Option Bool) (c : Cls) (f : Frame) : State :=
  let e : QEntry := { id := s.sw.nextId, input := i, half1 := false, dest := d, toHalf1 := half, cls := c, hdr := f.hdr,
                      bytes := f.toBytes, flits := frameFlits f.payload.length, whole := true, short := false, saf := false,
                      eligible := true, sent := 0, lastAt := 0, tick := s.bell.ticks, bound := s.bell.bounds, len := s.bell.len,
                      crossed := false, past := false }
  s.withSw { s.sw with queue := s.sw.queue ++ [e], nextId := s.sw.nextId + 1 }

/-- Send a frame to an agent, or anything else, on one of this switch's own ports (R567). -/
def State.toPort (s : State) (p : Port) (half : Option Bool) (c : Cls) (f : Frame) : State :=
  s.enqueue (injectIn (clusterOf p)) (.port p) half c f

/-- Completion fields that every completion copies or names (R140). -/
def cplHdr (s : State) (req : Frame) (st : Status) (data : Bool) (len : Nat) (flags : BitVec 8)
    (unit : BitVec 10) : BitVec 256 :=
  HdrFields.pack { addr := req.addr, seq := req.seq, len := len, dest := req.srcSwitch, srcSwitch := s.swNum,
                   srcUnit := unit, tag := req.tag, status := st, job := req.job, flags := flags,
                   opcode := if data then 0x81 else 0x80, ak := req.ak }

/-- Count in a job's view (R504). -/
def State.addJob (s : State) (job : BitVec 12) (word n : Nat) : State :=
  s.withMort { s.mort with jobLive := s.mort.jobLive.modify 0 (8 * job.toNat + word) (· + n) }

/-- The agent record of a completion's request, by TAG, SEQ and destination (R140; assumption log 3). -/
def State.agentOf (s : State) (f : Frame) : Option AgentTag :=
  s.mort.agents.find? (fun a => a.tag == f.tag && a.seq == f.seq && a.srcSwitch == f.dest)

/-- Hand a completion to the agent of this switch that it belongs to, closing the agent's record. -/
def State.cplToAgent (s : State) (a : AgentTag) (c : Cls) (f : Frame) : State :=
  (s.withMort { s.mort with agents := s.mort.agents.erase a }).toPort a.port (if s.isSplit a.port then some a.half1 else none)
    c f

/-- Count and report a frame without a route (R163). -/
def State.noRoute (s : State) (i : InputId) (dest : BitVec 12) (c : Cls) : State :=
  let e := (s.rd (Reg.swRoute dest.toNat)).toNat
  (s.bump Reg.swNoroute).raiseSw 3 i.val (if c.val < 4 then bits e 7 0 else bits e 15 8) c.val

/-- Send a completion for a request: to the agent or the unit of this switch that asked, or toward its switch (R140,
R567). `k` is the cluster that consumed the request. -/
def State.sendFrameOut (s : State) (k : Fin 12) (c : Cls) (f : Frame) : State :=
  if f.dest == s.swNum then
    match s.agentOf f with
    | some a => if f.isCpl then s.cplToAgent a c f else s.enqueue (injectIn k) .home none c f
    | none => s.enqueue (injectIn k) .home none c f
  else
    match s.routeOut f.dest c with
    | some p => s.toPort p none c f
    | none => s.noRoute (injectIn k) f.dest c

/-- Complete a request (R140): CPL, or CPL_DATA where `data` says the request kind takes it; payload only with a status
that delivers data (R19). The check is computed with the request's ADDR (R138). -/
def State.complete (s : State) (k : Fin 12) (c : Cls) (req : Frame) (st : Status) (data : Bool) (payload : Bytes)
    (flags : BitVec 8) (unit : BitVec 10) : State :=
  let pl := if delivers st then payload else []
  let f := Frame.sealed (cplHdr s req st data pl.length flags unit) pl
  if req.srcSwitch == s.swNum && 192 ≤ req.srcUnit.toNat then s.enqueue (injectIn k) .home none c f else s.sendFrameOut k c f

/-- The request kinds of R132 whose completion is CPL_DATA; for DIR, ROLL_OP and NET_OP the subtype decides (R298, R375, R402). -/
def cplHasData (f : Frame) : Bool :=
  let op := f.opcode.toNat
  let sub := field f.payload 0 1
  if op = 0x48 then decide (1 ≤ sub) && decide (sub ≤ 3)
  else if op = 0x40 then sub != 0x24 && sub != 0x25
  else if op = 0x58 then sub == 0x10 || sub == 0x11
  else op == 0x01 || (decide (0x10 ≤ op) && decide (op ≤ 0x17)) || op == 0x20

/-- Refuse or end a request with a status and no data. -/
def State.refuse (s : State) (k : Fin 12) (c : Cls) (req : Frame) (st : Status) : State :=
  let s := if st == St.fenced || st == St.denied then s.addJob req.job 3 1 else s
  s.complete k c req st (cplHasData req) [] 0 Config.memoryUnit

/-- R163: discard a frame that has no route; a request gets TIMEOUT. -/
def State.dropNoRoute (s : State) (i : InputId) (c : Cls) (f : Frame) : State :=
  let s := s.noRoute i f.dest c
  if f.isCpl then s else s.refuse (inputCluster i) c f St.timeout

/-- A request of an internal originator enters the switch core (R567): the local queue, the egress port, or no route. -/
def State.injectReq (s : State) (k : Fin 12) (c : Cls) (f : Frame) : State :=
  if f.dest == s.swNum then s.enqueue (injectIn k) .home none c f
  else
    match s.routeOut f.dest c with
    | some p => s.toPort p none c f
    | none => s.dropNoRoute (injectIn k) c f

/-! Tags of CF-480 originators (R139 to R141). -/

/-- The lowest tag that a unit does not hold open toward a switch. -/
def State.freeTag (s : State) (unit : BitVec 10) : Option (BitVec 9) :=
  let used := (s.mort.tags.filter (fun t => t.unit == unit)).map (·.tag.toNat)
  ((List.range 512).find? (fun n => !used.contains n)).map (BitVec.ofNat 9)

/-- Put TAG and SEQ into a header. -/
def withTagSeq (hdr : BitVec 256) (tag : BitVec 9) (seq : Word) : BitVec 256 :=
  (hdr &&& ~~~((0x1FF : BitVec 256) <<< 64) &&& ~~~((0xFFFFFFFF : BitVec 256) <<< 160))
    ||| (tag.setWidth 256 <<< 64) ||| (seq.setWidth 256 <<< 160)

/-- Send a request of a unit under a free tag, or let it wait for one (R140). -/
def State.originate (s : State) (unit : BitVec 10) (k : Fin 12) (c : Cls) (hdr : BitVec 256) (payload : Bytes)
    (why : Purpose) : State :=
  match s.freeTag unit with
  | none => s.withMort { s.mort with tagQueue := s.mort.tagQueue ++ [⟨unit, k, hdr, payload, c, why⟩] }
  | some tag =>
    let n := s.mort.nextSeq
    let f := Frame.sealed (withTagSeq hdr tag (BitVec.ofNat 32 n)) payload
    let t : Tag := { unit := unit, tag := tag, addr := f.addr, seq := f.seq, job := f.job, ak := f.ak, opcode := f.opcode,
                     dest := f.dest, born := s.bell.bounds, purpose := why }
    (s.withMort { s.mort with tags := s.mort.tags ++ [t], nextSeq := n + 1 }).injectReq k c f

/-- Send the first waiting request of a unit that has a free tag again. -/
def State.retryTags (s : State) (unit : BitVec 10) : State :=
  match s.mort.tagQueue.find? (fun w => w.unit == unit) with
  | none => s
  | some w =>
    if (s.freeTag unit).isNone then s
    else
      (s.withMort { s.mort with tagQueue := s.mort.tagQueue.erase w }).originate w.unit w.cluster w.cls w.hdr w.payload
        w.purpose

/-- Close a tag: its status and data go to its unit (R141). -/
def State.closeTag (s : State) (t : Tag) (st : Status) (flags : BitVec 8) (data : Bytes) : State :=
  (s.withMort { s.mort with tags := s.mort.tags.erase t,
                            done := s.mort.done ++ [⟨t.purpose, st, flags, data⟩] }).retryTags t.unit

/-- Take up the closed tag of a purpose. -/
def State.takeDone (s : State) (p : Purpose) : Option (TagDone × State) :=
  match s.mort.done.find? (fun d => d.purpose == p) with
  | none => none
  | some d => some (d, s.withMort { s.mort with done := s.mort.done.erase d })

/-! Tables (R143 to R146), read from the active bank. -/

def State.jobEntry (s : State) (j : Nat) : BitVec 64 := (if s.mort.mortBank then s.mort.job1 else s.mort.job0).get 0 j
def State.jatTable (s : State) : Tab (BitVec 128) := if s.mort.mortBank then s.mort.jat1 else s.mort.jat0
def State.admission (s : State) (p slot : Nat) : BitVec 16 :=
  (if s.mort.mortBank then s.mort.adm1 else s.mort.adm0).get 0 (16 * p + slot)
def State.drawerTable (s : State) : Tab (BitVec 128) := if s.mort.drawerBank then s.mort.drw1 else s.mort.drw0
def State.drawer (s : State) (d : Nat) : BitVec 128 := s.drawerTable.get 0 d

/-- Job table entry fields (R144). -/
def jobEnable (e : BitVec 64) : Bool := bit e 2
def jobPartition (e : BitVec 64) : Nat := bits e.toNat 13 8

/-- Job address table entry fields (R145). -/
def jatSize (e : BitVec 128) : Nat := bits e.toNat 20 3 * 2 ^ 21
def jatBase (e : BitVec 128) : Nat := bits e.toNat 63 21 * 2 ^ 21
def jatDrawer (e : BitVec 128) : Nat := bits e.toNat 103 88
def jatPartition (e : BitVec 128) : Nat := bits e.toNat 109 104
/-- Rights as a mask: 1 read, 2 write, 4 atomic, 8 coherent, 16 launch. -/
def jatRights (e : BitVec 128) : Nat := bits e.toNat 82 78

/-- Drawer table entry fields (R146). -/
def drwState (e : BitVec 128) : Nat := bits e.toNat 93 92
def drwJob (e : BitVec 128) : Nat := bits e.toNat 105 94
def drwPartition (e : BitVec 128) : Nat := bits e.toNat 111 106
def drwShared (e : BitVec 128) : Bool := bit e 91
def drwSize (e : BitVec 128) : Nat := bits e.toNat 81 64 * 2 ^ 21
def drwBase (e : BitVec 128) : Nat := bits e.toNat 47 21 * 2 ^ 21
def drwKeyGen (e : BitVec 128) : Nat := bits e.toNat 127 112

/-- R143: the admission slot of a job on a port, if it is admitted there. -/
def State.admitSlot (s : State) (p : Port) (j : BitVec 12) : Option Nat :=
  (List.range 16).find? (fun n =>
    let e := s.admission p.val n
    bit e 15 && e.extractLsb' 0 12 == j)

/-- Entries of a job's job address table that are not empty, lowest index first. -/
def State.jatOf (s : State) (j : Nat) : List (BitVec 128) :=
  (s.jatTable.filter (fun p => 64 * j ≤ p.1 && p.1 < 64 * j + 64 && jatSize p.2 != 0)).map (·.2)

/-- The outcome of the mortise check: the drawer and the local offset, or a refusal status. -/
inductive Verdict where
  | pass (drawer : DrawerId) (offset : Nat) (shared : Bool)
  | refuse (st : BitVec 8)
  deriving DecidableEq, Repr

/-- Steps 5 to 8 of R147 on a mapping entry and its drawer. -/
def State.mortiseTail (s : State) (j : BitVec 12) (e : BitVec 128) (offset within : Nat) (ext : Nat) : Verdict :=
  let dn := jatDrawer e
  let d := s.drawer dn
  if jatPartition e != drwPartition d || s.isFenced (drwPartition d) then .refuse St.fenced
  else if drwState d == 2 then .refuse St.fenced
  else if !(drwState d == 1 && drwJob d == j.toNat) then .refuse St.denied
  else if within + ext > drwSize d then .refuse St.denied
  else if h : dn < 65536 then .pass ⟨dn, h⟩ offset (drwShared d)
  else .refuse St.denied

/-- R147, steps 1 to 8. `part` is the partition of the ingress port, none for an injection input; `rights` the mask of
R132. -/
def State.mortise (s : State) (part : Option Nat) (j : BitVec 12) (ak : Bool) (addr : Dword) (ext rights : Nat) : Verdict :=
  let je := s.jobEntry j.toNat
  let portFenced := match part with
    | some p => s.isFenced p
    | none => false
  if portFenced || s.isFenced (jobPartition je) then .refuse St.fenced
  else if !jobEnable je then .refuse St.denied
  else if !ak then
    let a := addr.toNat
    match (s.jatOf j.toNat).find? (fun e => jatBase e ≤ a && a + ext ≤ jatBase e + jatSize e) with
    | none => .refuse St.denied
    | some e =>
      let d := s.drawer (jatDrawer e)
      let need := if drwShared d then rights ||| 8 else rights
      if jatRights e &&& need != need then .refuse St.denied
      else s.mortiseTail j e (drwBase d + (a - jatBase e)) (a - jatBase e) ext
  else if addr.extractLsb' 60 4 != 0 || addr.extractLsb' 48 12 != s.swNum then .refuse St.denied
  else
    let o := (addr.extractLsb' 0 48).toNat
    match s.drawerTable.find? (fun p => (drwState p.2 == 1 || drwState p.2 == 2) && drwBase p.2 ≤ o
        && o < drwBase p.2 + drwSize p.2) with
    | none => .refuse St.denied
    | some (dn, d) =>
      match (s.jatOf j.toNat).find? (fun e => jatDrawer e == dn && o + ext ≤ drwBase d + jatSize e) with
      | none => .refuse St.denied
      | some e =>
        let need := if drwShared d then rights ||| 8 else rights
        if jatRights e &&& need != need then .refuse St.denied
        else s.mortiseTail j e o (o - drwBase d) ext

/-- Steps 1 and 2 of R147 alone, for frames that name no memory. -/
def State.mortise12 (s : State) (part : Option Nat) (j : BitVec 12) : Option Status :=
  let je := s.jobEntry j.toNat
  let portFenced := match part with
    | some p => s.isFenced p
    | none => false
  if portFenced || s.isFenced (jobPartition je) then some St.fenced
  else if !jobEnable je then some St.denied
  else none

/-- Count and report a refusal of the mortise check (R147, R157). -/
def State.countRefusal (s : State) (f : Frame) (st : Status) : State :=
  if st == St.fenced then (s.bump Reg.mortFenced).raiseMort 4 f st
  else (s.bump Reg.mortDenied).raiseMort 3 f st

/-- Drawers of the active bank in a state (R156). -/
def State.drawersIn (s : State) (st : Nat) : Nat := (s.drawerTable.filter (fun p => drwState p.2 == st)).length

end Sys2Proof.Machine
end

