-- ==== Sys2Proof/Machine/ResetOps.lean ====
section
/-!
DEFINITION. Resets of the main domain (17 R525 to R529): what each kind keeps, and where the boot begins.
-/
namespace Sys2Proof.Machine

/-- Slots in a millisecond and in a microsecond (R35). -/
def slotsPerMs : Nat := 125000
def slotsPerUs : Nat := 125

/-- Bell logic after a reset of the main domain: the count runs on, everything else starts again (R35, R44). -/
def Bell.restart (b : Bell) : Bell := { Bell.reset with now := b.now, ticks := b.ticks, bounds := b.bounds, refPresent := b.refPresent }

/-- Registers that a reset of the main domain keeps: RESET_CAUSE (R538) and the module's (R502, R564); a warm reset keeps the
identity key (R527). -/
def keptReg (warm : Bool) (off : Nat) : Bool :=
  off == Reg.resetCause || decide (0x1500000 ≤ off) || (warm && decide (Reg.secIdentityHash 0 ≤ off) && decide (off < Reg.secIdentityHash 16))

/-- A host port after a reset: a warm reset keeps its link and its function, a cold one resets both (R527). -/
def HostSide.restart (x : HostSide) (warm : Bool) : HostSide :=
  if warm then { HostSide.reset with dlUp := x.dlUp, perst := x.perst, d3hot := x.d3hot, width := x.width, rate := x.rate }
  else HostSide.reset

/-- Enter a boot state (R529). -/
def State.enterBoot (s : State) (b : BootSt) : State :=
  let s := s.withBoot { s.boot with state := b, enteredAt := s.bell.ticks, enteredBound := s.bell.bounds }
  s.wr64 Reg.bootStampLo s.now

/-- Reset the main domain and enter a boot state. The module and the management island run on (R527). -/
def State.resetMain (s : State) (kind : ResetKind) (next : BootSt) (cause : Word) (force : Bool) : State :=
  let warm := kind == .warm
  let b : Boot := { Boot.reset with auxGood := s.boot.auxGood, pwrGood := s.boot.pwrGood, lossSeen := s.boot.lossSeen,
                                    held := s.boot.held, resetAt := s.bell.ticks, force := force }
  let kept : State := { State.reset with
    regs := s.regs.filter (fun r => keptReg warm r.1)
    bell := s.bell.restart
    hostA := s.hostA.restart warm
    hostB := s.hostB.restart warm
    boot := b
    mod := if warm then s.mod else { s.mod with energy := 0 }
    free := s.free
    out := s.out
    pending := s.pending }
  (kept.withTest { kept.test with jtag := s.test.jtag }).wr Reg.resetCause cause |>.enterBoot next

/-- Ask for a reset 1 us from now; triggers that coincide make one reset of the strongest kind (R528). -/
def State.askReset (s : State) (kind : ResetKind) (cause : Word) (force : Bool) : State :=
  let r := match s.boot.pendReset with
    | none => ⟨kind, cause, force, s.bell.ticks⟩
    | some p => { p with kind := if p.kind == .cold then .cold else kind, cause := p.cause ||| cause, force := p.force || force }
  s.withBoot { s.boot with pendReset := some r }

/-- Perform a reset whose time has come (R528). RESET_CAUSE also tells of a shutdown before it (R538). -/
def State.resetDue (s : State) : State :=
  match s.boot.pendReset with
  | none => s
  | some r =>
    if s.bell.ticks < r.at_ + slotsPerUs then s
    else s.resetMain r.kind .romStart (r.cause ||| (if s.boot.shutDown then 0x40 else 0)) r.force

end Sys2Proof.Machine
end

