-- ==== Sys2Proof/Machine/BellOps.lean ====
section
/-!
DEFINITION. The bell's shared operations: the frame of R39, lock changes (R44), election (R47, R48), announcements
(R75 to R79), timetable entries and what fires when (R59 to R62), the shaper's tick (R177).
-/
namespace Sys2Proof.Machine

/-! The bell frame (R39). -/

/-- The fields of a bell frame. -/
structure BellFrame where
  backupPrio : BitVec 8
  backupSw : BitVec 12
  masterPrio : BitVec 8
  masterSw : BitVec 12
  hops : BitVec 8
  health : BitVec 16
  soTag : Word
  soLenM1 : BitVec 16
  soPeriod : BitVec 16
  soTerm : BitVec 40
  src : BitVec 2
  soCommit : Bool
  soValid : Bool
  fmtGen : BitVec 2
  lenM1 : BitVec 16
  period : BitVec 16
  term : BitVec 40
  deriving DecidableEq, Repr

/-- Content bits [255:0] of a frame. -/
def bellBody (f : BellFrame) : BitVec 256 :=
  (0 : BitVec 8) ++ f.backupPrio ++ f.backupSw ++ f.masterPrio ++ f.masterSw ++ f.hops ++ f.health ++ f.soTag ++ f.soLenM1
    ++ f.soPeriod ++ f.soTerm ++ (0 : BitVec 2) ++ f.src ++ BitVec.ofBool f.soCommit ++ BitVec.ofBool f.soValid ++ f.fmtGen
    ++ f.lenM1 ++ f.period ++ f.term

/-- CRC16 of content bytes 0 to 31, first byte least significant (R39). -/
def bellCrc (body : BitVec 256) : BitVec 16 := crc16 (leBytes 32 body.toNat)

/-- The 34 content bytes of a frame. -/
def bellContent (f : BellFrame) : BitVec 272 := bellCrc (bellBody f) ++ bellBody f

/-- The fields that content bytes spell. -/
def bellFields (c : BitVec 272) : BellFrame where
  backupPrio := c.extractLsb' 240 8
  backupSw := c.extractLsb' 228 12
  masterPrio := c.extractLsb' 220 8
  masterSw := c.extractLsb' 208 12
  hops := c.extractLsb' 200 8
  health := c.extractLsb' 184 16
  soTag := c.extractLsb' 152 32
  soLenM1 := c.extractLsb' 136 16
  soPeriod := c.extractLsb' 120 16
  soTerm := c.extractLsb' 80 40
  src := c.extractLsb' 76 2
  soCommit := bit c 75
  soValid := bit c 74
  fmtGen := c.extractLsb' 72 2
  lenM1 := c.extractLsb' 56 16
  period := c.extractLsb' 40 16
  term := c.extractLsb' 0 40

/-- A frame is good: its CRC16 verifies, its PERIOD is below its own term length (R36), its FMT_GEN is 1 (R13). -/
def bellGood (c : BitVec 272) : Bool :=
  c.extractLsb' 256 16 == bellCrc (c.extractLsb' 0 256) && decide ((bellFields c).period ≤ (bellFields c).lenM1)
    && (bellFields c).fmtGen == 1

/-! Who is who. -/

/-- From CONFIGURE on, up to RUN (R565). -/
def State.configured (s : State) : Bool := decide (0x09 ≤ s.boot.state.code) && decide (s.boot.state.code ≤ 0x0F)

/-- BELL_CTRL.PRIORITY. -/
def State.prio (s : State) : BitVec 8 := (s.rd Reg.bellCtrl).extractLsb' 8 8

/-- R47, R27, R565: the switch takes part in election. -/
def State.candidate (s : State) : Bool :=
  s.configured && (!s.isFabric || (bit (s.rd Reg.bellCtrl) 0 && s.prio != 0xFF))

/-- R47: master a (priority, number) is better than b. -/
def betterMaster (ap : BitVec 8) (an : BitVec 12) (bp : BitVec 8) (bn : BitVec 12) : Bool :=
  ap < bp || (ap == bp && an < bn)

/-- Enabled time-link ports, primary first (R51). -/
def State.timePorts (s : State) : List Port :=
  let v := s.rd Reg.bellTimeLink
  let one := fun (en : Bool) (n : Nat) => if en then (portOf n).toList else []
  one (bit v 16) (bits v.toNat 7 0) ++ one (bit v 17) (bits v.toNat 15 8)

/-- A time link is enabled. -/
def State.hasTimeLink (s : State) : Bool := bit (s.rd Reg.bellTimeLink) 16 || bit (s.rd Reg.bellTimeLink) 17

/-- R97: a time link runs on a G-role port in ACTIVE at protocol 1.0. -/
def State.timeLinkUp (s : State) (p : Port) : Bool :=
  s.role p == 3 && (s.link p.link).train == .active && !(s.link p.link).looped && !(s.link p.link).v09

/-- What a port remembers of its timestamp exchange. -/
def State.timeLink (s : State) (p : Port) : TimeLink := s.bell.timeLinks.get TimeLink.reset p.val

def State.setTimeLink (s : State) (p : Port) (t : TimeLink) : State :=
  s.withBell { s.bell with timeLinks := s.bell.timeLinks.put TimeLink.reset p.val t }

/-- R51: the primary port unless it is down or its peer has said that it is not LOCKED; then the secondary. -/
def State.timePort (s : State) : Option Port :=
  s.timePorts.find? (fun p =>
    let t := s.timeLink p
    s.timeLinkUp p && (!t.received || t.peerState.extractLsb' 0 2 == 2))

/-! Lock states (R44). -/

/-- Change the lock state, with LOCK_LOST as R87 gives it; HOLDOVER starts its count, UNLOCKED forgets the last frame. -/
def State.setLock (s : State) (l : Lock) : State :=
  let old := s.bell.lock
  let b := { s.bell with lock := l, fineRun := 0 }
  let b := if l == .holdover then { b with holdAt := b.bounds } else b
  let b := if l == .unlocked then { b with lastGood := none, goodRun := 0, parentKnown := false } else b
  let s := s.withBell b
  if (old == .locked && l != .locked) || (old == .coarse && l == .unlocked) then s.raise Reg.bellErr 1 else s

/-- Become master (R44, R48, R50): LOCKED, and the watch of R43 starts. -/
def State.becomeMaster (s : State) : State :=
  (s.withBell { s.bell with master := true, election := false, takeMaster := false, masterAt := s.bell.bounds,
                            returnAt := s.bell.bounds, lastReturn := none, backup := false, childNack := false }).setLock .locked

/-- Win election (R48): the count restarts at (0, 0, 0) at the next boundary when election was entered from UNLOCKED and
no time link is enabled (R36, R54). -/
def State.winElection (s : State) : State :=
  let restart := s.bell.before == .unlocked && !s.hasTimeLink
  let s := if restart then s.withBell { s.bell with jump := some ⟨0, 0, s.bell.len⟩ } else s
  s.becomeMaster

/-- BELL_READY as R45 wants it driven. -/
def State.readyWanted (s : State) : Bool :=
  s.configured && (s.bell.lock == .locked || s.bell.lock == .holdover || s.bell.election)

/-- R44: a switch in LOCKED whose enabled time links are all down goes to HOLDOVER. -/
def State.timeLinkCheck (s : State) : State :=
  if s.bell.lock == .locked && s.hasTimeLink && !(s.timePorts.any s.timeLinkUp) then s.setLock .holdover else s

/-! Announcements (R75 to R79). -/

/-- The master of the top ring, or a single-card CF-480 (R75, R76). -/
def State.topMaster (s : State) : Bool := s.bell.master && !s.hasTimeLink

/-- The armed bank matches an announcement (R40, R80). -/
def State.armedFor (s : State) (a : Announce) : Bool := s.tt.armed == some (a.tag, a.len)

/-- The armed bank takes over at the point: it matches the announcement, and there is bell lock (R80, R83). -/
def State.takesOver (s : State) (a : Announce) : Bool :=
  (s.bell.lock == .locked || s.bell.lock == .holdover) && s.armedFor a

/-- Disarm (R78). -/
def State.disarm (s : State) : State := s.withTt { s.tt with armed := none }

/-- Withdraw the master's own announcement (R78): SO_ABORTED, and it disarms. -/
def State.withdrawAnn (s : State) : State :=
  (s.withTt { s.tt with ann := none, armed := none }).raise Reg.ttErr 0

/-- Follow an announcement received or copied; one that is withdrawn before its commit point disarms, and one past it goes
on to its point (R75, R78). -/
def State.followAnn (s : State) (a : Option Announce) : State :=
  match a with
  | some x => s.withTt { s.tt with ann := some x }
  | none => if s.tt.ann.any (fun x => !x.committed) then s.withTt { s.tt with ann := none, armed := none } else s

/-- The announcement fields of a frame. -/
def annOf (f : BellFrame) : Option Announce :=
  if f.soValid then some ⟨f.soTag, f.soLenM1.toNat + 1, f.soTerm, f.soPeriod, f.soCommit⟩ else none

/-- A point has come: the count is not earlier than its period. -/
def State.reached (s : State) (term : BitVec 40) (period : BitVec 16) : Bool :=
  !(s.bell.now.earlier (BellTime.at0 term period))

/-- Periods from now to a point, at the term length in force; 0 when it has come. -/
def State.periodsTo (s : State) (term : BitVec 40) (period : BitVec 16) : Nat :=
  periodsOf s.bell.len term period - periodsOf s.bell.len s.bell.now.term s.bell.now.period

/-- R76: the effective switch-over point of a TT_ARM with a term length and a requested point. -/
def State.effectivePoint (s : State) (newLen : Nat) (term : BitVec 40) (period : BitVec 16) : BitVec 40 × BitVec 16 :=
  let cur := s.bell.len
  let whole := fun (p : BitVec 40 × BitVec 16) =>
    if newLen != cur && p.2 != 0 then (p.1 + 1, (0 : BitVec 16)) else p
  let point := whole (term, period)
  let earliest := addPeriods cur s.bell.now.term s.bell.now.period 128
  if (BellTime.at0 point.1 point.2).earlier (BellTime.at0 earliest.1 earliest.2) then whole earliest else point

/-- R82: the point of a BANK_ARM, at least 4 periods ahead. -/
def State.armPoint (s : State) (term : BitVec 40) (period : BitVec 16) : BitVec 40 × BitVec 16 :=
  let earliest := addPeriods s.bell.len s.bell.now.term s.bell.now.period 4
  if (BellTime.at0 term period).earlier (BellTime.at0 earliest.1 earliest.2) then earliest else (term, period)

/-! Members' part of a frame (R40, R49). -/

/-- HEALTH bits that a forwarding member sets for its own conditions (R40). -/
def State.ownHealth (s : State) (soValid : Bool) : BitVec 16 :=
  let nack := soValid && (!(s.bell.lock == .locked || s.bell.lock == .holdover)
    || (match s.tt.ann with
        | some a => !s.armedFor a
        | none => true))
  BitVec.ofNat 16 (b2n (s.bell.crcThis || s.bell.crcPrev || s.bell.crcNext) + 2 * b2n (s.bell.lock != .locked)
    + 4 * b2n (s.bell.lock == .holdover) + 16 * b2n nack + 32 * b2n s.bell.election)

/-- BACKUP fields as a member passes them on (R49). -/
def State.backupFields (s : State) (p : BitVec 8) (n : BitVec 12) : BitVec 8 × BitVec 12 :=
  if s.candidate then
    if n == s.swNum && p != 0xFF then (s.prio, s.swNum)
    else if betterMaster s.prio s.swNum p n then (s.prio, s.swNum) else (p, n)
  else if n == s.swNum && p != 0xFF then (0xFF, 0) else (p, n)

/-- The frame that a member forwards for a frame it received (R38, R40, R49). -/
def State.forwardFrame (s : State) (f : BellFrame) (health : BitVec 16) : BellFrame :=
  let b := s.backupFields f.backupPrio f.backupSw
  { f with hops := f.hops + 1, health := health ||| s.ownHealth f.soValid, backupPrio := b.1, backupSw := b.2 }

/-- BELL_SRC of the master's frames (R39, R54, R55). -/
def State.bellSrc (s : State) : BitVec 2 :=
  let mode := bits (s.rd Reg.bellCtrl).toNat 17 16
  if s.bell.lock == .holdover then 3
  else if s.hasTimeLink then 2
  else if s.bell.refPresent && mode != 2 then 1 else 0

/-- The frame that a master or a candidate sends for the period now starting (R38 to R40, R48, R49). -/
def State.ownFrame (s : State) : BellFrame :=
  let back := match s.bell.lastReturn with
    | some c => ((bellFields c).backupPrio, (bellFields c).backupSw)
    | none => (0xFF, 0)
  let refAbsent := s.bell.master && bits (s.rd Reg.bellCtrl).toNat 17 16 == 1 && !s.bell.refPresent
  let locked := s.bell.lock == .locked || s.bell.lock == .holdover
  let ann := if s.bell.master && locked then s.tt.ann else none
  { backupPrio := back.1, backupSw := back.2, masterPrio := s.prio, masterSw := s.swNum, hops := 0,
    health := BitVec.ofNat 16 (8 * b2n refAbsent + 32 * b2n s.bell.election),
    soTag := (ann.map (·.tag)).getD 0, soLenM1 := BitVec.ofNat 16 ((ann.map (·.len)).getD 1 - 1),
    soPeriod := (ann.map (·.period)).getD 0, soTerm := (ann.map (·.term)).getD 0, src := s.bellSrc,
    soCommit := (ann.map (·.committed)).getD false, soValid := ann.isSome, fmtGen := 1,
    lenM1 := BitVec.ofNat 16 (s.bell.len - 1), period := s.bell.now.period, term := s.bell.now.term }

/-! Timetable entries (R59 to R62). -/

def ttAction (e : BitVec 128) : Nat := bits e.toNat 7 4
def ttFirst (e : BitVec 128) : Nat := bits e.toNat 15 8
def ttLast (e : BitVec 128) : Nat := bits e.toNat 23 16
def ttMod (e : BitVec 128) : Nat := bits e.toNat 39 24 + 1
def ttPhase (e : BitVec 128) : Nat := bits e.toNat 55 40
def ttClass (e : BitVec 128) : Nat := bits e.toNat 66 64
def ttGateMask (e : BitVec 128) : BitVec 8 := e.extractLsb' 68 8
/-- STACK_MASK of a port entry, and of a bench or network unit entry. -/
def ttStackMask (kind : Nat) (e : BitVec 128) : Nat := if kind = 0 then bits e.toNat 83 76 else bits e.toNat 119 112
/-- DESC_OFFSET of a bench or network unit entry as a local offset (R62). -/
def ttDescOffset (e : BitVec 128) : Nat := bits e.toNat 105 64 * 64

/-- R60: an entry that holds something and never fires. -/
def ttInert (kind : Nat) (e : BitVec 128) : Bool :=
  let ranged := ttAction e == 4 || (kind == 0 && (ttAction e == 1 || ttAction e == 2))
  ttAction e != 0 && (decide (ttMod e ≤ ttPhase e) || (ranged && decide (ttLast e < ttFirst e)))

/-- R60: an entry fires in period p. -/
def ttFires (kind : Nat) (e : BitVec 128) (p : Nat) : Bool :=
  ttAction e != 0 && !ttInert kind e && p % ttMod e == ttPhase e

def State.activeTt (s : State) : Tab (BitVec 128) := if s.tt.active then s.tt.bank1 else s.tt.bank0
def State.inactiveTt (s : State) : Tab (BitVec 128) := if s.tt.active then s.tt.bank0 else s.tt.bank1

/-- Entries of one table of the active bank with their indexes, lowest first. -/
def ttTable (t : Tab (BitVec 128)) (kind num : Nat) : List (Nat × BitVec 128) :=
  (t.filter (fun p => ttKey kind num 0 ≤ p.1 && p.1 < ttKey kind num 0 + 8192)).map
    (fun p => (p.1 - ttKey kind num 0, p.2))

/-- Entries of a table that fire in the present period and act at the present slot (R46, R60). -/
def State.firingNow (s : State) (kind num action : Nat) : List (Nat × BitVec 128) :=
  if s.runsSchedule then
    (ttTable s.activeTt kind num).filter (fun p => ttAction p.2 == action
      && ttFires kind p.2 s.bell.now.period.toNat && ttFirst p.2 == s.bell.now.slot.toNat)
  else []

/-- Entries of a table whose range covers the present slot (R60). -/
def State.covering (s : State) (kind num action : Nat) : List (Nat × BitVec 128) :=
  if s.runsSchedule then
    (ttTable s.activeTt kind num).filter (fun p => ttAction p.2 == action
      && ttFires kind p.2 s.bell.now.period.toNat && ttFirst p.2 ≤ s.bell.now.slot.toNat
      && s.bell.now.slot.toNat ≤ ttLast p.2)
  else []

/-- R67: the SEND entry that owns the present slot of a port. -/
def State.sendWindow (s : State) (p : Port) : Option (Nat × BitVec 128) :=
  if s.runsSchedule then
    (ttTable s.activeTt 0 p.val).find? (fun q => (ttAction q.2 == 1 || ttAction q.2 == 2)
      && ttFires 0 q.2 s.bell.now.period.toNat && ttFirst q.2 ≤ s.bell.now.slot.toNat
      && s.bell.now.slot.toNat ≤ ttLast q.2)
  else none

/-- Gate state of a port (R69). -/
def State.gate (s : State) (p : Port) : BitVec 8 := s.tt.gates.get 0xFF p.val

/-- A port or unit is in recess (R70). Kind as TT_OVERRUN_UNIT: 0 port, 1 bench, 2 network unit. -/
def State.inRecess (s : State) (kind num : Nat) : Bool := !(s.covering kind num 4).isEmpty

/-- Recess entries of the active bank, with kind and number of their table. -/
def State.recessEntries (t : Tab (BitVec 128)) : List (Nat × Nat × BitVec 128) :=
  (t.filter (fun p => ttAction p.2 == 4)).map (fun p => (p.1 / 8192 / 256, p.1 / 8192 % 256, p.2))

/-- A stack is in recess: a firing RECESS entry of any table names it (R70). -/
def State.stackInRecess (s : State) (k : StackId) : Bool :=
  s.runsSchedule && (State.recessEntries s.activeTt).any (fun (kind, _, e) =>
    ttFires kind e s.bell.now.period.toNat && ttFirst e ≤ s.bell.now.slot.toNat && s.bell.now.slot.toNat ≤ ttLast e
      && bits (ttStackMask kind e) k.val k.val == 1)

/-- Longest recess run in slots that a bank gives a unit within one term; 0 for none (R71, R519). `kind` 3 is a stack. -/
def recessRun (t : Tab (BitVec 128)) (len kind num : Nat) : Nat :=
  ((State.recessEntries t).filter (fun (k, n, e) => !ttInert k e && decide (ttPhase e < len)
      && (if kind = 3 then bits (ttStackMask k e) num num == 1 else k == kind && n == num))).foldl
    (fun m (_, _, e) => max m (ttLast e - ttFirst e + 1)) 0

/-! Shapers (R176 to R178). -/

/-- RATE, BURST and RESET_FULL of a shaper profile; profile 0 is unshaped (R176, R183). -/
def State.shapeRate (s : State) (i : Nat) : Nat := if i = 0 then 0 else bits (s.rd (Reg.shapeRate i)).toNat 15 0
def State.shapeBurst (s : State) (i : Nat) : Nat := max 1 (min 4096 (bits (s.rd (Reg.shapeBurst i)).toNat 12 0))
def State.shapeFull (s : State) (i : Nat) : Bool := bit (s.rd (Reg.shapeRate i)) 31

/-- Profile of the queues toward a port in a class. -/
def State.shapeSel (s : State) (p : Nat) (c : Nat) : Nat :=
  if c < 4 then 0 else bits (s.rd (Reg.swShapeSel p c)).toNat 7 0

/-- A maintenance activity holds a port in recess (R70, R177). -/
def State.maintHolds (s : State) (p : Port) : Bool :=
  s.inRecess 0 p.val && s.fault.running.any (fun a => a.kind == 1 && a.unit == p.val && (a.cls == 7 || a.cls == 8))

/-- Keys of the best-effort queues that hold a frame, each once, with port and class. -/
def State.beQueues (s : State) : List (Nat × Port × Cls) :=
  (s.sw.queue.filterMap (fun e => match e.dest with
    | .port p => if 4 ≤ e.cls.val then some (vqKey e.input.val p.val e.cls.val, p, e.cls) else none
    | .home => none)).eraseDups

/-- R177: a queue is active. -/
def State.queueActive (s : State) (p : Port) (c : Cls) : Bool :=
  bit (s.gate p) c.val && s.portActive p && !s.maintHolds p

/-- The slot boundary of one queue: applied writes set its tokens, one that was active in the slot that ends gains RATE up to
BURST, an inactive one holds 0 (R177, R178). -/
def State.shaperQueue (s : State) (acc : Tab Nat) (q : Nat × Port × Cls) : Tab Nat :=
  let (key, p, c) := q
  let sel := s.shapeSel p.val c.val
  if s.queueActive p c then
    let set := s.sw.burstPend.any (fun i => i.val == sel) || s.sw.selPend.contains (p, c)
    let burst := 256 * s.shapeBurst sel
    acc.put 0 key (if set then (if s.shapeFull sel then burst else 0) else min burst (s.sw.tokens.get 0 key + s.shapeRate sel))
  else acc

/-- The slot boundary of every shaper. -/
def State.shaperTick (s : State) : State :=
  s.withSw { s.sw with tokens := s.beQueues.foldl s.shaperQueue [], burstPend := [], selPend := [] }

/-! SEND entries at a slot (R60, R67). -/

/-- SEND entries of the active bank that cover the present slot, with port and index, lowest first. -/
def State.sendNow (s : State) : List (Nat × Nat × BitVec 128) :=
  if s.runsSchedule then
    (s.activeTt.filter (fun p => p.1 < ttKey 1 0 0 && (ttAction p.2 == 1 || ttAction p.2 == 2)
      && ttFires 0 p.2 s.bell.now.period.toNat && ttFirst p.2 ≤ s.bell.now.slot.toNat
      && s.bell.now.slot.toNat ≤ ttLast p.2)).map (fun p => (p.1 / 8192, p.1 % 8192, p.2))
  else []

/-- Two neighbours of a list by port share a port. -/
def samePort : List (Nat × Nat × BitVec 128) → Bool
  | a :: b :: t => a.1 == b.1 || samePort (b :: t)
  | _ => false

/-- What the SEND entries bring at a slot: OVERLAP once per bank (R67), and their firings in the trace (R550). -/
def State.sendSlot (s : State) : State :=
  let es := s.sendNow
  let seen := if s.tt.active then s.tt.overlap1 else s.tt.overlap0
  let s := if samePort es && !seen then
      (s.withTt { s.tt with overlap0 := s.tt.overlap0 || !s.tt.active, overlap1 := s.tt.overlap1 || s.tt.active }).raise
        Reg.ttErr 4
    else s
  (es.filter (fun e => ttFirst e.2.2 == s.bell.now.slot.toNat)).foldl (fun s e =>
    s.traceEv 0 e.1 false (leBytes 4 e.2.1 ++ leBytes 4 (ttAction e.2.2) ++ leBytes 4 0)) s

end Sys2Proof.Machine
end

