-- ==== Sys2Proof/Machine/BellRows.lean ====
section
/-!
DEFINITION. The meanings of the bell's commands (02 R35 to R57) and of the timetable's own events (02 R69, R78, R80,
R81; 05 R81). Each acts when the condition its rule gives holds in the state, and otherwise changes nothing
(assumption log 4).
-/
namespace Sys2Proof.Machine

/-- The boundary of a period: the count as it advances, or a count taken under R36 (R35, R36). -/
def State.nextPeriod (s : State) : BellTime × Nat :=
  match s.bell.jump with
  | some j => (⟨j.term, j.period, 0⟩, j.len)
  | none =>
    let n := addPeriods s.bell.len s.bell.now.term s.bell.now.period 1
    (⟨n.1, n.2, 0⟩, s.bell.len)

/-- What the first slot of a period brings: the count, all gates open (R69), the period's CRC record (R40), and a backup
that takes over (R50). -/
def State.periodStart (s : State) : State :=
  let n := s.nextPeriod
  let s := s.withBell { s.bell with now := n.1, len := n.2, jump := none, ticks := s.bell.ticks + 1,
                                    bounds := s.bell.bounds + 1, crcPrev := s.bell.crcThis, crcThis := false,
                                    sentThis := false }
  let s := s.withTt { s.tt with gates := [] }
  if s.bell.takeMaster then s.becomeMaster else s

/-- Benches or network units (kind 1 or 2) outside IDLE in this slot: running, or in recess (R363, R429). -/
def State.busyUnits (s : State) (kind : Nat) (running : List Nat) : List Nat :=
  let inRec := if s.runsSchedule then ((State.recessEntries s.activeTt).filter (fun (k, n, _) => k == kind && s.inRecess kind n)).map
    (fun q => q.2.1) else []
  (running ++ inRec).eraseDups

/-- Count the slot in every bench and network unit outside IDLE. -/
def State.unitTick (s : State) : State :=
  let on := s.busyUnits 1 ((s.benches.filter (fun p => p.2.run.isSome)).map (·.1))
  let s := s.withBenches (on.foldl (fun (t : Tab Bench) b => t.modify Bench.reset b (fun x => { x with busy := x.busy + 1 })) s.benches)
  let on := s.busyUnits 2 ((s.net.units.filter (fun p => !p.2.works.isEmpty)).map (·.1))
  s.withNet { s.net with units := on.foldl (fun (t : Tab NetUnit) u =>
    t.modify NetUnit.reset u (fun x => { x with busy := x.busy + 1 })) s.net.units }

/-- One slot of PRBS31 of a port loop-back at depth 0 or 1 (R541): 1,024 bits a lane at 128 Gb/s; when the checker locks, and what it
and the flits of depth 1 show, is measured. -/
def State.prbsPort (s : State) : State :=
  let lb := s.test.lb
  if !lb.running || 2 ≤ lb.depth.toNat then s
  else
    let (v, s) := s.draw
    if !lb.locked then s.withTest { s.test with lb := { lb with locked := bit v 0 } }
    else
      let s := s.add64 Reg.testLbBitsLo 1024
      let lanes := 2 * 2 ^ (max 1 (bits (s.rd (Reg.portCfg lb.port.val)).toNat 9 8))
      let s := (List.range lanes).foldl (fun (s : State) i =>
        let (w, s) := s.draw
        s.addReg (Reg.testLbErr i) (w.toNat % 1025)) s
      if lb.depth == 0 then s
      else
        ((s.add64 (Reg.portFecCorrLo lb.port.val) (v.toNat % 4096)).addReg (Reg.portFecUncorr lb.port.val) (v.toNat / 4096 % 64)).addReg
          (Reg.portCrcErr lb.port.val) (v.toNat / 262144 % 64)

/-- The same of a host port, whose lane rate is the link's own (R543). -/
def State.prbsHost (s : State) : State :=
  let lb := s.test.hlb
  if !lb.running || 2 ≤ lb.depth.toNat then s
  else
    let (v, s) := s.draw
    if !lb.locked then s.withTest { s.test with hlb := { lb with locked := bit v 0 } }
    else
      let s := s.add64 Reg.testHlbBitsLo (v.toNat % 1025)
      (List.range 8).foldl (fun (s : State) i =>
        let (w, s) := s.draw
        s.addReg (Reg.testHlbErr i) (w.toNat % 1025)) s

/-- What every slot brings besides the count: units outside IDLE, test patterns and tokens of the slot that ends; then the
windows of the new one, resets. -/
def State.slotBefore (s : State) : State := s.unitTick.prbsPort.prbsHost.shaperTick
def State.slotAfter (s : State) : State := s.sendSlot.resetDue

/-- BELL_SLOT_ADVANCE (R35): one slot of 8 ns; the shapers gain their tokens (R177); a reset asked for 1 us ago happens (R528). -/
def execBellSlotAdvance (s : State) : Host.Outcome State Fault Refusal :=
  if !s.boot.auxGood then .next s
  else
    let s := s.slotBefore
    if s.bell.now.slot == 255 then .next s.periodStart.slotAfter
    else .next (s.withBell { s.bell with now := { s.bell.now with slot := s.bell.now.slot + 1 },
                                         ticks := s.bell.ticks + 1 }).slotAfter

/-- BELL_FRAME_SEND (R38): the master, or a candidate in election, sends one frame at the start of each period. -/
def execBellFrameSend (s : State) : Host.Outcome State Fault Refusal :=
  if (s.bell.master || s.bell.election) && !s.bell.sentThis && s.bell.now.slot == 0 then
    .next ((s.withBell { s.bell with sentThis := true }).emit (.bell (some (bellContent s.ownFrame))))
  else .next s

/-- Forward a frame with this member's updates, when the bypass is open (R38, R45). -/
def State.forwardBell (s : State) (f : BellFrame) (health : BitVec 16) : State :=
  if s.bell.ready then
    (s.withBell { s.bell with crcNext := false }).emit (.bell (some (bellContent (s.forwardFrame f health))))
  else s

/-- A frame with a bad CRC16 (R41). -/
def State.bellBad (s : State) : State :=
  let s := (s.withBell { s.bell with crcThis := true, goodRun := 0, ownRun := 0, missRun := 0 }).raise Reg.bellErr 0
  if s.bell.master || s.bell.election then s
  else
    match s.bell.lastGood with
    | some c =>
      s.forwardBell { bellFields c with term := s.bell.now.term, period := s.bell.now.period,
                                        lenM1 := BitVec.ofNat 16 (s.bell.len - 1) } 0
    | none =>
      if s.bell.ready then (s.withBell { s.bell with crcNext := true }).emit (.bell none) else s

/-- A good frame at a member (R36, R41, R44, R49, R75). -/
def State.bellMember (s : State) (c : BitVec 272) : State :=
  let f := bellFields c
  let run := s.bell.goodRun + 1
  let s := s.withBell { s.bell with goodRun := run, goodAt := s.bell.bounds, lastGood := some c, health := f.health,
                                    backup := f.backupSw == s.swNum && f.backupPrio != 0xFF }
  let s := (s.wr Reg.bellMaster ((0 : BitVec 8) ++ f.masterPrio ++ (0 : BitVec 4) ++ f.masterSw)).wr Reg.bellHops
    (f.hops.setWidth 32)
  let next := addPeriods (f.lenM1.toNat + 1) f.term f.period 1
  let take := s.withBell { s.bell with jump := some ⟨next.1, next.2, f.lenM1.toNat + 1⟩ }
  let s :=
    if s.bell.lock == .unlocked && 4 ≤ run then take.setLock .coarse
    else if s.bell.lock == .coarse && !(f.term == s.bell.now.term && f.period == s.bell.now.period) then take
    else s
  (s.followAnn (annOf f)).forwardBell f f.health

/-- An own frame that has returned (R43, R48, R78). -/
def State.bellOwn (s : State) (c : BitVec 272) : State :=
  let f := bellFields c
  if s.bell.election then
    let run := s.bell.ownRun + 1
    let s := (s.withBell { s.bell with ownRun := run, goodAt := s.bell.bounds, health := f.health }).wr Reg.bellHops
      (f.hops.setWidth 32)
    if 4 ≤ run then s.winElection else s
  else
    let s := s.withBell { s.bell with lastReturn := some c, returnAt := s.bell.bounds, goodAt := s.bell.bounds,
                                      health := f.health, childNack := bit f.health 4 }
    let s := (s.wr Reg.bellMaster ((0 : BitVec 8) ++ f.masterPrio ++ (0 : BitVec 4) ++ f.masterSw)).wr Reg.bellHops
      (f.hops.setWidth 32)
    match s.tt.ann with
    | some a => if s.topMaster && !a.committed && bit f.health 4 then s.withdrawAnn else s
    | none => s

/-- BELL_FRAME_RECEIVE (R41, R48, R49, R566). -/
def execBellFrameReceive (c : BitVec 272) (s : State) : Host.Outcome State Fault Refusal :=
  if !s.boot.auxGood then .next s
  else if !bellGood c then .next s.bellBad
  else
    let f := bellFields c
    let s := s.withBell { s.bell with tracked := true, missRun := 0 }
    let sending := s.bell.master || s.bell.election
    if sending && f.masterSw == s.swNum then .next (s.bellOwn c)
    else if sending && !betterMaster f.masterPrio f.masterSw s.prio s.swNum then .next (s.withBell { s.bell with ownRun := 0 })
    else if s.bell.election then
      .next ((s.withBell { s.bell with election := false, ownRun := 0 }).bellMember c)
    else if s.bell.master then
      let same := f.term == s.bell.now.term && f.period == s.bell.now.period
      let s := (s.withBell { s.bell with master := false, goodRun := 0 }).setLock (if same then .holdover else .unlocked)
      .next ((s.withTt { s.tt with ann := none }).bellMember c)
    else .next (s.bellMember c)

/-- MISSING_FRAME (R42, R44, R50). -/
def execMissingFrame (s : State) : Host.Outcome State Fault Refusal :=
  if !s.bell.tracked then .next s
  else
    let run := s.bell.missRun + 1
    let s := s.withBell { s.bell with missRun := run, goodRun := 0, ownRun := 0 }
    if s.bell.master || s.bell.election then .next s
    else
      let s := if s.bell.backup && s.candidate && (s.bell.lock == .locked || s.bell.lock == .holdover) then
          s.withBell { s.bell with takeMaster := true } else s
      if 2 ≤ run && s.bell.lock == .coarse then .next (s.setLock .unlocked)
      else if 2 ≤ run && s.bell.lock == .locked then .next (s.setLock .holdover)
      else .next s

/-- RING_OPEN (R43, R27). -/
def execRingOpen (s : State) : Host.Outcome State Fault Refusal :=
  if s.bell.master && s.isFabric && max (s.bell.masterAt + 6) s.bell.returnAt + 5 ≤ s.bell.bounds then
    .next ((s.withBell { s.bell with returnAt := s.bell.bounds }).raise Reg.bellErr 3)
  else .next s

/-- HOLDOVER_EXPIRY (R44). -/
def execHoldoverExpiry (s : State) : Host.Outcome State Fault Refusal :=
  if s.bell.lock == .holdover && s.bell.holdAt + 1000 ≤ s.bell.bounds then
    .next ((s.setLock .unlocked).raise Reg.bellErr 2)
  else .next s

/-- ELECTION_ENTRY (R48, R565). -/
def execElectionEntry (s : State) : Host.Outcome State Fault Refusal :=
  if s.candidate && !s.bell.master && !s.bell.election && (s.bell.lock == .unlocked || s.bell.lock == .holdover)
      && s.bell.goodAt + 16 ≤ s.bell.bounds then
    .next ((s.withBell { s.bell with election := true, before := s.bell.lock, electAt := s.bell.bounds,
                                     ownRun := 0 }).raise Reg.bellErr 4)
  else .next s

/-- SINGLE_CARD_SELF_MASTER (R27). -/
def execSingleCardSelfMaster (s : State) : Host.Outcome State Fault Refusal :=
  if !s.isFabric && s.bell.election && s.bell.ownRun == 0 && s.bell.electAt + 16 ≤ s.bell.bounds then .next s.winElection
  else .next s

/-- BELL_READY_CHANGE (R45): 1,024 ns after a tracked marker; with no tracked phase, at slot 128 of the own count. -/
def execBellReadyChange (s : State) : Host.Outcome State Fault Refusal :=
  if s.bell.ready != s.readyWanted && (s.bell.tracked || s.bell.now.slot == 128) then
    .next (s.withBell { s.bell with ready := s.readyWanted })
  else .next s

/-- TIMESTAMP_SEND (R51): a TIMESTAMP flit falls due; it leaves by the egress (R172 rank 3). -/
def execTimestampSend (p : Port) (s : State) : Host.Outcome State Fault Refusal :=
  let t := s.timeLink p
  let mine := s.timePort == some p || t.received
  if mine && s.timeLinkUp p && (!t.sent || t.lastSend + 16 ≤ s.bell.bounds) then
    let s := s.setTimeLink p { t with lastSend := s.bell.bounds }
    .next (s.setLink p.link { s.link p.link with tsDue := true })
  else .next s

/-- A time in units of 125 ps: a timestamp of R12 and a fraction of a slot in 1/64 (R51). -/
def timeUnits (len : Nat) (d : Dword) (sub : Nat) : Int :=
  let t := BellTime.ofStamp d
  (((periodsOf len t.term t.period * 256 + t.slot.toNat) * 64 + sub : Nat) : Int)

/-- The offset of R52: half the difference, an odd one rounded as the manual leaves open. -/
def timeOffset (t1 t2 t3 t4 : Int) : Int :=
  let d := (t2 - t1) - (t4 - t3)
  if d % 2 = 0 then d / 2 else if Config.offsetRoundsUp d then d / 2 + 1 else d / 2

/-- What an offset does to the lock state (R44, R52, R87). -/
def State.useOffset (s : State) (off : Int) : State :=
  let s := s.wr Reg.bellOffset (BitVec.ofInt 32 off)
  if off.natAbs ≤ 32 then
    let run := s.bell.fineRun + 1
    let s := s.withBell { s.bell with fineRun := run }
    if s.bell.lock == .coarse && 16 ≤ run then s.setLock .locked
    else if s.bell.lock == .holdover && (s.bell.master || (0 < s.bell.goodRun && s.bell.missRun == 0)) then
      s.setLock .locked
    else s
  else
    let s := s.withBell { s.bell with fineRun := 0 }
    if s.bell.lock == .locked then s.raise Reg.bellErr 7 else s

/-- TIMESTAMP_RECEIVE (R52, R36 case 3, R77, R123): a flit whose count is malformed is lost. -/
def execTimestampReceive (p : Port) (rxSub : BitVec 6) (parent : Option SoNotice) (s : State) :
    Host.Outcome State Fault Refusal :=
  match (s.link p.link).tsIn with
  | none => .next s
  | some (pl, rxTime) =>
    let s := s.setLink p.link { s.link p.link with tsIn := none }
    let tx : Dword := BitVec.ofNat 64 (field pl 0 8)
    let sub := field pl 8 1 % 64
    let st : BitVec 8 := BitVec.ofNat 8 (field pl 9 1)
    let len := field pl 10 2 + 1
    let count := BellTime.ofStamp tx
    if len ≤ count.period.toNat then .next s
    else
      let t := s.timeLink p
      let mine := s.timePort == some p
      let echoTx : Dword := BitVec.ofNat 64 (field pl 16 8)
      let echoSub := field pl 24 1 % 64
      let echoed := t.sent && t.received && echoTx == t.txTime && echoSub == t.txSub.toNat
      let off := timeOffset (timeUnits len t.peerTx (t.peerSub.toNat % 64)) (timeUnits s.bell.len t.rxTime t.rxSub.toNat)
        (timeUnits s.bell.len echoTx echoSub) (timeUnits len (BitVec.ofNat 64 (field pl 25 8)) (field pl 33 1 % 64))
      let s := s.setTimeLink p { t with peerTx := tx, peerSub := BitVec.ofNat 8 sub, rxTime := rxTime, rxSub := rxSub,
                                        received := true, peerState := st }
      -- R78: SO_NACK of a child ring reaches the master that announces
      let s := match s.tt.ann with
        | some a => if s.topMaster && !a.committed && bit st 2 then s.withdrawAnn else s
        | none => s
      if !mine then .next s
      else
        let s := if echoed then s.useOffset off else s
        if s.bell.master then
          -- R36 case 3, R77: a child-ring master takes its parent's count and copies its announcement
          let far := decide (16384 ≤ (timeUnits len tx sub - timeUnits s.bell.len rxTime rxSub.toNat).natAbs)
          let s := if !s.bell.parentKnown || far then
              let n := addPeriods len count.term count.period 1
              s.withBell { s.bell with jump := some ⟨n.1, n.2, len⟩, parentKnown := true }
            else s
          .next (s.followAnn (parent.map (fun n => ⟨n.tag, n.lenM1.toNat + 1, n.term, n.period, n.commit⟩)))
        else .next s

/-- REF_LOST (R57). -/
def execRefLost (s : State) : Host.Outcome State Fault Refusal :=
  if s.bell.refPresent then
    let s := s.withBell { s.bell with refPresent := false }
    .next (if s.bell.master then s.raise Reg.bellErr 5 else s)
  else .next s

/-- REF_APPEAR (R55). -/
def execRefAppear (s : State) : Host.Outcome State Fault Refusal :=
  .next (s.withBell { s.bell with refPresent := true })

/-- PPS_EDGE (R56): the master captures its bell time. -/
def execPpsEdge (s : State) : Host.Outcome State Fault Refusal :=
  if s.bell.master then .next (s.wr64 Reg.bellPpsStampLo s.now) else .next s

/-- SO_COMMIT_POINT (R78): 32 periods before the point, on a master with bell lock (R83). -/
def execSoCommitPoint (s : State) : Host.Outcome State Fault Refusal :=
  match s.tt.ann with
  | none => .next s
  | some a =>
    if s.topMaster && (s.bell.lock == .locked || s.bell.lock == .holdover) && !a.committed
        && s.periodsTo a.term a.period ≤ 32 then
      .next (s.withTt { s.tt with ann := some { a with committed := true } })
    else .next s

/-- GATE_ENTRY_FIRE (R69): the GATE entries of a port that fire at this slot, lower index first. -/
def execGateEntryFire (p : Port) (s : State) : Host.Outcome State Fault Refusal :=
  .next ((s.firingNow 0 p.val 3).foldl (fun s q =>
    let s := s.withTt { s.tt with gates := s.tt.gates.put 0xFF p.val (ttGateMask q.2) }
    s.traceEv 0 p.val false (leBytes 4 q.1 ++ leBytes 4 3 ++ leBytes 4 0)) s)

end Sys2Proof.Machine
end

