-- ==== Sys2Proof/Machine/LinkOps.lean ====
section
/-!
DEFINITION. The link layer's shared operations: flits (R103 to R106, R117 to R120), link-layer messages, entry into and
exit from a link session (R98, R107, R114, R170), credits (R108), the mirror (R181, R182).
-/
namespace Sys2Proof.Machine

/-! Flit fields (R103, R106). -/
def flType (f : Flit) : Nat := bits f.header.toNat 31 28
def flFmt (f : Flit) : Nat := bits f.header.toNat 27 26
def flClass (f : Flit) : Cls := ⟨bits f.header.toNat 25 23 % 8, Nat.mod_lt _ (by decide)⟩
def flFirst (f : Flit) : Bool := bit f.header 22
def flLast (f : Flit) : Bool := bit f.header 21
def flCrClass (f : Flit) : Nat := bits f.header.toNat 20 18
def flCrCount (f : Flit) : Nat := bits f.header.toNat 16 10
def flPhase (f : Flit) : Nat := bits f.header.toNat 9 8
def flValid (f : Flit) : Nat := bits f.header.toNat 7 0
def flRoll (f : Flit) : Nat := bits f.seq.toNat 15 0
def flAck (f : Flit) : Nat := bits f.seq.toNat 31 16

/-- R104: IDLE, DATA, LINK_CTL and KEY_EX are sequenced (KEY_EX in ACTIVE only; in SECURE none is). -/
def sequenced (type : Nat) : Bool := decide (type ≤ 3)

/-- R105: what makes a receiver discard a flit for its format. -/
def flitMalformed (f : Flit) : Bool :=
  decide (7 ≤ flType f) || flFmt f != 1 || bit f.header 17 || decide (240 < flValid f)
    || (!sequenced (flType f) && flCrCount f != 0)

/-- The bytes the link check covers: header, payload, sequence word (R117). -/
def flitBody (f : Flit) : Bytes := leBytes 4 f.header.toNat ++ byteRun f.payload 0 240 ++ leBytes 4 f.seq.toNat

/-- What the GCM tag authenticates but does not encrypt: header and sequence word (R119). -/
def flitAad (f : Flit) : Bytes := leBytes 4 f.header.toNat ++ leBytes 4 f.seq.toNat

/-- Nonce of a flit: the salt, then the 64-bit flit number (R119). -/
def flitNonce (k : KeyDir) (n : Nat) : Bytes := leBytes 4 k.salt.toNat ++ leBytes 8 n

/-- A flit header (R103). -/
def mkHeader (type cls : Nat) (first last : Bool) (crClass crCount phase valid : Nat) : Word :=
  BitVec.ofNat 32 (type * 2 ^ 28 + 2 ^ 26 + cls * 2 ^ 23 + b2n first * 2 ^ 22 + b2n last * 2 ^ 21 + crClass * 2 ^ 18
    + crCount * 2 ^ 10 + phase * 2 ^ 8 + valid)

/-! Port registers and errors. -/

/-- Raise a bit of PORT_ERR; a first capture from half 1 also sets HALF1 (R127). -/
def State.raisePort (s : State) (l : LinkId) (b : Nat) : State :=
  let e := Reg.portErr l.port.val
  let first := s.rd e == 0
  let s := s.raise e b
  if l.val % 2 == 1 && first then s.wr e (setBit (s.rd e) 14) else s

/-- Lanes of a link at full configured width, and of a width code (R89). -/
def widthLanes (code : Nat) : Nat := 2 * 2 ^ code

/-- Flits per slot (R89). -/
def Link.flitsPerSlot (k : Link) : Nat := let f := 2 ^ k.width.toNat; if k.v09 then f / 2 else f

/-- Replay buffer size in flits (R89). -/
def Link.replaySize (k : Link) : Nat := 256 * 2 ^ k.width.toNat

/-- An update of one link. -/
def State.modLink (s : State) (l : LinkId) (f : Link → Link) : State := s.setLink l (f (s.link l))

/-! Link-layer messages (R172 rank 1, R495). -/

/-- Queue a link-layer flit. -/
def State.sendCtl (s : State) (l : LinkId) (type : BitVec 4) (content : Bytes) : State :=
  s.modLink l (fun k => { k with ctlOut := k.ctlOut ++ [⟨type, content⟩] })

/-- Send REPLAY_REQ for the expected count (R110, R111). -/
def State.sendReplayReq (s : State) (l : LinkId) : State :=
  s.sendCtl l 5 (leBytes 2 ((s.link l).rxNext % 65536))

/-- Fragments of a message: MSG, index, count, reserved, then up to 236 bytes (R495). -/
def fragments (msg : BitVec 8) (content : Bytes) : List Bytes :=
  let n := max 1 ((content.length + 235) / 236)
  (List.range n).map (fun i =>
    [msg, BitVec.ofNat 8 i, BitVec.ofNat 8 n, 0] ++ ((content.drop (236 * i)).take 236))

/-- A KEY_EX flit as SECURE carries it: counts 0, KEY_PHASE 0, CRC-64 (R104, R495). -/
def secureFlit (content : Bytes) : Flit :=
  let f : Flit := ⟨mkHeader 3 0 false false 0 0 0 content.length, byteRun content 0 240, 0, 0⟩
  { f with check := crc64 (flitBody f) }

/-- Send a whole SECURE message: in SECURE at once, in ACTIVE through the egress (R104, R498). -/
def State.sendMsg (s : State) (l : LinkId) (msg : BitVec 8) (content : Bytes) : State :=
  let now := s.bell.ticks
  if (s.link l).train == .secure then
    let s := s.modLink l (fun k =>
      { k with kex := { k.kex with sent := k.kex.sent ++ [(msg, content)], lastTick := now } })
    (fragments msg content).foldl (fun s c => s.emit (.flit l (secureFlit c))) s
  else (fragments msg content).foldl (fun s c => s.sendCtl l 3 c) s

/-! Credits (R107, R108). -/

/-- A flit of a class has left the input buffer of a port input; its credit is owed to the peer (R108). -/
def State.oweCredit (s : State) (l : LinkId) (c : Cls) (n : Nat) : State :=
  s.modLink l (fun k => { k with owed := k.owed.set c.val (k.owed[c.val] + n) })

/-- The link that a queued frame came in on. -/
def entryLink (i : InputId) (half1 : Bool) : Option LinkId :=
  if h : i.val < 192 then some ⟨2 * i.val + b2n half1, by cases half1 <;> simp [b2n] <;> omega⟩ else none

/-- Remove a queue entry, returning the credits of the flits it still held. -/
def State.dropEntry (s : State) (e : QEntry) : State :=
  let s := s.withSw { s.sw with queue := s.sw.queue.filter (fun x => x.id != e.id) }
  match entryLink e.input e.half1 with
  | some l => s.oweCredit l e.cls (e.flits - e.sent)
  | none => s

/-- Credits advertised in CONFIG: those of PORT_CREDIT_ADV, scaled down when their total exceeds the buffer; answers
whether they were scaled (R107). -/
def State.advertise (s : State) (l : LinkId) : Vector Nat 8 × Bool :=
  let p := l.port.val
  let r := fun (i : Nat) => (s.rd (Reg.portCreditAdv0 p + 4 * (i / 2))).toNat
  let raw := (Vector.range 8).map (fun i => if i % 2 == 0 then r i % 65536 else r i / 65536)
  let total := raw.toList.sum
  let cap := 256 * widthLanes (s.link l).width.toNat
  if cap < total then (raw.map (fun v => v * cap / total), true) else (raw, false)

/-! Mirror and sample ring (R181, R182). -/

/-- One sample record (R182). -/
def sampleRecord (now : Dword) (session port : Nat) (egress : Bool) (cls : Nat) (dropped : Bool) (bytes : Bytes)
    (len seq : Nat) : Bytes :=
  leBytes 8 now.toNat ++ leBytes 1 session ++ leBytes 1 port
    ++ leBytes 1 (b2n egress + 2 * cls + 16 * b2n dropped + 32 * b2n (decide (128 < len))) ++ leBytes 1 1 ++ leBytes 4 len
    ++ leBytes 4 seq ++ List.replicate 12 0 ++ byteRun (bytes.take len) 0 128

/-- The sample path takes one record in 16 core cycles (R182), which are 1 to 2 slots: a second record in the slot of the last is
refused, one in the two slots after it may be, as the cycles fall (assumption log 91). -/
def State.sampleBusy (s : State) : Bool × State :=
  let last := s.sw.sampleTick
  if last = 0 || last + 1 < s.bell.ticks then (false, s)
  else if s.bell.ticks < last then (true, s)
  else
    let (v, s) := s.draw
    (bit v 0, s)

/-- One session sees a frame on its port and direction; `at_` is when its first flit was accepted or sent. -/
def State.mirrorOne (s : State) (at_ : Dword) (p : Port) (egress : Bool) (cls : Nat) (job : BitVec 12) (dropped : Bool) (bytes : Bytes)
    (len : Nat) (m : Nat) : State :=
  let cfg := s.rd (Reg.mirCfg m)
  let pick := bit cfg 31 && bit cfg 30 == egress && bits cfg.toNat 7 0 == p.val && bits cfg.toNat (8 + cls) (8 + cls) == 1
    && (!bit cfg 28 || cfg.extractLsb' 16 12 == job) && (!dropped || bit cfg 29)
  if !pick then s
  else
    let n := s.rdPos (Reg.mirN m)
    let seen := s.sw.mirSeen.get 0 m
    let s := s.withSw { s.sw with mirSeen := s.sw.mirSeen.put 0 m (seen + 1) }
    if seen % n != n - 1 then s
    else
      let seq := (s.rd (Reg.mirCount m)).toNat
      let s := s.bump (Reg.mirCount m)
      let (busy, s) := s.sampleBusy
      if busy || 4096 ≤ s.sw.samples.length then (s.bump Reg.swSampleDrop).raiseSw 7 p.val p.val cls
      else s.withSw { s.sw with samples := s.sw.samples ++ [sampleRecord at_ m p.val egress cls dropped bytes len seq]
                                sampleTick := s.bell.ticks + 1 }

/-- All sessions see a frame (R181). -/
def State.mirror (s : State) (at_ : Dword) (p : Port) (egress : Bool) (cls : Nat) (job : BitVec 12) (dropped : Bool) (bytes : Bytes)
    (len : Nat) : State :=
  (List.range 8).foldl (fun s m => s.mirrorOne at_ p egress cls job dropped bytes len m) s

/-- Frame header seen by the trace (R550): header bytes 0 to 15, TAG, STATUS. -/
def State.traceFrame (s : State) (src : Nat) (p : Port) (hdr : BitVec 256) : State :=
  let f : Frame := ⟨hdr, [], 0⟩
  s.traceEv src p.val false (leBytes 16 (hdr.toNat % 2 ^ 128) ++ leBytes 2 f.tag.toNat ++ leBytes 1 f.status.toNat)

/-! Leaving a session. -/

/-- A partial frame whose ingress is lost (R170): a queued cut-through frame that has begun to leave is closed short;
any other partial frame is discarded. -/
def State.losePartial (s : State) (a : Arriving) : State :=
  if a.whole then s
  else
    match a.entry.bind (fun id => s.sw.queue.find? (fun e => e.id == id)) with
    | none => s
    | some e =>
      let out := match e.dest with
        | .port p => p.val
        | .home => 192 + (inputCluster e.input).val
      let s := (s.bump Reg.swPartialDrop).raiseSw 1 e.input.val out e.cls.val
      if !e.saf && e.sent != 0 then
        s.withSw { s.sw with queue := s.sw.queue.map (fun x =>
          if x.id == e.id then { x with whole := true, short := true, flits := x.flits + 1 } else x) }
      else s.withSw { s.sw with queue := s.sw.queue.filter (fun x => x.id != e.id) }

/-- A gateway port goes down: its combine buffers are discarded, and the next ORDER completion of each job and
destination carries FENCED (R153). -/
def State.gatewayDown (s : State) (p : Port) : State :=
  let g := s.mort.gw.get Gateway.reset p.val
  let lost := (g.combine.map (fun b => (b.job.toNat, b.dest.toNat))).filter (fun k => !g.failed.any (fun q => q.1 == k))
  let g := { g with combine := [], ahead := g.ahead.filter (fun a => !a.waiting.isEmpty),
                    failed := g.failed ++ lost.eraseDups.map (fun k => (k, St.fenced)) }
  s.withMort { s.mort with gw := s.mort.gw.put Gateway.reset p.val g }

/-- What a link forgets at the end of a session: everything but the state, the configuration and its half. -/
def Link.ended (k : Link) : Link :=
  { Link.reset with train := k.train, enteredAt := k.enteredAt, cfg := k.cfg, looped := k.looped,
                    fencedByMismatch := k.fencedByMismatch, unacked := k.unacked }

/-- A link leaves ACTIVE or RECOVERY for good, or training is broken off (R114, R125, R170, R509): partial frames, replay
buffer and counts go, the port's agent is dead, gateway buffers are discarded, time links are looked at. -/
def State.endSession (s : State) (l : LinkId) : State :=
  let k := s.link l
  let live := (k.train == .active || k.train == .recovery) && !k.looped
  let s := k.arriving.foldl (fun s a => s.losePartial a) s
  let s := s.setLink l k.ended
  if !live then s
  else
    let p := l.port
    let role := bits k.cfg.toNat 5 4
    let s := if role == 1 then
        s.withSw { s.sw with deadRoll := s.sw.deadRoll ++ [p], deadDir := s.sw.deadDir ++ [p] } else s
    let s := if role == 3 then s.gatewayDown p else s
    let e := { s.sw.egress.get Egress.reset l.val with busy := Vector.replicate 8 none }
    let s := s.withSw { s.sw with egress := s.sw.egress.put Egress.reset l.val e }
    s.withMort { s.mort with agents := s.mort.agents.filter (fun a => !(a.port == p && a.half1 == (l.val % 2 == 1))) }

/-- A new link session of a port (R114): its count advances from 1 to 255 and skips 0 (R383). -/
def State.newSession (s : State) (p : Port) : State :=
  s.withRoll { s.roll with sessions := s.roll.sessions.put 0 p.val (s.roll.sessions.get 0 p.val % 255 + 1) }

/-- Enter a training state. -/
def State.enter (s : State) (l : LinkId) (t : Train) : State :=
  s.modLink l (fun k => { k with train := t, enteredAt := s.bell.ticks })

/-- Move a link to DETECT, or to FENCED while its partition is fenced (R98, R125, R509). -/
def State.toDetect (s : State) (l : LinkId) : State :=
  let s := s.endSession l
  let part := bits (s.rd (Reg.portCfg l.port.val)).toNat 21 16
  if s.isFenced part then s.enter l .fenced
  else (s.modLink l (fun k => { k with fencedByMismatch := false })).enter l .detect

/-- A port's loop-back ends (R540). -/
def State.endLoop (s : State) (l : LinkId) : State :=
  let s := s.modLink l (fun k => { k with looped := false })
  let t := s.test
  if t.lb.running && t.lb.port == l.port then s.withTest { t with lb := { t.lb with running := false } } else s

/-- Move a link to DISABLED; a loop-back on it ends (R540). -/
def State.toDisabled (s : State) (l : LinkId) : State :=
  (((s.endSession l).endLoop l).enter l .disabled).timeLinkCheck

/-- Move an ACTIVE link to RECOVERY (R102, R111, R112, R121). -/
def State.toRecovery (s : State) (l : LinkId) : State := (s.enter l .recovery).timeLinkCheck

/-! Bonded groups (R89, R91). -/

/-- The members of the group that a port's configured width spans; the port itself is the lowest. -/
def groupOf (p : Port) (cfg : Word) : List Port :=
  let w := bits cfg.toNat 9 8
  if w = 2 then (List.range 2).filterMap (fun i => portOf (p.val / 2 * 2 + i))
  else if w = 3 then (List.range 4).filterMap (fun i => portOf (p.val / 4 * 4 + i)) else [p]

/-- The port is a member, other than the lowest, of a bonded group (R89). -/
def State.isMember (s : State) (p : Port) : Bool :=
  (p.val % 2 != 0 && bits (s.rd (Reg.portCfg (p.val / 2 * 2))).toNat 9 8 == 2)
    || (p.val % 4 != 0 && bits (s.rd (Reg.portCfg (p.val / 4 * 4))).toNat 9 8 == 3)

/-- R91: the members of a group have one role and one partition, and a split port has width x4 (R126). -/
def State.groupOk (s : State) (p : Port) : Bool :=
  let cfg := s.rd (Reg.portCfg p.val)
  let same := fun (q : Port) =>
    let c := s.rd (Reg.portCfg q.val)
    bits c.toNat 5 4 == bits cfg.toNat 5 4 && bits c.toNat 21 16 == bits cfg.toNat 21 16
  (groupOf p cfg).all same && (!bit cfg 3 || bits cfg.toNat 9 8 == 1)

/-- The links that a port's configuration gives it. -/
def cfgLinks (p : Port) (cfg : Word) : List LinkId :=
  if bit cfg 3 then [p.link, ⟨2 * p.val + 1, by omega⟩] else [p.link]

/-- A link leaves DISABLED for DETECT: it reads PORT_CFG; a bad group stays DISABLED with ROLE_MISMATCH (R91, R94, R98). -/
def State.startTraining (s : State) (p : Port) : State :=
  let cfg := s.rd (Reg.portCfg p.val)
  if s.isMember p || !bit cfg 0 || bits cfg.toNat 5 4 == 0 then s
  else if !s.groupOk p then s.raisePort p.link 6
  else (cfgLinks p cfg).foldl (fun s l =>
    if (s.link l).train == .disabled then (s.modLink l (fun k => { k with cfg := cfg })).toDetect l else s) s

end Sys2Proof.Machine
end

