-- ==== Sys2Proof/Machine/Access.lean ====
section
/-!
DEFINITION. What a host's access to BAR0 meets before it reaches a register: power, the boot's gate (R530), the session
lock (R8, R489), the ring registers' owner (R477).
-/
namespace Sys2Proof.Machine

/-- The main domain has power, so the host ports answer (R525). -/
def State.powered (s : State) : Bool := s.boot.state != .auxOnly

/-- Accesses of host h arrive: the domain has power, and the port runs no loop-back below the transaction level (R525, R543). -/
def State.answers (s : State) (h : HostPort) : Bool :=
  s.powered && !(s.test.hlb.running && s.test.hlb.port == h && s.test.hlb.depth < 2)

/-- An access through a host port shows that its link is up; its trained width and rate are the link's own (R482). -/
def State.touch (s : State) (h : HostPort) : State :=
  let x := s.host h
  if x.dlUp && !x.perst && !x.d3hot then s
  else
    let (v, s) := s.draw
    s.withHost h { s.host h with dlUp := true, perst := false, d3hot := false, width := BitVec.ofNat 4 (2 ^ (v.toNat % 4)),
                                 rate := BitVec.ofNat 4 (1 + v.toNat / 4 % 6) }

/-- R530: before CONFIGURE BAR0 serves the GLOBAL block and the boot group only. -/
def State.serves (s : State) (off : Nat) : Bool :=
  decide (9 ≤ s.boot.state.code) || decide (off < 0x100000) || (decide (0x1300800 ≤ off) && decide (off < 0x1300858))

/-- Before PROCEED a port stays in DISABLED and RETRAIN is ignored (R532). -/
def State.proceeded (s : State) : Bool := decide (0x0A ≤ s.boot.state.code) && decide (s.boot.state.code ≤ 0x0E)

/-- A write of host h arrives at a register. -/
def State.hostWrite (s : State) (h : HostPort) (off : Nat) (f : State → State) : State :=
  if !s.answers h then s
  else
    let s := s.touch h
    if s.serves off then f s else s

/-- SEC_STATUS.LOCKED (R489). -/
def State.locked (s : State) : Bool := bit (s.rd Reg.secLock) 0

/-- Discard a write to an RWL register under the lock (R8, R512, R524). -/
def State.lockedWrite (s : State) (off : Nat) : State :=
  s.raiseCap Reg.faultErr 0 [(Reg.faultErrCapture, 0)] [(Reg.faultLockedAddr, BitVec.ofNat 32 off)]

/-- A write of host h arrives at an RWL register. -/
def State.hostWriteRwl (s : State) (h : HostPort) (off : Nat) (f : State → State) : State :=
  s.hostWrite h off (fun s => if s.locked then s.lockedWrite off else f s)

/-- The defined bits of a register (R9). -/
def regMask (off : Nat) : Word :=
  match regRow off with
  | some r => r.mask
  | none => 0

/-- Set a register's defined bits. -/
def State.wrMasked (s : State) (off : Nat) (v : Word) : State := s.wr off (v &&& regMask off)

/-! 64-bit register pairs (R7). -/

/-- Key of a held _LO word: its offset and the port that wrote it. -/
def holdKey (h : HostPort) (off : Nat) : Nat := 2 * off + hostNum h

/-- Hold a _LO word (R7). -/
def State.holdLo (s : State) (h : HostPort) (off : Nat) (v : Word) : State :=
  s.withHold (s.hold.put none (holdKey h off) (some v))

/-- The quantity that a _HI write at `off + 4` applies: the port's held _LO word, else the current one (R7). -/
def State.joinHi (s : State) (h : HostPort) (off : Nat) (v : Word) : Dword :=
  v ++ ((s.hold.get none (holdKey h off)).getD (s.rd off))

/-- The held word is consumed. -/
def State.dropHeld (s : State) (h : HostPort) (off : Nat) : State := s.withHold (s.hold.put none (holdKey h off) none)

end Sys2Proof.Machine
end

