-- ==== Sys2Proof/Machine/PoolOps.lean ====
section
/-!
DEFINITION. Pool memory's shared operations: the local map (R185 to R187, R190), bytes and lines (R191, R211 to R214), objects
(R195 to R199), frames and map entries (R188, R201, R241), the expand cache, and the work of the migration engines (R205).
-/
namespace Sys2Proof.Machine

/-- The regions of the local map, each with its lendable part (R186, R218). -/
inductive Region where
  | window (cluster : Nat)
  | direct
  | tiered
  deriving DecidableEq, Repr

/-- Bytes of a plank. -/
def plankBytes : Nat := 32768

/-- First local offsets of STACK and TIERED (R186). -/
def stackBase : Nat := 2 ^ 36
def tieredBase : Nat := 2 ^ 40

/-- The lendable region that a local offset lies in (R186, R187). -/
def State.region (s : State) (o : Nat) : Option Region :=
  if o < 0xC000000 then
    if o % 2 ^ 24 < s.pool.lendable.get 0 (o / 2 ^ 24) then some (.window (o / 2 ^ 24)) else none
  else if stackBase ≤ o && o < stackBase + s.pool.direct then some .direct
  else if tieredBase ≤ o && o < tieredBase + s.pool.flashBytes then some .tiered
  else none

/-- R187: an extent touches nothing but one lendable part. -/
def State.lendable (s : State) (o ext : Nat) : Bool := (s.region o).isSome && s.region o == s.region (o + ext - 1)

/-- Where a byte of WINDOW or STACK is stored: its physical stacked address, or 2^44 + offset for WINDOW (R190). -/
def physical (o : Nat) : Nat := if o < 0x10000000 then 2 ^ 44 + o else o - stackBase

/-- Where frame f begins (R190). -/
def State.frameBase (s : State) (f : Nat) : Nat := s.pool.direct + f * plankBytes

/-- Stack of a physical stacked address, and the offset within it (R211). -/
def stackOf (a : Nat) : Nat := (bits a 10 8 ^^^ bits a 13 11 ^^^ bits a 16 14) % 8
def stackOffset (a : Nat) : Nat := bits a 42 11 * 256 + bits a 7 0

/-- The physical address at an offset of a stack: the inverse of R211. -/
def stackAddr (k off : Nat) : Nat :=
  let hi := off / 256
  hi * 2048 + ((k ^^^ bits hi 2 0 ^^^ bits hi 5 3) % 8) * 256 + off % 256

/-! Bytes and lines. -/

/-- `n` stored bytes from a physical address. -/
def State.memRead (s : State) (a n : Nat) : Bytes := s.pool.mem.getRun 0 a n

/-- Store bytes from a physical address. -/
def State.memWrite (s : State) (a : Nat) (bs : Bytes) : State := s.withPool { s.pool with mem := s.pool.mem.putRun 0 a bs }

/-- One line of a write: line offset from the plank or line start, byte mask, data. -/
structure LineWrite where
  at_ : Nat
  mask : BitVec 128
  data : Bytes
  deriving DecidableEq, Repr

/-- The whole line. -/
def fullMask : BitVec 128 := BitVec.allOnes 128

/-- Store the masked bytes of one line at a physical address. -/
def putMasked (t : Tab Byte) (a : Nat) (w : LineWrite) : Tab Byte :=
  (List.range 128).foldl (fun t i => if bit w.mask i then t.put 0 (a + w.at_ + i) (w.data.getD i 0) else t) t

/-- A stored line that a read has found bad (R214); WINDOW lines never are. -/
def State.lineBad (s : State) (a : Nat) : Nat := s.pool.badLines.get 0 (a / 128)

/-- Count a read of a bad line in its stack (R214, R224). -/
def State.badRead (s : State) (a : Nat) : State :=
  let k := stackOf a
  let caps := [(Reg.stkErrAddrLo k, BitVec.ofNat 32 (stackOffset (a / 128 * 128))),
               (Reg.stkErrAddrHi k, BitVec.ofNat 32 (stackOffset (a / 128 * 128) / 2 ^ 32))]
  let s := (s.bump (Reg.stkUncorr k)).raise (Reg.stkErr k) 1 caps
  if s.lineBad a == 2 then (s.bump (Reg.stkMacFail k)).raise (Reg.stkErr k) 2 caps else s

/-- Bad lines among those from a physical address. -/
def State.badIn (s : State) (a n : Nat) : List Nat :=
  (s.pool.badLines.filter (fun p => a / 128 ≤ p.1 && p.1 < (a + n + 127) / 128)).map (fun p => p.1 * 128)

/-- Write lines into stored memory at a physical base: lines covered in part are read first, and one that is bad refuses the
whole request (R214). None: refused with MEDIA. -/
def State.writeLines (s : State) (a : Nat) (ws : List LineWrite) : Option State × State :=
  let broken := (ws.filter (fun w => w.mask != fullMask && w.mask != 0)).map (fun w => a + w.at_)
  match broken.filter (fun l => s.lineBad l != 0) with
  | [] =>
    let made := (ws.filter (fun w => w.mask == fullMask)).map (fun w => (a + w.at_) / 128)
    let s' := s.withPool { s.pool with mem := ws.foldl (fun t w => putMasked t a w) s.pool.mem,
                                       badLines := s.pool.badLines.filter (fun p => !made.contains p.1) }
    (some s', s')
  | bad => (none, bad.foldl (fun s l => s.badRead l) s)

/-- A run of zeros becomes the content of a plank at a physical base; every line is written whole. -/
def State.zeroPlank (s : State) (a : Nat) : State :=
  s.withPool { s.pool with mem := s.pool.mem.clearRange a (a + plankBytes),
                           badLines := s.pool.badLines.clearRange (a / 128) ((a + plankBytes) / 128) }

/-- Replace the content of a plank at a physical base. -/
def State.putPlank (s : State) (a : Nat) (bs : Bytes) : State := (s.zeroPlank a).memWrite a bs

/-! Tags of lines (R278): any write removes them. -/

/-- Key of a line in the tag store and in the directory: local offset [47:7]. -/
def lineOf (o : Nat) : Nat := o / 128

/-- Remove the tags of the lines of an extent. -/
def State.dropTags (s : State) (o ext : Nat) : State :=
  s.withPool { s.pool with tags := s.pool.tags.clearRange (lineOf o) (lineOf (o + ext + 127)) }

/-! Objects (R195 to R199). -/

def objSize (e : BitVec 192) : Nat := bits e.toNat 90 64 * 2 ^ 21
def objBase (e : BitVec 192) : Nat := bits e.toNat 47 21 * 2 ^ 21
def objTier (e : BitVec 192) : Nat := bits e.toNat 105 104
def objVeneer (e : BitVec 192) : Nat := bits e.toNat 107 106
def objShape (e : BitVec 192) : Nat := bits e.toNat 111 108
def objDrawer (e : BitVec 192) : Nat := bits e.toNat 127 112
def objStream (e : BitVec 192) : Bool := bit e 151
def objAge (e : BitVec 192) : Nat := bits e.toNat 167 152
def objBasis (e : BitVec 192) : Nat := bits e.toNat 175 168
def objBound (e : BitVec 192) : Nat := bits e.toNat 191 176

def State.objTable (s : State) : Tab (BitVec 192) := if s.pool.objBank then s.pool.obj1 else s.pool.obj0

/-- R199: what acts where no valid object covers a plank: PREFER_STACKED, NONE, STREAM 0, shape 0. -/
def objDefault : BitVec 192 := 1 <<< 104

/-- The object whose entry governs a local offset (R198, R199). -/
def State.objectAt (s : State) (o : Nat) : BitVec 192 :=
  match s.objTable.find? (fun p => objSize p.2 != 0 && !s.pool.inert.get false p.1 && objBase p.2 ≤ o
      && o < objBase p.2 + objSize p.2) with
  | some (_, e) => e
  | none => objDefault

/-- Shapes that are veneered (R433, R199). -/
def veneerShape (n : Nat) : Bool := (1 ≤ n && n ≤ 5) || n == 8

/-- The veneer policy that acts on a TIERED plank (R199). -/
def veneerPolicy (e : BitVec 192) : Nat := if veneerShape (objShape e) then objVeneer e else 0

/-! Map entries and frames (R188, R201, R241). Planks are numbered by local offset [47:15]. -/

/-- Map index of a TIERED plank (R241). -/
def mapIndex (plank : Nat) : Nat := plank - tieredBase / plankBytes

def State.mapEntry (s : State) (plank : Nat) : MapEntry := s.pool.map.get MapEntry.reset (mapIndex plank)

def State.setEntry (s : State) (plank : Nat) (e : MapEntry) : State :=
  s.withPool { s.pool with map := s.pool.map.put MapEntry.reset (mapIndex plank) e }

/-- Frames in use. -/
def State.framesUsed (s : State) : Nat := (s.pool.frames.filter (fun p => p.2.valid)).length

/-- POOL_FRAMES_FREE: frames holding no plank. -/
def State.framesFree (s : State) : Nat := s.pool.frameCount - s.framesUsed

/-- The lowest free frame. -/
def State.freeFrame (s : State) : Option Nat :=
  let used := (s.pool.frames.filter (fun p => p.2.valid)).map (·.1)
  (List.range (used.length + 1)).find? (fun f => decide (f < s.pool.frameCount) && !used.contains f)

/-- A frame takes a plank. -/
def State.takeFrame (s : State) (f plank : Nat) : State :=
  s.withPool { s.pool with frames := s.pool.frames.put FrameRec.reset f ⟨plank, true, true, s.bell.bounds⟩ }

/-- A frame is freed; its record keeps what it held. -/
def State.dropFrame (s : State) (f : Nat) : State :=
  s.withPool { s.pool with frames := s.pool.frames.modify FrameRec.reset f (fun r => { r with valid := false }) }

/-- An access to a plank's frame (R208, R209). -/
def State.touchFrame (s : State) (f : Nat) : State :=
  s.withPool { s.pool with frames := s.pool.frames.modify FrameRec.reset f (fun r =>
    { r with referenced := true, last := s.bell.bounds }) }

/-- The frame of a STACKED or STACKED_V plank, or of the source of a demotion. -/
def MapEntry.frame (e : MapEntry) : Nat := e.loc / 8

/-- The bytes of a frame copy: 32,768, or the granules of a veneered plank. -/
def State.frameBytes (s : State) (e : MapEntry) : Bytes :=
  s.memRead (s.frameBase e.frame) (if e.ven then e.size * 4096 else plankBytes)

/-! The expand cache (R202, R218): 16 planks in each cluster. -/

def State.cached (s : State) (k plank : Nat) : Option Bytes :=
  ((s.pool.cache.get [] k).find? (fun p => p.1 == plank)).map (·.2)

/-- A plank is used or filled in a cluster's cache: it becomes the most recent of at most 16. -/
def State.fillCache (s : State) (k plank : Nat) (bs : Bytes) : State :=
  let l := (s.pool.cache.get [] k).filter (fun p => p.1 != plank)
  s.withPool { s.pool with cache := s.pool.cache.put [] k (((plank, bs) :: l).take 16) }

/-- A write drops the plank from every expand cache (R202). -/
def State.uncache (s : State) (plank : Nat) : State :=
  let kept := s.pool.cache.map (fun c => (c.1, c.2.filter (fun p => p.1 != plank)))
  s.withPool { s.pool with cache := kept.filter (fun c => !c.2.isEmpty) }

/-! Veneer slots (R434 to R436). -/

def slotKey (stream gen : Nat) : Nat := 4 * stream + gen
def State.slot (s : State) (stream gen : Nat) : BasisSlot := s.pool.slots.get BasisSlot.reset (slotKey stream gen)
def State.setSlot (s : State) (stream gen : Nat) (b : BasisSlot) : State :=
  s.withPool { s.pool with slots := s.pool.slots.put BasisSlot.reset (slotKey stream gen) b }

/-- Take or give back a reference (R436). -/
def State.takeRef (s : State) (q : Option (Nat × Nat)) : State :=
  match q with
  | some (m, g) => s.setSlot m g { s.slot m g with refs := (s.slot m g).refs + 1 }
  | none => s
def State.giveRef (s : State) (q : Option (Nat × Nat)) : State :=
  match q with
  | some (m, g) => s.setSlot m g { s.slot m g with refs := (s.slot m g).refs - 1 }
  | none => s

/-- The stream and slot that a veneered plank's header names (R443). -/
def venSlot (bs : Bytes) : Nat × Nat := (field bs 25 1, bits (field bs 24 1) 7 6)

/-- A stored plank takes up a reference that its work held, giving up the one it had (R436). -/
def State.storeRef (s : State) (plank : Nat) (q : Option (Nat × Nat)) : State :=
  let s := s.giveRef (s.pool.stored.get none (mapIndex plank))
  s.withPool { s.pool with stored := s.pool.stored.put none (mapIndex plank) q }

/-! Work (R205). -/

def State.work (s : State) (plank : Nat) : Option Work := s.pool.works.find? (fun w => w.plank == plank && w.goal != .read)

def State.setWork (s : State) (w : Work) : State :=
  s.withPool { s.pool with works := s.pool.works.map (fun v => if v.id == w.id then w else v) }

def State.endWork (s : State) (w : Work) : State :=
  s.withPool { s.pool with works := s.pool.works.filter (fun v => v.id != w.id) }

/-- Engine of a plank (R205). -/
def engineOf (plank : Nat) : Nat := plank % 16

/-- Queue a piece of work. -/
def State.startWork (s : State) (plank : Nat) (goal : Goal) (stage : Stage) (rank : Nat) (data : Bytes) (ven : Bool)
    (req : Option Nat) (cluster : Option Nat) (slot : Option (Nat × Nat)) : State :=
  let w : Work := { id := s.pool.nextWork, plank := plank, goal := goal, stage := stage, rank := rank, old := s.mapEntry plank,
                    cluster := cluster, data := data, ven := ven, req := req, slot := slot, obj := s.objectAt (plank * plankBytes),
                    place := none, tries := 0, sent := false }
  s.withPool { s.pool with works := s.pool.works ++ [w], nextWork := s.pool.nextWork + 1 }

end Sys2Proof.Machine
end

