-- ==== Sys2Proof/Machine/TrayOps.lean ====
section
/-!
DEFINITION. Flash trays' shared operations (07 R225 to R256): tray frames, commands and their queues, blocks and their
placement, the sealed layout of a plank, notes.
-/
namespace Sys2Proof.Machine

def State.tray (s : State) (t : Nat) : Tray := s.pool.trays.get Tray.reset t
def State.setTray (s : State) (t : Nat) (x : Tray) : State :=
  s.withPool { s.pool with trays := s.pool.trays.put Tray.reset t x }

/-- Trays LIVE or FULL. -/
def Tray.inUse (x : Tray) : Bool := x.state == .live || x.state == .full

/-! Frames (R228 to R230). -/

/-- A tray frame header (R229). -/
def trayHeader (addr len status param opcode sectors queue id : Nat) : BitVec 128 :=
  BitVec.ofNat 32 addr ++ BitVec.ofNat 16 len ++ BitVec.ofNat 8 status ++ BitVec.ofNat 8 param ++ BitVec.ofNat 8 opcode
    ++ BitVec.ofNat 4 sectors ++ BitVec.ofNat 2 queue ++ BitVec.ofNat 9 id ++ (0 : BitVec 39) ++ (1 : BitVec 2)

/-- Header and payload with their check (R228). -/
def trayCheck (head : BitVec 128) (data : Bytes) : Word := crc32c (leBytes 16 head.toNat ++ data)

/-- Put the bytes of a frame of another kind into a queue toward a port (R228). -/
def State.enqueueRaw (s : State) (p : Port) (c : Cls) (bs : Bytes) : State :=
  let e : QEntry := { id := s.sw.nextId, input := injectIn (clusterOf p), half1 := false, dest := .port p, toHalf1 := none,
                      cls := c, hdr := BitVec.ofNat 256 (leNat (byteRun bs 0 32)), bytes := bs,
                      flits := (bs.length + 239) / 240, whole := true, short := false, saf := false, eligible := true,
                      sent := 0, lastAt := 0, tick := s.bell.ticks, bound := s.bell.bounds, len := s.bell.len,
                      crossed := false, past := false }
  s.withSw { s.sw with queue := s.sw.queue ++ [e], nextId := s.sw.nextId + 1 }

/-- Depth of a tray queue (R231). -/
def queueDepth (q : Nat) : Nat := if q = 0 then 256 else if q = 1 then 64 else if q = 2 then 128 else 64

/-- Room for one more command in a queue: a timed-out command still holds its place (R233). -/
def Tray.room (x : Tray) (q : Nat) : Bool := decide ((x.cmds.filter (fun c => c.queue == q)).length < queueDepth q)

/-- The lowest CMD_ID that no open command of a queue has. -/
def Tray.cmdId (x : Tray) (q : Nat) : Nat :=
  let used := (x.cmds.filter (fun c => c.queue == q)).map (·.id)
  ((List.range 512).find? (fun n => !used.contains n)).getD 0

/-- Send one command to a tray (R230, R231). -/
def State.sendCmd (s : State) (t q opcode param addr sectors : Nat) (payload : Bytes) (why : CmdFor) (again : Bool) : State :=
  let x := s.tray t
  let id := x.cmdId q
  let cmd : TrayCmd := { queue := q, id := id, opcode := opcode, addr := addr, sectors := sectors, why := why,
                         data := payload, at_ := s.bell.bounds, again := again, timedOut := false }
  let head := trayHeader addr payload.length 0 param opcode sectors q id
  let bytes := leBytes 16 head.toNat ++ payload ++ leBytes 4 (trayCheck head payload).toNat
  let s := s.setTray t { x with cmds := x.cmds ++ [cmd] }
  match portOf x.port with
  | some p => s.enqueueRaw p ⟨(4 + q) % 8, Nat.mod_lt _ (by decide)⟩ bytes
  | none => s

/-- Raise a bit of TRAY_ERR (R257, R258). -/
def State.raiseTray (s : State) (b t : Nat) : State :=
  s.raise Reg.trayErr b [(Reg.trayErrCapture, BitVec.ofNat 32 ((s.tray t).port * 2 ^ 16 + t * 2 ^ 8 + b))]

/-- Raise a note (R255): the record, and a NOTE event to both hosts. -/
def State.note (s : State) (b t : Nat) : State :=
  (s.record Reg.trayNotes b [(Reg.trayNoteCapture, BitVec.ofNat 32 (t * 2 ^ 8 + b))] []).postEvent 0x02 b t []

/-- Raise or drop a note with a threshold: it is raised when its quantity crosses (R255). -/
def State.crossNote (s : State) (b t : Nat) (past : Bool) : State :=
  let x := s.tray t
  if past == bit x.past b then s
  else
    let s := s.setTray t { x with past := if past then setBit x.past b else clrBit x.past b }
    if past then s.note b t else s

/-! Blocks (R250 to R254). -/

def Tray.block (x : Tray) (b : Nat) : Block := x.blocks.get Block.reset b
def Tray.setBlock (x : Tray) (b : Nat) (k : Block) : Tray := { x with blocks := x.blocks.put Block.reset b k }

/-- Blocks that are not retired, free ones among them, and valid sectors. -/
def Tray.goodBlocks (x : Tray) : Nat := x.total - (x.blocks.filter (fun p => p.2.state == .retired)).length
def Tray.freeBlocks (x : Tray) : Nat := x.total - (x.blocks.filter (fun p => p.2.state != .free)).length
def Tray.validSectors (x : Tray) : Nat := (x.blocks.map (fun p => p.2.valid)).sum

/-- Whether an open command addresses a block (R238). -/
def Tray.busyBlock (x : Tray) (b : Nat) : Bool := x.cmds.any (fun c => (c.opcode == 0x10 || c.opcode == 0x11 || c.opcode == 0x12)
  && c.addr / x.perBlock == b)

/-- The free block with the fewest erases, then the lowest number, of one parallel unit or of all (R252). -/
def Tray.bestFree (x : Tray) (unit : Option Nat) : Option Nat :=
  let step := match unit with
    | some _ => x.units
    | none => 1
  let first := unit.getD 0
  let fresh := ((List.range (x.blocks.length + x.cmds.length + 1)).map (fun i => first + i * step)).filter (fun b =>
    decide (b < x.total) && (x.blocks.find b).isNone && !x.busyBlock b)
  let cand := fresh.take 1 ++ ((x.blocks.filter (fun p => p.2.state == .free && p.1 % step == first % step)).map (·.1)).filter
    (fun b => !x.busyBlock b)
  cand.foldl (fun acc b => match acc with
    | none => some b
    | some a => if (x.block b).erases < (x.block a).erases || ((x.block b).erases == (x.block a).erases && b < a)
        then some b else acc) none

/-- R244: a LIVE tray takes a demotion of n sectors. -/
def Tray.takes (x : Tray) (n : Nat) : Bool :=
  x.state == .live && decide (x.goodBlocks ≤ x.freeBlocks * 200) && decide (x.validSectors + n ≤ x.share * 262144)

/-- The tray of the next demotion, in round robin (R244). -/
def State.demotionTray (s : State) (n : Nat) : Option Nat :=
  let order := (List.range 32).map (fun i => (s.pool.nextTray + i) % 32)
  order.find? (fun t => (s.tray t).takes n)

/-- Programmed sectors become valid. -/
def State.validate (s : State) (t loc n : Nat) : State :=
  let x := s.tray t
  let b := loc / x.perBlock
  let k := x.block b
  s.setTray t (x.setBlock b { k with valid := k.valid + n })

/-- SPARE_LEFT (R256, byte 4): rounded down. -/
def Tray.spareLeft (x : Tray) : Nat :=
  let share : Int := x.share * 262144 * 1000
  let good : Int := x.goodBlocks * x.perBlock * 995
  let initial : Int := (x.total - x.initialBad) * x.perBlock * 995
  if initial ≤ share then 0 else (max 0 (min 100 (100 * (good - share) / (initial - share)))).toNat

/-- WEAR_USED (R256, byte 5): over the good blocks, rounded down. -/
def Tray.wearUsed (x : Tray) : Nat :=
  let sum := ((x.blocks.filter (fun p => p.2.state != .retired)).map (·.2.erases)).sum
  min 255 (100 * sum / max 1 (x.goodBlocks * x.rated))

/-- SPARE_LOW and WEAR_HIGH, whose quantities are counts of the tray's blocks (R255). -/
def State.crossShare (s : State) (t : Nat) : State :=
  let th := (s.rd Reg.trayNoteThresh0).toNat
  let s := s.crossNote 0 t (decide ((s.tray t).spareLeft < bits th 7 0))
  s.crossNote 1 t (decide (bits th 15 8 < (s.tray t).wearUsed))

/-- Retire a block (R253); a tray left without spare becomes FULL (R254), and the grown-bad and spare notes follow. -/
def State.retireBlock (s : State) (t b : Nat) : State :=
  let x := s.tray t
  let k := x.block b
  if k.state == .retired then s
  else
    let open' := (x.openBlock.map (fun p => (p.1, if p.2 == some b then none else p.2))).filter (fun p => p.2.isSome)
    let x := { x.setBlock b { k with state := .retired } with
      openBlock := open', reloc := if x.reloc == some b then none else x.reloc, grown := x.grown + 1 }
    let s := (s.setTray t x).bump (Reg.trayTRetired t)
    let step := max 1 (bits (s.rd Reg.trayNoteThresh1).toNat 31 16)
    let s := if x.grown % step == 0 then s.note 4 t else s
    let s := s.crossShare t
    let good := x.goodBlocks * x.perBlock
    if x.state == .live && decide (good * 995 / 1000 < x.validSectors + x.perBlock) then
      (s.setTray t { x with state := .full }).note 7 t
    else s

/-- A block without valid sectors and open commands: a closed one becomes free, a suspect one retires (R250). -/
def State.settleBlock (s : State) (t b : Nat) : State :=
  let x := s.tray t
  let k := x.block b
  if k.valid != 0 || x.busyBlock b then s
  else if k.state == .closed then s.setTray t (x.setBlock b { k with state := .free, next := 0 })
  else if k.state == .suspect then s.retireBlock t b
  else s

/-- Sectors of a former copy become invalid. -/
def State.invalidate (s : State) (t loc n : Nat) : State :=
  let x := s.tray t
  let b := loc / x.perBlock
  let k := x.block b
  (s.setTray t (x.setBlock b { k with valid := k.valid - n })).settleBlock t b

/-- Close a block: nothing more is programmed into it until it has been erased again. -/
def State.closeBlock (s : State) (t b : Nat) : State :=
  let x := s.tray t
  let k := x.block b
  if k.state == .open_ then
    let open' := (x.openBlock.map (fun p => (p.1, if p.2 == some b then none else p.2))).filter (fun p => p.2.isSome)
    (s.setTray t { x.setBlock b { k with state := .closed } with
      openBlock := open', reloc := if x.reloc == some b then none else x.reloc }).settleBlock t b
  else s

/-- Ask for a free block to be erased, that it may be opened (R250). -/
def State.askErase (s : State) (t : Nat) (unit : Option Nat) (reloc : Bool) : State :=
  let x := s.tray t
  let going := x.cmds.any (fun c => match c.why with
    | .erase b r => r == reloc && !c.timedOut && (reloc || b % x.units == unit.getD 0)
    | _ => false)
  if going || !x.room 3 then s
  else
    match x.bestFree unit with
    | some b => s.sendCmd t 3 0x12 0 (b * x.perBlock) 0 [] (.erase b reloc) false
    | none => s

/-- The parallel unit that the next demotion takes: the next in round robin with an open or a free block (R243). -/
def Tray.unitFor (x : Tray) : Option Nat :=
  ((List.range x.units).map (fun i => (x.nextUnit + i) % x.units)).find? (fun u =>
    (x.openBlock.get none u).isSome || (x.bestFree (some u)).isSome)

/-- Sectors for n sectors of a demotion: the MEDIA_ADDR and the state with them allotted; none while a block is being
erased for it (R243, R250). -/
def State.placeDemotion (s : State) (t n : Nat) : Option Nat × State :=
  let x := s.tray t
  match x.unitFor with
  | none => (none, s)
  | some u =>
    match x.openBlock.get none u with
    | none => (none, s.askErase t (some u) false)
    | some b =>
      let k := x.block b
      if k.next + n ≤ x.perBlock then
        let y := { x.setBlock b { k with next := k.next + n } with nextUnit := (u + 1) % x.units }
        (some (b * x.perBlock + k.next), s.setTray t { y with sectDemote := y.sectDemote + n })
      else
        (none, (s.closeBlock t b).askErase t (some u) false)

/-- Sectors for n sectors of a relocation (R250, R252). -/
def State.placeMove (s : State) (t n : Nat) (wear : Bool) : Option Nat × State :=
  let x := s.tray t
  match x.reloc with
  | none => (none, s.askErase t none true)
  | some b =>
    let k := x.block b
    if k.next + n ≤ x.perBlock then
      let y := x.setBlock b { k with next := k.next + n }
      (some (b * x.perBlock + k.next),
        s.setTray t (if wear then { y with sectWear := y.sectWear + n } else { y with sectGc := y.sectGc + n }))
    else
      (none, (s.closeBlock t b).askErase t none true)

/-! The layout of a plank on flash (R239, R245, R247). -/

/-- Sectors of a stored length (R239). -/
def sectorsFor (len : Nat) : Nat := (len + 4095) / 4096

/-- The drawer that covers a local offset, LENT or RECALLING. -/
def State.drawerAt (s : State) (o : Nat) : Nat :=
  ((s.drawerTable.find? (fun p => drwState p.2 != 0 && drwBase p.2 ≤ o && o < drwBase p.2 + drwSize p.2)).map (·.1)).getD 0

/-- The flash tweak (R245). -/
def flashTweak (plank : Nat) (version : BitVec 16) (keyGen : Nat) : Bytes :=
  leBytes 16 (plank % 2 ^ 33 + version.toNat * 2 ^ 48 + keyGen % 65536 * 2 ^ 64 + 2 ^ 80)

/-- The tag of one sector (R239). -/
def sectorTag (index : Nat) (version : BitVec 16) (pos count : Nat) (ven : Bool) (len : Nat) (mac : Bytes) : Bytes :=
  leBytes 4 index ++ leBytes 2 version.toNat ++ leBytes 1 (pos + 8 * (count - 1) + 64 * b2n ven) ++ [1] ++ leBytes 4 len
    ++ leBytes 4 0 ++ (if pos = 0 then byteRun mac 0 16 else leBytes 16 0)

/-- The payload of a PROGRAM: sealed sectors with their tags (R239, R245). -/
def State.sealPlank (s : State) (plank : Nat) (version : BitVec 16) (ven : Bool) (stored : Bytes) : Bytes :=
  let d := s.drawerAt (plank * plankBytes)
  let n := s.mort.shreds.get 0 d
  let sealed := Config.flashSeal s.boot.root d n (flashTweak plank version n) stored
  let count := sectorsFor stored.length
  (List.range count).flatMap (fun i =>
    byteRun sealed.1 (4096 * i) 4096 ++ sectorTag (mapIndex plank) version i count ven stored.length sealed.2)

/-- What the check of a copy finds (R247). -/
inductive Copy where
  | good (stored : Bytes)
  /-- INDEX or VERSION differs. -/
  | misplaced
  /-- The MAC fails. -/
  | broken
  /-- Another part of a tag does not fit. -/
  | unfit
  deriving DecidableEq, Repr

/-- Check a copy read from flash against its map entry (R247). -/
def State.openPlank (s : State) (plank : Nat) (e : MapEntry) (data : Bytes) : Copy :=
  let tag := fun i => byteRun data (4128 * i + 4096) 32
  let version := e.version
  let named := (List.range e.size).all (fun i =>
    field (tag i) 0 4 == mapIndex plank && field (tag i) 4 2 == version.toNat)
  let placed := (List.range e.size).all (fun i => field (tag i) 6 1 % 128 == i + 8 * (e.size - 1) + 64 * b2n e.ven)
  let len := field (tag 0) 8 4
  if data.length == 4128 * e.size && !named then .misplaced
  else if data.length != 4128 * e.size || !placed || sectorsFor len != e.size
      || (List.range e.size).any (fun i => field (tag i) 8 4 != len) then .unfit
  else
    let d := s.drawerAt (plank * plankBytes)
    let n := s.mort.shreds.get 0 d
    let cipher := ((List.range e.size).flatMap (fun i => byteRun data (4128 * i) 4096)).take len
    match Config.flashOpen s.boot.root d n (flashTweak plank version n) cipher (byteRun (tag 0) 16 16) with
    | some stored => .good stored
    | none => .broken

end Sys2Proof.Machine
end

