-- ==== Sys2Proof/Machine/ServeOps.lean ====
section
/-!
DEFINITION. Service of a request that has passed the mortise check, in an owned region (04 R136; 06 R191, R192, R202 to R207;
08 R261, R277 to R280): the effect on memory, or the migration work for which the request waits; completion and retry.
-/
namespace Sys2Proof.Machine

/-- The answer to a request: status, data and completion FLAGS. -/
structure Answer where
  status : BitVec 8
  data : Bytes
  flags : BitVec 8
  deriving DecidableEq, Repr

/-! Opcodes (R132). -/
def isAtomic (op : BitVec 8) : Bool := decide (0x10 ≤ op) && decide (op ≤ 0x17)
/-- The model's own opcodes for the flag write of a release: store and add (R269). -/
def isFlagOp (op : BitVec 8) : Bool := op == 0x1E || op == 0x1F
def isPlankOp (op : BitVec 8) : Bool := op == 0x20 || op == 0x21 || op == 0x22
def isRead (op : BitVec 8) : Bool := op == 0x01 || op == 0x20
/-- Extent of a memory operation (R147). -/
def opExtent (op : BitVec 8) : Nat := if isPlankOp op then plankBytes else 128
/-- FLAGS.VEN. -/
def frameVen (f : Frame) : Bool := bit f.flags 3

/-- Bytes of an atomic's operand (R131). -/
def atomicSize (f : Frame) : Nat := if bit f.flags 0 then 16 else 8

/-- Two's complement value of n bytes. -/
def signedOf (n v : Nat) : Int := if v < 2 ^ (8 * n - 1) then (v : Int) else (v : Int) - 2 ^ (8 * n)

/-- The new value of an atomic's operand (R132, R136): `x` is the first value of the payload, `y` the second. -/
def atomicNew (f : Frame) (n old x y : Nat) : Nat :=
  let less := if bit f.flags 1 then decide (signedOf n x < signedOf n old) else decide (x < old)
  match f.opcode with
  | 0x10 => (old + x) % 2 ^ (8 * n)
  | 0x11 => if less then x else old
  | 0x12 => if less then old else x
  | 0x13 => x
  | 0x14 => if old = x then y else old
  | 0x15 => old &&& x
  | 0x16 => old ||| x
  | 0x17 => old ^^^ x
  | 0x1E => x
  | 0x1F => (old + x) % 2 ^ (8 * n)
  | _ => old

/-- The lines that a write-type request writes, by offset within its plank (R132). -/
def linesOf (f : Frame) (rel : Nat) : List LineWrite :=
  match f.opcode with
  | 0x02 => [⟨rel, fullMask, f.payload⟩]
  | 0x04 => [⟨rel, fullMask, f.payload⟩]
  | 0x03 => [⟨rel, BitVec.ofNat 128 (field f.payload 0 16), f.payload.drop 16⟩]
  | 0x05 => [⟨rel, BitVec.ofNat 128 (field f.payload 0 16), f.payload.drop 16⟩]
  | 0x21 => (List.range 256).map (fun i => ⟨128 * i, fullMask, byteRun f.payload (128 * i) 128⟩)
  | 0x22 =>
    let mask := BitVec.ofNat 256 (field f.payload 0 32)
    let set := (List.range 256).filter (fun i => bit mask i)
    (set.zip (List.range set.length)).map (fun p => ⟨128 * p.1, fullMask, byteRun f.payload (32 + 128 * p.2) 128⟩)
  | _ => []

/-- A read, a write or an atomic on the bytes at a physical base of its plank (R136, R214). `rel` is the offset of the request
within the plank. -/
def State.memOp (s : State) (f : Frame) (rel base : Nat) : Answer × State :=
  let line := rel / 128 * 128
  if isAtomic f.opcode || isFlagOp f.opcode then
    match s.lineBad (base + line) with
    | 0 =>
      let n := if isFlagOp f.opcode then 8 else atomicSize f
      let old := leNat (s.memRead (base + rel) n)
      let new := atomicNew f n old (field f.payload 0 n) (field f.payload n n)
      (⟨St.ok, if isFlagOp f.opcode then [] else leBytes n old, 0⟩, s.memWrite (base + rel) (leBytes n new))
    | _ => (⟨St.media, [], 0⟩, s.badRead (base + line))
  else if isRead f.opcode then
    let at_ := if f.opcode == 0x20 then base else base + line
    let n := opExtent f.opcode
    match s.badIn at_ n with
    | [] => (⟨St.ok, s.memRead at_ n, 0⟩, s)
    | bad => (⟨St.media, [], 0⟩, bad.foldl (fun s a => s.badRead a) s)
  else
    match s.writeLines base (linesOf f line) with
    | (some s', _) => (⟨St.ok, [], 0⟩, s')
    | (none, s') => (⟨St.media, [], 0⟩, s')

/-- Zeros for a read, as long as its completion's data (R192). -/
def zeroAnswer (f : Frame) (zf : Bool) : Answer :=
  ⟨St.ok, List.replicate (if f.opcode == 0x20 then plankBytes else 128) 0, if zf then 4 else 0⟩

/-- A request to WINDOW or STACK (R191): an unwritten plank reads as zeros and its first write zero-fills it. -/
def State.directOp (s : State) (f : Frame) (o : Nat) : Answer × State :=
  let plank := o / plankBytes
  let base := physical (plank * plankBytes)
  if s.pool.written.get false plank then s.memOp f (o % plankBytes) base
  else if isRead f.opcode then (zeroAnswer f false, s)
  else
    let s := s.zeroPlank base
    (s.withPool { s.pool with written := s.pool.written.put false plank true }).memOp f (o % plankBytes) base

/-! Acquire reads and tags (R277 to R280). -/

/-- Capture and count of an acquire that was wider than its release (R279). -/
def State.scopeWarn (s : State) (f : Frame) (t : RelTag) (o : Nat) : State :=
  let addr : Dword := ((0 : BitVec 4) ++ s.swNum ++ BitVec.ofNat 48 (o / 128 * 128))
  (s.bump Reg.ordScopeWarn).raiseCap Reg.ordErr 0 []
    [(Reg.ordScopeRel, (0 : BitVec 4) ++ t.srcSwitch ++ (0 : BitVec 6) ++ t.srcUnit),
     (Reg.ordScopeAcq, (0 : BitVec 4) ++ f.srcSwitch ++ (0 : BitVec 6) ++ f.srcUnit),
     (Reg.ordScopeInfo, t.job ++ (0 : BitVec 16) ++ f.scope ++ t.scope),
     (Reg.ordScopeAddrLo, addr.extractLsb' 0 32), (Reg.ordScopeAddrHi, addr.extractLsb' 32 32)]

/-- The acquire check of a read or atomic that has succeeded (R277, R279, R280): SCOPE replaces OK. -/
def State.acquireCheck (s : State) (f : Frame) (o : Nat) (a : Answer) : Answer × State :=
  if !(f.opcode == 0x01 || isAtomic f.opcode) || f.scope == 0 then (a, s)
  else
    match s.pool.tags.find (lineOf o) with
    | none => (a, s.bump Reg.ordUntaggedAcq)
    | some t =>
      if t.scope < f.scope then (if a.status == St.ok then { a with status := St.scope } else a, s.scopeWarn f t o) else (a, s)

/-- Record the tag of a release that has been performed (R278); a full set loses its oldest entry. -/
def State.recordTag (s : State) (f : Frame) (o : Nat) : State :=
  let bench := f.srcSwitch == s.swNum && decide (256 ≤ f.srcUnit.toNat) && decide (f.srcUnit.toNat < 424)
  let scope : BitVec 2 := if f.scope < 2 && !bench then 2 else f.scope
  let line := lineOf o
  let t : RelTag := { job := f.job, srcSwitch := f.srcSwitch, srcUnit := f.srcUnit, scope := scope, age := s.pool.tagCount }
  let set := s.pool.tags.filter (fun p => p.1 % 16384 == line % 16384)
  let first := set.foldl (fun acc p => match acc with
    | none => some p
    | some b => if p.2.age < b.2.age then some p else acc) none
  let s := match first with
    | some b => if set.length < 16 then s
      else ((s.withPool { s.pool with tags := s.pool.tags.erase b.1 }).bump Reg.ordTagEvict).raise Reg.ordErr 3
    | none => s
  s.withPool { s.pool with tags := s.pool.tags.insert line t, tagCount := s.pool.tagCount + 1 }

/-- Effects of a successful access on tags and caches (R202, R278): a write removes the tags of its lines and drops its plank
from the expand caches. -/
def State.afterAccess (s : State) (f : Frame) (o : Nat) (a : Answer) : Answer × State :=
  if !delivers a.status then (a, s)
  else
    let (a, s) := s.acquireCheck f o a
    if isRead f.opcode then (a, s)
    else
      let lines := if f.opcode == 0x22 then (linesOf f 0).map (fun w => o / plankBytes * plankBytes + w.at_)
        else if f.opcode == 0x21 then [] else [o]
      let s := if f.opcode == 0x21 then s.dropTags o plankBytes else lines.foldl (fun s l => s.dropTags (l / 128 * 128) 128) s
      let s := if isFlagOp f.opcode then s.recordTag f o else s
      (a, s.uncache (o / plankBytes))

/-! Completion of served requests (R140, R150, R270, R504). -/

/-- Lines that a request reads or writes (R504). -/
def lineCount (f : Frame) : Nat :=
  if f.opcode == 0x20 || f.opcode == 0x21 then 256
  else if f.opcode == 0x22 then (linesOf f 0).length else 1

/-- A guarded set after the completion of a request. -/
def Guard.ends (g : Guard) (id : Nat) (st : Status) : Guard :=
  if g.open_.contains id then
    { g with open_ := g.open_.erase id, failed := if st == St.ok then g.failed else g.failed.put 0 id st }
  else g

/-- A member of guarded sets has completed (R270, R271, R273). -/
def State.memberDone (s : State) (id : Nat) (st : Status) : State :=
  let gs := (s.pool.guards.map (fun g => g.ends id st)).filter (fun g => g.id != id)
  s.withPool { s.pool with guards := gs }

/-- Send the completion of a request and count it in its job's view. -/
def State.answer (s : State) (k : Fin 12) (c : Cls) (f : Frame) (a : Answer) : State :=
  let s := if delivers a.status then
      (if isRead f.opcode then s.addJob f.job 1 (lineCount f) else s.addJob f.job 2 (lineCount f))
    else s
  if delivers a.status then s.complete k c f a.status (cplHasData f) a.data a.flags Config.memoryUnit
  else s.refuse k c f a.status

/-- Complete a request that was open toward a drawer. -/
def State.endServed (s : State) (r : Served) (a : Answer) : State :=
  let s := s.withMort { s.mort with served := s.mort.served.filter (fun q => q.id != r.id) }
  (s.answer r.cluster r.cls r.frame a).memberDone r.id a.status

def State.servedOf (s : State) (id : Nat) : Option Served := s.mort.served.find? (fun r => r.id == id)

/-! TIERED planks (R202 to R207). -/

/-- Rank of a request's migration work (R205). -/
def workRank (c : Cls) : Nat := if c.val < 4 then 1 else 2

/-- The current slot of an object's stream, where it has one (R435, R440). -/
def State.currentSlot (s : State) (obj : BitVec 192) : Option (Nat × Nat) :=
  (s.pool.current.get none (objBasis obj)).map (fun g => (objBasis obj, g))

/-- Queue expansion work of a stored veneered plank; it holds a reference until it ends (R436). -/
def State.startExpand (s : State) (plank : Nat) (goal : Goal) (rank : Nat) (e : MapEntry) (req cluster : Option Nat) : State :=
  let bs := s.frameBytes e
  (s.startWork plank goal .expand rank bs true req cluster (some (venSlot bs))).takeRef (some (venSlot bs))

/-- Begin a promotion: the entry is MOVING toward a frame (R201, R241). -/
def State.startPromotion (s : State) (plank rank : Nat) : State :=
  let s := s.startWork plank .promote .media rank [] false none none none
  s.setEntry plank { s.mapEntry plank with state := .moving, up := true }

/-- R207: a write cancels a demotion; the plank is again what it was in its frame. -/
def State.cancelDemotion (s : State) (plank : Nat) : State :=
  match s.work plank with
  | none => s
  | some w =>
    let s := (s.endWork w).giveRef w.slot
    (s.setEntry plank { w.old with up := false }).bump Reg.poolDemoteCancel

/-- A PLANK_WRITE to a TIERED plank replaces it (R202, R448): at once where it is stored as it comes, else by coding work. -/
def State.replacePlank (s : State) (plank : Nat) (bs : Bytes) (ven : Bool) (ref : Option (Nat × Nat)) : Option State :=
  let e := s.mapEntry plank
  let own := if e.state == .stacked || e.state == .stackedV then some e.frame else none
  match (match own with
    | some f => some f
    | none => s.freeFrame) with
  | none => none
  | some f =>
    let s := if e.state == .flash then s.invalidate e.tray e.loc e.size else s
    let s := if ven then s.memWrite (s.frameBase f) bs else s.putPlank (s.frameBase f) bs
    let s := (s.takeFrame f plank).storeRef plank ref
    let e' : MapEntry := { e with state := if ven then .stackedV else .stacked, ven := ven, tray := 0, up := false, loc := 8 * f,
                                  size := if ven then (bs.length + 4095) / 4096 else 0 }
    some (((s.setEntry plank e').uncache plank).dropTags (plank * plankBytes) plankBytes)

/-- A request to a TIERED plank (R202). None: it waits, for work that now runs or for a frame. -/
def State.tieredOp (s : State) (r : Served) : Option Answer × State :=
  let f := r.frame
  let plank := r.offset / plankBytes
  let rel := r.offset % plankBytes
  let rank := workRank r.cls
  let e0 := s.mapEntry plank
  let s := if e0.state == .moving && !e0.up && !isRead f.opcode then s.cancelDemotion plank else s
  let e := s.mapEntry plank
  let obj := s.objectAt r.offset
  let inFrame := e.state == .stacked || e.state == .stackedV || (e.state == .moving && !e.up)
  if (s.pool.works.any (fun w => w.req == some r.id)) then (none, s)
  else if f.opcode == 0x21 then
    if e.state == .moving || (s.work plank).isSome then (none, s)
    else if (frameVen f) then
      (none, (s.startWork plank .store .expand rank f.payload true (some r.id) none (some (venSlot f.payload))).takeRef
        (some (venSlot f.payload)))
    else if veneerPolicy obj == 2 then
      let slot := s.currentSlot obj
      (none, (s.startWork plank .store .compress rank f.payload false (some r.id) none slot).takeRef slot)
    else
      match s.replacePlank plank f.payload false none with
      | some s' => (some ⟨St.ok, [], 0⟩, s')
      | none => (none, s)
  else if e.state == .zero || e.state == .discarded then
    if isRead f.opcode then (some (zeroAnswer f (e.state == .discarded)), s)
    else
      match s.freeFrame with
      | none => (none, s)
      | some fr =>
        let s := (s.zeroPlank (s.frameBase fr)).takeFrame fr plank
        let s := s.setEntry plank { e with state := .stacked, ven := false, loc := 8 * fr, size := 0 }
        let (a, s) := s.memOp f rel (s.frameBase fr)
        (some a, s)
  else if inFrame && !e.ven then
    let (a, s) := (s.touchFrame e.frame).memOp f rel (s.frameBase e.frame)
    (some a, s)
  else if inFrame then
    let s := s.touchFrame e.frame
    if f.opcode == 0x20 && (frameVen f) then
      let bs := s.frameBytes e
      (some ⟨St.ok, bs.take (field bs 14 2), 8⟩, s)
    else if f.opcode == 0x20 then (none, s.startExpand plank .read rank e (some r.id) none)
    else if f.opcode == 0x01 then
      match s.cached r.cluster.val plank with
      | some bs => (some ⟨St.ok, byteRun bs (rel / 128 * 128) 128, 0⟩, s.fillCache r.cluster.val plank bs)
      | none =>
        if s.pool.works.any (fun w => w.plank == plank && w.goal == .read && w.cluster == some r.cluster.val) then (none, s)
        else (none, s.startExpand plank .read rank e none (some r.cluster.val))
    else if (s.work plank).isSome then (none, s)
    else (none, s.startExpand plank .unpack rank e none none)
  else if e.state == .flash then
    if (s.tray e.tray).state == .lost then (some ⟨St.media, [], 0⟩, s.raise Reg.poolErr 4
      [(Reg.poolErrCapture, f.job ++ f.srcUnit ++ (0 : BitVec 2) ++ f.opcode)])
    else if f.opcode == 0x20 && objStream obj then
      (none, s.startWork plank .read .media rank [] false (some r.id) none none)
    else (none, s.startPromotion plank rank)
  else (none, s)

/-- An earlier request of the same originator and class to the same line still waits (R142, R261). -/
def State.blocked (s : State) (r : Served) : Bool :=
  let n := opExtent r.frame.opcode
  s.sw.passed.any (fun p => p.frame.opcode == 0x50 && decide (1 < field p.frame.payload 0 1) && decide (p.id < r.id)
    && p.cls == r.cls && p.frame.srcSwitch == r.frame.srcSwitch && p.frame.srcUnit == r.frame.srcUnit
    && p.drawer.isSome && decide (p.offset / 128 * 128 < r.offset / 128 * 128 + n)
    && decide (r.offset / 128 * 128 < p.offset / 128 * 128 + 128)) ||
  s.mort.served.any (fun q => decide (q.id < r.id) && (q.frame.opcode != 0x50 || field q.frame.payload 0 1 == 3) && q.cls == r.cls && q.frame.srcSwitch == r.frame.srcSwitch
    && q.frame.srcUnit == r.frame.srcUnit && decide (q.offset / 128 * 128 < r.offset / 128 * 128 + n)
    && decide (r.offset / 128 * 128 < q.offset / 128 * 128 + opExtent q.frame.opcode))

/-- A veneered PLANK_WRITE into WINDOW or STACK is expanded first (R448). -/
def State.expandFirst (s : State) (r : Served) : State :=
  if s.pool.works.any (fun w => w.req == some r.id) then s
  else
    let q := some (venSlot r.frame.payload)
    (s.startWork (r.offset / plankBytes) .store .expand (workRank r.cls) r.frame.payload true (some r.id) none q).takeRef q

/-- Serve a request in an owned region, or leave it to wait. -/
def State.attempt (s : State) (r : Served) : Option Answer × State :=
  if s.blocked r then (none, s)
  else
    let (a, s) := match s.region r.offset with
      | some .tiered => s.tieredOp r
      | _ =>
        if r.frame.opcode == 0x21 && frameVen r.frame then (none, s.expandFirst r)
        else let (a, s) := s.directOp r.frame r.offset; (some a, s)
    match a with
    | none => (none, s)
    | some a => let (a, s) := s.afterAccess r.frame r.offset a; (some a, s)

/-- Try again every request that waits on a plank or a frame, in the order in which they passed (R142, R204). -/
def State.retryWaiting (s : State) : State :=
  (s.mort.served.filter (fun r => r.wait == .promotion)).foldl (fun s r =>
    match s.servedOf r.id with
    | none => s
    | some r =>
      match s.attempt r with
      | (some a, s) => s.endServed r a
      | (none, s) => s) s

/-- Fail every request that waits on a plank's movement (R204, R447). -/
def State.failWaiting (s : State) (plank : Nat) (st : Status) : State :=
  (s.mort.served.filter (fun r => r.wait == .promotion && r.offset / plankBytes == plank)).foldl (fun s r =>
    s.endServed r ⟨st, [], 0⟩) s

/-- A request that has passed the mortise check in an owned region (R150). -/
def State.serveOwned (s : State) (r : Served) : State :=
  match s.attempt r with
  | (some a, s) => s.answer r.cluster r.cls r.frame a
  | (none, s) => s.withMort { s.mort with served := s.mort.served ++ [r] }

end Sys2Proof.Machine
end

