-- ==== Sys2Proof/Machine/EngineOps.lean ====
section
/-!
DEFINITION. The migration engines' and trays' transitions (06 R204 to R210; 07 R233, R242 to R247, R250 to R254): commands sent
as queues allow, completions acted on, commits by compare-and-swap, failures.
-/
namespace Sys2Proof.Machine

/-! Sending (R231, R243, R247). -/

/-- Send the PROGRAM of a demotion, when a tray and a place can be had (R243, R244). -/
def State.pumpDemotion (s : State) (w : Work) : State :=
  let n := sectorsFor w.data.length
  match s.demotionTray n with
  | none => s
  | some t =>
    if !(s.tray t).room 2 then s
    else
      match s.placeDemotion t n with
      | (none, s) => s
      | (some addr, s) =>
        let version := w.old.version + 1
        let s := s.sendCmd t 2 0x11 0 addr n (s.sealPlank w.plank version w.ven w.data) (.work w.id) false
        let s := s.withPool { s.pool with nextTray := (t + 1) % 32 }
        s.setWork { w with sent := true, place := some (t, addr) }

/-- Send the READ of a promotion or a stream (R247). -/
def State.pumpRead (s : State) (w : Work) : State :=
  let t := w.old.tray
  let q := if w.rank == 4 then 1 else 0
  if (s.tray t).room q && (s.tray t).inUse then
    (s.sendCmd t q 0x10 0 w.old.loc w.old.size [] (.work w.id) (w.tries != 0)).setWork { w with sent := true, place := some (t, w.old.loc) }
  else s

/-- Send what work can be sent, in the order of R205. -/
def State.pumpWorks (s : State) : State :=
  let ws := s.pool.works.filter (fun w => w.stage == .media && !w.sent)
  let order := [1, 2, 3, 4].flatMap (fun r => ws.filter (fun w => w.rank == r))
  order.foldl (fun s w => if w.goal == .demote then s.pumpDemotion w else s.pumpRead w) s

/-- Program relocated sectors that wait for a place (R250). -/
def State.pumpMoves (s : State) (t : Nat) : State :=
  (s.tray t).moves.foldl (fun s m =>
    let n := m.2.2.2.length / 4128
    if !(s.tray t).room 2 then s
    else
      match s.placeMove t n m.2.2.1 with
      | (none, s) => s
      | (some addr, s) =>
        let x := s.tray t
        (s.setTray t { x with moves := x.moves.erase m }).sendCmd t 2 0x11 0 addr n m.2.2.2 (.move m.1 m.2.1 m.2.2.1) false) s

/-- Send everything that can be sent. -/
def State.pump (s : State) : State := (s.pool.trays.map (·.1)).foldl (fun s t => s.pumpMoves t) s.pumpWorks

/-! Failures (R204, R243, R247, R253). -/

/-- Raise a bit of POOL_ERR; the capture names the request that caused it (R221, R222). -/
def State.raisePool (s : State) (b : Nat) (f : Option Frame) : State :=
  s.raise Reg.poolErr b [(Reg.poolErrCapture, match f with
    | some f => f.job ++ f.srcUnit ++ (0 : BitVec 2) ++ f.opcode
    | none => 0)]

/-- A block that returned ECC_UNCORR becomes suspect, and the UNCORR note is raised (R253, R255). -/
def State.suspectBlock (s : State) (t addr : Nat) : State :=
  let x := s.tray t
  let b := addr / x.perBlock
  let k := x.block b
  let s := if k.state == .closed || k.state == .open_ then
      let x := { x.setBlock b { k with state := .suspect } with reloc := if x.reloc == some b then none else x.reloc }
      let open' := x.openBlock.map (fun p => (p.1, if p.2 == some b then none else p.2))
      s.setTray t { x with openBlock := open'.filter (fun p => p.2.isSome) }
    else s
  s.note 5 t

/-- A promotion or stream cannot have its data (R204, R247): the plank stays FLASH, what waits gets MEDIA. -/
def State.readFailed (s : State) (w : Work) : State :=
  let waiter := (s.mort.served.find? (fun r => some r.id == w.req || r.offset / plankBytes == w.plank)).map (·.frame)
  let s := (s.endWork w).raisePool 4 waiter
  match w.req with
  | some id =>
    match s.servedOf id with
    | some r => s.endServed r ⟨St.media, [], 0⟩
    | none => s
  | none =>
    let s := if w.goal == .promote then s.setEntry w.plank w.old else s
    s.failWaiting w.plank St.media

/-- A PROGRAM has failed (R243): it is repeated elsewhere at most 3 times, then the demotion is cancelled. -/
def State.programFailed (s : State) (w : Work) : State :=
  if w.tries < 3 then s.setWork { w with tries := w.tries + 1, sent := false, place := none }
  else
    let s := (s.endWork w).giveRef w.slot
    let t := (w.place.map (·.1)).getD 0
    ((s.setEntry w.plank w.old).bump Reg.trayDemoteFail).raiseTray 6 t

/-! Commits (R206, R242, R243). -/

/-- The entry that work left behind when it began: a promotion or demotion is MOVING, other work leaves the entry. -/
def Work.expects (w : Work) : MapEntry :=
  match w.goal with
  | .promote => { w.old with state := .moving, up := true }
  | .demote => { w.old with state := .moving, up := false }
  | _ => w.old

/-- Commit a demotion: FLASH with the new version; the frame is freed (R243 step 6). A compression takes the tags (R286). -/
def State.commitDemotion (s : State) (w : Work) : State :=
  let s := s.endWork w
  match w.place with
  | none => s
  | some (t, addr) =>
    if s.mapEntry w.plank != w.expects then s.giveRef w.slot
    else
      let n := sectorsFor w.data.length
      let e : MapEntry := { w.old with version := w.old.version + 1, state := .flash, ven := w.ven, tray := t, size := n,
                                       up := false, loc := addr }
      let s := ((s.setEntry w.plank e).dropFrame w.old.frame).validate t addr n
      let s := if w.old.ven then s else s.storeRef w.plank w.slot
      let s := if w.ven && !w.old.ven then s.dropTags (w.plank * plankBytes) plankBytes else s
      ((s.uncache w.plank).bump Reg.poolDemotions).retryWaiting

/-- Put a plank's new form into a free frame and let the entry name it; none where no frame is free. -/
def State.settleFrame (s : State) (w : Work) : Option State :=
  match s.freeFrame with
  | none => none
  | some f =>
    let s := if w.ven then s.memWrite (s.frameBase f) w.data else s.putPlank (s.frameBase f) w.data
    let e : MapEntry := { w.old with state := if w.ven then .stackedV else .stacked, ven := w.ven, tray := 0, up := false,
                                     loc := 8 * f, size := if w.ven then (w.data.length + 4095) / 4096 else 0 }
    some ((s.takeFrame f w.plank).setEntry w.plank e)

/-- Commit a piece of work that is ready (R206): the destination whole, then the entry, then the source freed. -/
def State.commitWork (s : State) (w : Work) : State :=
  match w.goal with
  | .store =>
    match w.req.bind s.servedOf with
    | none => (s.endWork w).giveRef w.slot
    | some r =>
      if s.region r.offset != some .tiered then
        let plain : Frame := ⟨r.frame.hdr &&& ~~~((8 : BitVec 256) <<< 32), w.data, r.frame.check⟩
        let s := (s.endWork w).giveRef w.slot
        if r.shared then
          s.withMort { s.mort with served := s.mort.served.map (fun q =>
            if q.id == r.id then { q with frame := plain, wait := .directory } else q) }
        else
          let (a, s) := s.directOp plain r.offset
          let (a, s) := s.afterAccess plain r.offset a
          (s.endServed r a).retryWaiting
      else
      match s.replacePlank w.plank w.data w.ven (if w.ven then w.slot else none) with
      | none => s
      | some s =>
        let s := s.endWork w
        let s := if w.ven then s else s.giveRef w.slot
        (s.endServed r ⟨St.ok, [], 0⟩).retryWaiting
  | .promote =>
    if s.mapEntry w.plank != w.expects then ((s.endWork w).giveRef w.slot).retryWaiting
    else
      match s.settleFrame w with
      | none => s
      | some s =>
        let s := ((s.endWork w).invalidate w.old.tray w.old.loc w.old.size).giveRef w.slot
        let s := if w.ven then s else s.storeRef w.plank none
        (s.bump Reg.poolPromotions).retryWaiting
  | .unpack =>
    if s.mapEntry w.plank != w.expects then ((s.endWork w).giveRef w.slot).retryWaiting
    else
      match s.settleFrame w with
      | none => s
      | some s => ((((s.endWork w).dropFrame w.old.frame).giveRef w.slot).storeRef w.plank none).retryWaiting
  | .pack =>
    if s.mapEntry w.plank != w.expects || !w.ven then ((s.endWork w).giveRef w.slot).retryWaiting
    else
      match s.settleFrame w with
      | none => s
      | some s =>
        ((((s.endWork w).dropFrame w.old.frame).storeRef w.plank w.slot).dropTags (w.plank * plankBytes) plankBytes).retryWaiting
  | _ => s

/-- The work of an engine that is next in a stage, in the order of R205. -/
def State.nextWork (s : State) (e : Nat) (stage : Stage) : Option Work :=
  let ws := s.pool.works.filter (fun w => engineOf w.plank == e && w.stage == stage)
  ws.foldl (fun acc w => match acc with
    | none => some w
    | some b => if w.rank < b.rank then some w else acc) none

/-! Demotions (R208 to R210, R243, R246). -/

/-- Count a plank whose version is used up, once (R246). -/
def State.pin (s : State) (plank : Nat) : State :=
  if s.pool.pinned.get false plank then s
  else
    let s := s.withPool { s.pool with pinned := s.pool.pinned.put false plank true }
    (s.bump Reg.trayVersionPinned).raiseTray 7 0

/-- Begin a demotion of a plank in a frame (R243 steps 1 and 2, R439, R448). -/
def State.startDemotion (s : State) (plank rank : Nat) : State :=
  let e := s.mapEntry plank
  if !(e.state == .stacked || e.state == .stackedV) || (s.work plank).isSome then s
  else if e.version == 0xFFFF then s.pin plank
  else
    let obj := s.objectAt (plank * plankBytes)
    let bs := s.frameBytes e
    let s := if !e.ven && veneerPolicy obj != 0 then
        let slot := s.currentSlot obj
        (s.startWork plank .demote .compress rank bs false none none slot).takeRef slot
      else s.startWork plank .demote .media rank (if e.ven then bs.take (field bs 14 2) else bs) e.ven none none none
    s.setEntry plank { e with state := .moving, up := false }

/-- Begin a compression in place of a demotion (R439). -/
def State.startPack (s : State) (plank : Nat) : State :=
  let e := s.mapEntry plank
  let slot := s.currentSlot (s.objectAt (plank * plankBytes))
  (s.startWork plank .pack .compress 3 (s.frameBytes e) false none none slot).takeRef slot

/-- A request waits on a plank. -/
def State.wanted (s : State) (plank : Nat) : Bool :=
  s.mort.served.any (fun r => r.wait == .promotion && r.offset / plankBytes == plank)

/-- Cancel the work and free what a recalled or failed plank holds of the engines (R150 step 3). -/
def State.cancelWork (s : State) (w : Work) : State :=
  let s := (s.endWork w).giveRef w.slot
  if s.mapEntry w.plank == w.expects then s.setEntry w.plank w.old else s

/-! Completions of tray commands (R232, R233, R250). -/

/-- What a tray's status is taken for (R232). -/
inductive TrayResult where
  | ok
  /-- ECC_UNCORR of a READ; PROG_FAIL or ERASE_FAIL, with the block retired. -/
  | failed
  /-- BAD_BLOCK: failed, and the block retires whatever the command was (R253). -/
  | badBlock
  /-- Failed with no mark on the block. -/
  | dropped
  deriving DecidableEq, Repr

/-- The meaning of a status (R232, R253). -/
def trayResult (st : Nat) : TrayResult :=
  if st = 0 then .ok
  else if st = 4 then .badBlock
  else if st = 5 || st = 6 || st = 7 || st = 8 || st = 9 then .dropped
  else .failed

/-- The READ of a piece of work has ended. -/
def State.workRead (s : State) (t : Nat) (w : Work) (r : TrayResult) (data : Bytes) : State :=
  let addr := w.old.loc
  match r with
  | .ok =>
    match s.openPlank w.plank w.old data with
    | .good stored =>
      let obj := w.obj
      let keep := if w.goal == .promote then w.old.ven && veneerPolicy obj == 2
        else match w.req.bind s.servedOf with
          | some q => !w.old.ven || frameVen q.frame
          | none => true
      if w.old.ven && !keep then
        (s.setWork { w with data := stored, ven := true, stage := .expand, slot := some (venSlot stored) }).takeRef
          (some (venSlot stored))
      else if w.goal == .promote then s.setWork { w with data := stored, ven := w.old.ven, stage := .commit }
      else
        let s := (s.endWork w).bump Reg.poolStreams
        match w.req.bind s.servedOf with
        | some q => (s.endServed q ⟨St.ok, stored, if w.old.ven then 8 else 0⟩).retryWaiting
        | none => s
    | .misplaced => ((s.bump Reg.trayVersionFail).raiseTray 3 t).readFailed w
    | .broken => ((s.bump Reg.trayMacFail).raiseTray 2 t).readFailed w
    | .unfit => s.readFailed w
  | .failed => (s.suspectBlock t addr).readFailed w
  | .badBlock => (s.retireBlock t (addr / (s.tray t).perBlock)).readFailed w
  | .dropped => s.readFailed w

/-- The PROGRAM of a piece of work has ended. -/
def State.workProgrammed (s : State) (t addr : Nat) (w : Work) (r : TrayResult) : State :=
  match r with
  | .ok => s.commitDemotion w
  | .dropped => (s.closeBlock t (addr / (s.tray t).perBlock)).programFailed w
  | _ => (s.retireBlock t (addr / (s.tray t).perBlock)).programFailed w

/-- A relocated copy has been programmed: the entry names it, unless it has changed meanwhile (R242, R250). -/
def State.moveDone (s : State) (t addr plank loc : Nat) (n : Nat) : State :=
  let e := s.mapEntry plank
  if e.state == .flash && e.tray == t && e.loc == loc then
    ((s.setEntry plank { e with loc := addr }).validate t addr n).invalidate t loc n
  else s

/-- An erased block opens (R250). -/
def State.openErased (s : State) (t b : Nat) (reloc : Bool) : State :=
  let x := s.tray t
  let k := x.block b
  let x := x.setBlock b { k with state := .open_, erases := k.erases + 1, next := 0, valid := 0 }
  let x := { x with erasesSince := x.erasesSince + 1 }
  (s.setTray t (if reloc then { x with reloc := some b } else { x with openBlock := x.openBlock.put none (b % x.units) (some b) })).crossShare t

/-- An event of a tray (R237, R253, R255). -/
def State.trayEvent (s : State) (t param addr : Nat) : State :=
  if param = 1 then s.retireBlock t (addr / (s.tray t).perBlock)
  else if param = 2 || param = 3 then (s.setTray t { s.tray t with tempNow := addr }).note 2 t
  else if param = 4 then s.note 6 t
  else s

/-- Act on the end of a command (R233). -/
def State.cmdEnded (s : State) (t : Nat) (c : TrayCmd) (r : TrayResult) (param addr : Nat) (data : Bytes) : State :=
  match c.why with
  | .identify => s
  | .late => (s.bump Reg.mortLateDrop).raise Reg.mortErr 6
  | .log 3 =>
    let x := s.tray t
    let base := if x.health.isEmpty then field data 24 8 else x.corrBase
    if r == .ok then s.setTray t { x with health := byteRun data 0 64, corrBase := base } else s
  | .log 4 => if r == .ok then s.setTray t { s.tray t with temps := byteRun data 0 64 } else s
  | .log _ => s
  | .event =>
    let s := if r == .ok then s.trayEvent t param addr else s
    if (s.tray t).inUse then s.sendCmd t 3 0x03 0 0 0 [] .event false else s
  | .abort => s
  | .work id =>
    match s.pool.works.find? (fun w => w.id == id) with
    | none => s
    | some w => if c.opcode == 0x10 then s.workRead t w r data else s.workProgrammed t c.addr w r
  | .move plank loc wear =>
    if c.opcode == 0x10 then
      match r with
      | .ok => s.setTray t { s.tray t with moves := (s.tray t).moves ++ [(plank, loc, wear, data)] }
      | .badBlock =>
        let s := s.retireBlock t (c.addr / (s.tray t).perBlock)
        s.setTray t { s.tray t with unreadable := loc :: (s.tray t).unreadable }
      | .failed =>
        let s := s.suspectBlock t c.addr
        s.setTray t { s.tray t with unreadable := loc :: (s.tray t).unreadable }
      | .dropped => s
    else
      match r with
      | .ok => s.moveDone t c.addr plank loc c.sectors
      | .dropped => s.closeBlock t (c.addr / (s.tray t).perBlock)
      | _ =>
        let s := s.retireBlock t (c.addr / (s.tray t).perBlock)
        s.setTray t { s.tray t with moves := (s.tray t).moves ++ [(plank, loc, wear, c.data)] }
  | .erase b reloc =>
    match r with
    | .ok => s.openErased t b reloc
    | .dropped => s
    | _ => s.retireBlock t b

/-- Close a command and act on its end; victims that have become empty are settled, and what can be sent is sent. -/
def State.endCmd (s : State) (t : Nat) (c : TrayCmd) (r : TrayResult) (param addr : Nat) (data : Bytes) : State :=
  let x := s.tray t
  let s := s.setTray t { x with cmds := x.cmds.filter (fun q => !(q.queue == c.queue && q.id == c.id)) }
  let s := if c.timedOut then s else s.cmdEnded t c r param addr data
  let x := s.tray t
  let s := if x.perBlock = 0 then s else s.settleBlock t (c.addr / x.perBlock)
  s.pump

/-- A tray is lost (R227): its open commands fail as though each had timed out. -/
def State.loseTray (s : State) (t : Nat) : State :=
  let x := s.tray t
  let s := (s.setTray t { x with state := .lost, cmds := [], moves := [] }).raiseTray 0 t
  let s := (x.cmds.filter (fun c => !c.timedOut)).foldl (fun s c => match c.why with
    | .work id =>
      match s.pool.works.find? (fun w => w.id == id) with
      | none => s
      | some w => if c.opcode == 0x10 then s.readFailed w else s.programFailed w
    | _ => s) s
  let dead := s.pool.works.filter (fun w => w.stage == .media && !w.sent && w.goal != .demote && w.old.tray == t)
  (dead.foldl (fun s w => s.readFailed w) s).pump

end Sys2Proof.Machine
end

