-- ==== Sys2Proof/Machine/DirOps.lean ====
section
/-!
DEFINITION. The directory (09 R290 to R316): arrival of requests, the home table of R305, snoops and answers, grants and
completions, the hold pool, poisoning.
-/
namespace Sys2Proof.Machine

def State.dirEntry (s : State) (line : Nat) : DirEntry := s.dir.entries.get DirEntry.reset line

/-- Write an entry; a line that becomes UNCACHED has none. -/
def State.setDir (s : State) (line : Nat) (e : DirEntry) : State :=
  let e := if e.state == .uncached then DirEntry.reset else { e with used := s.bell.ticks }
  s.withDir { s.dir with entries := s.dir.entries.put DirEntry.reset line e }

/-- Agent identifier (R294). -/
def agentId (sw : BitVec 12) (port : Nat) : AgentId := sw ++ BitVec.ofNat 8 port
def agentSwitch (a : AgentId) : BitVec 12 := a.extractLsb' 8 12
def agentPort (a : AgentId) : Nat := (a.extractLsb' 0 8).toNat

/-- REQ_CLASS and SNP_CLASS in force (R297): equal fields act as 6 and 7. -/
def State.dirClasses (s : State) : Cls × Cls :=
  let v := (s.rd Reg.dirCfg).toNat
  if bits v 6 4 == bits v 2 0 then (6, 7)
  else (⟨bits v 2 0 % 8, Nat.mod_lt _ (by decide)⟩, ⟨bits v 6 4 % 8, Nat.mod_lt _ (by decide)⟩)

/-- Pool address of a line. -/
def State.lineAddr (s : State) (line : Nat) : Dword := (0 : BitVec 4) ++ s.swNum ++ BitVec.ofNat 48 (line * 128)

/-- Raise a bit of DIR_ERR (R317, R318). -/
def State.raiseDir (s : State) (b : Nat) (a : AgentId) (line : Nat) : State :=
  let addr := s.lineAddr line
  s.raise Reg.dirErr b
    [(Reg.dirErrCapture, (0 : BitVec 4) ++ agentSwitch a ++ BitVec.ofNat 8 (agentPort a) ++ BitVec.ofNat 8 b),
     (Reg.dirErrAddrLo, addr.extractLsb' 0 32), (Reg.dirErrAddrHi, addr.extractLsb' 32 32)]

/-! Memory of the home (R305, R308). -/

/-- A frame that carries an operation only. -/
def opFrame (op : BitVec 8) (payload : Bytes) : Frame := ⟨op.setWidth 256 <<< 8, payload, 0⟩

/-- The line as memory holds it; none when its read ends with MEDIA. -/
def State.lineData (s : State) (line : Nat) : Option Bytes × State :=
  let (a, s) := s.directOp (opFrame 0x01 []) (line * 128)
  (if a.status == St.ok then some a.data else none, s)

/-- Write a whole line at the home. -/
def State.putLine (s : State) (line : Nat) (bs : Bytes) : State :=
  ((s.directOp (opFrame 0x02 bs) (line * 128)).2).dropTags (line * 128) 128

/-! Messages (R298 to R301). -/

/-- The 16-byte block of R298, with the line where it carries one. -/
def dirBlock (subtype grant : Nat) (agent : AgentId) (line : Bytes) : Bytes :=
  [BitVec.ofNat 8 subtype, BitVec.ofNat 8 grant, 0, 0] ++ leBytes 2 (agentSwitch agent).toNat
    ++ leBytes 1 (agentPort agent) ++ List.replicate 9 0 ++ line

/-- Deliver a snoop to an agent of this switch (R300). -/
def State.deliverSnoop (s : State) (f : Frame) (agent : AgentId) (line : Nat) : State :=
  match portOf (agentPort agent) with
  | some p => if s.role p == 1 && s.portActive p then s.toPort p none s.dirClasses.2 f else s.raiseDir 3 agent line
  | none => s.raiseDir 3 agent line

/-- Drawer of a line: the one that covers it, or that a purge is clearing (R316). -/
def State.drawerOfLine (s : State) (line : Nat) : Nat :=
  match s.dir.purges.find? (fun p => p.2.1 ≤ line && line < p.2.2.1) with
  | some p => p.1
  | none => s.drawerAt (line * 128)

/-- Send a snoop (R300): the directory's own SEQ, TAG 0, SRC_UNIT 768, the JOB of the drawer. -/
def State.sendSnoop (s : State) (line : Nat) (agent : AgentId) (kind : BitVec 8) : Snoop × State :=
  let seq := BitVec.ofNat 32 s.dir.seq
  let s := s.withDir { s.dir with seq := (s.dir.seq + 1) % 2 ^ 32 }
  let job := BitVec.ofNat 12 (drwJob (s.drawer (s.drawerOfLine line)))
  let hdr := HdrFields.pack { addr := s.lineAddr line, seq := seq, len := 16, dest := agentSwitch agent, srcSwitch := s.swNum,
                              srcUnit := 768, tag := 0, job := job, opcode := 0x48, ak := true }
  let f := Frame.sealed hdr (dirBlock kind.toNat 0 agent [])
  let s := s.bump (if kind == 0x10 then Reg.dirInvSent else Reg.dirRecallSent)
  let s := if agentSwitch agent == s.swNum then s.deliverSnoop f agent line
    else match s.routeOut (agentSwitch agent) s.dirClasses.2 with
      | some p => s.toPort p none s.dirClasses.2 f
      | none => s.noRoute (injectIn 0) (agentSwitch agent) s.dirClasses.2
  (⟨agent, seq, kind, s.bell.bounds⟩, s)

/-- Send snoops of one kind to several agents. -/
def State.sendSnoops (s : State) (line : Nat) (agents : List AgentId) (kind : BitVec 8) : List Snoop × State :=
  agents.foldl (fun acc a => let (n, s) := acc.2.sendSnoop line a kind; (acc.1 ++ [n], s)) ([], s)

/-- Record the age of a request at its completion (R311, R317). -/
def State.ageSeen (s : State) (q : DirReq) : State :=
  let age := BitVec.ofNat 32 (s.bell.bounds - q.at_)
  if (s.rd Reg.dirMaxAge) < age then s.wr Reg.dirMaxAge age else s

/-- Complete an agent's request (R297, R298): a grant with or without the line, or a status. -/
def State.dirAnswer (s : State) (q : DirReq) (st : Status) (grant : Nat) (line : Bytes) : State :=
  match q.frame with
  | none => s
  | some f =>
    let sub := field f.payload 0 1
    let s := (if grant = 0 then s else s.bump Reg.dirGrants).ageSeen q
    let put := sub == 4 || sub == 5
    s.complete q.cluster s.dirClasses.2 f st (!put) (if put then [] else dirBlock sub grant 0 line) 0 768

/-! Lines of cache-less requests (R292). -/

/-- The lines that a request touches: local offset of the line and the operation on it, in line order. -/
def subOps (f : Frame) (o : Nat) : List (Nat × Frame) :=
  if f.opcode == 0x20 then (List.range 256).map (fun i => (o + 128 * i, opFrame 0x01 []))
  else if f.opcode == 0x21 || f.opcode == 0x22 then (linesOf f 0).map (fun w => (o + w.at_, opFrame 0x02 w.data))
  else [(o, f)]

/-- The directory request for the next line of a served request. -/
def dirReqOf (r : Served) (at_ : Nat) : Option DirReq :=
  (subOps r.frame r.offset)[r.line]?.map (fun p =>
    { ask := if isRead r.frame.opcode then .rd else .wr, line := p.1 / 128, agent := 0, frame := some p.2, cls := r.cls,
      cluster := r.cluster, drawer := r.drawer.val, served := some r.id, at_ := at_ })

/-- A line of a served request is done: the next line follows, or the request completes with the first status other than OK. -/
def State.lineDone (s : State) (q : DirReq) (a : Answer) : State × List DirReq :=
  match q.served.bind s.servedOf with
  | none => (s, [])
  | some r =>
    let single := !isPlankOp r.frame.opcode
    if single then ((s.ageSeen q).endServed r a, [])
    else
      let r' := { r with line := r.line + 1, acc := r.acc ++ a.data, status := if r.status == St.ok then a.status else r.status }
      match dirReqOf r' q.at_ with
      | some q' =>
        (s.withMort { s.mort with served := s.mort.served.map (fun x => if x.id == r.id then r' else x) }, [q'])
      | none => ((s.ageSeen q).endServed r ⟨r'.status, r'.acc, 0⟩, [])

/-- Perform a line of a cache-less request at memory; `poison` where the line is poisoned (R305). -/
def State.performLine (s : State) (q : DirReq) (poison : Bool) : State × List DirReq :=
  match q.frame with
  | none => (s, [])
  | some f =>
    match q.served.bind s.servedOf with
    | none => (s, [])
    | some r =>
      let o := if isPlankOp r.frame.opcode then q.line * 128 else r.offset
      let (a, s) := s.directOp f o
      let (a, s) := s.afterAccess f o a
      let a := if poison && (isRead f.opcode || isAtomic f.opcode) && delivers a.status then { a with status := St.poison } else a
      s.lineDone q a

/-- A write that covers its whole line. -/
def wholeLine (f : Frame) : Bool :=
  f.opcode == 0x02 || f.opcode == 0x04
    || ((f.opcode == 0x03 || f.opcode == 0x05) && field f.payload 0 16 == 2 ^ 128 - 1)

/-! Sharers (R295). -/

/-- Overflow blocks in use. -/
def State.ovfUsed (s : State) : List Nat := s.dir.entries.filterMap (fun p => p.2.block)

/-- The lowest free overflow block. -/
def State.ovfFree (s : State) : Option Nat :=
  let used := s.ovfUsed
  (List.range (used.length + 1)).find? (fun b => decide (b < 65536) && !used.contains b)

/-- Whether a line has room for one more sharer without an invalidation. -/
def State.sharerRoom (s : State) (e : DirEntry) (a : AgentId) : Bool :=
  e.sharers.contains a || (decide (e.sharers.length < 15) && (decide (e.sharers.length < 2) || e.block.isSome || s.ovfFree.isSome))

/-- Record a sharer. -/
def State.addSharer (s : State) (line : Nat) (e : DirEntry) (a : AgentId) : State :=
  if e.sharers.contains a then s.setDir line { e with state := .shared }
  else
    let block := if e.sharers.length < 2 then e.block else match e.block with
      | some b => some b
      | none => s.ovfFree
    s.setDir line { e with state := .shared, sharers := e.sharers ++ [a], block := block }

/-! Trackers and the hold pool (R304, R309, R310). -/

def State.trackerOf (s : State) (line : Nat) : Option (Nat × Tracker) :=
  (s.dir.trackers.filterMap (fun p => p.2.map (fun t => (p.1, t)))).find? (fun p => p.2.line == line)

def State.setTracker (s : State) (n : Nat) (t : Option Tracker) : State :=
  s.withDir { s.dir with trackers := s.dir.trackers.put none n t }

/-- The lowest free tracker. -/
def State.freeTracker (s : State) : Option Nat :=
  let used := s.dir.trackers.map (·.1)
  (List.range (used.length + 1)).find? (fun n => decide (n < 4096) && !used.contains n)

/-- The set of a line (R294). -/
def dirSet (line : Nat) : Nat := line % 524288

/-- Entries of a set. -/
def State.waysOf (s : State) (set : Nat) : List (Nat × DirEntry) := s.dir.entries.filter (fun p => dirSet p.1 == set)

/-- Put a request into the hold pool, or complete it with TIMEOUT when that is full (R309). -/
def State.holdReq (s : State) (q : DirReq) : State × List DirReq :=
  if s.dir.hold.length < 2048 then (s.withDir { s.dir with hold := s.dir.hold ++ [q] }, [])
  else
    let s := s.raiseDir 4 q.agent q.line
    match q.served with
    | some _ => s.lineDone q ⟨St.timeout, [], 0⟩
    | none => (s.dirAnswer q St.timeout 0 [], [])

/-- A frozen request has the next free tracker, way or wait-list slot before this one (R310). -/
def State.yields (s : State) (q : DirReq) : Bool :=
  s.dir.frozen.any (fun f => f != q && f.at_ ≤ q.at_ && (dirSet f.line == dirSet q.line || 4096 ≤ s.dir.trackers.length
    + s.dir.frozen.length))

/-- Make a line transient with an active request. -/
def State.openTracker (s : State) (n : Nat) (q : DirReq) (state : DirSt) (e : DirEntry) (snoops : List Snoop) : State :=
  let t : Tracker := { line := q.line, active := q, snoops := snoops, wait := [], prior := s.dirEntry q.line, held := [] }
  (s.setTracker n (some t)).setDir q.line { e with state := state }

/-- Poison a line (R312): the home copy is the last write-back. -/
def State.poison (s : State) (line : Nat) : State :=
  s.setDir line { s.dirEntry line with state := .poisoned, sharers := [], block := none }

/-- A line in POISONED serves a request (R305). -/
def State.servePoisoned (s : State) (q : DirReq) : State × List DirReq :=
  match q.ask with
  | .getS | .getM | .upgrade =>
    match s.lineData q.line with
    | (some bs, s) => (s.dirAnswer q St.poison 0 bs, [])
    | (none, s) => (s.dirAnswer q St.media 0 [], [])
  | .rd => s.performLine q true
  | .wr =>
    match q.frame with
    | some f => let s := if wholeLine f then s.setDir q.line DirEntry.reset else s; s.performLine q true
    | none => (s, [])
  | _ => (s, [])

/-- The active request of a transient line finishes by its row (R305). `kept` is KEPT of a recall's answer; the entry is as it
was before the line became transient, less what was dropped. -/
def State.finishActive (s : State) (q : DirReq) (e : DirEntry) (kept : Bool) : State × List DirReq :=
  let wasShared := e.state == .shared
  match q.ask with
  | .getS =>
    match s.lineData q.line with
    | (none, s) => ((s.setDir q.line e).dirAnswer q St.media 0 [], [])
    | (some bs, s) =>
      if wasShared then ((s.addSharer q.line e q.agent).dirAnswer q St.ok 1 bs, [])
      else if kept then
        ((s.addSharer q.line { e with state := .shared } q.agent).dirAnswer q St.ok 1 bs, [])
      else
        (((s.setDir q.line { DirEntry.reset with state := .exclusive, sharers := [q.agent] }).dropTags (q.line * 128) 128).dirAnswer
          q St.ok 2 bs, [])
  | .getM | .upgrade =>
    let own := { DirEntry.reset with state := .exclusive, sharers := [q.agent] }
    if q.ask == .upgrade && wasShared && e.sharers.contains q.agent then
      (((s.setDir q.line own).dropTags (q.line * 128) 128).dirAnswer q St.ok 3 [], [])
    else
      match s.lineData q.line with
      | (none, s) => ((s.setDir q.line e).dirAnswer q St.media 0 [], [])
      | (some bs, s) => (((s.setDir q.line own).dropTags (q.line * 128) 128).dirAnswer q St.ok 3 bs, [])
  | .rd =>
    let s := s.setDir q.line (if wasShared then e else if kept then { e with state := .shared } else DirEntry.reset)
    s.performLine q false
  | .wr => (s.setDir q.line DirEntry.reset).performLine q false
  | _ => (s.setDir q.line DirEntry.reset, [])

/-- The least recently used way that can be evicted (R296). -/
def lruWay (ws : List (Nat × DirEntry)) : Option (Nat × DirEntry) :=
  (ws.filter (fun p => p.2.state == .shared || p.2.state == .exclusive)).foldl (fun acc p => match acc with
    | none => some p
    | some b => if p.2.used < b.2.used then some p else acc) none

/-- Begin the eviction of a way (R296). -/
def State.startEvict (s : State) (n : Nat) (line : Nat) (e : DirEntry) (ask : DirAsk) : State :=
  let q : DirReq := { ask := ask, line := line, agent := 0, frame := none, cls := 0, cluster := 0, drawer := 0, served := none,
                      at_ := s.bell.bounds }
  let (sn, s) := s.sendSnoops line e.sharers (if e.state == .shared then 0x10 else 0x11)
  s.openTracker n q (if e.state == .shared then .invalidating else .recalling) e sn

/-- A request meets the table of R305; a request that needs a tracker has it reserved as `n`. -/
def State.dirServe (s : State) (n : Nat) (q : DirReq) : State × List DirReq :=
  let e := s.dirEntry q.line
  match e.state with
  | .poisoned => s.servePoisoned q
  | .uncached =>
    match q.ask with
    | .getS | .getM | .upgrade =>
      let ws := s.waysOf (dirSet q.line)
      if ws.length < 16 then (s.openTracker n q .filling e [], [])
      else if ws.all (fun p => p.2.state == .poisoned) then ((s.raiseDir 5 q.agent q.line).dirAnswer q St.timeout 0 [], [])
      else
        let evicting := s.dir.trackers.any (fun p => match p.2 with
          | some t => t.active.ask == .evict && dirSet t.line == dirSet q.line
          | none => false)
        let s := if evicting then s else match lruWay ws with
          | some (line, v) => (s.bump Reg.dirCapEvict).startEvict n line v .evict
          | none => s
        s.holdReq q
    | .rd | .wr => s.performLine q false
    | _ => (s, [])
  | .shared =>
    match q.ask with
    | .getS =>
      if s.sharerRoom e q.agent then (s.openTracker n q .filling e [], [])
      else
        let oldest := e.sharers.take 1
        let (sn, s) := (s.bump Reg.dirReplaceInv).sendSnoops q.line oldest 0x10
        (s.openTracker n q .invalidating e sn, [])
    | .getM | .upgrade =>
      let others := e.sharers.filter (· != q.agent)
      if others.isEmpty then s.finishActive q e false
      else
        let (sn, s) := s.sendSnoops q.line others 0x10
        (s.openTracker n q .invalidating e sn, [])
    | .rd => s.performLine q false
    | .wr =>
      let (sn, s) := s.sendSnoops q.line e.sharers 0x10
      (s.openTracker n q .invalidating e sn, [])
    | _ => (s, [])
  | .exclusive =>
    let owner := e.sharers.headD 0
    match q.ask with
    | .getS | .rd =>
      let (sn, s) := s.sendSnoops q.line [owner] 0x12
      (s.openTracker n q .recalling e sn, [])
    | .getM | .upgrade | .wr =>
      let (sn, s) := s.sendSnoops q.line [owner] 0x11
      (s.openTracker n q .recalling e sn, [])
    | _ => (s, [])
  | _ => (s, [])

/-- The tracked line's answer does not come (R312): it is POISONED; the active request and those waiting are served so. -/
def State.poisonTracker (s : State) (n : Nat) (t : Tracker) : State × List DirReq :=
  let s := (s.setTracker n none).poison t.line
  let s := t.held.foldl (fun s h => s.complete h.2.2 s.dirClasses.2 h.1 St.ok false [] 0 768) s
  match t.active.ask with
  | .evict => (s, t.wait)
  | _ => (s, t.active :: t.wait)

/-- One request at the directory: it is served, waits in its line's list or in the hold pool (R305, R307, R309), and what it
releases follows. -/
def State.dirOne (s : State) (q : DirReq) : State × List DirReq :=
  let e := s.dirEntry q.line
  let own := (q.ask == .getS || q.ask == .getM || q.ask == .upgrade) && e.sharers.headD 0 == q.agent && q.frame.isSome
  if s.dir.hold.any (fun h => h.line == q.line && h != q) then s.holdReq q
  else
    match s.trackerOf q.line with
    | some (n, t) =>
      if own && e.state == .recalling then
        let (s, more) := ((s.raiseDir 2 q.agent q.line).raiseDir 0 q.agent q.line).poisonTracker n t
        (s, more ++ [q])
      else if t.wait.length < 6 && !s.yields q then (s.setTracker n (some { t with wait := t.wait ++ [q] }), [])
      else s.holdReq q
    | none =>
      if own && e.state == .exclusive then
        (((s.raiseDir 2 q.agent q.line).raiseDir 0 q.agent q.line).poison q.line, [q])
      else
        match s.freeTracker with
        | some n => if s.yields q then s.holdReq q else s.dirServe n q
        | none =>
          if e.state == .poisoned || (e.state == .uncached && (q.ask == .rd || q.ask == .wr))
              || (e.state == .shared && q.ask == .rd) then s.dirServe 0 q
          else s.holdReq q

/-- Run requests, each followed by what it releases, while `fuel` lasts. -/
def dirRun : Nat → State → List DirReq → State
  | 0, s, _ => s
  | _ + 1, s, [] => s
  | fuel + 1, s, q :: rest =>
    let (s, more) := s.dirOne q
    dirRun fuel s (more ++ rest)

/-- Steps that cover every request the directory can hold, with all lines of plank operations. -/
def dirFuel : Nat := 2097152

/-- Try the requests of the hold pool again, those of frozen lines first (R309, R310): the first of each line. -/
def State.retryHold (s : State) : State :=
  let order := s.dir.hold.filter (fun q => s.dir.frozen.contains q) ++ s.dir.hold.filter (fun q => !s.dir.frozen.contains q)
  order.foldl (fun s q =>
    if !s.dir.hold.contains q || (s.dir.hold.find? (fun h => h.line == q.line)) != some q then s
    else
      let waiting : Bool := match s.trackerOf q.line with
        | some (_, t) => decide (6 ≤ t.wait.length)
        | none => s.freeTracker.isNone || ((s.dirEntry q.line).state == .uncached && decide (16 ≤ (s.waysOf (dirSet q.line)).length))
      if waiting then s
      else
        let s := s.withDir { s.dir with hold := s.dir.hold.erase q, frozen := s.dir.frozen.erase q }
        dirRun dirFuel s [q]) s

/-- Run requests, then the hold pool. -/
def State.dirGo (s : State) (qs : List DirReq) : State := (dirRun dirFuel s qs).retryHold

/-- The active request of a tracked line finishes, its line is stable again, and those waiting follow (R304, R305). -/
def State.finishTracker (s : State) (n : Nat) (t : Tracker) (e : DirEntry) (kept : Bool) : State :=
  let s := s.setTracker n none
  let s := t.held.foldl (fun s h => s.complete h.2.2 s.dirClasses.2 h.1 St.ok false [] 0 768) s
  let (s, more) := s.finishActive t.active e kept
  s.dirGo (more ++ t.wait)

/-- A served request in a shared window goes to the directory line by line (R292). -/
def State.serveShared (s : State) (r : Served) : State :=
  let s := s.withMort { s.mort with served := s.mort.served ++ [r] }
  match dirReqOf r s.bell.bounds with
  | some q => s.dirGo [q]
  | none => s.endServed r ⟨St.ok, [], 0⟩

end Sys2Proof.Machine
end

