-- ==== Sys2Proof/Machine/Keys.lean ====
section
/-!
DEFINITION. Certificates and trust (15 R485 to R487), security errors (R506), random draws (R494), and the link key
exchange's shared operations (R495 to R498).
-/
namespace Sys2Proof.Machine

/-- The bytes of an ASCII label. -/
def ascii (t : String) : Bytes := t.toList.map (fun c => BitVec.ofNat 8 c.toNat)

/-- Raise a bit of SEC_ERR (R505, R506). `source` is 0 port, 1 host A, 2 host B, 3 bench. -/
def State.raiseSec (s : State) (b source unit : Nat) : State :=
  s.raise Reg.secErr b [(Reg.secErrCapture, BitVec.ofNat 32 (source * 2 ^ 16 + unit % 256 * 2 ^ 8 + b))]

/-- SEC_STATUS.ENTROPY_OK, kept in the status register (R494, R505). -/
def State.entropyOk (s : State) : Bool := bit (s.rd Reg.secStatus) 1

/-- Random bytes from the entropy source: the next of the model's draws. -/
def State.randomBytes (s : State) (n : Nat) : Bytes × State := (Config.random s.free n, s.withFree (s.free + 1))

/-! Certificates (R485). -/
def certKind (c : Bytes) : Nat := field c 3 1
def certIssuer (c : Bytes) : Bytes := byteRun c 8 64
def certKey (c : Bytes) : Bytes := byteRun c 88 1793
def certSigned (c : Bytes) : Bytes := byteRun c 0 1920
def certSig (c : Bytes) : Bytes := byteRun c 1920 1280

/-- FMT_GEN = 1 and no reserved field set. -/
def certForm (c : Bytes) : Bool := field c 2 1 == 1 && field c 4 4 == 0 && field c 1881 7 == 0

/-- Cut a chain of 1 to 3 certificates. -/
def chainOf (b : Bytes) : Option (List Bytes) :=
  if b.length == 3200 || b.length == 6400 || b.length == 9600 then
    some ((List.range (b.length / 3200)).map (fun i => byteRun b (3200 * i) 3200))
  else none

/-- Every certificate is well formed and names and is signed by the next; the last by the root it names (R486). -/
def chainSigned : List Bytes → Bool
  | [] => false
  | [c] => certForm c && Config.falconVerify (Config.rootPublic (certIssuer c)) (certSigned c) (certSig c)
  | c :: d :: t => certForm c && certIssuer c == Config.shake256 (certKey d) 64
      && Config.falconVerify (certKey d) (certSigned c) (certSig c) && chainSigned (d :: t)

/-- The root hash of a trust table entry: entry 0 holds the Malbex root (R487). -/
def State.trustHash (s : State) (e : Nat) : Bytes :=
  if e = 0 then byteRun Config.malbexRootHash 0 64
  else (List.range 16).flatMap (fun i => leBytes 4 (s.rd (Reg.secTrustHash e i)).toNat)

/-- VALID and KINDS of a trust table entry: entry 0 reads 0x0000_013C (R505). -/
def State.trustCtrl (s : State) (e : Nat) : Word := if e = 0 then 0x13C else s.rd (Reg.secTrustCtrl e)

/-- The outcome of R486 with a leaf of a required kind. -/
inductive ChainResult where
  | ok (leaf : Bytes)
  /-- Only the trust table or its KINDS mask refused it. -/
  | untrusted
  | bad
  deriving DecidableEq, Repr

/-- Check a chain (R486). -/
def State.checkChain (s : State) (b : Bytes) (kind : Nat) : ChainResult :=
  match chainOf b with
  | none => .bad
  | some cs =>
    match cs.head?, cs.getLast? with
    | some leaf, some last =>
      if !chainSigned cs || certKind leaf != kind then .bad
      else
        let root := (List.range 16).any (fun e =>
          bit (s.trustCtrl e) 8 && s.trustHash e == certIssuer last && bit (s.trustCtrl e) kind)
        if root then .ok leaf else .untrusted
    | _, _ => .bad

/-! Link keys (R496, R498). -/

/-- The key material that 136 bytes K give this side. -/
def linkKeyOf (k : Bytes) (initiator : Bool) : LinkKey :=
  let dir := fun (o : Nat) => (⟨BitVec.ofNat 256 (field k o 32), BitVec.ofNat 32 (field k (o + 32) 4)⟩ : KeyDir)
  let i := dir 0
  let r := dir 36
  ⟨if initiator then i else r, if initiator then r else i, byteRun k 72 64⟩

/-- Leaf kind that a peer kind requires: switch 2, agent 3, tray bridge 4 (R496). -/
def leafKind (peer : BitVec 2) : Nat := if peer == 3 then 2 else if peer == 1 then 3 else 4

/-- R496: this side is the initiator. -/
def State.isInitiator (s : State) (l : LinkId) (c : PeerCaps) : Bool :=
  c.kind != 3 || s.swNum < c.switch || (s.swNum == c.switch && decide (l.port.val < c.port.toNat))

/-- An update of a link's key exchange. -/
def State.modKex (s : State) (l : LinkId) (f : Kex → Kex) : State := s.modLink l (fun k => { k with kex := f k.kex })

/-- Something new has come from the peer: nothing earlier is sent again (R495). -/
def State.kexHeard (s : State) (l : LinkId) : State :=
  s.modKex l (fun x => { x with sent := [], lastTick := s.bell.ticks })

/-- Take the front message of a link's exchange if it is one of this kind. -/
def State.kexTake (s : State) (l : LinkId) (msg : BitVec 8) : Option (Bytes × State) :=
  match (s.link l).kex.inbox with
  | [] => none
  | (m, c) :: rest => if m == msg then some (c, s.modKex l (fun x => { x with inbox := rest })) else none

/-- Refuse a link exchange (R497): ABORT, the exchange stops, the error is raised with the port. -/
def State.kexRefuse (s : State) (l : LinkId) (untrusted : Bool) : State :=
  let s := (s.kexHeard l).sendMsg l 5 []
  let s := (s.modKex l (fun x => { x with stopped := true, sent := [] })).bump Reg.secAuthFail
  s.raiseSec (if untrusted then 1 else 0) 0 l.port.val

/-- Enter SECURE: a new exchange, with HELLO sent where random values can be drawn (R494, R496). -/
def State.enterSecure (s : State) (l : LinkId) : State :=
  let s := s.enter l .secure
  match (s.link l).peer with
  | none => s
  | some c =>
    let s := s.modKex l (fun _ => { Kex.reset with initiator := s.isInitiator l c, stopped := !s.entropyOk })
    if !s.entropyOk then s
    else
      let (r, s) := s.randomBytes 32
      let hello := r ++ Config.deviceCert ++ Config.caCert
      (s.modKex l (fun x => { x with helloOwn := hello })).sendMsg l 1 hello

/-- Enter CONFIG: counts, flit numbers and the replay buffer at 0, FEC on, the key in force, credits advertised with
CREDIT_OVERFLOW where they were scaled down (R98, R107, R119). -/
def State.enterConfig (s : State) (l : LinkId) : State :=
  let s := s.enter l .config
  let adv := s.advertise l
  let s := s.modLink l (fun k =>
    { k with txNext := 0, replay := [], replayBase := 0, replayPos := none, rxNext := 0, waiting := false, reqs := 0,
             owed := Vector.replicate 8 0, credits := Vector.replicate 8 0, adv := adv.1, keyBase := 0, tsCount := 0,
             tsArrived := 0, key := k.kex.k.map (fun m => linkKeyOf m k.kex.initiator), nextKey := none,
             phase := if k.encrypted then 1 else 0 })
  if adv.2 then s.raisePort l 11 else s

/-- Both FINISHED messages are done: the exchange is complete (R496 step 5). -/
def State.kexDone (s : State) (l : LinkId) : State :=
  let x := (s.link l).kex
  if x.finSent && x.finGot then (s.bump Reg.secSecureDone).enterConfig l else s

/-- Send this side's FINISHED (R496 step 5). -/
def State.sendFinished (s : State) (l : LinkId) (k : Bytes) : State :=
  let x := (s.link l).kex
  let fin := Config.shake256 (ascii (if x.initiator then "FIN-I" else "FIN-R") ++ k) 32
  (s.sendMsg l 4 fin).modKex l (fun x => { x with finSent := true, k := some k })

/-- Start a rekey of an encrypted link in ACTIVE, unless one is under way (R122, R498). -/
def State.startRekey (s : State) (l : LinkId) : State :=
  let k := s.link l
  if k.train == .active && k.encrypted && !k.looped && !k.kex.rekeyOwn && k.nextKey.isNone && s.entropyOk then
    let (v, s) := s.draw
    let (ek, dk) := Config.kemKeygen v
    (s.modKex l (fun x => { x with rekeyOwn := true, rekeyEk := ek, rekeyDk := dk })).sendMsg l 0x11 ek
  else s

/-- The next key of a rekey (R498): K' with the layout of K. -/
def State.setNextKey (s : State) (l : LinkId) (ss : Bytes) : State :=
  s.modLink l (fun k =>
    let m := Config.shake256 (ascii "THOADE-REKEY" ++ ss ++ ((k.key.map (·.chain)).getD [])) 136
    { k with nextKey := some (linkKeyOf m k.kex.initiator), rxNew := 0, txSwitch := none })

/-- Both directions move to the next key at a flit number; of two announcements the higher applies (R122). -/
def State.setSwitch (s : State) (l : LinkId) (n : Nat) : State :=
  s.modLink l (fun k =>
    let m := max n (k.txSwitch.getD 0)
    { k with txSwitch := some m })

/-- Announce the flit number from which the next key applies, 2,048 beyond the counts of both directions (R122). -/
def State.announceKey (s : State) (l : LinkId) : State :=
  let k := s.link l
  let n := max k.txNext k.rxNext + 2048
  (s.setSwitch l n).sendCtl l 2 (leBytes 8 n)

end Sys2Proof.Machine
end

