-- ==== Sys2Proof/Machine/LinkRows.lean ====
section
/-!
DEFINITION. The meanings of the Thoade link commands (03 R89 to R127) and of the SECURE and rekey messages (15 R494 to
R498). An event acts where the link is in the state its rule names, and otherwise changes nothing (assumption log 4).
-/
namespace Sys2Proof.Machine

/-- Links of a port, both halves. -/
def bothLinks (p : Port) : List LinkId := [p.link, ⟨2 * p.val + 1, by omega⟩]

/-- Ports that a bonded configuration takes up: each member counts (R96). -/
def traySize (cfg : Word) : Nat := 2 ^ (bits cfg.toNat 9 8 - 1)

/-- Tray-role ports other than one, bonded members counted (R96). -/
def State.traysBut (s : State) (p : Port) : Nat :=
  ((List.range 192).filterMap portOf).foldl (fun n q =>
    let c := s.rd (Reg.portCfg q.val)
    if q != p && bits c.toNat 5 4 == 2 && !s.isMember q then n + traySize c else n) 0

/-- PORT_CFG with its ROLE field replaced. -/
def withRole (v : Word) (r : Nat) : Word := (v &&& ~~~(0x30 : Word)) ||| BitVec.ofNat 32 (r * 16)

/-- An accepted write of PORT_CFG (R27, R89, R96, R126, R508). -/
def State.writePortCfg (s : State) (p : Port) (v : Word) : State :=
  if s.isMember p then s
  else
    let off := Reg.portCfg p.val
    let v := v &&& regMask off
    let was := bits (s.rd off).toNat 5 4
    let role := bits v.toNat 5 4
    let s :=
      if role == 2 && decide (32 < s.traysBut p + traySize v) then (s.wr off (withRole v was)).raisePort p.link 7
      else if role == 3 && !s.isFabric then (s.wr off (withRole v was)).raisePort p.link 6
      else s.wr off v
    (bothLinks p).foldl (fun s l =>
      if (s.link l).train == .fenced && (s.link l).fencedByMismatch then s.toDetect l else s) s

/-- PORT_CFG_WRITE (R126). -/
def execPortCfgWrite (h : HostPort) (p : Port) (v : Word) (s : State) : Host.Outcome State Fault Refusal :=
  .next (s.hostWriteRwl h (Reg.portCfg p.val) (fun s => s.writePortCfg p v))

/-- RETRAIN of one link (R125, R508, R509, R532). -/
def State.retrainLink (s : State) (l : LinkId) : State :=
  let k := s.link l
  if k.looped || k.train == .loopback then s
  else if k.train == .disabled then s
  else if k.train == .fenced then (if k.fencedByMismatch then s.toDetect l else s)
  else s.toDetect l

/-- PORT_CTRL.RETRAIN (R125). -/
def State.retrain (s : State) (p : Port) : State :=
  if !s.proceeded || s.isMember p then s
  else
    let idle := (bothLinks p).all (fun l => (s.link l).train == .disabled && !(s.link l).looped)
    if idle then s.startTraining p else (bothLinks p).foldl State.retrainLink s

/-- PORT_RETRAIN (R125). -/
def execPortRetrain (h : HostPort) (p : Port) (s : State) : Host.Outcome State Fault Refusal :=
  .next (s.hostWrite h (Reg.portCtrl p.val) (fun s => s.retrain p))

/-- PORT_CTRL.DISABLE (R125, R540): to DISABLED from any state. -/
def State.disablePort (s : State) (p : Port) : State :=
  (bothLinks p).foldl (fun s l => if (s.link l).train == .disabled && !(s.link l).looped then s else s.toDisabled l) s

/-- PORT_DISABLE (R125). -/
def execPortDisable (h : HostPort) (p : Port) (s : State) : Host.Outcome State Fault Refusal :=
  .next (s.hostWrite h (Reg.portCtrl p.val) (fun s => s.disablePort p))

/-- PORT_CTRL.REKEY (R122). -/
def State.rekeyPort (s : State) (p : Port) : State := (bothLinks p).foldl State.startRekey s

/-- PORT_REKEY (R122). -/
def execPortRekey (h : HostPort) (p : Port) (s : State) : Host.Outcome State Fault Refusal :=
  .next (s.hostWrite h (Reg.portCtrl p.val) (fun s => s.rekeyPort p))

/-- The counters of a port: PORT_FEC_CORR to PORT_ROLE_DROP, the bits corrected on each lane, and
PORT_TRAIN_FAIL.COUNT (R125). -/
def State.clearPort (s : State) (p : Port) : State :=
  let n := p.val
  let s := s.zeroRegs ([Reg.portFecCorrLo n, Reg.portFecCorrHi n, Reg.portFecUncorr n, Reg.portCrcErr n, Reg.portDup n,
    Reg.portGap n, Reg.portReplay n, Reg.portHold n, Reg.portSchedStall n, Reg.portAuthFail n, Reg.portRoleDrop n]
    ++ (List.range 4).flatMap (fun j => [Reg.laneBerLo n j, Reg.laneBerHi n j]))
  s.wr (Reg.portTrainFail n) (s.rd (Reg.portTrainFail n) &&& 0xF0000000)

/-- PORT_CLR_COUNTERS (R125). -/
def execPortClrCounters (h : HostPort) (p : Port) (s : State) : Host.Outcome State Fault Refusal :=
  .next (s.hostWrite h (Reg.portCtrl p.val) (fun s => s.clearPort p))

/-! Training (R98). -/

/-- Lanes of a link that a width code takes: the lowest ones. -/
def laneMask (code : Nat) : BitVec 16 := BitVec.ofNat 16 (2 ^ widthLanes code - 1)

/-- All lanes of a width are among those given. -/
def hasLanes (lanes : BitVec 16) (code : Nat) : Bool := lanes &&& laneMask code == laneMask code

/-- Configured width of a link: ×2 for a half (R90, R126). -/
def cfgWidth (cfg : Word) : Nat := if bit cfg 3 then 0 else bits cfg.toNat 9 8

/-- A link that leaves DETECT reads PORT_CFG (R94, R125): one that may no longer train goes to DISABLED. -/
def State.leaveDetect (s : State) (l : LinkId) (lanes : BitVec 16) : State :=
  let p := l.port
  let cfg := if (s.link l).looped then (s.link l).cfg else s.rd (Reg.portCfg p.val)
  if !(s.link l).looped && (!bit cfg 0 || bits cfg.toNat 5 4 == 0) then s.toDisabled l
  else if !(s.link l).looped && !s.groupOk p then (s.toDisabled l).raisePort p.link 6
  else if !(s.link l).looped && bit cfg 3 != bit (s.link l).cfg 3 then (s.disablePort p).startTraining p
  else if hasLanes lanes (bits cfg.toNat 11 10) then
    (s.modLink l (fun k => { k with cfg := cfg, lanes := lanes })).enter l .eqLow
  else s

/-- SIGNAL_DETECT (R98): signal for 1 us on these lanes, at least those of MIN_WIDTH. -/
def execSignalDetect (l : LinkId) (lanes : BitVec 16) (s : State) : Host.Outcome State Fault Refusal :=
  if (s.link l).train == .detect then .next (s.leaveDetect l lanes) else .next s

/-- EQ_LOW_DONE (R98, R92): the lanes that pass equalization on both sides. -/
def execEqLowDone (l : LinkId) (lanes : BitVec 16) (s : State) : Host.Outcome State Fault Refusal :=
  if (s.link l).train == .eqLow then
    .next ((s.modLink l (fun k => { k with lanes := k.lanes &&& lanes })).enter l .laneMap)
  else .next s

/-- LANE_MAP_DONE (R93): reversal and polarity are reported, those of half 1 in its lanes' bits. -/
def execLaneMapDone (l : LinkId) (reversed : Bool) (inverted : BitVec 4) (s : State) : Host.Outcome State Fault Refusal :=
  if (s.link l).train == .laneMap then
    let off := Reg.portLaneMap l.port.val
    let old := (s.rd off).toNat
    let inv := if bit (s.link l).cfg 3 then
        (if l.val % 2 == 1 then inverted.toNat % 4 * 4 + bits old 5 4 else bits old 7 6 * 4 + inverted.toNat % 4)
      else inverted.toNat
    .next ((s.wr off (BitVec.ofNat 32 (inv * 16 + 8 * b2n reversed))).enter l .version)
  else .next s

/-- R99: the version that both speak: 1.0, 0.9 or none. A 2.x or 3.x peer is taken to list 1.0 (R34). -/
def commonVersion (c : PeerCaps) : Option Bool :=
  if c.has10 || c.major == 2 || c.major == 3 then some false else if c.has09 then some true else none

/-- The widest width usable by both sides, from the configured width down to MIN_WIDTH; only a ×4 link falls to ×2 (R92). -/
def usableWidth (cfg : Word) (lanes : BitVec 16) : Option Nat :=
  (List.range 4).reverse.find? (fun w => w ≤ cfgWidth cfg && (cfgWidth cfg ≤ 1 || 1 ≤ w) && bits cfg.toNat 11 10 ≤ w && hasLanes lanes w)

/-- A refusal in VERSION (R99). -/
def State.refuseTraining (s : State) (l : LinkId) (b : Nat) : State := (s.toDisabled l).raisePort l b

/-- VERSION_DECIDE (R99, R92, R90). A link that no width fits stays in VERSION until its timeout. -/
def execVersionDecide (l : LinkId) (peer : PeerCaps) (s : State) : Host.Outcome State Fault Refusal :=
  let k := s.link l
  if k.train != .version then .next s
  else
    let cfg := k.cfg
    match commonVersion peer with
    | none => .next (s.refuseTraining l 5)
    | some v09 =>
      let enc := !v09 && peer.encSupport
      if v09 && (!bit cfg 26 || bit cfg 3) then .next (s.refuseTraining l 5)
      else if peer.kind.toNat != bits cfg.toNat 5 4 then .next (s.refuseTraining l 6)
      else if peer.partition != cfg.extractLsb' 16 6 then
        let s := (s.endSession l).modLink l (fun k => { k with fencedByMismatch := true, peer := some peer })
        .next ((s.enter l .fenced).raisePort l 8)
      else if !enc && (bit cfg 25 || peer.encRequired) then .next (s.refuseTraining l 10)
      else
        match usableWidth cfg k.lanes with
        | none => .next s
        | some w =>
          let low := decide (w < cfgWidth cfg)
          let s := s.modLink l (fun k =>
            { k with v09 := v09, encrypted := enc, fecLL := !v09 && bit cfg 24 && peer.fecLL, peer := some peer,
                     width := BitVec.ofNat 2 w, degraded := low })
          let s := if low then s.raisePort l 9 else s
          .next (if v09 then s.enterConfig l else s.enter l .eqFull)

/-- EQ_FULL_DONE (R98): the presets negotiated and, as measured, the signal-to-noise ratio of each lane. -/
def execEqFullDone (l : LinkId) (preset : BitVec 16) (s : State) : Host.Outcome State Fault Refusal :=
  let k := s.link l
  if k.train != .eqFull then .next s
  else
    let p := l.port.val
    let lanes := if bit k.cfg 3 then (if l.val % 2 == 1 then [2, 3] else [0, 1]) else [0, 1, 2, 3]
    let s := lanes.foldl (fun s j =>
      let (v, s) := s.draw
      (s.wr (Reg.laneTxPreset p j) ((preset.extractLsb' (4 * j) 4).setWidth 32)).wr (Reg.laneSnr p j)
        ((v.extractLsb' 0 16).setWidth 32)) s
    .next (if k.encrypted then s.enterSecure l else s.enterConfig l)

/-- CONFIG_DONE (R98, R107): the peer's advertised credits, and 16 IDLE flits exchanged both ways. -/
def execConfigDone (l : LinkId) (credits : List (BitVec 16)) (s : State) : Host.Outcome State Fault Refusal :=
  let k := s.link l
  if k.train != .config then .next s
  else
    let s := s.modLink l (fun k =>
      { k with credits := (Vector.range 8).map (fun i => (credits.getD i 0).toNat), aliveAt := s.bell.ticks })
    .next (if k.looped then s.enter l .active else (s.enter l .active).newSession l.port)

/-- Time limits of the training states, in slots (R98). -/
def Train.limit : Train → Option Nat
  | .eqLow => some 1500000
  | .laneMap => some 250000
  | .version => some 125000
  | .eqFull => some 1500000
  | .secure => some 5000000
  | .config => some 125000
  | .disabled => none
  | .detect => none
  | .active => none
  | .recovery => none
  | .fenced => none
  | .loopback => none

/-- TRAIN_TIMEOUT (R98). -/
def execTrainTimeout (l : LinkId) (s : State) : Host.Outcome State Fault Refusal :=
  let k := s.link l
  match k.train.limit with
  | none => .next s
  | some n =>
    if k.enteredAt + n ≤ s.bell.ticks then
      let off := Reg.portTrainFail l.port.val
      let count := min 0xFFFF ((s.rd off).toNat % 65536 + 1)
      .next (((s.wr off (BitVec.ofNat 32 (k.train.code.toNat * 2 ^ 28 + count))).raisePort l 1).toDetect l)
    else .next s

/-! Flits (R102 to R121). -/

/-- The counts of one period's errors, restarted at each period (R102, R121). -/
def State.errPeriod (s : State) (l : LinkId) : State :=
  s.modLink l (fun k =>
    if k.errBound == s.bell.bounds then k else { k with errBound := s.bell.bounds, uncorr := 0, tagFails := 0 })

/-- R549: a link that enters RECOVERY within 1 period after a lane's new settings takes the old ones back, and the activity ends
with MEDIA. -/
def State.recalFailed (s : State) (p : Port) : State :=
  s.withFault { s.fault with running := s.fault.running.map (fun a =>
    if a.cls == 8 && a.kind == 1 && a.unit == p.val && a.progress != 0 && decide (s.bell.ticks ≤ a.askedAt + 256) then
      { a with result := some 0x0C } else a) }

/-- Forward error correction (R102): symbols and codewords are counted; more than 16 uncorrectable codewords in a period
send an ACTIVE link to RECOVERY. The bits corrected on each lane are a measured value (R125). -/
def State.fecCount (s : State) (l : LinkId) (corrected uncorrectable : Nat) : State :=
  let p := l.port
  let s := if corrected == 0 then s else
    let s := s.add64 (Reg.portFecCorrLo p.val) corrected
    (List.range 4).foldl (fun s j =>
      let (v, s) := s.draw
      s.add64 (Reg.laneBerLo p.val j) (v.toNat % (10 * corrected + 1))) s
  let s := s.addReg (Reg.portFecUncorr p.val) uncorrectable
  let was := (s.link l).uncorr
  let s := s.modLink l (fun k => { k with uncorr := k.uncorr + uncorrectable })
  if (s.link l).train == .active && was ≤ 16 && 16 < was + uncorrectable then
    ((s.raisePort l 12).toRecovery l).recalFailed p else s

/-- The flit number of a received count: the number nearest to the expected one (R119). -/
def flitNumber (expected roll : Nat) : Option Nat :=
  let d := (roll + 65536 - expected % 65536) % 65536
  if d < 32768 then some (expected + d) else if 65536 ≤ expected + d then some (expected + d - 65536) else none

/-- Check a flit and give its clear payload (R117, R119, R120): none where the check fails. -/
def openFlit (k : Link) (f : Flit) : Option Bytes :=
  let keyed := match k.key, k.nextKey with
    | some a, some b => if flPhase f == k.phase.toNat then some a else if flPhase f == 3 - k.phase.toNat then some b else none
    | some a, none => if flPhase f == k.phase.toNat then some a else none
    | none, _ => none
  if !k.encrypted || k.train == .secure || flType f == 4 || flType f == 5 then
    (if f.check == crc64 (flitBody f) then some f.payload else none)
  else
    match keyed with
    | none => none
    | some key =>
      if flType f == 6 then
        (if f.check == Config.gmac key.rx.key (flitNonce key.rx (2 ^ 63 + k.tsArrived)) (flitBody f) then some f.payload
         else none)
      else
        match flitNumber k.rxNext (flRoll f) with
        | none => none
        | some n => Config.gcmOpen key.rx.key (flitNonce key.rx n) (flitAad f) (byteRun f.payload 0 240) f.check

/-- A flit fails its check (R117, R119, R121). -/
def State.checkFailed (s : State) (l : LinkId) (f : Flit) : State :=
  let p := l.port.val
  let k := s.link l
  let s := s.bump (Reg.portCrcErr p)
  if !k.encrypted || k.train == .secure || flType f == 4 || flType f == 5 then s
  else
    let s := s.bump (Reg.portAuthFail p)
    if !sequenced (flType f) then s
    else
      let s := s.modLink l (fun k => { k with tagFails := k.tagFails + 1 })
      if (s.link l).train == .active && (s.link l).tagFails == 64 then (s.raisePort l 4).toRecovery l else s

/-- Free replay entries up to an ACK_SEQ (R112). -/
def State.takeAck (s : State) (l : LinkId) (ack : Nat) : State :=
  s.modLink l (fun k =>
    let d := (ack + 1 + 65536 - k.replayBase % 65536) % 65536
    if d ≤ k.replay.length then
      { k with replay := k.replay.drop d, replayBase := k.replayBase + d,
               replayPos := k.replayPos.map (max (k.replayBase + d)) }
    else k)

/-- A fragment of a key establishment message (R495): kept, and the message passed on when it is whole. -/
def State.takeFragment (s : State) (l : LinkId) (content : Bytes) : State :=
  let msg : BitVec 8 := BitVec.ofNat 8 (field content 0 1)
  let idx := field content 1 1
  let n := field content 2 1
  let known := if (s.link l).train == .secure then msg != 0 && msg.toNat ≤ 5 else msg == 0x11 || msg == 0x12
  if !known then s
  else s.modKex l (fun x =>
    let x := if x.fragMsg == msg && x.fragCount == n then x else { x with fragMsg := msg, fragCount := n, frags := [] }
    let have' := (x.frags.find idx).isSome
    let frags := if n ≤ idx || have' then x.frags else x.frags.insert idx (content.drop 4)
    if frags.length == n && n != 0 then
      { x with fragMsg := 0, fragCount := 0, frags := [], inbox := x.inbox ++ [(msg, frags.flatMap (·.2))] }
    else { x with frags := frags })

/-- Count a frame that the port's role refuses (R95). -/
def State.roleDrop (s : State) (l : LinkId) : State := (s.bump (Reg.portRoleDrop l.port.val)).raisePort l 6

/-- The frame of a class that a link is receiving. -/
def State.openFrame (s : State) (l : LinkId) (c : Cls) : Option Arriving :=
  (s.link l).arriving.find? (fun a => a.cls == c && !a.whole)

/-- A FIRST flit ends what was open in its class; on a T-role port, one of a scheduled class is counted (R95). -/
def State.startData (s : State) (l : LinkId) (f : Flit) : State :=
  let s := match flFirst f, s.openFrame l (flClass f) with
    | true, some a => (s.losePartial a).modLink l (fun k => { k with arriving := k.arriving.erase a })
    | _, _ => s
  if bits (s.link l).cfg.toNat 5 4 == 2 && flFirst f && (flClass f).val < 4 then s.roleDrop l else s

/-- The content of a flit joins its frame; the flit's buffer is free at once where the frame is lost. -/
def State.growFrame (s : State) (l : LinkId) (f : Flit) (content : Bytes) (a : Arriving) (lost : Bool) : State :=
  let b := { a with bytes := a.bytes ++ content, flits := a.flits + 1, whole := flLast f, dropped := lost }
  let s := s.modLink l (fun k =>
    let rest := if flFirst f then k.arriving else k.arriving.erase a
    { k with arriving := if b.whole && (lost || a.entry.isSome) then rest else rest ++ [b] })
  if lost then s.oweCredit l (flClass f) 1
  else
    match a.entry with
    | none => s
    | some id => s.withSw { s.sw with queue := s.sw.queue.map (fun e =>
        if e.id == id then { e with bytes := e.bytes ++ content, flits := e.flits + 1, whole := e.whole || flLast f }
        else e) }

/-- The frame that a link was receiving has left the queue it was put into. -/
def State.frameGone (s : State) (a : Arriving) : Bool :=
  match a.entry with
  | some id => !(s.sw.queue.any (fun e => e.id == id))
  | none => false

/-- The content of an accepted DATA flit joins its frame (R106). A flit that starts a frame while another of its class is
unfinished ends that one; one that continues no frame is discarded. -/
def State.acceptData (s : State) (l : LinkId) (f : Flit) (payload : Bytes) : State :=
  let c := flClass f
  let open_ := s.openFrame l c
  let s := s.startData l f
  let cur := if flFirst f then some ({ cls := c, bytes := [], flits := 0, whole := false, entry := none,
                                       dropped := bits (s.link l).cfg.toNat 5 4 == 2, tick := s.bell.ticks,
                                       stamp := s.now } : Arriving) else open_
  match cur with
  | none => s.oweCredit l c 1
  | some a => s.growFrame l f (payload.take (flValid f)) a (a.dropped || s.frameGone a)

/-- A DATA flit accepted on a looped link (R539, R542): at depth 2 it goes back to the peer; at depth 3 it joins a request frame. -/
def State.acceptLooped (s : State) (l : LinkId) (f : Flit) (payload : Bytes) : State :=
  let c := flClass f
  let content := payload.take (flValid f)
  if s.test.lb.depth == 2 then
    s.modLink l (fun k => { k with echo := k.echo ++ [⟨c, flFirst f, flLast f, content⟩] })
  else
    let open_ := (s.link l).arriving.find? (fun a => a.cls == c && !a.whole)
    let s := match flFirst f, open_ with
      | true, some a => (s.oweCredit l c a.flits).modLink l (fun k => { k with arriving := k.arriving.erase a })
      | _, _ => s
    let cur := if flFirst f then some ({ cls := c, bytes := [], flits := 0, whole := false, entry := none, dropped := false,
                                         tick := s.bell.ticks, stamp := s.now } : Arriving) else open_
    match cur with
    | none => s.oweCredit l c 1
    | some a =>
      let b := { a with bytes := a.bytes ++ content, flits := a.flits + 1, whole := flLast f }
      s.modLink l (fun k => { k with arriving := (if flFirst f then k.arriving else k.arriving.erase a) ++ [b] })

/-- A sequenced flit is accepted (R108, R110, R122). -/
def State.acceptFlit (s : State) (l : LinkId) (f : Flit) (payload : Bytes) : State :=
  let next := flPhase f != (s.link l).phase.toNat && (s.link l).encrypted
  let cr := flCrClass f
  let s := s.modLink l (fun k =>
    let credits := if h : cr < 8 then k.credits.set cr (k.credits[cr] + flCrCount f) else k.credits
    { k with rxNext := k.rxNext + 1, waiting := false, reqs := 0, waitTick := s.bell.ticks, aliveAt := s.bell.ticks,
             credits := credits, rxNew := if next then k.rxNew + 1 else k.rxNew })
  -- R122 step 4: 512 flits under the new key retire the old one
  let k := s.link l
  let s := if 512 ≤ k.rxNew && k.nextKey.isSome && (k.txSwitch.any (· ≤ k.txNext)) then
      (s.modLink l (fun k => { k with key := k.nextKey, nextKey := none, phase := 3 - k.phase, rxNew := 0,
                                      keyBase := k.txSwitch.getD k.txNext, txSwitch := none })).bump
        Reg.secRekeys
    else s
  match flType f with
  | 1 => if (s.link l).looped then s.acceptLooped l f payload else s.acceptData l f payload
  | 2 => s.modLink l (fun k => { k with ctlIn := some (field payload 0 8) })
  | 3 => s.takeFragment l (payload.take (flValid f))
  | _ => s

/-- R110: a sequenced flit that passes its check, in ACTIVE. -/
def State.rollCall (s : State) (l : LinkId) (f : Flit) (payload : Bytes) : State :=
  let p := l.port.val
  let k := s.link l
  let d := (flRoll f + 65536 - k.rxNext % 65536) % 65536
  if d == 0 then s.acceptFlit l f payload
  else if 32768 ≤ d then s.bump (Reg.portDup p)
  else if k.waiting then s
  else
    ((s.bump (Reg.portGap p)).modLink l (fun k =>
      { k with waiting := true, reqs := 1, waitTick := s.bell.ticks })).sendReplayReq l

/-- An unsequenced flit in ACTIVE (R104, R95, R100): a request to replay, or a timestamp. -/
def State.unsequenced (s : State) (l : LinkId) (f : Flit) (payload : Bytes) : State :=
  let k := s.link l
  match flType f with
  | 5 => s.modLink l (fun k => { k with reqIn := some (BitVec.ofNat 16 (field payload 0 2)) })
  | 6 =>
    if k.looped then s
    else if bits k.cfg.toNat 5 4 == 3 && !k.v09 then
      s.modLink l (fun k => { k with tsIn := some (byteRun payload 0 240, s.now) })
    else s.roleDrop l
  | _ => s

/-- FLIT_RECEIVE (R101, R102, R105, R110, R117, R119). -/
def execFlitReceive (l : LinkId) (f : Flit) (corrected uncorrectable : Nat) (s : State) :
    Host.Outcome State Fault Refusal :=
  let listening := fun (t : Train) => t == .secure || t == .config || t == .active
  if !listening (s.link l).train then .next s
  else
    let s := (s.errPeriod l).fecCount l corrected uncorrectable
    let k := s.link l
    if uncorrectable != 0 || !listening k.train then .next s
    else
      let s := if flType f == 6 then s.modLink l (fun k => { k with tsArrived := k.tsArrived + 1 }) else s
      match openFlit k f with
      | none => .next (s.checkFailed l f)
      | some payload =>
        if flitMalformed f then .next (s.raisePort l 13)
        else if k.train == .secure then
          .next (if flType f == 3 then s.takeFragment l (payload.take (flValid f)) else s)
        else
          let s := s.takeAck l (flAck f)
          if !sequenced (flType f) then .next (if k.train == .active then s.unsequenced l f payload else s)
          else if k.train == .active then .next (s.rollCall l f payload)
          else if flType f != 1 && flRoll f == k.rxNext % 65536 then .next (s.acceptFlit l f payload)
          else .next s

/-- REPLAY_REQ_RECEIVE (R112, R116). -/
def execReplayReqReceive (l : LinkId) (s : State) : Host.Outcome State Fault Refusal :=
  let k := s.link l
  match k.reqIn with
  | none => .next s
  | some n =>
    let s := s.modLink l (fun k => { k with reqIn := none })
    if k.train != .active then .next s
    else
      let d := (n.toNat + 65536 - k.replayBase % 65536) % 65536
      if d ≤ k.replay.length then
        let num := k.replayBase + d
        match k.replayPos with
        | some pos => .next (if num ≤ pos then s.modLink l (fun k => { k with replayPos := some num }) else s)
        | none =>
          if d == k.replay.length then .next s
          else .next ((s.modLink l (fun k => { k with replayPos := some num })).bump (Reg.portReplay l.port.val))
      else if k.replayPos.isSome && 32768 ≤ d then .next ((s.raisePort l 3).toRecovery l)
      else if k.replayPos.isSome then .next s
      else .next ((s.raisePort l 3).toRecovery l)

/-- REPLAY_WAIT_RETRY (R111): 125 slots are 1 us. -/
def execReplayWaitRetry (l : LinkId) (s : State) : Host.Outcome State Fault Refusal :=
  let k := s.link l
  if k.train == .active && k.waiting && k.waitTick + 125 ≤ s.bell.ticks then
    if 4 ≤ k.reqs then .next ((s.raisePort l 3).toRecovery l)
    else .next ((s.modLink l (fun k => { k with reqs := k.reqs + 1, waitTick := s.bell.ticks })).sendReplayReq l)
  else .next s

/-- PEER_DEAD (R114): 16.384 us, which are 2,048 slots, without an advancing count. -/
def execPeerDead (l : LinkId) (s : State) : Host.Outcome State Fault Refusal :=
  let k := s.link l
  if (k.train == .active || k.train == .recovery) && k.aliveAt + 2048 ≤ s.bell.ticks then
    .next (((s.raisePort l 2).toDetect l).timeLinkCheck)
  else .next s

/-- RECOVERY_DONE (R115): REPLAY_REQ for the expected count, as in replay wait. -/
def execRecoveryDone (l : LinkId) (s : State) : Host.Outcome State Fault Refusal :=
  if (s.link l).train == .recovery then
    let s := s.enter l .active
    .next ((s.modLink l (fun k => { k with waiting := true, reqs := 1, waitTick := s.bell.ticks })).sendReplayReq l)
  else .next s

/-- LINK_CTL_REKEY_ANNOUNCE (R122): the flit number from which the next key applies. -/
def execLinkCtlRekeyAnnounce (l : LinkId) (s : State) : Host.Outcome State Fault Refusal :=
  match (s.link l).ctlIn with
  | none => .next s
  | some n =>
    let s := s.modLink l (fun k => { k with ctlIn := none })
    if (s.link l).nextKey.isSome then .next (s.setSwitch l n) else .next s

/-- A margin scan starts (R124). -/
def State.startScan (s : State) (p : Port) (lane : Fin 4) : State :=
  let s := s.wr (Reg.laneMarginStatus p.val lane.val) 0
  if s.test.scans.contains (p, lane) then s else s.withTest { s.test with scans := s.test.scans ++ [(p, lane)] }

/-- LANE_MARGIN_START (R124). -/
def execLaneMarginStart (h : HostPort) (p : Port) (lane : Fin 4) (s : State) : Host.Outcome State Fault Refusal :=
  .next (s.hostWrite h (Reg.laneMarginCtrl p.val lane.val) (fun s => s.startScan p lane))

/-- LANE_MARGIN_DONE (R124): LANE_EYE holds the result. -/
def execLaneMarginDone (p : Port) (lane : Fin 4) (eye : Word) (s : State) : Host.Outcome State Fault Refusal :=
  if s.test.scans.contains (p, lane) then
    .next (((s.withTest { s.test with scans := s.test.scans.erase (p, lane) }).wr (Reg.laneEye p.val lane.val) eye).wr
      (Reg.laneMarginStatus p.val lane.val) 1)
  else .next s

/-! Key establishment (R495 to R498). -/

/-- A link's exchange runs. -/
def State.kexRuns (s : State) (l : LinkId) : Bool := (s.link l).train == .secure && !(s.link l).kex.stopped

/-- SECURE_HELLO (R496 steps 1 and 2): the peer's chain, then the initiator's KEM_EK. -/
def execSecureHello (l : LinkId) (s : State) : Host.Outcome State Fault Refusal :=
  match s.kexTake l 1 with
  | none => .next s
  | some (hello, s) =>
    let k := s.link l
    if !s.kexRuns l || !k.kex.helloPeer.isEmpty then .next s
    else
      match s.checkChain (hello.drop 32) (leafKind ((k.peer.map (·.kind)).getD 0)) with
      | .bad => .next (s.kexRefuse l false)
      | .untrusted => .next (s.kexRefuse l true)
      | .ok leaf =>
        let s := (s.kexHeard l).modKex l (fun x => { x with helloPeer := hello, peerOk := true, peerLeaf := leaf })
        if !k.kex.initiator then .next s
        else
          let (v, s) := s.draw
          let (w, s) := s.draw
          let (ek, dk) := Config.kemKeygen v
          let h1 := Config.shake256 (k.kex.helloOwn ++ hello ++ ek) 64
          let s := s.modKex l (fun x => { x with ek := ek, dk := dk, h1 := h1 })
          .next (s.sendMsg l 2 (ek ++ Config.falconSign Config.otpSeed h1 w))

/-- SECURE_KEM_EK (R496 step 3): the responder verifies, encapsulates, sends KEM_CT and its FINISHED. -/
def execSecureKemEk (l : LinkId) (s : State) : Host.Outcome State Fault Refusal :=
  match s.kexTake l 2 with
  | none => .next s
  | some (msg, s) =>
    let x := (s.link l).kex
    if !s.kexRuns l || x.initiator || !x.peerOk || x.finSent then .next s
    else
      let ek := byteRun msg 0 1568
      let h1 := Config.shake256 (x.helloPeer ++ x.helloOwn ++ ek) 64
      if !Config.falconVerify (certKey x.peerLeaf) h1 (byteRun msg 1568 1280) then .next (s.kexRefuse l false)
      else
        let (v, s) := (s.kexHeard l).draw
        let (w, s) := s.draw
        let (ct, ss) := Config.kemEncaps ek v
        let h2 := Config.shake256 (h1 ++ ct) 64
        let s := s.sendMsg l 3 (ct ++ Config.falconSign Config.otpSeed h2 w)
        let s := s.modKex l (fun x => { x with h1 := h1, h2 := h2 })
        .next ((s.sendFinished l (Config.shake256 (ascii "THOADE-LINK" ++ ss ++ h2) 136)).kexDone l)

/-- SECURE_KEM_CT (R496 step 4): the initiator verifies, decapsulates, derives K and sends its FINISHED. -/
def execSecureKemCt (l : LinkId) (s : State) : Host.Outcome State Fault Refusal :=
  match s.kexTake l 3 with
  | none => .next s
  | some (msg, s) =>
    let x := (s.link l).kex
    if !s.kexRuns l || !x.initiator || !x.peerOk || x.finSent then .next s
    else
      let ct := byteRun msg 0 1568
      let h2 := Config.shake256 (x.h1 ++ ct) 64
      if !Config.falconVerify (certKey x.peerLeaf) h2 (byteRun msg 1568 1280) then .next (s.kexRefuse l false)
      else
        let ss := Config.kemDecaps x.dk ct
        let s := (s.kexHeard l).modKex l (fun x => { x with h2 := h2 })
        .next ((s.sendFinished l (Config.shake256 (ascii "THOADE-LINK" ++ ss ++ h2) 136)).kexDone l)

/-- SECURE_FINISHED (R496 step 5). One that arrives before this side holds K waits for it. -/
def execSecureFinished (l : LinkId) (s : State) : Host.Outcome State Fault Refusal :=
  match (s.link l).kex.k with
  | none => .next s
  | some k =>
    match s.kexTake l 4 with
    | none => .next s
    | some (msg, s) =>
      let x := (s.link l).kex
      if !s.kexRuns l || x.finGot then .next s
      else if msg == Config.shake256 (ascii (if x.initiator then "FIN-R" else "FIN-I") ++ k) 32 then
        .next (((s.kexHeard l).modKex l (fun x => { x with finGot := true })).kexDone l)
      else .next (s.kexRefuse l false)

/-- SECURE_ABORT (R497): the peer's ABORT stops the exchange. -/
def execSecureAbort (l : LinkId) (s : State) : Host.Outcome State Fault Refusal :=
  match s.kexTake l 5 with
  | none => .next s
  | some (_, s) =>
    if (s.link l).train == .secure then .next (s.modKex l (fun x => { x with stopped := true, sent := [] })) else .next s

/-- SECURE_RESEND (R495): 125,000 slots are 1 ms. -/
def execSecureResend (l : LinkId) (s : State) : Host.Outcome State Fault Refusal :=
  let x := (s.link l).kex
  if s.kexRuns l && !x.sent.isEmpty && x.lastTick + 125000 ≤ s.bell.ticks then
    let flits := x.sent.flatMap (fun m => (fragments m.1 m.2).map secureFlit)
    let s := s.modKex l (fun x => { x with lastTick := s.bell.ticks })
    .next (flits.foldl (fun s f => s.emit (.flit l f)) s)
  else .next s

/-- REKEY_EK (R498): answered with REKEY_CT; when both sides sent one, the original initiator's exchange proceeds. -/
def execRekeyEk (l : LinkId) (s : State) : Host.Outcome State Fault Refusal :=
  match s.kexTake l 0x11 with
  | none => .next s
  | some (ek, s) =>
    let k := s.link l
    if k.train != .active || !k.encrypted || k.nextKey.isSome || (k.kex.rekeyOwn && k.kex.initiator) || !s.entropyOk then
      .next s
    else
      let (v, s) := s.draw
      let (ct, ss) := Config.kemEncaps ek v
      let s := s.modKex l (fun x => { x with rekeyOwn := false, rekeyEk := [], rekeyDk := [] })
      .next ((s.setNextKey l ss).sendMsg l 0x12 ct)

/-- REKEY_CT (R498): K' is derived, and this side announces the switch. -/
def execRekeyCt (l : LinkId) (s : State) : Host.Outcome State Fault Refusal :=
  match s.kexTake l 0x12 with
  | none => .next s
  | some (ct, s) =>
    let x := (s.link l).kex
    if (s.link l).train != .active || !x.rekeyOwn then .next s
    else
      let s := s.modKex l (fun x => { x with rekeyOwn := false, rekeyEk := [], rekeyDk := [] })
      .next ((s.setNextKey l (Config.kemDecaps x.rekeyDk ct)).announceKey l)

end Sys2Proof.Machine
end

