-- ==== Sys2Proof/Machine/GatewayOps.lean ====
section
/-!
DEFINITION. Gateway ports' shared operations (04 R152 to R154; 08 R264, R275): which frames a gateway takes from its egress,
combine buffers and their flushes, read-ahead buffers.
-/
namespace Sys2Proof.Machine

def State.gateway (s : State) (p : Port) : Gateway := s.mort.gw.get Gateway.reset p.val
def State.setGateway (s : State) (p : Port) (g : Gateway) : State :=
  s.withMort { s.mort with gw := s.mort.gw.put Gateway.reset p.val g }

/-- FLUSH_PERIODS of a port (R156). -/
def State.flushPeriods (s : State) (p : Port) : Nat := max 1 (bits (s.rd (Reg.gwCfg p.val)).toNat 15 8)

/-- ADDR[63:15] of a frame. -/
def framePlank (f : Frame) : BitVec 49 := f.addr.extractLsb' 15 49

/-- A combine buffer holds lines of the plank, switch and job of a frame (R264). -/
def Combine.meets (b : Combine) (f : Frame) : Bool :=
  b.dest == f.dest && b.job == f.job && b.ak == f.ak && b.plank == framePlank f

/-- A request that may not pass before the flush of its plank (R264). -/
def Gateway.holds (g : Gateway) (f : Frame) : Bool :=
  g.combine.any (fun b => b.meets f) || g.flushing.contains (f.job.toNat, f.dest.toNat, (framePlank f).toNat)

/-- The frame comes from this gateway itself. -/
def State.ownFrameOf (s : State) (p : Port) (f : Frame) : Bool := f.srcUnit.toNat == p.val && f.srcSwitch == s.swNum

/-- A line write that the port combines (R152). -/
def State.combines (s : State) (p : Port) (f : Frame) (c : Cls) : Bool :=
  !bit f.flags 4 && (f.opcode == 0x02 || f.opcode == 0x03) && bits (s.rd (Reg.gwCfg p.val)).toNat (16 + c.val) (16 + c.val) == 1

/-- A line read for which the port reads ahead (R152). -/
def State.readsAhead (s : State) (p : Port) (f : Frame) (c : Cls) : Bool :=
  !bit f.flags 4 && f.opcode == 0x01 && bits (s.rd (Reg.gwCfg p.val)).toNat (24 + c.val) (24 + c.val) == 1

/-- A frame that a gateway takes in place of the egress, or holds back (R152 to R154, R264, R275). -/
def State.gatewayTakes (s : State) (p : Port) (e : QEntry) : Bool :=
  let f : Frame := ⟨e.hdr, [], 0⟩
  s.role p == 3 && f.dest != s.swNum && e.sent == 0 && !e.past && !f.isCpl && !s.ownFrameOf p f
    && (f.opcode == 0x50 || s.combines p f e.cls || s.readsAhead p f e.cls || (s.gateway p).holds f)

/-- Byte mask and bytes of a combined line; bytes that no write has set are open. -/
def Combine.line (b : Combine) (fill : Bytes) (i : Nat) : Bytes :=
  let m := b.lines.get 0 i
  (List.range 128).map (fun j => if bit m j then b.data.get 0 (128 * i + j) else fill.getD j 0)

/-- Flush a combine buffer as one PLANK_MERGE of the port (R153). -/
def State.flushBuffer (s : State) (p : Port) (b : Combine) : State :=
  let g := s.gateway p
  let key := (b.job.toNat, b.dest.toNat, b.plank.toNat)
  let s := s.setGateway p { g with combine := g.combine.erase b, flushing := g.flushing ++ [key] }
  let present := b.lines.map (·.1)
  let mask := present.foldl (fun m i => setBit m i) (0 : BitVec 256)
  let partly := b.lines.any (fun l => l.2 != BitVec.allOnes 128)
  let (fill, s) := if partly then s.drawBytes 128 else ([], s)
  let payload := leBytes 32 mask.toNat ++ present.flatMap (b.line fill)
  let hdr := HdrFields.pack { addr := b.plank ++ (0 : BitVec 15), seq := 0, len := payload.length, dest := b.dest, srcSwitch := s.swNum,
                              srcUnit := BitVec.ofNat 10 p.val, tag := 0, job := b.job, opcode := 0x22, ak := b.ak }
  s.originate (BitVec.ofNat 10 p.val) (clusterOf p) b.cls hdr payload (.gwFlush p key.1 key.2.1 key.2.2)

/-- Flush every buffer of a port that a test picks, in order of their first lines. -/
def State.flushWhere (s : State) (p : Port) (pick : Combine → Bool) : State :=
  ((s.gateway p).combine.filter pick).foldl (fun s b => s.flushBuffer p b) s

/-- Requests at the head of this port's queues whose plank is being combined cause its flush (R264). -/
def State.flushAhead (s : State) (p : Port) : State :=
  if (s.gateway p).combine.isEmpty then s
  else
    let heads := s.sw.queue.filter (fun e => e.dest == .port p && e.sent == 0)
    heads.foldl (fun s e =>
      let f : Frame := ⟨e.hdr, [], 0⟩
      if f.isCpl || e.past || s.ownFrameOf p f || s.combines p f e.cls then s else s.flushWhere p (fun b => b.meets f)) s

/-- Put bytes of a line write into a buffer: a later line overwrites an earlier one (R153). -/
def Combine.merge (b : Combine) (i : Nat) (mask : BitVec 128) (line : Bytes) : Combine :=
  { b with lines := b.lines.put 0 i (b.lines.get 0 i ||| mask),
           data := (List.range 128).foldl (fun t j => if bit mask j then t.put 0 (128 * i + j) (line.getD j 0) else t) b.data }

/-- Complete a request at a gateway, which is its consuming endpoint (R153, R154). -/
def State.gatewayCpl (s : State) (p : Port) (c : Cls) (f : Frame) (st : BitVec 8) (data : Bytes) : State :=
  s.complete (clusterOf p) c f st (f.opcode == 0x01) data 0 (BitVec.ofNat 10 p.val)

end Sys2Proof.Machine
end

