-- ==== Sys2Proof/Machine/SwitchRows.lean ====
section
/-!
DEFINITION. The meanings of the switch core's commands (05 R158 to R184): ingress, store-and-forward, the egress choice at
a flit position, failover, ageing, and the writes of the SWITCH block.
-/
namespace Sys2Proof.Machine

/-! Ingress (R16, R160, R161, R167 to R169, R180, R181). -/

/-- Number of the output that a frame takes, for SW_ERR_CAPTURE. -/
def State.outputNum (s : State) (i : InputId) (dest : BitVec 12) (c : Cls) : Nat :=
  if dest == s.swNum then 192 + (inputCluster i).val
  else
    let e := (s.rd (Reg.swRoute dest.toNat)).toNat
    if c.val < 4 then bits e 7 0 else bits e 15 8

/-- A profile of the policers: RATE and BURST (R179, R183). -/
def State.polRate (s : State) (i : Nat) : Nat := if i = 0 then 0 else bits (s.rd (Reg.polRate i)).toNat 15 0
def State.polBurst (s : State) (i : Nat) : Nat := max 1 (min 4096 (bits (s.rd (Reg.polBurst i)).toNat 12 0))

/-- Profile that polices a port, admission slot and class. -/
def State.polSel (s : State) (p slot c : Nat) : Nat :=
  bits (s.rd (Reg.swPolSel p slot)).toNat (4 * c + 3) (4 * c)

/-- Tokens of a policer now: what it held, with RATE for each slot since, up to BURST (R179). -/
def State.polTokens (s : State) (p slot c : Nat) : Nat :=
  let i := s.polSel p slot c
  let key := polKey p slot c
  min (256 * s.polBurst i) (s.sw.police.get 0 key + s.polRate i * (s.bell.ticks - s.sw.policeAt.get 0 key))

/-- Set a policer's tokens as of now. -/
def State.setPolicer (s : State) (p slot c tokens : Nat) : State :=
  let key := polKey p slot c
  s.withSw { s.sw with police := s.sw.police.put 0 key tokens, policeAt := s.sw.policeAt.put 0 key s.bell.ticks }

/-- Set a policer to the BURST of its profile. -/
def State.fillPolicer (s : State) (p slot c : Nat) : State :=
  s.setPolicer p slot c (256 * s.polBurst (s.polSel p slot c))

/-- The frame that the bytes accepted so far spell: its header and what follows it. -/
def frameSoFar (bs : Bytes) : Frame := ⟨BitVec.ofNat 256 (leNat (byteRun bs 0 32)), bs.drop 32, 0⟩

/-- The frame now arriving is not queued: its flits leave the input buffer. -/
def State.dropArriving (s : State) (l : LinkId) (a : Arriving) : State :=
  let s := s.oweCredit l a.cls a.flits
  s.modLink l (fun k =>
    { k with arriving := if a.whole then k.arriving.erase a
                         else k.arriving.map (fun b => if b == a then { b with dropped := true } else b) })

/-- Refuse a request at its ingress port: the completion goes back to that port (R16, R143). -/
def State.refuseIngress (s : State) (l : LinkId) (a : Arriving) (f : Frame) (st : Status) : State :=
  let s := (s.addJob f.job 3 1).dropArriving l a
  let cpl := Frame.sealed (cplHdr s f st (cplHasData f) 0 0 Config.memoryUnit) []
  s.toPort l.port (if s.isSplit l.port then some (l.val % 2 == 1) else none) a.cls cpl

/-- The request kinds that a 0.9 peer may not send (R100). -/
def v10Only (op : BitVec 8) : Bool :=
  op == 0x20 || op == 0x21 || op == 0x22 || op == 0x38 || op == 0x40 || op == 0x48

/-- Requests that an agent source holds open toward a switch, at one ingress port (R140). -/
def State.openFrom (s : State) (p : Port) (f : Frame) : Nat :=
  (s.mort.agents.filter (fun t => t.port == p && t.srcSwitch == f.srcSwitch && t.srcUnit == f.srcUnit
    && t.dest == f.dest)).length

/-- Flits per slot of the link that leads to an egress port. -/
def State.egressRate (s : State) (p : Port) : Nat := (s.link p.link).flitsPerSlot

/-- The completion of an ORDER frame at the gateway that forwarded it takes a failed flush's status in place of OK (R153). -/
def State.replaceStatus (s : State) (p : Port) (a : Arriving) (f : Frame) : Arriving × State :=
  let g := s.gateway p
  match g.replace.find? (fun r => r.1 == (f.tag.toNat, f.seq.toNat)) with
  | none => (a, s)
  | some r =>
    if !f.isCpl then (a, s)
    else
      let s := s.setGateway p { g with replace := g.replace.erase r }
      if f.status != St.ok then (a, s)
      else
        let f := Frame.sealed (f.hdr ||| (r.2.setWidth 256 <<< 56)) []
        ({ a with bytes := f.toBytes }, s)

/-- A frame whose first flit has been accepted enters a queue of the switch core (R160, R163, R167, R169). -/
def State.queueFrame (s : State) (l : LinkId) (a : Arriving) (f : Frame) : State :=
  let p := l.port
  let i := portIn p
  let s := s.mirror a.stamp p false a.cls.val f.job false a.bytes (36 + f.len)
  let dest := if f.dest == s.swNum then some Dest.home else (s.route f.dest i a.cls).map Dest.port
  match dest with
  | none => (s.dropArriving l a).dropNoRoute i a.cls f
  | some d =>
    let demote := match d with
      | .port q => decide ((s.link l).flitsPerSlot < s.egressRate q)
      | .home => false
    let wants := bit (s.rd (Reg.swPortCfg p.val)) a.cls.val
    let s := if demote && !wants then s.bump Reg.swCtDemote else s
    let e : QEntry := { id := s.sw.nextId, input := i, half1 := l.val % 2 == 1, dest := d, toHalf1 := none, cls := a.cls,
                        hdr := f.hdr, bytes := a.bytes, flits := a.flits, whole := a.whole, short := false,
                        saf := wants || demote, eligible := !(wants || demote), sent := 0, lastAt := 0, tick := a.tick,
                        bound := s.bell.bounds, len := s.bell.len, crossed := false, past := false }
    let s := s.withSw { s.sw with queue := s.sw.queue ++ [e], nextId := s.sw.nextId + 1 }
    s.modLink l (fun k =>
      { k with arriving := if a.whole then k.arriving.erase a
                           else k.arriving.map (fun b => if b == a then { b with entry := some e.id } else b) })

/-- The tests of an A-role port on a request, in order: admission, policer, open tags (R16). -/
def State.admitRequest (s : State) (l : LinkId) (a : Arriving) (f : Frame) : State :=
  let p := l.port
  let i := portIn p
  match s.admitSlot p f.job with
  | none => ((s.bump Reg.mortAdmitDrop).raiseMort 2 f St.denied).refuseIngress l a f St.denied
  | some slot =>
    let prof := s.polSel p.val slot a.cls.val
    let need := 256 * frameFlits f.len
    let have' := s.polTokens p.val slot a.cls.val
    let policed := s.polRate prof != 0
    if policed && have' < need then
      let s := (s.bump Reg.swPoliceDrop).raiseSw 6 i.val (s.outputNum i f.dest a.cls) a.cls.val
      (s.mirror a.stamp p false a.cls.val f.job true a.bytes (36 + f.len)).refuseIngress l a f St.denied
    else
      let s := if policed then s.setPolicer p.val slot a.cls.val (have' - need) else s
      if 512 ≤ s.openFrom p f then (s.raiseMort 9 f St.denied).refuseIngress l a f St.denied
      else
        let t : AgentTag := { port := p, srcSwitch := f.srcSwitch, srcUnit := f.srcUnit, tag := f.tag, seq := f.seq,
                              dest := f.dest, half1 := l.val % 2 == 1 }
        (s.withMort { s.mort with agents := s.mort.agents ++ [t] }).queueFrame l a f

/-- INGRESS_FIRST_FLIT (R16, R100, R143, R160, R180): the oldest arriving frame of a class that no queue holds yet. -/
def execIngressFirstFlit (l : LinkId) (c : Cls) (s : State) : Host.Outcome State Fault Refusal :=
  let k := s.link l
  match k.arriving.find? (fun a => a.cls == c && a.entry.isNone && !a.dropped) with
  | none => .next s
  | some a =>
    let f := frameSoFar a.bytes
    let s := s.traceFrame 1 l.port f.hdr
    let role := bits k.cfg.toNat 5 4
    if k.v09 && !f.isCpl && (c.val < 4 || v10Only f.opcode) then .next (s.refuseIngress l a f St.denied)
    else if k.v09 && c.val < 4 then .next ((s.roleDrop l).dropArriving l a)
    else if role == 1 && !f.isCpl then .next (s.admitRequest l a f)
    else
      let (b, s) := s.replaceStatus l.port a f
      let s := s.modLink l (fun k => { k with arriving := k.arriving.map (fun x => if x == a then b else x) })
      .next (s.queueFrame l b (frameSoFar b.bytes))

/-- SAF_FRAME_COMPLETE (R168): the counts of the oldest whole store-and-forward frame are checked. -/
def execSafFrameComplete (l : LinkId) (c : Cls) (s : State) : Host.Outcome State Fault Refusal :=
  let mine := fun (e : QEntry) => e.input == portIn l.port && e.half1 == (l.val % 2 == 1) && e.cls == c && e.saf && e.whole
    && !e.eligible
  match s.sw.queue.find? mine with
  | none => .next s
  | some e =>
    let f : Frame := ⟨e.hdr, e.bytes.drop 32, 0⟩
    if e.flits == frameFlits f.len && e.bytes.length == 36 + f.len then
      .next (s.withSw { s.sw with queue := s.sw.queue.map (fun x => if x.id == e.id then { x with eligible := true } else x) })
    else
      let out := match e.dest with
        | .port p => p.val
        | .home => 192 + (inputCluster e.input).val
      let s := ((s.bump Reg.swLenDrop).raiseSw 0 e.input.val out c.val).dropEntry e
      .next (if f.isCpl then s else s.refuse (inputCluster e.input) c f St.check)

/-! Discards (R81, R163 to R166). -/

/-- Discard a queued frame; a request gets a status, but for a message whose own row completes it (R133). -/
def State.discardEntry (s : State) (e : QEntry) (st : Status) : State :=
  let s := s.dropEntry e
  let f : Frame := ⟨e.hdr, e.bytes.drop 32, 0⟩
  if f.isCpl || s.mort.msgs.any (fun m => m.entry == e.id) then s else s.refuse (inputCluster e.input) e.cls f st

/-- STRANDED_DISCARD (R81): a scheduled frame of this queue that crossed a switch-over and has not left within one term. -/
def execStrandedDiscard (i : InputId) (o : Port) (c : Cls) (s : State) : Host.Outcome State Fault Refusal :=
  match s.sw.queue.find? (fun e => e.input == i && e.dest == .port o && e.cls == c && e.crossed && e.sent == 0) with
  | none => .next s
  | some e =>
    if s.tt.soAt + s.bell.len ≤ s.bell.bounds then .next ((s.raise Reg.ttErr 3).discardEntry e St.timeout) else .next s

/-- AGE_DISCARD (R166): the first frame of a queue that is past its limit. -/
def execAgeDiscard (i : InputId) (o : Port) (c : Cls) (s : State) : Host.Outcome State Fault Refusal :=
  let limit := fun (e : QEntry) => if 4 ≤ c.val then max 1 (bits (s.rd Reg.swBeAge).toNat 15 0) else e.len
  match s.sw.queue.find? (fun e => e.input == i && e.dest == .port o && e.cls == c && e.sent == 0
      && (4 ≤ c.val || !e.crossed) && e.bound + limit e ≤ s.bell.bounds) with
  | none => .next s
  | some e => .next (((s.bump Reg.swAgeDrop).raiseSw 2 i.val o.val c.val).discardEntry e St.timeout)

/-! Failover and failback (R164, R165). -/

/-- The alternate of a best-effort destination whose BE_PORT is p, if it names another port in ACTIVE. -/
def State.alternate (s : State) (p : Port) (dest : BitVec 12) : Option Port :=
  let e := (s.rd (Reg.swRoute dest.toNat)).toNat
  if bits e 25 24 == 1 && bits e 15 8 == p.val && bits e 23 16 != p.val then
    match s.egressOf (bits e 23 16) with
    | some q => if s.portActive q then some q else none
    | none => none
  else none

/-- Some destination of the route table fails over from p. -/
def State.hasAlternate (s : State) (p : Port) : Bool :=
  (s.regs.filter (fun r => Reg.swRoute 0 ≤ r.1 && r.1 < Reg.swRoute 4096)).any (fun r =>
    (s.alternate p (BitVec.ofNat 12 ((r.1 - Reg.swRoute 0) / 4))).isSome)

/-- The link that a queued frame is bound for is gone, or it was part sent when its link ended. -/
def State.stuck (s : State) (p : Port) (e : QEntry) : Bool :=
  let up := fun (l : LinkId) => let t := (s.link l).train; t == .active || t == .recovery
  let orphan := e.sent != 0 && !(s.linksOf p).any (fun l => (s.sw.egress.get Egress.reset l.val).busy.toList.contains (some e.id))
  e.dest == .port p && (orphan || (match e.toHalf1 with
    | none => !s.portUp p
    | some b => !up ⟨2 * p.val + b2n b, by cases b <;> simp [b2n] <;> omega⟩))

/-- A stuck frame moves to the alternate's queue, or is discarded with TIMEOUT. -/
def State.rerouteEntry (s : State) (p : Port) (e : QEntry) : State :=
  let f : Frame := ⟨e.hdr, [], 0⟩
  match (if 4 ≤ e.cls.val && e.sent == 0 then s.alternate p f.dest else none) with
  | some q =>
    s.withSw { s.sw with queue := s.sw.queue.filter (fun x => x.id != e.id) ++ [{ e with dest := .port q, toHalf1 := none }] }
  | none => ((s.bump Reg.swNoroute).raiseSw 3 e.input.val p.val e.cls.val).discardEntry e St.timeout

/-- EGRESS_PORT_DOWN (R164, R165): a port in neither ACTIVE nor RECOVERY. -/
def execEgressPortDown (p : Port) (s : State) : Host.Outcome State Fault Refusal :=
  let down := !s.portUp p
  let moves := down && s.hasAlternate p && (!s.sw.failed.contains p || s.sw.backOn.any (fun b => b.1 == p))
  let s := if moves then
      let s := s.withSw { s.sw with failed := if s.sw.failed.contains p then s.sw.failed else s.sw.failed ++ [p],
                                    backOn := s.sw.backOn.filter (fun b => b.1 != p) }
      (s.bump Reg.swFailover).raiseSw 4 0 p.val 4
    else s
  .next ((s.sw.queue.filter (s.stuck p)).foldl (fun s e => s.rerouteEntry p e) s)

/-- FAILBACK (R164): an input routes back for each class whose queue toward the alternate is empty of those destinations. -/
def execFailback (p : Port) (i : InputId) (s : State) : Host.Outcome State Fault Refusal :=
  if s.sw.failed.contains p && s.portActive p then
    let clear := fun (c : Cls) => !s.sw.queue.any (fun e =>
      let dest := (⟨e.hdr, [], 0⟩ : Frame).dest
      let r := (s.rd (Reg.swRoute dest.toNat)).toNat
      e.input == i && e.cls == c && bits r 15 8 == p.val && e.dest != .port p && e.dest != .home)
    let now := ([4, 5, 6, 7] : List Cls).filter (fun c => clear c && !s.sw.backOn.contains (p, i, c))
    let back := s.sw.backOn ++ now.map (fun c => (p, i, c))
    let all := (back.filter (fun b => b.1 == p)).length == 816
    .next (s.withSw { s.sw with backOn := if all then back.filter (fun b => b.1 != p) else back,
                                failed := if all then s.sw.failed.erase p else s.sw.failed })
  else .next s

/-! The egress (R172 to R177). -/

/-- The key direction in force for the next flit of a sender, and its KEY_PHASE (R119, R122). -/
def Link.txKey (k : Link) : Option (KeyDir × Nat) :=
  match k.key with
  | none => none
  | some a =>
    match k.nextKey, k.txSwitch with
    | some b, some n => if n ≤ k.txNext then some (b.tx, 3 - k.phase.toNat) else some (a.tx, k.phase.toNat)
    | _, _ => some (a.tx, k.phase.toNat)

/-- The lowest class to which credits are owed, and how many one flit can return (R103, R108). -/
def Link.creditReturn (k : Link) : Nat × Nat :=
  match (List.range 8).find? (fun c => k.owed.toList.getD c 0 != 0) with
  | some c => (c, min 127 (k.owed.toList.getD c 0))
  | none => (0, 0)

/-- ACK_SEQ and ROLL_CALL of a flit (R104, R106). -/
def Link.seqWord (k : Link) (roll : Nat) : Word :=
  BitVec.ofNat 32 ((k.rxNext + 65535) % 65536 * 65536 + roll % 65536)

/-- Send a new sequenced flit: the next count, credits returned, protection, a place in the replay buffer (R104, R112,
R117, R119). -/
def State.sendSequenced (s : State) (l : LinkId) (type cls : Nat) (first last : Bool) (content : Bytes) : State :=
  let k := s.link l
  let cr := k.creditReturn
  let key := if k.encrypted then k.txKey else none
  let phase := (key.map (·.2)).getD 0
  let head := mkHeader type cls first last cr.1 cr.2 phase content.length
  let f : Flit := ⟨head, byteRun content 0 240, k.seqWord k.txNext, 0⟩
  let f := match key with
    | some (d, _) =>
      let (ct, tag) := Config.gcmSeal d.key (flitNonce d k.txNext) (flitAad f) f.payload
      { f with payload := ct, check := tag }
    | none => { f with check := crc64 (flitBody f) }
  let s := s.modLink l (fun k =>
    { k with txNext := k.txNext + 1, replay := k.replay ++ [f],
             owed := if h : cr.1 < 8 then k.owed.set cr.1 (k.owed[cr.1] - cr.2) else k.owed })
  s.emit (.flit l f)

/-- Send an unsequenced flit under CRC-64 (R104, R117, R120). -/
def State.sendUnsequenced (s : State) (l : LinkId) (type : Nat) (content : Bytes) : State :=
  let k := s.link l
  let f : Flit := ⟨mkHeader type 0 false false 0 0 0 content.length, byteRun content 0 240, k.seqWord (k.txNext + 65535), 0⟩
  s.emit (.flit l { f with check := crc64 (flitBody f) })

/-- The payload of a TIMESTAMP flit (R123). -/
def State.stampContent (s : State) (p : Port) (sub : BitVec 6) : Bytes :=
  let t := s.timeLink p
  let nack := s.bell.master && s.hasTimeLink && s.bell.childNack
  leBytes 8 s.now.toNat ++ leBytes 1 sub.toNat ++ leBytes 1 (s.bell.lock.code.toNat + 4 * b2n nack)
    ++ leBytes 2 (s.bell.len - 1) ++ List.replicate 4 0 ++ leBytes 8 t.peerTx.toNat ++ leBytes 1 t.peerSub.toNat
    ++ leBytes 8 t.rxTime.toNat ++ leBytes 1 t.rxSub.toNat

/-- Send the TIMESTAMP flit that is due (R51, R120, R123). -/
def State.sendStamp (s : State) (l : LinkId) (sub : BitVec 6) : State :=
  let p := l.port
  let k := s.link l
  let key := if k.encrypted then k.txKey else none
  let f : Flit := ⟨mkHeader 6 0 false false 0 0 ((key.map (·.2)).getD 0) 34, byteRun (s.stampContent p sub) 0 240,
    k.seqWord (k.txNext + 65535), 0⟩
  let f := match key with
    | some (d, _) => { f with check := Config.gmac d.key (flitNonce d (2 ^ 63 + k.tsCount)) (flitBody f) }
    | none => { f with check := crc64 (flitBody f) }
  let t := s.timeLink p
  let s := s.setTimeLink p { t with txTime := s.now, txSub := sub, sent := true }
  (s.modLink l (fun k => { k with tsDue := false, tsCount := k.tsCount + 1 })).emit (.flit l f)

/-- The head of each queue toward a link in a class: no earlier frame of the same input is bound the same way (R160). -/
def headsOf (half1 : Bool) (p : Port) (c : Cls) (q : List QEntry) : List QEntry :=
  let mine := q.filter (fun e => e.dest == .port p && e.cls == c && (match e.toHalf1 with
    | none => true
    | some b => b == half1))
  mine.foldl (fun acc e => if acc.any (fun x => x.input == e.input) then acc else acc ++ [e]) []

/-- A bulk plank move (R61). -/
def bulkMove (e : QEntry) : Bool :=
  let f : Frame := ⟨e.hdr, [], 0⟩
  f.opcode == 0x21 || f.opcode == 0x22 || (f.opcode == 0x81 && decide (256 < f.len))

/-- Flits of a frame that are still to be sent, by its header. -/
def flitsLeft (e : QEntry) : Nat := frameFlits (⟨e.hdr, [], 0⟩ : Frame).len - e.sent

/-- The next flit of an entry is at hand. -/
def flitReady (e : QEntry) : Bool := e.eligible && decide (e.sent < e.flits)

/-- Send one DATA flit of a queued frame (R106, R108, R170). -/
def State.sendData (s : State) (l : LinkId) (e : QEntry) : State :=
  let k := s.link l
  let c := e.cls.val
  let first := e.sent == 0
  let last := e.whole && e.sent + 1 == e.flits
  let s := if first then
      (s.mirror s.now l.port true c (⟨e.hdr, [], 0⟩ : Frame).job false e.bytes (36 + (⟨e.hdr, [], 0⟩ : Frame).len)).traceFrame 2
        l.port e.hdr
    else s
  let s := s.modLink l (fun k => { k with credits := k.credits.set c (k.credits[c] - 1) })
  let num := k.txNext
  let s := s.sendSequenced l 1 c first last ((e.bytes.drop (240 * e.sent)).take 240)
  let g := s.sw.egress.get Egress.reset l.val
  let g := { g with busy := g.busy.set c (if last then none else some e.id),
                    lastIn := if first then g.lastIn.set c e.input.val else g.lastIn }
  let s := s.withSw { s.sw with egress := s.sw.egress.put Egress.reset l.val g }
  let s := match entryLink e.input e.half1 with
    | some i => s.oweCredit i e.cls 1
    | none => s
  if !last then
    s.withSw { s.sw with queue := s.sw.queue.map (fun x =>
      if x.id == e.id then { x with sent := x.sent + 1, lastAt := s.bell.ticks } else x) }
  else
    let s := if s.mort.msgs.any (fun m => m.entry == e.id) then
        s.modLink l (fun k => { k with unacked := k.unacked ++ [(e.id, num)] }) else s
    s.withSw { s.sw with queue := s.sw.queue.filter (fun x => x.id != e.id) }

/-- R66: the frame may send in a SEND_PLANK window: it has begun in this window, or all its flits fit before the guard slot. -/
def State.plankFits (s : State) (l : LinkId) (w : BitVec 128) (sub : BitVec 6) (e : QEntry) : Bool :=
  let fps := (s.link l).flitsPerSlot
  let slot := s.bell.now.slot.toNat
  let left := (ttLast w - slot) * fps - sub.toNat * fps / 64
  let opened := s.bell.ticks - (slot - ttFirst w)
  (e.sent != 0 && decide (opened ≤ e.lastAt)) || decide (flitsLeft e ≤ left)

/-- Earliest first flit, ties to the lower input number (R173). -/
def oldest (es : List QEntry) : Option QEntry :=
  es.foldl (fun acc e => match acc with
    | none => some e
    | some b => if e.tick < b.tick || (e.tick == b.tick && e.input.val < b.input.val) then some e else acc) none

/-- The scheduled frame that a window sends at this position (R61, R66, R106, R173). -/
def State.scheduledPick (s : State) (l : LinkId) (w : BitVec 128) (c : Cls) (sub : BitVec 6) : Option QEntry :=
  let p := l.port
  let g := s.sw.egress.get Egress.reset l.val
  let heads := headsOf (l.val % 2 == 1) p c s.sw.queue
  let cand := match g.busy[c.val] with
    | some id => s.sw.queue.filter (fun (e : QEntry) => e.id == id && flitReady e)
    | none => heads.filter (fun e => flitReady e && e.sent == 0 && !s.gatewayTakes p e)
  if ttAction w == 1 then oldest (cand.filter (fun e => !bulkMove e))
  else
    match oldest (cand.filter (fun e => bulkMove e && s.plankFits l w sub e)) with
    | some e => some e
    | none => oldest (cand.filter (fun e => !bulkMove e))

/-- The best-effort frame of a class that may send here: gate, credit and shaper tokens permitting (R68, R174, R177). -/
def State.bestEffortPick (s : State) (l : LinkId) (c : Cls) : Option QEntry :=
  let p := l.port
  let g := s.sw.egress.get Egress.reset l.val
  let free := fun (e : QEntry) => s.shapeRate (s.shapeSel p.val c.val) == 0
    || decide (256 ≤ s.sw.tokens.get 0 (vqKey e.input.val p.val c.val))
  if !bit (s.gate p) c.val || (s.link l).credits[c.val] == 0 then none
  else
    match g.busy[c.val] with
    | some id => s.sw.queue.find? (fun e => e.id == id && flitReady e && free e)
    | none =>
      let cand := (headsOf (l.val % 2 == 1) p c s.sw.queue).filter (fun e =>
        flitReady e && e.sent == 0 && free e && !s.gatewayTakes p e)
      let after := fun (e : QEntry) => (e.input.val + 203 - g.lastIn[c.val]) % 204
      cand.foldl (fun acc e => match acc with
        | none => some e
        | some b => if after e < after b then some e else acc) none

/-- Turns that R174 tries from a turn on: the class whose turn it is while allowance is left, then the others in order. -/
def turns (g : Egress) : List Cls :=
  let next := fun (c : Cls) => (if c == 7 then 4 else c + 1 : Cls)
  let t := g.turn
  let rest := [next t, next (next t), next (next (next t)), t]
  if g.left == 0 then rest else t :: rest

/-- Take one token of the queue a flit leaves; an emptied queue is inactive and holds none (R177). -/
def State.payToken (s : State) (p : Port) (e : QEntry) : State :=
  let key := vqKey e.input.val p.val e.cls.val
  let empty := !s.sw.queue.any (fun x => x.dest == .port p && x.cls == e.cls && x.input == e.input)
  let paced := s.shapeRate (s.shapeSel p.val e.cls.val) != 0
  let tok := s.sw.tokens.get 0 key
  s.withSw { s.sw with tokens := s.sw.tokens.put 0 key (if empty then 0 else if paced then tok - 256 else tok) }

/-- Rank 4 of R172, else an IDLE flit. -/
def State.bestEffort (s : State) (l : LinkId) : State :=
  let g := s.sw.egress.get Egress.reset l.val
  match (turns g).find? (fun c => (s.bestEffortPick l c).isSome) with
  | none => s.sendSequenced l 0 0 false false []
  | some c =>
    match s.bestEffortPick l c with
    | none => s.sendSequenced l 0 0 false false []
    | some e =>
      let weight := max 1 (bits (s.rd (Reg.swBeWeight l.port.val)).toNat (8 * (c.val - 4) + 7) (8 * (c.val - 4)))
      let left := if c == g.turn && g.left != 0 then g.left - 1 else weight - 1
      let s := s.withSw { s.sw with egress := s.sw.egress.put Egress.reset l.val { g with turn := c, left := left } }
      (s.sendData l e).payToken l.port e

/-- The SEND window that a position lies in, its guard slot excluded (R64). -/
def State.openWindow (s : State) (l : LinkId) : Option (BitVec 128) :=
  match s.sendWindow l.port with
  | some (_, w) => if ttLast w == s.bell.now.slot.toNat then none else some w
  | none => none

/-- The windows of a T-role port and of a 0.9 link stay empty (R95, R100). -/
def Link.emptyWindows (k : Link) : Bool := bits k.cfg.toNat 5 4 == 2 || k.v09

/-- Ranks 2 to 5 of R172 at one position. -/
def State.payloadFlit (s : State) (l : LinkId) (sub : BitVec 6) : State :=
  let p := l.port
  match s.openWindow l with
  | some w =>
    let c : Cls := ⟨ttClass w % 8, Nat.mod_lt _ (by decide)⟩
    match (if bit (s.gate p) c.val && !s.inRecess 0 p.val && !(s.link l).emptyWindows then s.scheduledPick l w c sub else none) with
    | none => s.sendSequenced l 0 0 false false []
    | some e =>
      if (s.link l).credits[c.val] == 0 then (s.bump (Reg.portSchedStall p.val)).sendSequenced l 0 0 false false []
      else s.sendData l e
  | none =>
    if (s.link l).tsDue then s.sendStamp l sub
    else if s.maintHolds p then s.sendSequenced l 0 0 false false []
    else s.bestEffort l

/-- A looped link sends what its loop-back returns, as credits allow (R539, R542). A flit that goes back leaves the input buffer. -/
def State.loopFlit (s : State) (l : LinkId) : State :=
  match (s.link l).echo with
  | [] => s.sendSequenced l 0 0 false false []
  | e :: rest =>
    let c := e.cls.val
    if (s.link l).credits[c] == 0 then s.sendSequenced l 0 0 false false []
    else
      let s := s.modLink l (fun k => { k with echo := rest, credits := k.credits.set c (k.credits[c] - 1) })
      let s := if s.test.lb.depth == 2 then s.oweCredit l e.cls 1 else s
      s.sendSequenced l 1 c e.first e.last e.content

/-- One flit position of a link in ACTIVE (R112, R113, R172). -/
def State.activeFlit (s : State) (l : LinkId) (sub : BitVec 6) : State :=
  let s := s.flushAhead l.port
  let s := if 2 ^ 32 ≤ (s.link l).txNext - (s.link l).keyBase then s.startRekey l else s
  let k := s.link l
  match k.ctlOut with
  | ⟨5, content⟩ :: rest => (s.modLink l (fun k => { k with ctlOut := rest })).sendUnsequenced l 5 content
  | q =>
    match k.replayPos with
    | some n =>
      match k.replay[n - k.replayBase]? with
      | some f =>
        let more := n + 1 < k.replayBase + k.replay.length
        (s.modLink l (fun k => { k with replayPos := if more then some (n + 1) else none })).emit (.flit l f)
      | none => s.modLink l (fun k => { k with replayPos := none })
    | none =>
      if k.replaySize ≤ k.replay.length then (s.bump (Reg.portHold l.port.val)).sendUnsequenced l 4 []
      else
        match q with
        | c :: rest =>
          (s.modLink l (fun k => { k with ctlOut := rest })).sendSequenced l c.type.toNat 0 false false c.content
        | [] => if k.looped then s.loopFlit l else s.payloadFlit l sub

/-- EGRESS_FLIT_POSITION (R172, R173): one flit position of a link; in CONFIG the link sends IDLE flits (R98). -/
def execEgressFlitPosition (l : LinkId) (sub : BitVec 6) (s : State) : Host.Outcome State Fault Refusal :=
  let k := s.link l
  if k.train == .config then .next (s.sendSequenced l 0 0 false false [])
  else if k.train == .active then .next (s.activeFlit l sub)
  else .next s

/-! Writes of the SWITCH block (R162, R178, R179, R181, R183). -/

/-- SHAPE_BURST; profile 0 is read-only (R176). -/
def State.writeShapeBurst (s : State) (i : Fin 256) (v : Word) : State :=
  if i.val == 0 then s
  else
    let s := s.wrMasked (Reg.shapeBurst i.val) v
    s.withSw { s.sw with burstPend := if s.sw.burstPend.contains i then s.sw.burstPend else s.sw.burstPend ++ [i] }

/-- SHAPE_BURST_WRITE (R178). -/
def execShapeBurstWrite (h : HostPort) (profile : Fin 256) (v : Word) (s : State) : Host.Outcome State Fault Refusal :=
  .next (s.hostWrite h (Reg.shapeBurst profile.val) (fun s => s.writeShapeBurst profile v))

def State.writeShapeSel (s : State) (p : Port) (c : Cls) (v : Word) : State :=
  if c.val < 4 then s
  else
    let s := s.wrMasked (Reg.swShapeSel p.val c.val) v
    s.withSw { s.sw with selPend := if s.sw.selPend.contains (p, c) then s.sw.selPend else s.sw.selPend ++ [(p, c)] }

/-- SHAPE_SEL_WRITE (R178). -/
def execShapeSelWrite (h : HostPort) (p : Port) (c : Cls) (v : Word) (s : State) : Host.Outcome State Fault Refusal :=
  .next (s.hostWrite h (Reg.swShapeSel p.val c.val) (fun s => s.writeShapeSel p c v))

def State.writePolSel (s : State) (p : Port) (slot : Fin 16) (v : Word) : State :=
  let old := (s.rd (Reg.swPolSel p.val slot.val)).toNat
  let s' := s.wr (Reg.swPolSel p.val slot.val) v
  ((List.range 8).filter (fun c => bits old (4 * c + 3) (4 * c) != bits v.toNat (4 * c + 3) (4 * c))).foldl
    (fun s c => s.fillPolicer p.val slot.val c) s'

/-- POL_SEL_WRITE (R179). -/
def execPolSelWrite (h : HostPort) (p : Port) (slot : Fin 16) (v : Word) (s : State) : Host.Outcome State Fault Refusal :=
  .next (s.hostWrite h (Reg.swPolSel p.val slot.val) (fun s => s.writePolSel p slot v))

/-- The policers that use a profile: those whose SW_POL_SEL names it. -/
def State.policersOf (s : State) (i : Nat) : List (Nat × Nat × Nat) :=
  (s.regs.filter (fun r => Reg.swPolSel 0 0 ≤ r.1 && r.1 < Reg.swPolSel 192 0)).flatMap (fun r =>
    let n := (r.1 - Reg.swPolSel 0 0) / 4
    ((List.range 8).filter (fun c => bits r.2.toNat (4 * c + 3) (4 * c) == i)).map (fun c => (n / 16, n % 16, c)))

/-- A policer profile; profile 0 is read-only (R183). -/
def State.writePolProfile (s : State) (i : Fin 16) (burst : Bool) (v : Word) : State :=
  if i.val == 0 then s
  else
    let s := s.wrMasked (if burst then Reg.polBurst i.val else Reg.polRate i.val) v
    (s.policersOf i.val).foldl (fun s q => s.fillPolicer q.1 q.2.1 q.2.2) s

/-- POL_PROFILE_WRITE (R179). -/
def execPolProfileWrite (h : HostPort) (profile : Fin 16) (burst : Bool) (v : Word) (s : State) :
    Host.Outcome State Fault Refusal :=
  .next (s.hostWrite h (if burst then Reg.polBurst profile.val else Reg.polRate profile.val)
    (fun s => s.writePolProfile profile burst v))

def State.writeMir (s : State) (m : Fin 8) (n : Bool) (v : Word) : State :=
  let s := (s.wrMasked (if n then Reg.mirN m.val else Reg.mirCfg m.val) v).wr (Reg.mirCount m.val) 0
  s.withSw { s.sw with mirSeen := s.sw.mirSeen.put 0 m.val 0 }

/-- MIR_CFG_WRITE (R181). -/
def execMirCfgWrite (h : HostPort) (session : Fin 8) (n : Bool) (v : Word) (s : State) :
    Host.Outcome State Fault Refusal :=
  .next (s.hostWrite h (if n then Reg.mirN session.val else Reg.mirCfg session.val) (fun s => s.writeMir session n v))

/-- A route entry keeps every bit as written (R162). -/
def State.writeRoute (s : State) (sw : Fin 4096) (v : Word) : State :=
  let s := s.wr (Reg.swRoute sw.val) v
  if bits v.toNat 25 24 ≥ 2 || bits v.toNat 31 26 != 0 then s.raiseSw 5 0 0 0 else s

/-- SW_ROUTE_WRITE (R162). -/
def execSwRouteWrite (h : HostPort) (sw : Fin 4096) (v : Word) (s : State) : Host.Outcome State Fault Refusal :=
  .next (s.hostWriteRwl h (Reg.swRoute sw.val) (fun s => s.writeRoute sw v))

/-- The counters of the SWITCH block (R183). -/
def State.clearSw (s : State) : State :=
  s.zeroRegs [Reg.swCtDemote, Reg.swLenDrop, Reg.swPartialDrop, Reg.swAgeDrop, Reg.swNoroute, Reg.swPoliceDrop,
    Reg.swFailover, Reg.swSampleDrop]

/-- SW_CLR_COUNTERS (R183). -/
def execSwClrCounters (h : HostPort) (s : State) : Host.Outcome State Fault Refusal :=
  .next (s.hostWrite h Reg.swCtrl State.clearSw)

end Sys2Proof.Machine
end

