-- ==== Sys2Proof/Machine/MortRows.lean ====
section
/-!
DEFINITION. The meanings of the transaction commands: the mortise check (04 R132 to R147, R155; 06 R187), messages (R133),
recalls (R150, R193), gateways (R152 to R154), and the ordering commands (08 R268 to R273).
-/
namespace Sys2Proof.Machine

/-! The local output of a cluster (R161, R172). -/

/-- Whole frames at the heads of a cluster's local queues: no earlier frame of the same input and class. -/
def State.homeHeads (s : State) (k : Fin 12) : List QEntry :=
  let mine := s.sw.queue.filter (fun e => e.dest == .home && inputCluster e.input == k)
  let heads := mine.foldl (fun acc e =>
    if acc.any (fun x => x.input == e.input && x.cls == e.cls) then acc else acc ++ [e]) []
  heads.filter (fun e => e.whole && e.eligible)

/-- The frame that a cluster's local output delivers next (R172): classes 0 to 3 by their first flits, then classes 4 to 7 in
round robin over inputs. -/
def State.homeNext (s : State) (k : Fin 12) : Option QEntry :=
  let heads := s.homeHeads k
  match oldest (heads.filter (fun e => e.cls.val < 4)) with
  | some e => some e
  | none =>
    let last := s.mort.lastIn.get 203 k.val
    let after := fun (e : QEntry) => (e.input.val + 203 - last) % 204
    heads.foldl (fun acc e => match acc with
      | none => some e
      | some b => if after e < after b then some e else acc) none

/-- Take a frame from a cluster's local output. -/
def State.takeHome (s : State) (k : Fin 12) (e : QEntry) : State :=
  let s := s.dropEntry { e with sent := 0 }
  if e.cls.val < 4 then s else s.withMort { s.mort with lastIn := s.mort.lastIn.put 203 k.val e.input.val }

/-! The checks of a request (R16, R132, R135). -/

/-- LEN is one that R132 gives the opcode; a reserved opcode has none. -/
def lenOk (f : Frame) : Bool :=
  let op := f.opcode.toNat
  if op = 0x01 || op = 0x20 || op = 0x38 then f.len == 0
  else if op = 0x02 || op = 0x04 then f.len == 128
  else if op = 0x03 || op = 0x05 then f.len == 144
  else if op = 0x14 then f.len == 2 * atomicSize f
  else if 0x10 ≤ op && op ≤ 0x17 then f.len == atomicSize f
  else if op = 0x21 then (if frameVen f then decide (64 ≤ f.len) && decide (f.len ≤ 32768) && f.len % 16 == 0 else f.len == 32768)
  else if op = 0x22 then f.len == 32 + 128 * ((List.range 256).filter (fun i => bit (BitVec.ofNat 256 (field f.payload 0 32)) i)).length
  else if op = 0x30 then decide (1 ≤ f.len) && decide (f.len ≤ 1024)
  else if op = 0x40 then
    (let sub := field f.payload 0 1
     if sub = 0x30 || sub = 0x24 then f.len == 64 else if sub = 0x22 then f.len == 208 else f.len == 16)
  else if op = 0x58 then
    (let sub := field f.payload 0 1
     if sub = 0x10 || sub = 0x11 then (let n := field f.payload 2 2; decide (1 ≤ n) && decide (n ≤ 126) && f.len == 16 + 8 * n)
     else decide (32 ≤ f.len) && decide (f.len ≤ 1024))
  else if op = 0x48 then (let sub := field f.payload 0 1; decide (1 ≤ sub) && decide (sub ≤ 5) && f.len == (if sub = 5 then 144 else 16))
  else if op = 0x50 then f.len == 32
  else false

/-- An ORDER payload keeps the form of R268 and R269. -/
def orderForm (f : Frame) : Bool :=
  let sub := field f.payload 0 1
  let opt := field f.payload 1 1
  let ranged := sub == 1 || sub == 3
  let flagged := sub == 2 || sub == 3
  decide (1 ≤ sub) && decide (sub ≤ 4) && (if flagged then decide (opt ≤ 1) else opt == 0) && field f.payload 2 6 == 0
    && (flagged || field f.payload 8 8 == 0)
    && (ranged || (field f.payload 16 8 == 0 && field f.payload 24 8 == 0))
    && (!ranged || (field f.payload 24 8 != 0 && field f.payload 24 8 % 128 == 0))
    && (sub != 1 || f.addr.toNat == field f.payload 16 8) && (sub != 4 || f.addr == 0)

/-- A DIR request carries only what R298 gives a request, and AK = 1 (R297). -/
def dirForm (f : Frame) : Bool := field f.payload 1 15 == 0 && f.ak

/-- Bytes `i` to `i + n - 1` of a payload are 0. -/
def zeroRun (f : Frame) (i n : Nat) : Bool := field f.payload i n == 0

/-- A ROLL_OP keeps the form of R374, R375 and R388. The index of a part and its home's session travel in bytes 40 to 44 of a
FORWARD (R422; the index by a choice of the model). -/
def rollForm (f : Frame) : Bool :=
  let sub := field f.payload 0 1
  let a := f.addr.toNat
  let epoch := sub == 0x02 || (decide (0x10 ≤ sub) && decide (sub ≤ 0x14)) || sub == 0x30
  f.ak && a / 2 ^ 60 == 0 && bits a 47 47 == 0 && (epoch || f.aux == 0)
    && (if sub = 0x01 || sub = 0x11 || sub = 0x12 then zeroRun f 1 15
        else if sub = 0x02 || sub = 0x25 then zeroRun f 1 3 && zeroRun f 8 8
        else if sub = 0x10 || sub = 0x13 then zeroRun f 1 3 && zeroRun f 7 9
        else if sub = 0x14 then zeroRun f 1 3 && field f.payload 4 1 ≤ 1 && zeroRun f 5 11
        else if sub = 0x30 || sub = 0x24 then
          zeroRun f 1 1 && decide (field f.payload 2 2 < 1024) && decide (1 ≤ field f.payload 10 1) && zeroRun f 12 4
            && (if sub = 0x30 then zeroRun f 40 24 else zeroRun f 41 1 && zeroRun f 45 19)
        else if sub = 0x20 then zeroRun f 1 3 && field f.payload 5 1 ≤ 1 && zeroRun f 6 10
        else if sub = 0x22 then zeroRun f 1 15
        else if sub = 0x23 then zeroRun f 1 3 && zeroRun f 5 11
        else false)

/-- A NET_OP keeps the form of R402, R403, R425 and R426. -/
def netForm (f : Frame) : Bool :=
  let sub := field f.payload 0 1
  let a := f.addr.toNat
  f.ak && a / 2 ^ 60 == 0
    && (if sub = 0x01 then
          bits a 47 24 == 0 && decide (bits a 23 16 < 12) && field f.payload 3 1 ≤ 3 && zeroRun f 5 3 && zeroRun f 10 2 && zeroRun f 24 8
        else if sub = 0x08 then
          bits a 47 8 == 0 && decide (field f.payload 2 1 < 64) && zeroRun f 3 1 && zeroRun f 5 11
        else if sub = 0x10 then bits a 47 0 == 0 && zeroRun f 1 1 && zeroRun f 8 8
        else if sub = 0x11 then bits a 47 0 == 0 && zeroRun f 1 1 && decide (field f.payload 8 2 < 32768) && zeroRun f 10 2
        else false)

/-- A reserved field of a request is not 0, or LEN differs from the table (R15, R129, R132, R133). -/
def requestRsvd (f : Frame) : Bool :=
  let named := f.opcode == 0x30 || f.opcode == 0x38 || f.opcode == 0x40
  f.hdr &&& hdrReserved != 0 || f.status != 0 || (!named && f.aux != 0) || !lenOk f
    || (f.opcode == 0x30 && (f.addr.toNat / 256 != 0 || f.aux.toNat / 16 != 0))
    || (f.opcode == 0x50 && !orderForm f) || (f.opcode == 0x48 && !dirForm f)
    || (f.opcode == 0x40 && !rollForm f) || (f.opcode == 0x58 && !netForm f)

/-- R135: a misaligned address. -/
def misaligned (f : Frame) : Bool :=
  let a := f.addr.toNat
  if isAtomic f.opcode then a % atomicSize f != 0
  else if isPlankOp f.opcode then a % plankBytes != 0
  else if f.opcode == 0x38 then a % 64 != 0
  else if f.opcode == 0x50 then
    let sub := field f.payload 0 1
    (sub == 2 || sub == 3) && a % 8 != 0 || (sub == 1 || sub == 3) && field f.payload 16 8 % 128 != 0
  else if f.opcode == 0x48 || (decide (1 ≤ f.opcode.toNat) && decide (f.opcode.toNat ≤ 5)) then a % 128 != 0
  else false

/-- Rights that R132 names for a request that names memory: 1 R, 2 W, 4 A, 8 C, 16 L. -/
def opRights (f : Frame) : Nat :=
  let op := f.opcode.toNat
  if op = 0x01 || op = 0x20 then 1
  else if op = 0x02 || op = 0x03 || op = 0x21 || op = 0x22 then 2
  else if op = 0x04 || op = 0x05 then 10
  else if 0x10 ≤ op && op ≤ 0x17 then 4
  else if op = 0x38 then 16
  else if op = 0x48 then 8
  else if op = 0x50 then (if field f.payload 1 1 = 1 then 6 else 2)
  else 0

/-- A request refused by the mortise check: counted, reported, completed (R147). -/
def State.refuseMort (s : State) (k : Fin 12) (c : Cls) (f : Frame) (st : Status) : State :=
  (s.countRefusal f st).refuse k c f st

/-- A request refused by R187. -/
def State.refuseReserved (s : State) (k : Fin 12) (c : Cls) (f : Frame) : State :=
  ((s.bump Reg.poolReservedDrop).raisePool 0 (some f)).refuse k c f St.denied

/-- The mortise check of the part of a request's extent that begins `addr` (R147, R187). -/
inductive Admitted where
  | ok (drawer : DrawerId) (offset : Nat) (shared : Bool)
  | mortise (st : BitVec 8)
  | reserved
  deriving DecidableEq, Repr

def State.admitFrame (s : State) (part : Option Nat) (f : Frame) (addr : Dword) (ext rights : Nat) : Admitted :=
  match s.mortise part f.job f.ak addr ext rights with
  | .refuse st => .mortise st
  | .pass d o sh => if s.lendable o ext then .ok d o sh else .reserved

/-- The line that an address lies in. -/
def lineOfAddr (a : Dword) : Dword := a &&& ~~~(127 : Dword)

/-- Extent of a request and where it begins (R147): an atomic's is its line. -/
def requestExtent (f : Frame) : Dword × Nat :=
  if f.opcode == 0x38 then (f.addr, 64)
  else if isPlankOp f.opcode then (f.addr, plankBytes)
  else (lineOfAddr f.addr, 128)

/-- Write-type requests (R260) of the same originator and job that are open and overlap a range (R270). -/
def State.guarded (s : State) (f : Frame) (o n : Nat) : List Nat :=
  (s.mort.served.filter (fun r =>
    let ext := opExtent r.frame.opcode
    let writes := !isRead r.frame.opcode && (r.frame.opcode != 0x50 || field r.frame.payload 0 1 == 3)
    writes && r.frame.srcSwitch == f.srcSwitch && r.frame.srcUnit == f.srcUnit && r.frame.job == f.job
      && decide (r.offset / ext * ext < o + n) && decide (o < r.offset / ext * ext + ext))).map (·.id)
  ++ (s.sw.passed.filter (fun p => p.frame.opcode == 0x50 && decide (1 < field p.frame.payload 0 1) && p.drawer.isSome
    && p.frame.srcSwitch == f.srcSwitch && p.frame.srcUnit == f.srcUnit && p.frame.job == f.job
    && decide (p.offset / 128 * 128 < o + n) && decide (o < p.offset / 128 * 128 + 128))).map (·.id)

/-- Number of the next request accepted. -/
def State.acceptId (s : State) : Nat × State :=
  (s.mort.nextServed, s.withMort { s.mort with nextServed := s.mort.nextServed + 1 })

/-- A snoop or an answer of the directory: neither checked nor completed (R300). -/
def isSnoop (f : Frame) : Bool := f.opcode == 0x48 && decide (0x10 ≤ field f.payload 0 1) && decide (field f.payload 0 1 ≤ 0x12)
def isAnswer (f : Frame) : Bool := f.opcode == 0x48 && decide (0x20 ≤ field f.payload 0 1) && decide (field f.payload 0 1 ≤ 0x22)

/-- A HEARTBEAT or an AGENT_DOWN: it takes no completion, as snoops do (R375). -/
def isRollNote (f : Frame) : Bool := f.opcode == 0x40 && (field f.payload 0 1 == 0x22 || field f.payload 0 1 == 0x23)

/-- A subtype that travels between roll engines (R375). -/
def betweenRolls (f : Frame) : Bool := [0x20, 0x22, 0x23, 0x24, 0x25].contains (field f.payload 0 1)

/-- A frame that travels between roll engines: from a G-role port or from the switch itself, with SRC_UNIT 768 (R375). -/
def State.fromRoll (s : State) (e : QEntry) (f : Frame) : Bool :=
  f.opcode == 0x40 && f.srcUnit == 768
    && (match portOf e.input.val with
        | some p => s.role p == 3
        | none => f.srcSwitch == s.swNum)
    && betweenRolls f

/-- A frame that passes on to its own row; a request counts in its job's view (R504). -/
def State.passOn (s : State) (k : Fin 12) (e : QEntry) (f : Frame) (drawer : Option Nat) (o : Nat) : State :=
  let (id, s) := s.acceptId
  let s := if isSnoop f || isAnswer f || isRollNote f then s else s.addJob f.job 0 1
  s.withSw { s.sw with passed := s.sw.passed ++ [⟨f, e.cls, k, portOf e.input.val, id, drawer, o⟩] }

/-- The check of an ORDER frame: the flag's line first, then the range (R269); the guarded set is taken as it passes (R270). -/
def State.passOrder (s : State) (k : Fin 12) (e : QEntry) (part : Option Nat) (f : Frame) : State :=
  let sub := field f.payload 0 1
  let base : Dword := BitVec.ofNat 64 (field f.payload 16 8)
  let n := field f.payload 24 8
  if sub = 4 then
    match s.mortise12 part f.job with
    | some st => s.refuseMort k e.cls f st
    | none => s.passOn k e f none 0
  else
    let flag := if sub = 1 then Admitted.ok ⟨0, by decide⟩ 0 false else s.admitFrame part f (lineOfAddr f.addr) 128 (opRights f)
    match flag with
    | .mortise st => s.refuseMort k e.cls f st
    | .reserved => s.refuseReserved k e.cls f
    | .ok fd fo _ =>
      if sub = 2 then s.passOn k e f (some fd.val) (fo + f.addr.toNat % 128)
      else
        match s.admitFrame part f base n 0 with
        | .mortise st => s.refuseMort k e.cls f st
        | .reserved => s.refuseReserved k e.cls f
        | .ok d o _ =>
          let members := s.guarded f o n
          let g : Guard := { id := s.mort.nextServed, release := sub == 3, open_ := members, failed := [] }
          let s := if sub = 1 then s.passOn k e f (some d.val) o else s.passOn k e f (some fd.val) (fo + f.addr.toNat % 128)
          s.withPool { s.pool with guards := s.pool.guards ++ [g] }

/-- A request that names memory has passed the mortise check: it is served, or goes to its own row. -/
def State.accept (s : State) (k : Fin 12) (e : QEntry) (f : Frame) (d : DrawerId) (o : Nat) (shared : Bool) : State :=
  if f.opcode == 0x38 then s.passOn k e f (some d.val) o
  else
    let (id, s) := s.acceptId
    let s := s.addJob f.job 0 1
    let r : Served := { id := id, frame := f, cls := e.cls, drawer := d, offset := o + (f.addr.toNat - (requestExtent f).1.toNat),
                        cluster := k, wait := if shared then .directory else .promotion, since := s.bell.bounds, shared := shared,
                        line := 0, acc := [], status := St.ok }
    if shared && f.opcode == 0x21 && frameVen f then (s.withMort { s.mort with served := s.mort.served ++ [r] }).expandFirst r
    else if shared then s.serveShared r
    else s.serveOwned r

/-- R155: a plank transfer of a gateway into a shared window. An agent sets DIRECT there. -/
def gatewayPlank (f : Frame) : Bool := (f.opcode == 0x20 || f.opcode == 0x22) && decide (f.srcUnit.toNat < 192) && !bit f.flags 4

/-- A directory request that R291 or R293 refuses. -/
def State.dirRefused (s : State) (part : Option Nat) (f : Frame) : Bool :=
  let sub := field f.payload 0 1
  let need := if sub = 1 then 9 else if sub = 4 then 8 else 10
  decide (192 ≤ f.srcUnit.toNat) || (match s.mortise part f.job f.ak f.addr 128 need with
    | .pass _ _ shared => !shared
    | .refuse _ => true)

/-- The mortise check of a frame taken from a local output (R16, R147). -/
def State.checkRequest (s : State) (k : Fin 12) (e : QEntry) (f : Frame) : State :=
  let c := e.cls
  let part := (portOf e.input.val).map s.portPartition
  if e.short || f.payload.length != f.len || !f.checkOk then
    let s := (s.bump Reg.mortCheck).raiseMort 0 f St.check
    if isSnoop f || isAnswer f || isRollNote f then s else s.refuse k c f St.check
  else if isSnoop f || isAnswer f then (if f.fmtGen != 1 then s else s.passOn k e f none 0)
  else if isRollNote f then (if f.fmtGen == 1 && !requestRsvd f && s.fromRoll e f then s.passOn k e f none 0 else s)
  else if f.fmtGen != 1 then s.refuse k c f St.format
  else if requestRsvd f then s.refuse k c f St.rsvdSet
  else if s.fromRoll e f then s.passOn k e f none 0
  else if f.opcode == 0x40 && betweenRolls f then s.refuse k c f St.denied
  else if misaligned f then s.refuseMort k c f St.denied
  else if f.opcode == 0x50 then s.passOrder k e part f
  else if f.opcode == 0x30 || f.opcode == 0x40 || f.opcode == 0x58 then
    match s.mortise12 part f.job with
    | some st => s.refuseMort k c f st
    | none => s.passOn k e f none 0
  else
    let x := requestExtent f
    match s.admitFrame part f x.1 x.2 (opRights f) with
    | .mortise st => s.refuseMort k c f st
    | .reserved => s.refuseReserved k c f
    | .ok d o shared =>
      if shared && gatewayPlank f then s.refuseMort k c f St.denied
      else if f.opcode == 0x48 then
        if s.dirRefused part f then s.refuseMort k c f St.denied else s.passOn k e f (some d.val) o
      else s.accept k e f d o shared

/-- MORTISE_CHECK (R147): the next frame of a cluster's local output, when it is a request. -/
def execMortiseCheck (k : Fin 12) (s : State) : Host.Outcome State Fault Refusal :=
  match s.homeNext k with
  | none => .next s
  | some e =>
    let f := Frame.ofBytes e.bytes
    if f.isCpl then .next s else .next ((s.takeHome k e).checkRequest k e f)

/-! Frames that wait for their own rows. -/

/-- Take the first frame of a kind that has passed the mortise check. -/
def State.takePassed (s : State) (pick : Frame → Bool) : Option (Passed × State) :=
  match s.sw.passed.find? (fun p => pick p.frame) with
  | none => none
  | some p => some (p, s.withSw { s.sw with passed := s.sw.passed.filter (fun q => q.id != p.id) })

/-! Messages (R133). -/

/-- Deliver the first passed frame of a kind to the agent of an A-role port in ACTIVE that admits the job, else refuse it with
DENIED (R133, R402). -/
def State.toAgent (s : State) (pick : Frame → Bool) : State :=
  match s.takePassed pick with
  | none => s
  | some (p, s) =>
    let f := p.frame
    match portOf (f.addr.toNat % 256) with
    | some q =>
      if s.role q == 1 && s.portActive q && (s.admitSlot q f.job).isSome then
        let id := s.sw.nextId
        let s := s.withMort { s.mort with msgs := s.mort.msgs ++ [⟨q, f, p.cls, id⟩] }
        s.toPort q none p.cls f
      else s.refuseMort p.cluster p.cls f St.denied
    | none => s.refuseMort p.cluster p.cls f St.denied

/-- MSG_DELIVER (R133). -/
def execMsgDeliver (s : State) : Host.Outcome State Fault Refusal := .next (s.toAgent (fun f => f.opcode == 0x30))

/-- The message of a queue entry has reached its end: acknowledged, or its link has left ACTIVE (R133). -/
def State.msgState (s : State) (p : Port) (m : Msg) : Option Status :=
  if m.port != p then none
  else if !s.portActive p then some St.timeout
  else
    let queued := s.sw.queue.any (fun e => e.id == m.entry)
    let open_ := (s.linksOf p).any (fun l => (s.link l).unacked.any (fun u => u.1 == m.entry && (s.link l).replayBase ≤ u.2))
    if queued || open_ then none else some St.ok

/-- MSG_ACKED (R133): the oldest message toward a port that is acknowledged, or whose link has left ACTIVE. -/
def execMsgAcked (p : Port) (s : State) : Host.Outcome State Fault Refusal :=
  match s.mort.msgs.find? (fun m => (s.msgState p m).isSome) with
  | none => .next s
  | some m =>
    let st := (s.msgState p m).getD St.ok
    let s := s.withMort { s.mort with msgs := s.mort.msgs.erase m }
    let s := s.withSw { s.sw with queue := s.sw.queue.filter (fun e => e.id != m.entry) }
    let s := (s.linksOf p).foldl (fun s l =>
      s.modLink l (fun k => { k with unacked := k.unacked.filter (fun u => u.1 != m.entry) })) s
    .next (s.complete (clusterOf p) m.cls m.frame st false [] 0 Config.memoryUnit)

end Sys2Proof.Machine
end

