-- ==== Sys2Proof/Machine/RecallRows.lean ====
section
/-!
DEFINITION. The meanings of a recall's commands (04 R150; 06 R193) and of the gateways' (04 R152 to R154; 08 R264, R275).
-/
namespace Sys2Proof.Machine

/-! Recalls (R150). -/

/-- A request open toward a recalled drawer gets FENCED (R150 step 3). -/
def State.synthFenced (s : State) (f : Frame) : State := (s.bump Reg.mortSynthFenced).raiseMort 5 f St.fenced

/-- Map indices of the TIERED planks of a drawer entry. -/
def tieredRange (e : BitVec 128) : Nat × Nat :=
  let lo := max (drwBase e) tieredBase
  let hi := drwBase e + drwSize e
  if lo < hi then ((lo - tieredBase) / plankBytes, (hi - tieredBase) / plankBytes) else (0, 0)

/-- Cancel the migrations of planks from local offset `lo` to `hi`; their tray commands' answers will come late. -/
def State.cancelRange (s : State) (lo hi : Nat) : State :=
  let mine := s.pool.works.filter (fun w => lo ≤ w.plank * plankBytes && w.plank * plankBytes < hi)
  let late := fun (c : TrayCmd) => match c.why with
    | .work id => if mine.any (fun w => w.id == id) then { c with why := .late } else c
    | _ => c
  let s := mine.foldl (fun s w => s.cancelWork w) s
  s.withPool { s.pool with trays := s.pool.trays.map (fun p => (p.1, { p.2 with cmds := p.2.cmds.map late })) }

/-- A directory request of an agent toward the drawer. -/
def DirReq.agentOf (q : DirReq) (d : Nat) : Bool := q.drawer == d && q.served.isNone && q.frame.isSome

/-- FENCED for the agents' requests that the directory holds toward a drawer; a transient line's own request turns into a purge. -/
def State.fenceDirectory (s : State) (d : Nat) : State :=
  let cpl := fun (s : State) (q : DirReq) => match q.frame with
    | some f => (s.synthFenced f).dirAnswer q St.fenced 0 []
    | none => s
  let s := (s.dir.hold.filter (fun q => q.agentOf d)).foldl cpl s
  let s := s.withDir { s.dir with hold := s.dir.hold.filter (fun q => q.drawer != d || q.frame.isNone),
                                  frozen := s.dir.frozen.filter (fun q => q.drawer != d || q.frame.isNone) }
  s.dir.trackers.foldl (fun s p => match p.2 with
    | none => s
    | some t =>
      let s := (t.wait.filter (fun q => q.agentOf d)).foldl cpl s
      let t := { t with wait := t.wait.filter (fun q => q.drawer != d || q.frame.isNone) }
      if t.active.drawer == d && t.active.frame.isSome then
        let s := if t.active.agentOf d then cpl s t.active else s
        s.setTracker p.1 (some { t with active := { t.active with ask := .purge, frame := none, served := none } })
      else s.setTracker p.1 (some t)) s

/-- DRAIN_BOUND_EXPIRY (R150 steps 3 and 4): the fourth boundary after the recall. -/
def execDrainBoundExpiry (d : DrawerId) (s : State) : Host.Outcome State Fault Refusal :=
  match s.mort.recalls.find? (fun r => r.drawer == d && !r.drained && decide (r.at_ + 4 ≤ s.bell.bounds)) with
  | none => .next s
  | some r =>
    let s := s.withMort { s.mort with recalls := s.mort.recalls.map (fun q => if q == r then { q with drained := true } else q) }
    let waiting := s.sw.passed.filter (fun p => p.drawer == some d.val && p.frame.opcode != 0x38)
    let s := s.withSw { s.sw with passed := s.sw.passed.filter (fun p => !(p.drawer == some d.val && p.frame.opcode != 0x38)) }
    let s := waiting.foldl (fun s p =>
      ((s.synthFenced p.frame).refuse p.cluster p.cls p.frame St.fenced).memberDone p.id St.fenced) s
    let s := (s.mort.served.filter (fun q => q.drawer == d)).foldl (fun s q =>
      (s.synthFenced q.frame).endServed q ⟨St.fenced, [], 0⟩) s
    let e := s.drawer d.val
    .next (((s.fenceDirectory d.val).cancelRange (drwBase e) (drwBase e + drwSize e)).retryWaiting)

/-- A drawer entry after the shred: KEY_GEN advanced, FREE (R150 step 5). -/
def shredEntry (e : BitVec 128) : BitVec 128 :=
  let gen : BitVec 16 := e.extractLsb' 112 16 + 1
  (gen ++ e.extractLsb' 0 112) &&& ~~~((3 : BitVec 128) <<< 92)

/-- Bits of the written bitmap of a drawer's WINDOW and STACK planks go (R191). -/
def State.clearWritten (s : State) (e : BitVec 128) : State :=
  s.withPool { s.pool with written := s.pool.written.clearRange (drwBase e / plankBytes) ((drwBase e + drwSize e) / plankBytes) }

/-- Objects of a drawer that becomes FREE are inert from then on (R198). -/
def State.inertDrawer (s : State) (d : Nat) : State :=
  let mine := (s.objTable.filter (fun p => objSize p.2 != 0 && objDrawer p.2 == d && !s.pool.inert.get false p.1)).map (·.1)
  mine.foldl (fun s i => (s.withPool { s.pool with inert := s.pool.inert.put false i true }).raisePool 1 none) s

/-- DRAWER_SHRED (R150 step 5, R193, R278, R316): the fifth boundary after the recall. -/
def execDrawerShred (d : DrawerId) (s : State) : Host.Outcome State Fault Refusal :=
  match s.mort.recalls.find? (fun r => r.drawer == d && r.drained && decide (r.at_ + 5 ≤ s.bell.bounds)) with
  | none => .next s
  | some r =>
    let e := s.drawer d.val
    let free := fun (t : Tab (BitVec 128)) => t.modify 0 d.val shredEntry
    let s := s.withMort { s.mort with recalls := s.mort.recalls.erase r, drw0 := free s.mort.drw0, drw1 := free s.mort.drw1,
                                      shreds := s.mort.shreds.modify 0 d.val (· + 1) }
    let s := s.dropTags (drwBase e) (drwSize e)
    let s := ((s.clearWritten e).bump Reg.secShreds).inertDrawer d.val
    let tier := tieredRange e
    let s := if tier.1 < tier.2 then s.withPool { s.pool with resets := s.pool.resets ++ [(d.val, tier.1, tier.2)] } else s
    let s := if drwShared e then
        s.withDir { s.dir with purges := s.dir.purges ++ [(d.val, drwBase e / 128, (drwBase e + drwSize e) / 128, 0)] } else s
    .next s

/-- A TIERED plank becomes ZERO: its frame and its flash sectors are freed, its reference given back (R193, R436). -/
def State.resetPlank (s : State) (plank : Nat) : State :=
  let s := match s.work plank with
    | some w => s.cancelWork w
    | none => s
  let e := s.mapEntry plank
  let s := match e.state with
    | .stacked | .stackedV => s.dropFrame e.frame
    | .flash => s.invalidate e.tray e.loc e.size
    | .moving => if e.up then s.invalidate e.tray e.loc e.size else s.dropFrame e.frame
    | _ => s
  let s := s.storeRef plank none
  (s.setEntry plank { e with state := .zero, ven := false, tray := 0, size := 0, up := false, loc := 0 }).uncache plank

/-- MAP_RESET_DONE (R193): the drawer's map entries are ZERO, its frames and flash pages free. -/
def execMapResetDone (d : DrawerId) (s : State) : Host.Outcome State Fault Refusal :=
  match s.pool.resets.find? (fun r => r.1 == d.val) with
  | none => .next s
  | some r =>
    let s := (s.pool.map.filter (fun p => r.2.1 ≤ p.1 && p.1 < r.2.2)).foldl (fun s p =>
      s.resetPlank (p.1 + tieredBase / plankBytes)) s
    .next ((s.withPool { s.pool with resets := s.pool.resets.erase r }).retryWaiting)

/-! Gateways. The head of each queue toward the port that the gateway takes, earliest first. -/

/-- The frame of a kind at the head of its queue toward a port, and its whole content. -/
def State.gatewayHead (s : State) (p : Port) (pick : Frame → Cls → Bool) : Option (QEntry × Frame) :=
  let mine := s.sw.queue.filter (fun e => e.dest == .port p)
  let heads := mine.foldl (fun acc e =>
    if acc.any (fun x => x.input == e.input && x.cls == e.cls) then acc else acc ++ [e]) []
  (heads.find? (fun e => e.whole && e.eligible && s.gatewayTakes p e && pick ⟨e.hdr, [], 0⟩ e.cls)).map (fun e =>
    (e, Frame.ofBytes e.bytes))

/-- The transaction check of a frame at a gateway fails (R139, R153). -/
def State.gatewayCheck (s : State) (p : Port) (e : QEntry) (f : Frame) : Option State :=
  if e.short || f.payload.length != f.len || !f.checkOk then
    some ((((s.dropEntry e).bump Reg.mortCheck).raiseMort 0 f St.check).gatewayCpl p e.cls f St.check [])
  else none

/-- Read-ahead buffers of a job toward a switch are dropped, but for those whose fetch is awaited (R154, R275). -/
def State.dropAhead (s : State) (p : Port) (pick : ReadAhead → Bool) : State :=
  let g := s.gateway p
  s.setGateway p { g with ahead := g.ahead.filter (fun a => !(pick a && a.waiting.isEmpty)) }

/-- GW_COMBINE_WRITE (R152, R153). -/
def execGwCombineWrite (p : Port) (s : State) : Host.Outcome State Fault Refusal :=
  match s.gatewayHead p (fun f c => s.combines p f c) with
  | none => .next s
  | some (e, f) =>
    match s.gatewayCheck p e f with
    | some s => .next s
    | none =>
      let c := e.cls
      let s := s.dropEntry e
      let same := fun (b : Combine) => b.meets f && b.cls == c
      let s := if (s.gateway p).combine.any same || (s.gateway p).combine.length < 8 then s
        else match (s.gateway p).combine with
          | b :: _ => s.flushBuffer p b
          | [] => s
      let g := s.gateway p
      let b := (g.combine.find? same).getD { dest := f.dest, plank := framePlank f, ak := f.ak, job := f.job, cls := c, lines := [],
                                             data := [], at_ := s.bell.bounds }
      let i := f.addr.toNat / 128 % 256
      let b' := if f.opcode == 0x02 then b.merge i (BitVec.allOnes 128) f.payload
        else b.merge i (BitVec.ofNat 128 (field f.payload 0 16)) (f.payload.drop 16)
      let rest := if g.combine.any same then g.combine.map (fun x => if same x then b' else x) else g.combine ++ [b']
      let s := s.setGateway p { g with combine := rest }
      let s := s.dropAhead p (fun a => a.dest == f.dest && a.job == f.job && a.ak == f.ak && a.plank == framePlank f)
      let s := s.gatewayCpl p c f St.ok []
      .next (if b'.lines.length == 256 then s.flushBuffer p b' else s)

/-- GW_FLUSH_TIMEOUT (R153): FLUSH_PERIODS since the first line of a buffer. -/
def execGwFlushTimeout (p : Port) (buf : Fin 8) (s : State) : Host.Outcome State Fault Refusal :=
  match (s.gateway p).combine[buf.val]? with
  | none => .next s
  | some b => if b.at_ + s.flushPeriods p ≤ s.bell.bounds then .next (s.flushBuffer p b) else .next s

/-- The first closed tag of a gateway's own request of a kind. -/
def State.gatewayDone (s : State) (pick : Purpose → Bool) : Option (TagDone × State) :=
  match s.mort.done.find? (fun d => pick d.purpose) with
  | none => none
  | some d => some (d, s.withMort { s.mort with done := s.mort.done.erase d })

/-- GW_FLUSH_COMPLETE (R153): a failure waits for the next ORDER completion of its job and switch. -/
def execGwFlushComplete (p : Port) (s : State) : Host.Outcome State Fault Refusal :=
  match s.gatewayDone (fun q => match q with
    | .gwFlush q _ _ _ => q == p
    | _ => false) with
  | none => .next s
  | some (d, s) =>
    match d.purpose with
    | .gwFlush _ job dest plank =>
      let g := s.gateway p
      let g := { g with flushing := g.flushing.erase (job, dest, plank) }
      if d.status == St.ok then .next (s.setGateway p g)
      else
        let g := if g.failed.any (fun x => x.1 == (job, dest)) then g else { g with failed := g.failed ++ [((job, dest), d.status)] }
        .next ((s.setGateway p g).raise Reg.mortErr 8
          [(Reg.mortErrCapture, BitVec.ofNat 12 job ++ BitVec.ofNat 10 p.val ++ (0 : BitVec 2) ++ (0x22 : BitVec 8)),
           (Reg.mortErrCaptureSw, (0 : BitVec 4) ++ s.swNum ++ d.status ++ (0 : BitVec 8))])
    | _ => .next s

/-- GW_ORDER_FRAME (R275): flushes of its job toward its switch start, read-ahead buffers go, the frame is held. -/
def execGwOrderFrame (p : Port) (s : State) : Host.Outcome State Fault Refusal :=
  match s.gatewayHead p (fun f _ => f.opcode == 0x50) with
  | none => .next s
  | some (e, f) =>
    let s := s.dropEntry e
    let s := s.flushWhere p (fun b => b.dest == f.dest && b.job == f.job)
    let s := s.dropAhead p (fun a => a.dest == f.dest && a.job == f.job)
    let g := s.gateway p
    .next (s.setGateway p { g with held := g.held ++ [(f, e.cls)] })

/-- GW_ORDER_FORWARD (R275): no flush of its job toward its switch is open; a failed status goes into its completion (R153). -/
def execGwOrderForward (p : Port) (s : State) : Host.Outcome State Fault Refusal :=
  let g := s.gateway p
  match g.held.find? (fun h => !g.flushing.any (fun q => q.1 == h.1.job.toNat && q.2.1 == h.1.dest.toNat)) with
  | none => .next s
  | some (f, c) =>
    let key := (f.job.toNat, f.dest.toNat)
    let g := { g with held := g.held.erase (f, c) }
    let g := match g.failed.find? (fun x => x.1 == key) with
      | some x => { g with failed := g.failed.erase x, replace := g.replace ++ [((f.tag.toNat, f.seq.toNat), x.2)] }
      | none => g
    let s := s.setGateway p g
    -- it leaves as a frame of the gateway's own input, which takes it no second time
    let e : QEntry := { id := s.sw.nextId, input := injectIn (clusterOf p), half1 := false, dest := .port p, toHalf1 := none, cls := c,
                        hdr := f.hdr, bytes := f.toBytes, flits := frameFlits f.payload.length, whole := true, short := false,
                        saf := false, eligible := true, sent := 0, lastAt := 0, tick := s.bell.ticks, bound := s.bell.bounds,
                        len := s.bell.len, crossed := false, past := true }
    .next (s.withSw { s.sw with queue := s.sw.queue ++ [e], nextId := s.sw.nextId + 1 })

/-- Bytes of a line in a read-ahead buffer. -/
def ReadAhead.line (a : ReadAhead) (f : Frame) : Bytes := a.data.getRun 0 (f.addr.toNat % plankBytes / 128 * 128) 128

/-- GW_READ_AHEAD (R154, R264): from a young buffer, or by a fetch of the plank after the flush of its lines. -/
def execGwReadAhead (p : Port) (s : State) : Host.Outcome State Fault Refusal :=
  match s.gatewayHead p (fun f c => s.readsAhead p f c) with
  | none => .next s
  | some (e, f) =>
    if (s.gateway p).holds f then .next (s.flushWhere p (fun b => b.meets f))
    else
      let same := fun (a : ReadAhead) => a.dest == f.dest && a.job == f.job && a.ak == f.ak && a.plank == framePlank f && a.cls == e.cls
      let s := s.dropEntry e
      let g := s.gateway p
      match g.ahead.find? (fun a => same a && (!a.filled || decide (s.bell.bounds < a.at_ + s.flushPeriods p))) with
      | some a =>
        if a.filled then .next (s.gatewayCpl p e.cls f St.ok (a.line f))
        else .next (s.setGateway p { g with ahead := g.ahead.map (fun x => if x == a then { x with waiting := x.waiting ++ [f] } else x) })
      | none =>
        let kept := g.ahead.filter (fun a => !(same a && a.filled))
        let kept := if kept.length < 8 then kept else
          match kept.find? (fun a => a.filled) with
          | some a => kept.erase a
          | none => kept
        let a : ReadAhead := { dest := f.dest, plank := framePlank f, ak := f.ak, job := f.job, cls := e.cls, filled := false, data := [],
                               at_ := s.bell.bounds, waiting := [f] }
        let s := s.setGateway p { g with ahead := kept ++ [a] }
        let hdr := HdrFields.pack { addr := framePlank f ++ (0 : BitVec 15), seq := 0, dest := f.dest, srcSwitch := s.swNum,
                                    srcUnit := BitVec.ofNat 10 p.val, tag := 0, job := f.job, opcode := 0x20, ak := f.ak }
        .next (s.originate (BitVec.ofNat 10 p.val) (clusterOf p) e.cls hdr [] (.gwFetch p f.job.toNat f.dest.toNat (framePlank f).toNat))

/-- GW_READAHEAD_FILL (R154): the fetched plank serves the line reads that wait, and is kept; a failure goes to each of them. -/
def execGwReadaheadFill (p : Port) (s : State) : Host.Outcome State Fault Refusal :=
  match s.gatewayDone (fun q => match q with
    | .gwFetch q _ _ _ => q == p
    | _ => false) with
  | none => .next s
  | some (d, s) =>
    let g := s.gateway p
    match g.ahead.find? (fun a => !a.filled && d.purpose == .gwFetch p a.job.toNat a.dest.toNat a.plank.toNat) with
    | none => .next s
    | some a =>
      if delivers d.status then
        let a' := { a with filled := true, data := Tab.putRun 0 [] 0 d.data, at_ := s.bell.bounds, waiting := [] }
        let s := s.setGateway p { g with ahead := g.ahead.map (fun x => if x == a then a' else x) }
        .next (a.waiting.foldl (fun s f => s.gatewayCpl p a.cls f d.status (a'.line f)) s)
      else
        let s := s.setGateway p { g with ahead := g.ahead.erase a }
        .next (a.waiting.foldl (fun s f => s.gatewayCpl p a.cls f d.status []) s)

end Sys2Proof.Machine
end

