-- ==== Sys2Proof/Machine/OrderRows.lean ====
section
/-!
DEFINITION. The meanings of the ordering commands (08 R268 to R273, R288).
-/
namespace Sys2Proof.Machine

/-- The frame that performs the flag write of a release: the header of the release, with one of the model's flag opcodes (R269). -/
def flagFrame (f : Frame) : Frame :=
  let op : BitVec 8 := if field f.payload 1 1 = 1 then 0x1F else 0x1E
  ⟨(f.hdr &&& ~~~((0xFF : BitVec 256) <<< 8)) ||| (op.setWidth 256 <<< 8), byteRun f.payload 8 8, 0⟩

/-- A range or release as a request open toward its drawer. -/
def State.orderServed (s : State) (p : Passed) (f : Frame) (wait : Wait) : Served :=
  let d : DrawerId := ⟨(p.drawer.getD 0) % 65536, Nat.mod_lt _ (by decide)⟩
  { id := p.id, frame := f, cls := p.cls, drawer := d, offset := p.offset, cluster := p.cluster, wait := wait, since := s.bell.bounds,
    shared := drwShared (s.drawer d.val), line := 0, acc := [], status := St.ok }

/-- Perform a flag write that has its turn: at the directory in a shared window, else at memory. It may be a member of guarded
sets (R260, R270). -/
def State.performFlag (s : State) (r : Served) : State :=
  let r := { r with wait := if r.shared then .directory else .promotion }
  if r.shared then s.serveShared r
  else
    match s.attempt r with
    | (some a, s) => (s.answer r.cluster r.cls r.frame a).memberDone r.id a.status
    | (none, s) => s.withMort { s.mort with served := s.mort.served ++ [r] }

/-- Subtype of an ORDER frame. -/
def isOrder (f : Frame) (sub : Nat) : Bool := f.opcode == 0x50 && field f.payload 0 1 == sub

/-- The guarded set of a request. -/
def State.guardOf (s : State) (id : Nat) : Option Guard := s.pool.guards.find? (fun g => g.id == id)

/-- The first status other than OK in a guarded set, in the order in which its members passed (R271). -/
def Guard.first (g : Guard) : Status := (g.failed.map (·.2)).headD St.ok

/-- A request whose guarded set is empty ends or writes its flag (R271, R273). -/
def State.guardEmpty (s : State) (r : Served) (g : Guard) : State :=
  if g.first != St.ok then
    let s := if g.release then (s.bump Reg.ordGuardFail).raise Reg.ordErr 1 else s
    (s.endServed r ⟨g.first, [], 0⟩).retryWaiting
  else if !g.release then s.endServed r ⟨St.ok, [], 0⟩
  else
    let s := s.withMort { s.mort with served := s.mort.served.filter (fun q => q.id != r.id) }
    let s := s.withPool { s.pool with guards := s.pool.guards.filter (fun q => q.id != r.id) }
    (s.performFlag { r with frame := flagFrame r.frame }).retryWaiting

/-- A FLUSH_RANGE or RELEASE_RANGE waits for its guarded set, or ends at once where that is empty. -/
def State.holdGuard (s : State) (p : Passed) : State :=
  let r := s.orderServed p p.frame .guard
  let s := s.withMort { s.mort with served := s.mort.served ++ [r] }
  match s.guardOf p.id with
  | some g => if g.open_.isEmpty then s.guardEmpty r g else s
  | none => s

/-- ORDER_FLUSH_RANGE (R271). -/
def execOrderFlushRange (s : State) : Host.Outcome State Fault Refusal :=
  match s.takePassed (fun f => isOrder f 1) with
  | none => .next s
  | some (p, s) => .next (s.holdGuard p)

/-- ORDER_RELEASE (R272). -/
def execOrderRelease (s : State) : Host.Outcome State Fault Refusal :=
  match s.takePassed (fun f => isOrder f 2) with
  | none => .next s
  | some (p, s) => .next (s.performFlag (s.orderServed p (flagFrame p.frame) .promotion)).retryWaiting

/-- ORDER_RELEASE_RANGE (R273). -/
def execOrderReleaseRange (s : State) : Host.Outcome State Fault Refusal :=
  match s.takePassed (fun f => isOrder f 3) with
  | none => .next s
  | some (p, s) => .next (s.holdGuard p)

/-- ORDER_FENCE (R269). -/
def execOrderFence (s : State) : Host.Outcome State Fault Refusal :=
  match s.takePassed (fun f => isOrder f 4) with
  | none => .next s
  | some (p, s) => .next (s.complete p.cluster p.cls p.frame St.ok false [] 0 Config.memoryUnit)

/-- GUARD_SET_EMPTY (R271, R273): the first request whose guarded set has emptied. -/
def execGuardSetEmpty (s : State) : Host.Outcome State Fault Refusal :=
  match s.mort.served.find? (fun r => r.wait == .guard && (s.guardOf r.id).any (fun g => g.open_.isEmpty)) with
  | none => .next s
  | some r =>
    match s.guardOf r.id with
    | some g => .next (s.guardEmpty r g)
    | none => .next s

/-- GUARD_TIMEOUT (R273): a held release past ORD_GUARD_LIMIT. -/
def execGuardTimeout (s : State) : Host.Outcome State Fault Refusal :=
  let limit := max 1 (bits (s.rd Reg.ordGuardLimit).toNat 15 0)
  match s.mort.served.find? (fun r => r.wait == .guard && (s.guardOf r.id).any (fun g => g.release && !g.open_.isEmpty)
      && decide (r.since + limit ≤ s.bell.bounds)) with
  | none => .next s
  | some r => .next (((s.raise Reg.ordErr 2).endServed r ⟨St.timeout, [], 0⟩).retryWaiting)

/-- The ordering counters (R288). -/
def State.clearOrd (s : State) : State :=
  s.zeroRegs [Reg.ordTagEvict, Reg.ordUntaggedAcq, Reg.ordScopeWarn, Reg.ordGuardFail]

/-- ORD_CLR_COUNTERS (R288). -/
def execOrdClrCounters (h : HostPort) (s : State) : Host.Outcome State Fault Refusal :=
  .next (s.hostWrite h Reg.ordCtrl State.clearOrd)

end Sys2Proof.Machine
end

