-- ==== Sys2Proof/Machine/DirRows.lean ====
section
/-!
DEFINITION. The meanings of the directory's commands (09 R290 to R317).
-/
namespace Sys2Proof.Machine

/-- A directory request of an agent that has passed the mortise check. -/
def State.dirRequest (s : State) (p : Passed) (ask : DirAsk) : DirReq :=
  { ask := ask, line := p.offset / 128, agent := agentId p.frame.srcSwitch (p.frame.srcUnit.toNat % 256), frame := some p.frame,
    cls := p.cls, cluster := p.cluster, drawer := p.drawer.getD 0, served := none, at_ := s.bell.bounds }

/-- Subtype of a DIR frame. -/
def isDir (f : Frame) (sub : Nat) : Bool := f.opcode == 0x48 && field f.payload 0 1 == sub

/-- DIR_GET_S (R305). -/
def execDirGetS (s : State) : Host.Outcome State Fault Refusal :=
  match s.takePassed (fun f => isDir f 1) with
  | none => .next s
  | some (p, s) => .next (s.dirGo [s.dirRequest p .getS])

/-- DIR_GET_M (R305). -/
def execDirGetM (s : State) : Host.Outcome State Fault Refusal :=
  match s.takePassed (fun f => isDir f 2) with
  | none => .next s
  | some (p, s) => .next (s.dirGo [s.dirRequest p .getM])

/-- DIR_UPGRADE (R305). -/
def execDirUpgrade (s : State) : Host.Outcome State Fault Refusal :=
  match s.takePassed (fun f => isDir f 3) with
  | none => .next s
  | some (p, s) => .next (s.dirGo [s.dirRequest p .upgrade])

/-- A PUT_E or PUT_M (R304, R305). -/
def State.dirPut (s : State) (p : Passed) (data : Option Bytes) : State :=
  let q := s.dirRequest p .getS
  let e := s.dirEntry q.line
  let owner := e.sharers.headD 0 == q.agent && (e.state == .exclusive || e.state == .recalling)
  let done := fun (s : State) => s.complete p.cluster s.dirClasses.2 p.frame St.ok false [] 0 768
  if !owner then done (if data.isSome then s.bump Reg.dirStale else s)
  else
    let s := match data with
      | some bs => s.putLine q.line bs
      | none => s
    match s.trackerOf q.line with
    | some (n, t) =>
      if e.state == .recalling then s.setTracker n (some { t with held := t.held ++ [(p.frame, p.cls, p.cluster)] })
      else (done (s.setDir q.line DirEntry.reset)).dirGo []
    | none => (done (s.setDir q.line DirEntry.reset)).dirGo []

/-- DIR_PUT_E (R305). -/
def execDirPutE (s : State) : Host.Outcome State Fault Refusal :=
  match s.takePassed (fun f => isDir f 4) with
  | none => .next s
  | some (p, s) => .next (s.dirPut p none)

/-- DIR_PUT_M (R305). -/
def execDirPutM (s : State) : Host.Outcome State Fault Refusal :=
  match s.takePassed (fun f => isDir f 5) with
  | none => .next s
  | some (p, s) => .next (s.dirPut p (some (byteRun p.frame.payload 16 128)))

/-! Answers (R301). -/

/-- The tracker and the open snoop that an answer matches. -/
def State.matchAnswer (s : State) (f : Frame) (inv : Bool) : Option (Nat × Tracker × Snoop) :=
  let line := (f.addr.extractLsb' 0 48).toNat / 128
  match s.trackerOf line with
  | none => none
  | some (n, t) =>
    let a := agentId f.srcSwitch (f.srcUnit.toNat % 256)
    (t.snoops.find? (fun x => x.agent == a && x.seq == f.seq && (x.kind == 0x10) == inv && f.addr == s.lineAddr line
      && decide (f.srcUnit.toNat < 192))).map (fun x => (n, t, x))

/-- An answer carries a reserved field that is not 0 (R298, R299). -/
def answerRsvd (f : Frame) : Bool :=
  let sub := field f.payload 0 1
  field f.payload 1 1 != 0 || decide (8 ≤ field f.payload 2 1) || field f.payload 3 13 != 0
    || f.len != (if sub = 0x22 then 144 else 16) || f.hdr &&& hdrReserved != 0 || f.status != 0 || f.aux != 0

/-- Report a reserved field of an answer. -/
def State.noteAnswer (s : State) (p : Passed) : State :=
  if answerRsvd p.frame then
    s.raiseDir 3 (agentId p.frame.srcSwitch (p.frame.srcUnit.toNat % 256)) ((p.frame.addr.extractLsb' 0 48).toNat / 128)
  else s

/-- The entry to which a transient line returns for its active request, less the sharers that were invalidated. -/
def Tracker.settled (t : Tracker) : DirEntry :=
  match t.active.ask with
  | .getS => { t.prior with sharers := t.prior.sharers.drop 1 }
  | .getM | .upgrade => { t.prior with sharers := t.prior.sharers.filter (· == t.active.agent) }
  | _ => DirEntry.reset

/-- The recall of a line has been answered by its owner, or not at all (R305, R312). -/
def State.recallEnds (s : State) (n : Nat) (t : Tracker) (lost kept : Bool) : State :=
  if lost then
    let owner := t.prior.sharers.headD 0
    let (s, more) := (s.raiseDir 0 owner t.line).poisonTracker n t
    s.dirGo more
  else s.finishTracker n t { DirEntry.reset with state := .exclusive, sharers := t.prior.sharers } kept

/-- DIR_INV_ACK (R305): the last one finishes the active request. -/
def execDirInvAck (s : State) : Host.Outcome State Fault Refusal :=
  match s.takePassed (fun f => isDir f 0x20) with
  | none => .next s
  | some (p, s) =>
    let s := s.noteAnswer p
    match s.matchAnswer p.frame true with
    | none => .next (s.bump Reg.dirStale)
    | some (n, t, x) =>
      let t := { t with snoops := t.snoops.erase x }
      if t.snoops.isEmpty then .next (s.finishTracker n t t.settled false) else .next (s.setTracker n (some t))

/-- DIR_RECALL_ACK (R305). -/
def execDirRecallAck (s : State) : Host.Outcome State Fault Refusal :=
  match s.takePassed (fun f => isDir f 0x21) with
  | none => .next s
  | some (p, s) =>
    let s := s.noteAnswer p
    let info := field p.frame.payload 2 1
    match s.matchAnswer p.frame false with
    | none => .next (s.bump Reg.dirStale)
    | some (n, t, x) =>
      .next (s.recallEnds n { t with snoops := t.snoops.erase x } (bits info 2 2 == 1) (bits info 1 1 == 1 && x.kind == 0x12))

/-- DIR_RECALL_DATA (R305): the line is written to memory first. -/
def execDirRecallData (s : State) : Host.Outcome State Fault Refusal :=
  match s.takePassed (fun f => isDir f 0x22) with
  | none => .next s
  | some (p, s) =>
    let s := s.noteAnswer p
    let info := field p.frame.payload 2 1
    match s.matchAnswer p.frame false with
    | none => .next (s.bump Reg.dirStale)
    | some (n, t, x) =>
      let s := if bits info 2 2 == 1 then s else s.putLine t.line (byteRun p.frame.payload 16 128)
      .next (s.recallEnds n { t with snoops := t.snoops.erase x } (bits info 2 2 == 1) (bits info 1 1 == 1 && x.kind == 0x12))

/-- DIR_SNOOP_DELIVER (R300): at the agent's switch; one that came from an A-role port is misplaced. -/
def execDirSnoopDeliver (f : Frame) (s : State) : Host.Outcome State Fault Refusal :=
  match s.takePassed (fun g => g == f && isSnoop g) with
  | none => .next s
  | some (p, s) =>
    let agent := agentId (BitVec.ofNat 12 (field f.payload 4 2)) (field f.payload 6 1)
    let line := (f.addr.extractLsb' 0 48).toNat / 128
    let misplaced := p.port.any (fun q => s.role q == 1)
    if misplaced then .next (s.raiseDir 3 agent line)
    else
      match portOf (field f.payload 6 1) with
      | some q => if s.role q == 1 && s.portActive q then .next (s.toPort q none p.cls f) else .next (s.raiseDir 3 agent line)
      | none => .next (s.raiseDir 3 agent line)

/-- DIR_SNOOP_TIMEOUT (R312): snoops of a line unanswered for 4 periods. -/
def execDirSnoopTimeout (tracker : Fin 4096) (s : State) : Host.Outcome State Fault Refusal :=
  match s.dir.trackers.get none tracker.val with
  | none => .next s
  | some t =>
    let late := t.snoops.filter (fun x => decide (x.at_ + 4 ≤ s.bell.bounds))
    if late.isEmpty then .next s
    else if (s.dirEntry t.line).state == .recalling then .next (s.recallEnds tracker.val t true false)
    else
      let s := late.foldl (fun s x => s.raiseDir 1 x.agent t.line) s
      let t := { t with snoops := t.snoops.filter (fun x => !late.contains x) }
      if t.snoops.isEmpty then .next (s.finishTracker tracker.val t t.settled false)
      else .next (s.setTracker tracker.val (some t))

/-- DIR_FILL_DATA (R306): the memory data of a FILLING line arrives; with MEDIA the line is as it was before. -/
def execDirFillData (tracker : Fin 4096) (s : State) : Host.Outcome State Fault Refusal :=
  match s.dir.trackers.get none tracker.val with
  | none => .next s
  | some t =>
    if (s.dirEntry t.line).state == .filling then .next (s.finishTracker tracker.val t t.prior false) else .next s

/-- DIR_AGE_FREEZE (R310): the first request of the hold pool that has reached age 8 and whose line is not frozen. -/
def execDirAgeFreeze (s : State) : Host.Outcome State Fault Refusal :=
  match s.dir.hold.find? (fun q => decide (q.at_ + 8 ≤ s.bell.bounds) && !s.dir.frozen.contains q) with
  | none => .next s
  | some q => .next ((s.withDir { s.dir with frozen := s.dir.frozen ++ [q] }).bump Reg.dirFreeze)

/-! Scans (R313, R316). -/

/-- Remove an agent from a sharer list; a line left without sharers is UNCACHED (R313). -/
def DirEntry.without (e : DirEntry) (a : AgentId) : DirEntry :=
  if e.state == .shared && e.sharers.contains a then
    let rest := e.sharers.filter (· != a)
    if rest.isEmpty then DirEntry.reset else { e with sharers := rest }
  else if e.state == .filling then { e with sharers := e.sharers.filter (· != a) }
  else e

/-- The same in a tracked line (R313): the list to which it returns. The oldest sharer, under invalidation for a GET_S, stays first
until that ends. -/
def Tracker.without (t : Tracker) (filling : Bool) (a : AgentId) : Tracker :=
  if filling then { t with prior := t.prior.without a }
  else if t.active.ask == .getS && t.prior.state == .shared then
    { t with prior := { t.prior with sharers := t.prior.sharers.take 1 ++ (t.prior.sharers.drop 1).filter (· != a) } }
  else t

/-- DIR_PROBE (R294, R317): the entry of the line that DIR_PROBE_ADDR names; PTR0 beside an overflow block is open. -/
def State.probeDir (s : State) : State :=
  let addr := s.rd64 Reg.dirProbeAddrLo
  let line := (addr.extractLsb' 0 40).toNat / 128
  let e := s.dirEntry line
  let (v, s) := if e.block.isSome then s.draw else (0, s)
  let ptr0 : BitVec 20 := if e.block.isSome then v.extractLsb' 0 20 else e.sharers.headD 0
  let ptr1 : BitVec 20 := match e.block with
    | some b => BitVec.ofNat 20 b
    | none => (e.sharers.drop 1).headD 0
  let word : Dword := BitVec.ofNat 14 (line / 2 ^ 19) ++ BitVec.ofNat 3 e.state.code ++ BitVec.ofBool e.block.isSome
    ++ (1 : BitVec 2) ++ (0 : BitVec 4) ++ (0 : BitVec 40)
  let word := word ||| (BitVec.ofNat 64 e.sharers.length <<< 40) ||| (ptr1.setWidth 64 <<< 20) ||| ptr0.setWidth 64
  let hit := e.state != .uncached
  (s.wr Reg.dirProbeStatus (if hit then 3 else 1)).wr64 Reg.dirProbeEntryLo (if hit then word else 0)

/-- DIR_PROBE (R317). -/
def execDirProbe (h : HostPort) (s : State) : Host.Outcome State Fault Refusal :=
  .next (s.hostWrite h Reg.dirProbeCtrl State.probeDir)

/-- The directory's counters (R317). -/
def State.clearDir (s : State) : State :=
  s.zeroRegs [Reg.dirMaxAge, Reg.dirGrants, Reg.dirInvSent, Reg.dirRecallSent, Reg.dirCapEvict, Reg.dirReplaceInv, Reg.dirStale,
    Reg.dirFreeze]

/-- DIR_CLR_COUNTERS (R317). -/
def execDirClrCounters (h : HostPort) (s : State) : Host.Outcome State Fault Refusal :=
  .next (s.hostWrite h Reg.dirCtrl State.clearDir)

end Sys2Proof.Machine
end

