-- ==== Sys2Proof/Machine/MaintOps.lean ====
section
/-!
DEFINITION. The maintenance arbiter's shared operations (16 R515 to R521).
-/
namespace Sys2Proof.Machine

/-- A bench or a network unit is offline (R515). -/
def State.benchOffline (s : State) (b : Nat) : Bool := bit (s.rd (Reg.faultOffline (b / 32))) (b % 32)
def State.unitOffline (s : State) (u : Nat) : Bool :=
  if u < 32 then bit (s.rd Reg.faultOfflineNuLo) u else bit (s.rd Reg.faultOfflineNuHi) (u - 32)

/-- Activities that run only in recess (R516). -/
def recessClass (cls : Nat) : Bool := cls == 7 || cls == 8

/-- The pairs marked U in the matrix of R517. -/
def neverAtOnce (a b : Nat) : Bool :=
  let pairs := [(1, 1), (1, 7), (2, 2), (2, 3), (2, 7), (2, 8), (3, 3), (3, 7), (3, 8), (4, 4), (4, 7), (4, 8), (5, 5), (5, 7), (5, 8),
    (6, 6), (6, 7), (7, 7), (7, 8), (7, 9), (8, 8), (9, 9)]
  pairs.contains (a, b) || pairs.contains (b, a)

/-- A port carries a tray (R517). -/
def State.portHasTray (s : State) (p : Nat) (t : Nat) : Bool :=
  let x := s.tray t
  x.state != .absent && x.port == p

/-- Units of two activities overlap (R517). -/
def State.unitsOverlap (s : State) (a b : Activity) : Bool :=
  let one := fun (a b : Activity) =>
    (a.kind == 1 && b.kind == 3 && s.portHasTray a.unit b.unit)
      || (a.kind == 8 && (b.kind == 3 || (b.kind == 1 && (List.range 32).any (fun t => s.portHasTray b.unit t))))
      || (a.cls == 7 && a.kind == 2 && (b.kind == 2 || [1, 2, 3, 5, 6, 9].contains b.cls.val))
  (a.kind == b.kind && a.unit == b.unit) || one a b || one b a

/-- The running activity that keeps one from starting (R517): the first incompatible one; a ninth KEY_ROTATE meets the first. -/
def State.blocker (s : State) (a : Activity) : Option Activity :=
  match s.fault.running.find? (fun r => neverAtOnce a.cls.val r.cls.val && s.unitsOverlap a r) with
  | some r => some r
  | none =>
    let rot := s.fault.running.filter (fun r => r.cls == 4)
    if a.cls == 4 && 8 ≤ rot.length then rot.head? else none

/-- Ask for an activity (R518): it is requested, and asks by its own command. -/
def State.requestActivity (s : State) (cls : Fin 10) (kind : Fin 16) (unit : Nat) (arg : Dword)
    (desc : Option (HostPort × Nat)) : State :=
  let a : Activity := { cls := cls, kind := kind, unit := unit, arg := arg, desc := desc, at_ := s.bell.bounds, pending := false,
                        askedAt := 0, result := none, progress := 0 }
  s.withFault { s.fault with waiting := s.fault.waiting ++ [a] }

/-- An activity of a class on a unit runs. -/
def State.runningActivity (s : State) (cls : Nat) (kind unit : Nat) : Option Activity :=
  s.fault.running.find? (fun a => a.cls.val == cls && a.kind.val == kind && a.unit == unit)

/-- An activity of a class on a unit is requested or runs. -/
def State.hasActivity (s : State) (cls kind unit : Nat) : Bool :=
  (s.fault.running ++ s.fault.waiting).any (fun a => a.cls.val == cls && a.kind.val == kind && a.unit == unit)

/-- Change a running activity. -/
def State.setActivity (s : State) (a b : Activity) : State :=
  s.withFault { s.fault with running := s.fault.running.map (fun x => if x == a then b else x) }

/-- The work of a running activity is done. -/
def State.activityDone (s : State) (a : Activity) (st : BitVec 8) : State := s.setActivity a { a with result := some st }

/-- The unit of a recess activity is fenced, so it needs no recess (R516). -/
def State.unitFenced (s : State) (a : Activity) : Bool :=
  match a.kind.val with
  | 1 => (portOf a.unit).any (fun p => (s.linksOf p).all (fun l =>
      (s.link l).train == .fenced || (s.link l).train == .disabled))
  | 4 => s.benchOffline a.unit
  | 5 => s.unitOffline a.unit
  | _ => false

/-- The present slot is the first of a recess of the activity's unit (R70, R518). -/
def State.recessOpens (s : State) (a : Activity) : Bool :=
  let slot := s.bell.now.slot.toNat
  match a.kind.val with
  | 1 => (s.covering 0 a.unit 4).any (fun p => ttFirst p.2 == slot)
  | 4 => (s.covering 1 a.unit 4).any (fun p => ttFirst p.2 == slot)
  | 5 => (s.covering 2 a.unit 4).any (fun p => ttFirst p.2 == slot)
  | 2 => s.runsSchedule && (State.recessEntries s.activeTt).any (fun (k, _, e) => ttFires k e s.bell.now.period.toNat
      && ttFirst e == slot && bits (ttStackMask k e) a.unit a.unit == 1)
  | _ => false

/-- A record of a deferral (R518, R523, R524), and the interim entry of its descriptor (R467). -/
def State.deferRecord (s : State) (a r : Activity) : State :=
  let k := (s.rd Reg.maintLogNext).toNat % 64
  let s := s.wr (Reg.maintLogW0 k) (BitVec.ofNat 32 (a.cls.val * 2 ^ 28 + r.cls.val * 2 ^ 24 + a.kind.val * 2 ^ 20 + a.unit % 65536))
  let s := s.wr (Reg.maintLogW1 k) (BitVec.ofNat 32 (s.bell.now.term.toNat % 65536 * 65536 + s.bell.now.period.toNat))
  let s := (s.wr Reg.maintLogNext (BitVec.ofNat 32 ((k + 1) % 64))).bump Reg.maintDeferrals
  let s := s.raiseFault 2 a.cls.val 0x0D
  match a.desc with
  | none => s
  | some (h, id) =>
    match (s.host h).flight.find? (fun d => d.id == id) with
    | some d => s.interim h d
    | none => s

/-- The descriptor that waits for an activity. -/
def State.descOf (s : State) (desc : Option (HostPort × Nat)) : Option Desc :=
  desc.bind (fun (h, id) => (s.host h).flight.find? (fun d => d.id == id))

/-- Planks of a MIGRATE_BULK, in order (R210). -/
def State.bulkPlanks (s : State) (a : Activity) : List Nat :=
  match s.descOf a.desc with
  | none => []
  | some d =>
    (List.range (field d.bytes 24 4)).map (fun i => objBase (s.objTable.get 0 a.unit) / plankBytes + field d.bytes 20 4 + i)

/-- MIGRATE_BULK moves toward the stacked tier. -/
def State.bulkStacked (s : State) (a : Activity) : Bool :=
  match s.descOf a.desc with
  | none => false
  | some d => field d.bytes 18 1 == 0

/-- A plank counts as done: it lies in STACK or WINDOW, or in the target tier, or holds no data (R210). -/
def State.bulkDone (s : State) (a : Activity) (plank : Nat) : Bool :=
  decide (plank < tieredBase / plankBytes) ||
    (match (s.mapEntry plank).state with
     | .moving => false
     | .flash => !s.bulkStacked a
     | .stacked | .stackedV => s.bulkStacked a
     | _ => true)

/-- Start the moves of a MIGRATE_BULK at the rank of bulk work (R205, R210). -/
def State.startBulk (s : State) (a : Activity) : State :=
  ((s.bulkPlanks a).foldl (fun s p =>
    if s.bulkDone a p then s
    else
      match (s.mapEntry p).state with
      | .flash => s.startPromotion p 4
      | .stacked | .stackedV => s.startDemotion p 4
      | _ => s) s).pump

/-- A self-test of a bench sets its store to zero and leaves no residency and no owner (R546). -/
def State.bistClear (s : State) (a : Activity) : State :=
  if a.kind == 4 then s.withBenches (s.benches.modify Bench.reset a.unit (fun x => { x with store := [], slots := [] })) else s

/-- Start an activity; `at_` is now its start. KEY_ROTATE starts its port's rekeys (R498), MIGRATE_BULK its moves (R210); a BIST of a
bench clears its store (R546). -/
def State.startActivity (s : State) (a : Activity) : State :=
  let s := s.withFault { s.fault with running := s.fault.running ++ [{ a with pending := false, at_ := s.bell.bounds, progress := 0 }] }
  if a.cls == 4 then
    match portOf a.unit with
    | some p => s.rekeyPort p
    | none => s
  else if a.cls == 5 then s.startBulk a
  else if a.cls == 7 then s.bistClear a
  else s

/-- The arbiter's decision on an activity that asks (R518). -/
def State.arbitrate (s : State) (a : Activity) : State :=
  let rest := s.fault.waiting.filter (fun x => x != a)
  match s.blocker a with
  | none => (s.withFault { s.fault with waiting := rest }).startActivity a
  | some r =>
    let a' := { a with pending := true, askedAt := s.bell.ticks }
    (s.withFault { s.fault with waiting := rest ++ [a'] }).deferRecord a' r

/-- The status with which an activity ends, once its work is done (R518). A rotation is done when no rekey of its port runs. -/
def State.activityResult (s : State) (a : Activity) : Option (BitVec 8) :=
  if a.cls == 4 then
    match portOf a.unit with
    | some p => if (s.linksOf p).any (fun l => (s.link l).kex.rekeyOwn || (s.link l).nextKey.isSome) then none else some 0
    | none => some 0
  else if a.cls == 5 then (if (s.bulkPlanks a).any (fun p => (s.work p).isSome) then none else some 0)
  else a.result

/-- What an activity has done, as its descriptor reports it. -/
def State.activityCount (s : State) (a : Activity) : Nat :=
  if a.cls == 5 then ((s.bulkPlanks a).filter (s.bulkDone a)).length else 0

/-- Pending activities that can start now, in the order in which they asked (R518). -/
def State.takePending (s : State) : State :=
  (s.fault.waiting.filter (fun a => a.pending && !recessClass a.cls.val)).foldl (fun s a =>
    if (s.blocker a).isSome then s
    else (s.withFault { s.fault with waiting := s.fault.waiting.filter (fun x => x != a) }).startActivity a) s

/-- Complete the descriptor that an activity carries. -/
def State.finishFor (s : State) (desc : Option (HostPort × Nat)) (st : BitVec 8) (result : Nat) : State :=
  match desc with
  | none => s
  | some (h, id) =>
    match (s.host h).flight.find? (fun d => d.id == id) with
    | some d => s.finish h d st.toNat result
    | none => s

/-- R519: a recess activity for a unit that is not fenced needs a recess within one term, LINK_RECAL one of 32 slots. -/
def State.recessRefused (s : State) (a : Activity) : Bool :=
  recessClass a.cls.val && !s.unitFenced a &&
    (let run := match a.kind.val with
      | 1 => recessRun s.activeTt s.tt.activeLen 0 a.unit
      | 2 => recessRun s.activeTt s.tt.activeLen 3 a.unit
      | 4 => recessRun s.activeTt s.tt.activeLen 1 a.unit
      | _ => recessRun s.activeTt s.tt.activeLen 2 a.unit
     run == 0 || (a.cls == 8 && decide (run < 32)))

end Sys2Proof.Machine
end

