-- ==== Sys2Proof/Machine/FaultRows.lean ====
section
/-!
DEFINITION. The meanings of the fence commands (16 R509, R510, R515) and of the maintenance arbiter's (16 R518 to R520).
-/
namespace Sys2Proof.Machine

/-- Partitions of a mask. -/
def partsOf (mask : Dword) : List Nat := (List.range 64).filter (fun p => bit mask p)

/-- A write of FAULT_FENCE_SET (R509). -/
def State.writeFenceSet (s : State) (mask : Dword) : State :=
  (partsOf mask).foldl (fun s p =>
    if s.isFenced p || s.fault.fencePend.get 0 p != 0 then s
    else s.withFault { s.fault with fencePend := s.fault.fencePend.put 0 p (s.bell.bounds + 1) }) s

/-- FAULT_FENCE_SET (R509). -/
def execFaultFenceSet (h : HostPort) (mask : Dword) (s : State) : Host.Outcome State Fault Refusal :=
  .next (s.hostWrite h Reg.faultFenceSetLo (fun s => s.writeFenceSet mask))

/-- A link of a partition whose fence takes effect (R509). -/
def State.fenceLink (s : State) (l : LinkId) : State :=
  let k := s.link l
  if k.train == .disabled && !k.looped then s
  else if k.train == .loopback || k.looped then s.toDisabled l
  else if k.train == .fenced then s.modLink l (fun k => { k with fencedByMismatch := false })
  else (s.endSession l).enter l .fenced

/-- Links whose port is of a partition. -/
def State.linksOfPart (s : State) (part : Nat) : List LinkId :=
  (s.links.filterMap (fun p => if h : p.1 < 384 then some (⟨p.1, h⟩ : LinkId) else none)).filter (fun l =>
    bits (s.link l).cfg.toNat 21 16 == part)

/-- FENCE_TAKES_EFFECT (R509): at the first period boundary after the write. -/
def execFenceTakesEffect (part : Fin 64) (s : State) : Host.Outcome State Fault Refusal :=
  let at_ := s.fault.fencePend.get 0 part.val
  if at_ = 0 || s.bell.bounds < at_ then .next s
  else
    let s := s.withFault { s.fault with fenced := setBit s.fault.fenced part.val, fencePend := s.fault.fencePend.put 0 part.val 0 }
    let s := (s.linksOfPart part.val).foldl (fun s l => s.fenceLink l) s
    .next (s.timeLinkCheck.raiseFault 4 part.val 0)

/-- R510: a drawer or a job of the partition keeps its fence. -/
def State.liftBarred (s : State) (part : Nat) : Bool :=
  s.drawerTable.any (fun p => drwState p.2 != 0 && drwPartition p.2 == part)
    || (if s.mort.mortBank then s.mort.job1 else s.mort.job0).any (fun p => jobEnable p.2 && jobPartition p.2 == part)

/-- A write of FAULT_LIFT (R510). -/
def State.writeLift (s : State) (mask : Dword) : State :=
  (partsOf mask).foldl (fun s p =>
    if !s.isFenced p then s
    else if s.liftBarred p then s.raiseFault 5 p 0
    else s.withFault { s.fault with liftPend := s.fault.liftPend.put 0 p (s.bell.bounds + 1) }) s

/-- FAULT_LIFT (R510). -/
def execFaultLift (h : HostPort) (mask : Dword) (s : State) : Host.Outcome State Fault Refusal :=
  .next (s.hostWrite h Reg.faultLiftLo (fun s => s.writeLift mask))

/-- FENCE_LIFT_EFFECT (R510): ports of the partition in FENCED train again. -/
def execFenceLiftEffect (part : Fin 64) (s : State) : Host.Outcome State Fault Refusal :=
  let at_ := s.fault.liftPend.get 0 part.val
  if at_ = 0 || s.bell.bounds < at_ then .next s
  else
    let s := s.withFault { s.fault with fenced := clrBit s.fault.fenced part.val, liftPend := s.fault.liftPend.put 0 part.val 0 }
    .next ((s.linksOfPart part.val).foldl (fun s l => if (s.link l).train == .fenced then s.toDetect l else s) s)

/-- Offset of a word of the offline registers: benches, then network units (R523). -/
def offlineReg (word : Nat) : Nat := if word < 6 then Reg.faultOffline word else if word = 6 then Reg.faultOfflineNuLo else Reg.faultOfflineNuHi

/-- A write of an offline register: the network units' pair applies with its _HI word (R7). -/
def State.writeOffline (s : State) (h : HostPort) (word : Nat) (v : Word) : State :=
  let off := offlineReg word
  if word < 6 then s.wrMasked off v
  else if word = 6 then s.holdLo h off v
  else
    let q := s.joinHi h Reg.faultOfflineNuLo v
    ((s.dropHeld h Reg.faultOfflineNuLo).wrMasked Reg.faultOfflineNuLo (q.extractLsb' 0 32)).wrMasked off (q.extractLsb' 32 32)

/-- FAULT_OFFLINE_WRITE (R515). -/
def execFaultOfflineWrite (h : HostPort) (word : Fin 8) (v : Word) (s : State) : Host.Outcome State Fault Refusal :=
  .next (s.hostWrite h (offlineReg word.val) (fun s => s.writeOffline h word.val v))

/-- MAINT_ACTIVITY_ASK (R518): an activity that has not asked; a recess activity at the first slot of a recess of its unit, or at
once when the unit is fenced. -/
def execMaintActivityAsk (cls : Fin 10) (kind : Fin 16) (unit : Nat) (s : State) : Host.Outcome State Fault Refusal :=
  match s.fault.waiting.find? (fun a => a.cls == cls && a.kind == kind && a.unit == unit &&
      (if recessClass cls.val then (s.unitFenced a || s.recessOpens a) && (!a.pending || a.askedAt != s.bell.ticks) else !a.pending)) with
  | none => .next s
  | some a => .next (s.arbitrate a)

/-- MAINT_ACTIVITY_END (R518): an activity whose work is done ends, and pending ones that can start do. -/
def execMaintActivityEnd (cls : Fin 10) (kind : Fin 16) (unit : Nat) (s : State) : Host.Outcome State Fault Refusal :=
  match s.fault.running.find? (fun a => a.cls == cls && a.kind == kind && a.unit == unit && (s.activityResult a).isSome) with
  | none => .next s
  | some a =>
    let st := (s.activityResult a).getD 0
    let s := s.withFault { s.fault with running := s.fault.running.filter (fun x => x != a) }
    .next ((s.finishFor a.desc st (s.activityCount a)).takePending)

/-- MAINT_REQ_TIMEOUT (R520): a MAINT_REQ of a host that has not started within one term. -/
def execMaintReqTimeout (h : HostPort) (s : State) : Host.Outcome State Fault Refusal :=
  match s.fault.waiting.find? (fun a => (match a.desc with
      | some (g, _) => g == h
      | none => false) && a.kind != 8 && a.kind != 9 && decide (a.at_ + s.bell.len ≤ s.bell.bounds)) with
  | none => .next s
  | some a =>
    let s := s.withFault { s.fault with waiting := s.fault.waiting.filter (fun x => x != a) }
    .next (((s.bump Reg.maintTimeouts).raiseFault 3 a.cls.val 0x0B).finishFor a.desc 0x0B 0)

end Sys2Proof.Machine
end

