-- ==== Sys2Proof/Machine/BootRows.lean ====
section
/-!
DEFINITION. The meanings of power-up, reset, boot, recovery, shutdown and watchdog commands (17 R525 to R538), and of the boot's
own steps of the key unit (15 R484, R488, R491). PORT_RESET stands with the host ports.
-/
namespace Sys2Proof.Machine

/-! Supplies (R525). -/

/-- AUX_GOOD (R525): the management island leaves reset and the bell count starts. -/
def execAuxGood (s : State) : Host.Outcome State Fault Refusal :=
  if s.boot.auxGood then .next s
  else .next (((s.withBoot { s.boot with auxGood := true }).wr Reg.resetCause 1).enterBoot .auxOnly)

/-- MAIN_ENABLE (R525): the module brings up its rails and drives PWR_GOOD, unless a thermal trip holds them off (R563). -/
def execMainEnable (s : State) : Host.Outcome State Fault Refusal :=
  if s.boot.auxGood && !s.boot.pwrGood && !s.mod.trip && s.boot.state == .auxOnly then .next (s.withBoot { s.boot with pwrGood := true }) else .next s

/-- MAIN_RESET_RELEASE (R525): a cold reset; MAIN_FIRST when no main loss has occurred, else MAIN_LOSS stays. Boundary scan can hold
the reset (R552). -/
def execMainResetRelease (s : State) : Host.Outcome State Fault Refusal :=
  if s.boot.pwrGood && !s.boot.held && s.boot.state == .auxOnly then
    .next (s.resetMain .cold .romStart (if s.boot.lossSeen then s.rd Reg.resetCause &&& 2 else 0x400) false)
  else .next s

/-- The main rails go (R525): RESET_CAUSE.MAIN_LOSS, and the management island returns to AUX_ONLY. -/
def State.loseMain (s : State) : State :=
  (s.withBoot { s.boot with pwrGood := false, lossSeen := true }).resetMain .cold .auxOnly 2 false

/-- MAIN_LOSS (R525). -/
def execMainLoss (s : State) : Host.Outcome State Fault Refusal :=
  if s.boot.pwrGood then .next s.loseMain else .next s

/-- AUX_LOSS (R525): all state is lost. -/
def execAuxLoss (s : State) : Host.Outcome State Fault Refusal :=
  .next { State.reset with free := s.free, out := s.out, pending := s.pending }

/-! RESET_CTRL (R528, R531, R538). -/

/-- A write of RESET_CTRL by a host. -/
def State.writeResetCtrl (s : State) (h : HostPort) (v : Word) : State :=
  if v.extractLsb' 16 16 != 0xA5C3 || (!bit v 0 && !bit v 1) then s
  else
    let cause := BitVec.ofNat 32 (4 * b2n (bit v 1) + 8 * b2n (bit v 0) + 128 * b2n (bit v 2) + 256 * (hostNum h + 1))
    s.askReset (if bit v 1 then .cold else .warm) cause (bit v 2)

/-- RESET_COLD (R528). -/
def execResetCold (h : HostPort) (v : Word) (s : State) : Host.Outcome State Fault Refusal :=
  .next (s.hostWrite h Reg.resetCtrl (fun s => s.writeResetCtrl h (setBit v 1)))

/-- RESET_WARM (R528). -/
def execResetWarm (h : HostPort) (v : Word) (s : State) : Host.Outcome State Fault Refusal :=
  .next (s.hostWrite h Reg.resetCtrl (fun s => s.writeResetCtrl h (setBit v 0)))

/-- FORCE_RECOVERY (R531). -/
def execForceRecovery (h : HostPort) (v : Word) (s : State) : Host.Outcome State Fault Refusal :=
  .next (s.hostWrite h Reg.resetCtrl (fun s => s.writeResetCtrl h (setBit v 2)))

/-! The key unit at boot (R484, R488, R491). -/

/-- A register group as bytes, and its write. -/
def State.rdBytes (s : State) (off : Nat → Nat) (words : Nat) : Bytes :=
  (List.range words).flatMap (fun i => leBytes 4 (s.rd (off i)).toNat)
def State.wrBytes (s : State) (off : Nat → Nat) (words : Nat) (bs : Bytes) : State :=
  (List.range words).foldl (fun s i => s.wr (off i) (BitVec.ofNat 32 (field bs (4 * i) 4))) s

/-- Extend a measurement register (R488). -/
def State.extendMeas (s : State) (i : Nat) (event : Bytes) : State :=
  s.wrBytes (Reg.secMeas i) 16
    (byteRun (Config.shake256 (s.rdBytes (Reg.secMeas i) 16 ++ byteRun (Config.shake256 event 64) 0 64) 64) 0 64)

/-- The firmware image is verified: it is measured, runs, and the watchdog starts (R488, R529, R535). -/
def State.startFirmware (s : State) : State :=
  let s := (s.extendMeas 1 s.boot.image).wr64 Reg.fwVersionLo (BitVec.ofNat 64 (field s.boot.image 8 8))
  (s.withBoot { s.boot with wdogOn := true, wdogAt := s.bell.bounds, failCause := 0 }).enterBoot .fwStart

/-- Enter FAILED (R529): the watchdog stops (R535). -/
def State.bootFail (s : State) (cause : BitVec 8) : State :=
  (s.withBoot { s.boot with failCause := cause, wdogOn := false }).enterBoot .failed

/-- A check of an image fails (R529, R531): the claim is released. -/
def State.imageRefused (s : State) (cause : BitVec 8) : State :=
  (s.withBoot { s.boot with failCause := cause, claim := none }).enterBoot .recoveryWait

/-- The first check of R533 that an image fails, as FAIL_CAUSE; 0: it passes. `staged` is BOOT_RECOVERY_LEN of a staged image. -/
def imageCause (image : Bytes) (staged : Option Nat) : Nat :=
  let bodyLen := field image 16 4
  let signer := field image 26 1
  if field image 0 4 != 0x4C424D43 || field image 4 1 != 1 || field image 5 3 != 0
      || decide (4194304 < 2048 + bodyLen) || staged.any (fun n => n != 2048 + bodyLen) || decide (bodyLen ≤ field image 20 4) then 2
  else if field image 24 2 < Config.rollbackFloor then 5
  else if 2 ≤ signer || Config.signerRevoked signer then 3
  else if field image 27 61 != 0 || field image 152 616 != 0 then 2
  else if !Config.falconVerify (Config.firmwareKey signer) (byteRun image 0 768) (byteRun image 768 1280) then 3
  else if byteRun (Config.shake256 (byteRun image 2048 bodyLen) 64) 0 64 != byteRun image 88 64 then 4
  else 0

/-! The boot sequence (R529). -/

/-- ROM_START_DONE (R529, R488): the ROM has checked itself; a forced recovery skips SPI_READ (R531). -/
def execRomStartDone (pass : Bool) (s : State) : Host.Outcome State Fault Refusal :=
  if s.boot.state == .romStart then
    let s := s.extendMeas 0 Config.romMeasurement
    .next (if pass then s.enterBoot (if s.boot.force then .recoveryWait else .spiRead) else s.bootFail 0)
  else .next s

/-- SPI_READ_DONE (R529): no flash answers, or the header cannot be read, or the image is at hand. -/
def execSpiReadDone (image : Bytes) (answered : Bool) (s : State) : Host.Outcome State Fault Refusal :=
  if s.boot.state != .spiRead then .next s
  else if !answered then .next (s.imageRefused 1)
  else if image.length < 2048 then .next (s.imageRefused 2)
  else .next ((s.withBoot { s.boot with image := image }).enterBoot .verify)

/-- VERIFY_DONE (R533). -/
def execVerifyDone (s : State) : Host.Outcome State Fault Refusal :=
  if s.boot.state != .verify then .next s
  else
    match imageCause s.boot.image none with
    | 0 => .next s.startFirmware
    | c => .next (s.imageRefused (BitVec.ofNat 8 c))

/-- CLAIM of BOOT_CTRL (R531): the first claim wins. -/
def State.claimBoot (s : State) (h : HostPort) : State :=
  if s.boot.state == .recoveryWait && s.boot.claim.isNone then s.withBoot { s.boot with claim := some h } else s

/-- BOOT_CLAIM (R531). -/
def execBootClaim (h : HostPort) (s : State) : Host.Outcome State Fault Refusal :=
  .next (s.hostWrite h Reg.bootCtrl (fun s => s.claimBoot h))

/-- RECOVER_GO of BOOT_CTRL (R531). -/
def State.recover (s : State) (h : HostPort) (program : Bool) : State :=
  let n := (s.rd Reg.bootRecoveryLen).toNat
  if s.boot.claim != some h || 4194304 < n then s.withBoot { s.boot with recoveryIgnored := true }
  else if s.boot.state != .recoveryWait then s
  else (s.withBoot { s.boot with program := program, image := s.boot.staging.getRun 0 0 n }).enterBoot .recoveryVerify

/-- RECOVER_GO (R531). -/
def execRecoverGo (h : HostPort) (program : Bool) (s : State) : Host.Outcome State Fault Refusal :=
  .next (s.hostWrite h Reg.bootCtrl (fun s => s.recover h program))

/-- RECOVERY_VERIFY_DONE (R529, R531, R533): with PROGRAM the flash is programmed before the image runs. -/
def execRecoveryVerifyDone (s : State) : Host.Outcome State Fault Refusal :=
  if s.boot.state != .recoveryVerify then .next s
  else
    match imageCause s.boot.image (some (s.rd Reg.bootRecoveryLen).toNat) with
    | 0 => .next ((if s.boot.program then s.emit (.spiProgram s.boot.image) else s).startFirmware)
    | c => .next (s.imageRefused (BitVec.ofNat 8 c))

/-- FW_START_DONE (R529): the firmware has trained the stack interfaces. -/
def execFwStartDone (stacksReady : BitVec 8) (s : State) : Host.Outcome State Fault Refusal :=
  if s.boot.state != .fwStart then .next s
  else
    let s := (List.range 8).foldl (fun s k =>
      s.wr (Reg.stkStatus k) ((s.rd (Reg.stkStatus k) &&& ~~~(3 : Word)) ||| (if bit stacksReady k then 3 else 1))) s
    .next (if stacksReady == 0xFF then s.enterBoot .keygen else s.bootFail 6)

/-- KEYGEN_DONE (R484, R491, R529): the identity key pair at a cold reset, then the session root and SESSION_ID. -/
def execKeygenDone (entropyPass : Bool) (s : State) : Host.Outcome State Fault Refusal :=
  if s.boot.state != .keygen then .next s
  else if !entropyPass then .next (s.bootFail 7)
  else
    let s := s.wrBytes Reg.secIdentityHash 16 (byteRun (Config.shake256 (Config.falconPublic Config.otpSeed) 64) 0 64)
    let (root, s) := s.randomBytes 64
    let (id, s) := s.randomBytes 32
    let s := (s.wrBytes Reg.secSessionId 8 (byteRun id 0 32)).wr Reg.secStatus 6
    .next ((s.withBoot { s.boot with root := byteRun root 0 64 }).enterBoot .bist)

/-- BOOT_BIST_DONE (R529): a bench whose store fails is taken offline; a window or directory failure fails the start. -/
def execBootBistDone (benchFail : BitVec 168) (ok : Bool) (s : State) : Host.Outcome State Fault Refusal :=
  if s.boot.state != .bist then .next s
  else
    let s := (List.range 6).foldl (fun s i =>
      let m : Word := benchFail.extractLsb' (32 * i) 32
      (s.wr (Reg.faultOffline i) (s.rd (Reg.faultOffline i) ||| m)).wr (Reg.bootBenchFail i) m) s
    if ok then .next ((s.withBell { s.bell with goodAt := s.bell.bounds }).enterBoot .configure) else .next (s.bootFail 8)

/-- Time limit of a boot state in milliseconds (R529). -/
def State.bootLimit (s : State) : Option Nat :=
  match s.boot.state with
  | .romStart => some 2
  | .spiRead => some 180
  | .verify => some 10
  | .recoveryVerify => some (if s.boot.program then 30000 else 10)
  | .fwStart => some 300
  | .keygen => some 200
  | .bist => some 60
  | .linkTraining => some 200
  | .poolInit => some 50
  | .shutdown => some 10
  | _ => none

/-- BOOT_STATE_TIMEOUT (R529): LINK_TRAINING leaves for BELL_WAIT, every other state for FAILED. -/
def execBootStateTimeout (s : State) : Host.Outcome State Fault Refusal :=
  match s.bootLimit with
  | none => .next s
  | some ms =>
    if s.bell.ticks < s.boot.enteredAt + ms * slotsPerMs then .next s
    else if s.boot.state == .linkTraining then .next (s.enterBoot .bellWait)
    else .next (s.bootFail s.boot.failCause)

/-- PROCEED of BOOT_CTRL (R27, R532): the identity is fixed, and the enabled ports train. -/
def State.proceed (s : State) : State :=
  if s.boot.state != .configure then s
  else
    let s := (s.withBoot { s.boot with identity := some (s.rd Reg.swIdentity) }).enterBoot .linkTraining
    ((List.range 192).filterMap portOf).foldl (fun s p =>
      if (bothLinks p).all (fun l => (s.link l).train == .disabled) then s.startTraining p else s) s

/-- PROCEED (R532). -/
def execProceed (h : HostPort) (s : State) : Host.Outcome State Fault Refusal :=
  .next (s.hostWrite h Reg.bootCtrl State.proceed)

/-- Every enabled port is in ACTIVE, FENCED or DISABLED (R529). -/
def State.trained (s : State) : Bool :=
  s.links.all (fun p => p.2.train == .active || p.2.train == .fenced || p.2.train == .disabled)

/-- LINK_TRAINING_DONE (R529). -/
def execLinkTrainingDone (s : State) : Host.Outcome State Fault Refusal :=
  if s.boot.state == .linkTraining && s.trained then .next (s.enterBoot .bellWait) else .next s

/-- BELL_WAIT_DONE (R529). -/
def execBellWaitDone (s : State) : Host.Outcome State Fault Refusal :=
  if s.boot.state == .bellWait && (s.bell.lock == .locked || s.bell.lock == .holdover) then .next (s.enterBoot .timetable) else .next s

/-- BELL_SLOW (R529): 65,536 periods in BELL_WAIT. -/
def execBellSlow (s : State) : Host.Outcome State Fault Refusal :=
  if s.boot.state == .bellWait && s.boot.enteredBound + 65536 ≤ s.bell.bounds then
    .next (s.withBoot { s.boot with bellSlow := true })
  else .next s

/-! Shutdown (R536, R537). -/

/-- A write of SHUTDOWN_CTRL: descriptors end with TIMEOUT, ports go idle, the session root is overwritten. -/
def State.shutDown (s : State) (v : Word) : State :=
  if v.extractLsb' 16 16 != 0xA5C3 || !bit v 0 || !(decide (9 ≤ s.boot.state.code) && decide (s.boot.state.code ≤ 14)) then s
  else
    let s := ([HostPort.a, HostPort.b]).foldl (fun s h => (s.host h).flight.foldl (fun s d => s.finish h d 0x0B 0) s) s
    let s := s.withFault { s.fault with running := [], waiting := [] }
    let s := (s.links.filterMap (fun p => if h : p.1 < 384 then some (⟨p.1, h⟩ : LinkId) else none)).foldl (fun s l => s.toDisabled l) s
    (s.withBoot { s.boot with root := [], wdogOn := false }).enterBoot .shutdown

/-- SHUTDOWN_GO (R536, R537). -/
def execShutdownGo (h : HostPort) (v : Word) (s : State) : Host.Outcome State Fault Refusal :=
  .next (s.hostWrite h Reg.shutdownCtrl (fun s => s.shutDown v))

/-- SHUTDOWN_DONE (R537): power is off from the benches, the stacks and the SerDes. -/
def execShutdownDone (s : State) : Host.Outcome State Fault Refusal :=
  if s.boot.state == .shutdown then .next ((s.withBoot { s.boot with shutDown := true }).enterBoot .off) else .next s

/-! The watchdog (R535). -/

/-- MGMT_HEARTBEAT (R535): the firmware restarts the watchdog. -/
def execMgmtHeartbeat (s : State) : Host.Outcome State Fault Refusal :=
  if decide (6 ≤ s.boot.state.code) && decide (s.boot.state.code ≤ 14) then
    let s := (s.wr Reg.mgmtHeartbeat (s.rd Reg.mgmtHeartbeat + 1)).wr Reg.wdogStatus 0
    .next (s.withBoot { s.boot with wdogAt := s.bell.bounds })
  else .next s

/-- WATCHDOG_EXPIRY (R535): the first expiry interrupts the core, the second resets the device. -/
def execWatchdogExpiry (s : State) : Host.Outcome State Fault Refusal :=
  let limit := 1024 * max 1 (bits (s.rd Reg.wdogCfg).toNat 15 0)
  if !s.boot.wdogOn || s.bell.bounds < s.boot.wdogAt + limit then .next s
  else if bit (s.rd Reg.wdogStatus) 0 then .next (s.resetMain .warm .romStart 0x10 false)
  else .next ((s.withBoot { s.boot with wdogAt := s.bell.bounds, wdogSeen := true }).wr Reg.wdogStatus 1)

end Sys2Proof.Machine
end

