-- ==== Sys2Proof/Machine/PoolRows.lean ====
section
/-!
DEFINITION. The meanings of the pool memory commands (06 R189 to R219): initialization, commits, timeouts, the pressure sweep,
demotion by age, and the stack controllers. POOL_MIGRATE stands with the descriptors.
-/
namespace Sys2Proof.Machine

/-! Pool initialization (R189, R240, R218). -/

/-- A write of POOL_CTRL.INIT (R189, R532). -/
def State.poolInit (s : State) : State :=
  if s.boot.state == .timetable then
    (s.withPool { s.pool with initBusy := true, initDone := false }).enterBoot .poolInit
  else s.bump Reg.bootOrderIgnored

/-- POOL_INIT (R189). -/
def execPoolInit (h : HostPort) (s : State) : Host.Outcome State Fault Refusal :=
  .next (s.hostWrite h Reg.poolCtrl State.poolInit)

/-- Bytes of a GiB. -/
def gib : Nat := 2 ^ 30

/-- share_t of a tray in GiB (R240). -/
def State.trayShare (s : State) (x : Tray) : Nat :=
  let op := max 120 (min 500 (bits (s.rd Reg.trayOp).toNat 15 0))
  x.goodBlocks * x.perBlock * (1000 - op) / 1000 / 262144

/-- The trays as the session numbers them (R226): READY ones from 0 in ascending port order, LIVE; then the others. -/
def State.numberTrays (s : State) : List Tray :=
  let all := (s.pool.trays.map (·.2)).filter (fun x => x.state != .absent)
  let byPort := (List.range 192).flatMap (fun p => all.filter (fun x => x.port == p))
  (byPort.filter (fun x => x.state == .ready)).map (fun x => { x with state := .live, share := s.trayShare x, cardAt := s.bell.bounds })
    ++ byPort.filter (fun x => x.state != .ready)

/-- Lendable bytes of a cluster's window (R218). -/
def State.windowShare (s : State) (k : Nat) : Nat :=
  let g := ((List.range 16).filter (fun i => match portOf (16 * k + i) with
    | some p => s.role p == 3
    | none => false)).length
  (11 * 2 ^ 20 - g * 2 ^ 19) / 2 ^ 21 * 2 ^ 21

/-- Zeros everywhere (R189 steps 3 and 4): memory, map, tables area. -/
def State.zeroPool (s : State) : State :=
  let p := s.pool
  let r := s.roll
  let s := s.withPool { Pool.reset with initBusy := p.initBusy, initDone := p.initDone, objBank := p.objBank, trays := p.trays }
  let s := s.withRoll { r with cfg0 := [], cfg1 := [], shape0 := [], shape1 := [], station0 := [], station1 := [], live := [], bound := [] }
  s.withNet { s.net with pfx := [], pfxLog2 := max 16 (min 22 (bits (s.rd Reg.netPfxCfg).toNat 4 0)) }

/-- The sizes of the session (R189). -/
def State.sizePool (s : State) : State :=
  let trays := s.numberTrays
  let flash := min (((trays.filter (fun x => x.state == .live)).map (·.share)).sum * gib) (128 * 1024 * gib)
  let map := flash / 32768 * 8
  let usable := 576 * gib - map - 4 * gib
  let direct := if flash = 0 then usable else min (bits (s.rd Reg.poolCfg).toNat 15 0 * gib) (usable - 16 * gib)
  let frames := if flash = 0 then 0 else (usable - direct) / 32768
  let lend := (List.range 12).foldl (fun (t : Tab Nat) k => t.put 0 k (s.windowShare k)) []
  let s := s.withPool { s.pool with
    trays := Tab.putRun Tray.reset [] 0 trays, direct := direct, frameCount := frames, flashBytes := flash, lendable := lend }
  let s := s.wr64 Reg.scFlashManagedLo (BitVec.ofNat 64 flash)
  let s := s.wr64 Reg.scMapReserveLo (BitVec.ofNat 64 map)
  let s := s.wr64 Reg.scStackUsableLo (BitVec.ofNat 64 usable)
  let s := s.wr Reg.scTermLength (BitVec.ofNat 32 s.bell.len)
  s.wr Reg.scSwitchNumber (s.swNum.setWidth 32)

/-- Four GET_EVENT commands on each LIVE tray (R237). -/
def State.openEvents (s : State) : State :=
  (s.pool.trays.filter (fun p => p.2.state == .live)).foldl (fun s p =>
    (List.range 4).foldl (fun s _ => s.sendCmd p.1 3 0x03 0 0 0 [] .event false) s) s

/-- POOL_INIT_DONE (R189, R31): the session's values stand, INIT_DONE, RUN, a SESSION event to both hosts. -/
def execPoolInitDone (s : State) : Host.Outcome State Fault Refusal :=
  if s.boot.state != .poolInit then .next s
  else
    let s := s.zeroPool.sizePool
    let s := s.withPool { s.pool with initBusy := false, initDone := true }
    let s := (s.wr Reg.scaleStatus (setBit (s.rd Reg.scaleStatus) 0)).openEvents
    .next ((s.enterBoot .run).postEvent 0x06 0 0 [])

/-- The pool's counters (R221). -/
def State.clearPool (s : State) : State :=
  s.zeroRegs [Reg.poolPromotions, Reg.poolDemotions, Reg.poolStreams, Reg.poolExpands, Reg.poolDemoteCancel, Reg.poolReservedDrop]

/-- POOL_CLR_COUNTERS (R221). -/
def execPoolClrCounters (h : HostPort) (s : State) : Host.Outcome State Fault Refusal :=
  .next (s.hostWrite h Reg.poolCtrl State.clearPool)

/-! Migration (R205 to R209). -/

/-- A shared-window request whose plank has been expanded goes on at the directory (R292, R448). -/
def State.resumeShared (s : State) (w : Work) : State :=
  match w.req.bind s.servedOf with
  | none => s
  | some r =>
    if r.shared && r.wait == .directory then
      match dirReqOf r s.bell.bounds with
      | some q => s.dirGo [q]
      | none => s
    else s

/-- MIGRATION_COMMIT (R206): the engine's next piece of work that is ready. -/
def execMigrationCommit (e : EngineId) (s : State) : Host.Outcome State Fault Refusal :=
  match s.nextWork e.val .commit with
  | none => .next s
  | some w => .next (((s.commitWork w).resumeShared w).pump)

/-- Some demotion can still free a frame. -/
def State.canFreeFrame (s : State) : Bool :=
  s.pool.works.any (fun w => w.goal == .demote)
    || ((s.demotionTray 8).isSome && s.pool.frames.any (fun p => p.2.valid && (s.mapEntry p.2.plank).version != 0xFFFF
        && !s.wanted p.2.plank))

/-- PROMOTE_TIMEOUT (R204): the first request that has waited POOL_PROMOTE_LIMIT periods on a promotion or a frame. -/
def execPromoteTimeout (s : State) : Host.Outcome State Fault Refusal :=
  let limit := max 1 (bits (s.rd Reg.poolPromoteLimit).toNat 15 0)
  match s.mort.served.find? (fun r => r.wait == .promotion && decide (r.since + limit ≤ s.bell.bounds)) with
  | none => .next s
  | some r =>
    let s := s.raisePool 2 (some r.frame)
    let s := if s.freeFrame.isNone && !s.canFreeFrame then s.raisePool 3 (some r.frame) else s
    .next ((s.endServed r ⟨St.timeout, [], 0⟩).retryWaiting)

/-- FRAME_HIGH, which acts as FRAME_LOW when it is not above it (R208). -/
def State.frameHigh (s : State) : Nat := max (s.rd Reg.poolFrameHigh).toNat (s.rd Reg.poolFrameLow).toNat

/-- The sweep meets a frame (R208, R439). In its first pass it demotes ALLOW_FLASH planks only. -/
def State.sweepFrame (s : State) (f : Nat) (r : FrameRec) : State :=
  if r.referenced then
    s.withPool { s.pool with frames := s.pool.frames.modify FrameRec.reset f (fun r => { r with referenced := false }) }
  else
    let e := s.mapEntry r.plank
    let obj := s.objectAt (r.plank * plankBytes)
    if s.wanted r.plank || (s.work r.plank).isSome || !(objTier obj == 2 || (objTier obj == 1 && decide (1 ≤ s.pool.sweepPass))) then s
    else if veneerPolicy obj == 2 && e.state == .stacked then s.startPack r.plank
    else s.startDemotion r.plank 3

/-- PRESSURE_SWEEP (R208): the sweep starts below FRAME_LOW, takes one frame a time in number order, and ends at FRAME_HIGH. -/
def execPressureSweep (s : State) : Host.Outcome State Fault Refusal :=
  let start := !s.pool.sweeping && decide (s.framesFree < (s.rd Reg.poolFrameLow).toNat)
  let s := if start then s.withPool { s.pool with sweeping := true, sweepAt := 0, sweepPass := 0 } else s
  if !s.pool.sweeping then .next s
  else if s.frameHigh ≤ s.framesFree then .next (s.withPool { s.pool with sweeping := false })
  else
    match s.pool.frames.find? (fun p => p.2.valid && decide (s.pool.sweepAt ≤ p.1)) with
    | none => .next (s.withPool { s.pool with sweepAt := 0, sweepPass := s.pool.sweepPass + 1 })
    | some (f, r) => .next ((s.withPool { s.pool with sweepAt := f + 1 }).sweepFrame f r).pump

/-- AGE_DEMOTE (R209): a frame of an ALLOW_FLASH object that has not been accessed for DEMOTE_AGE × 1,024 periods. -/
def execAgeDemote (frame : Nat) (s : State) : Host.Outcome State Fault Refusal :=
  let r := s.pool.frames.get FrameRec.reset frame
  let obj := s.objectAt (r.plank * plankBytes)
  if r.valid && objTier obj == 2 && objAge obj != 0 && decide (r.last / 1024 + objAge obj ≤ s.bell.bounds / 1024) then
    .next (s.startDemotion r.plank 3).pump
  else .next s

/-! Stack controllers (R211 to R216). -/

/-- Lines of a stack. -/
def stackLines : Nat := 72 * 2 ^ 30 / 128

/-- Positions of the flipped bits among the 1,024 stored bits and the 56 MAC bits. -/
def flipPositions (f : LineFlips) : List Nat :=
  (List.range 1024).filter (fun i => bit f.data i) ++ ((List.range 56).filter (fun i => bit f.mac i)).map (· + 1024)

/-- The syndrome (R212, R214). -/
def flipSyndrome (f : LineFlips) : BitVec 8 :=
  (flipPositions f).foldl (fun s i => s ^^^ ((1 : BitVec 8) <<< (i % 8))) f.ecc

/-- What the controller decides of a read (R214). -/
inductive LineRead where
  | delivered
  | corrected
  | uncorrectable
  | integrity
  deriving DecidableEq, Repr

/-- R214's table. The MAC is good when no stored bit and no MAC bit is flipped; a trial makes it good when it undoes the one flip. -/
def decideLine (f : LineFlips) : LineRead :=
  match (flipPositions f) with
  | [] => if flipSyndrome f = 0 then .delivered else .corrected
  | [i] => if flipSyndrome f = 0 then .integrity else if flipSyndrome f = (1 : BitVec 8) <<< (i % 8) then .corrected else .uncorrectable
  | _ => if flipSyndrome f = 0 then .integrity else .uncorrectable

/-- Count a corrected line (R214). -/
def State.correctLine (s : State) (k a : Nat) : State :=
  let off := BitVec.ofNat 64 (stackOffset (a / 128 * 128))
  (s.add64 (Reg.stkCorrLo k) 1).raise (Reg.stkErr k) 0
    [(Reg.stkErrAddrLo k, off.extractLsb' 0 32), (Reg.stkErrAddrHi k, off.extractLsb' 32 32)]

/-- STACK_LINE_READ (R214): the controller reads a line, numbered within its stack. A line already found bad stays so. -/
def execStackLineRead (k : StackId) (line : Nat) (flips : LineFlips) (s : State) : Host.Outcome State Fault Refusal :=
  if stackLines ≤ line then .next s
  else
    let a := stackAddr k.val (line * 128)
    let mark := fun (s : State) (n : Nat) => s.withPool { s.pool with badLines := s.pool.badLines.put 0 (a / 128) n }
    if s.lineBad a != 0 then .next (s.badRead a)
    else
      match decideLine flips with
      | .delivered => .next s
      | .corrected => .next (s.correctLine k.val a)
      | .uncorrectable => .next ((mark s 1).badRead a)
      | .integrity => .next ((mark s 2).badRead a)

/-- STACK_REFRESH (R215): refresh at fixed bell times changes nothing that can be read. -/
def execStackRefresh (_k : StackId) (s : State) : Host.Outcome State Fault Refusal := .next s

/-- STACK_TEMP_HIGH (R215): at or above 85 °C the stack refreshes at twice the rate. -/
def execStackTempHigh (k : StackId) (s : State) : Host.Outcome State Fault Refusal :=
  let st := s.rd (Reg.stkStatus k.val)
  if (s.rd (Reg.stkTemp k.val)).toNat < 85 || bit st 2 then .next s
  else .next ((s.wr (Reg.stkStatus k.val) (setBit st 2)).raise (Reg.stkErr k.val) 4)

/-- STACK_PHY_RETRAIN (R224). -/
def execStackPhyRetrain (k : StackId) (s : State) : Host.Outcome State Fault Refusal :=
  .next (s.raise (Reg.stkErr k.val) 3)

/-- Periods of an hour (R35). -/
def hourPeriods : Nat := 1757812500

/-- Periods of a patrol pass; 0: none (R223). -/
def State.scrubInterval (s : State) (k : Nat) : Nat := bits (s.rd (Reg.stkScrubCfg k)).toNat 15 0 * hourPeriods

/-- SCRUB_STACK (R216): a pass that runs ends; where none runs or waits, a patrol pass is asked for when its time has come. -/
def execScrubStack (k : StackId) (s : State) : Host.Outcome State Fault Refusal :=
  match s.runningActivity 1 2 k.val with
  | some a => if a.result.isSome then .next s else .next ((s.bump (Reg.stkScrubPasses k.val)).activityDone a 0)
  | none =>
    let n := s.scrubInterval k.val
    let last := s.pool.scrubAt.get 0 k.val
    if n == 0 || s.hasActivity 1 2 k.val || !s.pool.initDone || (last != 0 && decide (s.bell.bounds < last - 1 + n)) then .next s
    else
      .next ((s.withPool { s.pool with scrubAt := s.pool.scrubAt.put 0 k.val (s.bell.bounds + 1) }).requestActivity 1 2 k.val 0 none)

/-- SCRUB_LATE (R216): once for a pass that still runs after twice its interval. -/
def execScrubLate (k : StackId) (s : State) : Host.Outcome State Fault Refusal :=
  match s.runningActivity 1 2 k.val with
  | none => .next s
  | some a =>
    let n := s.scrubInterval k.val
    if n == 0 || a.result.isSome || s.pool.scrubLate.get 0 k.val == a.at_ + 1 || s.bell.bounds < a.at_ + 2 * n then .next s
    else .next ((s.withPool { s.pool with scrubLate := s.pool.scrubLate.put 0 k.val (a.at_ + 1) }).raise (Reg.stkErr k.val) 5)

/-- A write of STK_CTRL.SCRUB_NOW (R223). -/
def State.askScrub (s : State) (k : Nat) : State := s.requestActivity 1 2 k 0 none

/-- SCRUB_NOW (R223). -/
def execScrubNow (h : HostPort) (k : StackId) (s : State) : Host.Outcome State Fault Refusal :=
  .next (s.hostWrite h (Reg.stkCtrl k.val) (fun s => s.askScrub k.val))

/-- A stack's counters (R223). -/
def State.clearStk (s : State) (k : Nat) : State :=
  s.zeroRegs [Reg.stkCorrLo k, Reg.stkCorrHi k, Reg.stkUncorr k, Reg.stkMacFail k, Reg.stkScrubPasses k]

/-- STK_CLR_COUNTERS (R223). -/
def execStkClrCounters (h : HostPort) (k : StackId) (s : State) : Host.Outcome State Fault Refusal :=
  .next (s.hostWrite h (Reg.stkCtrl k.val) (fun s => s.clearStk k.val))

end Sys2Proof.Machine
end

