-- ==== Sys2Proof/Machine/TrayRows.lean ====
section
/-!
DEFINITION. The meanings of the flash tray commands (07 R225 to R258): discovery, completions and timeouts, garbage collection,
wear levelling, the report card. PLANK_DISCARD stands with the descriptors.
-/
namespace Sys2Proof.Machine

/-! Discovery (R225, R235). -/

/-- The tray of a port, if there is one. -/
def State.trayAt (s : State) (p : Port) : Option Nat :=
  (s.pool.trays.find? (fun t => t.2.state != .absent && t.2.port == p.val)).map (·.1)

/-- The lowest tray number that no tray has. -/
def State.freeTray (s : State) : Option Nat := (List.range 32).find? (fun t => (s.tray t).state == .absent)

/-- TRAY_IDENTIFY (R225): a T-role port in ACTIVE whose peer is a tray bridge, without a tray yet. -/
def execTrayIdentify (p : Port) (s : State) : Host.Outcome State Fault Refusal :=
  let bridge := (s.linksOf p).any (fun l => (s.link l).train == .active && (s.link l).peer.any (fun c => c.kind == 2))
  if s.role p != 2 || !bridge || (s.trayAt p).isSome then .next s
  else
    match s.freeTray with
    | none => .next s
    | some t =>
      let s := s.setTray t { Tray.reset with state := .identifying, port := p.val, since := s.bell.ticks }
      let s := s.sendCmd t 3 0x01 0 0 0 [] .identify false
      .next ((s.sendCmd t 3 0x02 1 0 0 [] (.log 1) false).sendCmd t 3 0x02 2 0 0 [] (.log 2) false)

/-- The requirements of R235 on a descriptor. -/
def descriptorOk (d : Bytes) : Bool :=
  let per := field d 8 4
  let units := field d 7 1
  let total := field d 12 4
  field d 1 1 == 1 && field d 2 2 == 4096 && field d 4 2 == 32 && decide (8 ≤ field d 6 1) && decide (1 ≤ units)
    && (List.range 7).any (fun i => per == 2 ^ (10 + i)) && decide (400 * units ≤ total) && decide (total ≤ 4194304)
    && decide (total * per ≤ 2 ^ 32) && field d 16 4 != 0 && decide (64 ≤ field d 20 1) && decide (16 ≤ field d 21 1)
    && decide (32 ≤ field d 22 1) && decide (16 ≤ field d 23 1) && field d 56 200 == 0 && d.length == 256

/-- Block records from the erase-count log (2 bytes a block) and the bad-block log (4 bytes an entry) (R236). -/
def blocksOf (bad erases : Bytes) : Tab Block :=
  let t := (List.range (erases.length / 2)).foldl (fun (t : Tab Block) b =>
    t.put Block.reset b { Block.reset with erases := field erases (2 * b) 2 }) []
  (List.range (bad.length / 4)).foldl (fun (t : Tab Block) i =>
    t.modify Block.reset (field bad (4 * i) 4 % 2 ^ 31) (fun k => { k with state := .retired })) t

/-- A tray is refused (R225). -/
def State.refuseTray (s : State) (t : Nat) : State :=
  (s.setTray t { s.tray t with state := .refused, cmds := [] }).raiseTray 5 t

/-- TRAY_IDENTIFY_DONE (R225, R235). -/
def execTrayIdentifyDone (t : TrayId) (descriptor : Bytes) (bad : Bytes) (erases : Bytes) (s : State) :
    Host.Outcome State Fault Refusal :=
  let x := s.tray t.val
  if x.state != .identifying then .next s
  else if !descriptorOk descriptor then .next (s.refuseTray t.val)
  else
    let grown := ((List.range (bad.length / 4)).filter (fun i => decide (2 ^ 31 ≤ field bad (4 * i) 4))).length
    let y : Tray := { Tray.reset with
      state := .ready, port := x.port, since := x.since, units := field descriptor 7 1, perBlock := field descriptor 8 4,
      total := field descriptor 12 4, rated := field descriptor 16 4, serial := byteRun descriptor 24 16,
      initialBad := bad.length / 4 - grown, grown := grown, blocks := blocksOf bad erases }
    .next (s.setTray t.val y)

/-- TRAY_IDENTIFY_TIMEOUT (R225): 10 ms. -/
def execTrayIdentifyTimeout (t : TrayId) (s : State) : Host.Outcome State Fault Refusal :=
  let x := s.tray t.val
  if x.state == .identifying && decide (x.since + 10 * slotsPerMs ≤ s.bell.ticks) then .next (s.refuseTray t.val) else .next s

/-- TRAY_LOST (R227): a tray's port has left ACTIVE for a state other than RECOVERY. A tray outside the session is simply gone. -/
def execTrayLost (t : TrayId) (s : State) : Host.Outcome State Fault Refusal :=
  let x := s.tray t.val
  let up := (portOf x.port).any s.portUp
  if x.state == .absent || x.state == .lost || up then .next s
  else if x.inUse then .next (s.loseTray t.val).retryWaiting
  else .next (s.setTray t.val Tray.reset)

/-! Completions and timeouts (R230, R233). -/

/-- Fields of a tray frame header (R229). -/
def trayAddr (h : BitVec 128) : Nat := bits h.toNat 127 96
def trayLen (h : BitVec 128) : Nat := bits h.toNat 95 80
def trayStatusOf (h : BitVec 128) : Nat := bits h.toNat 79 72
def trayParam (h : BitVec 128) : Nat := bits h.toNat 71 64
def trayOpcode (h : BitVec 128) : Nat := bits h.toNat 63 56
def trayQueue (h : BitVec 128) : Nat := bits h.toNat 51 50
def trayCmdId (h : BitVec 128) : Nat := bits h.toNat 49 41

/-- The command that a COMPLETION names; none where the frame is discarded (R233). -/
def Tray.completes (x : Tray) (m : TrayMsg) : Option TrayCmd :=
  if m.check != trayCheck m.head m.data || bits m.head.toNat 40 2 != 0 || bits m.head.toNat 1 0 != 1 || trayOpcode m.head != 0x80
      || trayLen m.head != m.data.length then none
  else x.cmds.find? (fun c => c.queue == trayQueue m.head && c.id == trayCmdId m.head)

/-- A tray of 8 timeouts within 65,536 periods is sent ABORT_ALL (R233); blocks with a PROGRAM open are closed (R234). -/
def State.countTimeout (s : State) (t : Nat) : State :=
  let x := s.tray t
  let recent := s.bell.bounds :: x.timeouts.filter (fun b => decide (s.bell.bounds < b + 65536))
  if x.state == .lost then s
  else if recent.length < 8 || !x.room 3 then s.setTray t { x with timeouts := recent }
  else
    let s := s.setTray t { x with timeouts := [] }
    if x.cmds.any (fun c => c.opcode == 0x04) then s
    else
      let s := (x.cmds.filter (fun c => c.opcode == 0x11)).foldl (fun s c => s.closeBlock t (c.addr / x.perBlock)) s
      s.sendCmd t 3 0x04 0 0 0 [] .abort false

/-- What a timed-out command is treated as (R233). A first READ is issued once more, when its queue has room. -/
def State.timedOut (s : State) (t : Nat) (c : TrayCmd) : State :=
  if c.opcode == 0x10 && !c.again then
    if (s.tray t).room c.queue then s.sendCmd t c.queue 0x10 0 c.addr c.sectors [] c.why true
    else
      match c.why with
      | .work id => s.withPool { s.pool with works := s.pool.works.map (fun w =>
          if w.id == id then { w with sent := false, tries := 1 } else w) }
      | _ => s
  else
    match c.why with
    | .abort => s.loseTray t
    | .erase _ _ => s.cmdEnded t c .failed 0 0 []
    | _ => s.cmdEnded t c (if c.opcode == 0x10 then .failed else .dropped) 0 0 []

/-- TRAY_CMD_TIMEOUT (R233): the open command of a queue ([10:9]) and a CMD_ID ([8:0]). A GET_EVENT waits for its event. -/
def execTrayCmdTimeout (t : TrayId) (cmdId : BitVec 16) (s : State) : Host.Outcome State Fault Refusal :=
  let x := s.tray t.val
  let limit := max 1 (bits (s.rd Reg.trayCmdTimeout).toNat 15 0)
  match x.cmds.find? (fun c => c.queue == bits cmdId.toNat 10 9 && c.id == bits cmdId.toNat 8 0 && !c.timedOut && c.why != .event
      && decide (c.at_ + limit ≤ s.bell.bounds)) with
  | none => .next s
  | some c =>
    let s := s.setTray t.val { x with cmds := x.cmds.map (fun q => if q == c then { q with timedOut := true } else q) }
    .next (((s.raiseTray 1 t.val).timedOut t.val c).countTimeout t.val).pump

/-! Discards (R249). -/

/-- The entry of a plank becomes DISCARDED; its frame, sectors and cached copies are freed. -/
def State.discardPlank (s : State) (plank : Nat) : State :=
  let e := s.mapEntry plank
  let s := match e.state with
    | .stacked | .stackedV => s.dropFrame e.frame
    | .flash => s.invalidate e.tray e.loc e.size
    | _ => s
  let s := s.storeRef plank none
  ((s.setEntry plank { e with state := .discarded, ven := false, tray := 0, size := 0, up := false, loc := 0 }).uncache plank).bump
    Reg.trayDiscards

/-! Garbage collection and wear levelling (R250, R252). -/

/-- Valid planks of a block with their locations and sizes: the entry is FLASH and names the tray and the block. -/
def State.planksIn (s : State) (t b : Nat) : List (Nat × Nat × Nat) :=
  let per := (s.tray t).perBlock
  (s.pool.map.filter (fun p => p.2.state == .flash && p.2.tray == t && p.2.loc / per == b)).map
    (fun p => (p.1 + tieredBase / plankBytes, p.2.loc, p.2.size))

/-- The copy at a location is on its way, or cannot be read. -/
def Tray.moving (x : Tray) (loc : Nat) : Bool :=
  x.unreadable.contains loc || x.moves.any (fun m => m.2.1 == loc)
    || x.cmds.any (fun c => !c.timedOut && match c.why with
      | .move _ l _ => l == loc
      | _ => false)

/-- Planks of a block that can still be read for relocation. -/
def State.movable (s : State) (t b : Nat) : List (Nat × Nat × Nat) :=
  (s.planksIn t b).filter (fun p => !(s.tray t).moving p.2.1)

/-- Read the planks of a victim on queue 1, as the queue allows. -/
def State.readVictim (s : State) (t b : Nat) (wear : Bool) : State :=
  (s.movable t b).foldl (fun s p =>
    if (s.tray t).room 1 then s.sendCmd t 1 0x10 0 p.2.1 p.2.2 [] (.move p.1 p.2.1 wear) false else s) s

/-- The victim of a collection (R250 step 1): fewest valid sectors; suspect blocks, then the lower erase count, then the lower
number, win ties. -/
def State.pickVictim (s : State) (t : Nat) : Option Nat :=
  let x := s.tray t
  let cand := x.blocks.filter (fun p => (p.2.state == .closed || p.2.state == .suspect) && !(s.movable t p.1).isEmpty)
  let rank := fun (p : Nat × Block) => (p.2.valid, (if p.2.state == .suspect then 0 else 1), p.2.erases)
  let before := fun (a b : Nat × Nat × Nat) =>
    decide (a.1 < b.1) || (a.1 == b.1 && (decide (a.2.1 < b.2.1) || (a.2.1 == b.2.1 && decide (a.2.2 < b.2.2))))
  (cand.foldl (fun (acc : Option (Nat × Block)) p => match acc with
    | none => some p
    | some q => if before (rank p) (rank q) then some p else acc) none).map (·.1)

/-- A victim has nothing left to read and nothing on its way. -/
def State.victimDone (s : State) (t b : Nat) : Bool :=
  (s.movable t b).isEmpty && !(s.planksIn t b).any (fun p => !(s.tray t).unreadable.contains p.2.1)

/-- A victim is done with: a suspect block whose other planks have been relocated is retired (R253). -/
def State.leaveVictim (s : State) (t b : Nat) : State :=
  if ((s.tray t).block b).state == .suspect then s.retireBlock t b else s

/-- GC_LOW and GC_HIGH in permille (R257). -/
def State.gcLevels (s : State) : Nat × Nat :=
  let v := (s.rd Reg.trayGcCfg).toNat
  let low := bits v 15 0
  let high := bits v 31 16
  (low, if high ≤ low then low + 5 else high)

/-- Free blocks have reached a number of permille of the good blocks. -/
def Tray.freeReaches (x : Tray) (permille : Nat) : Bool := decide (x.goodBlocks * permille ≤ x.freeBlocks * 1000)

/-- One step of a collection that runs (R250). -/
def State.gcStep (s : State) (t : Nat) (a : Activity) : State :=
  let x := s.tray t
  if !x.inUse then (s.setTray t { x with victim := none }).activityDone a 0
  else
    match x.victim with
    | some b =>
      if s.victimDone t b then (s.setTray t { x with victim := none }).leaveVictim t b else (s.readVictim t b false).pump
    | none =>
      if x.freeReaches s.gcLevels.2 then s.activityDone a 0
      else
        match s.pickVictim t with
        | none => s.activityDone a 0
        | some b => ((s.setTray t { x with victim := some b }).readVictim t b false).pump

/-- GC_FLASH (R250): it is asked for below GC_LOW; while it runs it goes one step on. -/
def execGcFlash (t : TrayId) (s : State) : Host.Outcome State Fault Refusal :=
  match s.runningActivity 2 3 t.val with
  | some a => if a.result.isSome then .next s else .next (s.gcStep t.val a)
  | none =>
    let x := s.tray t.val
    if !x.inUse || x.freeReaches s.gcLevels.1 || s.hasActivity 2 3 t.val then .next s
    else .next (s.requestActivity 2 3 t.val 0 none)

/-- Lowest and highest erase count of a tray's good blocks. -/
def Tray.eraseMin (x : Tray) : Nat :=
  let good := x.blocks.filter (fun p => p.2.state != .retired)
  if x.blocks.length < x.total then 0
  else good.foldl (fun m p => min m p.2.erases) ((good.head?.map (·.2.erases)).getD 0)
def Tray.eraseMax (x : Tray) : Nat := (x.blocks.filter (fun p => p.2.state != .retired)).foldl (fun m p => max m p.2.erases) 0

/-- The closed block with the lowest erase count (R252). -/
def Tray.coldest (x : Tray) : Option Nat :=
  ((x.blocks.filter (fun p => p.2.state == .closed)).foldl (fun (acc : Option (Nat × Block)) p => match acc with
    | none => some p
    | some q => if p.2.erases < q.2.erases then some p else acc) none).map (·.1)

/-- One step of a levelling that runs (R252). -/
def State.wearStep (s : State) (t : Nat) (a : Activity) : State :=
  let x := s.tray t
  if !x.inUse then (s.setTray t { x with wearVictim := none }).activityDone a 0
  else
    match x.wearVictim with
    | some b =>
      if s.victimDone t b then ((s.setTray t { x with wearVictim := none, erasesSince := 0 }).leaveVictim t b).activityDone a 0
      else (s.readVictim t b true).pump
    | none =>
      if x.erasesSince < 1000 then s.activityDone a 0
      else
        match x.coldest with
        | none => s.activityDone a 0
        | some b => ((s.setTray t { x with wearVictim := some b }).readVictim t b true).pump

/-- WEAR_LEVEL (R252): it is asked for when the spread exceeds SPREAD, at most once in 1,000 erases. -/
def execWearLevel (t : TrayId) (s : State) : Host.Outcome State Fault Refusal :=
  match s.runningActivity 3 3 t.val with
  | some a => if a.result.isSome then .next s else .next (s.wearStep t.val a)
  | none =>
    let x := s.tray t.val
    let spread := max 1 (bits (s.rd Reg.trayWearCfg).toNat 15 0)
    if !x.inUse || x.eraseMax - x.eraseMin ≤ spread || x.erasesSince < 1000 || s.hasActivity 3 3 t.val then .next s
    else .next (s.requestActivity 3 3 t.val 0 none)

/-! The report card (R255, R256). -/

/-- The report card of a tray (R256). -/
def State.reportCard (s : State) (t : Nat) : Bytes :=
  let x := s.tray t
  let th := (s.rd Reg.trayNoteThresh0).toNat
  let flags := b2n (decide (x.spareLeft < bits th 7 0)) + 2 * b2n (decide (100 < x.wearUsed)) + 4 * b2n (decide (bits th 23 16 < x.tempNow))
    + 16 * b2n (x.state == .lost)
  leBytes 2 0x0240 ++ leBytes 1 t ++ leBytes 1 flags ++ leBytes 1 x.spareLeft ++ leBytes 1 x.wearUsed ++ leBytes 2 x.tempNow
    ++ byteRun x.health 24 8 ++ byteRun x.health 32 8 ++ byteRun x.health 0 8 ++ byteRun x.health 8 8 ++ byteRun x.health 16 8
    ++ leBytes 4 x.grown ++ leBytes 4 x.initialBad ++ byteRun x.temps 0 64 ++ byteRun x.health 40 4 ++ leBytes 132 0

/-- Rebuild a card: the notes whose quantities have crossed their thresholds, and the registers that show it. -/
def State.buildCard (s : State) (t : Nat) : State :=
  let x := s.tray t
  let th := (s.rd Reg.trayNoteThresh0).toNat
  let rate := bits (s.rd Reg.trayNoteThresh1).toNat 15 0
  let s := s.crossShare t
  let s := s.crossNote 2 t (decide (bits th 23 16 < x.tempNow))
  let s := s.crossNote 3 t (decide (x.corrBase + rate < field x.health 24 8))
  let card := s.reportCard t
  (List.range 64).foldl (fun s i => s.wr (Reg.trayTCard t i) (BitVec.ofNat 32 (field card (4 * i) 4))) s

/-- TRAY_COMPLETION (R233); the card is rebuilt when its logs have come (R256). -/
def execTrayCompletion (t : TrayId) (msg : TrayMsg) (s : State) : Host.Outcome State Fault Refusal :=
  match (s.tray t.val).completes msg with
  | none => .next (s.raiseTray 4 t.val)
  | some c =>
    let s := s.endCmd t.val c (trayResult (trayStatusOf msg.head)) (trayParam msg.head) (trayAddr msg.head) msg.data
    .next (if c.why == .log 4 then s.buildCard t.val else s)

/-- A tray's logs are asked for, and its card is rebuilt. -/
def State.renewCard (s : State) (t : Nat) : State :=
  let x := s.tray t
  if !(x.inUse || x.state == .lost) || s.bell.bounds < x.cardAt + 65536 then s
  else
    let s := s.buildCard t
    let s := s.setTray t { s.tray t with cardAt := s.bell.bounds, corrBase := field x.health 24 8 }
    let s := if x.inUse && x.room 3 then s.sendCmd t 3 0x02 3 0 0 [] (.log 3) false else s
    if x.inUse && (s.tray t).room 3 then s.sendCmd t 3 0x02 4 0 0 [] (.log 4) false else s

/-- REPORT_CARD_REBUILD (R256). -/
def execReportCardRebuild (s : State) : Host.Outcome State Fault Refusal :=
  .next ((s.pool.trays.map (·.1)).foldl (fun s t => s.renewCard t) s)

/-- The trays' counters (R257). -/
def State.clearTrays (s : State) : State :=
  let s := s.zeroRegs [Reg.trayDiscards, Reg.trayMacFail, Reg.trayVersionFail, Reg.trayVersionPinned, Reg.trayDemoteFail]
  s.withPool { s.pool with trays := s.pool.trays.map (fun p => (p.1, { p.2 with sectDemote := 0, sectGc := 0, sectWear := 0 })) }

/-- TRAY_CLR_COUNTERS (R257). -/
def execTrayClrCounters (h : HostPort) (s : State) : Host.Outcome State Fault Refusal :=
  .next (s.hostWrite h Reg.trayCtrl State.clearTrays)

end Sys2Proof.Machine
end

