-- ==== Sys2Proof/Machine/HostOps.lean ====
section
/-!
DEFINITION. The host rings' shared operations (14 R459 to R469, R477 to R480): ring registers, doorbells, HRDY, descriptors.
-/
namespace Sys2Proof.Machine

/-! HRDY (R466). -/

/-- A set that host h owns has a ring with an entry that has been read back and not consumed. -/
def State.hrdyDue (s : State) (h : HostPort) : Bool :=
  ([HostPort.a, HostPort.b]).any (fun g => s.setOwner g == h && (List.range 65).any (fun r =>
    let cfg := s.rd (ringCfg g r)
    bit cfg 30 && ringEnabled cfg && decide ((s.host g).readback.get 0 r < s.ringFill g r)))

/-- Drive or release both HRDY pins. -/
def State.refreshHrdy (s : State) : State :=
  let s := s.withHost .a { s.hostA with hrdy := s.hrdyDue .a }
  s.withHost .b { s.hostB with hrdy := s.hrdyDue .b }

/-! Ring registers (R459, R460, R477, R480, R482). -/

/-- A base or configuration register of a ring: kind 0 SQ, 1 CQ, 2 event ring; word 0 BASE_LO, 1 BASE_HI, 2 CFG. -/
structure RingReg where
  set : HostPort
  kind : Nat
  num : Nat
  word : Nat
  deriving DecidableEq, Repr

/-- The ring register at an offset. -/
def ringRegOf (off : Nat) : Option RingReg :=
  if off < 0x1100000 || 0x1110000 ≤ off || off % 4 != 0 then none
  else
    let set := if off - 0x1100000 < 0x8000 then HostPort.a else .b
    let o := (off - 0x1100000) % 0x8000
    let word := o % 0x20 / 4
    if 0x1000 ≤ o && o < 0x1800 && word < 3 then some ⟨set, 0, (o - 0x1000) / 0x20, word⟩
    else if 0x2000 ≤ o && o < 0x2800 && word < 3 then some ⟨set, 1, (o - 0x2000) / 0x20, word⟩
    else if 0x3000 ≤ o && o < 0x300C then some ⟨set, 2, 0, (o - 0x3000) / 4⟩
    else none

/-- BASE_LO of a ring; the other registers follow it. -/
def RingReg.base (r : RingReg) : Nat :=
  if r.kind = 0 then Reg.sqBaseLo (hostNum r.set) r.num else if r.kind = 1 then ringBase r.set r.num else ringBase r.set 64

/-- Number of a CQ or event ring among the rings that take entries. -/
def RingReg.ring (r : RingReg) : Nat := if r.kind = 1 then r.num % 64 else 64

/-- A ring starts (R460): head and tail 0, phase 1. -/
def State.restartRing (s : State) (r : RingReg) : State :=
  let s := (s.wr (r.base + 0x0C) 0).wr (r.base + 0x10) (if r.kind = 0 then 0 else 0x10000)
  if r.kind = 0 then s
  else
    let x := s.host r.set
    s.withHost r.set { x with unsig := x.unsig.put (0, 0) r.ring (0, 0), readback := x.readback.put 0 r.ring 0 }

/-- Write the held completions of every CQ that can take them (R464, R480). -/
def State.flushAll (s : State) (h : HostPort) : State :=
  ((List.range 64).filterMap (fun n => if hn : n < 64 then some (⟨n, hn⟩ : RingId) else none)).foldl (fun s r =>
    flushHeld (s.host h).held.length s h r) s

/-- A write of a ring's CFG (R460, R480). -/
def State.writeRingCfg (s : State) (h : HostPort) (r : RingReg) (v : Word) : State :=
  let cfg := r.base + 8
  if ringEnabled (s.rd cfg) then
    if bit v 31 then s.raiseHost r.set 1 0 0 r.num 0 else (s.wrMasked cfg v).refreshHrdy
  else
    let s := s.wrMasked cfg v
    if !bit v 31 then s
    else
      let s := s.restartRing r
      let x := s.host r.set
      let s := if h == r.set && x.ring == .quiesced then s.withHost r.set { x with ring := .active } else s
      (s.flushAll r.set).refreshHrdy

/-- A write of a ring register through the port of host h (R477). -/
def State.writeRing (s : State) (h : HostPort) (off : Nat) (v : Word) : State :=
  match ringRegOf off with
  | none => s
  | some r =>
    if h != r.set && (s.host r.set).ring != .quiesced then s.raiseHost r.set 2 0 0 r.num 0
    else if r.word = 0 then s.holdLo h off v
    else if r.word = 1 then
      let q := s.joinHi h (off - 4) v
      let s := s.dropHeld h (off - 4)
      if ringEnabled (s.rd (r.base + 8)) then s.raiseHost r.set 1 0 0 r.num 0
      else (s.wrMasked (off - 4) (q.extractLsb' 0 32)).wrMasked off (q.extractLsb' 32 32)
    else s.writeRingCfg h r v

/-- RING_CFG_WRITE (R460). -/
def execRingCfgWrite (h : HostPort) (off : BitVec 25) (v : Word) (s : State) : Host.Outcome State Fault Refusal :=
  .next (s.hostWrite h off.toNat (fun s => s.writeRing h off.toNat v))

/-! Doorbells (R461). The set whose ring is named answers in its owner's BAR2. -/

/-- A doorbell write arrives at BAR2. -/
def State.doorbell (s : State) (set : HostPort) (f : State → State) : State :=
  if !s.answers (s.setOwner set) || s.boot.state == .off then s else f (s.touch (s.setOwner set))

/-- The doorbell of SQ r (R461). -/
def State.ringSq (s : State) (h : HostPort) (r : RingId) (v : Word) : State :=
  let n := hostNum h
  let size := ringSize (s.rd (Reg.sqCfg n r.val))
  let head := (s.rd (Reg.sqHead n r.val)).toNat % size
  let tail := (s.rd (Reg.sqTail n r.val)).toNat % size
  let new := bits v.toNat 15 0
  let used := (tail + size - head) % size
  if size ≤ new || size ≤ used + (new + size - tail) % size then s.raiseHost h 0 0 0 r.val 0
  else s.wr (Reg.sqTail n r.val) (BitVec.ofNat 32 new)

/-- SQ_DOORBELL (R461). -/
def execSqDoorbell (h : HostPort) (r : RingId) (v : Word) (s : State) : Host.Outcome State Fault Refusal :=
  .next (s.doorbell h (fun s => s.ringSq h r v))

/-- The doorbell of a CQ or of the event ring: the new head (R461, R466). A CQ head that passes the tail is invalid. -/
def State.ringHeadDb (s : State) (h : HostPort) (r : Nat) (v : Word) : State :=
  let size := ringSize (s.rd (ringCfg h r))
  let new := bits v.toNat 15 0
  let head := (s.rd (ringHead h r)).toNat % size
  if size ≤ new || (r < 64 && decide (s.ringFill h r < (new + size - head) % size)) then s.raiseHost h 0 0 0 r 0
  else
    let s := s.wr (ringHead h r) (BitVec.ofNat 32 new)
    let s := if hr : r < 64 then flushHeld (s.host h).held.length s h ⟨r, hr⟩ else s
    let x := s.host h
    let s := s.withHost h { x with readback := x.readback.modify 0 r (fun n => min n (s.ringFill h r)) }
    s.refreshHrdy

/-- CQ_DOORBELL (R461). -/
def execCqDoorbell (h : HostPort) (r : RingId) (v : Word) (s : State) : Host.Outcome State Fault Refusal :=
  .next (s.doorbell h (fun s => s.ringHeadDb h r.val v))

/-- EVT_DOORBELL (R461). -/
def execEvtDoorbell (h : HostPort) (v : Word) (s : State) : Host.Outcome State Fault Refusal :=
  .next (s.doorbell h (fun s => s.ringHeadDb h 64 v))

/-- INT_TIMEOUT (R465): the oldest unsignalled entry is INT_PERIODS periods old. -/
def execIntTimeout (h : HostPort) (ring : Fin 65) (s : State) : Host.Outcome State Fault Refusal :=
  let x := s.host h
  let u := x.unsig.get (0, 0) ring.val
  let cfg := (s.rd (ringCfg h ring.val)).toNat
  if u.1 = 0 || bits cfg 13 6 = 0 || s.bell.bounds < u.2 + bits cfg 13 6 then .next s
  else
    .next ((s.withHost h { x with unsig := x.unsig.put (0, 0) ring.val (0, 0) }).emit
      (.msix (s.setOwner h) (BitVec.ofNat 8 (bits cfg 29 22))))

/-- HRDY_READBACK_DONE (R466): the entries of a ring that were being read back are visible to the host. -/
def execHrdyReadbackDone (h : HostPort) (ring : Fin 65) (s : State) : Host.Outcome State Fault Refusal :=
  let x := s.host h
  .next (s.withHost h { x with readback := x.readback.put 0 ring.val 0 }).refreshHrdy

/-! Descriptors (R462, R463, R468 to R470). -/

/-- Fields of a descriptor. -/
def dType (d : Desc) : Nat := field d.bytes 1 1
def dJob (d : Desc) : BitVec 12 := BitVec.ofNat 12 (field d.bytes 2 2)
def dFence (d : Desc) : Bool := bit (BitVec.ofNat 8 (field d.bytes 0 1)) 2
def dField (d : Desc) (i n : Nat) : Nat := field d.bytes i n
def dAddr (d : Desc) (i : Nat) : Dword := BitVec.ofNat 64 (field d.bytes i 8)

/-- Body bytes that a type uses, each with the mask of its defined bits (R470, R471, R499, R520). None: a reserved TYPE. -/
def descBody (type sub : Nat) : Option (List (Nat × Nat)) :=
  let run : Nat → Nat → List (Nat × Nat) := fun i n => (List.range n).map (fun j => (i + j, 0xFF))
  let load := run 16 1 ++ [(17, 1)] ++ run 18 2 ++ run 20 4 ++ run 24 4 ++ run 32 8
  match type with
  | 0x01 => some []
  | 0x02 => some ([(16, 1)] ++ run 20 4)
  | 0x08 | 0x10 | 0x11 | 0x12 | 0x13 => some load
  | 0x09 => some (run 16 4 ++ run 20 4 ++ run 24 8)
  | 0x0A => some []
  | 0x14 => some ([(16, 0xFF), (17, 1)] ++ run 24 8)
  | 0x18 => some (run 16 3 ++ run 20 8)
  | 0x19 => some (run 20 4 ++ run 24 8)
  | 0x1A => some (run 24 8)
  | 0x20 => some (run 16 6 ++ run 32 8)
  | 0x21 => some (run 16 2 ++ run 32 8)
  | 0x22 | 0x23 => some (run 16 2)
  | 0x28 => some (run 16 4 ++ run 24 8)
  | 0x29 => some ([(16, 0xFF), (17, 0x0D)] ++ run 18 4 ++ run 22 2 ++ run 24 8 ++ run 32 8 ++ run 40 8 ++ run 48 2)
  | 0x30 => some (run 16 4 ++ run 24 8)
  | 0x38 =>
    if sub = 0x01 || sub = 0x02 || sub = 0x03 || sub = 0x10 || sub = 0x11 then
      some (run 16 1 ++ (if sub = 0x03 then [(17, 0xFF)] else []) ++ run 20 4 ++ run 24 8 ++ run 32 8 ++ run 40 4)
    else if sub = 0x12 || sub = 0x13 then some (run 16 2 ++ run 20 4 ++ run 32 8 ++ run 40 24)
    else none
  | _ => none

/-- The refusal of R468 on a descriptor's own bytes: FORMAT, then RSVD_SET; none where it passes. -/
def descRefusal (b : Bytes) : Option (BitVec 8) :=
  if field b 0 1 % 4 != 1 then some St.format
  else
    match descBody (field b 1 1) (field b 16 1) with
    | none => some St.rsvdSet
    | some used =>
      let set := (List.range 48).any (fun i =>
        let mask := ((used.find? (fun p => p.1 == 16 + i)).map (·.2)).getD 0
        (BitVec.ofNat 8 (field b (16 + i) 1)) &&& ~~~(BitVec.ofNat 8 mask) != 0)
      if field b 0 1 / 8 != 0 || field b 3 1 / 16 != 0 || field b 4 4 != 0 || set then some St.rsvdSet else none

/-- Fetched and not completed, of one SQ and of the set. -/
def State.sqInFlight (s : State) (h : HostPort) (q : RingId) : List Desc := (s.host h).flight.filter (fun d => d.sq == q)

/-- An SQ of a live set has a doorbell pending and may be fetched (R460 to R463, R476). -/
def State.fetchable (s : State) (h : HostPort) (q : RingId) : Bool :=
  let n := hostNum h
  let cfg := s.rd (Reg.sqCfg n q.val)
  let cq := bits cfg.toNat 21 16
  s.setLive h && decide (9 ≤ s.boot.state.code) && decide (s.boot.state.code ≤ 14) && ringEnabled cfg
    && ringEnabled (s.rd (ringCfg h cq)) && s.rd (Reg.sqHead n q.val) != s.rd (Reg.sqTail n q.val)
    && decide ((s.sqInFlight h q).length < 16) && decide ((s.host h).flight.length < 256)
    && decide ((s.host h).reserved.get 0 cq + ((s.host h).held.filter (fun e => e.cq.val == cq)).length < s.ringRoom h cq)

/-- The SQ that the round robin serves next (R481). -/
def State.nextSq (s : State) (h : HostPort) : Option RingId :=
  let last := (s.host h).lastSq.val
  (((List.range 64).map (fun i => (last + 1 + i) % 64)).filterMap (fun n => if hn : n < 64 then some (⟨n, hn⟩ : RingId) else none)).find?
    (fun q => s.fetchable h q)

/-- DESCRIPTOR_FETCH (R463, R468, R481): the 64 bytes of the next descriptor of SQ q arrive. A refused one completes at once. -/
def execDescriptorFetch (h : HostPort) (q : RingId) (data : Bytes) (s : State) : Host.Outcome State Fault Refusal :=
  if s.nextSq h != some q then .next s
  else
    let n := hostNum h
    let cfg := s.rd (Reg.sqCfg n q.val)
    let cq : RingId := ⟨bits cfg.toNat 21 16 % 64, Nat.mod_lt _ (by decide)⟩
    let head := ((s.rd (Reg.sqHead n q.val)).toNat + 1) % ringSize cfg
    let x := s.host h
    let d : Desc := { id := x.nextId, sq := q, cq := cq, bytes := byteRun data 0 64, started := false,
                      startedAt := 0, interim := false, progress := 0 }
    let x := { x with flight := x.flight ++ [d], nextId := x.nextId + 1, reserved := x.reserved.modify 0 cq.val (· + 1), lastSq := q }
    let s := (s.withHost h x).wr (Reg.sqHead n q.val) (BitVec.ofNat 32 head)
    .next (match descRefusal d.bytes with
      | some st => s.finish h d st.toNat 0
      | none => s)

/-- The descriptor of an SQ that starts next: the first not started, and with FENCE the first of all (R462). -/
def State.startable (s : State) (h : HostPort) (q : RingId) (pick : Desc → Bool) : Option Desc :=
  let mine := s.sqInFlight h q
  match mine.find? (fun d => !d.started) with
  | none => none
  | some d => if pick d && (!dFence d || mine.head?.map (·.id) == some d.id) then some d else none

/-- Change a descriptor in flight. -/
def State.setDesc (s : State) (h : HostPort) (d : Desc) : State :=
  s.withHost h { s.host h with flight := (s.host h).flight.map (fun e => if e.id == d.id then d else e) }

/-- The main core runs the boot's later states, in which descriptors act. -/
def State.descServed (s : State) : Bool := decide (9 ≤ s.boot.state.code) && decide (s.boot.state.code ≤ 14)

/-- Start the next descriptor of SQ q when it is of the kind picked. -/
def State.withDesc (s : State) (h : HostPort) (q : RingId) (pick : Desc → Bool) (run : State → Desc → State) : State :=
  if !s.descServed then s
  else
    match s.startable h q pick with
    | none => s
    | some d =>
      let d := { d with started := true, startedAt := s.bell.bounds }
      run (s.setDesc h d) d

/-- Complete a descriptor with a status and a result. -/
def State.done (s : State) (h : HostPort) (d : Desc) (st : Status) (result : Nat) : State := s.finish h d st.toNat result

/-- A descriptor of a type. -/
def isType (t : Nat) (d : Desc) : Bool := dType d == t

/-- NOP (R470). -/
def execNop (h : HostPort) (q : RingId) (s : State) : Host.Outcome State Fault Refusal :=
  .next (s.withDesc h q (isType 0x01) (fun s d => s.done h d St.ok 0))

/-- A TT_LOAD that arrives while the bank is armed withdraws readiness (R79). -/
def State.loadDisarms (s : State) : State :=
  match s.tt.armed with
  | none => s
  | some _ =>
    let s := match s.tt.ann with
      | some a => if s.topMaster && !a.committed then s.withdrawAnn else s
      | none => s
    s.disarm.raise Reg.ttErr 5

/-- HOST_COMPLETION_TIMEOUT (R468): a read of host memory that the next descriptor of SQ q names has failed or timed out. -/
def execHostCompletionTimeout (h : HostPort) (q : RingId) (s : State) : Host.Outcome State Fault Refusal :=
  let reads := fun (d : Desc) => [0x08, 0x10, 0x11, 0x12, 0x13, 0x20, 0x29].contains (dType d)
    || (dType d == 0x38 && (dField d 16 1 == 2 || dField d 16 1 == 3 || decide (0x10 ≤ dField d 16 1)))
  .next (s.withDesc h q reads (fun s d =>
    let s := if dType d == 0x08 then s.loadDisarms else s
    (s.raiseHost (s.setOwner h) 3 (dType d) 0x0B q.val (dAddr d (if dType d == 0x38 then 24 else 32))).done h d St.timeout 0))

/-- The host's counters (R482). -/
def State.clearHost (s : State) (h : HostPort) : State :=
  let n := hostNum h
  s.zeroRegs [Reg.hostDescDone n, Reg.hostBar4Reads n, Reg.hostBar4Writes n, Reg.evtDrop n]

/-- HOST_CLR_COUNTERS (R482). -/
def execHostClrCounters (h : HostPort) (s : State) : Host.Outcome State Fault Refusal :=
  .next (s.hostWrite h (Reg.hostCtrl (hostNum h)) (fun s => s.clearHost h))

end Sys2Proof.Machine
end

