-- ==== Sys2Proof/Machine/TableRows.lean ====
section
/-!
DEFINITION. The meanings of the table loads and switch-overs: the timetable (02 R73 to R83), the mortise tables and the drawer
table (04 R143 to R149; 06 R193, R194; 16 R507), the object table (06 R195 to R198), and the job views (15 R504). ROLL_LOAD and
the bank switch-over stand with the roll.
-/
namespace Sys2Proof.Machine

/-! Load bodies (R471). -/

def loadTable (d : Desc) : Nat := dField d 16 1
def loadNumber (d : Desc) : Nat := dField d 18 2
def loadFirst (d : Desc) : Nat := dField d 20 4
def loadCount (d : Desc) : Nat := dField d 24 4
def loadClear (d : Desc) : Bool := dField d 17 1 == 1

/-- FIRST, COUNT and SRC keep their limits. -/
def loadFits (d : Desc) (range : Nat) : Bool := decide (loadFirst d + loadCount d ≤ range) && dField d 32 8 % 64 == 0

/-- CLEAR and NUMBER are 0 in a load other than TT_LOAD. -/
def plainLoad (d : Desc) : Bool := dField d 17 1 == 0 && loadNumber d == 0

/-- The entries that a load read, each of `n` bytes, as bits. -/
def loadEntries (d : Desc) (data : Bytes) (n w : Nat) : List (BitVec w) :=
  (List.range (loadCount d)).map (fun i => BitVec.ofNat w (field data (n * i) n))

/-- The refusal of R13 and R15 on one entry: an all-zero entry is empty and accepted. -/
def entryRefusal {w : Nat} (reserved : BitVec w) (bad : BitVec w → Bool) (e : BitVec w) : Option Status :=
  if e == 0 then none
  else if bits e.toNat 1 0 != 1 then some St.format
  else if e &&& reserved != 0 || bad e then some St.rsvdSet
  else none

/-- The refusal of a load: the first failing status by R16 (R74). -/
def entriesRefusal {w : Nat} (reserved : BitVec w) (bad : BitVec w → Bool) (es : List (BitVec w)) : Option Status :=
  let rs := es.filterMap (entryRefusal reserved bad)
  if rs.contains St.format then some St.format else rs.head?

/-- Bits [hi:lo] of a word set. -/
def maskBits (w hi lo : Nat) : BitVec w := BitVec.ofNat w ((2 ^ (hi + 1 - lo) - 1) * 2 ^ lo)

/-! The timetable (R73 to R79). -/

/-- Reserved bits of a timetable entry (R59, R61, R62). -/
def ttReserved (kind : Nat) : BitVec 128 :=
  maskBits 128 63 56 ||| maskBits 128 3 2
    ||| (if kind = 0 then maskBits 128 127 84 ||| maskBits 128 67 67 else maskBits 128 127 120 ||| maskBits 128 111 106)

/-- Values of an entry that R63 treats as reserved. -/
def ttBad (kind : Nat) (e : BitVec 128) : Bool :=
  let a := ttAction e
  if kind = 0 then decide (4 < a) || ((a == 1 || a == 2) && decide (4 ≤ ttClass e)) else !(a == 0 || a == 1 || a == 4)

/-- Tables and entries of each kind (R58). -/
def ttTables (kind : Nat) : Nat := if kind = 0 then 192 else if kind = 1 then 168 else 36
def ttEntries (kind : Nat) : Nat := if kind = 0 then 4096 else if kind = 1 then 2048 else 8192

/-- Write entries of one table of the inactive bank (R73). -/
def State.ttWrite (s : State) (kind num first : Nat) (clear : Bool) (es : List (BitVec 128)) : State :=
  let put := fun (t : Tab (BitVec 128)) =>
    let t := if clear then t.clearRange (ttKey kind num 0) (ttKey kind num 0 + 8192) else t
    Tab.putRun 0 t (ttKey kind num first) es
  if s.tt.active then s.withTt { s.tt with bank0 := put s.tt.bank0 } else s.withTt { s.tt with bank1 := put s.tt.bank1 }

/-- TT_LOAD (R73, R74, R79). -/
def execTtLoad (h : HostPort) (q : RingId) (data : Bytes) (s : State) : Host.Outcome State Fault Refusal :=
  .next (s.withDesc h q (isType 0x08) (fun s d =>
    let s := s.loadDisarms
    let kind := loadTable d
    if 2 < kind || ttTables kind ≤ loadNumber d || !loadFits d (ttEntries kind) then s.done h d St.rsvdSet 0
    else
      let es := loadEntries d data 16 128
      match entriesRefusal (ttReserved kind) (ttBad kind) es with
      | some st => s.done h d st 0
      | none => (s.ttWrite kind (loadNumber d) (loadFirst d) (loadClear d) es).done h d St.ok (loadCount d)))

/-- A point of R12 in a descriptor body. -/
def dPoint (d : Desc) (i : Nat) : BellTime := BellTime.ofStamp (dAddr d i)

/-- A point with slot 0 as a timestamp. -/
def pointStamp (term : BitVec 40) (period : BitVec 16) : Nat := (BellTime.at0 term period).stamp.toNat

/-- TT_ARM (R75, R76): readiness, and on the master of the top ring an announcement. -/
def State.armTt (s : State) (tag : Word) (len : Nat) (at_ : BellTime) : State × Nat :=
  let s := s.withTt { s.tt with armed := some (tag, len) }
  if !s.topMaster then (s, 0)
  else
    match s.tt.ann with
    | some a =>
      if a.committed then (s, pointStamp a.term a.period)
      else
        let p := s.effectivePoint len at_.term at_.period
        (s.withTt { s.tt with ann := some ⟨tag, len, p.1, p.2, false⟩ }, pointStamp p.1 p.2)
    | none =>
      let p := s.effectivePoint len at_.term at_.period
      (s.withTt { s.tt with ann := some ⟨tag, len, p.1, p.2, false⟩ }, pointStamp p.1 p.2)

/-- TT_ARM (R75, R76). -/
def execTtArm (h : HostPort) (q : RingId) (s : State) : Host.Outcome State Fault Refusal :=
  .next (s.withDesc h q (isType 0x09) (fun s d =>
    let len := dField d 20 4
    if len = 0 || 65536 < len then s.done h d St.rsvdSet 0
    else
      let (s, r) := s.armTt (BitVec.ofNat 32 (dField d 16 4)) len (dPoint d 24)
      s.done h d St.ok r))

/-- TT_CANCEL (R79). -/
def State.cancelTt (s : State) : State :=
  match s.tt.ann with
  | some a =>
    if s.topMaster then (if a.committed then s.raise Reg.ttErr 6 else s.withdrawAnn) else s.disarm
  | none => s.disarm

/-- TT_CANCEL (R79). -/
def execTtCancel (h : HostPort) (q : RingId) (s : State) : Host.Outcome State Fault Refusal :=
  .next (s.withDesc h q (isType 0x0A) (fun s d => s.cancelTt.done h d St.ok 0))

/-- At a switch-over, queued requests whose unit has no recess in the new bank are refused (R71). -/
def State.dropNoRecess (s : State) : State :=
  (s.fault.waiting.filter s.recessRefused).foldl (fun s a =>
    let s := s.withFault { s.fault with waiting := s.fault.waiting.filter (fun x => x != a) }
    (s.raise Reg.ttErr 7).finishFor a.desc St.noRecess 0) s

/-- The armed bank becomes active (R80, R81). -/
def State.activateTt (s : State) (a : Announce) : State :=
  let t := { s.tt with active := !s.tt.active, activeTag := a.tag, activeLen := a.len, armed := none, ann := none, missed := false,
                       overlap0 := s.tt.overlap0 && s.tt.active, overlap1 := s.tt.overlap1 && !s.tt.active,
                       soAt := s.bell.bounds }
  let crossed := s.sw.queue.map (fun e => if e.cls.val < 4 then { e with crossed := true } else e)
  let s := (s.withTt t).withSw { s.sw with queue := crossed }
  ((s.withBell { s.bell with len := a.len }).wr Reg.scTermLength (BitVec.ofNat 32 a.len)).dropNoRecess

/-- TIMETABLE_SWITCH_OVER (R80, R83): at the first slot of the announced period. -/
def execTimetableSwitchOver (s : State) : Host.Outcome State Fault Refusal :=
  match s.tt.ann with
  | none => .next s
  | some a =>
    if !a.committed || !s.reached a.term a.period then .next s
    else if s.takesOver a then .next (s.activateTt a)
    else
      let s := (s.withTt { s.tt with missed := true, ann := none }).withBell { s.bell with len := a.len }
      .next (((s.wr Reg.scTermLength (BitVec.ofNat 32 a.len)).raise Reg.ttErr 1).raise Reg.bellErr 6)

/-! Local table sets (R82, R471, R472). -/

/-- A load that starts while its set is armed is refused (R471). -/
def State.refuseArmed (s : State) (h : HostPort) (d : Desc) : State :=
  (s.raiseHost (s.setOwner h) 10 (dType d) St.denied.toNat d.sq.val 0).done h d St.denied 0

/-- LOAD_REFUSED of MORT_ERR; no request caused it, so the captures name none. -/
def State.loadRefused (s : State) : State := s.raiseMort 7 ⟨0, [], 0⟩ St.denied

/-- A partition check of the inactive mortise bank (R507): whether it holds. -/
def State.mortLoadOk (s : State) (job : Tab (BitVec 64)) (jat : Tab (BitVec 128)) (adm : Tab (BitVec 16)) : Bool :=
  jat.all (fun p => jatSize p.2 == 0 || jatPartition p.2 == jobPartition (job.get 0 (p.1 / 64)))
    && adm.all (fun p => !bit p.2 15 || bits (s.rd (Reg.portCfg (p.1 / 16))).toNat 21 16 == jobPartition (job.get 0 (p.2.toNat % 4096)))

/-- Write the inactive mortise bank, if R507 allows it. -/
def State.writeMort (s : State) (h : HostPort) (d : Desc) (job : Tab (BitVec 64)) (jat : Tab (BitVec 128)) (adm : Tab (BitVec 16)) :
    State :=
  if s.mortLoadOk job jat adm then
    let m := if s.mort.mortBank then { s.mort with job0 := job, jat0 := jat, adm0 := adm }
      else { s.mort with job1 := job, jat1 := jat, adm1 := adm }
    (s.withMort m).done h d St.ok (loadCount d)
  else s.loadRefused.done h d St.denied 0

/-- Reserved bits of an admission table entry of 64 bytes (R471). -/
def admReserved : BitVec 512 :=
  ((List.range 16).foldl (fun (m : BitVec 512) j => m ||| maskBits 512 (16 * j + 14) (16 * j + 12)) 0) ||| maskBits 512 511 258

/-- The refusal of R13 and R15 on an admission entry, whose FMT_GEN lies in byte 32. -/
def admRefusal (e : BitVec 512) : Option Status :=
  if e == 0 then none
  else if bits e.toNat 257 256 != 1 then some St.format
  else if e &&& admReserved != 0 then some St.rsvdSet
  else none

/-- MORT_LOAD (R143 to R145, R471). -/
def State.loadMort (s : State) (h : HostPort) (d : Desc) (data : Bytes) : State :=
  let t := loadTable d
  let range := if t = 0 then 4096 else if t = 1 then 262144 else 192
  let job := if s.mort.mortBank then s.mort.job0 else s.mort.job1
  let jat := if s.mort.mortBank then s.mort.jat0 else s.mort.jat1
  let adm := if s.mort.mortBank then s.mort.adm0 else s.mort.adm1
  if 2 < t || !plainLoad d || !loadFits d range then s.done h d St.rsvdSet 0
  else if s.tt.armMort.isSome then s.refuseArmed h d
  else if t = 0 then
    let es := loadEntries d data 8 64
    match entriesRefusal (maskBits 64 63 14 ||| maskBits 64 7 3) (fun _ => false) es with
    | some st => s.done h d st 0
    | none => s.writeMort h d (Tab.putRun 0 job (loadFirst d) es) jat adm
  else if t = 1 then
    let es := loadEntries d data 16 128
    match entriesRefusal (maskBits 128 127 110 ||| maskBits 128 87 83 ||| maskBits 128 77 64 ||| maskBits 128 2 2) (fun _ => false) es with
    | some st => s.done h d st 0
    | none => s.writeMort h d job (Tab.putRun 0 jat (loadFirst d) es) adm
  else
    let es := loadEntries d data 64 512
    let rs := es.filterMap admRefusal
    match (if rs.contains St.format then some St.format else rs.head?) with
    | some st => s.done h d st 0
    | none =>
      let slots := es.flatMap (fun e => (List.range 16).map (fun j => e.extractLsb' (16 * j) 16))
      s.writeMort h d job jat (Tab.putRun 0 adm (16 * loadFirst d) slots)

/-- MORT_LOAD. -/
def execMortLoad (h : HostPort) (q : RingId) (data : Bytes) (s : State) : Host.Outcome State Fault Refusal :=
  .next (s.withDesc h q (isType 0x10) (fun s d => s.loadMort h d data))

/-- Two drawers overlap. -/
def drwOverlap (a b : BitVec 128) : Bool :=
  decide (drwBase a < drwBase b + drwSize b) && decide (drwBase b < drwBase a + drwSize a)

/-- Fields that stay while a drawer is LENT or RECALLING (R148): PARTITION, JOB, SHARED, SIZE_G, BASE. -/
def drwFixed : BitVec 128 := maskBits 128 111 94 ||| maskBits 128 91 91 ||| maskBits 128 81 64 ||| maskBits 128 47 21

/-- R148 on one entry: a change of state or of fields that is refused. -/
def State.drawerChangeBad (s : State) (i : Nat) (e : BitVec 128) : Bool :=
  let a := s.drawer i
  let old := drwState a
  let new := drwState e
  (old == 0 && new == 2) || (old == 2 && new == 1) || (old == 1 && new == 0) || (old != 0 && a &&& drwFixed != e &&& drwFixed)

/-- R148: a drawer overlaps another that is not FREE in the active bank or would not be FREE in `bank`. -/
def State.drawerOverlaps (s : State) (bank : Tab (BitVec 128)) (i : Nat) (e : BitVec 128) : Bool :=
  drwState e != 0 && (s.drawerTable ++ bank).any (fun p => p.1 != i && drwState p.2 != 0 && drwOverlap p.2 e)

/-- A drawer entry as a load writes it: KEY_GEN is not software's to write (R146). -/
def State.loadedDrawer (s : State) (i : Nat) (e : BitVec 128) : BitVec 128 :=
  if e == 0 && drwKeyGen (s.drawer i) == 0 then 0 else (s.drawer i).extractLsb' 112 16 ++ e.extractLsb' 0 112

/-- DRAWER_LOAD (R148, R193, R194, R316, R471). -/
def State.loadDrawers (s : State) (h : HostPort) (d : Desc) (data : Bytes) : State :=
  if loadTable d != 0 || !plainLoad d || !loadFits d 65536 then s.done h d St.rsvdSet 0
  else if s.tt.armDrawer.isSome then s.refuseArmed h d
  else
    let es := loadEntries d data 16 128
    match entriesRefusal (maskBits 128 90 82 ||| maskBits 128 63 48 ||| maskBits 128 20 2) (fun e => drwState e == 3) es with
    | some st => s.done h d st 0
    | none =>
      let made := ((List.range es.length).zip es).map (fun p => (loadFirst d + p.1, s.loadedDrawer (loadFirst d + p.1) p.2))
      let bank := made.foldl (fun (t : Tab (BitVec 128)) p => t.put 0 p.1 p.2) (if s.mort.drawerBank then s.mort.drw0 else s.mort.drw1)
      let lends := made.filter (fun p => drwState p.2 == 1 && drwState (s.drawer p.1) != 1)
      let blocked := lends.any (fun p => s.pool.resets.any (fun r => r.1 == p.1))
      let tiered := made.any (fun p => drwShared p.2 && decide (0 < drwSize p.2) && decide (tieredBase < drwBase p.2 + drwSize p.2))
      let purge := lends.find? (fun p => s.dir.purges.any (fun g => decide (g.2.1 * 128 < drwBase p.2 + drwSize p.2)
        && decide (drwBase p.2 < g.2.2.1 * 128)))
      let bad := made.any (fun p => s.drawerChangeBad p.1 p.2 || s.drawerOverlaps bank p.1 p.2)
      if !blocked && !tiered && purge.isNone && !bad then
        let m := if s.mort.drawerBank then { s.mort with drw0 := bank } else { s.mort with drw1 := bank }
        (s.withMort m).done h d St.ok (loadCount d)
      else
        let s := if blocked then s.raisePool 5 none else s
        let s := if tiered then s.raisePool 6 none else s
        let s := match purge with
          | some p => s.raiseDir 7 0 (drwBase p.2 / 128)
          | none => s
        s.loadRefused.done h d St.denied 0

/-- DRAWER_LOAD. -/
def execDrawerLoad (h : HostPort) (q : RingId) (data : Bytes) (s : State) : Host.Outcome State Fault Refusal :=
  .next (s.withDesc h q (isType 0x11) (fun s d => s.loadDrawers h d data))

/-- Reserved bits of an object entry of 64 bytes (R195). -/
def objReserved : BitVec 512 :=
  maskBits 512 511 192 ||| maskBits 512 150 128 ||| maskBits 512 103 91 ||| maskBits 512 63 48 ||| maskBits 512 20 2

/-- OBJ_LOAD (R195 to R197, R471). -/
def State.loadObjects (s : State) (h : HostPort) (d : Desc) (data : Bytes) : State :=
  if loadTable d != 0 || !plainLoad d || !loadFits d 16384 then s.done h d St.rsvdSet 0
  else if s.tt.armObj.isSome then s.refuseArmed h d
  else
    let es := loadEntries d data 64 512
    let bad := fun (e : BitVec 512) =>
      let o := e.extractLsb' 0 192
      objTier o == 3 || objVeneer o == 3 || decide (9 ≤ objShape o)
    match entriesRefusal objReserved bad es with
    | some st => s.done h d st 0
    | none =>
      let put := fun (t : Tab (BitVec 192)) => Tab.putRun 0 t (loadFirst d) (es.map (fun e => e.extractLsb' 0 192))
      let p := if s.pool.objBank then { s.pool with obj0 := put s.pool.obj0 } else { s.pool with obj1 := put s.pool.obj1 }
      (s.withPool p).done h d St.ok (loadCount d)

/-- OBJ_LOAD. -/
def execObjLoad (h : HostPort) (q : RingId) (data : Bytes) (s : State) : Host.Outcome State Fault Refusal :=
  .next (s.withDesc h q (isType 0x12) (fun s d => s.loadObjects h d data))

/-! Arming (R82, R472). -/

/-- The armed point of a table set, and its change. -/
def State.armedPoint (s : State) (t : TableSet) : Option Point :=
  match t with
  | .mortise => s.tt.armMort
  | .drawer => s.tt.armDrawer
  | .object => s.tt.armObj
  | .roll => s.tt.armRoll
def State.setArmed (s : State) (t : TableSet) (p : Option Point) : State :=
  match t with
  | .mortise => s.withTt { s.tt with armMort := p }
  | .drawer => s.withTt { s.tt with armDrawer := p }
  | .object => s.withTt { s.tt with armObj := p }
  | .roll => s.withTt { s.tt with armRoll := p }

/-- SET of BANK_ARM (R470). -/
def tableSetOf (n : Nat) : Option TableSet :=
  match n with
  | 0 => some .mortise
  | 1 => some .drawer
  | 2 => some .object
  | 3 => some .roll
  | _ => none

/-- A cancel comes at least 1 period before the point (R472). -/
def State.cancelInTime (s : State) (p : Point) : Bool :=
  let n := s.periodsTo p.term p.period
  decide (2 ≤ n) || (n == 1 && s.bell.now.slot == 0)

/-- BANK_ARM (R82, R472). -/
def execBankArm (h : HostPort) (q : RingId) (s : State) : Host.Outcome State Fault Refusal :=
  .next (s.withDesc h q (isType 0x14) (fun s d =>
    match tableSetOf (dField d 16 1) with
    | none => s.done h d St.rsvdSet 0
    | some t =>
      if dField d 17 1 % 2 == 1 then
        match s.armedPoint t with
        | none => s.done h d St.ok 0
        | some p => if s.cancelInTime p then (s.setArmed t none).done h d St.ok 0 else s.done h d St.denied 0
      else
        let at_ := dPoint d 24
        let p := s.armPoint at_.term at_.period
        (s.setArmed t (some ⟨p.1, p.2⟩)).done h d St.ok (pointStamp p.1 p.2)))

/-! Switch-overs of the local sets (R82, R149, R150, R179, R191, R198). -/

/-- The mortise bank switches; the policers of a slot that takes a new job are filled (R179). -/
def State.switchMort (s : State) : State :=
  let old := if s.mort.mortBank then s.mort.adm1 else s.mort.adm0
  let new := if s.mort.mortBank then s.mort.adm0 else s.mort.adm1
  let s := s.withMort { s.mort with mortBank := !s.mort.mortBank }
  (new.filter (fun p => bit p.2 15 && old.get 0 p.1 != p.2)).foldl (fun s p =>
    (List.range 8).foldl (fun s c => s.fillPolicer (p.1 / 16) (p.1 % 16) c) s) s

/-- The drawer bank switches: newly LENT drawers have no written plank, newly RECALLING ones begin their recall. -/
def State.switchDrawers (s : State) : State :=
  let old := s.drawerTable
  let s := s.withMort { s.mort with drawerBank := !s.mort.drawerBank }
  let s := (s.drawerTable.filter (fun p => drwState p.2 == 1 && drwState (old.get 0 p.1) != 1)).foldl (fun s p => s.clearWritten p.2) s
  (s.drawerTable.filter (fun p => drwState p.2 == 2 && drwState (old.get 0 p.1) == 1)).foldl (fun s p =>
    if hd : p.1 < 65536 then s.withMort { s.mort with recalls := s.mort.recalls ++ [⟨⟨p.1, hd⟩, s.bell.bounds, false⟩] } else s) s

/-- R198: an entry of the object table is inert against the active drawer table. -/
def State.objInert (s : State) (i : Nat) (e : BitVec 192) : Bool :=
  let d := s.drawer (objDrawer e)
  let inWindow := decide (objBase e + objSize e ≤ 0x10000000)
  let touches := decide (objBase e < 0x10000000)
  drwState d != 1 || decide (objBase e < drwBase d) || decide (drwBase d + drwSize d < objBase e + objSize e)
    || s.objTable.any (fun p => p.1 != i && objSize p.2 != 0 && decide (objBase p.2 < objBase e + objSize e)
        && decide (objBase e < objBase p.2 + objSize p.2))
    || (objTier e == 0 && !inWindow) || (objTier e != 0 && touches)

/-- The object bank switches, and its entries are checked (R198). -/
def State.switchObjects (s : State) : State :=
  let s := s.withPool { s.pool with objBank := !s.pool.objBank, inert := [] }
  let bad := (s.objTable.filter (fun p => objSize p.2 != 0 && s.objInert p.1 p.2)).map (·.1)
  bad.foldl (fun s i => (s.withPool { s.pool with inert := s.pool.inert.put false i true }).raisePool 1 none) s

/-! Job views (R504). -/

/-- A count as a view shows it, cycles in thousands: rounded down to a multiple of 64, saturating. -/
def viewCount (n : Nat) : Word := BitVec.ofNat 32 (min (n / 64 * 64) 0xFFFFFFC0)

/-- A power or energy value as BAR0 shows it: rounded down to a multiple of 8 (R504). -/
def quantized (n : Nat) : Nat := n / 8 * 8

/-- The copy of the module's power and energy (R504, R564). -/
def State.copyPower (s : State) : State :=
  let s := s.wr Reg.telPin (BitVec.ofNat 32 (quantized s.mod.pin))
  let s := s.wr Reg.telPaux (BitVec.ofNat 32 (quantized s.mod.paux))
  s.wr64 Reg.telEnergyLo (BitVec.ofNat 64 (quantized (s.mod.energy / 1000000000)))

/-- JOB_VIEW_COPY (R504): at slot 0 of every period; power every 4,883 periods. -/
def execJobViewCopy (s : State) : Host.Outcome State Fault Refusal :=
  if s.bell.now.slot != 0 || s.mort.jobCopyAt == s.bell.bounds + 1 then .next s
  else
    let shown := s.mort.jobLive.foldl (fun (t : Tab Word) p => t.put 0 p.1 (viewCount (if p.1 % 8 == 4 || p.1 % 8 == 5 then p.2 / 1000 else p.2))) []
    let s := s.withMort { s.mort with jobShown := shown, jobStamp := s.bell.now.period, jobCopyAt := s.bell.bounds + 1 }
    if s.mort.jobPower == 0 || s.mod.powerAt + 4883 ≤ s.bell.bounds then
      .next (((s.withMort { s.mort with jobPower := s.free + 1 }).withMod { s.mod with powerAt := s.bell.bounds }).withFree (s.free + 4096)).copyPower
    else .next s

end Sys2Proof.Machine
end

