-- ==== Sys2Proof/Machine/RollOps.lean ====
section
/-!
DEFINITION. The roll's shared operations (11 R365 to R395): entries, events, watches, deaths, discards and the binding of stations.
-/
namespace Sys2Proof.Machine

/-! Fields of the roll's tables. -/

/-- The number in bytes `i` to `i + n - 1` of an entry. -/
def eField {w : Nat} (e : BitVec w) (i n : Nat) : Nat := e.toNat / 2 ^ (8 * i) % 2 ^ (8 * n)

/-- The configuration half (R367). -/
def cfgValid (c : BitVec 1024) : Bool := bit c 2
def cfgPart (c : BitVec 1024) : Bool := bits c.toNat 4 3 == 1
def cfgShape (c : BitVec 1024) : Nat := eField c 1 1
def cfgJob (c : BitVec 1024) : BitVec 12 := c.extractLsb' 16 12
def cfgSeq (c : BitVec 1024) : Nat := eField c 4 4
def cfgTable (c : BitVec 1024) : Nat := eField c 8 8
def cfgBlocks (c : BitVec 1024) : Nat := eField c 16 4
def cfgBase (c : BitVec 1024) : Nat := eField c 20 4
def cfgParent (c : BitVec 1024) : Option Nat :=
  if !cfgPart c && bit c 207 then some (bits c.toNat 206 192) else none
def cfgParentSeq (c : BitVec 1024) : Nat := eField c 28 4
def cfgSumm (c : BitVec 1024) : Nat := eField c 32 8
def cfgHomeSwitch (c : BitVec 1024) : BitVec 12 := c.extractLsb' 320 12
def cfgHomeSlot (c : BitVec 1024) : Nat := eField c 42 2
def cfgCap (c : BitVec 1024) : Nat := eField c 44 4
def cfgHolder (c : BitVec 1024) : BitVec 24 := c.extractLsb' 384 24
def cfgParts (c : BitVec 1024) : Nat := eField c 51 1 % 8
def cfgEpoch (c : BitVec 1024) : BitVec 16 := c.extractLsb' 416 16
def cfgPartSwitch (c : BitVec 1024) (i : Nat) : BitVec 12 := c.extractLsb' (8 * (64 + 8 * i)) 12
def cfgPartSlot (c : BitVec 1024) (i : Nat) : Nat := eField c (66 + 8 * i) 2 % 32768
def cfgPartFirst (c : BitVec 1024) (i : Nat) : Nat := eField c (68 + 8 * i) 4
/-- PARENT_TOKENS of a HOME (R367). -/
def cfgParentTokens (c : BitVec 1024) : Nat := if cfgPart c then 0 else cfgBase c

/-- The shape table (R369). -/
def shLayers (e : BitVec 128) : Nat := eField e 1 1
def shHeads (e : BitVec 128) : Nat := eField e 2 1
def shDim (e : BitVec 128) : Nat := 64 * 2 ^ eField e 3 1
def shFmt (e : BitVec 128) : Nat := eField e 4 1
def shGroup (e : BitVec 128) : Nat := eField e 5 1
def shBytes (e : BitVec 128) : Nat := if shFmt e = 2 then 2 else 1
def shEmpty (e : BitVec 128) : Bool := e.extractLsb' 0 64 == 0
/-- PPB planks of a block. -/
def shPlanks (e : BitVec 128) : Nat := 2 * shDim e * shBytes e / 256
/-- A combination that R369 reserves. -/
def shReserved (e : BitVec 128) : Bool := 2 * shDim e * shBytes e % 256 != 0

/-- The station table (R387). -/
def stValid (e : BitVec 512) : Bool := bit e 2
def stRows (e : BitVec 512) : Bool := bit e 3
def stSelect (e : BitVec 512) : Bool := bit e 4
def stBenches (e : BitVec 512) : Nat := eField e 1 1
def stFirstBench (e : BitVec 512) : Nat := eField e 2 2
def stBindSlot (e : BitVec 512) : Nat := eField e 4 1
def stRecent (e : BitVec 512) : Nat := eField e 5 1
def stSelected (e : BitVec 512) : Nat := eField e 6 2
def stReduce (e : BitVec 512) : Nat := eField e 10 1
def stMod (e : BitVec 512) : Nat := eField e 12 2 + 1
def stPhase (e : BitVec 512) : Nat := eField e 14 2
def stTemplate (e : BitVec 512) : Nat := eField e 16 8

def State.rollCfg (s : State) (slot : Nat) : BitVec 1024 := (if s.roll.bank then s.roll.cfg1 else s.roll.cfg0).get 0 slot
def State.rollShape (s : State) (n : Nat) : BitVec 128 := (if s.roll.bank then s.roll.shape1 else s.roll.shape0).get 0 n
def State.rollStation (s : State) (n : Nat) : BitVec 512 := (if s.roll.bank then s.roll.station1 else s.roll.station0).get 0 n
def State.rollLive (s : State) (slot : Nat) : Live := s.roll.live.get Live.reset slot

/-- The shape of a slot's entry. -/
def State.slotShape (s : State) (slot : Nat) : BitVec 128 := s.rollShape (cfgShape (s.rollCfg slot))

/-- Write a live half; the change is stamped (R368). -/
def State.setRollLive (s : State) (slot : Nat) (l : Live) : State :=
  s.withRoll { s.roll with live := s.roll.live.put Live.reset slot { l with lastChange := s.now } }

/-- The cluster whose roll engine serves a slot (R365). -/
def rollCluster (slot : Nat) : Fin 12 := ⟨slot % 12, Nat.mod_lt _ (by decide)⟩

/-- ADDR of a context (R374). -/
def contextAddr (sw : BitVec 12) (slot seq : Nat) : Dword :=
  (0 : BitVec 4) ++ sw ++ (0 : BitVec 1) ++ BitVec.ofNat 15 slot ++ BitVec.ofNat 32 seq

/-- The agent of an agent-and-pool value. -/
def agentPart (h : BitVec 24) : AgentId := h.extractLsb' 0 20

/-! Records, events and messages (R380, R381, R397). -/

/-- Raise a bit of ROLL_ERR with its captures. -/
def State.raiseRoll (s : State) (b slot sub : Nat) (st : Status) (f : Option Frame) : State :=
  s.raise Reg.rollErr b
    [(Reg.rollErrCapture, BitVec.ofNat 32 (slot % 32768 * 2 ^ 17 + sub % 256 * 2 ^ 8) ||| st.setWidth 32),
     (Reg.rollErrCaptureSw, match f with
       | some f => (0 : BitVec 4) ++ f.srcSwitch ++ (0 : BitVec 6) ++ f.srcUnit
       | none => 0)]

/-- A refusal with PASS_STALE is counted and raised (R380). -/
def State.countStale (s : State) (slot sub : Nat) (f : Option Frame) : State :=
  (s.bump Reg.rollStale).raiseRoll 0 slot sub St.passStale f

/-- Send a request of the roll engine (R375): SRC_UNIT 768, from the slot's cluster. -/
def State.rollSend (s : State) (msg : RollMsg) (slot : Nat) (c : Cls) (h : HdrFields) (payload : Bytes) : State :=
  let k := s.roll.nextMsg
  (s.withRoll { s.roll with msgs := s.roll.msgs.put none k (some msg), nextMsg := k + 1 }).originate 768 (rollCluster slot) c
    h.pack payload (.roll k)

/-- The class of messages for which the manual gives none. -/
def rollClass : Cls := 4

/-- Fields of a ROLL_OP that this switch sends. -/
def State.rollHdr (s : State) (dest : BitVec 12) (addr : Dword) (len : Nat) : HdrFields :=
  { addr := addr, seq := 0, len := len, dest := dest, srcSwitch := s.swNum, srcUnit := 768, tag := 0, job := 0, opcode := 0x40,
    ak := true }

/-- The event record of R381. -/
def State.rollRecord (s : State) (kind slot : Nat) : Bytes :=
  let l := s.rollLive slot
  leBytes 1 kind ++ leBytes 1 l.state.code ++ leBytes 2 l.epoch.toNat ++ leBytes 4 (cfgSeq (s.rollCfg slot)) ++ leBytes 2 slot
    ++ leBytes 2 s.swNum.toNat ++ leBytes 4 l.committed ++ leBytes 3 l.holder.toNat ++ [1] ++ leBytes 8 s.now.toNat
    ++ List.replicate 4 0

/-- Send an event of R378 to agents and to both hosts (R381). -/
def State.rollEvent (s : State) (kind slot : Nat) (agents : List (BitVec 24)) : State :=
  let record := s.rollRecord kind slot
  let queue := bits (s.rd Reg.rollCfg).toNat 3 0
  let s := agents.foldl (fun s a =>
    let h : HdrFields := { addr := BitVec.ofNat 64 (agentPort (agentPart a)), seq := 0, aux := BitVec.ofNat 16 queue, len := 32,
                           dest := agentSwitch (agentPart a), srcSwitch := s.swNum, srcUnit := 768, tag := 0,
                           job := cfgJob (s.rollCfg slot), opcode := 0x30 }
    s.rollSend .event slot rollClass h record) s
  (s.postEvent 0x03 0 0 record).traceEv 5 0 true (byteRun record 0 20)

/-! Watches (R383). -/

/-- An entry names an agent as holder or as target. -/
def State.rollNames (s : State) (a : AgentId) : Bool :=
  s.roll.live.any (fun p => p.2.live && !cfgPart (s.rollCfg p.1)
    && (agentPart p.2.holder == a || (p.2.state == .offered && agentPart p.2.target == a)))

/-- Send WATCH or unwatch for an agent of another switch. -/
def State.sendWatch (s : State) (a : AgentId) (on : Bool) : State :=
  let payload : Bytes := [0x20, 0, 0, 0, BitVec.ofNat 8 (agentPort a), if on then 1 else 0] ++ List.replicate 10 0
  s.rollSend (.watch a.toNat on) 0 rollClass (s.rollHdr (agentSwitch a) (contextAddr (agentSwitch a) 0 0) 16) payload

/-- An agent becomes holder or target: one of another switch is watched (R383). -/
def State.watchAgent (s : State) (a : AgentId) : State :=
  if agentSwitch a == s.swNum then s
  else
    let sw := (agentSwitch a).toNat
    let known := s.roll.watched.any (fun p => p.1 / 256 == sw && p.2.any (fun w => !w.dead))
    let r := s.roll
    let w : Watched := match r.watched.get none a.toNat with
      | some w => if w.dead then ⟨none, false, none⟩ else w
      | none => ⟨none, false, none⟩
    let heard := if known then r.heardAt else r.heardAt.put 0 sw s.bell.bounds
    (s.withRoll { r with watched := r.watched.put none a.toNat (some w), heardAt := heard }).sendWatch a true

/-- A failed unwatch waits to be sent again. -/
def unwatching (w : Option Watched) : Bool :=
  match w with
  | some w => (match w.retry with
    | some (on, _) => !on
    | none => false)
  | none => false

/-- Unwatch the agents that no entry names (R383). -/
def State.dropWatches (s : State) : State :=
  (s.roll.watched.filter (fun p => !unwatching p.2 && !s.rollNames (BitVec.ofNat 20 p.1))).foldl (fun s p =>
    (s.withRoll { s.roll with watched := s.roll.watched.erase p.1 }).sendWatch (BitVec.ofNat 20 p.1) false) s

/-! Rows of R378 that time and death bring about. -/

/-- A pass returns to HELD under the next epoch or the same one: counted, raised, and told. -/
def State.returnPass (s : State) (slot : Nat) (bump : Bool) (agents : List (BitVec 24)) (sub : Nat) (f : Option Frame) : State :=
  let l := s.rollLive slot
  let s := s.setRollLive slot { l with state := .held, epoch := if bump then l.epoch + 1 else l.epoch, target := 0, targetSession := 0,
                                       deadline := 0 }
  (((s.bump Reg.rollReturned).raiseRoll 1 slot sub St.ok f)).rollEvent 0x03 slot agents

/-- A pass becomes ORPHANED. -/
def State.orphanPass (s : State) (slot : Nat) (bump : Bool) (agents : List (BitVec 24)) : State :=
  let l := s.rollLive slot
  let s := s.setRollLive slot { l with state := .orphaned, epoch := if bump then l.epoch + 1 else l.epoch, target := 0,
                                       targetSession := 0, deadline := 0 }
  (s.raiseRoll 2 slot 0 St.ok none).rollEvent 0x04 slot agents

/-- A HELD pass whose holder is dead is orphaned. -/
def State.settlePass (s : State) (slot : Nat) : State :=
  let l := s.rollLive slot
  if l.live && l.state == .held && l.holderDead then s.orphanPass slot false [] else s

/-- The deadline row of R378, when its period has come (R379). -/
def State.applyDeadline (s : State) (slot : Nat) : State :=
  let l := s.rollLive slot
  if !(l.live && l.state == .offered && decide (l.deadline.toNat ≤ s.now.toNat)) then s
  else if l.holderDead then (s.orphanPass slot true [l.target]).dropWatches
  else (s.returnPass slot true [l.holder, l.target] 0 none).dropWatches

/-- HOME entries of the roll that are open. -/
def State.openHomes (s : State) : List Nat := (s.roll.live.filter (fun p => p.2.live && !cfgPart (s.rollCfg p.1))).map (·.1)

/-- An agent has died: the matching row of R378 for one entry. -/
def State.deathOf (s : State) (a : AgentId) (slot : Nat) : State :=
  let l := s.rollLive slot
  let s := if agentPart l.holder == a && l.state != .closed then s.setRollLive slot { l with holderDead := true } else s
  let l := s.rollLive slot
  if l.state == .offered && agentPart l.target == a then (s.returnPass slot true [l.holder] 0 none).settlePass slot
  else s.settlePass slot

/-- An agent is dead (R382, R383). -/
def State.agentDied (s : State) (a : AgentId) : State :=
  let s := match s.roll.watched.get none a.toNat with
    | some w => s.withRoll { s.roll with watched := s.roll.watched.put none a.toNat (some { w with dead := true }) }
    | none => s
  (s.openHomes.foldl (fun s slot => s.deathOf a slot) s).dropWatches

/-- The session count of a port (R383): 0 while it has no live agent. -/
def State.sessionCount (s : State) (p : Nat) : Nat :=
  match portOf p with
  | some q => if s.role q == 1 && s.portUp q then s.roll.sessions.get 0 p else 0
  | none => 0

/-- A message that takes no tag, as a snoop takes none (R375). -/
def State.rollNotify (s : State) (dest : BitVec 12) (payload : Bytes) : State :=
  let n := s.mort.nextSeq
  let h := { s.rollHdr dest (contextAddr dest 0 0) payload.length with seq := BitVec.ofNat 32 n }
  let s := s.withMort { s.mort with nextSeq := n + 1 }
  let f := Frame.sealed h.pack payload
  if dest == s.swNum then s.enqueue (injectIn 0) .home none rollClass f
  else
    match s.routeOut dest rollClass with
    | some p => s.toPort p none rollClass f
    | none => s.noRoute (injectIn 0) dest rollClass

/-- Switches that watch a port. -/
def State.watchersOf (s : State) (p : Nat) : List Nat :=
  (s.roll.watchers.filter (fun w => w.1 / 4096 == p)).map (fun w => w.1 % 4096)

/-! The bytes of an entry (R367, R368, R376). -/

/-- The 128 bytes of a live half. -/
def Live.bytes (l : Live) : Bytes :=
  leBytes 1 (l.state.code + 4 * b2n l.frozen + 8 * b2n l.live) ++ leBytes 1 l.holderSession.toNat ++ leBytes 2 l.epoch.toNat
    ++ leBytes 3 l.holder.toNat ++ leBytes 1 l.targetSession.toNat ++ leBytes 4 l.committed ++ leBytes 3 l.target.toNat ++ [0]
    ++ leBytes 4 l.refs ++ List.replicate 4 0 ++ leBytes 8 l.deadline.toNat ++ leBytes 8 l.lastChange.toNat ++ List.replicate 88 0

/-- The 256 bytes of a slot's entry. -/
def State.rollEntry (s : State) (slot : Nat) : Bytes := leBytes 128 (s.rollCfg slot).toNat ++ (s.rollLive slot).bytes

/-- A result block (R376). -/
def rollBlock (sub : Nat) (l : Live) : Bytes :=
  leBytes 1 sub ++ leBytes 1 l.state.code ++ leBytes 2 l.epoch.toNat ++ leBytes 4 l.committed ++ leBytes 3 l.holder.toNat
    ++ List.replicate 5 0

/-! Discards (R384). -/

/-- First own block at or beyond a committed count (R384). -/
def firstBeyond (c : BitVec 1024) (committed : Nat) : Nat := (committed - cfgBase c + 127) / 128

/-- Entry indices of the block table from a block on: first and end. -/
def State.beyondEntries (s : State) (slot committed : Nat) : Nat × Nat :=
  let c := s.rollCfg slot
  let e := s.slotShape slot
  let n := shLayers e * shHeads e
  (min (firstBeyond c committed) (cfgBlocks c) * n, cfgBlocks c * n)

/-- Begin the discards of a CLAIM or a TRIM: the block table lines that name the planks are read under the entry's JOB. -/
def State.startDiscards (s : State) (slot : Nat) (p : Passed) (committed : Nat) (block : Bytes) : State :=
  let c := s.rollCfg slot
  let (lo, hi) := s.beyondEntries slot committed
  let lines := if lo < hi then (List.range ((hi - 1) / 16 + 1 - lo / 16)).map (fun i => lo / 16 + i) else []
  let k : Claim := { slot := slot, frame := p.frame, cls := p.cls, cluster := p.cluster, committed := committed, block := block,
                     lines := lines, planks := [], trims := 0 }
  let s := s.withRoll { s.roll with claims := s.roll.claims ++ [k] }
  lines.foldl (fun s l =>
    let h : HdrFields := { addr := BitVec.ofNat 64 (cfgTable c + 128 * l), seq := 0, dest := s.swNum, srcSwitch := s.swNum,
                           srcUnit := 768, tag := 0, job := cfgJob c, opcode := 0x01, ak := true }
    s.rollSend (.table slot l) slot p.cls h []) s

/-- Change the claim of a slot. -/
def State.setClaim (s : State) (k : Claim) : State :=
  s.withRoll { s.roll with claims := s.roll.claims.map (fun x => if x.slot == k.slot then k else x) }

/-- A discard of a claim, or one of its TRIMs, has failed. -/
def State.discardFailed (s : State) (slot : Nat) (st : Status) : State := s.raiseRoll 3 slot 0x13 st none

/-- A block table line has arrived: its entries beyond the commit name planks to discard; one that names another switch or has
another FMT_GEN is a refused discard (R371). -/
def State.tableLine (s : State) (slot line : Nat) (st : Status) (data : Bytes) : State :=
  match s.roll.claims.find? (fun k => k.slot == slot) with
  | none => s
  | some k =>
    let k := { k with lines := k.lines.filter (fun l => l != line) }
    if !delivers st then (s.setClaim k).discardFailed slot st
    else
      let (lo, hi) := s.beyondEntries slot k.committed
      let es := ((List.range 16).filter (fun i => decide (lo ≤ 16 * line + i) && decide (16 * line + i < hi))).map
        (fun i => field data (8 * i) 8)
      let n := shPlanks (s.slotShape slot)
      let good := fun (e : Nat) => e % 4 == 1 && bits e 63 48 == s.swNum.toNat
      let planks := (es.filter good).flatMap (fun e =>
        (List.range n).map (fun i => BitVec.ofNat 64 (e / plankBytes * plankBytes + i * plankBytes)))
      let s := s.setClaim { k with planks := k.planks ++ planks }
      (es.filter (fun e => !good e)).foldl (fun s e => s.discardFailed slot (if e % 4 == 1 then St.denied else St.format)) s

/-- Discard one plank of a claim under the entry's JOB (R249, R384): none while it moves. -/
def State.claimPlank (s : State) (slot : Nat) (a : Dword) : Option State :=
  match s.mortise none (cfgJob (s.rollCfg slot)) true a plankBytes 2 with
  | .refuse st => some (s.discardFailed slot st)
  | .pass _ o _ =>
    if o < tieredBase then some s
    else if (s.mapEntry (o / plankBytes)).state == .moving then none
    else some (s.discardPlank (o / plankBytes))

end Sys2Proof.Machine
end

