-- ==== Sys2Proof/Machine/Float.lean ====
section
/-!
DEFINITION. Arithmetic of the benches, the network units and the veneer coder (10 R326 to R335): number formats, FP32 with
round-to-nearest-even, the vector unit's functions, conversion of results, exact products summed in chunks of 32.
-/
namespace Sys2Proof.Machine

/-- A value: NaN, an infinity, or ± m × 2^e exactly; a zero keeps its sign (R327). -/
inductive Num where
  | nan
  | inf (neg : Bool)
  | fin (neg : Bool) (m : Nat) (e : Int)
  deriving DecidableEq, Repr

/-- +0. -/
def Num.zero : Num := .fin false 0 0

/-! Formats (R326). -/

/-- A binary format: mantissa bits, exponent of its smallest subnormal, code of its largest finite magnitude, width. -/
structure FloatFmt where
  mbits : Nat
  emin : Int
  top : Nat
  width : Nat
  /-- Infinities and NaNs have the top exponent field. -/
  ieee : Bool

/-- The binary format of a FMT code; the integer formats have none. -/
def floatFmt (f : Nat) : Option FloatFmt :=
  match f with
  | 1 => some ⟨23, -149, 0x7F7FFFFF, 32, true⟩
  | 2 => some ⟨7, -133, 0x7F7F, 16, true⟩
  | 3 => some ⟨10, -24, 0x7BFF, 16, true⟩
  | 4 => some ⟨3, -9, 0x7E, 8, false⟩
  | 5 => some ⟨2, -16, 0x7B, 8, true⟩
  | 6 => some ⟨2, -4, 0x1F, 6, false⟩
  | 7 => some ⟨3, -3, 0x1F, 6, false⟩
  | 8 => some ⟨1, -1, 0x7, 4, false⟩
  | _ => none

/-- Block-scaled formats (R325). -/
def blockScaled (f : Nat) : Bool := f == 6 || f == 7 || f == 8 || f == 10

/-- Formats that exist (R326). -/
def fmtExists (f : Nat) : Bool := decide (1 ≤ f) && decide (f ≤ 11)

/-- Bits of an element of a format (R326). -/
def fmtBits (f : Nat) : Nat :=
  match f with
  | 1 | 11 => 32
  | 2 | 3 => 16
  | 4 | 5 | 9 => 8
  | 6 | 7 => 6
  | 8 | 10 => 4
  | _ => 0

/-- Number of bits of a magnitude. -/
def bitLen (m : Nat) : Nat := if m = 0 then 0 else m.log2 + 1

/-- Code of the magnitude q × 2^(emin + k), with q below 2^(mbits + 1) or equal to it: exponent field and fraction in one. -/
def FloatFmt.code (f : FloatFmt) (q k : Nat) : Nat := k * 2 ^ f.mbits + q

/-- Value of a magnitude code. -/
def FloatFmt.ofCode (f : FloatFmt) (neg : Bool) (c : Nat) : Num :=
  if c = 0 then .fin neg 0 0
  else if c / 2 ^ f.mbits = 0 then .fin neg c f.emin
  else .fin neg (2 ^ f.mbits + c % 2 ^ f.mbits) (f.emin + ((c / 2 ^ f.mbits : Nat) : Int) - 1)

/-- Two's complement value. -/
def intNum (w c : Nat) : Num := if c < 2 ^ (w - 1) then .fin false c 0 else .fin true (2 ^ w - c) 0

/-- Value of an encoded element, without its block scale (R326). -/
def decodeElem (fmt c : Nat) : Num :=
  match floatFmt fmt with
  | none => intNum (fmtBits fmt) c
  | some f =>
    let neg := decide (2 ^ (f.width - 1) ≤ c)
    let mag := c % 2 ^ (f.width - 1)
    if mag ≤ f.top then f.ofCode neg mag
    else if f.ieee && mag % 2 ^ f.mbits == 0 then .inf neg
    else .nan

/-! Rounding (R328, R329). -/

/-- How a magnitude between two neighbours is rounded: to nearest even, or by the draw r of R329. -/
inductive Round where
  | nearest
  | stochastic (r : Nat)

/-- Round the magnitude m ÷ 2^d to an integer; `sticky`: the exact value lies a little above. -/
def roundShift (how : Round) (m d : Nat) (sticky : Bool) : Nat :=
  let q := m / 2 ^ d
  let rem := m % 2 ^ d
  if rem = 0 && !sticky then q
  else
    match how with
    | .nearest =>
      let half := 2 ^ d
      if half < 2 * rem || (2 * rem == half && (sticky || q % 2 == 1)) then q + 1 else q
    | .stochastic r => if r < 65536 * rem / 2 ^ d then q + 1 else q

/-- Round the magnitude m × 2^e to a format whose range is not limited: its code. -/
def FloatFmt.round (f : FloatFmt) (how : Round) (m : Nat) (e : Int) (sticky : Bool) : Nat :=
  let u : Int := max f.emin (e + (bitLen m : Int) - (f.mbits + 1 : Int))
  let q := if e < u then roundShift how m (u - e).toNat sticky else m * 2 ^ (e - u).toNat
  f.code q (u - f.emin).toNat

/-- FP32. -/
def fp32 : FloatFmt := ⟨23, -149, 0x7F7FFFFF, 32, true⟩

/-- An FP32 number, by its encoding. -/
abbrev F32 := BitVec 32

def F32.nan : F32 := 0x7FC00000
def F32.inf (neg : Bool) : F32 := if neg then 0xFF800000 else 0x7F800000

/-- Value of an FP32 number. -/
def F32.num (x : F32) : Num := decodeElem 1 x.toNat

/-- FP32 of a sign and a magnitude code; beyond the largest finite one an infinity. -/
def f32OfCode (neg : Bool) (c : Nat) : F32 :=
  if fp32.top < c then F32.inf neg else BitVec.ofNat 32 (c + if neg then 2 ^ 31 else 0)

/-- Round an exact value to FP32 by RNE (R327). -/
def toF32 (x : Num) (sticky : Bool := false) : F32 :=
  match x with
  | .nan => F32.nan
  | .inf neg => F32.inf neg
  | .fin neg m e => if m = 0 then f32OfCode neg 0 else f32OfCode neg (fp32.round .nearest m e sticky)

/-! Exact sums and products. -/

/-- The signed integer of a value in units of 2^u, u at or below its exponent. -/
def scaledInt (neg : Bool) (m : Nat) (e u : Int) : Int :=
  let v : Int := ((m * 2 ^ (e - u).toNat : Nat) : Int)
  if neg then -v else v

/-- The value of an integer in units of 2^u; `negZero`: the sign of a zero. -/
def numOfInt (v u : Int) (negZero : Bool) : Num :=
  if v = 0 then .fin negZero 0 0 else .fin (decide (v < 0)) v.natAbs u

/-- Exact sum (R327, R334): a zero sum is −0 only from two −0. -/
def Num.add (x y : Num) : Num :=
  match x, y with
  | .nan, _ => .nan
  | _, .nan => .nan
  | .inf a, .inf b => if a == b then .inf a else .nan
  | .inf a, _ => .inf a
  | _, .inf b => .inf b
  | .fin a m e, .fin b n g =>
    let u := min e g
    numOfInt (scaledInt a m e u + scaledInt b n g u) u (a && b && m == 0 && n == 0)

/-- Negation. -/
def Num.neg (x : Num) : Num :=
  match x with
  | .nan => .nan
  | .inf a => .inf !a
  | .fin a m e => .fin (!a) m e

/-- Exact product. -/
def Num.mul (x y : Num) : Num :=
  match x, y with
  | .nan, _ => .nan
  | _, .nan => .nan
  | .inf a, .inf b => .inf (a != b)
  | .inf a, .fin b n _ => if n = 0 then .nan else .inf (a != b)
  | .fin a m _, .inf b => if m = 0 then .nan else .inf (a != b)
  | .fin a m e, .fin b n g => .fin (a != b) (m * n) (e + g)

/-- x < y for values that are not NaN. -/
def Num.lt (x y : Num) : Bool :=
  match x, y with
  | .fin a m e, .fin b n g => let u := min e g; decide (scaledInt a m e u < scaledInt b n g u)
  | .inf a, .inf b => a && !b
  | .inf a, .fin _ _ _ => a
  | .fin _ _ _, .inf b => !b
  | _, _ => false

/-- The sign bit. -/
def Num.isNeg (x : Num) : Bool :=
  match x with
  | .nan => false
  | .inf a => a
  | .fin a _ _ => a

/-! FP32 operations (R327, R335). -/

def fAdd (x y : F32) : F32 := toF32 (x.num.add y.num)
def fSub (x y : F32) : F32 := toF32 (x.num.add y.num.neg)
def fMul (x y : F32) : F32 := toF32 (x.num.mul y.num)
def fNeg (x : F32) : F32 := if x.num = .nan then F32.nan else x ^^^ 0x80000000

/-- MAX: NaN from NaN, and +0 above −0. -/
def fMax (x y : F32) : F32 :=
  if x.num = .nan || y.num = .nan then F32.nan
  else if x.num.lt y.num then y
  else if y.num.lt x.num then x
  else if x.num.isNeg then y else x

/-- MIN. -/
def fMin (x y : F32) : F32 :=
  if x.num = .nan || y.num = .nan then F32.nan
  else if x.num.lt y.num then x
  else if y.num.lt x.num then y
  else if x.num.isNeg then x else y

/-- −Inf and +0. -/
def fNegInf : F32 := 0xFF800000
def fZero : F32 := 0

/-- RCP. -/
def fRcp (x : F32) : F32 :=
  match x.num with
  | .nan => F32.nan
  | .inf neg => f32OfCode neg 0
  | .fin neg m e =>
    if m = 0 then F32.inf neg
    else toF32 (.fin neg (2 ^ 200 / m) (-200 - e)) (2 ^ 200 % m != 0)

/-- x ÷ y is round(x × RCP(y)). -/
def fDiv (x y : F32) : F32 := fMul x (fRcp y)

/-- Largest integer whose square does not exceed n, for n below 2^402. -/
def isqrt (n : Nat) : Nat :=
  (List.range 201).foldl (fun r i =>
    let c := r + 2 ^ (200 - i)
    if c * c ≤ n then c else r) 0

/-- RSQRT. -/
def fRsqrt (x : F32) : F32 :=
  match x.num with
  | .nan => F32.nan
  | .inf neg => if neg then F32.nan else fZero
  | .fin neg m e =>
    if m = 0 then F32.inf neg
    else if neg then F32.nan
    else
      let m' := if e % 2 = 0 then m else 2 * m
      let e' := if e % 2 = 0 then e else e - 1
      let q := isqrt (2 ^ 400 / m')
      toF32 (.fin false q (-200 - e' / 2)) (q * q * m' != 2 ^ 400)

/-- Bits after the point of the fixed-point series below; their error stays far below the distance that decides a rounding. -/
def fixBits : Nat := 400

/-- e^y for a fixed-point y from 0 to 1: the Taylor series. -/
def expSeries (y : Nat) : Nat :=
  ((List.range 80).foldl (fun (p : Nat × Nat) i =>
    let t := p.2 * y / 2 ^ fixBits / (i + 1)
    (p.1 + t, t)) (2 ^ fixBits, 2 ^ fixBits)).1

/-- e^y for a fixed-point y from 0 to 128: e^(y ÷ 128) squared seven times. -/
def expFixed (y : Nat) : Nat := (List.range 7).foldl (fun v _ => v * v / 2 ^ fixBits) (expSeries (y / 128))

/-- atanh t for a fixed-point t of at most 1/3. -/
def atanhFixed (t : Nat) : Nat :=
  let sq := t * t / 2 ^ fixBits
  ((List.range 130).foldl (fun (p : Nat × Nat) i => (p.1 + p.2 / (2 * i + 1), p.2 * sq / 2 ^ fixBits)) (0, t)).1

/-- ln 2. -/
def ln2Fixed : Nat := 2 * atanhFixed (2 ^ fixBits / 3)

/-- A magnitude m × 2^e in fixed point; e is at least −fixBits wherever it is used. -/
def fixOf (m : Nat) (e : Int) : Nat := if 0 ≤ e then m * 2 ^ (e.toNat + fixBits) else m * 2 ^ fixBits / 2 ^ (-e).toNat

/-- EXP. -/
def fExp (x : F32) : F32 :=
  match x.num with
  | .nan => F32.nan
  | .inf neg => if neg then fZero else F32.inf false
  | .fin neg m e =>
    let y := fixOf m e
    if m = 0 then 0x3F800000
    else if 110 * 2 ^ fixBits < y then (if neg then fZero else F32.inf false)
    else
      let v := expFixed y
      if neg then toF32 (.fin false (2 ^ (2 * fixBits) / v) (-(fixBits : Int))) true else toF32 (.fin false v (-(fixBits : Int))) true

/-- EXP2. -/
def fExp2 (x : F32) : F32 :=
  match x.num with
  | .nan => F32.nan
  | .inf neg => if neg then fZero else F32.inf false
  | .fin neg m e =>
    let y := fixOf m e
    if 200 * 2 ^ fixBits < y then (if neg then fZero else F32.inf false)
    else
      let n := y / 2 ^ fixBits
      let f := y % 2 ^ fixBits
      if f = 0 then toF32 (.fin false 1 (if neg then -(n : Int) else n))
      else
        let v := expFixed (f * ln2Fixed / 2 ^ fixBits)
        if neg then toF32 (.fin false (2 ^ (2 * fixBits) / v) (-(fixBits : Int) - n)) true
        else toF32 (.fin false v (-(fixBits : Int) + n)) true

/-- LOG2. -/
def fLog2 (x : F32) : F32 :=
  match x.num with
  | .nan => F32.nan
  | .inf neg => if neg then F32.nan else F32.inf false
  | .fin neg m e =>
    if m = 0 then fNegInf
    else if neg then F32.nan
    else
      let k : Int := e + (bitLen m : Int) - 1
      let y := m * 2 ^ fixBits / 2 ^ (bitLen m - 1)
      if y = 2 ^ fixBits then toF32 (numOfInt k 0 false)
      else
        let l := 2 * atanhFixed ((y - 2 ^ fixBits) * 2 ^ fixBits / (y + 2 ^ fixBits)) * 2 ^ fixBits / ln2Fixed
        toF32 (numOfInt (k * 2 ^ fixBits + l) (-(fixBits : Int)) false) true

/-! Conversion of results (R328 to R332). -/

/-- What a conversion counts (R331): nothing, BN_SAT, BN_NAN. -/
inductive ConvNote where
  | none
  | sat
  | nan
  deriving DecidableEq, Repr

/-- Round to an integer format; out of range it saturates. -/
def encodeInt (w : Nat) (how : Round) (x : Num) : Nat × ConvNote :=
  let hi := 2 ^ (w - 1) - 1
  let lo := 2 ^ (w - 1)
  match x with
  | .nan => (0, .nan)
  | .inf neg => (if neg then lo else hi, .sat)
  | .fin neg m e =>
    let q := if 0 ≤ e then m * 2 ^ e.toNat else roundShift how m (-e).toNat false
    if neg then (if lo < q then (lo, .sat) else ((2 ^ w - q) % 2 ^ w, .none))
    else if hi < q then (hi, .sat) else (q, .none)

/-- Convert a value to a format: code and note (R331). A block-scaled element comes here after its scale has been applied. -/
def encodeElem (fmt : Nat) (how : Round) (sat : Bool) (x : Num) : Nat × ConvNote :=
  match floatFmt fmt with
  | none => encodeInt (fmtBits fmt) how x
  | some f =>
    let sign := fun (neg : Bool) => if neg then 2 ^ (f.width - 1) else 0
    let quiet := f.ieee || fmt == 4
    let nan := if f.ieee then f.top + 1 + 2 ^ (f.mbits - 1) else 0x7F
    let beyond := fun (neg : Bool) =>
      if sat || !quiet then (f.top + sign neg, ConvNote.sat)
      else if f.ieee then (f.top + 1 + sign neg, ConvNote.none)
      else (0x7F, ConvNote.nan)
    match x with
    | .nan => if quiet then (nan, .nan) else (0, .nan)
    | .inf neg => beyond neg
    | .fin neg m e =>
      let c := if m = 0 then 0 else f.round how m e false
      if c ≤ f.top then (c + sign neg, .none) else beyond neg

/-- EMAX of R332. -/
def emax (fmt : Nat) : Int := if fmt = 6 then 4 else 2

/-- Multiply a value by 2^k. -/
def Num.scale (x : Num) (k : Int) : Num :=
  match x with
  | .fin neg m e => .fin neg m (e + k)
  | y => y

/-- floor(log2 |x|) of a value other than zero. -/
def numLog2 (x : Num) : Int :=
  match x with
  | .fin _ m e => e + (bitLen m : Int) - 1
  | _ => 0

/-- Encode a block (R332): scale, codes, elements saturated, elements made NaN. `how` gives the rounding of each element. -/
def encodeBlock (fmt : Nat) (sat : Bool) (xs : List (Num × Round)) : Nat × List Nat × Nat × Nat :=
  let isInf := fun (x : Num) => match x with
    | .inf _ => true
    | _ => false
  let bad := xs.any (fun p => p.1 == .nan || (isInf p.1 && !sat))
  if bad then (0xFF, List.replicate xs.length 0, 0, xs.length)
  else
    let ys := xs.map (fun p => match p.1 with
      | .inf neg => ((fp32.ofCode neg fp32.top), p.2, true)
      | x => (x, p.2, false))
    let big := (ys.filter (fun y => y.1 != .fin true 0 0 && y.1 != .fin false 0 0)).map (fun y => numLog2 y.1)
    let scale : Nat := match big with
      | [] => 0
      | l :: ls => (min 254 (max 0 (ls.foldl max l - emax fmt + 127))).toNat
    let out := ys.map (fun y =>
      let r := encodeElem fmt y.2.1 sat (y.1.scale (127 - scale))
      (r.1, r.2 == .sat || y.2.2))
    (scale, out.map (·.1), (out.filter (·.2)).length, 0)

/-- The mixing function of R329. -/
def mix (z : Dword) : Dword :=
  let z := (z ^^^ (z >>> 30)) * 0xBF58476D1CE4E5B9
  let z := (z ^^^ (z >>> 27)) * 0x94D049BB133111EB
  z ^^^ (z >>> 31)

/-- The rounding of element i of output slot o (R328, R329). -/
def roundOf (mode : Nat) (seed : Dword) (o i : Nat) : Round :=
  if mode = 1 then .stochastic ((mix (seed ^^^ (BitVec.ofNat 64 o <<< 40) ^^^ BitVec.ofNat 64 i)).toNat % 65536) else .nearest

/-- The seed of a timetable launch (R330, R401). -/
def ttSeed (tag : Word) (unit entry : Nat) (period : BitVec 16) : Dword :=
  mix ((tag.setWidth 64 <<< 32) ^^^ (BitVec.ofNat 64 unit <<< 16) ^^^ BitVec.ofNat 64 entry) ^^^ mix (period.setWidth 64)

/-! Products (R333, R334). -/

/-- The exact sum of the products of a chunk, rounded once. -/
def chunkSum (ps : List (Num × Num)) : F32 :=
  let xs := ps.map (fun p => p.1.mul p.2)
  if xs.isEmpty then fZero
  else if xs.any (· == .nan) || (xs.contains (.inf true) && xs.contains (.inf false)) then F32.nan
  else if xs.contains (.inf true) then F32.inf true
  else if xs.contains (.inf false) then F32.inf false
  else
    let allNegZero := xs.all (fun x => match x with
      | .fin neg m _ => neg && m == 0
      | _ => false)
    let sum := xs.foldl (fun a x => a.add x) Num.zero
    match sum with
    | .fin _ m _ => if m = 0 then f32OfCode allNegZero 0 else toF32 sum
    | y => toF32 y

/-- Chunks of 32. -/
def chunks32 {α : Type} : Nat → List α → List (List α)
  | 0, _ => []
  | _, [] => []
  | fuel + 1, l => l.take 32 :: chunks32 fuel (l.drop 32)

/-- The FP32 sum of products over a contraction; none stands for an index that contributes no product. -/
def dotOpt (ps : List (Option (Num × Num))) : F32 :=
  (chunks32 ps.length ps).foldl (fun acc c => fAdd acc (chunkSum (c.filterMap id))) fZero

/-- The dot product of two rows. -/
def dot (ps : List (Num × Num)) : F32 := dotOpt (ps.map some)

end Sys2Proof.Machine
end

