-- ==== Sys2Proof/Machine/Operands.lean ====
section
/-!
DEFINITION. Operands of the benches (10 R322 to R325, R338; 13 R351): operand slots, tiled and linear layout, packing of elements,
block scales; reading a matrix and laying out a result.
-/
namespace Sys2Proof.Machine

/-- Upper quotient. -/
def ceilDiv (a b : Nat) : Nat := (a + b - 1) / b

/-- KIND of an operand slot (R338). -/
inductive OpKind where
  | store
  | pool
  | gather
  deriving DecidableEq, Repr

/-- An operand slot that is present (R338). -/
structure Operand where
  kind : OpKind
  addr : Nat
  scaleAddr : Nat
  fmt : Nat
  trans : Bool
  linear : Bool
  rows : Nat
  cols : Nat
  deriving DecidableEq, Repr

/-- Bytes of operand slot i, 0 to 5 for A to F, in a descriptor. -/
def slotBytes (d : Bytes) (i : Nat) : Bytes := byteRun d (128 + 32 * i) 32

/-- Operand i of a descriptor. -/
def operandOf (d : Bytes) (i : Nat) : Option Operand :=
  let b := slotBytes d i
  let mk := fun (k : OpKind) =>
    some { kind := k, addr := field b 0 8, scaleAddr := field b 8 8, fmt := field b 17 1, trans := field b 18 1 % 2 == 1,
           linear := field b 18 1 / 2 % 2 == 1, rows := field b 20 4, cols := field b 24 4 : Operand }
  match field b 16 1 % 4 with
  | 1 => mk .store
  | 2 => mk .pool
  | 3 => mk .gather
  | _ => none

/-- A reserved field of slot i is set; every byte of an absent operand is one. -/
def slotReserved (d : Bytes) (i : Nat) : Bool :=
  let b := slotBytes d i
  if field b 16 1 % 4 = 0 then b.any (· != 0)
  else decide (4 ≤ field b 16 1) || decide (4 ≤ field b 18 1) || field b 19 1 != 0 || field b 28 4 != 0

/-- TR × TC of a format (R322). -/
def tileShape (fmt : Nat) : Nat × Nat :=
  match fmt with
  | 1 | 11 => (64, 128)
  | 2 | 3 => (128, 128)
  | 4 | 5 | 9 => (128, 256)
  | 6 | 7 => (256, 128)
  | _ => (256, 256)

/-- Rows and columns of the matrix as stored (R323). -/
def Operand.sRows (o : Operand) : Nat := if o.trans then o.cols else o.rows
def Operand.sCols (o : Operand) : Nat := if o.trans then o.rows else o.cols

/-- Tiles across, and tiles in all. -/
def Operand.tilesAcross (o : Operand) : Nat := ceilDiv o.sCols (tileShape o.fmt).2
def Operand.tiles (o : Operand) : Nat := ceilDiv o.sRows (tileShape o.fmt).1 * o.tilesAcross

/-- Elements of a tile, and its bytes. -/
def tileElems (fmt : Nat) : Nat := (tileShape fmt).1 * (tileShape fmt).2
def tileBytes (fmt : Nat) : Nat := tileElems fmt * fmtBits fmt / 8

/-- Bytes of the data from ADDR, and of the scales from SCALE_ADDR. -/
def Operand.dataBytes (o : Operand) : Nat :=
  if o.linear then ceilDiv (o.sRows * o.sCols * fmtBits o.fmt) 8 else (o.tiles - 1) * 32768 + tileBytes o.fmt
def Operand.scaleBytes (o : Operand) : Nat :=
  if !blockScaled o.fmt then 0
  else if o.linear then o.sRows * o.sCols / 32 else o.tiles * (tileElems o.fmt / 32)

/-- Where a stored element lies: first byte of its tile or operand, its place k in the row-major order there, and the first byte of
the scales there (R322 to R325). -/
def Operand.place (o : Operand) (r c : Nat) : Nat × Nat × Nat :=
  if o.linear then (o.addr, r * o.sCols + c, o.scaleAddr)
  else
    let (tr, tc) := tileShape o.fmt
    let t := r / tr * o.tilesAcross + c / tc
    (o.addr + t * 32768, r % tr * tc + c % tc, o.scaleAddr + t * (tileElems o.fmt / 32))

/-- Encoded element k from a base (R324). -/
def elemCode (get : Nat → Byte) (base w k : Nat) : Nat :=
  if w = 4 then bits (get (base + k / 2)).toNat (4 * (k % 2) + 3) (4 * (k % 2))
  else if w = 6 then
    let b := base + 3 * (k / 4)
    let v := (get b).toNat + 256 * (get (b + 1)).toNat + 65536 * (get (b + 2)).toNat
    bits v (6 * (k % 4) + 5) (6 * (k % 4))
  else leNat ((List.range (w / 8)).map (fun j => get (base + k * (w / 8) + j)))

/-- An element under its block scale (R325, R326): exact, NaN under scale 0xFF. -/
def scaled (x : Num) (e : Nat) : Num := if e = 255 then .nan else x.scale ((e : Int) - 127)

/-- Stored element (r, c): exact; `bare` leaves block scales out (R350). INT32 converts to FP32 (R327). -/
def Operand.stored (o : Operand) (get : Nat → Byte) (bare : Bool) (r c : Nat) : Num :=
  let (base, k, sc) := o.place r c
  let x := decodeElem o.fmt (elemCode get base (fmtBits o.fmt) k)
  if o.fmt = 11 then (toF32 x).num
  else if blockScaled o.fmt && !bare then scaled x (get (sc + k / 32)).toNat
  else x

/-- A matrix of exact values, row by row. -/
structure Mat where
  rows : Nat
  cols : Nat
  data : Array Num

/-- Element (r, c). -/
def Mat.at (m : Mat) (r c : Nat) : Num := m.data.getD (r * m.cols + c) .nan

/-- Element (r, c) in FP32 (R327). -/
def Mat.f (m : Mat) (r c : Nat) : F32 := toF32 (m.at r c)

/-- The operand as used (R338). -/
def Operand.read (o : Operand) (get : Nat → Byte) (bare : Bool) : Mat :=
  { rows := o.rows, cols := o.cols,
    data := ((List.range (o.rows * o.cols)).map (fun i =>
      if o.trans then o.stored get bare (i % o.cols) (i / o.cols) else o.stored get bare (i / o.cols) (i % o.cols))).toArray }

/-! Results. -/

/-- Bytes of encoded elements of a width (R324). -/
def packCodes (w : Nat) (cs : Array Nat) : Bytes :=
  let code := fun (k : Nat) => cs.getD k 0
  if w = 4 then (List.range ((cs.size + 1) / 2)).map (fun j => BitVec.ofNat 8 (code (2 * j) % 16 + 16 * (code (2 * j + 1) % 16)))
  else if w = 6 then
    ((List.range ((cs.size + 3) / 4)).map (fun j => leBytes 3
      (code (4 * j) + 2 ^ 6 * code (4 * j + 1) + 2 ^ 12 * code (4 * j + 2) + 2 ^ 18 * code (4 * j + 3)))).flatten
  else ((List.range cs.size).map (fun k => leBytes (w / 8) (code k))).flatten

/-- A result as it is laid out: runs of bytes by address, elements saturated, elements made NaN. -/
structure Laid where
  runs : List (Nat × Bytes)
  sat : Nat
  nan : Nat

/-- Codes of the stored matrix row by row, and scales of its blocks row by row, with what they count (R328 to R332). `at_` gives the
value of a stored element and its index i of R329. -/
def Operand.encode (o : Operand) (at_ : Nat → Nat → Num × Nat) (mode : Nat) (sat : Bool) (seed : Dword) (slot : Nat) :
    Array Nat × Array Nat × Nat × Nat :=
  let how := fun (p : Num × Nat) => (p.1, roundOf mode seed slot p.2)
  if blockScaled o.fmt then
    let blocks := (List.range (o.sRows * (o.sCols / 32))).map (fun b =>
      let r := b / (o.sCols / 32)
      let c := b % (o.sCols / 32) * 32
      encodeBlock o.fmt sat ((List.range 32).map (fun j => how (at_ r (c + j)))))
    ((blocks.flatMap (fun b => b.2.1)).toArray, (blocks.map (fun b => b.1)).toArray, (blocks.map (fun b => b.2.2.1)).sum,
      (blocks.map (fun b => b.2.2.2)).sum)
  else
    let out := (List.range (o.sRows * o.sCols)).map (fun i =>
      let p := how (at_ (i / o.sCols) (i % o.sCols))
      encodeElem o.fmt p.2 sat p.1)
    ((out.map (·.1)).toArray, #[], (out.filter (fun p => p.2 == .sat)).length, (out.filter (fun p => p.2 == .nan)).length)

/-- Lay out a result of FP32 values, row by row as used, for output slot `slot` (4 for E, 5 for F). Pad elements are zero (R322). -/
def Operand.write (o : Operand) (v : Array F32) (mode : Nat) (sat : Bool) (seed : Dword) (slot : Nat) : Laid :=
  let used := fun (i : Nat) => ((v.getD i F32.nan).num, i)
  let at_ := fun (r c : Nat) => if o.trans then used (c * o.cols + r) else used (r * o.cols + c)
  let (codes, scales, nsat, nnan) := o.encode at_ mode sat seed slot
  let w := fmtBits o.fmt
  let runs := if o.linear then
      (o.addr, packCodes w codes) :: (if blockScaled o.fmt then [(o.scaleAddr, packCodes 8 scales)] else [])
    else
      let (tr, tc) := tileShape o.fmt
      (List.range o.tiles).flatMap (fun t =>
        let r0 := t / o.tilesAcross * tr
        let c0 := t % o.tilesAcross * tc
        let inside := fun (r c : Nat) => decide (r < o.sRows) && decide (c < o.sCols)
        let tile := (List.range (tr * tc)).map (fun k =>
          let r := r0 + k / tc
          let c := c0 + k % tc
          if inside r c then codes.getD (r * o.sCols + c) 0 else 0)
        let sc := (List.range (tr * tc / 32)).map (fun b =>
          let r := r0 + 32 * b / tc
          let c := c0 + 32 * b % tc
          if inside r c then scales.getD (r * (o.sCols / 32) + c / 32) 0 else 0)
        (o.addr + t * 32768, packCodes w tile.toArray) ::
          (if blockScaled o.fmt then [(o.scaleAddr + t * (tileElems o.fmt / 32), packCodes 8 sc.toArray)] else []))
  ⟨runs, nsat, nnan⟩

end Sys2Proof.Machine
end

