-- ==== Sys2Proof/Machine/VeneerOps.lean ====
section
/-!
DEFINITION. The veneer codec (13 R431 to R447): basis slots, coding of a plank, checking and expanding a veneered plank.
-/
namespace Sys2Proof.Machine

/-- The element format of a plank shape that is veneered (R197, R433). -/
def shapeFmt (shape : Nat) : Nat :=
  match shape with
  | 1 => 2
  | 2 => 3
  | 3 => 4
  | 4 => 5
  | 5 => 9
  | _ => 1

/-- m and n of a plank shape. -/
def shapeRows (shape : Nat) : Nat := (tileShape (shapeFmt shape)).1
def shapeCols (shape : Nat) : Nat := (tileShape (shapeFmt shape)).2

/-- The plank shape of an element format. -/
def fmtShape (fmt : Nat) : Nat :=
  match fmt with
  | 2 => 1
  | 3 => 2
  | 4 => 3
  | 5 => 4
  | 9 => 5
  | _ => 8

/-! Records (R449, R450). -/

/-- Raise a bit of VEN_ERR with its captures. -/
def State.raiseVen (s : State) (b stream gen engine : Nat) (st : Status) (plank : Nat) : State :=
  let addr : Dword := ((0 : BitVec 4) ++ s.swNum ++ BitVec.ofNat 48 (plank * plankBytes))
  let a : Dword := if plank = 0 then 0 else addr
  s.raise Reg.venErr b
    [(Reg.venErrCapture, BitVec.ofNat 32 (stream % 256 * 2 ^ 24 + gen % 4 * 2 ^ 22 + engine % 16 * 2 ^ 16 + st.toNat * 2 ^ 8 + b)),
     (Reg.venErrPlankLo, a.extractLsb' 0 32), (Reg.venErrPlankHi, a.extractLsb' 32 32)]

/-- A slot write or free refused with TABLE_BUSY is counted and raised (R437, R438). -/
def State.venBusy (s : State) (stream gen : Nat) : State := (s.bump Reg.venTableBusy).raiseVen 2 stream gen 0 St.tableBusy 0

/-! Basis slots (R434 to R438). -/

/-- BF16 elements of a table, as codes row by row. -/
def tableCodes (table : Bytes) : Array Nat :=
  let bs := table.toArray
  ((List.range (table.length / 2)).map (fun i => (bs.getD (2 * i) 0).toNat + 256 * (bs.getD (2 * i + 1) 0).toNat)).toArray

/-- The 64 bytes of a slot header (R434). -/
def BasisSlot.header (b : BasisSlot) : Bytes :=
  leBytes 1 (b2n b.gen + 4 * b.state.code) ++ leBytes 1 b.shape ++ leBytes 1 b.rmax ++ [0] ++ leBytes 2 b.cols ++ leBytes 2 b.tag.toNat
    ++ leBytes 4 b.refs ++ leBytes 4 b.check.toNat ++ leBytes 8 b.loaded.toNat ++ List.replicate 40 0

/-- The slot that a write to GEN_SLOT means: 0xFF is the lowest FREE one of the stream; none where it is refused with TABLE_BUSY. -/
def State.slotForWrite (s : State) (stream gen : Nat) : Option Nat :=
  if gen = 0xFF then [0, 1, 2, 3].find? (fun g => (s.slot stream g).state == .free && (s.slot stream g).refs == 0)
  else if (s.slot stream gen).refs = 0 then some gen else none

/-- Write a slot (R437). -/
def State.writeSlot (s : State) (stream gen shape rmax : Nat) (tag : BitVec 16) (table : Bytes) : State :=
  let b : BasisSlot := { state := .resident, shape := shape, rmax := rmax, cols := shapeCols shape, tag := tag, refs := 0,
                         check := crc32c table, loaded := s.now, table := table, gen := true }
  let s := s.setSlot stream gen b
  let kept := s.pool.tableCache.map (fun p => (p.1, p.2.filter (fun k => k != slotKey stream gen)))
  s.withPool { s.pool with tableCache := kept.filter (fun p => !p.2.isEmpty) }

/-- The tag that VENEER_FIT sets (R437). -/
def nextTag (t : BitVec 16) : BitVec 16 := if t == 0xFFFF then 1 else t + 1

/-- An engine uses a basis table: a miss is counted; where the cache of 8 is full, which table makes room is open (R442). -/
def State.useTable (s : State) (e key : Nat) : State :=
  let l := s.pool.tableCache.get [] e
  if l.contains key then s
  else
    let s := s.bump (Reg.mdmaBasisMiss e)
    if l.length < 8 then s.withPool { s.pool with tableCache := s.pool.tableCache.put [] e (l ++ [key]) }
    else
      let (v, s) := s.draw
      s.withPool { s.pool with tableCache := s.pool.tableCache.put [] e (l.eraseIdx (v.toNat % 8) ++ [key]) }

/-! The codec (R441 to R446). -/

/-- Fields of the header (R443). -/
def vhShape (b : Bytes) : Nat := field b 1 1 % 16
def vhLen (b : Bytes) : Nat := field b 14 2
def vhElements (b : Bytes) : Nat := field b 16 2
def vhRank (b : Bytes) : Nat := field b 18 1 % 128
def vhRes (b : Bytes) : Nat := field b 20 2
def vhTag (b : Bytes) : Nat := field b 26 2

/-- Reserved header bits, by byte. -/
def vhReserved (b : Bytes) : Bool :=
  decide (4 ≤ field b 0 1) || decide (16 ≤ field b 1 1) || field b 2 4 != 0 || field b 12 2 != 0 || decide (128 ≤ field b 18 1)
    || field b 19 1 != 0 || field b 22 2 != 0 || field b 24 1 % 64 != 0

/-- Bytes of a residue entry (R444). -/
def resWidth (shape : Nat) : Nat := if shape = 8 then 8 else 4

/-- First byte of the residue. -/
def resBase (shape rank : Nat) : Nat := 32 + 2 * shapeRows shape * rank

/-- The length that R444 expects. -/
def venLength (shape rank res : Nat) : Nat := (resBase shape rank + res * resWidth shape + 15) / 16 * 16

/-- INDEX, element and reserved bits of residue entry i. -/
def resEntry (b : Bytes) (shape rank i : Nat) : Nat × Nat × Bool :=
  let o := resBase shape rank + i * resWidth shape
  if shape = 8 then (field b o 2, field b (o + 4) 4, field b (o + 2) 2 != 0)
  else if fmtBits (shapeFmt shape) = 8 then (field b o 2, field b (o + 2) 1, field b (o + 3) 1 != 0)
  else (field b o 2, field b (o + 2) 2, false)

/-- Indexes rise strictly and stay below a bound. -/
def risingBelow (n : Nat) : List Nat → Bool
  | [] => true
  | [i] => decide (i < n)
  | i :: j :: r => decide (i < j) && risingBelow n (j :: r)

/-- The first refusal of R446, with the bit of VEN_ERR it raises; `lenOk` says which COMP_LEN agree with the length presented. -/
def State.venRefusal (s : State) (b : Bytes) (lenOk : Nat → Bool) (destShape : Nat) : Option (Status × Nat) :=
  let shape := vhShape b
  let rank := vhRank b
  let len := vhLen b
  let entries := (List.range (vhRes b)).map (resEntry b shape rank)
  let elems := shapeRows shape * shapeCols shape
  let dest := if destShape = 0 then elems else if destShape = 6 || destShape = 7 then 65536 else shapeRows destShape * shapeCols destShape
  let (m, g) := venSlot b
  let q := s.slot m g
  if field b 0 1 % 4 != 1 then some (St.format, 5)
  else if vhReserved b || !veneerShape shape || rank = 0 || 64 < rank || entries.any (fun e => e.2.2) then some (St.rsvdSet, 5)
  else if !lenOk len then some (St.cmpLen, 0)
  else if len != venLength shape rank (vhRes b) || vhElements b != elems || dest != elems
      || !risingBelow elems (entries.map (·.1)) then some (St.cmpLen, 0)
  else if field b 28 4 != (crc32c (byteRun b 0 28 ++ [0, 0, 0, 0] ++ byteRun b 32 (len - 32))).toNat then some (St.media, 3)
  else if !(q.state == .resident && q.tag.toNat == vhTag b && q.check.toNat == field b 8 4 && q.shape == shape && decide (rank ≤ q.rmax))
  then some (St.tableGen, 1)
  else none

/-- Expand U × V at a rank into encoded elements (R445), row by row. -/
def expandCodes (shape rank : Nat) (u : Nat → Nat → Nat) (table : Array Nat) : Array Nat :=
  let n := shapeCols shape
  ((List.range (shapeRows shape * n)).map (fun i =>
    let acc := dot ((List.range rank).map (fun k => (decodeElem 2 (u (i / n) k), decodeElem 2 (table.getD (k * n + i % n) 0))))
    (encodeElem (shapeFmt shape) .nearest true acc.num).1)).toArray

/-- The 32,768 bytes that a veneered plank expands to (R445), its checks having passed. -/
def State.venExpand (s : State) (b : Bytes) : Bytes :=
  let shape := vhShape b
  let rank := vhRank b
  let (m, g) := venSlot b
  let bs := b.toArray
  let u := fun (i k : Nat) =>
    let o := 32 + 2 * (rank * i + k)
    (bs.getD o 0).toNat + 256 * (bs.getD (o + 1) 0).toNat
  let x := expandCodes shape rank u (tableCodes (s.slot m g).table)
  let x := (List.range (vhRes b)).foldl (fun (x : Array Nat) i =>
    let e := resEntry b shape rank i
    x.setIfInBounds e.1 e.2.1) x
  packCodes (fmtBits (shapeFmt shape)) x

/-- What a compression comes to (R440): a veneered plank, or a reason to decline. -/
inductive Coded where
  | done (bytes : Bytes) (rank : Nat)
  | declined (reason : Nat)
  deriving DecidableEq, Repr

/-- The errors of a rank (R441): the elements that go to the residue, and the error of the others. -/
def rankErrors (fmt : Nat) (x : Array F32) (xh : Array Nat) (t : F32) : List Nat × F32 :=
  let d := ((List.range x.size).map (fun i => fSub (x.getD i fZero) (toF32 (decodeElem fmt (xh.getD i 0))))).toArray
  let at_ := fun (i : Nat) => (d.getD i fZero).num
  let far := fun (i : Nat) => t.num.lt ((at_ i).mul (at_ i))
  let out := (List.range x.size).filter far
  (out, dotOpt ((List.range x.size).map (fun i => if far i then none else some (at_ i, at_ i))))

/-- A veneered plank's bytes (R443, R444). -/
def venBytes (q : BasisSlot) (stream gen shape rank bound : Nat) (u : Array Nat) (rmax : Nat) (res : List (Nat × Nat)) : Bytes :=
  let m := shapeRows shape
  let body := ((List.range (m * rank)).map (fun i => leBytes 2 (u.getD (i / rank * rmax + i % rank) 0))).flatten
    ++ (res.map (fun e => leBytes 2 e.1 ++ (if shape = 8 then leBytes 2 0 ++ leBytes 4 e.2 else leBytes 2 e.2))).flatten
  let len := venLength shape rank res.length
  let head := leBytes 2 (1 + 256 * shape) ++ leBytes 4 0 ++ leBytes 2 bound ++ leBytes 4 q.check.toNat ++ leBytes 2 0 ++ leBytes 2 len
    ++ leBytes 2 (m * shapeCols shape) ++ leBytes 2 rank ++ leBytes 2 res.length ++ leBytes 2 0 ++ leBytes 1 (64 * gen)
    ++ leBytes 1 stream ++ leBytes 2 q.tag.toNat
  let body := byteRun body 0 (len - 32)
  head ++ leBytes 4 (crc32c (head ++ [0, 0, 0, 0] ++ body)).toNat ++ body

/-- Code a plank (R440, R441): `obj` its object entry, `slot` the current slot when it was queued. -/
def State.venCode (s : State) (plank : Bytes) (obj : BitVec 192) (slot : Option (Nat × Nat)) : Coded :=
  match slot with
  | none => .declined 1
  | some (stream, gen) =>
    let q := s.slot stream gen
    let shape := objShape obj
    if q.state != .resident then .declined 1
    else if q.shape != shape then .declined 2
    else
      let fmt := shapeFmt shape
      let m := shapeRows shape
      let n := shapeCols shape
      let bs := plank.toArray
      let codes := ((List.range (m * n)).map (elemCode (fun i => bs.getD i 0) 0 (fmtBits fmt))).toArray
      let x := codes.map (fun c => toF32 (decodeElem fmt c))
      let num := fun (i : Nat) => (x.getD i fZero).num
      let finite := (List.range (m * n)).all (fun i => match num i with
        | .fin _ _ _ => true
        | _ => false)
      if !finite then .declined 3
      else
        let table := tableCodes q.table
        let nx2 := dot ((List.range (m * n)).map (fun i => (num i, num i)))
        let e2 := toF32 ((toF32 (.fin false (objBound obj * objBound obj) 0)).num.scale (-32))
        let b := fMul e2 nx2
        let t := toF32 ((b.num.scale 4).scale (-((m * n).log2 : Int)))
        let u := ((List.range (m * q.rmax)).map (fun p =>
          let i := p / q.rmax
          let k := p % q.rmax
          (encodeElem 2 .nearest false
            (dot ((List.range n).map (fun j => (num (i * n + j), decodeElem 2 (table.getD (k * n + j) 0))))).num).1)).toArray
        let try_ := fun (r : Nat) =>
          let xh := expandCodes shape r (fun i k => u.getD (i * q.rmax + k) 0) table
          let (out, e) := rankErrors fmt x xh t
          if !(b.num.lt e.num) && e.num != .nan && b.num != .nan && decide (out.length ≤ m * n / 64) then some (r, out) else none
        match ((List.range q.rmax).map (· + 1)).findSome? try_ with
        | none => .declined 4
        | some (r, out) =>
          let maxLen := bits (s.rd Reg.venMaxLen).toNat 15 0 / 16 * 16
          let len := venLength shape r out.length
          if maxLen < len then .declined 5
          else .done (venBytes q stream gen shape r (objBound obj) u q.rmax (out.map (fun i => (i, codes.getD i 0)))) r

end Sys2Proof.Machine
end

