-- ==== Sys2Proof/Machine/BindOps.lean ====
section
/-!
DEFINITION. The binding of attention stations (11 R387 to R393; 12 R422): direct reads of descriptors, the split of a ticket over
benches, and the bound copies.
-/
namespace Sys2Proof.Machine

/-! Direct reads (R84, R352, R400). -/

/-- Local offset of the bound descriptor areas (R366). -/
def boundBase : Nat := 0x900000000 + 0x2000000

/-- A local offset lies in WINDOW or STACK. -/
def State.isDirect (s : State) (o : Nat) : Bool :=
  decide (o < 0x10000000) || (decide (stackBase ≤ o) && decide (o < stackBase + s.pool.direct))

/-- Bytes that a unit reads directly at a local offset: of WINDOW and STACK, and of the bound areas; elsewhere the manual leaves
them open. -/
def State.localRead (s : State) (o n : Nat) : Bytes × State :=
  if s.isDirect o then
    ((List.range n).map (fun i =>
      if s.pool.written.get false ((o + i) / plankBytes) then s.pool.mem.get 0 (physical (o + i)) else 0), s)
  else if boundBase ≤ o && o < boundBase + 0x800000 then (s.roll.bound.getRun 0 (o - boundBase) n, s)
  else s.drawBytes n

/-- A direct read meets an uncorrectable stacked line. -/
def State.localBad (s : State) (o n : Nat) : Bool := s.isDirect o && !(s.badIn (physical o) n).isEmpty

/-- Replace bytes from an offset. -/
def patch (bs : Bytes) (i : Nat) (v : Bytes) : Bytes := bs.take i ++ v ++ bs.drop (i + v.length)

/-- Replace one byte's bits under a mask. -/
def patchBits (bs : Bytes) (i : Nat) (mask v : Byte) : Bytes := patch bs i [((bs.getD i 0) &&& ~~~mask) ||| (v &&& mask)]

/-! Tickets (R388). -/

def tkStation (t : Bytes) : Nat := field t 2 2 % 1024
def tkEnd (t : Bytes) : Nat := field t 4 4
def tkLayer (t : Bytes) : Nat := field t 8 1
def tkHead0 (t : Bytes) : Nat := field t 9 1
def tkHeads (t : Bytes) : Nat := field t 10 1
def tkQuery (t : Bytes) : Nat := field t 11 1
def tkQAddr (t : Bytes) : Nat := field t 16 8
def tkOut (t : Bytes) : Nat := field t 24 8
def tkCookie (t : Bytes) : Nat := field t 32 8

/-! The split (R390, R391). -/

/-- What one bench of a head serves: its rows, and its blocks by range or by list. -/
structure Share where
  row0 : Nat
  rows : Nat
  list : Bool
  first : Nat
  count : Nat
  kpos : Nat
  /-- Its first query token. -/
  token0 : Nat
  deriving DecidableEq, Repr

/-- A ticket at a switch: benches per head, first attended block, attended blocks, whether a part was clamped. -/
structure Spread where
  per : Nat
  first : Nat
  blocks : Nat
  clamped : Bool
  /-- Candidates and K of the filter (R422). -/
  cand : Nat
  sel : Nat
  deriving DecidableEq, Repr

/-- The token range of a switch and the split's parameters (R390, R391, R392). -/
def State.spread (s : State) (slot : Nat) (st : BitVec 512) (t : Bytes) : Spread :=
  let c := s.rollCfg slot
  let a := if cfgPart c then cfgBase c else 0
  let b := if cfgPart c then cfgBase c + 128 * cfgBlocks c else if cfgParts c = 0 then tkEnd t else cfgPartFirst c 0
  let nb := ceilDiv (min b (tkEnd t)) 128 - a / 128
  let cand := if stSelect st then nb - stRecent st else 0
  { per := stBenches st / max 1 (tkHeads t), first := a / 128, blocks := nb, clamped := cfgPart c && decide (b < tkEnd t),
    cand := cand, sel := min (stSelected st) cand }

/-- The share of bench k of a head. -/
def shareOf (x : Spread) (st : BitVec 512) (group query k : Nat) : Share :=
  if stSelect st then
    if k + 1 = x.per then
      let n := min (stRecent st) x.blocks
      ⟨0, query * group, false, x.first + x.blocks - n, n, 128 * (x.first + x.blocks - n), 0⟩
    else
      let n := ceilDiv x.sel (max 1 (x.per - 1))
      ⟨0, query * group, true, k * n, min n (x.sel - k * n), 0, 0⟩
  else if stRows st then
    let n := 256 / max 1 group
    ⟨k * n * group, min n (query - k * n) * group, false, x.first, x.blocks, 128 * x.first, k * n⟩
  else
    let n := ceilDiv x.blocks (max 1 x.per)
    ⟨0, query * group, false, x.first + k * n, min n (x.blocks - k * n), 128 * (x.first + k * n), 0⟩

/-- The limits of R389 on a ticket. -/
def State.ticketFits (s : State) (slot : Nat) (t : Bytes) : Bool :=
  let c := s.rollCfg slot
  let e := s.slotShape slot
  let st := s.rollStation (tkStation t)
  let x := s.spread slot st t
  let heads := tkHeads t
  let shares := (List.range x.per).map (shareOf x st (shGroup e) (tkQuery t))
  stValid st && decide (tkQuery t ≤ tkEnd t) && decide (tkEnd t ≤ cfgCap c) && decide (tkHead0 t + heads ≤ shHeads e)
    && decide (tkLayer t < shLayers e) && stBenches st % max 1 heads == 0 && decide (heads ≤ stBenches st)
    && shares.all (fun h => decide (h.rows ≤ 256) && decide (128 * h.count ≤ 65536))
    && (!stSelect st || (cfgParts c == 0 && decide (tkQuery t ≤ 128) && decide (2 ≤ x.per)))

/-! The bound copies. -/

/-- The bound copy of a bench that has no keys (R393). -/
def emptyBench (t : Bytes) : Bytes :=
  let t := patchBits t 176 3 1
  let t := patch t 180 (leBytes 4 128)
  let t := patch t 324 (leBytes 4 0 ++ leBytes 4 1)
  patchBits (patchBits t 336 1 1) 339 1 0

/-- The bound copy of bench k of head j (R390). -/
def boundBench (tmpl tk : Bytes) (job : BitVec 12) (h : Share) (group j : Nat) : Bytes :=
  let w := fmtBits (field tmpl 145 1)
  let d := field tmpl 152 4
  let rows := tkQuery tk * group
  let addr := tkQAddr tk + j * (rows * d * w / 8) + h.row0 * d * w / 8
  let t := patch tmpl 4 (leBytes 2 job.toNat)
  let t := if h.rows = 0 then t else patch (patch t 128 (leBytes 8 addr)) 148 (leBytes 4 h.rows)
  if h.rows = 0 || h.count = 0 then emptyBench t
  else
    let t := patch t 180 (leBytes 4 (128 * h.count))
    let t := patch t 324 (leBytes 4 (tkEnd tk - tkQuery tk + h.token0) ++ leBytes 4 h.kpos)
    patchBits (patchBits t 336 1 1) 339 1 0

/-- One target of the bound gather walk (R414, R422). -/
def boundTarget (bench head : Nat) (h : Share) (dest : Nat) : Bytes :=
  [if h.list then 4 else 0, BitVec.ofNat 8 bench, BitVec.ofNat 8 head, 0] ++ leBytes 4 h.first
    ++ leBytes 4 (if h.rows = 0 then 0 else h.count) ++ leBytes 4 dest

/-- Write bytes of a station's bound area. -/
def State.writeBound (s : State) (station off : Nat) (bs : Bytes) : State :=
  s.withRoll { s.roll with bound := Tab.putRun 0 s.roll.bound (8192 * station + off) bs }

/-- The templates of a station: the benches', the walk's, the selection's, the session's (R387). -/
def State.templates (s : State) (st : BitVec 512) : (List Bytes × Bytes × Bytes × Bytes) × State :=
  let (area, s) := s.localRead (stTemplate st) 0x2000
  (((List.range 16).map (fun i => byteRun area (384 * i) 384), byteRun area 0x1800 512, byteRun area 0x1A00 512,
    byteRun area 0x1C00 1024), s)

/-- Write bound copies of every unit. -/
def State.writeCopies (s : State) (n : Nat) (benches : List Bytes) (walk sel session : Bytes) : State :=
  let s := ((List.range benches.length).zip benches).foldl (fun s p => s.writeBound n (384 * p.1) p.2) s
  ((s.writeBound n 0x1800 walk).writeBound n 0x1A00 sel).writeBound n 0x1C00 session

/-- Bind an empty firing (R393); INCOMPLETE stands in the session for a part that had no ticket (R392). -/
def State.bindEmpty (s : State) (n : Nat) : State :=
  let st := s.rollStation n
  let ((benches, walk, sel, session), s) := s.templates st
  let s := s.writeCopies n ((benches.take (stBenches st)).map emptyBench) (patch walk 129 [0]) (patch sel 138 [0])
    (patchBits session 131 0x0B 0x08)
  s.bump Reg.rollEmpty

/-- Contributor numbers of the parts that a HOME expects (R395, R422), as the EXPECT bytes. -/
def expectBytes (parts per : Nat) : Bytes :=
  let on := fun i => decide (1 ≤ i / 16) && decide (i / 16 ≤ parts) && decide (i % 16 < per)
  (List.range 24).map (fun b => (List.range 8).foldl (fun (m : Byte) j => if on (8 * b + j) then setBit m j else m) 0)

/-- The bound session (R422). `idx` is s of R395. -/
def State.boundSession (s : State) (tmpl tk : Bytes) (tt : Ticket) (x : Spread) (shares : List Share) (idx : Nat) : Bytes :=
  let c := s.rollCfg tt.slot
  let e := s.slotShape tt.slot
  let t := patch tmpl 4 (leBytes 2 (cfgJob c).toNat)
  let t := patch t 128 [3]
  let t := patch t 132 (leBytes 2 (tkQuery tk * shGroup e) ++ leBytes 2 (shDim e) ++ leBytes 1 (tkHeads tk) ++ leBytes 1 (tkHead0 tk)
    ++ leBytes 1 (tkLayer tk))
  let t := patch t 140 (leBytes 4 (cfgSeq c))
  let t := patch t 192 (leBytes 8 (tkCookie tk))
  let t := ((List.range shares.length).zip shares).foldl (fun t p =>
    patch t (256 + 32 * p.1 + 24) (leBytes 1 (p.1 / max 1 x.per) ++ leBytes 1 (16 * idx + p.1 % max 1 x.per) ++ [1, 0]
      ++ leBytes 2 p.2.row0 ++ leBytes 2 p.2.rows)) t
  let t := patchBits t 131 8 (if x.clamped then 8 else 0)
  if cfgPart c then
    let t := patchBits t 131 3 3
    let t := patch t 184 (leBytes 2 (cfgHomeSwitch c).toNat ++ leBytes 1 (field tk 40 1))
    patch (patch t 188 (leBytes 2 (field tk 42 2))) 152 (List.replicate 24 0)
  else
    let t := patch t 152 (expectBytes (cfgParts c) x.per)
    if tkOut tk != 0 then patch (patchBits t 131 3 1) 176 (leBytes 8 (tkOut tk))
    else
      match tt.origin with
      | some (f, _, _) => patch (patchBits t 131 3 2) 184 (leBytes 2 f.srcSwitch.toNat ++ leBytes 1 (f.srcUnit.toNat % 256))
      | none => t

/-- Bind a ticket (R390 to R392, R422): the bound copies, and a FORWARD to each part. -/
def State.bindTicket (s : State) (n : Nat) (tt : Ticket) : State :=
  let st := s.rollStation n
  let tk := tt.data
  let c := s.rollCfg tt.slot
  let e := s.slotShape tt.slot
  let x := s.spread tt.slot st tk
  let idx := if cfgPart c then field tk 44 1 else 0
  let ((benches, walk, sel, session), s) := s.templates st
  let shares := (List.range (stBenches st)).map (fun i => shareOf x st (shGroup e) (tkQuery tk) (i % max 1 x.per))
  let dest := fun i => field (benches.getD i []) 160 4
  let copies := ((List.range shares.length).zip shares).map (fun p =>
    boundBench (benches.getD p.1 []) tk (cfgJob c) p.2 (shGroup e) (p.1 / max 1 x.per))
  let head := leBytes 2 tt.slot ++ leBytes 4 (cfgSeq c) ++ leBytes 1 (tkLayer tk) ++ leBytes 1 (tkHead0 tk)
  let walk := patch (patch walk 4 (leBytes 2 (cfgJob c).toNat)) 128 ([0] ++ leBytes 1 (stBenches st) ++ head)
  let walk := patch walk 140 (leBytes 4 x.sel ++ (sel.drop 184).take 8)
  let targets := (((List.range shares.length).zip shares).map (fun p =>
    boundTarget (stFirstBench st + p.1) (p.1 / max 1 x.per) p.2 (dest p.1))).flatten
  let walk := patch walk 256 targets
  let sel := if !stSelect st then sel
    else
      let t := patch (patch sel 4 (leBytes 2 (cfgJob c).toNat)) 128 [0]
      let t := patch (patchBits t 129 2 2) 130 (head ++ leBytes 1 (if x.cand = 0 then 0 else tkHeads tk))
      let t := patch (patch t 140 (leBytes 4 x.sel)) 152 (leBytes 4 x.first ++ leBytes 4 x.cand ++ leBytes 2 (tkQuery tk * shGroup e))
      patch t 168 (leBytes 8 (tkQAddr tk))
  let s := s.writeCopies n copies walk sel (s.boundSession session tk tt x shares idx)
  let s := s.bump Reg.rollBound
  if cfgPart c then s
  else
    (List.range (cfgParts c)).foldl (fun s i =>
      let sw := cfgPartSwitch c i
      let data := [0x24] ++ (tk.drop 1).take 39 ++ leBytes 1 (stReduce st) ++ [0] ++ (session.drop 144).take 2 ++ leBytes 1 (i + 1)
        ++ List.replicate 19 0
      s.rollSend .forward tt.slot 3 (s.rollHdr sw (contextAddr sw (cfgPartSlot c i) (cfgSeq c)) 64) data) s

end Sys2Proof.Machine
end

