-- ==== Sys2Proof/Machine/RollRows.lean ====
section
/-!
DEFINITION. The meanings of the roll's commands: ROLL_OPs (11 R374 to R385), deadlines, watches and heartbeats (R379, R382,
R383), attention tickets (R388 to R392), loads and the switch-over (R372, R373), the probe and counters (R396), and the bank
switch-over of every local table set (02 R82).
-/
namespace Sys2Proof.Machine

/-! ROLL_OPs (R374 to R378). -/

/-- A ROLL_OP of a subtype. -/
def isRoll (sub : Nat) (f : Frame) : Bool := f.opcode == 0x40 && field f.payload 0 1 == sub

/-- The slot that a ROLL_OP names. -/
def rollSlot (f : Frame) : Nat := bits f.addr.toNat 46 32

/-- Complete a ROLL_OP. -/
def State.rollComplete (s : State) (p : Passed) (st : Status) (data : Bytes) : State :=
  s.complete p.cluster p.cls p.frame st (cplHasData p.frame) data 0 768

/-- Refuse a ROLL_OP (R374, R380). -/
def State.rollRefuse (s : State) (p : Passed) (st : Status) : State :=
  let s := if st == St.passStale then s.countStale (rollSlot p.frame) (field p.frame.payload 0 1) (some p.frame) else s
  s.rollComplete p st []

/-- Steps 1 and 2 of R374: the entry that a ROLL_OP acts on. -/
def State.rollFind (s : State) (f : Frame) (anyJob : Bool) : Option (BitVec 1024) :=
  let c := s.rollCfg (rollSlot f)
  if f.addr.extractLsb' 48 12 == s.swNum && cfgValid c && cfgSeq c == (f.addr.extractLsb' 0 32).toNat && (anyJob || cfgJob c == f.job)
  then some c else none

/-- Apply one ROLL_OP of an agent or a host: the deadline first (R379), the roll cache, steps 1 and 2, then the subtype's own rule. -/
def State.rollOp (s : State) (sub : Nat) (run : State → Passed → Nat → BitVec 1024 → State) : State :=
  match s.takePassed (isRoll sub) with
  | none => s
  | some (p, s) =>
    let s := s.applyDeadline (rollSlot p.frame)
    let (v, s) := s.draw
    let s := s.addReg Reg.rollCacheMiss (v.toNat % 2)
    match s.rollFind p.frame false with
    | none => s.rollRefuse p St.denied
    | some c => if cfgPart c && sub != 0x01 then s.rollRefuse p St.denied else run s p (rollSlot p.frame) c

/-- Complete a ROLL_OP that has been applied, with its result block (R376). -/
def State.rollDone (s : State) (p : Passed) (slot : Nat) : State :=
  let s := s.bump Reg.rollOps
  let block := rollBlock (field p.frame.payload 0 1) (s.rollLive slot)
  ((s.rollComplete p St.ok block).settlePass slot).dropWatches

/-- The frame carries the epoch of an entry. -/
def epochIs (f : Frame) (l : Live) : Bool := f.aux == l.epoch

/-- ROLL_READ (R375). -/
def execRollRead (s : State) : Host.Outcome State Fault Refusal :=
  .next (s.rollOp 0x01 (fun s p slot _ => (s.bump Reg.rollOps).rollComplete p St.ok (s.rollEntry slot)))

/-- ROLL_COMMIT (R378). -/
def execRollCommit (s : State) : Host.Outcome State Fault Refusal :=
  .next (s.rollOp 0x02 (fun s p slot c =>
    let l := s.rollLive slot
    let n := field p.frame.payload 4 4
    if !(l.state == .held && epochIs p.frame l) then s.rollRefuse p St.passStale
    else if n < l.committed || cfgCap c < n then s.rollRefuse p St.denied
    else (s.setRollLive slot { l with committed := n }).rollDone p slot))

/-- ROLL_OFFER (R378). -/
def execRollOffer (s : State) : Host.Outcome State Fault Refusal :=
  .next (s.rollOp 0x10 (fun s p slot _ =>
    let l := s.rollLive slot
    let target : BitVec 24 := BitVec.ofNat 24 (field p.frame.payload 4 3)
    if !(l.state == .held && epochIs p.frame l) then s.rollRefuse p St.passStale
    else if agentPart target == agentPart l.holder then s.rollRefuse p St.denied
    else
      let at_ := addPeriods s.bell.len s.bell.now.term s.bell.now.period (max 1 (bits (s.rd Reg.rollOfferTimeout).toNat 15 0))
      let s := s.setRollLive slot { l with state := .offered, target := target, targetSession := 0,
                                           deadline := (BellTime.at0 at_.1 at_.2).stamp }
      (((s.watchAgent (agentPart target)).rollEvent 0x01 slot [target])).rollDone p slot))

/-- ROLL_WITHDRAW (R378). -/
def execRollWithdraw (s : State) : Host.Outcome State Fault Refusal :=
  .next (s.rollOp 0x11 (fun s p slot _ =>
    let l := s.rollLive slot
    if !(l.state == .offered && epochIs p.frame l) then s.rollRefuse p St.passStale
    else (s.returnPass slot false [l.holder, l.target] 0x11 (some p.frame)).rollDone p slot))

/-- The frame comes from the agent of an agent-and-pool value. -/
def sentBy (f : Frame) (a : BitVec 24) : Bool :=
  f.srcSwitch == agentSwitch (agentPart a) && f.srcUnit.toNat == agentPort (agentPart a)

/-- ROLL_TAKE (R378). -/
def execRollTake (s : State) : Host.Outcome State Fault Refusal :=
  .next (s.rollOp 0x12 (fun s p slot _ =>
    let l := s.rollLive slot
    if !(l.state == .offered && epochIs p.frame l) then s.rollRefuse p St.passStale
    else if !sentBy p.frame l.target then s.rollRefuse p St.denied
    else
      let s := s.setRollLive slot { l with state := .held, holder := l.target, holderSession := l.targetSession, epoch := l.epoch + 1,
                                           target := 0, targetSession := 0, deadline := 0, holderDead := false }
      ((s.watchAgent (agentPart l.target)).rollEvent 0x02 slot [l.holder]).rollDone p slot))

/-- ROLL_CLAIM (R378, R384): the pass is held again; the CLAIM completes when its discards and TRIMs have. -/
def execRollClaim (s : State) : Host.Outcome State Fault Refusal :=
  .next (s.rollOp 0x13 (fun s p slot c =>
    let l := s.rollLive slot
    let holder : BitVec 24 := BitVec.ofNat 24 (field p.frame.payload 4 3)
    if !(l.state == .orphaned && p.frame.aux == l.epoch + 1) then s.rollRefuse p St.passStale
    else
      let s := s.setRollLive slot { l with state := .held, holder := holder, holderSession := 0, epoch := l.epoch + 1,
                                           holderDead := false }
      let s := ((s.bump Reg.rollOps).bump Reg.rollClaims).watchAgent (agentPart holder)
      let s := s.startDiscards slot p l.committed (rollBlock 0x13 (s.rollLive slot))
      let s := (List.range (cfgParts c)).foldl (fun s i =>
        let sw := cfgPartSwitch c i
        let payload : Bytes := [0x25, 0, 0, 0] ++ leBytes 4 l.committed ++ List.replicate 8 0
        s.rollSend (.trim slot) slot p.cls (s.rollHdr sw (contextAddr sw (cfgPartSlot c i) (cfgSeq c)) 16) payload) s
      match s.roll.claims.find? (fun k => k.slot == slot) with
      | some k => (s.setClaim { k with trims := cfgParts c }).dropWatches
      | none => s.dropWatches))

/-- ROLL_CLOSE (R378). -/
def execRollClose (s : State) : Host.Outcome State Fault Refusal :=
  .next (s.rollOp 0x14 (fun s p slot c =>
    let l := s.rollLive slot
    let keep := field p.frame.payload 4 1 == 1
    if !(l.state == .held && epochIs p.frame l) then s.rollRefuse p St.passStale
    else if keep && cfgParts c != 0 then s.rollRefuse p St.denied
    else (s.setRollLive slot { l with state := .closed, frozen := keep }).rollDone p slot))

/-- ROLL_ATTEND (R389): the ticket becomes its station's pending one, and completes at the binding. -/
def execRollAttend (s : State) : Host.Outcome State Fault Refusal :=
  .next (s.rollOp 0x30 (fun s p slot _ =>
    let l := s.rollLive slot
    let n := tkStation p.frame.payload
    if !(l.state == .held && epochIs p.frame l) then s.rollRefuse p St.passStale
    else if !s.ticketFits slot p.frame.payload || 192 ≤ p.frame.srcUnit.toNat then s.rollRefuse p St.denied
    else if (s.roll.tickets.get none n).isSome then
      (s.raiseRoll 9 slot 0x30 St.timeout (some p.frame)).rollRefuse p St.timeout
    else
      let t : Ticket := ⟨slot, l.epoch, byteRun p.frame.payload 0 64, some (p.frame, p.cls, p.cluster)⟩
      (s.withRoll { s.roll with tickets := s.roll.tickets.put none n (some t) }).bump Reg.rollOps))

/-! Messages between roll engines (R375, R383, R384, R392). -/

/-- ROLL_WATCH (R383): a switch watches a port or ceases to; it learns the port's session count. -/
def execRollWatch (s : State) : Host.Outcome State Fault Refusal :=
  match s.takePassed (isRoll 0x20) with
  | none => .next s
  | some (p, s) =>
    let port := field p.frame.payload 4 1
    let key := 4096 * port + p.frame.srcSwitch.toNat
    let s := if port < 192 then
        s.withRoll { s.roll with watchers := s.roll.watchers.put false key (field p.frame.payload 5 1 == 1) }
      else s
    .next ((s.bump Reg.rollOps).rollComplete p St.ok ([0x20, BitVec.ofNat 8 (s.sessionCount port)] ++ List.replicate 14 0))

/-- ROLL_HEARTBEAT (R383): a count that differs from the recorded one declares the agent dead. -/
def execRollHeartbeat (s : State) : Host.Outcome State Fault Refusal :=
  match s.takePassed (isRoll 0x22) with
  | none => .next s
  | some (p, s) =>
    let sw := p.frame.srcSwitch.toNat
    let s := s.withRoll { s.roll with heardAt := s.roll.heardAt.put 0 sw s.bell.bounds }
    let lost := s.roll.watched.filter (fun w => w.1 / 256 == sw && (match w.2 with
      | some x => !x.dead && (match x.count with
        | some n => field p.frame.payload (16 + w.1 % 256) 1 != n.toNat
        | none => false)
      | none => false))
    .next (lost.foldl (fun s w => s.agentDied (BitVec.ofNat 20 w.1)) s)

/-- ROLL_AGENT_DOWN (R383). -/
def execRollAgentDown (s : State) : Host.Outcome State Fault Refusal :=
  match s.takePassed (isRoll 0x23) with
  | none => .next s
  | some (p, s) => .next (s.agentDied (agentId p.frame.srcSwitch (field p.frame.payload 4 1)))

/-- ROLL_FORWARD (R392): a part holds the ticket for its station; a late one, or one that replaces another, is reported. -/
def execRollForward (s : State) : Host.Outcome State Fault Refusal :=
  match s.takePassed (isRoll 0x24) with
  | none => .next s
  | some (p, s) =>
    let slot := rollSlot p.frame
    match s.rollFind p.frame true with
    | none => .next (s.rollRefuse p St.denied)
    | some c =>
      if !cfgPart c then .next (s.rollRefuse p St.denied)
      else
        let n := tkStation p.frame.payload
        let late := (s.roll.tickets.get none n).isSome || s.roll.boundAt.get 0 n == s.bell.bounds + 1
        let s := if late then s.raiseRoll 5 slot 0x24 St.ok (some p.frame) else s
        let t : Ticket := ⟨slot, 0, byteRun p.frame.payload 0 64, none⟩
        .next (((s.withRoll { s.roll with tickets := s.roll.tickets.put none n (some t) }).bump Reg.rollOps).rollComplete p St.ok [])

/-- ROLL_TRIM (R384): a part discards its blocks at or beyond COMMITTED; the TRIM completes after its discards. -/
def execRollTrim (s : State) : Host.Outcome State Fault Refusal :=
  match s.takePassed (isRoll 0x25) with
  | none => .next s
  | some (p, s) =>
    match s.rollFind p.frame true with
    | none => .next (s.rollRefuse p St.denied)
    | some c =>
      if !cfgPart c then .next (s.rollRefuse p St.denied)
      else .next ((s.bump Reg.rollOps).startDiscards (rollSlot p.frame) p (field p.frame.payload 4 4) [])

/-- CLAIM_DISCARDS_DONE (R384): the discards whose planks do not move are made; when none is left, nor a TRIM, the CLAIM or the
TRIM completes. -/
def execClaimDiscardsDone (slot : SlotId) (s : State) : Host.Outcome State Fault Refusal :=
  match s.roll.claims.find? (fun k => k.slot == slot.val) with
  | none => .next s
  | some k =>
    let (left, s) := k.planks.foldl (fun (acc : List Dword × State) a =>
      match acc.2.claimPlank slot.val a with
      | some s => (acc.1, s)
      | none => (acc.1 ++ [a], acc.2)) ([], s)
    let s := s.setClaim { k with planks := left }
    if !k.lines.isEmpty || !left.isEmpty || k.trims != 0 then .next s
    else
      let s := s.withRoll { s.roll with claims := s.roll.claims.filter (fun x => x.slot != slot.val) }
      .next (s.complete k.cluster k.cls k.frame St.ok (cplHasData k.frame) k.block 0 768)

/-! Time and liveness (R379, R382, R383). -/

/-- OFFER_DEADLINE (R379). -/
def execOfferDeadline (slot : SlotId) (s : State) : Host.Outcome State Fault Refusal := .next (s.applyDeadline slot.val)

/-- ROLL_AGENT_DEAD (R382, R383): the agent of port p has died: its entries, and AGENT_DOWN to every switch that watches the port. -/
def execRollAgentDead (p : Port) (s : State) : Host.Outcome State Fault Refusal :=
  if !s.sw.deadRoll.contains p then .next s
  else
    let s := s.withSw { s.sw with deadRoll := s.sw.deadRoll.erase p }
    let s := s.agentDied (agentId s.swNum p.val)
    let payload : Bytes := [0x23, 0, 0, 0, BitVec.ofNat 8 p.val] ++ List.replicate 11 0
    .next ((s.watchersOf p.val).foldl (fun s sw => s.rollNotify (BitVec.ofNat 12 sw) payload) s)

/-- HB_PERIODS and HB_MISS. -/
def State.hbPeriods (s : State) : Nat := max 1 (bits (s.rd Reg.rollCfg).toNat 15 8)
def State.hbMiss (s : State) : Nat := max 1 (bits (s.rd Reg.rollCfg).toNat 23 16)

/-- HEARTBEAT_SEND (R383): every HB_PERIODS periods, to every switch that watches a port. -/
def execHeartbeatSend (s : State) : Host.Outcome State Fault Refusal :=
  if s.bell.bounds < s.roll.sentAt + s.hbPeriods then .next s
  else
    let s := s.withRoll { s.roll with sentAt := s.bell.bounds }
    let counts := (List.range 192).map (fun p => BitVec.ofNat 8 (s.sessionCount p))
    let dests := (s.roll.watchers.map (fun w => w.1 % 4096)).eraseDups
    .next (dests.foldl (fun s sw => s.rollNotify (BitVec.ofNat 12 sw) ([0x22] ++ List.replicate 15 0 ++ counts)) s)

/-- HB_LOST (R383): no heartbeat of a watched switch for HB_MISS intervals. -/
def execHbLost (sw : Fin 4096) (s : State) : Host.Outcome State Fault Refusal :=
  let mine := s.roll.watched.filter (fun w => w.1 / 256 == sw.val && (match w.2 with
    | some x => !x.dead
    | none => false))
  if mine.isEmpty || s.bell.bounds < s.roll.heardAt.get 0 sw.val + s.hbMiss * s.hbPeriods then .next s
  else .next (mine.foldl (fun s w => s.agentDied (BitVec.ofNat 20 w.1)) (s.raiseRoll 7 0 0x22 St.ok none))

/-- WATCH_RETRY (R383): a WATCH that failed is sent again after 16 periods. -/
def execWatchRetry (sw : Fin 4096) (port : Fin 256) (s : State) : Host.Outcome State Fault Refusal :=
  let key := 256 * sw.val + port.val
  match s.roll.watched.get none key with
  | some w =>
    match w.retry with
    | some (on, at_) =>
      if s.bell.bounds < at_ + 16 then .next s
      else
        let left := if on then some { w with retry := none } else none
        let s := s.withRoll { s.roll with watched := s.roll.watched.put none key left }
        .next (s.sendWatch (BitVec.ofNat 20 key) on)
    | none => .next s
  | none => .next s

/-- What the completion of a message of the roll engine brings (R381, R383, R384). -/
def State.rollSettled (s : State) (k : Nat) (st : Status) (data : Bytes) : State :=
  let msg := s.roll.msgs.get none k
  let s := s.withRoll { s.roll with msgs := s.roll.msgs.erase k }
  match msg with
  | none => s
  | some .event => if st == St.ok then s else (s.bump Reg.rollEventDrop).raiseRoll 6 0 0 st none
  | some (.watch a on) =>
    match s.roll.watched.get none a with
    | none =>
      if on || st == St.ok then s
      else s.withRoll { s.roll with watched := s.roll.watched.put none a (some ⟨none, true, some (false, s.bell.bounds)⟩) }
    | some w =>
      if !on then s
      else if st != St.ok then
        s.withRoll { s.roll with watched := s.roll.watched.put none a (some { w with retry := some (true, s.bell.bounds) }) }
      else
        let n : BitVec 8 := BitVec.ofNat 8 (field data 1 1)
        let id : AgentId := BitVec.ofNat 20 a
        let s := s.withRoll { s.roll with watched := s.roll.watched.put none a (some { w with count := some n }) }
        s.openHomes.foldl (fun s slot =>
          let l := s.rollLive slot
          let s := if agentPart l.holder == id then s.setRollLive slot { l with holderSession := n } else s
          let l := s.rollLive slot
          if l.state == .offered && agentPart l.target == id then s.setRollLive slot { l with targetSession := n } else s) s
  | some .forward => s
  | some (.trim slot) =>
    match s.roll.claims.find? (fun c => c.slot == slot) with
    | none => s
    | some c =>
      let s := s.setClaim { c with trims := c.trims - 1 }
      if st == St.ok then s else s.discardFailed slot st
  | some (.table slot line) => s.tableLine slot line st data

/-! Stations (R389). -/

/-- End a ticket's ATTEND. -/
def State.ticketEnd (s : State) (t : Ticket) (st : Status) : State :=
  match t.origin with
  | none => s
  | some (f, c, k) => s.complete k c f st true (rollBlock 0x30 (s.rollLive t.slot)) 0 768

/-- ROLL_STATION_BIND (R389, R393): at BIND_SLOT of a firing period, the pending ticket or an empty firing. -/
def execRollStationBind (station : Fin 1024) (s : State) : Host.Outcome State Fault Refusal :=
  let n := station.val
  let st := s.rollStation n
  let now := s.bell.now
  if !stValid st || now.slot.toNat != stBindSlot st || now.period.toNat % stMod st != stPhase st
      || s.roll.boundAt.get 0 n == s.bell.bounds + 1 then .next s
  else
    let ticket := s.roll.tickets.get none n
    let s := s.withRoll { s.roll with tickets := s.roll.tickets.erase n, boundAt := s.roll.boundAt.put 0 n (s.bell.bounds + 1) }
    match ticket with
    | none => .next (s.bindEmpty n)
    | some t =>
      let s := s.applyDeadline t.slot
      let l := s.rollLive t.slot
      if t.origin.isSome && l.epoch != t.epoch then
        let s := (s.countStale t.slot 0x30 (t.origin.map (·.1))).raiseRoll 4 t.slot 0x30 St.passStale (t.origin.map (·.1))
        .next ((s.bindEmpty n).ticketEnd t St.passStale)
      else .next ((s.bindTicket n t).ticketEnd t St.ok)

/-! Loads (R372, R471). -/

/-- Reserved bits of a configuration half (R367). -/
def cfgReserved : BitVec 1024 :=
  maskBits 1024 7 5 ||| maskBits 1024 31 28 ||| maskBits 1024 223 208 ||| maskBits 1024 335 332 ||| maskBits 1024 415 411
    ||| maskBits 1024 511 432 ||| maskBits 1024 1023 960 ||| maskBits 1024 70 64
    ||| (List.range 7).foldl (fun (m : BitVec 1024) i =>
      m ||| maskBits 1024 (8 * (64 + 8 * i) + 15) (8 * (64 + 8 * i) + 12) ||| maskBits 1024 (8 * (64 + 8 * i) + 31) (8 * (64 + 8 * i) + 31)) 0

/-- Values of a configuration half that R367 reserves. -/
def cfgBad (c : BitVec 1024) : Bool :=
  decide (2 ≤ bits c.toNat 4 3) || (!cfgPart c && cfgHomeSlot c != 0) || decide (32768 ≤ cfgHomeSlot c)
    || (List.range 7).any (fun i => decide (cfgParts c ≤ i) && eField c (64 + 8 * i) 8 != 0)

/-- Reserved bits and values of a shape (R369). -/
def shapeReserved : BitVec 128 := maskBits 128 7 2 ||| maskBits 128 127 48
def shapeBad (e : BitVec 128) : Bool :=
  shLayers e == 0 || shHeads e == 0 || decide (64 < shHeads e) || decide (2 < eField e 3 1)
    || !(shFmt e == 2 || shFmt e == 4 || shFmt e == 5) || shGroup e == 0 || decide (16 < shGroup e) || shReserved e

/-- Reserved bits and values of a station (R387). -/
def stationReserved : BitVec 512 := maskBits 512 7 5 ||| maskBits 512 95 88 ||| maskBits 512 511 192 ||| maskBits 512 133 128
def stationBad (e : BitVec 512) : Bool :=
  let gather := eField e 8 1
  let filter := eField e 9 1
  stBenches e == 0 || decide (16 < stBenches e) || decide (168 < stFirstBench e + stBenches e)
    || (stSelect e && (decide (stRecent e < 2) || decide (64 < stRecent e) || stSelected e == 0 || decide (4096 < stSelected e)))
    || decide (gather < 12) || decide (23 < gather) || !(filter == 0xFF || (decide (24 ≤ filter) && decide (filter ≤ 35)))
    || decide (11 < stReduce e)

/-- Length of the chain of parents from a slot on, and whether it ends within a number of steps. -/
def State.chainFits (s : State) : Nat → Option Nat → Bool
  | _, none => true
  | 0, some _ => false
  | n + 1, some slot => s.chainFits n (cfgParent (s.rollCfg slot))

/-- R372 on one configuration half: a change that is refused. `closes`: slots that the same load makes not VALID. -/
def State.cfgRefused (s : State) (slot : Nat) (new : BitVec 1024) (closes : List Nat) : Bool :=
  let old := s.rollCfg slot
  if cfgValid old then
    !(new == old || new == clrBit old 2) || (!cfgValid new && (s.rollLive slot).refs != 0)
  else if !cfgValid new then false
  else
    let e := s.rollShape (cfgShape new)
    shEmpty e || shReserved e || cfgBase new % 128 != 0 ||
      (match cfgParent new with
       | none => false
       | some p =>
         let c := s.rollCfg p
         let l := s.rollLive p
         !(cfgValid c && cfgSeq c == cfgParentSeq new) || !(l.state == .closed && l.frozen) || cfgJob c != cfgJob new
           || closes.contains p || decide (l.committed < cfgBase new) || !s.chainFits 8 (some p))

/-- The active timetable names a station's bound area (R372, R387). -/
def State.stationNamed (s : State) (n : Nat) : Bool :=
  s.activeTt.any (fun p =>
    let kind := p.1 / 8192 / 256
    (kind == 1 || kind == 2) && ttAction p.2 == 1 && decide (boundBase + 0x2000 * n ≤ ttDescOffset p.2)
      && decide (ttDescOffset p.2 < boundBase + 0x2000 * (n + 1)))

/-- Refuse a ROLL_LOAD (R372). -/
def State.rollLoadRefused (s : State) (h : HostPort) (d : Desc) : State := (s.raiseRoll 8 0 0 St.denied none).done h d St.denied 0

/-- Write entries into the inactive roll bank. -/
def State.putRoll (s : State) (t first : Nat) (cfgs : List (BitVec 1024)) (shapes : List (BitVec 128)) (stations : List (BitVec 512)) :
    State :=
  let r := s.roll
  let r := if t = 0 then
      (if r.bank then { r with cfg0 := Tab.putRun 0 r.cfg0 first cfgs } else { r with cfg1 := Tab.putRun 0 r.cfg1 first cfgs })
    else if t = 1 then
      (if r.bank then { r with shape0 := Tab.putRun 0 r.shape0 first shapes } else { r with shape1 := Tab.putRun 0 r.shape1 first shapes })
    else if r.bank then { r with station0 := Tab.putRun 0 r.station0 first stations }
    else { r with station1 := Tab.putRun 0 r.station1 first stations }
  s.withRoll r

/-- ROLL_LOAD (R372, R471). -/
def State.loadRoll (s : State) (h : HostPort) (d : Desc) (data : Bytes) : State :=
  let t := loadTable d
  let first := loadFirst d
  let range := if t = 0 then 32768 else if t = 1 then 256 else 1024
  if 2 < t || !plainLoad d || !loadFits d range then s.done h d St.rsvdSet 0
  else if s.tt.armRoll.isSome then s.refuseArmed h d
  else if t = 0 then
    let es := loadEntries d data 128 1024
    let made := (List.range es.length).zip es
    let closes := (made.filter (fun p => cfgValid (s.rollCfg (first + p.1)) && !cfgValid p.2)).map (fun p => first + p.1)
    match entriesRefusal cfgReserved cfgBad es with
    | some st => s.done h d st 0
    | none =>
      if made.any (fun p => s.cfgRefused (first + p.1) p.2 closes) then s.rollLoadRefused h d
      else (s.putRoll 0 first es [] []).done h d St.ok (loadCount d)
  else if t = 1 then
    let es := loadEntries d data 16 128
    let used := fun (n : Nat) => (if s.roll.bank then s.roll.cfg1 else s.roll.cfg0).any (fun p => cfgValid p.2 && cfgShape p.2 == n)
    match entriesRefusal shapeReserved shapeBad es with
    | some st => s.done h d st 0
    | none =>
      if ((List.range es.length).zip es).any (fun p => used (first + p.1) && s.rollShape (first + p.1) != p.2) then
        s.rollLoadRefused h d
      else (s.putRoll 1 first [] es []).done h d St.ok (loadCount d)
  else
    let es := loadEntries d data 64 512
    match entriesRefusal stationReserved stationBad es with
    | some st => s.done h d st 0
    | none =>
      if ((List.range es.length).zip es).any (fun p => s.stationNamed (first + p.1) && s.rollStation (first + p.1) != p.2) then
        s.rollLoadRefused h d
      else (s.putRoll 2 first [] [] es).done h d St.ok (loadCount d)

/-- ROLL_LOAD. -/
def execRollLoad (h : HostPort) (q : RingId) (data : Bytes) (s : State) : Host.Outcome State Fault Refusal :=
  .next (s.withDesc h q (isType 0x13) (fun s d => s.loadRoll h d data))

/-! The switch-over (R373, R82). -/

/-- Change the count of open children of a slot. -/
def State.addRefs (s : State) (parent : Option Nat) (up : Bool) : State :=
  match parent with
  | none => s
  | some p =>
    let l := s.rollLive p
    s.setRollLive p { l with refs := if up then l.refs + 1 else l.refs - 1 }

/-- A slot has become not VALID: its live half is cleared, its parent's REFS falls, its pending tickets are dropped. -/
def State.closeSlot (s : State) (slot : Nat) (old : BitVec 1024) : State :=
  let s := s.withRoll { s.roll with live := s.roll.live.erase slot }
  let s := s.addRefs (cfgParent old) false
  let mine := s.roll.tickets.filter (fun p => p.2.any (fun t => t.slot == slot))
  mine.foldl (fun s p => match p.2 with
    | some t => (s.withRoll { s.roll with tickets := s.roll.tickets.erase p.1 }).ticketEnd t St.denied
    | none => s) s

/-- A slot has become VALID: its live half begins (R373). -/
def State.openSlot (s : State) (slot : Nat) (c : BitVec 1024) : State :=
  if cfgPart c then s.withRoll { s.roll with live := s.roll.live.put Live.reset slot { Live.reset with live := true } }
  else
    let l : Live := { Live.reset with live := true, state := .held, epoch := cfgEpoch c, holder := cfgHolder c,
                                      committed := cfgParentTokens c }
    ((s.setRollLive slot l).addRefs (cfgParent c) true).watchAgent (agentPart (cfgHolder c))

/-- The roll bank switches (R373): closings first, then openings. -/
def State.switchRoll (s : State) : State :=
  let old := if s.roll.bank then s.roll.cfg1 else s.roll.cfg0
  let new := if s.roll.bank then s.roll.cfg0 else s.roll.cfg1
  let s := s.withRoll { s.roll with bank := !s.roll.bank }
  let s := (old.filter (fun p => cfgValid p.2 && !cfgValid (new.get 0 p.1))).foldl (fun s p => s.closeSlot p.1 p.2) s
  let s := (new.filter (fun p => cfgValid p.2 && !cfgValid (old.get 0 p.1))).foldl (fun s p => s.openSlot p.1 p.2) s
  s.dropWatches

/-- BANK_SWITCH_OVER (R82): the armed set switches at its point, or at a jump past it. -/
def execBankSwitchOver (t : TableSet) (s : State) : Host.Outcome State Fault Refusal :=
  match s.armedPoint t with
  | none => .next s
  | some p =>
    if !s.reached p.term p.period then .next s
    else
      let s := s.setArmed t none
      .next (match t with
        | .mortise => s.switchMort
        | .drawer => s.switchDrawers
        | .object => s.switchObjects
        | .roll => s.switchRoll)

/-! Registers (R396). -/

/-- The registers of a probe, GO of ROLL_PROBE_CTRL. -/
def State.probeRoll (s : State) : State :=
  let slot := bits (s.rd Reg.rollProbeSlot).toNat 14 0
  s.withRoll { s.roll with probe := some (s.rollEntry slot, cfgValid (s.rollCfg slot)) }

/-- ROLL_PROBE. -/
def execRollProbe (h : HostPort) (s : State) : Host.Outcome State Fault Refusal :=
  .next (s.hostWrite h Reg.rollProbeCtrl State.probeRoll)

/-- The roll's counters. -/
def State.clearRoll (s : State) : State :=
  s.zeroRegs [Reg.rollOps, Reg.rollStale, Reg.rollReturned, Reg.rollClaims, Reg.rollBound, Reg.rollEmpty, Reg.rollEventDrop,
    Reg.rollCacheMiss]

/-- ROLL_CLR_COUNTERS. -/
def execRollClrCounters (h : HostPort) (s : State) : Host.Outcome State Fault Refusal :=
  .next (s.hostWrite h Reg.rollCtrl State.clearRoll)

end Sys2Proof.Machine
end

