-- ==== Sys2Proof/Machine/HostRows.lean ====
section
/-!
DEFINITION. The meanings of the host ports' commands beyond the rings: two hosts (14 R476 to R480), ring launches and fabric requests
(R470, R473), maintenance requests (16 R520), migrations and discards (06 R210, 07 R248, 09 R314), the BAR4 window (14 R455 to R458)
and the port reset (17 R527).
-/
namespace Sys2Proof.Machine

/-! Two hosts. -/

/-- Stop the migrations and discards of a set at the next plank (R476). -/
def State.stopMoves (s : State) (set : HostPort) : State :=
  let moves := (s.host set).flight.filter (fun d => d.started && (dType d == 0x18 || dType d == 0x19))
  moves.foldl (fun s d =>
    let mine := fun (a : Activity) => a.desc == some (set, d.id)
    let n := match (s.fault.running.find? mine) with
      | some a => s.activityCount a
      | none => d.progress
    let s := s.withFault { s.fault with running := s.fault.running.filter (fun a => !mine a),
                                        waiting := s.fault.waiting.filter (fun a => !mine a) }
    s.done set d St.timeout n) s

/-- A ring set begins to quiesce (R476 steps 1 to 3). -/
def State.quiesce (s : State) (set : HostPort) : State :=
  (s.withHost set { s.host set with ring := .quiescing }).stopMoves set

/-- Both ring sets. -/
def bothSets : List HostPort := [.a, .b]

/-- A host port goes down (R476): the sets that its host owns quiesce, BAR4 completions are discarded, the manager's role ends (R501). -/
def State.portDown (s : State) (h : HostPort) : State :=
  let s := s.raiseHost h 11 0 0 0 0
  let s := postEventTo 4 s (other h) (eventEntry s.now 0x04 0 (hostNum h) [])
  let owned := bothSets.filter (fun g => ((s.host g).ring == .active || (s.host g).ring == .adopted) && s.setOwner g == h)
  let s := owned.foldl (fun s g => s.quiesce g) s
  (s.withHost h { s.host h with dlUp := false, bar4 := [], fm := FmSession.reset }).refreshHrdy

/-- HOST_PORT_DOWN (R476): the data link goes down, or the function enters D3hot. -/
def execHostPortDown (h : HostPort) (s : State) : Host.Outcome State Fault Refusal :=
  if !s.powered || !(s.host h).dlUp then .next s else .next (s.portDown h)

/-- PORT_RESET (R527, R531, R538): the port's function is reset, its ring set quiesces, a recovery claim by it is released. -/
def execPortReset (h : HostPort) (kind : PortResetKind) (s : State) : Host.Outcome State Fault Refusal :=
  if !s.powered then .next s
  else
    let s := s.portDown h
    let s := s.withHost h { s.host h with perst := kind == .perst, d3hot := false }
    let s := if kind == .perst && s.test.hlb.port == h then s.withTest { s.test with hlb := { s.test.hlb with running := false } } else s
    let s := if s.boot.claim == some h then s.withBoot { s.boot with claim := none } else s
    let mine := fun (p : Nat × Option Word) => p.1 % 2 != hostNum h
    let s := (s.withHold (s.hold.filter mine)).withLatch (s.latch.filter mine)
    .next (s.wr Reg.resetCause (setBit (s.rd Reg.resetCause) 5))

/-- Host h adopts the other host's set (R478): enabled rings restart, held completions first. -/
def State.adopt (s : State) (h : HostPort) : State :=
  let set := other h
  let s := s.withHost set { s.host set with ring := .adopted }
  let n := hostNum set
  let rings : List RingReg := (List.range 64).map (fun r => ⟨set, 0, r, 2⟩) ++ (List.range 64).map (fun r => ⟨set, 1, r, 2⟩) ++ [⟨set, 2, 0, 2⟩]
  let s := (rings.filter (fun r => ringEnabled (s.rd (r.base + 8)))).foldl (fun s r => s.restartRing r) s
  let s := ((s.flushAll set).refreshHrdy).raiseHost h 12 0x02 0 0 0
  s.postEvent 0x05 0 (1 - n) []

/-- TAKEOVER with GIVE, a descriptor's kind. -/
def isTakeover (give : Bool) (d : Desc) : Bool := dType d == 0x02 && (dField d 16 1 % 2 == 1) == give

/-- TAKEOVER (R478). -/
def execTakeover (h : HostPort) (q : RingId) (s : State) : Host.Outcome State Fault Refusal :=
  .next (s.withDesc h q (isTakeover false) (fun s d =>
    let o := s.host (other h)
    if (s.host h).ring == .adopted || o.ring == .adopted then s.done h d St.denied 0
    else if o.ring == .quiesced then (s.adopt h).done h d St.ok 0
    else if o.ring == .active && o.dlUp && !o.perst && !o.d3hot then s.done h d St.denied 0
    else s))

/-- TAKEOVER with GIVE (R479): the adopted set quiesces; the descriptor completes when it has. -/
def execTakeoverGive (h : HostPort) (q : RingId) (s : State) : Host.Outcome State Fault Refusal :=
  .next (s.withDesc h q (isTakeover true) (fun s d =>
    if (s.host (other h)).ring != .adopted || (s.host h).ring == .adopted then s.done h d St.denied 0
    else (s.quiesce (other h)).refreshHrdy))

/-- A started TAKEOVER that waits. -/
def State.waitingTakeover (s : State) (h : HostPort) (give : Bool) : Option Desc :=
  (s.host h).flight.find? (fun d => d.started && isTakeover give d)

/-- TAKEOVER_WAIT_TIMEOUT (R478): the other set is not QUIESCED within WAIT periods. -/
def execTakeoverWaitTimeout (h : HostPort) (s : State) : Host.Outcome State Fault Refusal :=
  match s.waitingTakeover h false with
  | none => .next s
  | some d => if s.bell.bounds < d.startedAt + dField d 20 4 then .next s else .next (s.done h d St.timeout 0)

/-- RINGS_QUIESCED (R476, R478, R479): the last fetched descriptor of a quiescing set has completed. A waiting TAKEOVER adopts the
set; a waiting GIVE completes. -/
def execRingsQuiesced (h : HostPort) (s : State) : Host.Outcome State Fault Refusal :=
  let x := s.host h
  if x.ring != .quiescing || !x.flight.isEmpty then .next s
  else
    let s := s.withHost h { x with ring := .quiesced }
    let o := other h
    match s.waitingTakeover o true with
    | some d => .next (((s.raiseHost o 12 0x02 0 0 0).postEvent 0x05 0 (hostNum h) []).done o d St.ok 0)
    | none =>
      match s.waitingTakeover o false with
      | some d => .next ((s.adopt o).done o d St.ok 0)
      | none => .next s

/-! Requests of descriptors. -/

/-- SRC_UNIT of the requests of a set's descriptors (R478). -/
def State.hostUnit (s : State) (set : HostPort) : BitVec 10 := BitVec.ofNat 10 (640 + hostNum (s.setOwner set))

/-- A class register value of which 0 to 3 act as 4 (R482). -/
def bestClass (v : Nat) : Cls := if h : v % 8 < 8 then (if v % 8 < 4 then 4 else ⟨v % 8, h⟩) else 4

/-- RING_CLASS and BAR4_CLASS of a host. -/
def State.ringClass (s : State) (h : HostPort) : Cls := bestClass (bits (s.rd (Reg.hostCfg (hostNum h))).toNat 6 4)
def State.bar4Class (s : State) (h : HostPort) : Cls := bestClass (bits (s.rd (Reg.hostCfg (hostNum h))).toNat 2 0)

/-- RING_LAUNCH (R470, R134): the LAUNCH goes to its switch; its completion ends the descriptor. -/
def execRingLaunch (h : HostPort) (q : RingId) (s : State) : Host.Outcome State Fault Refusal :=
  .next (s.withDesc h q (isType 0x28) (fun s d =>
    let b := dField d 16 2
    if !(b < 168 || b == 0xFFFF) || 4096 ≤ dField d 18 2 then s.done h d St.rsvdSet 0
    else
      let hdr : HdrFields := { addr := dAddr d 24, seq := 0, aux := BitVec.ofNat 16 b, dest := BitVec.ofNat 12 (dField d 18 2),
                               srcSwitch := s.swNum, srcUnit := s.hostUnit h, tag := 0, job := dJob d, opcode := 0x38 }
      s.originate (s.hostUnit h) 0 (s.ringClass (s.setOwner h)) hdr.pack [] (.desc h d.id)))

/-- FABRIC (R473): one ROLL_OP, ORDER or NET_OP. -/
def execFabric (h : HostPort) (q : RingId) (data : Bytes) (s : State) : Host.Outcome State Fault Refusal :=
  .next (s.withDesc h q (isType 0x29) (fun s d =>
    let op := dField d 16 1
    if !(op == 0x40 || op == 0x50 || op == 0x58) || 4096 ≤ dField d 18 2 || 1024 < dField d 22 2 || dField d 32 8 % 64 != 0
        || dField d 40 8 % 64 != 0 then s.done h d St.rsvdSet 0
    else
      let hdr : HdrFields := { addr := dAddr d 24, seq := 0, aux := BitVec.ofNat 16 (dField d 20 2), len := dField d 22 2,
                               dest := BitVec.ofNat 12 (dField d 18 2), srcSwitch := s.swNum, srcUnit := s.hostUnit h, tag := 0,
                               job := dJob d, scope := BitVec.ofNat 2 (dField d 17 1 / 4), opcode := BitVec.ofNat 8 op,
                               ak := dField d 17 1 % 2 == 1 }
      s.originate (s.hostUnit h) 0 (s.ringClass (s.setOwner h)) hdr.pack (byteRun data 0 (dField d 22 2)) (.desc h d.id)))

/-- The completion of a descriptor's request (R473, R353). -/
def State.descSettled (s : State) (set : HostPort) (id : Nat) (st : Status) (data : Bytes) : State :=
  match (s.host set).flight.find? (fun d => d.id == id) with
  | none => s
  | some d =>
    if dType d == 0x29 then
      let out := data.take (dField d 48 2)
      let s := if out.isEmpty then s else s.emit (.hostWrite (s.setOwner set) (dAddr d 40) out)
      s.done set d st data.length
    else s.done set d st 0

/-! Maintenance requests (R519, R520). -/

/-- UNIT_KIND fits an ACTIVITY, the unit exists, and ARG is 0 where it is not used. -/
def maintFits (act kind unit arg : Nat) : Bool :=
  let exists_ := if kind = 1 then decide (unit < 192) else if kind = 2 then decide (unit < 8) else if kind = 3 then decide (unit < 32)
    else if kind = 4 then decide (unit < 168) else if kind = 5 then decide (unit < 36) else kind == 7 && unit == 0
  exists_ && (match act with
    | 1 => kind == 2 && arg == 0
    | 2 | 3 => kind == 3 && arg == 0
    | 4 | 8 => kind == 1 && arg == 0
    | 6 => kind == 7 && arg == 0
    | 7 => if kind = 1 then arg % 4 ≤ 1 && arg % 65536 / 4 == 0 && decide (arg < 2 ^ 32) else if kind = 2 then decide (arg ≤ 2)
      else if kind = 4 then decide (arg ≤ 3) else kind == 5 && arg == 0
    | _ => false)

/-- MAINT_REQ (R520). -/
def execMaintReq (h : HostPort) (q : RingId) (s : State) : Host.Outcome State Fault Refusal :=
  .next (s.withDesc h q (isType 0x30) (fun s d =>
    let act := dField d 16 1
    let kind := dField d 17 1
    let unit := dField d 18 2
    if hk : act < 10 ∧ kind < 16 then
      if !maintFits act kind unit (dField d 24 8) then s.done h d St.rsvdSet 0
      else
        let a : Activity := { cls := ⟨act, hk.1⟩, kind := ⟨kind, hk.2⟩, unit := unit, arg := dAddr d 24, desc := none,
                              at_ := s.bell.bounds, pending := false, askedAt := 0, result := none, progress := 0 }
        if kind == 3 && !((s.tray unit).state == .live || (s.tray unit).state == .full) then s.done h d St.denied 0
        else if act == 7 && kind == 1 && dField d 24 1 % 4 == 0 && !s.unitFenced a then s.done h d St.rsvdSet 0
        else if s.recessRefused a then (s.raiseFault 1 unit 0x0A).done h d St.noRecess 0
        else s.requestActivity ⟨act, hk.1⟩ ⟨kind, hk.2⟩ unit (dAddr d 24) (some (h, d.id))
    else s.done h d St.rsvdSet 0))

/-! Migrations and discards. -/

/-- POOL_MIGRATE (R210): the planks of an object move as a MIGRATE_BULK activity. -/
def execPoolMigrate (h : HostPort) (q : RingId) (s : State) : Host.Outcome State Fault Refusal :=
  .next (s.withDesc h q (isType 0x18) (fun s d =>
    let n := dField d 16 2
    let e := s.objTable.get 0 n
    if 16384 ≤ n || 1 < dField d 18 1 || dField d 19 1 != 0 then s.done h d St.rsvdSet 0
    else if objSize e == 0 || s.pool.inert.get false n then s.done h d St.denied 0
    else if objSize e / plankBytes < dField d 20 4 + dField d 24 4 then s.done h d St.rsvdSet 0
    else s.requestActivity 5 8 n 0 (some (h, d.id))))

/-- Discard planks in address order, up to the first refusal or the first plank that moves (R248). -/
def discardRun : Nat → State → HostPort → Desc → State
  | 0, s, h, d => s.done h d St.ok d.progress
  | fuel + 1, s, h, d =>
    if d.progress = dField d 20 4 then s.done h d St.ok d.progress
    else
      match s.mortise none (dJob d) false (dAddr d 24 + BitVec.ofNat 64 (d.progress * plankBytes)) plankBytes 2 with
      | .refuse st => (s.countRefusal ⟨0, [], 0⟩ st).done h d st d.progress
      | .pass _ o _ =>
        if s.region o != some .tiered then s.done h d St.denied d.progress
        else if (s.mapEntry (o / plankBytes)).state == .moving then s.setDesc h d
        else discardRun fuel (s.discardPlank (o / plankBytes)) h { d with progress := d.progress + 1 }

/-- PLANK_DISCARD (R248): one that waits for a plank goes on. -/
def execPlankDiscard (h : HostPort) (q : RingId) (s : State) : Host.Outcome State Fault Refusal :=
  match (s.sqInFlight h q).find? (fun d => d.started && dType d == 0x19) with
  | some d => .next (discardRun (dField d 20 4 + 1) s h d)
  | none =>
    .next (s.withDesc h q (isType 0x19) (fun s d =>
      if dField d 24 8 % plankBytes != 0 then s.done h d St.rsvdSet 0 else discardRun (dField d 20 4 + 1) s h d))

/-- POISON_CLEAR (R314). -/
def execPoisonClear (h : HostPort) (q : RingId) (s : State) : Host.Outcome State Fault Refusal :=
  .next (s.withDesc h q (isType 0x1A) (fun s d =>
    let a := dAddr d 24
    if a.extractLsb' 60 4 != 0 || a.extractLsb' 48 12 != s.swNum || a.extractLsb' 0 7 != 0 then s.done h d St.rsvdSet 0
    else
      let line := (a.extractLsb' 0 48).toNat / 128
      let s := if (s.dirEntry line).state == .poisoned then s.setDir line DirEntry.reset else s
      s.done h d St.ok 0))

/-! BAR4 (R455 to R458). -/

/-- From ROM_START until FW_START the window is the recovery staging buffer (R531). -/
def State.staging (s : State) : Bool := decide (1 ≤ s.boot.state.code) && decide (s.boot.state.code ≤ 5)

/-- A host loop-back at depth 2 serves BAR4 from the echo buffer (R543). -/
def State.echoes (s : State) (h : HostPort) : Bool := s.test.hlb.running && s.test.hlb.port == h && s.test.hlb.depth == 2

/-- Window of an offset: VALID, DEST_SWITCH, job-local address (R455); none is valid from FW_START until RUN (R532), nor after a failed
start. -/
def State.window (s : State) (h : HostPort) (o : Nat) : Option (BitVec 12 × Dword) :=
  let w := o / 2 ^ 30 % 64
  let lo := (s.rd (Reg.hostBar4WinLo (hostNum h) w)).toNat
  let hi := (s.rd (Reg.hostBar4WinHi (hostNum h) w)).toNat
  let opened := s.boot.state == .run || s.boot.state == .shutdown
  if lo % 2 = 1 && opened then some (BitVec.ofNat 12 (bits lo 17 6), BitVec.ofNat 64 (hi * 2 ^ 32 + bits lo 31 30 * 2 ^ 30 + o % 2 ^ 30)) else none

/-- The line-sized pieces of an access: offset and length (R456). -/
def pieces (o n : Nat) : List (Nat × Nat) :=
  (List.range ((o + n + 127) / 128 - o / 128)).map (fun i =>
    let lo := max o ((o / 128 + i) * 128)
    (lo, min (o + n) ((o / 128 + i + 1) * 128) - lo))

/-- An access falls in a window with VALID = 0 (R455). -/
def State.unmapped (s : State) (h : HostPort) (o : Nat) : State := s.raiseHost h 6 0 0 0 (BitVec.ofNat 64 o)

/-- Send request `idx` of BAR4 access `id`. -/
def State.bar4Request (s : State) (h : HostPort) (id idx : Nat) (dest : BitVec 12) (addr : Dword) (op : BitVec 8) (scope : BitVec 2)
    (payload : Bytes) : State :=
  let unit : BitVec 10 := BitVec.ofNat 10 (640 + hostNum h)
  let hdr : HdrFields := { addr := addr, seq := 0, len := payload.length, dest := dest, srcSwitch := s.swNum, srcUnit := unit, tag := 0,
                           job := (s.rd (Reg.hostCfg (hostNum h))).extractLsb' 8 12, scope := scope, opcode := op }
  s.originate unit 0 (s.bar4Class h) hdr.pack payload (.bar4 h id idx)

/-- Take a BAR4 access into flight. -/
def State.addBar4 (s : State) (h : HostPort) (kind : Bar4Kind) (o len n : Nat) (tag : BitVec 16) : State :=
  let x := s.host h
  let a : Bar4 := { id := x.nextBar4, kind := kind, offset := BitVec.ofNat 64 o, tag := tag, len := len, open_ := n,
                    results := List.replicate n none }
  s.withHost h { x with bar4 := x.bar4 ++ [a], nextBar4 := x.nextBar4 + 1 }

/-- BAR4_READ (R455, R456). -/
def execBar4Read (h : HostPort) (addr : Dword) (len : Nat) (tag : BitVec 16) (s : State) : Host.Outcome State Fault Refusal :=
  let o := addr.toNat % 2 ^ 36
  if !s.answers h then .next s
  else
    let s := s.touch h
    if s.staging then
      (if o < 0x1000000 then .next (s.emit (.bar4 h tag false false (s.boot.staging.getRun 0 o len))) else .next (s.emit (.unsupported h)))
    else if s.boot.state == .off then .next (s.emit (.unsupported h))
    else if s.echoes h then
      .next (s.emit (.bar4 h tag false false ((List.range len).map (fun i => s.test.hostEcho.get 0 ((o + i) % 65536)))))
    else
      let ps := pieces o len
      if ps.any (fun p => (s.window h p.1).isNone) then .next ((s.unmapped h o).emit (.unsupported h))
      else
        let id := (s.host h).nextBar4
        let s := s.addBar4 h .read o len ps.length tag
        .next (((List.range ps.length).zip ps).foldl (fun s p =>
          match s.window h p.2.1 with
          | some (dest, a) => s.bar4Request h id p.1 dest (lineOfAddr a) 0x01 2 []
          | none => s) s)

/-- BAR4_WRITE (R455, R456): bytes of `data` whose enable is clear are not written. -/
def execBar4Write (h : HostPort) (addr : Dword) (data : Bytes) (be : List Bool) (s : State) : Host.Outcome State Fault Refusal :=
  let o := addr.toNat % 2 ^ 36
  let on := fun (i : Nat) => be.getD i true
  let put := fun (t : Tab Byte) (m : Nat) =>
    (List.range data.length).foldl (fun (t : Tab Byte) i => if on i then t.put 0 ((o + i) % m) (data.getD i 0) else t) t
  if !s.answers h || s.boot.state == .off then .next s
  else
    let s := s.touch h
    if s.staging then
      let mine := match s.boot.claim with
        | some c => c == h
        | none => true
      if mine && o + data.length ≤ 0x1000000 then .next (s.withBoot { s.boot with staging := put s.boot.staging 0x1000000 }) else .next s
    else if s.echoes h then .next (s.withTest { s.test with hostEcho := put s.test.hostEcho 65536 })
    else
      let ps := pieces o data.length
      if ps.any (fun p => (s.window h p.1).isNone) then .next (s.unmapped h o)
      else
        let id := (s.host h).nextBar4
        let s := (s.addBar4 h .write o data.length ps.length 0).bump (Reg.hostBar4Writes (hostNum h))
        .next (((List.range ps.length).zip ps).foldl (fun s p =>
          match s.window h p.2.1 with
          | none => s
          | some (dest, a) =>
            let first := p.2.1 % 128
            let inside := fun (i : Nat) => decide (first ≤ i) && decide (i < first + p.2.2) && on (p.2.1 - o + (i - first))
            let line := (List.range 128).map (fun i => if inside i then data.getD (p.2.1 - o + (i - first)) 0 else (0 : Byte))
            let mask := (List.range 16).map (fun b =>
              (List.range 8).foldl (fun (m : Byte) j => if inside (8 * b + j) then setBit m j else m) 0)
            if mask.all (fun b => b == 0xFF) then s.bar4Request h id p.1 dest (lineOfAddr a) 0x02 0 line
            else s.bar4Request h id p.1 dest (lineOfAddr a) 0x03 0 (mask ++ line)) s)

/-- BAR4_ATOMIC (R456): FetchAdd, Swap, CAS; an operand of another size is not supported (R452). -/
def execBar4Atomic (h : HostPort) (addr : Dword) (op : Fin 3) (data : Bytes) (tag : BitVec 16) (s : State) :
    Host.Outcome State Fault Refusal :=
  let o := addr.toNat % 2 ^ 36
  if !s.answers h then .next s
  else
    let s := s.touch h
    let code : BitVec 8 := if op = 0 then 0x10 else if op = 1 then 0x13 else 0x14
    if s.staging || s.boot.state == .off || data.length != (if op = 2 then 16 else 8) then .next (s.emit (.unsupported h))
    else if s.echoes h then
      let at_ := o % 65536
      let old := s.test.hostEcho.getRun 0 at_ 8
      let hdr : HdrFields := { addr := addr, seq := 0, len := data.length, dest := 0, srcSwitch := 0, srcUnit := 0, tag := 0, job := 0,
                               opcode := code }
      let v := atomicNew ⟨hdr.pack, data, 0⟩ 8 (leNat old) (field data 0 8) (field data 8 8)
      let s := s.withTest { s.test with hostEcho := Tab.putRun 0 s.test.hostEcho at_ (leBytes 8 v) }
      .next (s.emit (.bar4 h tag false false old))
    else
      match s.window h o with
      | none => .next ((s.unmapped h o).emit (.unsupported h))
      | some (dest, a) =>
        let id := (s.host h).nextBar4
        .next ((s.addBar4 h .atomic o 8 1 tag).bar4Request h id 0 dest a code 0 data)

/-- The completion of a request of a BAR4 access; a write that fails is counted and captured (R457). -/
def State.bar4Settled (s : State) (h : HostPort) (id idx : Nat) (st : Status) (data : Bytes) : State :=
  let x := s.host h
  match x.bar4.find? (fun a => a.id == id) with
  | none => s
  | some a =>
    let a' := { a with open_ := a.open_ - 1, results := a.results.set idx (some (st, data)) }
    let s := s.withHost h { x with bar4 := x.bar4.map (fun b => if b.id == id then a' else b) }
    if a.kind == .write && st != St.ok then s.raiseHost h 4 0 st.toNat 0 a.offset else s

/-- An access can complete: its requests have, and for a read or an atomic every earlier write has (R263). -/
def bar4Ready (l : List Bar4) (a : Bar4) : Bool :=
  a.open_ == 0 && (a.kind == .write || (l.takeWhile (fun b => b.id != a.id)).all (fun b => b.kind != .write || b.open_ == 0))

/-- First status in line order that is neither OK nor SCOPE (R457). -/
def bar4Status (a : Bar4) : Status :=
  ((a.results.filterMap (fun r => r.map (·.1))).find? (fun st => st != St.ok && st != St.scope)).getD St.ok

/-- The data of an access: of each line the bytes that it asked for. -/
def bar4Data (a : Bar4) : Bytes :=
  if a.kind == .atomic then byteRun (((a.results.head?.join).map (·.2)).getD []) 0 8
  else
    (((pieces a.offset.toNat a.len).zip a.results).map (fun p =>
      byteRun ((p.2.map (·.2)).getD []) (p.1.1 % 128) p.1.2)).flatten

/-- BAR4_COMPLETE (R457): the first access of a port that can complete. -/
def execBar4Complete (h : HostPort) (s : State) : Host.Outcome State Fault Refusal :=
  let x := s.host h
  match x.bar4.find? (bar4Ready x.bar4) with
  | none => .next s
  | some a =>
    let s := s.withHost h { x with bar4 := x.bar4.filter (fun b => b.id != a.id) }
    if a.kind == .write then .next s
    else
      let s := if a.kind == .read then s.bump (Reg.hostBar4Reads (hostNum h)) else s
      let st := bar4Status a
      if delivers st then .next (s.emit (.bar4 h a.tag false (st == St.poison) (bar4Data a)))
      else .next ((s.raiseHost h 5 0 st.toNat 0 a.offset).emit (.bar4 h a.tag true false []))

end Sys2Proof.Machine
end

