-- ==== Sys2Proof/Machine/Operators.lean ====
section
/-!
DEFINITION. The operators of the benches (10 R336 to R351): descriptor fields, the descriptor check, what each operator computes, and
its cycle count (R361, R362).
-/
namespace Sys2Proof.Machine

/-! Descriptor fields (R336, R337). -/

def odOp (d : Bytes) : Nat := field d 1 1
def odRound (d : Bytes) : Nat := field d 2 1 % 4
def odSat (d : Bytes) : Bool := field d 2 1 / 4 % 2 == 1
def odClass (d : Bytes) : Cls := ⟨field d 3 1 % 8, Nat.mod_lt _ (by decide)⟩
def odJob (d : Bytes) : BitVec 12 := BitVec.ofNat 12 (field d 4 2)
def odKind (d : Bytes) : Nat := field d 6 1
def odRing (d : Bytes) : RingId := ⟨field d 7 1 % 64, Nat.mod_lt _ (by decide)⟩
def odHost (d : Bytes) : HostPort := if field d 7 1 / 64 % 2 = 1 then .b else .a
def odSeed (d : Bytes) : Dword := BitVec.ofNat 64 (field d 8 8)
def odArg (d : Bytes) : Nat := field d 16 8
def odAcq (d : Bytes) : Bool := field d 64 1 % 2 == 1
def odRel (d : Bytes) : Bool := field d 64 1 / 2 % 2 == 1
def odFlagOp (d : Bytes) : Nat := field d 64 1 / 4 % 2
def odAcqCmp (d : Bytes) : Bool := field d 64 1 / 8 % 2 == 1
def odAcqScope (d : Bytes) : BitVec 2 := BitVec.ofNat 2 (field d 64 1 / 16)
def odRelScope (d : Bytes) : BitVec 2 := BitVec.ofNat 2 (field d 64 1 / 64)
def odWait (d : Bytes) : Nat := field d 66 2
def odRangeLines (d : Bytes) : Nat := field d 68 4
def odAcqFlag (d : Bytes) : Nat := field d 72 8
def odAcqValue (d : Bytes) : Nat := field d 80 8
def odRangeBase (d : Bytes) : Nat := field d 88 8
def odRelFlag (d : Bytes) : Nat := field d 96 8
def odRelValue (d : Bytes) : Nat := field d 104 8

/-- Parameter bytes, from byte 320. -/
def par (d : Bytes) (i n : Nat) : Nat := field d (320 + i) n
def parF (d : Bytes) (i : Nat) : F32 := BitVec.ofNat 32 (par d i 4)

/-- Reserved fields of the header and of the sync block (R336, R337), which network unit descriptors share but for
CONSUME (R400). -/
def headReserved (net : Bool) (d : Bytes) : Bool :=
  decide (4 ≤ field d 0 1) || decide (8 ≤ field d 3 1) || decide (16 ≤ field d 5 1) || decide (2 < field d 6 1)
    || (field d 6 1 == 1 && decide (128 ≤ field d 7 1)) || (field d 6 1 != 1 && field d 7 1 != 0)
    || (field d 6 1 == 0 && odArg d != 0) || (field d 6 1 == 2 && odArg d % 8 != 0) || decide ((if net then 2 else 1) ≤ field d 65 1) || field d 112 16 != 0
    || (odAcq d && (odAcqFlag d % 8 != 0 || odRangeBase d % 128 != 0)) || (odRel d && odRelFlag d % 8 != 0)

/-! The check of R339. -/

/-- Bytes of the parameter block that an operator names, with their bits (R340). -/
def parMask (op : Nat) : List (Nat × Nat × Nat) :=
  match op with
  | 1 => [(0, 4, 0xFF), (4, 1, 0xFF)]
  | 2 => [(0, 16, 0xFF), (16, 1, 0x03), (17, 2, 0xFF), (19, 1, 0x03)]
  | 3 => [(0, 4, 0xFF)]
  | 4 => [(0, 1, 0xFF), (1, 1, 0x01)]
  | 5 => [(0, 1, 0xFF), (4, 4, 0xFF), (8, 1, 0x03)]
  | 6 => [(0, 2, 0xFF)]
  | 7 => [(0, 8, 0xFF), (8, 1, 0x01)]
  | 9 => [(0, 3, 0xFF), (4, 4, 0xFF)]
  | 10 => [(0, 2, 0xFF), (2, 1, 0x01)]
  | _ => []

/-- A parameter bit that the operator does not name is set. -/
def parReserved (d : Bytes) : Bool :=
  let ms := parMask (odOp d)
  (List.range 64).any (fun i =>
    let m := (ms.find? (fun t => t.1 ≤ i && i < t.1 + t.2.1)).map (·.2.2)
    (BitVec.ofNat 8 (par d i 1)) &&& ~~~(BitVec.ofNat 8 (m.getD 0)) != 0)

/-- Operands that an operator requires, and those that may be there (R340). -/
def opUses (op : Nat) : List Nat × List Nat :=
  match op with
  | 1 => ([0, 1, 4], [2])
  | 2 => ([0, 1, 4, 5], [2, 3])
  | 3 => ([0, 1, 4], [])
  | 4 => ([0, 1, 4, 5], [])
  | 5 => ([0, 4], [1])
  | 6 => ([0, 4], [])
  | 7 => ([0, 4], [5])
  | 8 => ([0, 4], [])
  | 9 => ([0], [])
  | 10 => ([0, 1, 4], [2])
  | _ => ([], [])

/-- A format of the MAC array (R333). -/
def macFmt (f : Nat) : Bool := fmtExists f && f != 11

/-- A present operand on its own: format, dimensions, layout, alignment, place (R323, R325, R338, R339). -/
def Operand.fits (o : Operand) (bare output : Bool) : Bool :=
  fmtExists o.fmt && decide (1 ≤ o.rows) && decide (1 ≤ o.cols)
    && (!o.linear || o.sRows == 1 || decide (o.dataBytes ≤ 32768))
    && (blockScaled o.fmt || o.scaleAddr == 0)
    && (bare || !blockScaled o.fmt || o.sCols % 32 == 0)
    && o.addr % (if o.kind == .pool && !o.linear then 32768 else 128) == 0
    && (o.kind == .pool || (decide (o.addr + o.dataBytes ≤ 2 ^ 22)
        && (bare || !blockScaled o.fmt || decide (o.scaleAddr + o.scaleBytes ≤ 2 ^ 22))))
    && !(output && o.kind == .gather)

/-- A block-scaled operand runs its contraction along its stored rows (R325). -/
def contracts (o : Operand) (alongCols : Bool) : Bool := !blockScaled o.fmt || (if alongCols then !o.trans else o.trans)

/-- Dimensions of an operand. -/
def Operand.is (o : Operand) (r c : Nat) : Bool := o.rows == r && o.cols == c

/-- ELTWISE functions of two operands (R346). -/
def eltBinary (fn : Nat) : Bool := decide (1 ≤ fn) && (decide (fn ≤ 5) || fn == 7)
def eltUnary (fn : Nat) : Bool := fn == 6 || (decide (0x10 ≤ fn) && decide (fn ≤ 0x16)) || fn == 0x20

/-- Limits of an operator on its operands and parameters (R340 to R351), all required operands being there. -/
def opLimits (d : Bytes) : Bool :=
  let o := fun (i : Nat) => (operandOf d i).getD ⟨.store, 0, 0, 0, false, false, 0, 0⟩
  let has := fun (i : Nat) => (operandOf d i).isSome
  let a := o 0
  let b := o 1
  let c := o 2
  let e := o 4
  let f := o 5
  match odOp d with
  | 1 =>
    a.cols == b.rows && e.is a.rows b.cols && decide (a.rows ≤ 65536) && decide (b.cols ≤ 65536) && decide (a.cols ≤ 65536)
      && macFmt a.fmt && macFmt b.fmt && e.fmt != 10 && e.fmt != 9 && (!has 2 || (c.fmt == 1 && c.is 1 b.cols))
      && contracts a true && contracts b false && decide (par d 4 1 ≤ 2)
  | 2 =>
    let packed := par d 19 1 / 2 % 2 == 1
    (a.cols == 64 || a.cols == 128 || a.cols == 256) && decide (a.rows ≤ 256) && b.cols == (if packed then 2 * a.cols else a.cols)
      && b.rows % 128 == 0 && decide (b.rows ≤ 65536) && has 2 == !packed && macFmt a.fmt && macFmt b.fmt
      && contracts a true && contracts b true && (!packed || contracts b false)
      && (packed || (c.is b.rows a.cols && macFmt c.fmt && contracts c false))
      && (!has 3 || ((o 3).fmt == 1 && (o 3).is a.rows a.cols))
      && e.is a.rows a.cols && (e.fmt == 1 || e.fmt == 2) && f.is a.rows 2 && f.fmt == 1
      && decide (1 ≤ par d 17 1) && decide (par d 17 1 ≤ 16) && (par d 18 1 == 4 || par d 18 1 == 5 || par d 18 1 == 2)
  | 3 =>
    a.cols == b.cols && decide (a.rows ≤ 256) && decide (b.rows ≤ 65536) && macFmt a.fmt && macFmt b.fmt && contracts a true
      && contracts b true && e.is 1 b.rows && e.fmt == 1
  | 4 =>
    let n := par d 0 1
    decide (2 ≤ n) && decide (n ≤ 16) && a.rows % n == 0 && a.fmt == 1 && b.fmt == 1 && b.is a.rows 2 && e.is (a.rows / n) a.cols
      && (e.fmt == 1 || e.fmt == 2) && f.is (a.rows / n) 2 && f.fmt == 1
  | 5 =>
    let fn := par d 0 1
    let bScalar := par d 8 1 % 2 == 1
    let bRow := par d 8 1 / 2 == 1
    e.is a.rows a.cols &&
      (if eltBinary fn then
        (if bScalar then !bRow && !has 1 else has 1 && b.is (if bRow then 1 else a.rows) a.cols)
      else eltUnary fn && !has 1 && !bScalar && !bRow)
  | 6 => decide (par d 0 1 ≤ 3) && decide (par d 1 1 ≤ 1) && e.fmt == 1
      && (if par d 1 1 = 0 then e.is 1 a.cols else e.is a.rows 1)
  | 7 =>
    let k := par d 0 4
    a.rows == 1 && decide (a.cols ≤ 1048576) && a.fmt == 1 && decide (k ≤ 4096) && e.is 1 k && e.fmt == 11
      && (!has 5 || (f.is 1 k && f.fmt == 1))
  | 8 => e.is a.rows a.cols
  | 9 =>
    (a.fmt == 2 || a.fmt == 3 || a.fmt == 4 || a.fmt == 5 || a.fmt == 9 || a.fmt == 1) && !a.linear && !a.trans && a.tiles == par d 4 4
      && (decide (par d 1 1 ≤ 3) || par d 1 1 == 0xFF) && decide (1 ≤ par d 2 1) && decide (par d 2 1 ≤ 64)
  | 10 =>
    let g := par d 0 2
    let zero := par d 2 1 % 2 == 1
    (g == 32 || g == 64 || g == 128) && (a.fmt == 8 || a.fmt == 10 || a.fmt == 9) && b.fmt == 2 && b.is a.rows (ceilDiv a.cols g)
      && has 2 == zero && (!zero || (c.fmt == 9 && c.is a.rows (ceilDiv a.cols g))) && e.is a.rows a.cols
      && (e.fmt == 1 || e.fmt == 2 || e.fmt == 3 || e.fmt == 4)
  | _ => false

/-- A is read without block scales (R350). -/
def bareOperand (d : Bytes) (i : Nat) : Bool := odOp d == 10 && i == 0

/-- Byte ranges of an operand, data and scales. -/
def Operand.ranges (o : Operand) (bare : Bool) : List (Nat × Nat) :=
  (o.addr, o.dataBytes) :: (if bare || !blockScaled o.fmt then [] else [(o.scaleAddr, o.scaleBytes)])

/-- An output overlaps an input where the operator does not allow it (R339, R340). -/
def outputOverlaps (d : Bytes) : Bool :=
  [4, 5].any (fun out => [0, 1, 2, 3].any (fun i =>
    match operandOf d out, operandOf d i with
    | some x, some y =>
      let rx := x.ranges false
      let ry := y.ranges (bareOperand d i)
      (x.kind == .pool) == (y.kind == .pool) && !(odOp d == 5 && out == 4 && i == 0 && rx == ry)
        && rx.any (fun p => ry.any (fun q => decide (p.1 < q.1 + q.2) && decide (q.1 < p.1 + p.2)))
    | _, _ => false))

/-- The descriptor check (R339): FORMAT, then RSVD_SET; none: it passes. -/
def opRefusal (d : Bytes) : Option (BitVec 8) :=
  let uses := opUses (odOp d)
  let slots := [0, 1, 2, 3, 4, 5]
  if field d 0 1 % 4 != 1 then some 0x0E
  else if headReserved false d || decide (8 ≤ field d 2 1) || decide (1 < odRound d) || (d.drop 24 |>.take 40).any (· != 0)
      || slots.any (slotReserved d) || decide (odOp d = 0 ∨ 10 < odOp d) || parReserved d
      || slots.any (fun i => match operandOf d i with
        | none => uses.1.contains i
        | some o => !(uses.1.contains i || uses.2.contains i) || !o.fits (bareOperand d i) (decide (4 ≤ i)))
      || !opLimits d || outputOverlaps d then some 0x0F
  else none

/-! What the operators compute. -/

/-- Rows and columns as dot products need them. -/
def dotRC (a b : Mat) (r c : Nat) : F32 := dot ((List.range a.cols).map (fun k => (a.at r k, b.at k c)))
def dotRR (a b : Mat) (r q n : Nat) : F32 := dot ((List.range n).map (fun k => (a.at r k, b.at q k)))

/-- A matrix of FP32 values from a function. -/
def build (rows cols : Nat) (f : Nat → Nat → F32) : Array F32 :=
  ((List.range (rows * cols)).map (fun i => f (i / cols) (i % cols))).toArray

/-- x × RCP(1 + EXP(−x)). -/
def fSilu (x : F32) : F32 := fMul x (fRcp (fAdd 0x3F800000 (fExp (fNeg x))))

/-- MATMUL (R341). -/
def opMatmul (d : Bytes) (a b : Mat) (bias : Option Mat) : Array F32 :=
  build a.rows b.cols (fun m n =>
    let y := fMul (dotRC a b m n) (parF d 0)
    let y := match bias with
      | some c => fAdd y (c.f 0 n)
      | none => y
    if par d 4 1 = 1 then fMax y fZero else if par d 4 1 = 2 then fSilu y else y)

/-- The running state of an attention row: output, maximum, sum. -/
structure AttnRow where
  o : List F32
  m : F32
  l : F32

/-- Round to a format by RNE, as a value (R343). -/
def viaFmt (fmt : Nat) (x : F32) : Num := decodeElem fmt (encodeElem fmt .nearest false x.num).1

/-- One chunk of 128 keys for a row (R343). `key p`: masked, score, value row. -/
def attnChunk (d : Bytes) (dim : Nat) (x : AttnRow) (masked : Nat → Bool) (score : Nat → F32) (value : Nat → Nat → Num) : AttnRow :=
  let keys := List.range 128
  let s := keys.map (fun p => if masked p then fNegInf else score p)
  let mNew := s.foldl fMax x.m
  if mNew == fNegInf then x
  else
    let c := fExp (fSub x.m mNew)
    let e := (keys.zip s).map (fun q => if masked q.1 then fZero else fExp (fSub q.2 mNew))
    let l := e.foldl fAdd (fMul x.l c)
    let w := (keys.zip e).map (fun q => if masked q.1 then none else some (q.1, viaFmt (par d 18 1) q.2))
    let o := ((List.range dim).zip x.o).map (fun q =>
      fAdd (fMul q.2 c) (dotOpt (w.map (fun t => t.map (fun (p, v) => (v, value p q.1))))))
    ⟨o, mNew, l⟩

/-- FINAL: the output divided by the sum (R343, R345). -/
def finish (final : Bool) (x : AttnRow) : AttnRow :=
  match x.l.num with
  | .fin _ 0 _ => x
  | _ => if final then { x with o := x.o.map (fun v => fMul v (fRcp x.l)) } else x

/-- ATTN_BLOCK (R342, R343): E and F. -/
def opAttn (d : Bytes) (q kv : Mat) (v prior priorF : Option Mat) : Array F32 × Array F32 :=
  let dim := q.cols
  let group := max 1 (par d 17 1)
  let causal := par d 16 1 % 2 == 1
  let win := par d 16 1 / 2 % 2 == 1
  let rows := (List.range q.rows).map (fun r =>
    let qpos := par d 4 4 + r / group
    let init : AttnRow := match prior with
      | some o => ⟨(List.range dim).map (o.f r), (priorF.map (fun f => f.f r 0)).getD F32.nan, (priorF.map (fun f => f.f r 1)).getD F32.nan⟩
      | none => ⟨List.replicate dim fZero, fNegInf, fZero⟩
    let out := (List.range (kv.rows / 128)).foldl (fun x ch =>
      let p0 := 128 * ch
      let masked := fun (p : Nat) =>
        let kpos := par d 8 4 + p0 + p
        (causal && decide (qpos < kpos)) || (win && decide (kpos + par d 12 4 ≤ qpos))
      attnChunk d dim x masked (fun p => fMul (dotRR q kv r (p0 + p) dim) (parF d 0)) (fun p j =>
        match v with
        | some m => m.at (p0 + p) j
        | none => kv.at (p0 + p) (dim + j))) init
    finish (par d 19 1 % 2 == 1) out)
  ((rows.flatMap (fun x => x.o)).toArray, (rows.flatMap (fun x => [x.m, x.l])).toArray)

/-- Scores of the rows of B against the rows of Q (R344). -/
def scoreRows (scale : F32) (q b : Mat) : Array F32 :=
  build 1 b.rows (fun _ n =>
    match (List.range q.rows).map (fun r => fMul (dotRR q b r n q.cols) scale) with
    | [] => F32.nan
    | x :: xs => xs.foldl fMax x)

/-- SCORE (R344). -/
def opScore (d : Bytes) (q b : Mat) : Array F32 := scoreRows (parF d 0) q b

/-- The merge of partials of one row (R345), which the network's merge performs too (R409): maximum, sum and output vector of each. -/
def mergeRow (final : Bool) (parts : List AttnRow) (dim : Nat) : AttnRow :=
  let m := match parts with
    | [] => fNegInf
    | x :: xs => xs.foldl (fun a y => fMax a y.m) x.m
  if m == fNegInf then finish final ⟨List.replicate dim fZero, fNegInf, fZero⟩
  else
    let w := parts.map (fun x => (x, if x.m == fNegInf then fZero else fExp (fSub x.m m)))
    let l := w.foldl (fun a p => fAdd a (fMul p.1.l p.2)) fZero
    let o := (List.range dim).map (fun j => w.foldl (fun a p => fAdd a (fMul (p.1.o.getD j F32.nan) p.2)) fZero)
    finish final ⟨o, m, l⟩

/-- SOFTMAX_MERGE (R345): E and F. -/
def opMerge (d : Bytes) (a b : Mat) : Array F32 × Array F32 :=
  let n := max 1 (par d 0 1)
  let rows := a.rows / n
  let out := (List.range rows).map (fun r =>
    mergeRow (par d 1 1 % 2 == 1) ((List.range n).map (fun i =>
      let q := i * rows + r
      ⟨(List.range a.cols).map (a.f q), b.f q 0, b.f q 1⟩)) a.cols)
  ((out.flatMap (fun x => x.o)).toArray, (out.flatMap (fun x => [x.m, x.l])).toArray)

/-- One ELTWISE function (R346). -/
def eltFn (fn : Nat) (scalar x y : F32) : F32 :=
  match fn with
  | 0x01 => fAdd x y
  | 0x02 => fSub x y
  | 0x03 => fMul x y
  | 0x04 => fMax x y
  | 0x05 => fMin x y
  | 0x06 => fMul x scalar
  | 0x07 => fDiv x y
  | 0x10 => fExp x
  | 0x11 => fExp2 x
  | 0x12 => fLog2 x
  | 0x13 => fRcp x
  | 0x14 => fRsqrt x
  | 0x15 => fMax x fZero
  | 0x16 => fSilu x
  | _ => x

/-- ELTWISE (R346). -/
def opEltwise (d : Bytes) (a : Mat) (b : Option Mat) : Array F32 :=
  build a.rows a.cols (fun r c =>
    let y := match b with
      | some m => if par d 8 1 / 2 % 2 = 1 then m.f 0 c else m.f r c
      | none => parF d 4
    eltFn (par d 0 1) (parF d 4) (a.f r c) y)

/-- REDUCE_LOCAL over one sequence (R347). -/
def reduceSeq (fn : Nat) (xs : List F32) : F32 :=
  let ys := if fn = 3 then xs.map (fun x => fMul x x) else xs
  match ys with
  | [] => F32.nan
  | y :: rest => rest.foldl (fun a x => if fn = 1 then fMax a x else if fn = 2 then fMin a x else fAdd a x) y

/-- REDUCE_LOCAL (R347). -/
def opReduce (d : Bytes) (a : Mat) : Array F32 :=
  if par d 1 1 = 0 then build 1 a.cols (fun _ c => reduceSeq (par d 0 1) ((List.range a.rows).map (fun r => a.f r c)))
  else build a.rows 1 (fun r _ => reduceSeq (par d 0 1) ((List.range a.cols).map (fun c => a.f r c)))

/-- The k greatest of a list of values with their indexes, greatest first, ties to the lower index (R348). -/
def topk (k : Nat) (xs : List (Nat × F32)) : List (Nat × F32) :=
  (xs.mergeSort (fun x y => !(x.2.num.lt y.2.num))).take k

/-- What TOPK selects among values, in rank order (R348). -/
def selectTop (k : Nat) (thresh : Option F32) (xs : List F32) : List (Nat × F32) :=
  topk k (((List.range xs.length).zip xs).filter (fun p =>
    p.2.num != .nan && (match thresh with
      | some t => t.num != .nan && !(p.2.num.lt t.num)
      | none => true)))

/-- TOPK (R348): indices as numbers, and values. -/
def opTopk (d : Bytes) (a : Mat) : Array F32 × Array F32 :=
  let k := par d 0 4
  let sel := selectTop k (if par d 8 1 % 2 == 1 then some (parF d 4) else none) ((List.range a.cols).map (fun i => a.f 0 i))
  let pad := k - sel.length
  ((sel.map (fun p => toF32 (.fin false p.1 0)) ++ List.replicate pad (toF32 (.fin true 1 0))).toArray,
   (sel.map (·.2) ++ List.replicate pad fNegInf).toArray)

/-- CONVERT (R349). -/
def opConvert (a : Mat) : Array F32 := build a.rows a.cols a.f

/-- DEQUANT (R350). -/
def opDequant (d : Bytes) (a b : Mat) (z : Option Mat) : Array F32 :=
  let g := max 1 (par d 0 2)
  build a.rows a.cols (fun r c =>
    let zero := match z with
      | some m => m.at r (c / g)
      | none => Num.zero
    toF32 (((a.at r c).add zero.neg).mul (b.at r (c / g))))

/-- One pass of modified Gram-Schmidt on columns (R351): earlier columns are projected out in turn, then the column is divided by its
length, by RSQRT. -/
def gramSchmidt (n rmax : Nat) (y : Array F32) : Array F32 :=
  let colDot := fun (u v : List F32) => dot (u.zip v |>.map (fun p => (p.1.num, p.2.num)))
  let cols := (List.range rmax).foldl (fun (done : List (List F32)) k =>
    let c := (List.range n).map (fun i => y.getD (i * rmax + k) F32.nan)
    let c := done.foldl (fun (c : List F32) w =>
      let p := colDot w c
      (c.zip w).map (fun q => fSub q.1 (fMul p q.2))) c
    let inv := fRsqrt (colDot c c)
    done ++ [c.map (fun x => fMul x inv)]) []
  build n rmax (fun i k => (cols.getD k []).getD i F32.nan)

/-- VENEER_FIT (R351): the basis, RMAX × n, from planks of m × n elements. -/
def opVeneerFit (seed : Dword) (rmax m n : Nat) (planks : List (Nat → Nat → Num)) : Array F32 :=
  let g := planks.foldl (fun (g : Array F32) x =>
    build n n (fun i j => fAdd (g.getD (i * n + j) fZero) (dot ((List.range m).map (fun r => (x r i, x r j)))))) #[]
  let w0 := build n rmax (fun i j =>
    let r := (mix (seed ^^^ ((6 : Dword) <<< 40) ^^^ BitVec.ofNat 64 (n * j + i))).toNat % 65536
    toF32 (numOfInt ((r : Int) - 32768) (-15) false))
  let w := (List.range 4).foldl (fun (w : Array F32) _ =>
    gramSchmidt n rmax (build n rmax (fun i k =>
      dot ((List.range n).map (fun j => ((g.getD (i * n + j) F32.nan).num, (w.getD (j * rmax + k) F32.nan).num)))))) w0
  build rmax n (fun k i => w.getD (i * rmax + k) F32.nan)

/-- Elements of plank p of a tiled operand; pad elements are zero. -/
def Operand.plank (o : Operand) (get : Nat → Byte) (p r c : Nat) : Num :=
  let (tr, tc) := tileShape o.fmt
  let y := p / o.tilesAcross * tr + r
  let x := p % o.tilesAcross * tc + c
  if y < o.sRows && x < o.sCols then o.stored get false y x else Num.zero

/-! Cycles and latency (R361, R362). -/

/-- Kc of a format. -/
def arrayK (f : Nat) : Nat :=
  match f with
  | 8 | 10 => 256
  | 4 | 5 | 6 | 7 | 9 => 128
  | 2 | 3 => 64
  | _ => 16

/-- Array cycles of a product of M × K by K × N, and the work on its last slice; `before` is the work on the slice before it. -/
def productCycles (m k n kc : Nat) (before : Option Nat) : Nat × Option Nat :=
  let q := if 129 ≤ n then 1 else if 65 ≤ n then 2 else 4
  let w := ceilDiv m q
  let slices := ceilDiv k kc * ceilDiv n 256
  let bare := match before with
    | none => true
    | some b => decide (b < 16)
  (w * slices + (if bare then 16 else 0) + (if w < 16 then 16 * (slices - 1) else 0), some w)

/-- The cycle count C of an operator (R362). -/
def opCycles (d : Bytes) : Nat :=
  let o := fun (i : Nat) => (operandOf d i).getD ⟨.store, 0, 0, 0, false, false, 0, 0⟩
  let a := o 0
  let b := o 1
  let kc := min (arrayK a.fmt) (arrayK b.fmt)
  match odOp d with
  | 1 =>
    let act := if par d 4 1 = 1 then 1 else if par d 4 1 = 2 then 4 else 0
    24 + (productCycles a.rows a.cols b.cols kc none).1
      + ceilDiv (a.rows * b.cols) 1024 * (1 + b2n (operandOf d 2).isSome + act + 1)
  | 2 =>
    let vf := if par d 19 1 / 2 % 2 = 1 then b.fmt else (o 2).fmt
    let kv := min (arrayK (par d 18 1)) (arrayK vf)
    let r := (List.range (b.rows / 128)).foldl (fun (acc : Nat × Option Nat) _ =>
      let x := productCycles a.rows a.cols 128 kc acc.2
      let y := productCycles a.rows 128 a.cols kv x.2
      (acc.1 + max (x.1 + y.1) (6 * ceilDiv (128 * a.rows) 1024), y.2)) (40, none)
    r.1 + 8 * ceilDiv (a.rows * a.cols) 1024
  | 3 => 24 + (productCycles a.rows a.cols b.rows kc none).1 + ceilDiv (a.rows * b.rows) 1024
  | 4 =>
    let n := par d 0 1
    let r := a.rows / max 1 n
    24 + 2 * n * ceilDiv (r * a.cols) 1024 + 4 * n * ceilDiv r 1024
  | 5 => 16 + (if par d 0 1 = 7 ∨ par d 0 1 = 0x16 then 4 else 1) * ceilDiv (a.rows * a.cols) 1024
  | 6 => if par d 1 1 = 0 then 16 + a.rows * ceilDiv a.cols 1024 else 16 + a.cols * ceilDiv a.rows 1024
  | 7 => 16 + 4 * ceilDiv a.cols 1024 + ceilDiv (par d 0 4) 4
  | 8 => 16 + (if blockScaled (o 4).fmt then 2 else 1) * ceilDiv (a.rows * a.cols) 1024
  | 9 =>
    let (m, n) := tileShape a.fmt
    let rmax := par d 2 1
    let x := (List.range (par d 4 4)).foldl (fun (acc : Nat × Option Nat) _ =>
      let p := productCycles n m n 16 acc.2
      (acc.1 + p.1, p.2)) (64, none)
    let y := (List.range 4).foldl (fun (acc : Nat × Option Nat) _ =>
      let p := productCycles n n rmax 16 acc.2
      (acc.1 + p.1, p.2)) (0, x.2)
    x.1 + y.1 + 16 * rmax * rmax * ceilDiv n 1024
  | 10 => 16 + 3 * ceilDiv (a.rows * a.cols) 1024
  | _ => 0

/-- L in slots (R362). -/
def opLatency (d : Bytes) : Nat := 3 + ceilDiv (5 * opCycles d) 56

/-- P of R354: every acquire at ACQ_WAIT + 1 slots, every POOL operand at 64. -/
def opReserve (d : Bytes) : Nat :=
  opLatency d + (if odAcq d then odWait d + 1 else 0)
    + 64 * ([0, 1, 2, 3, 4, 5].filter (fun i => match operandOf d i with
        | some o => o.kind == .pool
        | none => false)).length

end Sys2Proof.Machine
end

