-- ==== Sys2Proof/Machine/VeneerRows.lean ====
section
/-!
DEFINITION. The meanings of the veneer commands (13 R436 to R449): coding and expansion on the migration engines, the basis
descriptors, the counters.
-/
namespace Sys2Proof.Machine

/-- Core cycles that an engine spends (R442, R449). -/
def State.engineBusy (s : State) (e ns : Nat) : State := s.add64 (Reg.mdmaBusyLo e) (ns * 7 / 5)

/-- Work goes on with its coded or uncoded plank (R440, R448). -/
def State.codedOn (s : State) (w : Work) : State :=
  if w.goal == .demote then s.setWork { w with stage := .media } else s.setWork { w with stage := .commit }

/-- VENEER_COMPRESS (R440, R441): the engine's next plank to code. -/
def execVeneerCompress (e : EngineId) (s : State) : Host.Outcome State Fault Refusal :=
  match s.nextWork e.val .compress with
  | none => .next s
  | some w =>
    let stream := objBasis w.obj
    let rmax := match w.slot with
      | some (m, g) => (s.slot m g).rmax
      | none => 0
    match s.venCode w.data w.obj w.slot with
    | .done b r =>
      let s := match w.slot with
        | some (m, g) => s.useTable e.val (slotKey m g)
        | none => s
      let s := ((s.bump Reg.venCompressed).add64 Reg.venInBytesLo plankBytes).add64 Reg.venOutBytesLo b.length
      .next ((s.engineBusy e.val (33 + 4 * r)).codedOn { w with data := b, ven := true }).pump
    | .declined c =>
      let s := (s.bump (Reg.venDecline c)).engineBusy e.val (33 + 4 * rmax)
      let s := if c = 1 then s.raiseVen 4 stream 0 e.val 0 w.plank else s
      .next (((s.giveRef w.slot).codedOn { w with ven := false, slot := none })).pump

/-- Which COMP_LEN agree with the length presented (R446 order 3). -/
def Work.lenOk (w : Work) (n : Nat) : Bool :=
  if w.goal == .store || w.old.state == .flash then n == w.data.length
  else decide (n ≤ w.old.size * 4096) && decide (w.old.size * 4096 < n + 4096)

/-- Requests that wait on a plank and match a test complete with a status (R447). -/
def State.failSome (s : State) (plank : Nat) (st : Status) (pick : Served → Bool) : State :=
  (s.mort.served.filter (fun r => r.wait == .promotion && r.offset / plankBytes == plank && pick r)).foldl (fun s r =>
    s.endServed r ⟨st, [], 0⟩) s

/-- An expansion has failed (R447). -/
def State.expandFailed (s : State) (w : Work) (st : Status) : State :=
  let s := (s.endWork w).giveRef w.slot
  let s := match w.goal with
    | .promote => (s.setEntry w.plank w.old).failWaiting w.plank st
    | .unpack => s.failSome w.plank st (fun r => !isRead r.frame.opcode)
    | _ =>
      match w.req.bind s.servedOf with
      | some r => s.endServed r ⟨st, [], 0⟩
      | none => s.failSome w.plank st (fun r => r.frame.opcode == 0x01 && some r.cluster.val == w.cluster)
  s.retryWaiting

/-- Count and raise a refusal of R446. -/
def State.venRefused (s : State) (e : Nat) (w : Work) (st : Status) (b : Nat) : State :=
  let s := if b = 0 then s.bump Reg.venCmpLen else if b = 1 then s.bump Reg.venTableGen else if b = 3 then s.bump Reg.venCheckFail else s
  s.raiseVen b (venSlot w.data).1 (venSlot w.data).2 e st w.plank

/-- An expansion has succeeded: the plank goes to its destination. -/
def State.expanded (s : State) (w : Work) (plain : Bytes) : State :=
  match w.goal with
  | .read =>
    let s := (s.endWork w).giveRef w.slot
    match w.cluster with
    | some k => ((s.fillCache k w.plank plain).bump Reg.poolExpands).retryWaiting
    | none =>
      let s := if w.old.state == .flash then s.bump Reg.poolStreams else s
      match w.req.bind s.servedOf with
      | some r => (s.endServed r ⟨St.ok, plain, 0⟩).retryWaiting
      | none => s
  | _ => s.setWork { w with data := plain, ven := false, stage := .commit }

/-- A PLANK_WRITE with VEN = 1 whose plank is stored as it comes (R448). -/
def State.storesCoded (s : State) (w : Work) : Bool :=
  w.goal == .store && decide (tieredBase ≤ w.plank * plankBytes) && s.region (w.plank * plankBytes) == some .tiered
    && veneerPolicy w.obj == 2

/-- VENEER_EXPAND (R446, R447): the engine's next plank to check and expand. -/
def execVeneerExpand (e : EngineId) (s : State) : Host.Outcome State Fault Refusal :=
  match s.nextWork e.val .expand with
  | none => .next s
  | some w =>
    match s.venRefusal w.data w.lenOk (objShape w.obj) with
    | some (st, b) => .next ((s.venRefused e.val w st b).expandFailed w st).pump
    | none =>
      if s.storesCoded w then .next (s.setWork { w with stage := .commit })
      else
        let (m, g) := venSlot w.data
        let plain := s.venExpand w.data
        let s := ((s.useTable e.val (slotKey m g)).bump Reg.venExpanded).engineBusy e.val 32
        .next (s.expanded w plain).pump

/-! Basis descriptors (R437, R438). -/

def bStream (d : Desc) : Nat := dField d 16 1
def bGen (d : Desc) : Nat := dField d 17 1

/-- The activity of a basis descriptor. -/
def basisActivity (s : State) (h : HostPort) (d : Desc) : Activity :=
  { cls := 9, kind := 9, unit := bStream d, arg := 0, desc := some (h, d.id), at_ := s.bell.bounds, pending := false, askedAt := 0,
    result := none, progress := 0 }

/-- Run a basis descriptor as BASIS_REFRESH (R438): a started one whose activity now runs, or the next of its ring, which the arbiter
may defer. `refuse` is the check of its fields; `run` completes it. -/
def State.basisRun (s : State) (h : HostPort) (q : RingId) (type : Nat) (refuse : Desc → Bool) (run : State → Desc → State) : State :=
  let going := (s.sqInFlight h q).find? (fun d => d.started && dType d == type
    && s.fault.running.any (fun a => a.cls == 9 && a.desc == some (h, d.id)))
  match going with
  | some d =>
    let s := run s d
    (s.withFault { s.fault with running := s.fault.running.filter (fun a => !(a.cls == 9 && a.desc == some (h, d.id))) }).takePending
  | none =>
    s.withDesc h q (isType type) (fun s d =>
      if refuse d then s.done h d St.rsvdSet 0
      else
        let a := basisActivity s h d
        if (s.blocker a).isNone then run s d else s.arbitrate a)

/-- BASIS_LOAD of a table of BF16 elements (R437). -/
def State.basisLoad (s : State) (h : HostPort) (d : Desc) (data : Bytes) : State :=
  let shape := dField d 18 1
  let rmax := dField d 19 1
  let table := byteRun data 0 (2 * rmax * shapeCols shape)
  match s.slotForWrite (bStream d) (bGen d) with
  | none => (s.venBusy (bStream d) (bGen d)).done h d St.tableBusy 0
  | some g =>
    if (tableCodes table).any (fun c => c % 32768 > 0x7F7F) then (s.raiseVen 6 (bStream d) g 0 St.denied 0).done h d St.denied 0
    else (s.writeSlot (bStream d) g shape rmax (BitVec.ofNat 16 (dField d 20 2)) table).done h d St.ok g

/-- BASIS_LOAD (R437). -/
def execBasisLoad (h : HostPort) (q : RingId) (data : Bytes) (s : State) : Host.Outcome State Fault Refusal :=
  .next (s.basisRun h q 0x20
    (fun d => (decide (3 < bGen d) && bGen d != 0xFF) || !veneerShape (dField d 18 1) || dField d 19 1 = 0 || decide (64 < dField d 19 1)
      || dField d 20 2 = 0 || dField d 32 8 % 64 != 0)
    (fun s d => s.basisLoad h d data))

/-- BASIS_SAVE (R438). -/
def execBasisSave (h : HostPort) (q : RingId) (s : State) : Host.Outcome State Fault Refusal :=
  .next (s.basisRun h q 0x21 (fun d => decide (3 < bGen d) || dField d 32 8 % 64 != 0) (fun s d =>
    let b := s.slot (bStream d) (bGen d)
    if b.state != .resident then s.done h d St.tableGen 0
    else
      let out := b.header ++ b.table
      (s.emit (.hostWrite (s.setOwner h) (dAddr d 32) out)).done h d St.ok out.length))

/-- BASIS_SELECT (R438). -/
def execBasisSelect (h : HostPort) (q : RingId) (s : State) : Host.Outcome State Fault Refusal :=
  .next (s.basisRun h q 0x22 (fun d => decide (3 < bGen d) && bGen d != 0xFF) (fun s d =>
    let put := fun (g : Option Nat) => s.withPool { s.pool with current := s.pool.current.put none (bStream d) g }
    if bGen d = 0xFF then (put none).done h d St.ok 0
    else if (s.slot (bStream d) (bGen d)).state != .resident then s.done h d St.tableGen 0
    else (put (some (bGen d))).done h d St.ok 0))

/-- BASIS_FREE (R438). -/
def execBasisFree (h : HostPort) (q : RingId) (s : State) : Host.Outcome State Fault Refusal :=
  .next (s.basisRun h q 0x23 (fun d => decide (3 < bGen d)) (fun s d =>
    let b := s.slot (bStream d) (bGen d)
    if b.refs != 0 then (s.venBusy (bStream d) (bGen d)).done h d St.tableBusy 0
    else
      let s := s.setSlot (bStream d) (bGen d) { b with state := .free }
      let s := if s.pool.current.get none (bStream d) == some (bGen d) then
          s.withPool { s.pool with current := s.pool.current.put none (bStream d) none } else s
      s.done h d St.ok 0))

/-- The veneer counters (R449). -/
def State.clearVen (s : State) : State :=
  s.zeroRegs ([Reg.venCompressed, Reg.venExpanded, Reg.venInBytesLo, Reg.venInBytesHi, Reg.venOutBytesLo, Reg.venOutBytesHi, Reg.venCmpLen,
    Reg.venTableGen, Reg.venTableBusy, Reg.venCheckFail] ++ [1, 2, 3, 4, 5].map Reg.venDecline
    ++ (List.range 16).flatMap (fun e => [Reg.mdmaBasisMiss e, Reg.mdmaBusyLo e, Reg.mdmaBusyHi e]))

/-- VEN_CLR_COUNTERS (R449). -/
def execVenClrCounters (h : HostPort) (s : State) : Host.Outcome State Fault Refusal :=
  .next (s.hostWrite h Reg.venCtrl State.clearVen)

end Sys2Proof.Machine
end

