-- ==== Sys2Proof/Machine/UnitOps.lean ====
section
/-!
DEFINITION. What benches and network units share (10 R321, R336, R337, R352 to R360; 12 R400; 08 R285; 15 R503): their requests, the
acquire, the release, the posting of a completion, and the stores of the benches with residency and ownership.
-/
namespace Sys2Proof.Machine

/-! Benches as units. -/

def State.bench (s : State) (b : BenchId) : Bench := s.benches.get Bench.reset b.val

/-- A firing of a timetable entry, or its skip, for the trace (R550). -/
def State.traceFiring (s : State) (kind num index : Nat) (e : BitVec 128) (skipped : Bool) : State :=
  s.traceEv 0 (256 * kind + num) false (leBytes 4 index ++ leBytes 4 (ttAction e) ++ leBytes 4 (b2n skipped))

/-- STATE of a bench's operator as R363 codes it. -/
def BenchStage.code : BenchStage → Nat
  | .acquire => 2
  | .gather => 2
  | .fetch => 3
  | .compute => 3
  | .write => 4
  | .release => 4

/-- STATE and OP of a bench outside recess (R363). -/
def Bench.state (x : Bench) : Nat := (x.run.map (fun r => r.stage.code)).getD 0
def Bench.op (x : Bench) : Nat := (x.run.map (fun r => odOp r.desc)).getD 0

/-- A change of state for the trace (R550). -/
def State.traceState (s : State) (unit old new op : Nat) : State :=
  if old = new then s else s.traceEv 4 unit false (leBytes 4 old ++ leBytes 4 new ++ leBytes 4 op)

def State.setBench (s : State) (b : BenchId) (x : Bench) : State :=
  let y := s.bench b
  (s.withBenches (s.benches.put Bench.reset b.val x)).traceState b.val y.state x.state (max x.op y.op)

/-- Cluster of a bench, and its number there (R319). -/
def benchCluster (b : BenchId) : Fin 12 := ⟨b.val / 14, by omega⟩
def benchIn (b : BenchId) : Nat := b.val % 14

/-- SRC_UNIT of a bench (R130). -/
def benchUnit (b : BenchId) : BitVec 10 := BitVec.ofNat 10 (256 + b.val)

/-- Lines that a run of bytes touches: the line's address, and the bytes of the run in it from an offset. -/
def lineParts (base : Nat) (bs : Bytes) : List (Nat × Nat × Bytes) :=
  (List.range (ceilDiv (base % 128 + bs.length) 128)).map (fun i =>
    let line := base / 128 * 128 + 128 * i
    let lo := max base line
    let hi := min (base + bs.length) (line + 128)
    (line, lo - line, byteRun bs (lo - base) (hi - lo)))

/-- OPCODE and payload that write part of a line: WR_LINE for a whole line unless `masked`, otherwise WR_LINE_MASKED (R132). -/
def linePayload (off : Nat) (part : Bytes) (masked : Bool) : BitVec 8 × Bytes :=
  if part.length = 128 && !masked then (0x02, part)
  else (0x03, leBytes 16 ((2 ^ part.length - 1) * 2 ^ off) ++ List.replicate off 0 ++ part
    ++ List.replicate (128 - off - part.length) 0)

/-- Lines from the one that holds `base` to the one that holds the last of `n` bytes. -/
def lineAddrs (base n : Nat) : List Nat := (List.range (ceilDiv (base % 128 + n) 128)).map (fun i => base / 128 * 128 + 128 * i)

/-- A request of a bench under a JOB and in a class; `ak` says which kind of address it is. -/
def State.benchSend (s : State) (b : BenchId) (job : BitVec 12) (c : Cls) (k addr : Nat) (ak : Bool) (op : BitVec 8) (scope : BitVec 2)
    (payload : Bytes) : State :=
  let h : HdrFields := { addr := BitVec.ofNat 64 addr, seq := 0, len := payload.length, dest := s.swNum, srcSwitch := s.swNum,
                         srcUnit := benchUnit b, tag := 0, job := job, scope := scope, opcode := op, ak := ak }
  s.originate (benchUnit b) (benchCluster b) c h.pack payload (.bench b k)

/-- A request to be made: what for, its address, OPCODE, SCOPE and payload. -/
structure Ask where
  what : UWhat
  addr : Nat
  op : BitVec 8
  scope : BitVec 2
  payload : Bytes
  deriving DecidableEq, Repr

/-- Records of requests numbered from `k`, sent at a tick. -/
def reqsOf (k tick : Nat) (asks : List Ask) : List UReq :=
  ((List.range asks.length).zip asks).map (fun p => ⟨k + p.1, p.2.what, p.2.addr, tick, 0, none⟩)

/-- Send requests of a bench; their records go to the operator that runs. -/
def State.benchAsk (s : State) (b : BenchId) (r : BenchRun) (asks : List Ask) : State :=
  let x := s.bench b
  let r := { r with reqs := reqsOf x.nextReq s.bell.ticks asks }
  let s := s.setBench b { x with run := some r, nextReq := x.nextReq + asks.length }
  ((List.range asks.length).zip asks).foldl (fun s p =>
    s.benchSend b (odJob r.desc) (odClass r.desc) (x.nextReq + p.1) p.2.addr false p.2.op p.2.scope p.2.payload) s

/-- Every request has its completion. -/
def allBack (l : List UReq) : Bool := l.all (fun r => r.got.isSome)

def UReq.status (r : UReq) : BitVec 8 := (r.got.map (·.1)).getD 0
def UReq.data (r : UReq) : Bytes := (r.got.map (·.2.2)).getD []

/-- The first status of requests, in order, that does not deliver data, or that is not OK for a write. -/
def firstFailure (l : List UReq) : Option (BitVec 8) := (l.find? (fun r => !delivers r.status)).map UReq.status
def firstNotOk (l : List UReq) : Option (BitVec 8) := (l.find? (fun r => r.status != St.ok)).map UReq.status

/-! The acquire (R355). -/

/-- The acquire read of a descriptor. -/
def acquireAsk (d : Bytes) : Ask := ⟨.acquire, odAcqFlag d / 128 * 128, 0x01, odAcqScope d, []⟩

/-- The flag in the line that the acquire read returned holds. -/
def flagHolds (d : Bytes) (line : Bytes) : Bool :=
  let v := field line (odAcqFlag d % 128) 8
  if odAcqCmp d then decide (odAcqValue d ≤ v) else v == odAcqValue d

/-- The ORDER RELEASE of a descriptor (R269, R357). -/
def releaseAsk (d : Bytes) : Ask :=
  ⟨.release, odRelFlag d, 0x50, odRelScope d, [2] ++ leBytes 1 (odFlagOp d) ++ List.replicate 6 0 ++ leBytes 8 (odRelValue d)
    ++ List.replicate 16 0⟩

/-! Residency and ownership (R285, R321, R447, R503). -/

/-- Local offsets that a job-local range names, through the job's address table (R145). -/
def State.localSpans (s : State) (job : BitVec 12) (addr n : Nat) : List (Nat × Nat) :=
  (s.jatOf job.toNat).filterMap (fun e =>
    let lo := max addr (jatBase e)
    let hi := min (addr + n) (jatBase e + jatSize e)
    if lo < hi then some (drwBase (s.drawer (jatDrawer e)) + (lo - jatBase e), hi - lo) else none)

/-- Local offsets that an address of either kind names on this switch. -/
def State.sourceOf (s : State) (job : BitVec 12) (ak : Bool) (addr : Dword) (n : Nat) : List (Nat × Nat) :=
  if ak then (if addr.extractLsb' 48 12 == s.swNum then [((addr.extractLsb' 0 48).toNat, n)] else [])
  else s.localSpans job addr.toNat n

def spansMeet (a b : List (Nat × Nat)) : Bool := a.any (fun p => b.any (fun q => decide (p.1 < q.1 + q.2) && decide (q.1 < p.1 + p.2)))

def Bench.slot (x : Bench) (i : Nat) : Residency := x.slots.get Residency.reset i

/-- An acquire clears the records whose sources meet the declared range (R285). -/
def Bench.invalidate (x : Bench) (spans : List (Nat × Nat)) : Bench :=
  { x with slots := x.slots.foldl (fun (t : Tab Residency) p =>
      if spansMeet p.2.sources spans then t.put Residency.reset p.1 { p.2 with ready := false, sources := [] } else t) x.slots }

/-- Slots of the store that a byte range touches. -/
def slotsOf (a n : Nat) : List Nat := if n = 0 then [] else List.range' (a / 32768) ((a + n - 1) / 32768 + 1 - a / 32768)

/-- A slot is taken for a write by a job: another owner's bytes become zero first (R503). -/
def Bench.own (x : Bench) (job : BitVec 12) (i : Nat) : Bench :=
  let r := x.slot i
  let foreign := r.owner.isSome && r.owner != some job
  let x := if foreign then { x with store := x.store.clearRange (32768 * i) (32768 * (i + 1)) } else x
  { x with slots := x.slots.put Residency.reset i { r with owner := some job } }

/-- Write bytes into the store under a job (R503). -/
def Bench.write (x : Bench) (job : BitVec 12) (a : Nat) (bs : Bytes) : Bench :=
  let x := (slotsOf a bs.length).foldl (fun (x : Bench) i => x.own job i) x
  { x with store := x.store.putRun 0 a bs }

/-- Slots of a range that another job owns (R503). -/
def Bench.foreign (x : Bench) (job : BitVec 12) (a n : Nat) : List Nat :=
  (slotsOf a n).filter (fun i => (x.slot i).owner.isSome && (x.slot i).owner != some job)

/-! Completion (R357, R464). -/

/-- The status word (R357). -/
def statusWord (st : BitVec 8) (op : Nat) (now : Dword) : Bytes := [st] ++ leBytes 1 op ++ leBytes 6 now.toNat

/-- CPL_KIND names a target that exists, and the descriptor is of this generation. -/
def hasTarget (d : Bytes) : Bool := field d 0 1 % 4 == 1 && (odKind d == 1 || (odKind d == 2 && odArg d % 8 == 0))

end Sys2Proof.Machine
end

