-- ==== Sys2Proof/Machine/BenchOps.lean ====
section
/-!
DEFINITION. The course of an operator on a bench (10 R339, R352 to R362): errors, start, acquire, wait, fetch, computation, writes,
release, end.
-/
namespace Sys2Proof.Machine

/-- Raise a bit of BN_ERR (R363, R364); `operand` is 0 to 5, or 15 for none. -/
def State.raiseBench (s : State) (b : BenchId) (n op : Nat) (st : BitVec 8) (operand desc : Nat) : State :=
  let at_ := fun (reg : Nat → Nat → Nat) => reg (b.val / 14) (benchIn b)
  s.raise (at_ Reg.bnErr) n
    [(at_ Reg.bnErrCapture, BitVec.ofNat 32 (op * 2 ^ 24 + st.toNat * 2 ^ 16 + operand * 2 ^ 8 + n)),
     (at_ Reg.bnErrDescLo, BitVec.ofNat 32 desc), (at_ Reg.bnErrDescHi, BitVec.ofNat 32 (desc / 2 ^ 32))]

/-- Count in a register of a bench. -/
def State.countBench (s : State) (b : BenchId) (reg : Nat → Nat → Nat) (n : Nat) : State := s.addReg (reg (b.val / 14) (benchIn b)) n

/-- Post the status of an operator to the target that its descriptor names (R357): a completion entry, or a status word. -/
def State.benchPost (s : State) (b : BenchId) (d : Bytes) (desc : Nat) (st : BitVec 8) : State :=
  if !hasTarget d then s
  else if odKind d = 1 then
    let (s, kept) := s.operatorCpl (odHost d) (odRing d) (odOp d) st.toNat (odArg d) (256 + b.val)
    if kept then s else s.raiseBench b 8 (odOp d) st 15 desc
  else
    let x := s.bench b
    let k := x.nextReq
    let s := s.setBench b { x with nextReq := k + 1, posts := x.posts ++ [(k, odOp d, desc)] }
    let (op, payload) := linePayload (odArg d % 128) (statusWord st (odOp d) s.now) true
    s.benchSend b (odJob d) (odClass d) k (odArg d / 128 * 128) false op 0 payload

/-- Complete the LAUNCH that brought an operator (R134). -/
def State.launchCpl (s : State) (b : BenchId) (l : Launch) (st : BitVec 8) : State :=
  match l.src with
  | .timetable _ => s
  | .fabric f c k => s.complete k c f st false [] 0 (benchUnit b)

/-- An operator ends with a status (R357, R358). -/
def State.benchEnd (s : State) (b : BenchId) (r : BenchRun) (st : BitVec 8) : State :=
  let s := s.setBench b { s.bench b with run := none }
  let s := s.addJob (odJob r.desc) 4 (56 * (s.bell.ticks - r.started) / 5)
  let s := if field r.desc 0 1 % 4 == 1 then s.benchPost b r.desc r.launch.addr st else s
  s.launchCpl b r.launch st

/-- An operator is aborted (R359): nothing of its outputs has been written. -/
def State.benchAbort (s : State) (b : BenchId) (r : BenchRun) (st : BitVec 8) (operand : Nat) (bits : List Nat) : State :=
  let s := (bits ++ [0]).foldl (fun (s : State) n => s.raiseBench b n (odOp r.desc) st operand r.launch.addr) s
  (s.countBench b Reg.bnAborts 1).benchEnd b r st

/-- A descriptor that is refused (R339, R353): nothing is read or written. -/
def State.benchRefused (s : State) (b : BenchId) (r : BenchRun) (st : BitVec 8) : State :=
  (s.raiseBench b 1 (odOp r.desc) st 15 r.launch.addr).benchEnd b r st

/-! Inputs. -/

/-- Operands that are read, in order: A to D, and F beside D (R343). -/
def inputSlots (d : Bytes) : List Nat :=
  ([0, 1, 2, 3].filter (fun i => (operandOf d i).isSome)) ++ (if odOp d = 2 && (operandOf d 3).isSome then [5] else [])

/-- Slots of GATHER operands, with the operand. -/
def gatherSlots (d : Bytes) : List (Nat × Nat) :=
  (inputSlots d).flatMap (fun i =>
    match operandOf d i with
    | some o => if o.kind == .gather then (o.ranges (bareOperand d i)).flatMap (fun q => (slotsOf q.1 q.2).map (fun n => (i, n))) else []
    | none => [])

/-- Requests that fetch a POOL operand (R356). -/
def poolAsks (d : Bytes) (i : Nat) : List Ask :=
  match operandOf d i with
  | some o =>
    if o.kind != .pool then []
    else
      let data := if o.linear then (lineAddrs o.addr o.dataBytes).map (fun a => (a, (0x01 : BitVec 8)))
        else (List.range o.tiles).map (fun t => (o.addr + 32768 * t, 0x20))
      let scales := if bareOperand d i || !blockScaled o.fmt then [] else lineAddrs o.scaleAddr o.scaleBytes
      data.map (fun p => ⟨.operand i 0, p.1, p.2, 0, []⟩) ++ scales.map (fun a => ⟨.scale i 0, a, 0x01, 0, []⟩)
  | none => []

/-- The requests of an operand among those of an operator. -/
def reqsFor (l : List UReq) (i : Nat) (scale : Bool) : List UReq :=
  l.filter (fun r => match r.what with
    | .operand o _ => o == i && !scale
    | .scale o _ => o == i && scale
    | _ => false)

/-- Bytes from an address on. -/
structure Span where
  base : Nat
  data : Array Byte

def Span.at (f : Span) (p : Nat) : Byte := if f.base ≤ p then f.data.getD (p - f.base) 0 else 0

/-- Bytes of an input operand, data or scales: of the store with slots of other jobs as zeros (R503), or as fetched. -/
def inputSpan (x : Bench) (r : BenchRun) (i : Nat) (o : Operand) (a n : Nat) (scale : Bool) : Span :=
  match o.kind with
  | .pool =>
    let l := reqsFor r.reqs i scale
    ⟨((l.head?).map (·.addr)).getD 0, (l.flatMap UReq.data).toArray⟩
  | _ =>
    let hidden := x.foreign (odJob r.desc) a n
    ⟨a, (hidden.foldl (fun (t : Tab Byte) i => t.clearRange (32768 * i) (32768 * (i + 1))) x.store).window 0 a n⟩

/-- Read access to data and scales of an operand. -/
def inputGet (o : Operand) (data scale : Span) (p : Nat) : Byte :=
  if o.addr ≤ p && p < o.addr + o.dataBytes then data.at p else scale.at p

/-- Input operand i as a matrix. -/
def inputMat (x : Bench) (r : BenchRun) (i : Nat) : Option Mat :=
  (operandOf r.desc i).map (fun o =>
    let data := inputSpan x r i o o.addr o.dataBytes false
    let scale := inputSpan x r i o o.scaleAddr o.scaleBytes true
    o.read (inputGet o data scale) (bareOperand r.desc i))

/-- Input operands that are read from a slot of another job (R503). -/
def foreignReads (x : Bench) (d : Bytes) : Nat :=
  ((inputSlots d).filter (fun i =>
    match operandOf d i with
    | some o => o.kind != .pool && (o.ranges (bareOperand d i)).any (fun q => !(x.foreign (odJob d) q.1 q.2).isEmpty)
    | none => false)).length

/-! Results. -/

/-- What an operator computes, by output slot. -/
def opResults (d : Bytes) (m : Nat → Option Mat) : List (Nat × Array F32) :=
  let a := (m 0).getD ⟨0, 0, #[]⟩
  let b := (m 1).getD ⟨0, 0, #[]⟩
  let two := fun (p : Array F32 × Array F32) => [(4, p.1), (5, p.2)]
  match odOp d with
  | 1 => [(4, opMatmul d a b (m 2))]
  | 2 => two (opAttn d a b (m 2) (m 3) (m 5))
  | 3 => [(4, opScore d a b)]
  | 4 => two (opMerge d a b)
  | 5 => [(4, opEltwise d a (m 1))]
  | 6 => [(4, opReduce d a)]
  | 7 => two (opTopk d a)
  | 8 => [(4, opConvert a)]
  | 10 => [(4, opDequant d a b (m 2))]
  | _ => []

/-- Requests that write a POOL output (R356): the last line of linear data by WR_LINE_MASKED; bytes of a plank beyond a tile are
open. -/
def outputAsks (s : State) (o : Operand) (runs : List (Nat × Bytes)) : List Ask × State :=
  runs.foldl (fun (acc : List Ask × State) q =>
    if !o.linear && q.2.length = tileBytes o.fmt && q.1 % 32768 = 0 && decide (o.addr ≤ q.1) then
      let (rest, s) := if q.2.length < 32768 then acc.2.drawBytes (32768 - q.2.length) else ([], acc.2)
      (acc.1 ++ [⟨.output, q.1, 0x21, 0, q.2 ++ rest⟩], s)
    else
      let parts := lineParts q.1 q.2
      let last := o.linear && q.1 == o.addr
      (acc.1 ++ ((List.range parts.length).zip parts).map (fun p =>
        let w := linePayload p.2.2.1 p.2.2.2 (last && p.1 + 1 == parts.length)
        ⟨.output, p.2.1, w.1, 0, w.2⟩), acc.2)) ([], s)

/-! The stages. -/

/-- The operator's inputs are at hand from a tick on (R362). -/
def State.benchCompute (s : State) (b : BenchId) (r : BenchRun) (ready : Nat) : State :=
  s.setBench b { s.bench b with run := some { r with stage := .compute, readyAt := ready } }

/-- Fetch the POOL operands, or go on at once where there is none (R356). -/
def State.benchFetch (s : State) (b : BenchId) (r : BenchRun) : State :=
  let asks := (inputSlots r.desc).flatMap (poolAsks r.desc)
  if asks.isEmpty then s.benchCompute b { r with reqs := [] } s.bell.ticks
  else s.benchAsk b { r with stage := .fetch } asks

/-- GATHER operands that are not ready, lowest first. -/
def Bench.unready (x : Bench) (d : Bytes) : List (Nat × Nat) := (gatherSlots d).filter (fun p => !(x.slot p.2).ready)

/-- After the acquire: wait for GATHER operands, or fetch (R356). -/
def State.benchGather (s : State) (b : BenchId) (r : BenchRun) : State :=
  if ((s.bench b).unready r.desc).isEmpty then s.benchFetch b r
  else s.setBench b { s.bench b with run := some { r with stage := .gather, reqs := [] } }

/-- Start an operator whose descriptor has passed its checks. -/
def State.benchGo (s : State) (b : BenchId) (r : BenchRun) : State :=
  if odAcq r.desc then s.benchAsk b { r with stage := .acquire, lastRead := s.bell.ticks } [acquireAsk r.desc]
  else s.benchGather b r

/-- A run that begins now. -/
def State.newRun (s : State) (l : Launch) (d : Bytes) (seed : Dword) : BenchRun :=
  { launch := l, desc := d, stage := .acquire, seed := seed, started := s.bell.ticks, lastRead := 0, readyAt := 0, scope := false,
    poison := false, reqs := [] }

/-- Status of an operator that nothing has failed (R358). -/
def BenchRun.okStatus (r : BenchRun) : BitVec 8 := if r.poison then St.poison else if r.scope then St.scope else St.ok

/-- The outputs are complete: release, or end (R357, R358, R360). -/
def State.benchRelease (s : State) (b : BenchId) (r : BenchRun) (failed : Option (BitVec 8)) : State :=
  match failed with
  | some st => s.benchEnd b r (if r.poison then St.poison else st)
  | none =>
    if odRel r.desc && !r.poison then s.benchAsk b { r with stage := .release } [releaseAsk r.desc]
    else s.benchEnd b r r.okStatus

/-- VENEER_FIT writes its basis slot, or ends with TABLE_BUSY (R351, R437). -/
def State.benchFit (s : State) (b : BenchId) (r : BenchRun) : State :=
  let d := r.desc
  let stream := par d 0 1
  match operandOf d 0, s.slotForWrite stream (par d 1 1) with
  | some o, some g =>
    let data := inputSpan (s.bench b) r 0 o o.addr o.dataBytes false
    let scale := inputSpan (s.bench b) r 0 o o.scaleAddr o.scaleBytes true
    let shape := fmtShape o.fmt
    let basis := opVeneerFit r.seed (par d 2 1) (shapeRows shape) (shapeCols shape)
      ((List.range (par d 4 4)).map (fun p i j => o.plank (inputGet o data scale) p i j))
    let table := (basis.toList.map (fun v => leBytes 2 (encodeElem 2 .nearest false v.num).1)).flatten
    (s.writeSlot stream g shape (par d 2 1) (nextTag (s.slot stream g).tag) table).benchRelease b r none
  | _, _ => (s.venBusy stream (par d 1 1)).benchAbort b r St.tableBusy 15 []

/-- The outputs of an operator are written (R356, R503). -/
def State.benchWrite (s : State) (b : BenchId) (r : BenchRun) : State :=
  let d := r.desc
  let outs := (opResults d (inputMat (s.bench b) r)).filterMap (fun p =>
    (operandOf d p.1).map (fun o => (o, o.write p.2 (odRound d) (odSat d) r.seed p.1)))
  let s := (s.countBench b Reg.bnSat (outs.map (fun p => p.2.sat)).sum).countBench b Reg.bnNan (outs.map (fun p => p.2.nan)).sum
  let x := outs.foldl (fun (x : Bench) p =>
    if p.1.kind == .store then p.2.runs.foldl (fun (x : Bench) q => x.write (odJob d) q.1 q.2) x else x) (s.bench b)
  let (asks, s) := outs.foldl (fun (acc : List Ask × State) p =>
    if p.1.kind == .pool then
      let (l, s) := outputAsks acc.2 p.1 p.2.runs
      (acc.1 ++ l, s)
    else acc) ([], s.setBench b x)
  if asks.isEmpty then s.benchRelease b r none else s.benchAsk b { r with stage := .write } asks

/-! Completions of requests. -/

/-- Record a completion among requests. -/
def gotReq (l : List UReq) (k tick : Nat) (v : BitVec 8 × BitVec 8 × Bytes) : List UReq :=
  l.map (fun r => if r.k == k then { r with got := some v, back := tick } else r)

/-- The tag of request k of a bench has closed (R141). -/
def State.benchSettled (s : State) (b : BenchId) (k : Nat) (st flags : BitVec 8) (data : Bytes) : State :=
  let x := s.bench b
  match x.posts.find? (fun p => p.1 == k) with
  | some p =>
    let s := s.setBench b { x with posts := x.posts.erase p }
    if st == St.ok then s else s.raiseBench b 8 p.2.1 st 15 p.2.2
  | none =>
    let v := (st, flags, data)
    s.setBench b { x with head := gotReq x.head k s.bell.ticks v,
                          run := x.run.map (fun r => { r with reqs := gotReq r.reqs k s.bell.ticks v }) }

end Sys2Proof.Machine
end

