-- ==== Sys2Proof/Machine/BenchRows.lean ====
section
/-!
DEFINITION. The benches' commands (02 R70, R72; 04 R134; 10 R352 to R363).
-/
namespace Sys2Proof.Machine

/-! Launches. -/

/-- A bench that takes an operator now, as far as the bench goes (R352, R515). -/
def State.benchFree (s : State) (b : BenchId) : Bool := (s.bench b).run.isNone && !s.inRecess 1 b.val && !s.benchOffline b.val

/-- Note a skip in TT_OVERRUN_UNIT and TT_ERR, or in FAULT_ERR for a unit offline (R72, R88, R515). `kind` 1 is a bench, 2 a
network unit. -/
def State.noteSkip (s : State) (kind num : Nat) (offline : Bool) : State :=
  if offline then s.raiseFault 6 (if kind = 1 then num else 168 + num) 0
  else
    let s := if bit (s.rd Reg.ttErr) 2 then s else s.wr Reg.ttOverrunUnit (BitVec.ofNat 32 (kind * 256 + num))
    s.raise Reg.ttErr 2

/-- A timetable entry of a bench is skipped (R72, R352). -/
def State.benchSkip (s : State) (b : BenchId) (e : BitVec 128) : State :=
  let (d, s) := s.localRead (ttDescOffset e) 384
  let s := (s.countBench b Reg.bnSkipped 1).raiseBench b 6 (odOp d) St.timeout 15 (ttDescOffset e)
  let s := s.noteSkip 1 b.val (s.benchOffline b.val)
  s.benchPost b d (ttDescOffset e) St.timeout

/-- A timetable entry starts its operator (R352). -/
def State.benchTimetable (s : State) (b : BenchId) (index : Nat) (e : BitVec 128) : State :=
  let o := ttDescOffset e
  let bad := s.localBad o 384
  let (d, s) := s.localRead o 384
  let l : Launch := ⟨.timetable index, o, odJob d, s.bell.ticks, s.bell.bounds⟩
  let r := s.newRun l d (ttSeed s.tt.activeTag b.val index s.bell.now.period)
  let s := s.countBench b Reg.bnLaunchTt 1
  if bad then s.benchAbort b { r with desc := [] } St.media 15 []
  else
    match opRefusal d with
    | some st => s.benchRefused b r st
    | none => s.benchGo b r

/-- TT_LAUNCH_FIRE (R72, R352): the LAUNCH entries of a bench that fire at this slot. -/
def execTtLaunchFire (b : BenchId) (s : State) : Host.Outcome State Fault Refusal :=
  let es := s.firingNow 1 b.val 1
  if es.isEmpty || (s.bench b).firedAt == s.bell.ticks + 1 then .next s
  else
    let s := s.setBench b { s.bench b with firedAt := s.bell.ticks + 1 }
    let skip := fun (s : State) (q : Nat × BitVec 128) => (s.traceFiring 1 b.val q.1 q.2 true).benchSkip b q.2
    if s.benchFree b then
      match es with
      | [] => .next s
      | e :: rest => .next (rest.foldl skip ((s.traceFiring 1 b.val e.1 e.2 false).benchTimetable b e.1 e.2))
    else .next (es.foldl skip s)

/-- The bench that a LAUNCH names, if its queue has room (R134, R515). -/
def State.launchBench (s : State) (aux : Nat) : Option BenchId :=
  if h : aux < 168 then
    if s.benchOffline aux || decide (8 ≤ (s.bench ⟨aux, h⟩).queue.length) then none else some ⟨aux, h⟩
  else (List.finRange 168).find? (fun b => (s.bench b).queue.isEmpty && !s.benchOffline b.val)

/-- FABRIC_LAUNCH (R134): a LAUNCH that has passed the mortise check queues on its bench, or completes at once. -/
def execFabricLaunch (s : State) : Host.Outcome State Fault Refusal :=
  match s.takePassed (fun f => f.opcode == 0x38) with
  | none => .next s
  | some (p, s) =>
    let f := p.frame
    let aux := f.aux.toNat
    if 168 ≤ aux && aux != 0xFFFF then .next (s.complete p.cluster p.cls f St.rsvdSet false [] 0 Config.memoryUnit)
    else
      match s.launchBench aux with
      | none => .next (s.complete p.cluster p.cls f St.timeout false [] 0 Config.memoryUnit)
      | some b =>
        let l : Launch := ⟨.fabric f p.cls p.cluster, f.addr.toNat, f.job, s.bell.ticks, s.bell.bounds⟩
        .next (s.setBench b { s.bench b with queue := (s.bench b).queue ++ [l] })

/-- Slots from now to the next firing of an entry at its FIRST slot, if it fires within this term or the next (R60). -/
def State.slotsToFiring (s : State) (kind : Nat) (e : BitVec 128) : Option Nat :=
  let len := s.bell.len
  let per := s.bell.now.period.toNat
  let slot := s.bell.now.slot.toNat
  if ttInert kind e || len ≤ ttPhase e then none
  else
    let p := per + (ttPhase e + ttMod e - per % ttMod e) % ttMod e
    let p := if p = per && ttFirst e < slot then p + ttMod e else p
    if p < len then some ((p - per) * 256 + ttFirst e - slot) else some ((len - per + ttPhase e) * 256 + ttFirst e - slot)

/-- R354: an operator of latency P started now passes neither the next LAUNCH of the bench nor its next recess. -/
def State.benchFits (s : State) (b : BenchId) (p : Nat) : Bool :=
  !s.runsSchedule || (ttTable s.activeTt 1 b.val).all (fun q =>
    !(ttAction q.2 == 1 || ttAction q.2 == 4) || match s.slotsToFiring 1 q.2 with
      | some n => decide (p ≤ n)
      | none => true)

/-- Descriptor bytes of the launch at the head of the queue, once all its lines have come. -/
def headDesc (l : Launch) (reqs : List UReq) : Bytes := byteRun (reqs.flatMap UReq.data) (l.addr % 128) 384

/-- The lines of a descriptor are read under the JOB, class and address kind of its LAUNCH (R353). -/
def State.benchReadHead (s : State) (b : BenchId) (l : Launch) : State :=
  match l.src with
  | .timetable _ => s
  | .fabric f c _ =>
    let x := s.bench b
    let asks : List Ask := (lineAddrs l.addr 384).map (fun a => ⟨.desc 0, a, 0x01, 0, []⟩)
    let s := s.setBench b { x with head := reqsOf x.nextReq s.bell.ticks asks, nextReq := x.nextReq + asks.length }
    ((List.range asks.length).zip asks).foldl (fun s p =>
      s.benchSend b f.job c (x.nextReq + p.1) p.2.addr f.ak p.2.op 0 []) s

/-- BENCH_LAUNCH_START (R353, R354): the descriptor of the launch at the head of the queue is read; once it has come, the launch
starts at a slot where it cannot overrun. -/
def execBenchLaunchStart (b : BenchId) (s : State) : Host.Outcome State Fault Refusal :=
  let x := s.bench b
  match x.queue with
  | [] => .next s
  | l :: rest =>
    if x.head.isEmpty then (if s.benchOffline b.val then .next s else .next (s.benchReadHead b l))
    else if !allBack x.head || !s.benchFree b then .next s
    else
      let d := headDesc l x.head
      let go := s.setBench b { x with queue := rest, head := [] }
      let r := go.newRun l d (odSeed d)
      let counted := go.countBench b Reg.bnLaunchQ 1
      match firstFailure x.head with
      | some st => .next (counted.benchAbort b { r with desc := [] } st 15 [])
      | none =>
        match opRefusal d with
        | some st => .next (counted.benchRefused b r st)
        | none =>
          if odJob d != l.job then .next (counted.benchRefused b r St.denied)
          else if s.benchFits b (opReserve d) then .next (counted.benchGo b r)
          else .next s

/-- BENCH_QUEUE_TIMEOUT (R354): a launch that has not started within one term of its arrival. -/
def execBenchQueueTimeout (b : BenchId) (s : State) : Host.Outcome State Fault Refusal :=
  let x := s.bench b
  match x.queue with
  | [] => .next s
  | l :: rest =>
    if s.bell.bounds < l.bound + s.bell.len then .next s
    else
      let known := !x.head.isEmpty && allBack x.head && (firstFailure x.head).isNone
      let d := if known then headDesc l x.head else []
      let s := s.setBench b { x with queue := rest, head := [] }
      let s := s.raiseBench b 5 (odOp d) St.timeout 15 l.addr
      let s := if known && (opRefusal d).isNone && odJob d == l.job then s.benchPost b d l.addr St.timeout else s
      .next (s.launchCpl b l St.timeout)

/-! Waits. -/

/-- BENCH_ACQUIRE_POLL (R355): the acquire read has come back; the flag holds, is read again every 8 slots, or the wait ends. -/
def execBenchAcquirePoll (b : BenchId) (s : State) : Host.Outcome State Fault Refusal :=
  match (s.bench b).run with
  | none => .next s
  | some r =>
    if r.stage != .acquire || !allBack r.reqs then .next s
    else
      match r.reqs with
      | [] => .next s
      | q :: _ =>
        if !delivers q.status then .next (s.benchAbort b r q.status 15 [])
        else if flagHolds r.desc q.data then
          let spans := s.localSpans (odJob r.desc) (odRangeBase r.desc) (128 * odRangeLines r.desc)
          let s := s.setBench b ((s.bench b).invalidate spans)
          .next (s.benchGather b { r with scope := q.status == St.scope })
        else if r.started + odWait r.desc ≤ s.bell.ticks then .next (s.benchAbort b r St.timeout 15 [2])
        else if r.lastRead + 8 ≤ s.bell.ticks then .next (s.benchAsk b { r with lastRead := s.bell.ticks } [acquireAsk r.desc])
        else .next s

/-- BENCH_GATHER_WAIT_END (R356, R447): the slots of the GATHER operands are ready, or one is invalid, or the wait ends. -/
def execBenchGatherWaitEnd (b : BenchId) (s : State) : Host.Outcome State Fault Refusal :=
  match (s.bench b).run with
  | none => .next s
  | some r =>
    if r.stage != .gather then .next s
    else
      let wait := (s.bench b).unready r.desc
      match wait with
      | [] => .next (s.benchFetch b r)
      | p :: _ =>
        match wait.find? (fun q => ((s.bench b).slot q.2).invalid.isSome) with
        | some q => .next (s.benchAbort b r (((s.bench b).slot q.2).invalid.getD St.media) q.1 [])
        | none => if r.started + odWait r.desc ≤ s.bell.ticks then .next (s.benchAbort b r St.timeout p.1 [3]) else .next s

/-! The operator. -/

/-- Slots by which the POOL operands put off the result: the fetch of each one's first tile or line (R362). -/
def fetchDelay (r : BenchRun) : Nat :=
  ((inputSlots r.desc).map (fun i => match reqsFor r.reqs i false with
    | [] => 0
    | q :: _ => q.back - q.sent)).sum

/-- BENCH_OPERANDS_FETCHED (R356, R358): every POOL operand has come, or the first in order of the operands has failed. -/
def execBenchOperandsFetched (b : BenchId) (s : State) : Host.Outcome State Fault Refusal :=
  match (s.bench b).run with
  | none => .next s
  | some r =>
    if r.stage != .fetch || !allBack r.reqs then .next s
    else
      let of := fun (i : Nat) => reqsFor r.reqs i false ++ reqsFor r.reqs i true
      let started := ((r.reqs.head?).map (·.sent)).getD s.bell.ticks
      match (inputSlots r.desc).findSome? (fun i => (firstFailure (of i)).map (fun st => (i, st))) with
      | some (i, st) => .next (s.benchAbort b r st i [])
      | none =>
        match (inputSlots r.desc).find? (fun i => (of i).any (fun q => q.status == St.poison)) with
        | some i =>
          let s := s.raiseBench b 4 (odOp r.desc) St.poison i r.launch.addr
          .next (s.benchCompute b { r with poison := true } (started + fetchDelay r))
        | none => .next (s.benchCompute b r (started + fetchDelay r))

/-- BENCH_COMPUTE_DONE (R362): L slots after the inputs were at hand the results exist, and the outputs are written. -/
def execBenchComputeDone (b : BenchId) (s : State) : Host.Outcome State Fault Refusal :=
  match (s.bench b).run with
  | none => .next s
  | some r =>
    if r.stage != .compute || s.bell.ticks < r.readyAt + opLatency r.desc then .next s
    else
      let n := foreignReads (s.bench b) r.desc
      let s := (List.range n).foldl (fun s _ => (s.bump Reg.secStoreForeign).raiseSec 6 3 b.val) s
      .next (if odOp r.desc = 9 then s.benchFit b r else s.benchWrite b r)

/-- BENCH_OUTPUTS_DONE (R357, R360): every write of the outputs has completed. -/
def execBenchOutputsDone (b : BenchId) (s : State) : Host.Outcome State Fault Refusal :=
  match (s.bench b).run with
  | none => .next s
  | some r =>
    if r.stage != .write || !allBack r.reqs then .next s
    else .next (s.benchRelease b r (firstNotOk r.reqs))

/-- BENCH_RELEASE_DONE (R357): the flag write has completed, and the operator ends. -/
def execBenchReleaseDone (b : BenchId) (s : State) : Host.Outcome State Fault Refusal :=
  match (s.bench b).run with
  | none => .next s
  | some r =>
    if r.stage != .release || !allBack r.reqs then .next s
    else .next (s.benchEnd b r ((firstNotOk r.reqs).getD r.okStatus))

/-! BN_CTRL (R363). -/

/-- CLEAR_STORE of an idle bench (R363, R503). -/
def State.clearStore (s : State) (b : BenchId) : State :=
  let x := s.bench b
  if x.run.isNone && !s.inRecess 1 b.val then s.setBench b { x with store := [], slots := [] } else s

/-- CLR_COUNTERS of a bench. -/
def State.clearBench (s : State) (b : BenchId) : State :=
  let at_ := fun (reg : Nat → Nat → Nat) => reg (b.val / 14) (benchIn b)
  let s := s.setBench b { s.bench b with busy := 0 }
  s.zeroRegs ([Reg.bnLaunchTt, Reg.bnLaunchQ, Reg.bnSkipped, Reg.bnAborts, Reg.bnSat, Reg.bnNan].map at_)

/-- BENCH_CLEAR_STORE (R363). -/
def execBenchClearStore (h : HostPort) (b : BenchId) (s : State) : Host.Outcome State Fault Refusal :=
  .next (s.hostWrite h (Reg.bnCtrl (b.val / 14) (benchIn b)) (fun s => s.clearStore b))

/-- BENCH_CLR_COUNTERS (R363). -/
def execBenchClrCounters (h : HostPort) (b : BenchId) (s : State) : Host.Outcome State Fault Refusal :=
  .next (s.hostWrite h (Reg.bnCtrl (b.val / 14) (benchIn b)) (fun s => s.clearBench b))

/-! Recess (R70). -/

/-- RECESS_START (R70, R518): recess activities of the unit, and of the stacks that share its recess, ask the arbiter. -/
def execRecessStart (kind : Fin 3) (num : Fin 192) (s : State) : Host.Outcome State Fault Refusal :=
  let slot := s.bell.now.slot.toNat
  let es := (s.covering kind.val num.val 4).filter (fun q => ttFirst q.2 == slot)
  if es.isEmpty then .next s
  else
    let mine := fun (a : Activity) =>
      (kind.val == 0 && a.kind.val == 1 && a.unit == num.val) || (kind.val == 1 && a.kind.val == 4 && a.unit == num.val)
        || (kind.val == 2 && a.kind.val == 5 && a.unit == num.val)
        || (a.kind.val == 2 && es.any (fun q => bits (ttStackMask kind.val q.2) a.unit a.unit == 1))
    let asks := s.fault.waiting.filter (fun a => recessClass a.cls.val && mine a && (!a.pending || a.askedAt != s.bell.ticks))
    let s := es.foldl (fun s q => s.traceFiring kind.val num.val q.1 q.2 false) (asks.foldl (fun s a => s.arbitrate a) s)
    -- a running self-test counts the run, a stack's its slots (R545, R548)
    let slots := es.foldl (fun m q => max m (ttLast q.2 + 1 - ttFirst q.2)) 0
    .next (s.withFault { s.fault with running := s.fault.running.map (fun a =>
      if a.cls == 7 && mine a && (a.progress == 0 || a.askedAt != s.bell.ticks) then
        { a with progress := a.progress + (if a.kind == 2 then slots else 1), askedAt := s.bell.ticks } else a) })

end Sys2Proof.Machine
end

