-- ==== Sys2Proof/Machine/NetOps.lean ====
section
/-!
DEFINITION. The network units' shared operations (12 R398 to R422): descriptors and their checks, sessions and contributions, the
merge, deliveries, walks and selections.
-/
namespace Sys2Proof.Machine

/-! Units and work. -/

def State.netUnit (s : State) (u : NetId) : NetUnit := s.net.units.get NetUnit.reset u.val

/-- STATE of a piece of work as R429 codes it. -/
def NetStage.code : NetStage → Nat
  | .acquire => 1
  | .consume => 1
  | .run => 2
  | .merge => 2
  | .deliver => 3
  | .release => 3

/-- STATE of a unit outside recess: of several sessions the one that has come furthest. OP of its first work. -/
def NetUnit.state (x : NetUnit) : Nat := x.works.foldl (fun m w => max m w.stage.code) 0
def NetUnit.op (x : NetUnit) : Nat := ((x.works.head?).map (fun w => odOp w.desc)).getD 0

def State.setNetUnit (s : State) (u : NetId) (x : NetUnit) : State :=
  let y := s.netUnit u
  (s.withNet { s.net with units := s.net.units.put NetUnit.reset u.val x }).traceState (256 + u.val) y.state x.state (max x.op y.op)

/-- What a unit is: 0 reduce, 1 gather, 2 filter (R398). -/
def netKind (u : NetId) : Nat := u.val / 12

/-- SRC_UNIT of a network unit (R130), and the cluster from which it sends. -/
def netUnitId (u : NetId) : BitVec 10 := BitVec.ofNat 10 (512 + u.val)
def netCluster (u : NetId) : Fin 12 := ⟨u.val % 12, Nat.mod_lt _ (by decide)⟩

/-- Change a piece of work of a unit. -/
def State.setWorkOf (s : State) (u : NetId) (w : NetWork) : State :=
  s.setNetUnit u { s.netUnit u with works := (s.netUnit u).works.map (fun v => if v.ctx == w.ctx then w else v) }

/-- Raise a bit of NET_ERR (R429, R430). -/
def State.raiseNet (s : State) (n unit : Nat) (st : BitVec 8) (f : Option Frame) : State :=
  let src : Word := match f with
    | some f => (0 : BitVec 4) ++ f.srcSwitch ++ (0 : BitVec 6) ++ f.srcUnit
    | none => 0
  s.raise Reg.netErr n [(Reg.netErrCapture, BitVec.ofNat 32 (unit % 256 * 2 ^ 24 + st.toNat * 2 ^ 16 + n)), (Reg.netErrCaptureSw, src)]

/-- A request of a unit with all that it may carry. -/
structure NetAsk where
  what : UWhat
  addr : Nat
  ak : Bool
  op : BitVec 8
  scope : BitVec 2
  flags : BitVec 8
  dest : BitVec 12
  payload : Bytes
  deriving DecidableEq, Repr

/-- A request to this switch's own pool, in job-local addresses. -/
def State.ownAsk (s : State) (a : Ask) : NetAsk := ⟨a.what, a.addr, false, a.op, a.scope, 0, s.swNum, a.payload⟩

/-- A request in addresses of the pool of this switch. -/
def State.poolAsk (s : State) (a : Ask) : NetAsk := ⟨a.what, a.addr, true, a.op, a.scope, 0, s.swNum, a.payload⟩

/-- Send requests of a unit for a piece of work; their records join those of the work. -/
def State.netAsk (s : State) (u : NetId) (w : NetWork) (asks : List NetAsk) : State :=
  let x := s.netUnit u
  let recs := ((List.range asks.length).zip asks).map (fun p => (⟨x.nextReq + p.1, p.2.what, p.2.addr, s.bell.ticks, 0, none⟩ : UReq))
  let s := s.setNetUnit u { x with nextReq := x.nextReq + asks.length }
  let s := s.setWorkOf u { w with reqs := w.reqs ++ recs }
  ((List.range asks.length).zip asks).foldl (fun s p =>
    let q := p.2
    let h : HdrFields := { addr := BitVec.ofNat 64 q.addr, seq := 0, len := q.payload.length, dest := q.dest, srcSwitch := s.swNum,
                           srcUnit := netUnitId u, tag := 0, job := odJob w.desc, scope := q.scope, flags := q.flags, opcode := q.op,
                           ak := q.ak }
    s.originate (netUnitId u) (netCluster u) (odClass w.desc) h.pack q.payload (.net u (x.nextReq + p.1))) s

/-! Completion (R401). -/

/-- Post a status to the target that a descriptor names (R357). -/
def State.netPost (s : State) (u : NetId) (d : Bytes) (st : BitVec 8) : State :=
  if !hasTarget d then s
  else if odKind d = 1 then (s.operatorCpl (odHost d) (odRing d) (odOp d) st.toNat (odArg d) (512 + u.val)).1
  else
    let x := s.netUnit u
    let s := s.setNetUnit u { x with nextReq := x.nextReq + 1 }
    let (op, payload) := linePayload (odArg d % 128) (statusWord st (odOp d) s.now) true
    let h : HdrFields := { addr := BitVec.ofNat 64 (odArg d / 128 * 128), seq := 0, len := payload.length, dest := s.swNum,
                           srcSwitch := s.swNum, srcUnit := netUnitId u, tag := 0, job := odJob d, opcode := op }
    s.originate (netUnitId u) (netCluster u) (odClass d) h.pack payload (.net u x.nextReq)

/-- Work ends with a status (R401). -/
def State.netEnd (s : State) (u : NetId) (w : NetWork) (st : BitVec 8) : State :=
  let x := s.netUnit u
  let s := s.setNetUnit u { x with works := x.works.filter (fun v => v.ctx != w.ctx) }
  let s := s.addJob (odJob w.desc) 5 (56 * (s.bell.ticks - w.started) / 5)
  let s := if st == St.ok || st == St.scope then s else s.bump (Reg.nuFailed u.val)
  if field w.desc 0 1 % 4 == 1 then s.netPost u w.desc st else s

/-- Status of work that nothing has failed. -/
def NetWork.okStatus (w : NetWork) : BitVec 8 := if w.scope then St.scope else St.ok

/-- The outputs are complete: release, or end (R401). -/
def State.netRelease (s : State) (u : NetId) (w : NetWork) : State :=
  if odRel w.desc then s.netAsk u { w with stage := .release, reqs := [] } [s.ownAsk (releaseAsk w.desc)]
  else s.netEnd u w w.okStatus

/-! Descriptor fields and checks (R400). -/

/-- Bytes that hold something other than 0. -/
def setIn (d : Bytes) (i n : Nat) : Bool := field d i n != 0

/-- Session fields (R404). -/
def rdFn (d : Bytes) : Nat := field d 128 1
def rdIn (d : Bytes) : Nat := field d 129 1
def rdOut (d : Bytes) : Nat := field d 130 1
def rdKind (d : Bytes) : Nat := field d 131 1 % 4
def rdFinal (d : Bytes) : Bool := field d 131 1 / 4 % 2 == 1
def rdIncomplete (d : Bytes) : Bool := field d 131 1 / 8 % 2 == 1
def rdRows (d : Bytes) : Nat := field d 132 2
def rdCols (d : Bytes) : Nat := field d 134 2
def rdGroups (d : Bytes) : Nat := field d 136 1
def rdSession (d : Bytes) : Nat := field d 144 2
def rdExpects (d : Bytes) (i : Nat) : Bool := decide (i < 192) && field d (152 + i / 8) 1 / 2 ^ (i % 8) % 2 == 1
def rdExpect (d : Bytes) : List Nat := (List.range 192).filter (rdExpects d)

/-- A LOCAL entry (R405). -/
structure LocalEntry where
  data : Nat
  ml : Nat
  flag : Nat
  group : Nat
  contrib : Nat
  row0 : Nat
  rc : Nat
  deriving DecidableEq, Repr

def localEntry (d : Bytes) (e : Nat) : LocalEntry :=
  let b := byteRun d (256 + 32 * e) 32
  ⟨field b 0 8, field b 8 8, field b 16 8, field b 24 1, field b 25 1, field b 28 2, field b 30 2⟩

def localValid (d : Bytes) (e : Nat) : Bool := field d (256 + 32 * e + 26) 1 % 2 == 1

/-- VALID LOCAL entries, in order, with their numbers. -/
def locals (d : Bytes) : List (Nat × LocalEntry) := ((List.range 16).filter (localValid d)).map (fun e => (e, localEntry d e))

/-- Number of a contribution in the session's table. -/
def contribKey (g i : Nat) : Nat := 192 * g + i

/-- S of a contribution of `rc` rows (R406). -/
def contribSize (d : Bytes) (rc : Nat) : Nat :=
  if rdFn d = 3 then 4 * rc * rdCols d + 8 * rc else rc * rdCols d * (fmtBits (rdIn d) / 8)

/-- Keys of every contributor of every group (R406). -/
def contributors (d : Bytes) : List Nat :=
  (List.range (rdGroups d)).flatMap (fun g =>
    ((locals d).filter (fun p => p.2.group == g)).map (fun p => contribKey g p.2.contrib) ++ (rdExpect d).map (contribKey g))

def noRepeats : List Nat → Bool
  | [] => true
  | x :: xs => !xs.contains x && noRepeats xs

/-- Reserved fields and limits of a session descriptor (R404 to R406). -/
def sessionReserved (d : Bytes) : Bool :=
  let lse := rdFn d == 3
  let floatIn := rdIn d == 1 || rdIn d == 2 || rdIn d == 3
  let ls := locals d
  let perGroup := fun (g : Nat) => (ls.filter (fun p => p.2.group == g)).length + (rdExpect d).length
  decide (3 < rdFn d)
    || (if lse then rdIn d != 1 || !(rdOut d == 1 || rdOut d == 2) || decide (rdRows d = 0 ∨ 256 < rdRows d)
          || !(rdCols d == 64 || rdCols d == 128 || rdCols d == 256)
        else !(floatIn || rdIn d == 11) || !fmtExists (rdOut d) || (rdOut d == 11 && rdIn d != 11) || rdRows d == 0 || rdCols d == 0
          || rdFinal d || (blockScaled (rdOut d) && rdCols d % 32 != 0))
    || decide (16 ≤ field d 131 1) || decide (rdGroups d = 0 ∨ 16 < rdGroups d) || setIn d 139 1 || setIn d 146 2
    || (rdKind d == 1 && field d 176 8 % 128 != 0) || decide (4096 ≤ field d 184 2) || setIn d 187 1 || setIn d 190 2
    || (rdKind d == 3 && decide (12 ≤ field d 186 1)) || setIn d 200 56 || setIn d 768 256
    || (List.range 16).any (fun e =>
        let b := byteRun d (256 + 32 * e) 32
        if localValid d e then
          decide (2 ≤ field b 26 1) || setIn b 27 1 || decide (rdGroups d ≤ field b 24 1) || decide (192 ≤ field b 25 1)
            || field b 16 8 % 8 != 0 || (!lse && setIn b 8 8)
        else b.any (· != 0))
    || !noRepeats (contributors d)
    || (List.range (rdGroups d)).any (fun g => decide (perGroup g = 0 ∨ 192 < perGroup g))
    || ls.any (fun p => if lse then decide (rdRows d < p.2.row0 + p.2.rc) else p.2.row0 != 0 || p.2.rc != rdRows d)
    || decide (2 ^ 20 < (ls.map (fun p => contribSize d p.2.rc)).sum + rdGroups d * (rdExpect d).length * contribSize d (rdRows d))
    || (rdKind d == 3 && !(rdExpect d).isEmpty)

/-- Walk fields (R413, R414). -/
def gdKind (d : Bytes) : Nat := field d 128 1
def gdTargets (d : Bytes) : Nat := field d 129 1
def gdSlot (d : Bytes) : Nat := field d 130 2 % 32768
def gdSeq (d : Bytes) : Nat := field d 132 4
def gdLayer (d : Bytes) : Nat := field d 136 1
def gdHead0 (d : Bytes) : Nat := field d 137 1
def gdStored (d : Bytes) : Bool := field d 138 1 % 2 == 1

/-- A target entry. -/
structure Target where
  kind : Nat
  list : Bool
  bench : Nat
  head : Nat
  first : Nat
  count : Nat
  dest : Nat
  deriving DecidableEq, Repr

def targetOf (d : Bytes) (i : Nat) : Target :=
  let b := byteRun d (256 + 16 * i) 16
  ⟨field b 0 1 % 4, field b 0 1 / 4 % 2 == 1, field b 1 1, field b 2 1, field b 4 4, field b 8 4, field b 12 4⟩

/-- Planks of a block (R369); 1 outside CONTEXT. -/
def State.planksPer (s : State) (d : Bytes) : Nat := if gdKind d = 0 then max 1 (shPlanks (s.slotShape (gdSlot d))) else 1

/-- Planks of a target. -/
def State.targetPlanks (s : State) (d : Bytes) (t : Target) : Nat := t.count * s.planksPer d

/-- Store slots of a BENCH target. -/
def State.targetSlots (s : State) (d : Bytes) (t : Target) : Nat × Nat := (t.dest / 32768, t.dest / 32768 + s.targetPlanks d t)

/-- Reserved fields and limits of a walk descriptor (R413, R414). -/
def State.walkReserved (s : State) (d : Bytes) : Bool :=
  let ts := (List.range (gdTargets d)).map (targetOf d)
  let benches := ts.filter (fun t => t.kind == 0)
  decide (2 < gdKind d) || decide (16 < gdTargets d) || decide (32768 ≤ field d 130 2) || decide (2 ≤ field d 138 1) || setIn d 139 1
    || setIn d 168 88 || field d 160 8 % 32768 != 0
    || (List.range 16).any (fun i =>
        let b := byteRun d (256 + 16 * i) 16
        if i < gdTargets d then
          let t := targetOf d i
          t.kind == 3 || decide (8 ≤ field b 0 1) || setIn b 3 1 || (t.list && gdKind d != 0)
            || (t.kind == 0 && (decide (168 ≤ t.bench) || t.dest % 32768 != 0 || decide (128 < (s.targetSlots d t).2)))
            || (t.kind == 2 && (t.dest / 4096 % 16 != 0 || t.dest / 2 ^ 24 != 0))
        else b.any (· != 0))
    || (List.range benches.length).any (fun i => (List.range i).any (fun j =>
        match benches[i]?, benches[j]? with
        | some a, some b =>
          let x := s.targetSlots d a
          let y := s.targetSlots d b
          a.bench == b.bench && decide (x.1 < y.2) && decide (y.1 < x.2)
        | _, _ => false))

/-- Selection fields (R419). -/
def fdKind (d : Bytes) : Nat := field d 128 1
def fdHeads (d : Bytes) : Nat := field d 138 1
def fdK (d : Bytes) : Nat := field d 140 4
def fdFirst (d : Bytes) : Nat := field d 152 4
def fdCand (d : Bytes) : Nat := field d 156 4
def fdRows (d : Bytes) : Nat := field d 160 2

/-- Reserved fields and limits of a selection descriptor (R419); an empty selection has no candidates to limit. -/
def selectionReserved (d : Bytes) : Bool :=
  decide (1 < fdKind d) || decide (4 ≤ field d 129 1) || decide (32768 ≤ field d 130 2) || decide (16 < fdHeads d) || setIn d 162 6
    || setIn d 200 312
    || (fdHeads d != 0 && (decide (fdK d = 0 ∨ 4096 < fdK d) || fdCand d == 0
        || (if fdKind d = 0 then decide (65536 < fdCand d) || !macFmt (field d 139 1) || decide (fdRows d = 0 ∨ 256 < fdRows d)
            else decide (1048576 < fdCand d))))

/-- Bytes of a descriptor of a unit. -/
def netDescBytes (u : NetId) : Nat := if netKind u = 0 then 1024 else 512

/-- The descriptor check of a unit (R16, R400): FORMAT, then RSVD_SET. -/
def State.netRefusal (s : State) (u : NetId) (d : Bytes) : Option (BitVec 8) :=
  if field d 0 1 % 4 != 1 then some 0x0E
  else if headReserved true d || decide (8 ≤ field d 2 1) || decide (1 < odRound d) || setIn d 24 40 || odOp d != 0x40 + netKind u
      || (if netKind u = 0 then sessionReserved d else if netKind u = 1 then s.walkReserved d else selectionReserved d) then some 0x0F
  else none

/-! NET_OP frames (R402, R403). -/

/-- ADDR of a DELIVER or of a relayed CONTRIB. -/
def netAddr (sw low : Nat) : Nat := sw * 2 ^ 48 + low

/-- A DELIVER segment (R403). -/
def State.deliverAsk (_s : State) (u : NetId) (sw port group : Nat) (st : BitVec 8) (offset total cookie : Nat) (data : Bytes) : NetAsk :=
  ⟨.deliver, netAddr sw port, true, 0x58, 0, 0, BitVec.ofNat 12 sw,
   [0x08] ++ leBytes 1 group ++ leBytes 1 u.val ++ [0, st] ++ List.replicate 11 0 ++ leBytes 4 offset ++ leBytes 4 total
     ++ leBytes 8 cookie ++ data⟩

/-- Pieces of at most 992 bytes, with their offsets. -/
def segments (bs : Bytes) : List (Nat × Bytes) :=
  (List.range (max 1 (ceilDiv bs.length 992))).map (fun i => (992 * i, (bs.drop (992 * i)).take 992))

/-- The DELIVER segments of a delivery. -/
def State.deliverAsks (s : State) (u : NetId) (sw port group : Nat) (st : BitVec 8) (cookie : Nat) (bs : Bytes) : List NetAsk :=
  (segments bs).map (fun p => s.deliverAsk u sw port group st p.1 bs.length cookie p.2)

/-- Requests that write a run of bytes in job-local addresses, the last line masked (R411, R420). -/
def State.writeAsks (s : State) (addr : Nat) (bs : Bytes) : List NetAsk :=
  let parts := lineParts addr bs
  ((List.range parts.length).zip parts).map (fun p =>
    let w := linePayload p.2.2.1 p.2.2.2 (p.1 + 1 == parts.length)
    s.ownAsk ⟨.output, p.2.1, w.1, 0, w.2⟩)

/-- Line reads that cover bytes from an address. -/
def readAsks (what : UWhat) (addr n : Nat) : List Ask := if n = 0 then [] else (lineAddrs addr n).map (fun a => ⟨what, a, 0x01, 0, []⟩)

/-- `n` bytes from an address, out of the lines read for a purpose. -/
def readBack (l : List UReq) (what : UWhat) (addr n : Nat) : Bytes :=
  byteRun ((l.filter (fun r => r.what == what)).flatMap UReq.data) (addr % 128) n

/-! Sessions (R407 to R411). -/

def NetWork.contrib (w : NetWork) (key : Nat) : Contrib := w.contribs.get Contrib.reset key

/-- Contributors that are neither complete nor failed. -/
def NetWork.missing (w : NetWork) : List Nat := (contributors w.desc).filter (fun k => (w.contrib k).ended.isNone)

/-- A contributor ends. -/
def NetWork.endContrib (w : NetWork) (key tick : Nat) (c : Contrib) (st : BitVec 8) : NetWork :=
  { w with contribs := w.contribs.put Contrib.reset key { c with ended := some st }, endedAt := tick }

/-- LOCAL entries whose flag has not been seen to hold and that have not failed. -/
def NetWork.unready (w : NetWork) : List (Nat × LocalEntry) :=
  (locals w.desc).filter (fun p => !w.held.contains p.1 && (w.contrib (contribKey p.2.group p.2.contrib)).ended.isNone)

/-- Read the flags that are not yet ready (R407). -/
def State.readFlags (s : State) (u : NetId) (w : NetWork) : State :=
  s.netAsk u { w with lastRead := s.bell.ticks } (w.unready.map (fun p =>
    s.ownAsk ⟨.flag p.1, p.2.flag / 128 * 128, 0x01, odAcqScope w.desc, []⟩))

/-- The running maxima and sums of an LSE contribution, and its output vectors. -/
def Contrib.row (c : Contrib) (dim r : Nat) : AttnRow :=
  let word := fun (i : Nat) => (BitVec.ofNat 32 (field c.data i 4) : F32)
  let ml := 4 * c.rc * dim + 8 * r
  ⟨(List.range dim).map (fun j => word (4 * (r * dim + j))), word ml, word (ml + 4)⟩

/-- Every m of an LSE contribution is −Inf (R411). -/
def Contrib.allEmpty (c : Contrib) (dim : Nat) : Bool := (List.range c.rc).all (fun r => (c.row dim r).m == fNegInf)

/-- Contributions of a group in ascending CONTRIB. -/
def NetWork.ofGroup (w : NetWork) (g : Nat) : List Contrib :=
  (((contributors w.desc).filter (fun k => k / 192 == g)).mergeSort (fun a b => decide (a ≤ b))).map w.contrib

/-- The merge of one element by SUM, MAX or MIN in FP32 (R409). -/
def mergeElem (fn : Nat) : List F32 → F32
  | [] => fZero
  | x :: xs => xs.foldl (fun a y => if fn = 1 then fMax a y else if fn = 2 then fMin a y else fAdd a y) x

/-- The same for INT32, as 32-bit codes. -/
def mergeInt (fn : Nat) : List Word → Word
  | [] => 0
  | x :: xs => xs.foldl (fun a y => if fn = 1 then (if a.slt y then y else a) else if fn = 2 then (if y.slt a then y else a) else a + y) x

/-- Encoded results of OUT_FMT (R409, R328 to R332). -/
def encodeResults (d : Bytes) (seed : Dword) (g : Nat) (vs : List Num) : Bytes :=
  let f := rdOut d
  let how := fun (p : Nat × Num) => (p.2, roundOf (odRound d) seed g p.1)
  let xs := ((List.range vs.length).zip vs).map how
  if blockScaled f then
    packCodes (fmtBits f) ((List.range (xs.length / 32)).flatMap (fun b =>
      (encodeBlock f (odSat d) ((xs.drop (32 * b)).take 32)).2.1)).toArray
  else packCodes (fmtBits f) (xs.map (fun p => (encodeElem f p.2 (odSat d) p.1).1)).toArray

/-- The result of a group of SUM, MAX or MIN (R409). -/
def NetWork.plainResult (w : NetWork) (g : Nat) : Bytes :=
  let d := w.desc
  let cs := (w.ofGroup g).map (fun c => (c.row0, c.rc, c.data.toArray))
  let size := fmtBits (rdIn d) / 8
  let n := rdRows d * rdCols d
  let codes := fun (i : Nat) => cs.filterMap (fun c =>
    let r := i / rdCols d
    if c.1 ≤ r && r < c.1 + c.2.1 then
      let o := (i - c.1 * rdCols d) * size
      some (leNat ((List.range size).map (fun j => c.2.2.getD (o + j) 0)))
    else none)
  if rdIn d = 11 then
    let vs := (List.range n).map (fun i => mergeInt (rdFn d) ((codes i).map (BitVec.ofNat 32)))
    if rdOut d = 11 then (vs.map (fun v => leBytes 4 v.toNat)).flatten
    else encodeResults d w.seed g (vs.map (fun v => (toF32 (decodeElem 11 v.toNat)).num))
  else
    encodeResults d w.seed g ((List.range n).map (fun i =>
      (mergeElem (rdFn d) ((codes i).map (fun v => toF32 (decodeElem (rdIn d) v)))).num))

/-- The LSE record of a group (R394, R409, R411). -/
def NetWork.lseResult (w : NetWork) (g : Nat) : Bytes :=
  let d := w.desc
  let dim := rdCols d
  let cs := w.ofGroup g
  let rows := (List.range (rdRows d)).map (fun r =>
    mergeRow (rdFinal d) ((cs.filter (fun c => c.row0 ≤ r && r < c.row0 + c.rc)).map (fun c => c.row dim (r - c.row0))) dim)
  let flags := b2n (rdFinal d) + 2 * b2n (rdIncomplete d || cs.any (·.incomplete)) + 4 * b2n (cs.all (·.empty))
  [1] ++ leBytes 1 flags ++ leBytes 2 (rdRows d) ++ leBytes 2 dim ++ leBytes 1 (rdOut d) ++ [0xFF] ++ leBytes 4 (field d 140 4)
    ++ leBytes 1 (field d 138 1) ++ leBytes 1 (field d 137 1 + g) ++ [0, 0] ++ leBytes 8 (field d 192 8) ++ List.replicate 8 0
    ++ encodeResults d w.seed g (rows.flatMap (fun x => x.o.map (·.num)))
    ++ (rows.map (fun x => leBytes 4 x.m.toNat ++ leBytes 4 x.l.toNat)).flatten

def NetWork.result (w : NetWork) (g : Nat) : Bytes := if rdFn w.desc = 3 then w.lseResult g else w.plainResult g

/-- Total bytes of the contributions (R412). -/
def NetWork.mergeBytes (w : NetWork) : Nat := ((contributors w.desc).map (fun k => (w.contrib k).data.length)).sum

/-- Slots of the merge (R412). -/
def NetWork.mergeSlots (w : NetWork) : Nat :=
  12 + ceilDiv (5 * (16 + (if rdFn w.desc = 3 then 2 else 1) * ceilDiv w.mergeBytes 1024)) 56

/-- Requests that deliver a merged session (R411). -/
def State.sessionAsks (s : State) (u : NetId) (w : NetWork) : List NetAsk :=
  let d := w.desc
  let gs := List.range (rdGroups d)
  match rdKind d with
  | 1 => gs.flatMap (fun g =>
      let x := w.result g
      s.writeAsks (field d 176 8 + g * (ceilDiv x.length 128 * 128)) x)
  | 2 => gs.flatMap (fun g => s.deliverAsks u (field d 184 2) (field d 186 1) g w.okStatus (field d 192 8) (w.result g))
  | _ => []

/-- The DELIVER frames of a session to a port that has failed (R411). -/
def State.failureAsks (s : State) (u : NetId) (d : Bytes) (st : BitVec 8) : List NetAsk :=
  if rdKind d = 2 then (List.range (rdGroups d)).map (fun g =>
    s.deliverAsk u (field d 184 2) (field d 186 1) g st 0 0 (field d 192 8) [])
  else []

/-- The CONTRIB segments of a relay (R411). -/
def State.relayAsks (_s : State) (w : NetWork) : List NetAsk :=
  let d := w.desc
  let sw := field d 184 2
  (locals d).flatMap (fun p =>
    let c := w.contrib (contribKey p.2.group p.2.contrib)
    let st := c.ended.getD St.timeout
    let total := contribSize d p.2.rc
    let flags := b2n (rdIncomplete d) + 2 * b2n (rdFn d == 3 && c.allEmpty (rdCols d))
    (if st == St.ok then segments c.data else [(0, [])]).map (fun q =>
      ⟨.deliver, netAddr sw (field d 186 1 * 65536 + field d 188 2), true, 0x58, 0, 0, BitVec.ofNat 12 sw,
       [0x01] ++ leBytes 1 p.2.group ++ leBytes 1 p.2.contrib ++ leBytes 1 flags ++ [st] ++ List.replicate 3 0 ++ leBytes 2 w.period.toNat
         ++ [0, 0] ++ leBytes 4 q.1 ++ leBytes 4 total ++ leBytes 2 p.2.row0 ++ leBytes 2 p.2.rc ++ List.replicate 8 0 ++ q.2⟩))

/-- Deliver, or go on to the release where there is nothing to deliver. -/
def State.netDeliver (s : State) (u : NetId) (w : NetWork) (asks : List NetAsk) : State :=
  if asks.isEmpty then
    match w.failed with
    | some st => s.netEnd u w st
    | none => s.netRelease u w
  else s.netAsk u { w with stage := .deliver, reqs := [] } asks

/-- A session fails: its port learns it, and it ends (R410, R411). -/
def State.sessionFails (s : State) (u : NetId) (w : NetWork) (st : BitVec 8) : State :=
  s.netDeliver u { w with failed := some st } (s.failureAsks u w.desc st)

/-! Contexts (R370, R371, R415). -/

/-- The slot is VALID with this sequence and job. -/
def State.contextOk (s : State) (slot seq : Nat) (job : BitVec 12) : Bool :=
  let c := s.rollCfg slot
  cfgValid c && cfgSeq c == seq && cfgJob c == job

/-- Resolve block number b: the slot that owns it and its own index; none beyond BT_BLOCKS (R370, R415). -/
def State.resolveBlock (s : State) : Nat → Nat → Nat → Option (Nat × Nat)
  | 0, _, _ => none
  | fuel + 1, slot, b =>
    let c := s.rollCfg slot
    let base := cfgBase c / 128
    if b < base then
      match cfgParent c with
      | some p => s.resolveBlock fuel p b
      | none => none
    else if b - base < cfgBlocks c then some (slot, b - base) else none

/-- Entry index of a block, layer and head (R370). -/
def State.entryIndex (s : State) (slot own layer head : Nat) : Nat :=
  let e := s.slotShape slot
  (own * shLayers e + layer) * shHeads e + head

/-- A layer and a head lie within a slot's shape. -/
def State.inShape (s : State) (slot layer head : Nat) : Bool :=
  decide (layer < shLayers (s.slotShape slot)) && decide (head < shHeads (s.slotShape slot))

/-! Walks (R415 to R417, R447). -/

/-- Statuses with which an expansion fails and nothing else does (R446). -/
def expansionFailure (st : BitVec 8) : Bool := st == St.format || st == St.rsvdSet || st == St.cmpLen || st == St.tableGen

/-- The bench of a target. -/
def targetBench (t : Target) : BenchId := ⟨t.bench % 168, Nat.mod_lt _ (by decide)⟩

/-- Store slot of the plank at hand. -/
def NetWork.destSlot (w : NetWork) : Nat := (targetOf w.desc w.target).dest / 32768 + w.pos

/-- A walk fails (R417, R447). -/
def State.walkFails (s : State) (u : NetId) (w : NetWork) (st : BitVec 8) : State :=
  let t := targetOf w.desc w.target
  let s := if t.kind = 0 && expansionFailure st then
      let b := targetBench t
      let x := s.bench b
      let i := w.destSlot
      s.setBench b { x with store := x.store.clearRange (32768 * i) (32768 * (i + 1)),
                            slots := x.slots.put Residency.reset i { (x.slot i) with ready := false, sources := [], invalid := some st } }
    else s
  let w := { w with failed := some st, reqs := [] }
  if t.kind = 2 && expansionFailure st then
    s.netAsk u w [s.deliverAsk u (t.dest % 4096) (t.dest / 65536 % 256) w.target st 0 0 (field w.desc 152 8) []]
  else s.setWorkOf u w

/-- Ask for the list entry that names the plank at hand, or for its block table entry (R415, R416). -/
def State.walkAsk (s : State) (u : NetId) (w : NetWork) (t : Target) : State :=
  let d := w.desc
  let n := s.planksPer d
  let list := field d 144 8
  let w := { w with reqs := [] }
  if gdKind d = 0 then
    let plank := fun (base : Nat) => s.netAsk u { w with sources := [base + 32768 * (w.pos % n)] }
      [{ s.poolAsk ⟨.plank, base + 32768 * (w.pos % n), 0x20, 0, []⟩ with flags := if gdStored d && t.kind != 0 then 8 else 0 }]
    if w.pos % n != 0 then plank w.base
    else if t.list then
      s.netAsk u w ((readAsks .list (list + 4 * (field d 140 4 * t.head + t.first + w.pos / n)) 4).map s.ownAsk)
    else
      match s.resolveBlock 64 (gdSlot d) (t.first + w.pos / n) with
      | none => s.walkFails u w St.denied
      | some (slot, own) =>
        let e := s.entryIndex slot own (gdLayer d) (gdHead0 d + t.head)
        if !s.inShape slot (gdLayer d) (gdHead0 d + t.head) then s.walkFails u w St.denied
        else s.netAsk u { w with base := 8 * e % 128 } ((readAsks .table (cfgTable (s.rollCfg slot) + 8 * e) 8).map s.poolAsk)
  else if gdKind d = 1 then s.netAsk u w ((readAsks .list (list + 8 * (t.first + w.pos)) 8).map s.ownAsk)
  else s.netAsk u w ((readAsks .list (list + 8 * (t.first + 256 * w.pos)) 2048).map s.ownAsk)

/-- Go on to the next plank, through targets that deliver nothing; a port target is sent when its planks are all at hand. -/
def State.walkNext (s : State) : Nat → NetId → NetWork → State
  | 0, u, w => s.setWorkOf u { w with reqs := [] }
  | fuel + 1, u, w =>
    let w := { w with reqs := [] }
    let t := targetOf w.desc w.target
    if gdTargets w.desc ≤ w.target then s.setWorkOf u w
    else if w.pos < s.targetPlanks w.desc t then s.walkAsk u w t
    else if t.kind = 2 && !w.buf.isEmpty then
      s.netAsk u { w with buf := [] }
        (s.deliverAsks u (t.dest % 4096) (t.dest / 65536 % 256) w.target w.okStatus (field w.desc 152 8) w.buf)
    else s.walkNext fuel u { w with target := w.target + 1, pos := 0 }

/-- A slot that the running operator of a bench reads or writes (R417). -/
def Bench.inUse (x : Bench) (i : Nat) : Bool :=
  match x.run with
  | none => false
  | some r => [0, 1, 2, 3, 4, 5].any (fun o => match operandOf r.desc o with
    | some p => p.kind != .pool && (p.ranges (bareOperand r.desc o)).any (fun q => (slotsOf q.1 q.2).contains i)
    | none => false)

/-- Deliver a plank that has been fetched (R416, R417). -/
def State.walkDeliver (s : State) (u : NetId) (w : NetWork) (data : Bytes) (ven : Bool) : State :=
  let d := w.desc
  let t := targetOf d w.target
  let next := { w with pos := w.pos + 1 }
  let s := s.add64 (Reg.nuBytesLo u.val) data.length
  if t.kind = 0 then
    let b := targetBench t
    let i := w.destSlot
    let x := (s.bench b).write (odJob d) (32768 * i) data
    let src := w.sources.flatMap (fun a => s.sourceOf (odJob d) (gdKind d == 0) (BitVec.ofNat 64 a) (data.length / max 1 w.sources.length))
    let x := { x with slots := x.slots.put Residency.reset i { (x.slot i) with ready := true, sources := src, invalid := none } }
    (s.setBench b x).walkNext 17 u next
  else if t.kind = 1 then
    s.netAsk u { w with reqs := [] }
      [{ s.ownAsk ⟨.output, field d 160 8 + (t.dest + w.pos) * 32768, 0x21, 0, data⟩ with flags := if ven then 8 else 0 }]
  else s.walkNext 17 u { next with buf := w.buf ++ data }

/-! Selections (R420). -/

/-- Bytes of a row of the summaries, and its address, for candidate c of head j; none where it does not resolve. -/
def State.summaryAt (s : State) (d : Bytes) (j c : Nat) : Option (Nat × Nat) :=
  match s.resolveBlock 64 (gdSlot d) (fdFirst d + c) with
  | none => none
  | some (slot, own) =>
    let e := s.slotShape slot
    let n := shDim e * shBytes e
    if cfgSumm (s.rollCfg slot) = 0 || !s.inShape slot (gdLayer d) (gdHead0 d + j) then none
    else some (cfgSumm (s.rollCfg slot) + s.entryIndex slot own (gdLayer d) (gdHead0 d + j) * n, n)

/-- Bytes of one head's queries. -/
def State.queryBytes (s : State) (d : Bytes) : Nat := ceilDiv (fdRows d * shDim (s.slotShape (gdSlot d)) * fmtBits (field d 139 1)) 8

/-- The reads of a selection; none where a candidate does not resolve. -/
def State.selectionAsks (s : State) (d : Bytes) : Option (List NetAsk) :=
  let heads := List.range (fdHeads d)
  if fdKind d = 1 then
    some ((readAsks (.data 0 0) (field d 176 8) (4 * fdCand d * fdHeads d)).map s.ownAsk)
  else
    let rows := heads.flatMap (fun j => (List.range (fdCand d)).map (fun c => (j, c, s.summaryAt d j c)))
    if rows.any (fun r => r.2.2.isNone) then none
    else some ((readAsks (.operand 0 0) (field d 168 8) (s.queryBytes d * fdHeads d)).map s.ownAsk
      ++ rows.flatMap (fun r => match r.2.2 with
        | some (a, n) => (readAsks (.data r.1 r.2.1) a n).map s.poolAsk
        | none => []))

/-- A linear matrix of a format from bytes; the scales of a block-scaled query lie nowhere, so they are free. -/
def matOf (fmt rows cols : Nat) (bs scales : Array Byte) : Mat :=
  let o : Operand := { kind := .pool, addr := 0, scaleAddr := bs.size, fmt := fmt, trans := false, linear := true, rows := rows, cols := cols }
  o.read (fun p => if p < bs.size then bs.getD p 0 else scales.getD (p - bs.size) 0) false

/-- The scores of a head (R420). -/
def State.headScores (s : State) (w : NetWork) (j : Nat) : List F32 × State :=
  let d := w.desc
  if fdKind d = 1 then
    let bs := (readBack w.reqs (.data 0 0) (field d 176 8) (4 * fdCand d * fdHeads d)).toArray
    ((List.range (fdCand d)).map (fun c =>
      BitVec.ofNat 32 (leNat ((List.range 4).map (fun i => bs.getD (4 * (fdCand d * j + c) + i) 0)))), s)
  else
    let e := s.slotShape (gdSlot d)
    let dim := shDim e
    let fmt := field d 139 1
    let n := s.queryBytes d
    let q := byteRun (readBack w.reqs (.operand 0 0) (field d 168 8) (n * fdHeads d)) (n * j) n
    let (scales, s) := if blockScaled fmt then s.drawBytes (fdRows d * dim / 32) else ([], s)
    let query := matOf fmt (fdRows d) dim q.toArray scales.toArray
    let rows := (List.range (fdCand d)).flatMap (fun c => match s.summaryAt d j c with
      | some (a, m) => readBack w.reqs (.data j c) a m
      | none => [])
    ((scoreRows (BitVec.ofNat 32 (field d 148 4)) query (matOf (shFmt e) (fdCand d) dim rows.toArray #[])).toList, s)

/-- The results of a head: INT32 numbers and FP32 values, K of each (R348, R420). -/
def headResult (d : Bytes) (scores : List F32) : Bytes × Bytes :=
  let first := if fdKind d = 0 then fdFirst d else 0
  let byThresh := field d 129 1 % 2 == 1
  let sel := selectTop (fdK d) (if byThresh then some (BitVec.ofNat 32 (field d 144 4)) else none) scores
  let sel := if field d 129 1 / 2 % 2 = 1 then sel.mergeSort (fun a b => decide (a.1 ≤ b.1)) else sel
  let pad := fdK d - sel.length
  ((sel.map (fun p => leBytes 4 (first + p.1))).flatten ++ (List.replicate (4 * pad) 0xFF),
   (sel.map (fun p => leBytes 4 p.2.toNat)).flatten ++ (List.replicate pad (leBytes 4 fNegInf.toNat)).flatten)

/-! The course of work. -/

/-- Work begins on its own steps: flags are read, the first plank is asked for, the selection's inputs are read (R407, R417, R420). -/
def State.netBegin (s : State) (u : NetId) (w : NetWork) : State :=
  let w := { w with stage := .run, reqs := [] }
  let d := w.desc
  if netKind u = 0 then s.readFlags u w
  else if netKind u = 1 then
    if gdKind d = 0 && gdTargets d != 0 && !s.contextOk (gdSlot d) (gdSeq d) (odJob d) then s.walkFails u w St.denied
    else s.walkNext 17 u w
  else if fdHeads d = 0 then s.setWorkOf u w
  else if fdKind d = 0 && !s.contextOk (gdSlot d) (gdSeq d) (odJob d) then s.netEnd u w St.denied
  else
    match s.selectionAsks d with
    | none => s.netEnd u w St.denied
    | some asks => s.netAsk u w asks

/-- The flag has held: it is cleared first where CONSUME says so (R400). -/
def State.netAcquired (s : State) (u : NetId) (w : NetWork) : State :=
  if field w.desc 65 1 % 2 = 1 then
    let p := linePayload (odAcqFlag w.desc % 128) (leBytes 8 0) true
    s.netAsk u { w with stage := .consume, reqs := [] } [s.ownAsk ⟨.consume, odAcqFlag w.desc / 128 * 128, p.1, 0, p.2⟩]
  else s.netBegin u w

/-- A walk makes the slots of its BENCH targets not ready (R417). -/
def State.unreadyTargets (s : State) (d : Bytes) : State :=
  ((List.range (gdTargets d)).map (targetOf d)).foldl (fun s t =>
    if t.kind = 0 then
      let b := targetBench t
      let x := s.bench b
      let r := s.targetSlots d t
      let slots := (List.range' r.1 (r.2 - r.1)).foldl (fun (q : Tab Residency) i =>
        q.put Residency.reset i { (x.slot i) with ready := false, sources := [], invalid := none }) x.slots
      s.setBench b { x with slots := slots }
    else s) s

/-- The lowest free context of a unit. -/
def NetUnit.freeCtx (x : NetUnit) : Nat := ((List.range 16).find? (fun c => !x.works.any (fun w => w.ctx == c))).getD 0

/-- A START entry starts its work (R399, R400). -/
def State.netStart (s : State) (u : NetId) (index : Nat) (e : BitVec 128) : State :=
  let o := ttDescOffset e
  let bad := s.localBad o (netDescBytes u)
  let (d, s) := s.localRead o (netDescBytes u)
  let x := s.netUnit u
  let w : NetWork :=
    { ctx := x.freeCtx, desc := d, stage := .acquire, seed := ttSeed s.tt.activeTag (168 + u.val) index s.bell.now.period,
      started := s.bell.ticks, period := s.bell.now.period, lastRead := s.bell.ticks, scope := false, failed := none, reqs := [],
      target := 0, pos := 0, base := 0, sources := [], buf := [], contribs := [], held := [], endedAt := s.bell.ticks, mergeAt := 0 }
  let s := s.bump (Reg.nuStarts u.val)
  if bad then s.netEnd u { w with desc := [] } St.media
  else
    match s.netRefusal u d with
    | some st => (s.raiseNet 0 u.val st none).netEnd u w st
    | none =>
      if netKind u = 0 && x.works.any (fun v => v.failed.isNone && rdSession v.desc == rdSession d) then
        ((s.raiseNet 9 u.val St.denied none).raiseNet 0 u.val St.denied none).netEnd u w St.denied
      else
        let s := s.setNetUnit u { x with works := x.works ++ [w] }
        let s := if netKind u = 1 then s.unreadyTargets d else s
        if odAcq d then s.netAsk u w [s.ownAsk (acquireAsk d)] else s.netBegin u w

/-- What follows when every request of a stage has completed, where no command of its own does (R401). -/
def State.netAdvance (s : State) (u : NetId) (w : NetWork) : State :=
  if !allBack w.reqs then s
  else
    match w.stage with
    | .consume =>
      match firstNotOk w.reqs with
      | some st => s.netEnd u w st
      | none => s.netBegin u w
    | .deliver =>
      let bad := (w.reqs.find? (fun r => r.what == .deliver && r.status != St.ok)).map UReq.status
      let s := match bad with
        | some st => s.raiseNet 7 u.val st none
        | none => s
      match w.failed with
      | some st => s.netEnd u w st
      | none =>
        match firstNotOk w.reqs with
        | some st => s.netEnd u w st
        | none => s.netRelease u w
    | .release => s.netEnd u w ((firstNotOk w.reqs).getD w.okStatus)
    | _ => s

/-- The tag of request k of a unit has closed (R141). -/
def State.netSettled (s : State) (u : NetId) (k : Nat) (st flags : BitVec 8) (data : Bytes) : State :=
  match (s.netUnit u).works.find? (fun w => w.reqs.any (fun r => r.k == k)) with
  | none => s
  | some w =>
    let w := { w with reqs := gotReq w.reqs k s.bell.ticks (st, flags, data) }
    (s.setWorkOf u w).netAdvance u w

end Sys2Proof.Machine
end

