-- ==== Sys2Proof/Machine/NetRows.lean ====
section
/-!
DEFINITION. The network units' commands (12 R398 to R429): START entries, sessions, walks, selections, NET_OP frames, and the prefix
index.
-/
namespace Sys2Proof.Machine

/-! Starts and acquires. -/

/-- A unit that takes new work now (R399, R515). -/
def State.netFree (s : State) (u : NetId) : Bool :=
  decide ((s.netUnit u).works.length < if netKind u = 0 then 16 else 1) && !s.inRecess 2 u.val && !s.unitOffline u.val

/-- A START entry is skipped (R72, R399). -/
def State.netSkip (s : State) (u : NetId) (e : BitVec 128) : State :=
  let (d, s) := s.localRead (ttDescOffset e) (netDescBytes u)
  let s := (s.bump (Reg.nuSkipped u.val)).raiseNet 1 u.val St.timeout none
  let s := s.noteSkip 2 u.val (s.unitOffline u.val)
  s.netPost u d St.timeout

/-- TT_START_FIRE (R72, R399): the START entries of a unit that fire at this slot. -/
def execTtStartFire (u : NetId) (s : State) : Host.Outcome State Fault Refusal :=
  let es := s.firingNow 2 u.val 1
  if es.isEmpty || (s.netUnit u).firedAt == s.bell.ticks + 1 then .next s
  else
    let s := s.setNetUnit u { s.netUnit u with firedAt := s.bell.ticks + 1 }
    let skip := fun (s : State) (q : Nat × BitVec 128) => (s.traceFiring 2 u.val q.1 q.2 true).netSkip u q.2
    if s.netFree u then
      match es with
      | [] => .next s
      | e :: rest => .next (rest.foldl skip ((s.traceFiring 2 u.val e.1 e.2 false).netStart u e.1 e.2))
    else .next (es.foldl skip s)

/-- NU_ACQUIRE_POLL (R401): the acquire read has come back; the flag holds, is read again every 8 slots, or the wait ends. -/
def execNuAcquirePoll (u : NetId) (s : State) : Host.Outcome State Fault Refusal :=
  match (s.netUnit u).works.find? (fun w => w.stage == .acquire && allBack w.reqs) with
  | none => .next s
  | some w =>
    match w.reqs with
    | [] => .next s
    | q :: _ =>
      if !delivers q.status then .next (s.netEnd u w q.status)
      else if flagHolds w.desc q.data then .next (s.netAcquired u { w with scope := q.status == St.scope })
      else if w.started + odWait w.desc ≤ s.bell.ticks then .next ((s.raiseNet 2 u.val St.timeout none).netEnd u w St.timeout)
      else if w.lastRead + 8 ≤ s.bell.ticks then
        .next (s.netAsk u { w with lastRead := s.bell.ticks, reqs := [] } [s.ownAsk (acquireAsk w.desc)])
      else .next s

/-! Sessions. -/

/-- Refuse a CONTRIB segment with DENIED (R408). -/
def State.dropContrib (s : State) (p : Passed) (unit n : Nat) : State :=
  ((s.bump Reg.netContribDrop).raiseNet n unit St.denied (some p.frame)).complete p.cluster p.cls p.frame St.denied false [] 0
    (BitVec.ofNat 10 (512 + unit))

/-- CONTRIB (R408): a segment is checked against the open session and taken, or refused. -/
def execContrib (s : State) : Host.Outcome State Fault Refusal :=
  match s.takePassed (fun f => f.opcode == 0x58 && field f.payload 0 1 == 1) with
  | none => .next s
  | some (p, s) =>
    let f := p.frame
    let b := f.payload
    let u : NetId := ⟨bits f.addr.toNat 23 16 % 12, by omega⟩
    match (s.netUnit u).works.find? (fun w => w.failed.isNone && rdSession w.desc == f.addr.toNat % 65536 && odJob w.desc == f.job) with
    | none => .next (s.dropContrib p u.val 4)
    | some w =>
      let d := w.desc
      let key := contribKey (field b 1 1) (field b 2 1)
      let c := w.contrib key
      let rc := field b 22 2
      let data := b.drop 32
      if field b 8 2 != w.period.toNat then .next (s.dropContrib p u.val 5)
      else if rdGroups d ≤ field b 1 1 || !rdExpects d (field b 2 1) || c.ended.isSome then .next (s.dropContrib p u.val 6)
      else if field b 16 4 != contribSize d rc || field b 12 4 != c.data.length || field b 16 4 < c.data.length + data.length then
        .next (s.dropContrib p u.val 6)
      else
        let st : Status := BitVec.ofNat 8 (field b 4 1)
        let c := if field b 12 4 = 0 then { c with row0 := field b 20 2, rc := rc, incomplete := field b 3 1 % 2 == 1, empty := field b 3 1 / 2 % 2 == 1 }
          else c
        let c := { c with data := c.data ++ data }
        let w := if st != St.ok && field b 12 4 == 0 && data.isEmpty then w.endContrib key s.bell.ticks c st
          else if c.data.length = field b 16 4 then w.endContrib key s.bell.ticks c St.ok
          else { w with contribs := w.contribs.put Contrib.reset key c }
        .next ((s.setWorkOf u w).complete p.cluster p.cls f St.ok false [] 0 (netUnitId u))

/-- A LOCAL entry whose flag read has come back (R407): the flag is cleared and the contribution read, or the contributor fails. -/
def State.flagBack (s : State) (u : NetId) (w : NetWork) (p : Nat × LocalEntry) (r : UReq) : State :=
  let e := p.1
  let x := p.2
  let key := contribKey x.group x.contrib
  let w := { w with reqs := w.reqs.filter (fun q => q.k != r.k), scope := w.scope || r.status == St.scope }
  if !delivers r.status then s.setWorkOf u (w.endContrib key s.bell.ticks (w.contrib key) r.status)
  else if field r.data (x.flag % 128) 8 = 0 then s.setWorkOf u w
  else
    let size := contribSize w.desc x.rc
    let main := if rdFn w.desc = 3 then 4 * x.rc * rdCols w.desc else size
    let clr := linePayload (x.flag % 128) (leBytes 8 0) true
    s.netAsk u { w with held := w.held ++ [e] }
      (([(⟨.clear e, x.flag / 128 * 128, clr.1, 0, clr.2⟩ : Ask)] ++ readAsks (.data e 0) x.data main
        ++ readAsks (.ml e 0) x.ml (size - main)).map s.ownAsk)

/-- The flag reads of a session that have come back, in entry order. -/
def State.flagsBack (s : State) (u : NetId) (ctx : Nat) : State :=
  (List.range 16).foldl (fun (s : State) e =>
    match (s.netUnit u).works.find? (fun w => w.ctx == ctx) with
    | none => s
    | some w =>
      match w.reqs.find? (fun r => r.what == .flag e && r.got.isSome) with
      | some r => s.flagBack u w (e, localEntry w.desc e) r
      | none => s) s

/-- REDUCE_FLAG_POLL (R407): flags that hold start the reads of their contributions; the others are read again every 8 slots. -/
def execReduceFlagPoll (u : Fin 12) (s : State) : Host.Outcome State Fault Refusal :=
  let u : NetId := ⟨u.val, by omega⟩
  let open_ := ((s.netUnit u).works.filter (fun w => w.stage == .run)).map (·.ctx)
  .next (open_.foldl (fun (s : State) ctx =>
    let s := s.flagsBack u ctx
    match (s.netUnit u).works.find? (fun w => w.ctx == ctx) with
    | none => s
    | some w =>
      let polling := w.reqs.any (fun r => match r.what with
        | .flag _ => true
        | _ => false)
      if !polling && !w.unready.isEmpty && w.lastRead + 8 ≤ s.bell.ticks then s.readFlags u w else s) s)

/-- The requests of a LOCAL entry that follow its flag. -/
def entryReqs (l : List UReq) (e : Nat) : List UReq :=
  l.filter (fun r => r.what == .clear e || r.what == .data e 0 || r.what == .ml e 0)

/-- REDUCE_LOCAL_READ_DONE (R407): a LOCAL contribution whose reads have all come back is buffered, or its contributor fails. -/
def execReduceLocalReadDone (u : Fin 12) (s : State) : Host.Outcome State Fault Refusal :=
  let u : NetId := ⟨u.val, by omega⟩
  let ready := fun (w : NetWork) => (locals w.desc).find? (fun p => w.held.contains p.1
    && (w.contrib (contribKey p.2.group p.2.contrib)).ended.isNone && allBack (entryReqs w.reqs p.1))
  match (s.netUnit u).works.find? (fun w => w.stage == .run && (ready w).isSome) with
  | none => .next s
  | some w =>
    match ready w with
    | none => .next s
    | some (e, x) =>
      let rs := entryReqs w.reqs e
      let size := contribSize w.desc x.rc
      let main := if rdFn w.desc = 3 then 4 * x.rc * rdCols w.desc else size
      let data := readBack rs (.data e 0) x.data main ++ readBack rs (.ml e 0) x.ml (size - main)
      let c : Contrib := { row0 := x.row0, rc := x.rc, incomplete := false, empty := false, data := data, ended := none }
      let c := { c with empty := rdFn w.desc == 3 && c.allEmpty (rdCols w.desc) }
      let w := { w with reqs := w.reqs.filter (fun r => !rs.contains r) }
      .next (s.setWorkOf u (w.endContrib (contribKey x.group x.contrib) s.bell.ticks c ((firstNotOk rs).getD St.ok)))

/-- REDUCE_MERGE_START (R409, R428): of the sessions whose contributors have all ended, the one whose last ended first. A session
with a failed contributor fails; a relay sends its contributions on. -/
def execReduceMergeStart (u : Fin 12) (s : State) : Host.Outcome State Fault Refusal :=
  let u : NetId := ⟨u.val, by omega⟩
  let ws := (s.netUnit u).works
  let ready := ws.filter (fun w => w.stage == .run && w.missing.isEmpty)
  let best := ready.foldl (fun (acc : Option NetWork) w => match acc with
    | none => some w
    | some b => if w.endedAt < b.endedAt || (w.endedAt == b.endedAt && w.ctx < b.ctx) then some w else acc) none
  match best with
  | none => .next s
  | some w =>
    if rdKind w.desc = 3 then .next (s.netDeliver u w (s.relayAsks w))
    else
      let keys := (contributors w.desc).mergeSort (fun a b => decide (a ≤ b))
      match keys.findSome? (fun k => ((w.contrib k).ended).bind (fun st => if st == St.ok then none else some st)) with
      | some st => .next (s.sessionFails u w st)
      | none =>
        if ws.any (fun v => v.stage == .merge) then .next s
        else .next (s.setWorkOf u { w with stage := .merge, mergeAt := s.bell.ticks })

/-- REDUCE_MERGE_DONE (R411, R412): the merge has run its time, and the session delivers by KIND. -/
def execReduceMergeDone (u : Fin 12) (s : State) : Host.Outcome State Fault Refusal :=
  let u : NetId := ⟨u.val, by omega⟩
  match (s.netUnit u).works.find? (fun w => w.stage == .merge && decide (w.mergeAt + w.mergeSlots ≤ s.bell.ticks)) with
  | none => .next s
  | some w =>
    let s := s.add64 (Reg.nuBytesLo u.val) w.mergeBytes
    .next (s.netDeliver u w (s.sessionAsks u w))

/-- Slots from START to the deadline of a session (R404). -/
def State.deadlineOf (s : State) (d : Bytes) : Nat := if field d 148 4 = 0 then 256 * s.bell.len else field d 148 4

/-- REDUCE_DEADLINE (R410, R411): a session with contributors missing ends with TIMEOUT; a relay sends them on as failed. -/
def execReduceDeadline (u : Fin 12) (s : State) : Host.Outcome State Fault Refusal :=
  let u : NetId := ⟨u.val, by omega⟩
  match (s.netUnit u).works.find? (fun w => (w.stage == .acquire || w.stage == .consume || w.stage == .run) && !w.missing.isEmpty
      && decide (w.started + s.deadlineOf w.desc ≤ s.bell.ticks)) with
  | none => .next s
  | some w =>
    let s := s.raiseNet 3 u.val St.timeout none
    if rdKind w.desc = 3 then
      let w := w.missing.foldl (fun (w : NetWork) k => w.endContrib k s.bell.ticks (w.contrib k) St.timeout) { w with stage := .run, reqs := [] }
      .next (s.setWorkOf u w)
    else .next (s.sessionFails u w St.timeout)

/-! Walks. -/

/-- A walk's fetch that has come back and can go on: a plank for a store slot waits while the bench's operator uses the slot. -/
def State.walkDue (s : State) (w : NetWork) : Bool :=
  let t := targetOf w.desc w.target
  w.stage == .run && w.failed.isNone && !w.reqs.isEmpty && allBack w.reqs
    && !(t.kind == 0 && w.reqs.any (fun r => r.what == .plank || (match r.what with
        | .line _ => true
        | _ => false)) && (s.bench (targetBench t)).inUse w.destSlot)

/-- The list entry or entries that a walk has read name what it fetches next (R413, R415). -/
def State.walkListed (s : State) (u : NetId) (w : NetWork) (t : Target) : State :=
  let d := w.desc
  let list := field d 144 8
  let data := w.reqs.flatMap UReq.data
  if gdKind d = 0 then
    let a := list + 4 * (field d 140 4 * t.head + t.first + w.pos / s.planksPer d)
    let b := field data (a % 128) 4
    match if b = 0xFFFFFFFF then none else s.resolveBlock 64 (gdSlot d) b with
    | none => s.walkFails u w St.denied
    | some (slot, own) =>
      let head := gdHead0 d + t.head
      let e := s.entryIndex slot own (gdLayer d) head
      if !s.inShape slot (gdLayer d) head then s.walkFails u w St.denied
      else s.netAsk u { w with reqs := [], base := 8 * e % 128 } ((readAsks .table (cfgTable (s.rollCfg slot) + 8 * e) 8).map s.poolAsk)
  else if gdKind d = 1 then
    let a := field data ((list + 8 * (t.first + w.pos)) % 128) 8
    s.netAsk u { w with reqs := [], sources := [a] }
      [{ s.ownAsk ⟨.plank, a, 0x20, 0, []⟩ with flags := if gdStored d && t.kind != 0 then 8 else 0 }]
  else
    let o := (list + 8 * (t.first + 256 * w.pos)) % 128
    let as := (List.range 256).map (fun i => field data (o + 8 * i) 8)
    s.netAsk u { w with reqs := [], sources := as } (((List.range 256).zip as).map (fun p => s.ownAsk ⟨.line p.1, p.2, 0x01, 0, []⟩))

/-- GATHER_FETCH_DONE (R415 to R417): a list line, a block table entry, a plank or a delivery of the walk has come back, and the walk
goes on. -/
def execGatherFetchDone (u : NetId) (s : State) : Host.Outcome State Fault Refusal :=
  match (if netKind u = 1 then (s.netUnit u).works.find? s.walkDue else none) with
  | none => .next s
  | some w =>
    let d := w.desc
    let t := targetOf d w.target
    match w.reqs with
    | [] => .next s
    | q :: _ =>
      match firstNotOk w.reqs with
      | some st =>
        let s := if q.what == .deliver then s.raiseNet 7 u.val st none else s
        .next (s.walkFails u w st)
      | none =>
        match q.what with
        | .list => .next (s.walkListed u w t)
        | .table =>
          let e := field (w.reqs.flatMap UReq.data) w.base 8
          if bits e 63 48 != s.swNum.toNat then .next (s.walkFails u w St.denied)
          else if e % 4 != 1 then .next (s.walkFails u w St.format)
          else
            let base := e / 32768 * 32768
            let at_ := base + 32768 * (w.pos % s.planksPer d)
            .next (s.netAsk u { w with reqs := [], base := base, sources := [at_] }
              [{ s.poolAsk ⟨.plank, at_, 0x20, 0, []⟩ with flags := if gdStored d && t.kind != 0 then 8 else 0 }])
        | .plank => .next (s.walkDeliver u w q.data (match q.got with
            | some g => bit g.2.1 3
            | none => false))
        | .line _ => .next (s.walkDeliver u w (w.reqs.flatMap UReq.data) false)
        | .output => .next (s.walkNext 17 u { w with pos := w.pos + 1 })
        | .deliver => .next (s.walkNext 17 u { w with target := w.target + 1, pos := 0 })
        | _ => .next s

/-- GATHER_WALK_DONE (R417): everything is delivered and the walk releases, or it has failed and ends. -/
def execGatherWalkDone (u : NetId) (s : State) : Host.Outcome State Fault Refusal :=
  match (if netKind u = 1 then (s.netUnit u).works.find? (fun w => w.stage == .run && allBack w.reqs
      && (w.failed.isSome || (w.reqs.isEmpty && decide (gdTargets w.desc ≤ w.target)))) else none) with
  | none => .next s
  | some w =>
    match w.failed with
    | some st => .next (s.netEnd u w st)
    | none => .next (s.netRelease u w)

/-! Selections. -/

/-- FILTER_SELECT_DONE (R420): the inputs have come; the results are written, and the release follows their completion. -/
def execFilterSelectDone (u : NetId) (s : State) : Host.Outcome State Fault Refusal :=
  match (if netKind u = 2 then (s.netUnit u).works.find? (fun w => w.stage == .run && allBack w.reqs) else none) with
  | none => .next s
  | some w =>
    let d := w.desc
    match firstNotOk w.reqs with
    | some st => .next (s.netEnd u w st)
    | none =>
      if fdHeads d = 0 then .next (s.netRelease u w)
      else
        let (scores, s) := (List.range (fdHeads d)).foldl (fun (acc : List (List F32) × State) j =>
          let (x, s) := acc.2.headScores w j
          (acc.1 ++ [x], s)) (([] : List (List F32)), s)
        let rs := scores.map (headResult d)
        let out := s.writeAsks (field d 184 8) (rs.flatMap (·.1))
        let vals := if field d 192 8 = 0 then [] else s.writeAsks (field d 192 8) (rs.flatMap (·.2))
        let bytes := if fdKind d = 1 then 4 * fdCand d * fdHeads d
          else fdCand d * fdHeads d * (shDim (s.slotShape (gdSlot d)) * shBytes (s.slotShape (gdSlot d)))
        .next ((s.add64 (Reg.nuBytesLo u.val) bytes).netDeliver u w (out ++ vals))

/-! NET_OP frames for agents (R402). -/

/-- DELIVER (R402): handled as a MSG. -/
def execDeliver (s : State) : Host.Outcome State Fault Refusal :=
  .next (s.toAgent (fun f => f.opcode == 0x58 && field f.payload 0 1 == 8))

/-! The prefix index (R423 to R427). -/

def pxHash (e : BitVec 128) : Nat := bits e.toNat 127 64
def pxJob (e : BitVec 128) : BitVec 12 := e.extractLsb' 52 12
def pxSlot (e : BitVec 128) : Nat := bits e.toNat 51 37
def pxSeqLo (e : BitVec 128) : Nat := bits e.toNat 36 21
def pxDepth (e : BitVec 128) : Nat := bits e.toNat 20 5

/-- The entry of a hash (R423). -/
def pxEntry (hash : Nat) (job : BitVec 12) (slot seqLo depth : Nat) : BitVec 128 :=
  BitVec.ofNat 128 (hash % 2 ^ 64 * 2 ^ 64 + job.toNat * 2 ^ 52 + slot % 2 ^ 15 * 2 ^ 37 + seqLo % 2 ^ 16 * 2 ^ 21
    + depth % 2 ^ 16 * 2 ^ 5 + 1)

/-- The bucket of a hash (R423). -/
def State.pxBucket (s : State) (hash : Nat) (job : BitVec 12) : Nat :=
  (hash % 2 ^ 22 ^^^ job.toNat * 2 ^ 10) % 2 ^ s.net.pfxLog2

/-- An entry is live (R424). -/
def State.pxLive (s : State) (e : BitVec 128) : Bool :=
  let c := s.rollCfg (pxSlot e)
  let l := s.rollLive (pxSlot e)
  cfgValid c && l.state == .closed && l.frozen && cfgJob c == pxJob e && cfgSeq c % 65536 == pxSeqLo e
    && decide (pxDepth e * 16 ≤ l.committed)

/-- Read the ways of a bucket: those that are not live are freed and counted (R424). -/
def State.pxRead (s : State) (bucket : Nat) : State :=
  (List.range 16).foldl (fun (s : State) i =>
    let e := s.net.pfx.get 0 (16 * bucket + i)
    if pxDepth e != 0 && !s.pxLive e then
      (s.withNet { s.net with pfx := s.net.pfx.put 0 (16 * bucket + i) 0 }).bump Reg.netPfxStale
    else s) s

/-- The way of a bucket that holds a job's hash. -/
def State.pxFind (s : State) (bucket hash : Nat) (job : BitVec 12) : Option (BitVec 128) :=
  ((List.range 16).map (fun i => s.net.pfx.get 0 (16 * bucket + i))).find? (fun e =>
    pxDepth e != 0 && pxHash e == hash && pxJob e == job)

/-- Hash i of a prefix operation. -/
def pxArg (f : Frame) (i : Nat) : Nat := field f.payload (16 + 8 * i) 8

/-- SRC_UNIT of the filter unit that serves a job's prefix operations (R427). -/
def pxUnit (job : BitVec 12) : BitVec 10 := BitVec.ofNat 10 (512 + 24 + job.toNat % 12)

/-- Probe hashes from the first until one has no live entry (R426): how many matched, and the last match. -/
def State.pxProbe (s : State) (job : BitVec 12) : List Nat → Nat → Option (BitVec 128) → (Nat × Option (BitVec 128)) × State
  | [], n, last => ((n, last), s)
  | h :: hs, n, last =>
    let b := s.pxBucket h job
    let s := s.pxRead b
    match s.pxFind b h job with
    | none => ((n, last), s)
    | some e => s.pxProbe job hs (n + 1) (some e)

/-- PFX_LOOKUP (R426). -/
def execPfxLookup (s : State) : Host.Outcome State Fault Refusal :=
  match s.takePassed (fun f => f.opcode == 0x58 && field f.payload 0 1 == 0x10) with
  | none => .next s
  | some (p, s) =>
    let f := p.frame
    let hashes := if s.net.pfxLog2 = 0 then [] else (List.range (field f.payload 2 2)).map (pxArg f)
    let ((n, last), s) := s.pxProbe f.job hashes 0 none
    let s := (s.bump Reg.netPfxLookups).addReg Reg.netPfxHits n
    let data := match last with
      | none => List.replicate 32 0
      | some e =>
        let c := s.rollCfg (pxSlot e)
        leBytes 2 n ++ [0, 0] ++ leBytes 4 (pxDepth e) ++ leBytes 2 (pxSlot e) ++ leBytes 2 s.swNum.toNat ++ leBytes 4 (cfgSeq c)
          ++ leBytes 4 (s.rollLive (pxSlot e)).committed ++ List.replicate 12 0
    .next (s.complete p.cluster p.cls f St.ok true data 0 (pxUnit f.job))

/-- Insert one hash (R425): it is a duplicate, takes the lowest free way, or evicts the deepest way. -/
def State.pxInsert (s : State) (job : BitVec 12) (slot seq hash depth : Nat) : (Bool × Bool) × State :=
  let b := s.pxBucket hash job
  let s := s.pxRead b
  if (s.pxFind b hash job).isSome then ((false, false), s)
  else
    let way := fun (i : Nat) => s.net.pfx.get 0 (16 * b + i)
    let put := fun (i : Nat) => s.withNet { s.net with pfx := s.net.pfx.put 0 (16 * b + i) (pxEntry hash job slot (seq % 65536) depth) }
    match (List.range 16).find? (fun i => pxDepth (way i) == 0) with
    | some i => ((true, false), put i)
    | none =>
      let i := (List.range 16).foldl (fun m i => if pxDepth (way m) < pxDepth (way i) then i else m) 0
      ((true, true), (put i).bump Reg.netPfxEvict)

/-- PFX_INSERT (R425). -/
def execPfxInsert (s : State) : Host.Outcome State Fault Refusal :=
  match s.takePassed (fun f => f.opcode == 0x58 && field f.payload 0 1 == 0x11) with
  | none => .next s
  | some (p, s) =>
    let f := p.frame
    let n := field f.payload 2 2
    let first := field f.payload 4 4
    let slot := field f.payload 8 2 % 32768
    let seq := field f.payload 12 4
    let l := s.rollLive slot
    let ok := s.net.pfxLog2 != 0 && s.contextOk slot seq f.job && l.state == .closed && l.frozen && decide (1 ≤ first)
      && decide ((first + n - 1) * 16 ≤ l.committed)
    if !ok then
      .next ((s.raiseNet 8 (24 + f.job.toNat % 12) St.denied (some f)).complete p.cluster p.cls f St.denied true [] 0 (pxUnit f.job))
    else
      let ((ins, dup, ev), s) := (List.range n).foldl (fun (acc : (Nat × Nat × Nat) × State) i =>
        let ((new, evicted), s) := acc.2.pxInsert f.job slot seq (pxArg f i) (first + i)
        ((acc.1.1 + b2n new, acc.1.2.1 + b2n !new, acc.1.2.2 + b2n evicted), s)) ((0, 0, 0), s)
      let s := (s.addReg Reg.netPfxInserts ins).addReg Reg.netPfxDup dup
      .next (s.complete p.cluster p.cls f St.ok true (leBytes 2 ins ++ leBytes 2 dup ++ leBytes 2 ev ++ List.replicate 10 0) 0
        (pxUnit f.job))

/-! NET_CTRL. -/

/-- CLR_COUNTERS of the NETWORK block (R429). -/
def State.clearNet (s : State) : State :=
  let s := s.zeroRegs ([Reg.netPfxLookups, Reg.netPfxHits, Reg.netPfxInserts, Reg.netPfxDup, Reg.netPfxEvict, Reg.netPfxStale,
    Reg.netContribDrop] ++ (List.range 36).flatMap (fun u =>
      [Reg.nuStarts u, Reg.nuSkipped u, Reg.nuFailed u, Reg.nuBytesLo u, Reg.nuBytesHi u]))
  s.withNet { s.net with units := (s.net.units.map (fun p => (p.1, { p.2 with busy := 0 }))).filter (fun p => p.2 ≠ NetUnit.reset) }

/-- NET_CLR_COUNTERS (R429). -/
def execNetClrCounters (h : HostPort) (s : State) : Host.Outcome State Fault Refusal :=
  .next (s.hostWrite h Reg.netCtrl (fun s => s.clearNet))

end Sys2Proof.Machine
end

