-- ==== Sys2Proof/Machine/TestRows.lean ====
section
/-!
DEFINITION. The meanings of the test commands (18 R539 to R552): loop-backs of ports and host ports, the echo buffer, self-test, link
recalibration, trace buffers, boundary scan.
-/
namespace Sys2Proof.Machine

/-! Port loop-backs (R539 to R542). -/

/-- R540: what makes a START be refused. A member of a bonded group trains under its lowest port; before PROCEED and under a fence the
port has to stay where it is (R532, R509). -/
def State.loopRefused (s : State) (p : Port) (depth : BitVec 2) : Bool :=
  let cfg := s.rd (Reg.portCfg p.val)
  let role := bits cfg.toNat 5 4
  s.test.lb.running || s.isMember p || !s.proceeded || s.isFenced (bits cfg.toNat 21 16)
    || (bothLinks p).any (fun l => (s.link l).train != .disabled || (s.link l).looped)
    || (depth == 3 && role != 1 && role != 3)

/-- The loop-back counters of a START (R553). -/
def State.zeroLoop (s : State) : State :=
  s.zeroRegs ([Reg.testLbBitsLo, Reg.testLbBitsHi, Reg.testLbEchoOps] ++ (List.range 16).map Reg.testLbErr)

/-- START of TEST_LB_CTRL (R540): at depths 0 and 1 the lanes carry the pattern at once; at depths 2 and 3 the port trains. -/
def State.startLoop (s : State) (p : Port) (depth : BitVec 2) : State :=
  if s.loopRefused p depth then s.withTest { s.test with lb := { s.test.lb with refused := true } }
  else
    let cfg := s.rd (Reg.portCfg p.val)
    let s := s.zeroLoop
    let s := s.withTest { s.test with lb := ⟨p, depth, true, false, false⟩, echo := [] }
    (cfgLinks p cfg).foldl (fun s l =>
      let s := s.modLink l (fun k => { k with cfg := cfg, looped := true })
      if depth.toNat < 2 then s.enter l .loopback else s.toDetect l) s

/-- TEST_LB_START (R540). -/
def execTestLbStart (h : HostPort) (p : Port) (depth : BitVec 2) (s : State) : Host.Outcome State Fault Refusal :=
  .next (s.hostWrite h Reg.testLbCtrl (fun s => s.startLoop p depth))

/-- STOP of TEST_LB_CTRL (R540). -/
def State.stopLoop (s : State) : State := if s.test.lb.running then s.disablePort s.test.lb.port else s

/-- TEST_LB_STOP (R540). -/
def execTestLbStop (h : HostPort) (s : State) : Host.Outcome State Fault Refusal :=
  .next (s.hostWrite h Reg.testLbCtrl State.stopLoop)

/-! Requests at depth 3 (R542). -/

/-- Bytes of the echo buffer. -/
def echoBytes : Nat := 32768

/-- Write bytes into the echo buffer from an offset on, modulo its size; those whose mask bit is clear stay. -/
def echoPut (t : Tab Byte) (o : Nat) (bs : Bytes) (on : Nat → Bool) : Tab Byte :=
  ((List.range bs.length).zip bs).foldl (fun (t : Tab Byte) p => if on p.1 then t.put 0 ((o + p.1) % echoBytes) p.2 else t) t

/-- The effect of a request that the echo buffer serves: the data of its completion. -/
def State.echoServe (s : State) (f : Frame) (o : Nat) : Bytes × State :=
  let put := fun (a : Nat) (bs : Bytes) (on : Nat → Bool) => s.withTest { s.test with echo := echoPut s.test.echo a bs on }
  let line := o / 128 * 128
  match f.opcode.toNat with
  | 0x01 => ((List.range 128).map (fun i => s.test.echo.get 0 ((line + i) % echoBytes)), s)
  | 0x02 => ([], put line f.payload (fun _ => true))
  | 0x03 =>
    let mask := BitVec.ofNat 128 (field f.payload 0 16)
    ([], put line (f.payload.drop 16) (fun i => bit mask i))
  | 0x20 => (s.test.echo.getRun 0 0 echoBytes, s)
  | _ => ([], put 0 f.payload (fun _ => true))

/-- The opcodes that the echo buffer serves. -/
def echoServed (f : Frame) : Bool := [0x01, 0x02, 0x03, 0x20, 0x21].contains f.opcode.toNat

/-- The checks of a request at depth 3: the transaction check, the form, the mortise check (R16, R147); then the echo buffer. -/
def State.echoAnswer (s : State) (l : LinkId) (whole : Bool) (f : Frame) : Status × Bytes × State :=
  if !whole || f.payload.length != f.len || !f.checkOk then (St.check, [], (s.bump Reg.mortCheck).raiseMort 0 f St.check)
  else if f.fmtGen != 1 then (St.format, [], s)
  else if requestRsvd f then (St.rsvdSet, [], s)
  else if !echoServed f || ((s.link l).v09 && v10Only f.opcode) then (St.denied, [], s)
  else if misaligned f then (St.denied, [], s.countRefusal f St.denied)
  else
    let x := requestExtent f
    match s.mortise (some (s.portPartition l.port)) f.job f.ak x.1 x.2 (opRights f) with
    | .refuse st => (st, [], s.countRefusal f st)
    | .pass _ o _ =>
      let (data, s) := (s.bump Reg.testLbEchoOps).echoServe f o
      (St.ok, data, s)

/-- A frame goes back on a looped link, flit by flit. -/
def State.echoSend (s : State) (l : LinkId) (c : Cls) (f : Frame) : State :=
  let bs := f.toBytes
  let n := frameFlits f.payload.length
  s.modLink l (fun k => { k with echo := k.echo ++ (List.range n).map (fun i =>
    ⟨c, i == 0, i + 1 == n, (bs.drop (240 * i)).take 240⟩) })

/-- ECHO_REQUEST (R542): the oldest whole frame that has arrived on a link looped at depth 3; a request is answered. -/
def execEchoRequest (l : LinkId) (s : State) : Host.Outcome State Fault Refusal :=
  if !(s.link l).looped || s.test.lb.depth != 3 then .next s
  else
    match (s.link l).arriving.find? (·.whole) with
    | none => .next s
    | some a =>
      let s := (s.oweCredit l a.cls a.flits).modLink l (fun k => { k with arriving := k.arriving.erase a })
      let f := Frame.ofBytes a.bytes
      if f.isCpl then .next s
      else
        let (st, data, s) := s.echoAnswer l (a.bytes.length == 36 + f.len) f
        let hdr := cplHdr s f st (cplHasData f) data.length 0 Config.memoryUnit
        .next (s.echoSend l a.cls (Frame.sealed hdr data))

/-! Host port loop-backs (R543). -/

/-- START of TEST_HLB_CTRL written through the port of host h. Depth 3 does not exist. -/
def State.startHostLoop (s : State) (h port : HostPort) (depth : BitVec 2) : State :=
  let lb := s.test.hlb
  if lb.running || depth == 3 || (depth.toNat < 2 && h == port) then s.withTest { s.test with hlb := { lb with refused := true } }
  else
    let s := s.zeroRegs ([Reg.testHlbBitsLo, Reg.testHlbBitsHi] ++ (List.range 8).map Reg.testHlbErr)
    let s := s.withTest { s.test with hlb := ⟨port, depth, true, false, false⟩ }
    if depth.toNat < 2 then (if (s.host port).dlUp then s.portDown port else s)
    else s.withTest { s.test with hostEcho := [] }

/-- TEST_HLB_START (R543). -/
def execTestHlbStart (h port : HostPort) (depth : BitVec 2) (s : State) : Host.Outcome State Fault Refusal :=
  .next (s.hostWrite h Reg.testHlbCtrl (fun s => s.startHostLoop h port depth))

/-- STOP of TEST_HLB_CTRL. -/
def State.stopHostLoop (s : State) : State := s.withTest { s.test with hlb := { s.test.hlb with running := false } }

/-- TEST_HLB_STOP (R543). -/
def execTestHlbStop (h : HostPort) (s : State) : Host.Outcome State Fault Refusal :=
  .next (s.hostWrite h Reg.testHlbCtrl State.stopHostLoop)

/-! Self-test (R544 to R548). -/

/-- Recess slots of a full MARCH (R545). -/
def State.marchSlots (s : State) : Nat := (s.rd Reg.scStackGib).toNat * 2 ^ 23 / 4

/-- Lines that a MARCH has done (R545). -/
def State.marchLines (s : State) (a : Activity) : Nat := 4 * min a.progress s.marchSlots

/-- A running self-test has had the periods, runs or slots that it needs. -/
def State.bistReady (s : State) (a : Activity) : Bool :=
  let arg := a.arg.toNat
  let runs := max 1 (bits arg 31 16)
  if a.kind == 1 then (if s.unitFenced a then decide (a.at_ + runs ≤ s.bell.bounds) else decide (runs ≤ a.progress))
  else if a.kind == 2 then (if arg % 4 = 2 then decide (s.marchSlots ≤ a.progress) else decide (1 ≤ a.progress))
  else s.unitFenced a || decide (1 ≤ a.progress)

/-- Record a self-test (R547): the result registers, and a unit that fails goes offline (R515). -/
def State.recordBist (s : State) (a : Activity) (pass : Bool) (detail : Word) (line : Dword) : State :=
  let st : BitVec 8 := if pass then St.ok else St.media
  let s := s.wr Reg.testBistLast (BitVec.ofNat 32 (a.kind.val * 2 ^ 28 + st.toNat * 2 ^ 16 + a.unit % 65536))
  let s := (s.wr Reg.testBistDetail (if pass then 0 else detail)).bump Reg.testBistRuns
  let s := if a.kind == 2 then
      (s.wr64 Reg.testBistAddrLo (if pass then 0 else line)).wr64 Reg.testMarchDoneLo
        (if a.arg.toNat % 4 = 2 then BitVec.ofNat 64 (s.marchLines a) else s.rd64 Reg.testMarchDoneLo)
    else s
  let s := if pass then s else s.bump Reg.testBistFails
  if pass || !(a.kind == 4 || a.kind == 5) then s
  else
    let off := if a.kind == 4 then Reg.faultOffline (a.unit / 32) else if a.unit < 32 then Reg.faultOfflineNuLo else Reg.faultOfflineNuHi
    s.wr off (setBit (s.rd off) (a.unit % 32))

/-- BIST (R544 to R547): a running self-test ends with what it has found. A bench's suite ends by zeroing the store again. -/
def execBist (kind : Fin 16) (unit : Nat) (pass : Bool) (detail : Word) (line : Dword) (s : State) : Host.Outcome State Fault Refusal :=
  match s.fault.running.find? (fun a => a.cls == 7 && a.kind == kind && a.unit == unit && a.result.isNone && s.bistReady a) with
  | none => .next s
  | some a => .next (((s.bistClear a).recordBist a pass detail line).activityDone a (if pass then St.ok else St.media))

/-! Link recalibration (R549). -/

/-- The last slot of a recess run of at least 32 slots of a port. -/
def State.recalSlot (s : State) (p : Port) : Bool :=
  (s.covering 0 p.val 4).any (fun q => decide (32 ≤ ttLast q.2 + 1 - ttFirst q.2) && ttLast q.2 == s.bell.now.slot.toNat)

/-- Lanes of the links of a port. -/
def State.portLanes (s : State) (p : Port) : Nat := ((s.linksOf p).map (fun l => widthLanes (s.link l).width.toNat)).sum

/-- LINK_RECAL (R549): the next lane takes its new settings at the last slot of a run; on a fenced port every lane adapts at once. -/
def execLinkRecal (p : Port) (s : State) : Host.Outcome State Fault Refusal :=
  match s.fault.running.find? (fun a => a.cls == 8 && a.kind == 1 && a.unit == p.val && a.result.isNone) with
  | none => .next s
  | some a =>
    if s.unitFenced a then .next (s.activityDone a St.ok)
    else if !s.recalSlot p || (a.progress != 0 && a.askedAt == s.bell.ticks) then .next s
    else
      let n := a.progress + 1
      .next (s.setActivity a { a with progress := n, askedAt := s.bell.ticks,
                                      result := if s.portLanes p ≤ n then some St.ok else none })

/-! Trace buffers (R551). -/

/-- A write of TRC_CFG: ENABLE arms the buffer, empty; without it capture ends and the entries stay. -/
def State.writeTrcCfg (s : State) (b : Fin 4) (v : Word) : State :=
  let s := s.wrMasked (Reg.trcCfg b.val) v
  let t := s.test.trace.get Trace.reset b.val
  let t : Trace := if bit v 31 then ⟨.capturing, [], 0⟩ else { t with state := .idle, post := 0 }
  s.withTest { s.test with trace := s.test.trace.put Trace.reset b.val t }

/-- TRC_CFG_WRITE (R551). -/
def execTrcCfgWrite (h : HostPort) (buf : Fin 4) (v : Word) (s : State) : Host.Outcome State Fault Refusal :=
  .next (s.hostWrite h (Reg.trcCfg buf.val) (fun s => s.writeTrcCfg buf v))

/-! Boundary scan (R552). -/

/-- The instructions that hold the main domain in cold reset. -/
def scanHolds : JtagInstr → Bool
  | .extest => true
  | .extestPulse => true
  | .extestTrain => true
  | .clamp => true
  | .highz => true
  | .bypass => false
  | .idcode => false
  | .samplePreload => false

/-- JTAG_INSTRUCTION_LOAD (R552): the first load of an instruction that holds resets the main domain; the first that does not lets a
new session begin. RESET_CAUSE has no bit for it and keeps its value. -/
def execJtagInstructionLoad (i : JtagInstr) (s : State) : Host.Outcome State Fault Refusal :=
  let s := s.withTest { s.test with jtag := i }
  if (scanHolds i) == s.boot.held then .next s
  else
    let s := s.withBoot { s.boot with held := scanHolds i }
    let next : BootSt := if scanHolds i then .auxOnly else .romStart
    if s.boot.pwrGood && (scanHolds i || s.boot.state == .auxOnly) then .next (s.resetMain .cold next (s.rd Reg.resetCause) false) else .next s

end Sys2Proof.Machine
end

