-- ==== Sys2Proof/Machine/ModuleRows.lean ====
section
/-!
DEFINITION. The meanings of the module's commands (19 R558 to R564): the sensor sweep with its alert and trip, and CLEAR_TRIP.
-/
namespace Sys2Proof.Machine

/-- Hottest of a list of sensors. -/
def hottest (l : List (BitVec 8)) : Nat := l.foldl (fun m v => max m v.toNat) 0

/-- WARN_C (R564). -/
def State.warnC (s : State) : Nat := max 60 (min 110 (bits (s.rd Reg.telThermCfg).toNat 7 0))

/-- A cause of the alert with its threshold: it is past its threshold, or was and has not fallen 5 °C below it (R562). -/
def causeNow (was past : Bool) (value threshold : Nat) : Bool := past || (was && decide (threshold < value + 5))

/-- The values of a sweep in their registers (R564); those of the stacks belong to the main domain. -/
def State.storeSweep (s : State) (w : SensorSweep) : State :=
  let s := s.wr Reg.telTjMax (BitVec.ofNat 32 (hottest w.dies))
  let s := (List.range 6).foldl (fun s d => s.wr (Reg.telDieTemp d) ((w.dies.getD d 0).setWidth 32)) s
  let s := s.wr Reg.telCoolant (BitVec.ofNat 32 (w.outlet.toNat * 256 + w.inlet.toNat))
  let s := ((s.wr Reg.telRegTemp (w.regulator.setWidth 32)).wr Reg.telVin w.vinMv).wr Reg.telVaux w.vauxMv
  if !s.powered then s
  else (List.range 8).foldl (fun s k =>
    let t := w.stackDeg.getD k 0
    let s := s.wr (Reg.stkTemp k) (t.setWidth 32)
    if t.toNat < 85 then s.wr (Reg.stkStatus k) (clrBit (s.rd (Reg.stkStatus k)) 2) else s) s

/-- Power at full resolution, and energy since the last sweep in nanojoules: a period is 2,048 ns (R35, R564). -/
def State.storePower (s : State) (w : SensorSweep) : State :=
  let since := if s.mod.sweepAt = 0 then 0 else s.bell.bounds + 1 - s.mod.sweepAt
  s.withMod { s.mod with pin := w.pinW, paux := w.pauxW, energy := s.mod.energy + w.pinW * 2048 * since, sweepAt := s.bell.bounds + 1 }

/-- THERM_ALERT_N after a sweep (R562). -/
def State.alertCheck (s : State) (w : SensorSweep) : State :=
  let st := s.rd Reg.telStatus
  let warm := causeNow (bit st 0) (decide (s.warnC ≤ hottest w.dies)) (hottest w.dies) s.warnC
  let cool := causeNow (bit st 1) (decide (45 < w.inlet.toNat)) w.inlet.toNat 45
  let raised := (warm && !bit st 0) || (cool && !bit st 1)
  let s := s.wr Reg.telStatus (BitVec.ofNat 32 (b2n warm + 2 * b2n cool + 4 * b2n (warm || cool) + 8 * b2n (bit st 3)))
  let s := s.withMod { s.mod with alert := warm || cool }
  if raised then s.emit .i3cInterrupt else s

/-- THERMTRIP_N after a sweep (R563): the main rails go, as at a main loss (R525). -/
def State.tripCheck (s : State) (w : SensorSweep) : State :=
  if s.mod.trip || !(decide (115 ≤ hottest w.dies) || decide (125 ≤ w.regulator.toNat)) then s
  else
    let s := (s.wr Reg.telStatus (setBit (s.rd Reg.telStatus) 3)).bump Reg.telTrips
    let s := s.withMod { s.mod with trip := true }
    if s.boot.pwrGood then s.loseMain else s

/-- SENSOR_READ (R562, R563, R564): once per 1,024 periods while the auxiliary supply is good. -/
def execSensorRead (sweep : SensorSweep) (s : State) : Host.Outcome State Fault Refusal :=
  if !s.boot.auxGood || (s.mod.sweepAt != 0 && s.bell.bounds + 1 < s.mod.sweepAt + 1024) then .next s
  else .next ((((s.storeSweep sweep).storePower sweep).alertCheck sweep).tripCheck sweep)

/-- CLEAR_TRIP (R563): through I3C, and only while the hottest junction reads below 85 °C. -/
def execClearTrip (s : State) : Host.Outcome State Fault Refusal :=
  if s.boot.auxGood && s.mod.trip && decide ((s.rd Reg.telTjMax).toNat < 85) then
    .next ((s.withMod { s.mod with trip := false }).wr Reg.telStatus (clrBit (s.rd Reg.telStatus) 3))
  else .next s

end Sys2Proof.Machine
end

