-- ==== Sys2Proof/Machine/SettleRows.lean ====
section
/-!
DEFINITION. The meanings of the commands that end the requests of this switch's own units (04 R138 to R141): a completion arrives, or
the time of a tag runs out.
-/
namespace Sys2Proof.Machine

/-- A tag closes with a status, FLAGS and data, which its unit takes up (R141). A gateway's wait for the gateway's own commands. -/
def State.settle (s : State) (t : Tag) (st : Status) (flags : BitVec 8) (data : Bytes) : State :=
  let gone := s.withMort { s.mort with tags := s.mort.tags.erase t }
  match t.purpose with
  | .bar4 h id idx => (gone.bar4Settled h id idx st data).retryTags t.unit
  | .desc h id => (gone.descSettled h id st data).retryTags t.unit
  | .bench b k => (gone.benchSettled b k st flags data).retryTags t.unit
  | .net u k => (gone.netSettled u k st flags data).retryTags t.unit
  | .roll k => (gone.rollSettled k st data).retryTags t.unit
  | .gwFlush _ _ _ _ => s.closeTag t st flags data
  | .gwFetch _ _ _ _ => s.closeTag t st flags data

/-- The check of a completion against the ADDR, SEQ and JOB recorded for its tag (R138, R139). -/
def cplChecks (t : Tag) (f : Frame) : Bool :=
  f.payload.length == f.len
    && f.check == crc32c (leBytes 8 t.addr.toNat ++ leBytes 4 t.seq.toNat ++ leBytes 2 t.job.toNat ++ leBytes 32 f.hdr.toNat ++ f.payload)

/-- A completion at this switch: its own unit's, by TAG and SEQ, when it checks; an agent's; or none's, and it is discarded (R139). -/
def State.takeCpl (s : State) (e : QEntry) (f : Frame) : State :=
  let own := s.mort.tags.find? (fun t => t.tag == f.tag && t.seq == f.seq)
  match own with
  | some t =>
    if !e.short && cplChecks t f then s.settle t f.status f.flags (if delivers f.status then f.payload else [])
    else
      match s.agentOf f with
      | some a => s.cplToAgent a e.cls f
      | none => s.raiseMort 1 f f.status
  | none =>
    match s.agentOf f with
    | some a => s.cplToAgent a e.cls f
    | none => s.raiseMort 1 f f.status

/-- CPL_RECEIVE (R138 to R140): the next frame of a cluster's local output, when it is a completion. -/
def execCplReceive (k : Fin 12) (s : State) : Host.Outcome State Fault Refusal :=
  match s.homeNext k with
  | none => .next s
  | some e =>
    let f := Frame.ofBytes e.bytes
    if f.isCpl then .next ((s.takeHome k e).takeCpl e f) else .next s

/-- MORT_REQ_TIMEOUT in periods (R156). -/
def State.reqTimeout (s : State) : Nat := max 1 (bits (s.rd Reg.mortReqTimeout).toNat 15 0)

/-- TAG_TIMEOUT (R141). -/
def execTagTimeout (unit : BitVec 10) (tag : Fin 512) (s : State) : Host.Outcome State Fault Refusal :=
  match s.mort.tags.find? (fun t => t.unit == unit && t.tag.toNat == tag.val) with
  | none => .next s
  | some t => if s.bell.bounds < t.born + s.reqTimeout then .next s else .next (s.settle t St.timeout 0 [])

end Sys2Proof.Machine
end

