-- ==== Sys2Proof/Machine/RegViews.lean ====
section
/-!
DEFINITION. The registers that show other state, computed when they are read (the register tables of 02 to 19), and the read of any
register (R6, R8, R9, R530).
-/
namespace Sys2Proof.Machine

/-- A register word of fields: lowest bit and value of each. -/
def pack (l : List (Nat × Nat)) : Word := BitVec.ofNat 32 ((l.map (fun p => p.2 * 2 ^ p.1)).sum)

/-- The low or the high word of a pair. -/
def halfWord (d : Dword) (hi : Bool) : Word := d.extractLsb' (if hi then 32 else 0) 32

/-- A count of a 32-bit register, which saturates. -/
def countWord (n : Nat) : Word := BitVec.ofNat 32 (min n 0xFFFFFFFF)

/-- An armed switch-over point as R12 lays it out; 0 while nothing is armed. -/
def pointWord (p : Option Point) : Dword := (p.map (fun q => (BellTime.at0 q.term q.period).stamp)).getD 0

/-- GLOBAL (R31): the term length follows the count once the session values are set. -/
def State.viewGlobal (s : State) (o : Nat) : Option Word :=
  if o == Reg.scTermLength && bit (s.rd Reg.scaleStatus) 0 then some (BitVec.ofNat 32 s.bell.len) else none

/-- BELL (R87). -/
def State.viewBell (s : State) (o : Nat) : Option Word :=
  let b := s.bell
  if o == Reg.bellStatus then
    some (pack [(16, b.health.toNat), (6, b2n b.ready), (5, b2n b.refPresent), (4, b2n b.backup), (3, b2n b.master), (0, b.lock.code.toNat)])
  else if o == Reg.bellNowLo || o == Reg.bellNowHi then some (halfWord s.now (o == Reg.bellNowHi))
  else if o == Reg.bellMaster && b.master then some (pack [(16, s.prio.toNat), (0, s.swNum.toNat)])
  else if o == Reg.bellHoldover then some (if b.lock == .holdover then countWord (b.bounds - b.holdAt) else 0)
  else none

/-- TIMETABLE (R88). -/
def State.viewTt (s : State) (o : Nat) : Option Word :=
  let t := s.tt
  if o == Reg.ttStatus then
    some (pack [(4, b2n t.missed), (3, b2n (s.bell.master && t.ann.isSome)), (2, b2n (t.ann.any (·.committed))), (1, b2n t.armed.isSome),
      (0, b2n t.active)])
  else if o == Reg.ttActiveTag then some t.activeTag
  else if o == Reg.ttArmedTag then some ((t.armed.map (·.1)).getD 0)
  else if o == Reg.ttArmedTermLen then some (BitVec.ofNat 32 ((t.armed.map (·.2)).getD 0))
  else if o == Reg.ttSoPointLo || o == Reg.ttSoPointHi then
    some (halfWord ((t.ann.map (fun a => (BellTime.at0 a.term a.period).stamp)).getD 0) (o == Reg.ttSoPointHi))
  else if o == Reg.ttLoadInert then some (countWord (s.inactiveTt.filter (fun p => ttInert (p.1 / 8192 / 256) p.2)).length)
  else none

/-- PORT (R125). A split port shows its half 0. -/
def State.viewPort (s : State) (p : Port) (o : Nat) : Option Word :=
  let k := s.link p.link
  if o == 0x08 then
    some (pack [(16, k.phase.toNat), (15, b2n k.encrypted), (14, b2n k.fecLL), (13, b2n k.degraded), (12, b2n (s.isSplit p)),
      (10, k.width.toNat), (0, (if k.looped then Train.loopback else k.train).code.toNat)])
  else if o == 0x0C then
    some (match k.peer with
      | none => 0
      | some c => pack [(30, c.kind.toNat), (24, c.partition.toNat), (20, if k.v09 then 0 else 1), (16, if k.v09 then 9 else 0),
          (0, c.switch.toNat)])
  else if o == 0x10 then some ((k.peer.map (fun c => BitVec.ofNat 32 c.port.toNat)).getD 0)
  else if 0x30 ≤ o && o < 0x40 && o % 4 == 0 then
    let c := 2 * ((o - 0x30) / 4)
    let held := fun (i : Nat) => min 65535 ((k.credits.toList[i]?).getD 0)
    some (pack [(16, held (c + 1)), (0, held c)])
  else none

/-- SWITCH (R183). -/
def State.viewSwitch (s : State) (o : Nat) : Option Word :=
  if o == Reg.swStatus then some (BitVec.ofNat 32 s.sw.samples.length) else none

/-- MORTISE (R156, R288). -/
def State.viewMortise (s : State) (o : Nat) : Option Word :=
  let t := s.tt
  if o == Reg.mortStatus then
    some (pack [(3, b2n t.armDrawer.isSome), (2, b2n t.armMort.isSome), (1, b2n s.mort.drawerBank), (0, b2n s.mort.mortBank)])
  else if o == Reg.mortSoPointLo || o == Reg.mortSoPointHi then some (halfWord (pointWord t.armMort) (o == Reg.mortSoPointHi))
  else if o == Reg.drawerSoPointLo || o == Reg.drawerSoPointHi then some (halfWord (pointWord t.armDrawer) (o == Reg.drawerSoPointHi))
  else if o == Reg.drawersLent then some (countWord (s.drawersIn 1))
  else if o == Reg.drawersRecalling then some (countWord (s.drawersIn 2))
  else if o == Reg.ordStatus then some (BitVec.ofNat 32 (min 65535 (s.pool.guards.filter (·.release)).length))
  else if o == Reg.ordTagFill then some (countWord s.pool.tags.length)
  else none

/-- POOL (R221). -/
def State.viewPool (s : State) (o : Nat) : Option Word :=
  let p := s.pool
  if o == Reg.poolStatus then
    some (pack [(4, b2n s.tt.armObj.isSome), (3, b2n p.objBank), (2, b2n (decide (0 < p.flashBytes))), (1, b2n p.initDone), (0, b2n p.initBusy)])
  else if o == Reg.poolDirectGib then some (countWord (p.direct / gib))
  else if o == Reg.poolFramesTotal then some (countWord p.frameCount)
  else if o == Reg.poolFramesFree then some (countWord s.framesFree)
  else if o == Reg.poolResetPending then some (countWord p.resets.length)
  else if o == Reg.poolObjInert then some (countWord p.inert.length)
  else if o == Reg.poolObjSoPointLo || o == Reg.poolObjSoPointHi then some (halfWord (pointWord s.tt.armObj) (o == Reg.poolObjSoPointHi))
  else if Reg.poolWindowLendable 0 ≤ o && o < Reg.poolWindowLendable 12 && o % 4 == 0 then
    some (BitVec.ofNat 32 (p.lendable.get 0 ((o - Reg.poolWindowLendable 0) / 4) / 2 ^ 20))
  else none

/-- STACK (R223). -/
def State.viewStack (s : State) (k o : Nat) : Option Word :=
  if o == 0 then some (s.rd (Reg.stkStatus k) ||| pack [(3, b2n (s.runningActivity 1 2 k).isSome)]) else none

/-- Erase counts of the good blocks of a tray that are listed, and whether some good block is not: it has never been erased. -/
def Tray.eraseCounts (x : Tray) : List Nat :=
  let good := (x.blocks.filter (fun p => p.2.state != .retired)).map (fun p => p.2.erases)
  if x.blocks.length < x.total then 0 :: good else good

/-- TRAY (R257). WA reads 0 until sectors have been programmed for demotions. -/
def State.viewTray (s : State) (o : Nat) : Option Word :=
  let mask := fun (f : Tray → Bool) => ((s.pool.trays.filter (fun p => f p.2)).map (fun p => 2 ^ (p.1 % 32))).sum
  if o == Reg.trayStatus then some (BitVec.ofNat 32 (s.pool.trays.filter (fun p => p.2.inUse)).length)
  else if o == Reg.trayLiveMask then some (BitVec.ofNat 32 (mask Tray.inUse))
  else if o == Reg.trayLostMask then some (BitVec.ofNat 32 (mask (fun x => x.state == .lost)))
  else if Reg.trayTStatus 0 ≤ o && o < Reg.trayTStatus 32 then
    let t := (o - Reg.trayTStatus 0) / 0x1000
    let x := s.tray t
    let pair := fun (n : Nat) (hi : Bool) => some (halfWord (BitVec.ofNat 64 n) hi)
    match (o - Reg.trayTStatus 0) % 0x1000 with
    | 0x00 => some (pack [(24, x.port), (8, x.state.code), (0, min 255 x.units)])
    | 0x04 => some (countWord x.goodBlocks)
    | 0x08 => some (countWord x.freeBlocks)
    | 0x10 => some (countWord x.share)
    | 0x14 => some (countWord (match x.eraseCounts with
        | [] => 0
        | a :: t => t.foldl min a))
    | 0x18 => some (countWord (x.eraseCounts.foldl max 0))
    | 0x1C => some (if x.sectDemote = 0 then 0 else countWord ((x.sectDemote + x.sectGc) * 1000 / x.sectDemote))
    | 0x20 => pair x.sectDemote false
    | 0x24 => pair x.sectDemote true
    | 0x28 => pair x.sectGc false
    | 0x2C => pair x.sectGc true
    | 0x30 => pair x.sectWear false
    | 0x34 => pair x.sectWear true
    | 0x38 => some (BitVec.ofNat 32 (field x.serial 0 4))
    | 0x3C => some (BitVec.ofNat 32 (field x.serial 4 4))
    | 0x40 => some (BitVec.ofNat 32 (field x.serial 8 4))
    | 0x44 => some (BitVec.ofNat 32 (field x.serial 12 4))
    | _ => none
  else none

/-- DIRECTORY (R317). -/
def State.viewDir (s : State) (o : Nat) : Option Word :=
  let d := s.dir
  let count := fun (f : DirEntry → Bool) => some (countWord (d.entries.filter (fun p => f p.2)).length)
  if o == Reg.dirStatus then some (pack [(0, b2n (s.fault.running.any (fun a => a.cls == 6)))])
  else if o == Reg.dirEntriesValid then count (fun e => e.state != .uncached)
  else if o == Reg.dirTrackersBusy then some (countWord (d.trackers.filter (fun p => p.2.isSome)).length)
  else if o == Reg.dirHoldFill then some (countWord d.hold.length)
  else if o == Reg.dirPoisoned then count (fun e => e.state == .poisoned)
  else if o == Reg.dirOvfUsed then count (fun e => e.block.isSome)
  else if o == Reg.dirPurgePending then some (countWord d.purges.length)
  else none

/-- BENCH (R363): the block of a bench, and the words of its cluster. A slot is 11.2 core cycles. -/
def State.viewBench (s : State) (k o : Nat) : Option Word :=
  let bits14 := fun (f : BenchId → Bool) => some (BitVec.ofNat 32 (((List.range 14).map (fun j =>
    if h : k * 14 + j < 168 then b2n (f ⟨k * 14 + j, h⟩) * 2 ^ j else 0)).sum))
  if o == 0xF000 then bits14 (fun b => (s.bench b).run.isSome || s.inRecess 1 b.val)
  else if o == 0xF004 then bits14 (fun b => s.inRecess 1 b.val)
  else if h : k * 14 + o / 0x1000 < 168 then
    let b : BenchId := ⟨k * 14 + o / 0x1000, h⟩
    let x := s.bench b
    let cycles := BitVec.ofNat 64 (x.busy * 56 / 5)
    match o % 0x1000 with
    | 0x00 => some (pack [(24, x.op), (8, x.queue.length), (0, if s.inRecess 1 b.val then 5 else x.state)])
    | 0x18 => some (halfWord cycles false)
    | 0x1C => some (halfWord cycles true)
    | _ => none
  else none

/-- HOME entries of the roll in a state of the hall pass. -/
def State.homesIn (s : State) (st : PassSt) : Nat :=
  (s.roll.live.filter (fun p => p.2.live && p.2.state == st && !cfgPart (s.rollCfg p.1))).length

/-- ROLL (R396). -/
def State.viewRoll (s : State) (o : Nat) : Option Word :=
  let r := s.roll
  if o == Reg.rollStatus then some (pack [(1, b2n s.tt.armRoll.isSome), (0, b2n r.bank)])
  else if o == Reg.rollSoPointLo || o == Reg.rollSoPointHi then some (halfWord (pointWord s.tt.armRoll) (o == Reg.rollSoPointHi))
  else if o == Reg.rollOpen then some (countWord ((if r.bank then r.cfg1 else r.cfg0).filter (fun p => cfgValid p.2)).length)
  else if o == Reg.rollHeld then some (countWord (s.homesIn .held))
  else if o == Reg.rollOffered then some (countWord (s.homesIn .offered))
  else if o == Reg.rollOrphaned then some (countWord (s.homesIn .orphaned))
  else if o == Reg.rollClosed then some (countWord (s.homesIn .closed))
  else if o == Reg.rollProbeStatus then some (pack [(1, b2n (r.probe.any (·.2))), (0, b2n r.probe.isSome)])
  else if Reg.rollProbeEntry 0 ≤ o && o < Reg.rollProbeEntry 64 && o % 4 == 0 then
    some ((r.probe.map (fun p => BitVec.ofNat 32 (field p.1 (o - Reg.rollProbeEntry 0) 4))).getD 0)
  else none

/-- NETWORK (R429). -/
def State.viewNet (s : State) (o : Nat) : Option Word :=
  if o == Reg.netStatus then some (pack [(0, b2n (s.net.pfxLog2 != 0))])
  else if o == Reg.netPfxFill then some (countWord s.net.pfx.length)
  else if o < Reg.nuStatus 0 then none
  else if h : (o - Reg.nuStatus 0) / 0x40 < 36 then
    let u : NetId := ⟨(o - Reg.nuStatus 0) / 0x40, h⟩
    let x := s.netUnit u
    let cycles := BitVec.ofNat 64 (x.busy * 56 / 5)
    match (o - Reg.nuStatus 0) % 0x40 with
    | 0x00 => some (pack [(24, x.op), (16, if netKind u = 0 then x.works.length else 0), (0, if s.inRecess 2 u.val then 4 else x.state)])
    | 0x10 => some (halfWord cycles false)
    | 0x14 => some (halfWord cycles true)
    | _ => none
  else none

/-- STATE of a migration engine (R449): what the piece of work that has come furthest does. -/
def State.engineState (s : State) (e : Nat) : Nat :=
  let ws := s.pool.works.filter (fun w => engineOf w.plank == e)
  if ws.isEmpty then 0
  else if ws.any (fun w => w.stage == .compress) then 1
  else if ws.any (fun w => w.stage == .expand) then 2
  else if ws.any (fun w => w.stage == .commit) then 3
  else 4

/-- VENEER and DMA (R449). -/
def State.viewVen (s : State) (o : Nat) : Option Word :=
  if o == Reg.venStatus then some (countWord (s.pool.slots.filter (fun p => p.2.state == .resident)).length)
  else if Reg.venStream 0 ≤ o && o < Reg.venStream 256 && o % 4 == 0 then
    some (match s.pool.current.get none ((o - Reg.venStream 0) / 4) with
      | some g => pack [(2, 1), (0, g % 4)]
      | none => 0)
  else if Reg.venSlotState 0 0 ≤ o && o < Reg.venSlotState 256 0 then
    let q := s.pool.slots.get BasisSlot.reset ((o - Reg.venSlotState 0 0) / 0x10)
    match (o - Reg.venSlotState 0 0) % 0x10 with
    | 0x0 => some (BitVec.ofNat 32 (field q.header 0 4))
    | 0x4 => some (pack [(16, q.cols), (0, q.tag.toNat)])
    | 0x8 => some (countWord q.refs)
    | 0xC => some q.check
    | _ => none
  else if Reg.mdmaStatus 0 ≤ o && o < Reg.mdmaStatus 16 && (o - Reg.mdmaStatus 0) % 0x20 == 0 then
    let e := (o - Reg.mdmaStatus 0) / 0x20
    some (pack [(16, min 65535 (s.pool.works.filter (fun w => engineOf w.plank == e)).length), (0, s.engineState e)])
  else none

/-- HOST (R482). -/
def State.viewHost (s : State) (h : HostPort) (o : Nat) : Option Word :=
  let x := s.host h
  if o == 0x00 then
    some (pack [(24, b2n ((s.host (other h)).ring == .adopted)), (20, x.ring.code.toNat), (17, b2n x.perst), (16, b2n x.dlUp),
      (8, x.width.toNat), (0, x.rate.toNat)])
  else if o == 0x0C then some (countWord x.flight.length)
  else if o == 0x10 then some (countWord x.held.length)
  else if 0x1000 ≤ o && o < 0x1800 && o % 0x20 == 0x14 then
    some (countWord (s.sqInFlight h ⟨(o - 0x1000) / 0x20 % 64, Nat.mod_lt _ (by decide)⟩).length)
  else none

/-- SECURITY (R505): entry 0 of the trust table holds the Malbex root. -/
def State.viewSec (s : State) (o : Nat) : Option Word :=
  if o == Reg.secStatus then
    some ((s.rd Reg.secStatus &&& 6) ||| pack [(4, b2n s.hostB.fm.role), (3, b2n s.hostA.fm.role), (0, b2n s.locked)])
  else if o == Reg.secFmCountALo || o == Reg.secFmCountAHi then
    some (halfWord (BitVec.ofNat 64 s.hostA.fm.reqCount) (o == Reg.secFmCountAHi))
  else if o == Reg.secFmCountBLo || o == Reg.secFmCountBHi then
    some (halfWord (BitVec.ofNat 64 s.hostB.fm.reqCount) (o == Reg.secFmCountBHi))
  else if Reg.secTrustHash 0 0 ≤ o && o < Reg.secTrustHash 0 16 && o % 4 == 0 then
    some (BitVec.ofNat 32 (field (s.trustHash 0) (o - Reg.secTrustHash 0 0) 4))
  else if o == Reg.secTrustCtrl 0 then some (s.trustCtrl 0)
  else none

/-- Numbers below `n` whose error register is not 0. -/
def State.errUnits (s : State) (n : Nat) (reg : Nat → Nat) : List Nat := (List.range n).filter (fun i => s.rd (reg i) != 0)

/-- Register of the errors of a bench. -/
def benchErrReg (b : Nat) : Nat := Reg.bnErr (b / 14) (b % 14)

/-- A 32-bit word of a set of units. -/
def maskWord (l : List Nat) (word : Nat) : Word :=
  BitVec.ofNat 32 (((l.filter (fun i => i / 32 == word)).map (fun i => 2 ^ (i % 32))).sum)

/-- FAULT_SUMMARY (R514, R523). -/
def State.faultSummary (s : State) : Word :=
  let at_ := fun (reg : Nat) => b2n (s.rd reg != 0)
  let any := fun (n : Nat) (reg : Nat → Nat) => b2n (!(s.errUnits n reg).isEmpty)
  pack [(18, at_ Reg.faultErr), (17, at_ Reg.secErr), (16, at_ (Reg.hostErr 1)), (15, at_ (Reg.hostErr 0)), (14, at_ Reg.venErr),
    (13, at_ Reg.netErr), (12, at_ Reg.rollErr), (11, any 168 benchErrReg), (10, at_ Reg.dirErr), (9, at_ Reg.trayNotes),
    (8, at_ Reg.trayErr), (7, any 8 Reg.stkErr), (6, at_ Reg.poolErr), (5, at_ Reg.swErr), (4, at_ Reg.ordErr), (3, at_ Reg.mortErr),
    (2, any 192 Reg.portErr), (1, at_ Reg.ttErr), (0, at_ Reg.bellErr)]

/-- FAULT and the boot group (R523, R538). -/
def State.viewFault (s : State) (o : Nat) : Option Word :=
  let b := s.boot
  if o == Reg.faultSummary then some s.faultSummary
  else if Reg.faultPortSummary 0 ≤ o && o < Reg.faultPortSummary 6 && o % 4 == 0 then
    some (maskWord (s.errUnits 192 Reg.portErr) ((o - Reg.faultPortSummary 0) / 4))
  else if Reg.faultBenchSummary 0 ≤ o && o < Reg.faultBenchSummary 6 && o % 4 == 0 then
    some (maskWord (s.errUnits 168 benchErrReg) ((o - Reg.faultBenchSummary 0) / 4))
  else if o == Reg.faultStackSummary then some (maskWord (s.errUnits 8 Reg.stkErr) 0)
  else if o == Reg.faultFenceLo || o == Reg.faultFenceHi then some (halfWord s.fault.fenced (o == Reg.faultFenceHi))
  else if o == Reg.maintStatus then
    some (pack [(16, min 65535 (s.fault.waiting.filter (·.pending)).length),
      (0, ((List.range 9).map (fun c => b2n (s.fault.running.any (fun a => a.cls.val == c + 1)) * 2 ^ c)).sum)])
  else if o == Reg.bootStatus then
    some (pack [(18, b2n b.recoveryIgnored), (17, b2n b.bellSlow), (16, b2n b.wdogSeen), (8, b.failCause.toNat), (0, b.state.code)])
  else if o == Reg.bootClaim then
    some (match b.claim with
      | none => 0
      | some h => BitVec.ofNat 32 (1 + hostNum h))
  else if o == Reg.bootElapsed then some (countWord ((s.bell.ticks - b.resetAt) / slotsPerUs))
  else none

/-- State of a trace buffer as R553 codes it. -/
def TraceSt.code : TraceSt → Nat
  | .idle => 0
  | .capturing => 1
  | .triggered => 2
  | .stopped => 3

/-- TEST (R553). TEST_MARCH_DONE follows the MARCH that runs (R545). -/
def State.viewTest (s : State) (o : Nat) : Option Word :=
  let l := s.test.lb
  let g := s.test.hlb
  if o == Reg.testLbStatus then
    some (pack [(24, l.port.val), (20, if l.running then (s.link l.port.link).train.code.toNat else 0), (18, l.depth.toNat),
      (2, b2n l.refused), (1, b2n l.locked), (0, b2n l.running)])
  else if o == Reg.testHlbStatus then
    some (pack [(8, hostNum g.port), (4, g.depth.toNat), (2, b2n g.refused), (1, b2n g.locked), (0, b2n g.running)])
  else if o == Reg.testMarchDoneLo || o == Reg.testMarchDoneHi then
    match s.fault.running.find? (fun a => a.cls == 7 && a.kind == 2 && a.arg.toNat % 4 == 2) with
    | some a => some (halfWord (BitVec.ofNat 64 (s.marchLines a)) (o == Reg.testMarchDoneHi))
    | none => none
  else if Reg.trcCfg 0 ≤ o && o < Reg.trcCfg 4 && (o - Reg.trcCfg 0) % 0x20 == 0x0C then
    let t := s.test.trace.get Trace.reset ((o - Reg.trcCfg 0) / 0x20)
    some (pack [(30, t.state.code), (0, t.entries.length)])
  else none

/-- The job views (R504): word w of the view of job j. The estimated power of a job is a free value. -/
def State.jobView (s : State) (j w : Nat) : Word :=
  if w = 7 then BitVec.ofNat 32 s.mort.jobStamp.toNat
  else if w = 6 then
    (if s.mort.jobPower = 0 then 0
     else BitVec.ofNat 32 (quantized (bits (Config.freeValue (s.mort.jobPower - 1 + j)).toNat 31 0)))
  else s.mort.jobShown.get 0 (8 * j + w)

/-- The job views' part of the TELEMETRY block (R504). -/
def jobViewBase : Nat := 0x1580000

/-- The value that a register shows where it is not stored as such. -/
def State.view (s : State) (off : Nat) : Option Word :=
  if off < 0x100000 then s.viewGlobal off
  else if off < 0x200000 then s.viewBell off
  else if off < 0x400000 then s.viewTt off
  else if off < 0x700000 then
    (if h : (off - 0x400000) / 0x4000 < 192 then s.viewPort ⟨_, h⟩ ((off - 0x400000) % 0x4000) else none)
  else if off < 0x800000 then s.viewSwitch off
  else if off < 0x900000 then s.viewMortise off
  else if off < 0xA00000 then s.viewPool off
  else if off < 0xB00000 then s.viewStack ((off - 0xA00000) / 0x10000) ((off - 0xA00000) % 0x10000)
  else if off < 0xC00000 then s.viewTray off
  else if off < 0xD00000 then s.viewDir off
  else if off < 0xE00000 then s.viewBench ((off - 0xD00000) / 0x10000) ((off - 0xD00000) % 0x10000)
  else if off < 0xF00000 then s.viewRoll off
  else if off < 0x1000000 then s.viewNet off
  else if off < 0x1100000 then s.viewVen off
  else if off < 0x1200000 then
    (if off < 0x1108000 then s.viewHost .a (off - 0x1100000) else s.viewHost .b (off - 0x1108000))
  else if off < 0x1300000 then s.viewSec off
  else if off < 0x1400000 then s.viewFault off
  else if off < 0x1500000 then s.viewTest off
  else none

/-- A register as BAR0 reads it (R8, R9): write-only registers, reserved bits and unassigned offsets read 0. -/
def State.readReg (s : State) (off : Nat) : Word :=
  if jobViewBase ≤ off && off < jobViewBase + 0x20000 then
    (if off % 4 = 0 then s.jobView ((off - jobViewBase) / 0x20) (off % 0x20 / 4) else 0)
  else
    match regRow off with
    | none => 0
    | some r => if r.acc == .wo then 0 else (s.view off).getD (s.rd off)

end Sys2Proof.Machine
end

