-- ==== Sys2Proof/Machine/Bar0Rows.lean ====
section
/-!
DEFINITION. Access to BAR0 by the hosts (00 R5 to R9, 16 R512, 17 R530): reads with the latch of a pair, writes by access code, held
low words, unsupported accesses; and the session lock with the measurements that it takes (15 R488, R489).
-/
namespace Sys2Proof.Machine

/-! Pairs (R6, R7). -/

/-- The _LO registers of all pairs, the first of each repeated one. The _HI register follows at + 4. -/
def loBases : List Nat := [
  Reg.scFlashManagedLo, Reg.scMapReserveLo, Reg.scStackUsableLo, Reg.bellNowLo, Reg.bellPpsStampLo, Reg.bellErrFirstLo,
   Reg.ttSoPointLo, Reg.ttErrFirstLo, Reg.portFecCorrLo 0, Reg.portErrFirstLo 0, Reg.laneBerLo 0 0, Reg.mortSoPointLo,
   Reg.drawerSoPointLo, Reg.mortErrFirstLo, Reg.swErrFirstLo, Reg.poolObjSoPointLo, Reg.poolErrFirstLo, Reg.stkCorrLo 0,
   Reg.stkErrFirstLo 0, Reg.stkErrAddrLo 0, Reg.trayErrFirstLo, Reg.trayNotesFirstLo, Reg.trayTSectDemoteLo 0,
   Reg.trayTSectGcLo 0, Reg.trayTSectWearLo 0, Reg.ordErrFirstLo, Reg.ordScopeAddrLo, Reg.dirErrFirstLo, Reg.dirErrAddrLo,
   Reg.dirProbeAddrLo, Reg.dirProbeEntryLo, Reg.bnBusyLo 0 0, Reg.bnErrFirstLo 0 0, Reg.bnErrDescLo 0 0, Reg.rollSoPointLo,
   Reg.rollErrFirstLo, Reg.netErrFirstLo, Reg.nuBusyLo 0, Reg.nuBytesLo 0, Reg.venInBytesLo, Reg.venOutBytesLo,
   Reg.venErrFirstLo, Reg.venErrPlankLo, Reg.mdmaBusyLo 0, Reg.hostErrFirstLo 0, Reg.hostErrAddrLo 0, Reg.hostBar4WinLo 0 0,
   Reg.sqBaseLo 0 0, Reg.cqBaseLo 0 0, Reg.evtBaseLo 0, Reg.secFmCountALo, Reg.secFmCountBLo, Reg.secErrFirstLo,
   Reg.faultFenceLo, Reg.faultFenceSetLo, Reg.faultLiftLo, Reg.faultErrFirstLo, Reg.faultOfflineNuLo, Reg.bootStampLo,
   Reg.fwVersionLo, Reg.testLbBitsLo, Reg.testHlbBitsLo, Reg.testBistAddrLo, Reg.testMarchDoneLo, Reg.trcTrigTimeLo 0,
   Reg.telEnergyLo]

/-- The register at an offset is the _LO register of a pair. -/
def isLo (off : Nat) : Bool := (regRow off).any (fun r => loBases.contains r.base)

/-- The pair that a write of this _LO register belongs to can be written. -/
def writableLo (off : Nat) : Bool := (regRow off).any (fun r => loBases.contains r.base && (r.acc == .rw || r.acc == .wo))

/-- Apply both words of a pair (R7). -/
def State.writePair (s : State) (lo : Nat) (q : Dword) : State :=
  if lo == Reg.faultFenceSetLo then s.writeFenceSet q
  else if lo == Reg.faultLiftLo then s.writeLift q
  else (s.wrMasked lo (q.extractLsb' 0 32)).wrMasked (lo + 4) (q.extractLsb' 32 32)

/-- A write of a _LO register of a pair: ring registers ask their owner first (R477). -/
def State.writeLoWord (s : State) (h : HostPort) (off : Nat) (v : Word) : State :=
  if (ringRegOf off).isSome then s.writeRing h off v else s.holdLo h off v

/-- A write of the _HI register at `off`. -/
def State.writeHiWord (s : State) (h : HostPort) (off : Nat) (v : Word) : State :=
  if (ringRegOf off).isSome then s.writeRing h off v
  else (s.dropHeld h (off - 4)).writePair (off - 4) (s.joinHi h (off - 4) v)

/-! The session lock (R488, R489). -/

/-- All rows of the register map. -/
def allRows : List RegRow :=
  rowsGlobal0 ++ rowsGlobal1 ++ rowsBell ++ rowsTimetable ++ rowsPort ++ rowsSwitch ++ rowsMortise ++ rowsPool ++ rowsStack ++ rowsTray0
    ++ rowsTray1 ++ rowsDirectory ++ rowsBench ++ rowsRoll ++ rowsNetwork ++ rowsVeneer ++ rowsHost ++ rowsSecurity ++ rowsFault0
    ++ rowsFault1 ++ rowsTest ++ rowsTelemetry

/-- Offsets of the registers of a row. -/
def RegRow.offsets (r : RegRow) : List Nat :=
  (List.range (max 1 r.n1)).flatMap (fun i => (List.range (max 1 r.n2)).map (fun j => r.base + i * r.s1 + j * r.s2))

/-- Entry 0 of the trust table, which is read-only (R505). -/
def isTrust0 (off : Nat) : Bool := Reg.secTrustHash 0 0 ≤ off && off < Reg.secTrustHash 1 0

/-- The RWL registers in ascending order of offset. -/
def rwlOffsets : List Nat :=
  (((allRows.filter (fun r => r.acc == .rwl)).flatMap RegRow.offsets).filter (fun o => !isTrust0 o)).mergeSort (fun a b => decide (a ≤ b))

/-- A write of 1 to SEC_LOCK.LOCK (R489): MEAS2 and MEAS3 take their values, once. -/
def State.lock (s : State) (v : Word) : State :=
  if !bit v 0 || s.locked then s
  else
    let s := s.extendMeas 2 (rwlOffsets.flatMap (fun o => leBytes 4 (s.rd o).toNat))
    let s := s.extendMeas 3 ((List.range 16).flatMap (fun e =>
      Config.trustRecord (bit (s.trustCtrl e) 8) ((s.trustCtrl e).extractLsb' 0 8) (s.trustHash e)))
    s.wr Reg.secLock 1

/-- CLR_COUNTERS of SEC_CTRL (R505). -/
def State.clearSec (s : State) : State :=
  s.zeroRegs [Reg.secSecureDone, Reg.secAuthFail, Reg.secRekeys, Reg.secStoreForeign, Reg.secShreds]

/-! Writes by access code (R8). -/

/-- The number of a repeated register at an offset. -/
def regIndex (base stride n off : Nat) : Option (Fin n) :=
  if h : base ≤ off ∧ (off - base) % stride = 0 ∧ (off - base) / stride < n then some ⟨(off - base) / stride, h.2.2⟩ else none

/-- A read-write register: most take the value, some act on it too. -/
def State.writeRw (s : State) (off : Nat) (v : Word) : State :=
  let policed := fun (x : Fin (192 * 16)) => s.writePolSel ⟨x.val / 16, by omega⟩ ⟨x.val % 16, by omega⟩ v
  let shaped := fun (x : Fin (192 * 8)) => s.writeShapeSel ⟨x.val / 8, by omega⟩ ⟨x.val % 8, by omega⟩ v
  if off == Reg.shapeRate 0 then s
  else
    (((regIndex (Reg.shapeBurst 0) 8 256 off).map (fun i => s.writeShapeBurst i v)).orElse fun _ =>
     ((regIndex (Reg.swShapeSel 0 0) 4 (192 * 8) off).map shaped).orElse fun _ =>
     ((regIndex (Reg.swPolSel 0 0) 4 (192 * 16) off).map policed).orElse fun _ =>
     ((regIndex (Reg.polRate 0) 8 16 off).map (fun i => s.writePolProfile i false v)).orElse fun _ =>
     ((regIndex (Reg.polBurst 0) 8 16 off).map (fun i => s.writePolProfile i true v)).orElse fun _ =>
     ((regIndex (Reg.mirCfg 0) 16 8 off).map (fun i => s.writeMir i false v)).orElse fun _ =>
     ((regIndex (Reg.mirN 0) 16 8 off).map (fun i => s.writeMir i true v)).orElse fun _ =>
     (regIndex (Reg.trcCfg 0) 32 4 off).map (fun i => s.writeTrcCfg i v)).getD (s.wrMasked off v)

/-- A register that locks, while it is not locked. A write of BELL_CTRL or SW_IDENTITY starts the wait of R565 again. -/
def State.writeRwl (s : State) (off : Nat) (v : Word) : State :=
  if off == Reg.bellCtrl || off == Reg.swIdentity then
    let s := s.wrMasked off v
    s.withBell { s.bell with goodAt := s.bell.bounds }
  else if off == Reg.bellTimeLink then (s.wrMasked off v).timeLinkCheck
  else
    (((regIndex (Reg.portCfg 0) 0x4000 192 off).map (fun p => s.writePortCfg p v)).orElse fun _ =>
     (regIndex (Reg.swRoute 0) 4 4096 off).map (fun i => s.writeRoute i v)).getD (s.wrMasked off v)

/-- Apply an update if a bit of the word written is set. -/
def State.onBit (s : State) (v : Word) (i : Nat) (f : State → State) : State := if bit v i then f s else s

/-- PORT_CTRL (R125): DISABLE is applied before RETRAIN. -/
def State.writePortCtrl (s : State) (p : Port) (v : Word) : State :=
  (((s.onBit v 1 (fun s => s.disablePort p)).onBit v 0 (fun s => s.retrain p)).onBit v 2 (fun s => s.rekeyPort p)).onBit v 3
    (fun s => s.clearPort p)

/-- TEST_LB_CTRL (R553): a port that does not exist is refused. -/
def State.writeLbCtrl (s : State) (v : Word) : State :=
  (s.onBit v 1 State.stopLoop).onBit v 0 (fun s =>
    match portOf (bits v.toNat 15 8) with
    | some p => s.startLoop p (v.extractLsb' 4 2)
    | none => s.withTest { s.test with lb := { s.test.lb with refused := true } })

/-- TEST_HLB_CTRL (R553). -/
def State.writeHlbCtrl (s : State) (h : HostPort) (v : Word) : State :=
  (s.onBit v 1 State.stopHostLoop).onBit v 0 (fun s => s.startHostLoop h (if bit v 8 then .b else .a) (v.extractLsb' 4 2))

/-- BOOT_CTRL (R538). -/
def State.writeBootCtrl (s : State) (h : HostPort) (v : Word) : State :=
  ((s.onBit v 1 (fun s => s.claimBoot h)).onBit v 2 (fun s => s.recover h (bit v 3))).onBit v 0 State.proceed

/-- A write-only register of a block that stands once. -/
def State.writeAction (s : State) (h : HostPort) (off : Nat) (v : Word) : State :=
  if off == Reg.swCtrl then s.onBit v 0 State.clearSw
  else if off == Reg.poolCtrl then (s.onBit v 0 State.poolInit).onBit v 1 State.clearPool
  else if off == Reg.trayCtrl then s.onBit v 0 State.clearTrays
  else if off == Reg.ordCtrl then s.onBit v 0 State.clearOrd
  else if off == Reg.dirCtrl then s.onBit v 0 State.clearDir
  else if off == Reg.dirProbeCtrl then s.onBit v 0 State.probeDir
  else if off == Reg.rollCtrl then s.onBit v 0 State.clearRoll
  else if off == Reg.rollProbeCtrl then s.onBit v 0 State.probeRoll
  else if off == Reg.netCtrl then s.onBit v 0 State.clearNet
  else if off == Reg.venCtrl then s.onBit v 0 State.clearVen
  else if off == Reg.hostCtrl 0 then s.onBit v 0 (fun s => s.clearHost .a)
  else if off == Reg.hostCtrl 1 then s.onBit v 0 (fun s => s.clearHost .b)
  else if off == Reg.secCtrl then s.onBit v 0 State.clearSec
  else if off == Reg.bootCtrl then s.writeBootCtrl h v
  else if off == Reg.resetCtrl then s.writeResetCtrl h v
  else if off == Reg.shutdownCtrl then s.shutDown v
  else if off == Reg.testLbCtrl then s.writeLbCtrl v
  else if off == Reg.testHlbCtrl then s.writeHlbCtrl h v
  else s

/-- A write-only register. TEL_CTRL acts through I3C only (R563). -/
def State.writeWo (s : State) (h : HostPort) (off : Nat) (v : Word) : State :=
  if 0x400000 ≤ off && off < 0x700000 then
    match portOf ((off - 0x400000) / 0x4000), (off - 0x400000) % 0x4000 with
    | some p, 0x004 => s.writePortCtrl p v
    | some p, 0x110 => s.onBit v 0 (fun s => s.startScan p 0)
    | some p, 0x150 => s.onBit v 0 (fun s => s.startScan p 1)
    | some p, 0x190 => s.onBit v 0 (fun s => s.startScan p 2)
    | some p, 0x1D0 => s.onBit v 0 (fun s => s.startScan p 3)
    | _, _ => s
  else if 0xA00000 ≤ off && off < 0xB00000 then
    let k := (off - 0xA00000) / 0x10000
    (s.onBit v 1 (fun s => s.askScrub k)).onBit v 0 (fun s => s.clearStk k)
  else if 0xD00000 ≤ off && off < 0xE00000 then
    let n := (off - 0xD00000) / 0x10000 * 14 + (off - 0xD00000) % 0x10000 / 0x1000
    if hn : n < 168 then (s.onBit v 1 (fun s => s.clearStore ⟨n, hn⟩)).onBit v 0 (fun s => s.clearBench ⟨n, hn⟩) else s
  else s.writeAction h off v

/-- A write-one-to-clear of an error record (R8, R512). -/
def State.clearErr (s : State) (off : Nat) (v : Word) : State :=
  let left := s.rd off &&& ~~~v
  let s := s.wr off left
  if left = 0 then s.wr (off + 4) 0 else s

/-- A write that arrives at the register at an offset (R8, R9). -/
def State.writeReg (s : State) (h : HostPort) (off : Nat) (v : Word) : State :=
  match regRow off with
  | none => s
  | some r =>
    match r.acc with
    | .ro => s
    | .w1c => s.clearErr off v
    | .w1s => s.lock v
    | .rwl => if isTrust0 off then s else if s.locked then s.lockedWrite off else s.writeRwl off v
    | .rw =>
      if (ringRegOf off).isSome then s.writeRing h off v
      else if isLo off then s.writeLoWord h off v
      else if isLo (off - 4) then s.writeHiWord h off v
      else s.writeRw off v
    | .wo => if isLo off then s.writeLoWord h off v else if isLo (off - 4) then s.writeHiWord h off v else s.writeWo h off v

/-- An access of 32 bits that is not aligned meets Unsupported Request (R5). -/
def State.aligned (s : State) (h : HostPort) (off : Nat) (f : State → State) : State :=
  if off % 4 = 0 then f s else if s.answers h then s.emit (.unsupported h) else s

/-- REG_WRITE (R8). -/
def execRegWrite (h : HostPort) (off : BitVec 25) (v : Word) (s : State) : Host.Outcome State Fault Refusal :=
  .next (s.aligned h off.toNat (fun s => s.hostWrite h off.toNat (fun s => s.writeReg h off.toNat v)))

/-- BAR0_UNSUPPORTED_ACCESS (R5): any other size or alignment; no register changes. -/
def execBar0UnsupportedAccess (h : HostPort) (off : BitVec 25) (size : Nat) (_write : Bool) (s : State) :
    Host.Outcome State Fault Refusal :=
  if (size == 4 && off.toNat % 4 == 0) || !s.answers h then .next s else .next (s.emit (.unsupported h))

/-! Reads (R6). -/

/-- What a read returns under the boot's gate (R530). -/
def State.served (s : State) (off : Nat) : Word := if s.serves off then s.readReg off else 0

/-- Read of a _LO register, or of a register that is not part of a pair. -/
def State.readLo (s : State) (h : HostPort) (off : Nat) : State :=
  let v := s.served off
  let s := if isLo off then s.withLatch (s.latch.put none (holdKey h off) (some (s.served (off + 4)))) else s
  s.emit (.cpl h v)

/-- READ_LO_LATCH (R6). -/
def execReadLoLatch (h : HostPort) (off : BitVec 25) (s : State) : Host.Outcome State Fault Refusal :=
  if !s.answers h then .next s else .next (s.aligned h off.toNat (fun s => (s.touch h).readLo h off.toNat))

/-- Read of a _HI register: the latched word, consumed, or the live one. -/
def State.readHi (s : State) (h : HostPort) (off : Nat) : State :=
  if isLo (off - 4) then
    let v := (s.latch.get none (holdKey h (off - 4))).getD (s.served off)
    (s.withLatch (s.latch.put none (holdKey h (off - 4)) none)).emit (.cpl h v)
  else s.emit (.cpl h (s.served off))

/-- READ_HI (R6). -/
def execReadHi (h : HostPort) (off : BitVec 25) (s : State) : Host.Outcome State Fault Refusal :=
  if !s.answers h then .next s else .next (s.aligned h off.toNat (fun s => (s.touch h).readHi h off.toNat))

/-- WRITE_LO_HOLD (R7): held for its port, not applied. -/
def execWriteLoHold (h : HostPort) (off : BitVec 25) (v : Word) (s : State) : Host.Outcome State Fault Refusal :=
  .next (s.aligned h off.toNat (fun s => s.hostWrite h off.toNat (fun s =>
    if writableLo off.toNat then s.writeLoWord h off.toNat v else s)))

/-- WRITE_HI_APPLY (R7). -/
def execWriteHiApply (h : HostPort) (off : BitVec 25) (v : Word) (s : State) : Host.Outcome State Fault Refusal :=
  .next (s.aligned h off.toNat (fun s => s.hostWrite h off.toNat (fun s =>
    if writableLo (off.toNat - 4) then s.writeHiWord h off.toNat v else s)))

/-- ERR_W1C_CLEAR (R512). -/
def execErrW1cClear (h : HostPort) (off : BitVec 25) (v : Word) (s : State) : Host.Outcome State Fault Refusal :=
  .next (s.aligned h off.toNat (fun s => s.hostWrite h off.toNat (fun s =>
    if (regRow off.toNat).any (fun r => r.acc == .w1c) then s.clearErr off.toNat v else s)))

end Sys2Proof.Machine
end

