-- ==== Sys2Proof/Machine/ScanRows.lean ====
section
/-!
DEFINITION. The directory's scans (09 R313, R316), which run as the DIR_REBUILD activity under the maintenance arbiter.
-/
namespace Sys2Proof.Machine

/-- A dead agent's request waits. -/
def deadReq (a : AgentId) (q : DirReq) : Bool := q.agent == a && q.served.isNone && q.frame.isSome

/-- The scan for a dead agent (R313). -/
def State.scanDead (s : State) (p : Port) : State :=
  let a := agentId s.swNum p.val
  let s := s.withSw { s.sw with deadDir := s.sw.deadDir.filter (· != p) }
  let trackers := s.dir.trackers.map (fun t => (t.1, t.2.map (fun (x : Tracker) =>
    { x.without ((s.dirEntry x.line).state == .filling) a with wait := x.wait.filter (fun q => !deadReq a q) })))
  let entries := (s.dir.entries.map (fun x => (x.1, x.2.without a))).filter (fun x => x.2 != DirEntry.reset)
  let s := s.withDir { s.dir with hold := s.dir.hold.filter (fun q => !deadReq a q),
                                  frozen := s.dir.frozen.filter (fun q => !deadReq a q), trackers := trackers, entries := entries }
  let owned := s.dir.entries.filter (fun x => x.2.state == .exclusive && x.2.sharers.headD 0 == a && (s.trackerOf x.1).isNone)
  (owned.foldl (fun s x => match s.freeTracker with
    | some n => s.startEvict n x.1 x.2 .rescue
    | none => s.poison x.1) s).dirGo []

/-- The DIR_REBUILD activity that runs and whose scan is still to be made (R313, R316, R516). -/
def State.scanRuns (s : State) : Option Activity := (s.runningActivity 6 7 0).filter (fun a => a.result.isNone)

/-- Ask for a scan of the directory, where none is asked for or runs (R516, R518). -/
def State.askScan (s : State) : State := if s.hasActivity 6 7 0 then s else s.requestActivity 6 7 0 0 none

/-- DIR_REBUILD (R313): a scan for a local agent that has died is asked for, and made once it runs. A scan that runs where the
agent of this port is not dead, as MAINT_REQ may ask, ends. -/
def execDirRebuild (p : Port) (s : State) : Host.Outcome State Fault Refusal :=
  match s.scanRuns with
  | some a => .next ((if s.sw.deadDir.contains p then s.scanDead p else s).activityDone a 0)
  | none => .next (if s.sw.deadDir.contains p then s.askScan else s)

/-- The snoops of a purge, and the end of the transactions of its lines (R316). -/
def State.purgeLine (s : State) (line : Nat) (e : DirEntry) : State :=
  let s := (s.sendSnoops line e.sharers (if e.state == .exclusive || e.state == .recalling then 0x11 else 0x10)).2
  match s.trackerOf line with
  | some (n, t) =>
    t.held.foldl (fun s h => s.complete h.2.2 s.dirClasses.2 h.1 St.ok false [] 0 768) (s.setTracker n none)
  | none => s

/-- DIR_PURGE (R316): a scan is asked for; once it runs, snoops go to the lines of a shredded shared drawer; 4 periods later their
entries are freed. -/
def execDirPurge (d : DrawerId) (s : State) : Host.Outcome State Fault Refusal :=
  match s.dir.purges.find? (fun p => p.1 == d.val) with
  | none => .next s
  | some (dn, lo, hi, sent) =>
    if sent = 0 then
      match s.scanRuns with
      | none => .next s.askScan
      | some a =>
        let mine := s.dir.entries.filter (fun p => lo ≤ p.1 && p.1 < hi)
        let s := mine.foldl (fun s p => s.purgeLine p.1 p.2) s
        .next ((s.withDir { s.dir with purges := s.dir.purges.map (fun p =>
          if p == (dn, lo, hi, sent) then (dn, lo, hi, s.bell.bounds + 1) else p) }).activityDone a 0)
    else if sent + 3 ≤ s.bell.bounds then
      .next ((s.withDir { s.dir with entries := s.dir.entries.clearRange lo hi, purges := s.dir.purges.erase (dn, lo, hi, sent) }).dirGo [])
    else .next s

end Sys2Proof.Machine
end

