-- ==== Sys2Proof/Machine/SecRows.lean ====
section
/-!
DEFINITION. The meanings of the security commands (15 R484 to R505): the SEC_REQ descriptors, the session lock, the entropy source.
-/
namespace Sys2Proof.Machine

/-- A SEC_REQ descriptor of a subtype (R499). -/
def isSec (sub : Nat) (d : Desc) : Bool := dType d == 0x38 && dField d 16 1 == sub

/-- SEC_ERR source of a host port (R505). -/
def secSource (h : HostPort) : Nat := 1 + hostNum h

/-- Complete a SEC_REQ with its output: more than DST_MAX is DENIED and nothing is written (R499). -/
def State.secOut (s : State) (h : HostPort) (d : Desc) (dstMax : Nat) (out : Bytes) : State :=
  if dstMax < out.length then s.done h d St.denied 0
  else if out.isEmpty then s.done h d St.ok 0
  else (s.emit (.hostWrite (s.setOwner h) (dAddr d 32) out)).done h d St.ok out.length

/-- DST_MAX in the plain and in the tagged layout (R499). -/
def dstPlain (d : Desc) : Nat := dField d 40 4
def dstTagged (d : Desc) : Nat := dField d 20 4

/-- Update the fabric-manager session of a host port. -/
def State.setFm (s : State) (h : HostPort) (f : FmSession) : State := s.withHost h { s.host h with fm := f }

/-- SEC_GET_CHAIN (R499). -/
def execSecGetChain (h : HostPort) (q : RingId) (s : State) : Host.Outcome State Fault Refusal :=
  .next (s.withDesc h q (isSec 0x01) (fun s d =>
    s.secOut h d (dstPlain d) (byteRun Config.deviceCert 0 3200 ++ byteRun Config.caCert 0 3200)))

/-- The attestation report of R490 up to its signature. -/
def State.report (s : State) (port : HostPort) (nonce : Bytes) : Bytes :=
  leBytes 2 1952 ++ [1] ++ leBytes 1 (b2n s.locked + 2 * b2n s.entropyOk + 4 * b2n (s.host port).fm.role)
    ++ leBytes 2 0x0480 ++ [0, 0] ++ leBytes 8 s.now.toNat ++ s.rdBytes Reg.secSessionId 8 ++ byteRun nonce 0 32
    ++ s.rdBytes Reg.secIdentityHash 16 ++ (List.range 8).flatMap (fun i => s.rdBytes (Reg.secMeas i) 16)
    ++ leBytes 8 (s.rd64 Reg.fwVersionLo).toNat ++ leBytes 2 (s.rd Reg.scSwitchNumber).toNat ++ List.replicate 6 0

/-- SEC_ATTEST (R490): the report over the nonce, signed with the identity key. -/
def execSecAttest (h : HostPort) (q : RingId) (data : Bytes) (s : State) : Host.Outcome State Fault Refusal :=
  .next (s.withDesc h q (isSec 0x02) (fun s d =>
    if dField d 20 4 != 32 then s.done h d St.rsvdSet 0
    else
      let (w, s) := s.draw
      let r := s.report (s.setOwner h) data
      s.secOut h d (dstPlain d) (r ++ byteRun (Config.falconSign Config.otpSeed r w) 0 1280)))

/-- SEC_EXTEND (R488, R499): MEAS5 to MEAS7 with an event of 1 to 4,096 bytes. -/
def execSecExtend (h : HostPort) (q : RingId) (data : Bytes) (s : State) : Host.Outcome State Fault Refusal :=
  .next (s.withDesc h q (isSec 0x03) (fun s d =>
    let m := dField d 17 1
    let n := dField d 20 4
    if m < 5 || 7 < m || n = 0 || 4096 < n then s.done h d St.rsvdSet 0
    else (s.extendMeas m (byteRun data 0 n)).secOut h d (dstPlain d) []))

/-! Fabric-manager sessions (R500, R501). -/

/-- Refuse a session: DENIED, FM_AUTH, and UNTRUSTED where only the trust table refused the chain. -/
def State.fmRefuse (s : State) (h : HostPort) (d : Desc) (untrusted : Bool) : State :=
  let port := s.setOwner h
  let s := (s.bump Reg.secAuthFail).raiseSec 3 (secSource port) 0
  let s := if untrusted then s.raiseSec 1 (secSource port) 0 else s
  s.done h d St.denied 0

/-- FM_OPEN with an input: the fabric manager's chain and encapsulation key follow 32 random bytes. -/
def State.fmOpen (s : State) (h : HostPort) (d : Desc) (data : Bytes) : State :=
  let port := s.setOwner h
  let input := byteRun data 0 (dField d 20 4)
  let s := s.setFm port FmSession.reset
  let chain := (input.drop 32).take (input.length - 1600)
  match (if s.entropyOk && decide (1600 ≤ input.length) then s.checkChain chain 5 else .bad) with
  | .bad => s.fmRefuse h d false
  | .untrusted => s.fmRefuse h d true
  | .ok leaf =>
    let (r, s) := s.randomBytes 32
    let (v, s) := s.draw
    let (w, s) := s.draw
    let (ct, ss) := Config.kemEncaps (input.drop (input.length - 1568)) v
    let ct := byteRun ct 0 1568
    let g1 := Config.shake256 input 64
    let out := byteRun r 0 32 ++ byteRun Config.deviceCert 0 3200 ++ byteRun Config.caCert 0 3200 ++ ct
    let g2 := Config.shake256 (g1 ++ out ++ ct) 64
    let k := byteRun (Config.shake256 (ascii "CF480-FM" ++ ss ++ g2) 72) 0 72
    let s := s.setFm port { FmSession.reset with opened := true, g1 := g1, g2 := g2, k := k, leaf := leaf }
    s.secOut h d (dstPlain d) (out ++ byteRun (Config.falconSign Config.otpSeed g2 w) 0 1280)

/-- FM_OPEN (R500). An output that does not fit is refused before anything else (R499). -/
def execFmOpen (h : HostPort) (q : RingId) (data : Bytes) (s : State) : Host.Outcome State Fault Refusal :=
  .next (s.withDesc h q (isSec 0x10) (fun s d =>
    if dstPlain d < 9280 then s.done h d St.denied 0 else s.fmOpen h d data))

/-- FM_FINISH with a signature over G2 and the fabric manager's FINISHED value (R500). -/
def State.fmFinish (s : State) (h : HostPort) (d : Desc) (data : Bytes) : State :=
  let port := s.setOwner h
  let f := (s.host port).fm
  let fin := byteRun (Config.shake256 (ascii "FIN-I" ++ f.k) 32) 0 32
  let good := f.opened && dField d 20 4 == 1312 && Config.falconVerify (certKey f.leaf) f.g2 (byteRun data 0 1280)
    && byteRun data 1280 32 == fin
  if good then
    let s := s.setFm port { f with opened := false, role := true, reqCount := 0, respCount := 0 }
    s.secOut h d (dstPlain d) (byteRun (Config.shake256 (ascii "FIN-R" ++ f.k) 32) 0 32)
  else (s.setFm port { f with opened := false }).fmRefuse h d false

/-- FM_FINISH (R500). -/
def execFmFinish (h : HostPort) (q : RingId) (data : Bytes) (s : State) : Host.Outcome State Fault Refusal :=
  .next (s.withDesc h q (isSec 0x11) (fun s d =>
    if dstPlain d < 32 then s.done h d St.denied 0 else s.fmFinish h d data))

/-- A tagged request (R501): the role, then TAG and REQ_COUNT; an accepted one sets the count. -/
def State.tagged (s : State) (h : HostPort) (d : Desc) (run : State → State) : State :=
  let port := s.setOwner h
  let f := (s.host port).fm
  let n := dField d 40 8
  if !f.role then (s.raiseSec 5 (secSource port) 0).done h d St.denied 0
  else
    let tag := Config.gmac128 (BitVec.ofNat 256 (field f.k 0 32)) (byteRun f.k 32 4 ++ leBytes 8 n) (byteRun d.bytes 0 48)
    if tag != BitVec.ofNat 128 (dField d 48 16) || n ≤ f.reqCount then (s.raiseSec 4 (secSource port) 0).done h d St.denied 0
    else run (s.setFm port { f with reqCount := n })

/-- FM_CLOSE (R501): the role ends. -/
def execFmClose (h : HostPort) (q : RingId) (s : State) : Host.Outcome State Fault Refusal :=
  .next (s.withDesc h q (isSec 0x12) (fun s d =>
    s.tagged h d (fun s => (s.setFm (s.setOwner h) FmSession.reset).secOut h d (dstTagged d) [])))

/-- The TELEMETRY block at full resolution (R502, R504): offset and value of every register, power and energy without rounding, and
the job views with their counts as they stand. -/
def State.telemetry (s : State) : List (Nat × Nat) :=
  (rowsTelemetry.flatMap (fun r => r.offsets)).map (fun o =>
    (o, if o == Reg.telPin then s.mod.pin else if o == Reg.telPaux then s.mod.paux
      else if o == Reg.telEnergyLo then s.mod.energy / 10 ^ 9 % 2 ^ 32 else if o == Reg.telEnergyHi then s.mod.energy / 10 ^ 9 / 2 ^ 32
      else (s.readReg o).toNat))
    ++ s.mort.jobLive.map (fun p => (jobViewBase + 4 * p.1, p.2))

/-- A response of FM_READ (R502): header, the data under the key toward the fabric manager, tag. -/
def State.fmRespond (s : State) (h : HostPort) (d : Desc) (data : Bytes) : State :=
  let port := s.setOwner h
  let f := (s.host port).fm
  if dstTagged d < data.length + 32 then s.done h d St.denied 0
  else
    let n := f.respCount + 1
    let (c, tag) := Config.gcmSeal128 (BitVec.ofNat 256 (field f.k 36 32)) (byteRun f.k 68 4 ++ leBytes 8 n) data
    let s := s.setFm port { f with respCount := n }
    s.secOut h d (dstTagged d) (leBytes 8 n ++ leBytes 4 data.length ++ List.replicate 4 0 ++ byteRun c 0 data.length ++ leBytes 16 tag.toNat)

/-- The data of an FM_READ by its SOURCE. Records of the sample ring that fit leave the ring. -/
def State.fmSource (s : State) (h : HostPort) (d : Desc) : State :=
  match dField d 17 1 with
  | 0 => s.fmRespond h d (Config.telemetryImage s.telemetry)
  | 1 =>
    let n := (dstTagged d - 32) / 160
    let s := if 32 ≤ dstTagged d then s.fmRespond h d (s.sw.samples.take n).flatten else s.done h d St.denied 0
    if 32 ≤ dstTagged d then s.withSw { s.sw with samples := s.sw.samples.drop n } else s
  | _ => s.fmRespond h d (Config.traceImage ([0, 1, 2, 3].map (fun b => (s.test.trace.get Trace.reset b).entries)))

/-- FM_READ (R502). -/
def execFmRead (h : HostPort) (q : RingId) (s : State) : Host.Outcome State Fault Refusal :=
  .next (s.withDesc h q (isSec 0x13) (fun s d =>
    if 2 < dField d 17 1 then s.done h d St.rsvdSet 0 else s.tagged h d (fun s => s.fmSource h d)))

/-! The lock, the counters, the entropy source. -/

/-- SEC_LOCK (R489). -/
def execSecLock (h : HostPort) (v : Word) (s : State) : Host.Outcome State Fault Refusal :=
  .next (s.hostWrite h Reg.secLock (fun s => s.lock v))

/-- SEC_CLR_COUNTERS (R505). -/
def execSecClrCounters (h : HostPort) (s : State) : Host.Outcome State Fault Refusal :=
  .next (s.hostWrite h Reg.secCtrl State.clearSec)

/-- The exchanges that run stop (R494): those of links in SECURE, and of fabric-manager sessions that have not finished. -/
def State.stopExchanges (s : State) : State :=
  let stop := fun (x : HostSide) => { x with fm := { x.fm with opened := false } }
  let s := (s.withHost .a (stop s.hostA)).withHost .b (stop s.hostB)
  (s.links.filterMap (fun p => if h : p.1 < 384 then some (⟨p.1, h⟩ : LinkId) else none)).foldl (fun s l =>
    if (s.link l).train == .secure then s.modKex l (fun x => { x with stopped := true, sent := [] }) else s) s

/-- ENTROPY_FAIL (R494): a health test of the entropy source fails. -/
def execEntropyFail (s : State) : Host.Outcome State Fault Refusal :=
  if !s.entropyOk then .next s
  else .next (((s.wr Reg.secStatus (clrBit (s.rd Reg.secStatus) 1)).stopExchanges).raiseSec 2 0 0)

end Sys2Proof.Machine
end

