-- ==== Sys2Proof/Machine/Dispatch.lean ====
section
/-!
DEFINITION. The meaning of each command, one arm per constructor of `Instr`, in the order of `Instr`'s constructors.
-/
namespace Sys2Proof.Machine

/-- The effect of a command on everything but the queue. -/
def exec (i : Instr) (s : State) : Host.Outcome State Fault Refusal :=
  match i with
  | .regWrite h off v => Sys2Proof.Machine.execRegWrite h off v s
  | .bar0UnsupportedAccess h off size write => Sys2Proof.Machine.execBar0UnsupportedAccess h off size write s
  | .readLoLatch h off => Sys2Proof.Machine.execReadLoLatch h off s
  | .readHi h off => Sys2Proof.Machine.execReadHi h off s
  | .writeLoHold h off v => Sys2Proof.Machine.execWriteLoHold h off v s
  | .writeHiApply h off v => Sys2Proof.Machine.execWriteHiApply h off v s
  | .errW1cClear h off v => Sys2Proof.Machine.execErrW1cClear h off v s
  | .bellFrameReceive content => Sys2Proof.Machine.execBellFrameReceive content s
  | .timestampSend p => Sys2Proof.Machine.execTimestampSend p s
  | .timestampReceive p rxSub parent => Sys2Proof.Machine.execTimestampReceive p rxSub parent s
  | .ttLoad h q data => Sys2Proof.Machine.execTtLoad h q data s
  | .ttArm h q => Sys2Proof.Machine.execTtArm h q s
  | .ttCancel h q => Sys2Proof.Machine.execTtCancel h q s
  | .strandedDiscard inp o c => Sys2Proof.Machine.execStrandedDiscard inp o c s
  | .bankArm h q => Sys2Proof.Machine.execBankArm h q s
  | .bankSwitchOver t => Sys2Proof.Machine.execBankSwitchOver t s
  | .gateEntryFire p => Sys2Proof.Machine.execGateEntryFire p s
  | .recessStart kind num => Sys2Proof.Machine.execRecessStart kind num s
  | .ttLaunchFire b => Sys2Proof.Machine.execTtLaunchFire b s
  | .ttStartFire u => Sys2Proof.Machine.execTtStartFire u s
  | .portCfgWrite h p v => Sys2Proof.Machine.execPortCfgWrite h p v s
  | .portRetrain h p => Sys2Proof.Machine.execPortRetrain h p s
  | .portDisable h p => Sys2Proof.Machine.execPortDisable h p s
  | .portRekey h p => Sys2Proof.Machine.execPortRekey h p s
  | .portClrCounters h p => Sys2Proof.Machine.execPortClrCounters h p s
  | .signalDetect l lanes => Sys2Proof.Machine.execSignalDetect l lanes s
  | .eqLowDone l lanes => Sys2Proof.Machine.execEqLowDone l lanes s
  | .laneMapDone l reversed inverted => Sys2Proof.Machine.execLaneMapDone l reversed inverted s
  | .versionDecide l peer => Sys2Proof.Machine.execVersionDecide l peer s
  | .eqFullDone l preset => Sys2Proof.Machine.execEqFullDone l preset s
  | .configDone l credits => Sys2Proof.Machine.execConfigDone l credits s
  | .trainTimeout l => Sys2Proof.Machine.execTrainTimeout l s
  | .flitReceive l f corrected uncorrectable => Sys2Proof.Machine.execFlitReceive l f corrected uncorrectable s
  | .replayReqReceive l => Sys2Proof.Machine.execReplayReqReceive l s
  | .replayWaitRetry l => Sys2Proof.Machine.execReplayWaitRetry l s
  | .peerDead l => Sys2Proof.Machine.execPeerDead l s
  | .recoveryDone l => Sys2Proof.Machine.execRecoveryDone l s
  | .linkCtlRekeyAnnounce l => Sys2Proof.Machine.execLinkCtlRekeyAnnounce l s
  | .egressFlitPosition l sub => Sys2Proof.Machine.execEgressFlitPosition l sub s
  | .laneMarginStart h p lane => Sys2Proof.Machine.execLaneMarginStart h p lane s
  | .laneMarginDone p lane eye => Sys2Proof.Machine.execLaneMarginDone p lane eye s
  | .secureHello l => Sys2Proof.Machine.execSecureHello l s
  | .secureKemEk l => Sys2Proof.Machine.execSecureKemEk l s
  | .secureKemCt l => Sys2Proof.Machine.execSecureKemCt l s
  | .secureFinished l => Sys2Proof.Machine.execSecureFinished l s
  | .secureAbort l => Sys2Proof.Machine.execSecureAbort l s
  | .secureResend l => Sys2Proof.Machine.execSecureResend l s
  | .rekeyEk l => Sys2Proof.Machine.execRekeyEk l s
  | .rekeyCt l => Sys2Proof.Machine.execRekeyCt l s
  | .ingressFirstFlit l c => Sys2Proof.Machine.execIngressFirstFlit l c s
  | .safFrameComplete l c => Sys2Proof.Machine.execSafFrameComplete l c s
  | .mortiseCheck k => Sys2Proof.Machine.execMortiseCheck k s
  | .stackLineRead k line flips => Sys2Proof.Machine.execStackLineRead k line flips s
  | .msgAcked p => Sys2Proof.Machine.execMsgAcked p s
  | .cplReceive k => Sys2Proof.Machine.execCplReceive k s
  | .tagTimeout unit tag => Sys2Proof.Machine.execTagTimeout unit tag s
  | .drainBoundExpiry d => Sys2Proof.Machine.execDrainBoundExpiry d s
  | .drawerShred d => Sys2Proof.Machine.execDrawerShred d s
  | .mapResetDone d => Sys2Proof.Machine.execMapResetDone d s
  | .gwCombineWrite p => Sys2Proof.Machine.execGwCombineWrite p s
  | .gwFlushTimeout p buf => Sys2Proof.Machine.execGwFlushTimeout p buf s
  | .gwFlushComplete p => Sys2Proof.Machine.execGwFlushComplete p s
  | .gwOrderFrame p => Sys2Proof.Machine.execGwOrderFrame p s
  | .gwOrderForward p => Sys2Proof.Machine.execGwOrderForward p s
  | .gwReadAhead p => Sys2Proof.Machine.execGwReadAhead p s
  | .gwReadaheadFill p => Sys2Proof.Machine.execGwReadaheadFill p s
  | .egressPortDown p => Sys2Proof.Machine.execEgressPortDown p s
  | .failback p inp => Sys2Proof.Machine.execFailback p inp s
  | .ageDiscard inp o c => Sys2Proof.Machine.execAgeDiscard inp o c s
  | .shapeBurstWrite h profile v => Sys2Proof.Machine.execShapeBurstWrite h profile v s
  | .shapeSelWrite h p c v => Sys2Proof.Machine.execShapeSelWrite h p c v s
  | .polSelWrite h p slot v => Sys2Proof.Machine.execPolSelWrite h p slot v s
  | .polProfileWrite h profile burst v => Sys2Proof.Machine.execPolProfileWrite h profile burst v s
  | .mirCfgWrite h session n v => Sys2Proof.Machine.execMirCfgWrite h session n v s
  | .swRouteWrite h sw v => Sys2Proof.Machine.execSwRouteWrite h sw v s
  | .swClrCounters h => Sys2Proof.Machine.execSwClrCounters h s
  | .poolInit h => Sys2Proof.Machine.execPoolInit h s
  | .poolClrCounters h => Sys2Proof.Machine.execPoolClrCounters h s
  | .migrationCommit e => Sys2Proof.Machine.execMigrationCommit e s
  | .ageDemote frame => Sys2Proof.Machine.execAgeDemote frame s
  | .poolMigrate h q => Sys2Proof.Machine.execPoolMigrate h q s
  | .stackRefresh k => Sys2Proof.Machine.execStackRefresh k s
  | .stackTempHigh k => Sys2Proof.Machine.execStackTempHigh k s
  | .scrubStack k => Sys2Proof.Machine.execScrubStack k s
  | .scrubLate k => Sys2Proof.Machine.execScrubLate k s
  | .scrubNow h k => Sys2Proof.Machine.execScrubNow h k s
  | .stkClrCounters h k => Sys2Proof.Machine.execStkClrCounters h k s
  | .trayIdentify p => Sys2Proof.Machine.execTrayIdentify p s
  | .trayIdentifyDone t descriptor bad erases => Sys2Proof.Machine.execTrayIdentifyDone t descriptor bad erases s
  | .trayIdentifyTimeout t => Sys2Proof.Machine.execTrayIdentifyTimeout t s
  | .trayLost t => Sys2Proof.Machine.execTrayLost t s
  | .trayCompletion t msg => Sys2Proof.Machine.execTrayCompletion t msg s
  | .trayCmdTimeout t cmdId => Sys2Proof.Machine.execTrayCmdTimeout t cmdId s
  | .plankDiscard h q => Sys2Proof.Machine.execPlankDiscard h q s
  | .gcFlash t => Sys2Proof.Machine.execGcFlash t s
  | .wearLevel t => Sys2Proof.Machine.execWearLevel t s
  | .trayClrCounters h => Sys2Proof.Machine.execTrayClrCounters h s
  | .ordClrCounters h => Sys2Proof.Machine.execOrdClrCounters h s
  | .dirSnoopDeliver f => Sys2Proof.Machine.execDirSnoopDeliver f s
  | .dirSnoopTimeout tracker => Sys2Proof.Machine.execDirSnoopTimeout tracker s
  | .dirFillData tracker => Sys2Proof.Machine.execDirFillData tracker s
  | .dirRebuild p => Sys2Proof.Machine.execDirRebuild p s
  | .dirPurge d => Sys2Proof.Machine.execDirPurge d s
  | .poisonClear h q => Sys2Proof.Machine.execPoisonClear h q s
  | .dirProbe h => Sys2Proof.Machine.execDirProbe h s
  | .dirClrCounters h => Sys2Proof.Machine.execDirClrCounters h s
  | .benchLaunchStart b => Sys2Proof.Machine.execBenchLaunchStart b s
  | .benchQueueTimeout b => Sys2Proof.Machine.execBenchQueueTimeout b s
  | .benchAcquirePoll b => Sys2Proof.Machine.execBenchAcquirePoll b s
  | .benchGatherWaitEnd b => Sys2Proof.Machine.execBenchGatherWaitEnd b s
  | .benchOperandsFetched b => Sys2Proof.Machine.execBenchOperandsFetched b s
  | .benchComputeDone b => Sys2Proof.Machine.execBenchComputeDone b s
  | .benchOutputsDone b => Sys2Proof.Machine.execBenchOutputsDone b s
  | .benchReleaseDone b => Sys2Proof.Machine.execBenchReleaseDone b s
  | .benchClearStore h b => Sys2Proof.Machine.execBenchClearStore h b s
  | .benchClrCounters h b => Sys2Proof.Machine.execBenchClrCounters h b s
  | .offerDeadline slot => Sys2Proof.Machine.execOfferDeadline slot s
  | .rollAgentDead p => Sys2Proof.Machine.execRollAgentDead p s
  | .hbLost sw => Sys2Proof.Machine.execHbLost sw s
  | .watchRetry sw port => Sys2Proof.Machine.execWatchRetry sw port s
  | .claimDiscardsDone slot => Sys2Proof.Machine.execClaimDiscardsDone slot s
  | .rollStationBind station => Sys2Proof.Machine.execRollStationBind station s
  | .rollProbe h => Sys2Proof.Machine.execRollProbe h s
  | .rollClrCounters h => Sys2Proof.Machine.execRollClrCounters h s
  | .nuAcquirePoll u => Sys2Proof.Machine.execNuAcquirePoll u s
  | .reduceFlagPoll u => Sys2Proof.Machine.execReduceFlagPoll u s
  | .reduceLocalReadDone u => Sys2Proof.Machine.execReduceLocalReadDone u s
  | .reduceMergeStart u => Sys2Proof.Machine.execReduceMergeStart u s
  | .reduceMergeDone u => Sys2Proof.Machine.execReduceMergeDone u s
  | .reduceDeadline u => Sys2Proof.Machine.execReduceDeadline u s
  | .gatherFetchDone u => Sys2Proof.Machine.execGatherFetchDone u s
  | .gatherWalkDone u => Sys2Proof.Machine.execGatherWalkDone u s
  | .filterSelectDone u => Sys2Proof.Machine.execFilterSelectDone u s
  | .netClrCounters h => Sys2Proof.Machine.execNetClrCounters h s
  | .veneerCompress e => Sys2Proof.Machine.execVeneerCompress e s
  | .veneerExpand e => Sys2Proof.Machine.execVeneerExpand e s
  | .basisLoad h q data => Sys2Proof.Machine.execBasisLoad h q data s
  | .basisSave h q => Sys2Proof.Machine.execBasisSave h q s
  | .basisSelect h q => Sys2Proof.Machine.execBasisSelect h q s
  | .basisFree h q => Sys2Proof.Machine.execBasisFree h q s
  | .venClrCounters h => Sys2Proof.Machine.execVenClrCounters h s
  | .sqDoorbell h r v => Sys2Proof.Machine.execSqDoorbell h r v s
  | .cqDoorbell h r v => Sys2Proof.Machine.execCqDoorbell h r v s
  | .evtDoorbell h v => Sys2Proof.Machine.execEvtDoorbell h v s
  | .ringCfgWrite h off v => Sys2Proof.Machine.execRingCfgWrite h off v s
  | .descriptorFetch h q data => Sys2Proof.Machine.execDescriptorFetch h q data s
  | .intTimeout h ring => Sys2Proof.Machine.execIntTimeout h ring s
  | .hrdyReadbackDone h ring => Sys2Proof.Machine.execHrdyReadbackDone h ring s
  | .nop h q => Sys2Proof.Machine.execNop h q s
  | .takeover h q => Sys2Proof.Machine.execTakeover h q s
  | .takeoverGive h q => Sys2Proof.Machine.execTakeoverGive h q s
  | .takeoverWaitTimeout h => Sys2Proof.Machine.execTakeoverWaitTimeout h s
  | .mortLoad h q data => Sys2Proof.Machine.execMortLoad h q data s
  | .drawerLoad h q data => Sys2Proof.Machine.execDrawerLoad h q data s
  | .objLoad h q data => Sys2Proof.Machine.execObjLoad h q data s
  | .rollLoad h q data => Sys2Proof.Machine.execRollLoad h q data s
  | .ringLaunch h q => Sys2Proof.Machine.execRingLaunch h q s
  | .fabric h q data => Sys2Proof.Machine.execFabric h q data s
  | .maintReq h q => Sys2Proof.Machine.execMaintReq h q s
  | .secGetChain h q => Sys2Proof.Machine.execSecGetChain h q s
  | .secAttest h q data => Sys2Proof.Machine.execSecAttest h q data s
  | .secExtend h q data => Sys2Proof.Machine.execSecExtend h q data s
  | .fmOpen h q data => Sys2Proof.Machine.execFmOpen h q data s
  | .fmFinish h q data => Sys2Proof.Machine.execFmFinish h q data s
  | .fmClose h q => Sys2Proof.Machine.execFmClose h q s
  | .fmRead h q => Sys2Proof.Machine.execFmRead h q s
  | .bar4Read h addr len tag => Sys2Proof.Machine.execBar4Read h addr len tag s
  | .bar4Write h addr data be => Sys2Proof.Machine.execBar4Write h addr data be s
  | .bar4Atomic h addr op data tag => Sys2Proof.Machine.execBar4Atomic h addr op data tag s
  | .bar4Complete h => Sys2Proof.Machine.execBar4Complete h s
  | .hostPortDown h => Sys2Proof.Machine.execHostPortDown h s
  | .ringsQuiesced h => Sys2Proof.Machine.execRingsQuiesced h s
  | .hostClrCounters h => Sys2Proof.Machine.execHostClrCounters h s
  | .secLock h v => Sys2Proof.Machine.execSecLock h v s
  | .secClrCounters h => Sys2Proof.Machine.execSecClrCounters h s
  | .faultFenceSet h mask => Sys2Proof.Machine.execFaultFenceSet h mask s
  | .fenceTakesEffect part => Sys2Proof.Machine.execFenceTakesEffect part s
  | .faultLift h mask => Sys2Proof.Machine.execFaultLift h mask s
  | .fenceLiftEffect part => Sys2Proof.Machine.execFenceLiftEffect part s
  | .faultOfflineWrite h word v => Sys2Proof.Machine.execFaultOfflineWrite h word v s
  | .maintActivityAsk cls kind unit => Sys2Proof.Machine.execMaintActivityAsk cls kind unit s
  | .maintActivityEnd cls kind unit => Sys2Proof.Machine.execMaintActivityEnd cls kind unit s
  | .maintReqTimeout h => Sys2Proof.Machine.execMaintReqTimeout h s
  | .resetCold h v => Sys2Proof.Machine.execResetCold h v s
  | .resetWarm h v => Sys2Proof.Machine.execResetWarm h v s
  | .forceRecovery h v => Sys2Proof.Machine.execForceRecovery h v s
  | .portReset h kind => Sys2Proof.Machine.execPortReset h kind s
  | .romStartDone pass => Sys2Proof.Machine.execRomStartDone pass s
  | .spiReadDone image answered => Sys2Proof.Machine.execSpiReadDone image answered s
  | .bootClaim h => Sys2Proof.Machine.execBootClaim h s
  | .recoverGo h program => Sys2Proof.Machine.execRecoverGo h program s
  | .fwStartDone stacksReady => Sys2Proof.Machine.execFwStartDone stacksReady s
  | .keygenDone entropyPass => Sys2Proof.Machine.execKeygenDone entropyPass s
  | .bootBistDone benchFail ok => Sys2Proof.Machine.execBootBistDone benchFail ok s
  | .proceed h => Sys2Proof.Machine.execProceed h s
  | .shutdownGo h v => Sys2Proof.Machine.execShutdownGo h v s
  | .testLbStart h p depth => Sys2Proof.Machine.execTestLbStart h p depth s
  | .testLbStop h => Sys2Proof.Machine.execTestLbStop h s
  | .testHlbStart h port depth => Sys2Proof.Machine.execTestHlbStart h port depth s
  | .testHlbStop h => Sys2Proof.Machine.execTestHlbStop h s
  | .echoRequest l => Sys2Proof.Machine.execEchoRequest l s
  | .bist kind unit pass detail line => Sys2Proof.Machine.execBist kind unit pass detail line s
  | .linkRecal p => Sys2Proof.Machine.execLinkRecal p s
  | .trcCfgWrite h buf v => Sys2Proof.Machine.execTrcCfgWrite h buf v s
  | .jtagInstructionLoad instr => Sys2Proof.Machine.execJtagInstructionLoad instr s
  | .sensorRead sweep => Sys2Proof.Machine.execSensorRead sweep s
  | .hostCompletionTimeout h q => Sys2Proof.Machine.execHostCompletionTimeout h q s
  | .stackPhyRetrain k => Sys2Proof.Machine.execStackPhyRetrain k s
  | .bellSlotAdvance => Sys2Proof.Machine.execBellSlotAdvance s
  | .jobViewCopy => Sys2Proof.Machine.execJobViewCopy s
  | .bellFrameSend => Sys2Proof.Machine.execBellFrameSend s
  | .missingFrame => Sys2Proof.Machine.execMissingFrame s
  | .ringOpen => Sys2Proof.Machine.execRingOpen s
  | .holdoverExpiry => Sys2Proof.Machine.execHoldoverExpiry s
  | .electionEntry => Sys2Proof.Machine.execElectionEntry s
  | .singleCardSelfMaster => Sys2Proof.Machine.execSingleCardSelfMaster s
  | .bellReadyChange => Sys2Proof.Machine.execBellReadyChange s
  | .refLost => Sys2Proof.Machine.execRefLost s
  | .refAppear => Sys2Proof.Machine.execRefAppear s
  | .ppsEdge => Sys2Proof.Machine.execPpsEdge s
  | .soCommitPoint => Sys2Proof.Machine.execSoCommitPoint s
  | .timetableSwitchOver => Sys2Proof.Machine.execTimetableSwitchOver s
  | .msgDeliver => Sys2Proof.Machine.execMsgDeliver s
  | .fabricLaunch => Sys2Proof.Machine.execFabricLaunch s
  | .poolInitDone => Sys2Proof.Machine.execPoolInitDone s
  | .promoteTimeout => Sys2Proof.Machine.execPromoteTimeout s
  | .pressureSweep => Sys2Proof.Machine.execPressureSweep s
  | .reportCardRebuild => Sys2Proof.Machine.execReportCardRebuild s
  | .orderFlushRange => Sys2Proof.Machine.execOrderFlushRange s
  | .orderRelease => Sys2Proof.Machine.execOrderRelease s
  | .orderReleaseRange => Sys2Proof.Machine.execOrderReleaseRange s
  | .orderFence => Sys2Proof.Machine.execOrderFence s
  | .guardSetEmpty => Sys2Proof.Machine.execGuardSetEmpty s
  | .guardTimeout => Sys2Proof.Machine.execGuardTimeout s
  | .dirGetS => Sys2Proof.Machine.execDirGetS s
  | .dirGetM => Sys2Proof.Machine.execDirGetM s
  | .dirUpgrade => Sys2Proof.Machine.execDirUpgrade s
  | .dirPutE => Sys2Proof.Machine.execDirPutE s
  | .dirPutM => Sys2Proof.Machine.execDirPutM s
  | .dirInvAck => Sys2Proof.Machine.execDirInvAck s
  | .dirRecallAck => Sys2Proof.Machine.execDirRecallAck s
  | .dirRecallData => Sys2Proof.Machine.execDirRecallData s
  | .dirAgeFreeze => Sys2Proof.Machine.execDirAgeFreeze s
  | .rollRead => Sys2Proof.Machine.execRollRead s
  | .rollCommit => Sys2Proof.Machine.execRollCommit s
  | .rollOffer => Sys2Proof.Machine.execRollOffer s
  | .rollWithdraw => Sys2Proof.Machine.execRollWithdraw s
  | .rollTake => Sys2Proof.Machine.execRollTake s
  | .rollClaim => Sys2Proof.Machine.execRollClaim s
  | .rollClose => Sys2Proof.Machine.execRollClose s
  | .rollAttend => Sys2Proof.Machine.execRollAttend s
  | .rollWatch => Sys2Proof.Machine.execRollWatch s
  | .rollHeartbeat => Sys2Proof.Machine.execRollHeartbeat s
  | .rollAgentDown => Sys2Proof.Machine.execRollAgentDown s
  | .rollForward => Sys2Proof.Machine.execRollForward s
  | .rollTrim => Sys2Proof.Machine.execRollTrim s
  | .heartbeatSend => Sys2Proof.Machine.execHeartbeatSend s
  | .contrib => Sys2Proof.Machine.execContrib s
  | .deliver => Sys2Proof.Machine.execDeliver s
  | .pfxLookup => Sys2Proof.Machine.execPfxLookup s
  | .pfxInsert => Sys2Proof.Machine.execPfxInsert s
  | .entropyFail => Sys2Proof.Machine.execEntropyFail s
  | .auxGood => Sys2Proof.Machine.execAuxGood s
  | .mainEnable => Sys2Proof.Machine.execMainEnable s
  | .mainResetRelease => Sys2Proof.Machine.execMainResetRelease s
  | .mainLoss => Sys2Proof.Machine.execMainLoss s
  | .auxLoss => Sys2Proof.Machine.execAuxLoss s
  | .verifyDone => Sys2Proof.Machine.execVerifyDone s
  | .recoveryVerifyDone => Sys2Proof.Machine.execRecoveryVerifyDone s
  | .bootStateTimeout => Sys2Proof.Machine.execBootStateTimeout s
  | .linkTrainingDone => Sys2Proof.Machine.execLinkTrainingDone s
  | .bellWaitDone => Sys2Proof.Machine.execBellWaitDone s
  | .bellSlow => Sys2Proof.Machine.execBellSlow s
  | .shutdownDone => Sys2Proof.Machine.execShutdownDone s
  | .mgmtHeartbeat => Sys2Proof.Machine.execMgmtHeartbeat s
  | .watchdogExpiry => Sys2Proof.Machine.execWatchdogExpiry s
  | .clearTrip => Sys2Proof.Machine.execClearTrip s

end Sys2Proof.Machine
end

