-- ==== Sys2Proof/Safety.lean ====
section
/-!
DEFINITION. What counts as a sound state, in the terms the statements use: the canonical form of pool memory and of the
register file, and what a command leaves alone whatever it does.
-/
namespace Sys2Proof.Machine

/-- Pool memory is in its canonical form: addresses rise strictly, and no listed byte is 0, which an unlisted byte reads
as (R189: pool initialization writes zeros everywhere; before it, assumption log 5). -/
abbrev Memory.wf (m : Tab Byte) : Bool := m.wf (fun _ => 0)

/-- The stored registers, the latched and held words of register pairs, and pool memory are in canonical form, so that
equal contents are equal data. -/
structure State.canonical (s : State) : Prop where
  regs : s.regs.wf regReset = true
  latch : s.latch.wf (fun _ => none) = true
  hold : s.hold.wf (fun _ => none) = true
  mem : Memory.wf s.pool.mem = true

/-- What every command keeps on its way from `a` to `b`: the storage stays canonical, what has left the device stays as
it is under what leaves now, free values are drawn only forward, and the queue's rest is left alone. -/
structure Keeps (a b : State) : Prop where
  canonical : a.canonical → b.canonical
  out : a.out <:+ b.out
  free : a.free ≤ b.free
  pending : b.pending = a.pending

/-- Registers that reporting an error to the hosts may change whatever the error is (R465, R475, R512, R551): the HOST_ERR
records, EVT_TAIL and EVT_DROP of both hosts, and TRC_TRIG_TIME of the four trace buffers. -/
def reportReg (off : Nat) : Bool :=
  [0, 1].any (fun h => (decide (Reg.hostErr h ≤ off) && decide (off < Reg.hostErr h + 0x20)) || off == Reg.evtTail h
    || off == Reg.evtDrop h)
  || [0, 1, 2, 3].any (fun k => off == Reg.trcTrigTimeLo k || off == Reg.trcTrigTimeHi k)

/-- The registers of an error record (R23, R512). -/
def recordRegs (e : Nat) : List Nat := [e, e + 4, e + 8, e + 12]

/-- On the way from `a` to `b` nothing changes but registers of a list and what a report to the hosts touches: the report
registers, trace buffers, the hosts' rings, and what leaves the device. -/
structure ChangesOnly (regs : List Nat) (a b : State) : Prop where
  rest : b = { a with regs := b.regs, test := b.test, hostA := b.hostA, hostB := b.hostB, out := b.out }
  reg : ∀ off, off ∉ regs → reportReg off = false → b.rd off = a.rd off

/-- Nothing changes but registers of a list. -/
def RegsOnly (regs : List Nat) (a b : State) : Prop :=
  b = a.withRegs b.regs ∧ ∀ off, off ∉ regs → b.rd off = a.rd off

/-- Descriptor `d` of host `h` completes on the way from `a` to `b` (R463, R474): it is no longer in flight, and an entry with
its type, status, SQ, cookie and result is written to host memory or held for its completion ring. -/
structure Completes (h : HostPort) (d : Desc) (status result : Nat) (a b : State) : Prop where
  flight : ∀ e ∈ (b.host h).flight, e.id ≠ d.id
  entry : ∃ e : Bytes, field e 1 1 = dType d ∧ field e 2 1 = status % 256 ∧ field e 4 2 = d.sq.val
    ∧ field e 8 8 = dField d 8 8 ∧ field e 16 8 = result % 2 ^ 64
    ∧ ((∃ addr, Out.hostWrite (a.setOwner h) addr e ∈ b.out) ∨ (⟨d.cq, e, false⟩ : Held) ∈ (b.host h).held)

/-- The registers that completing descriptor `d` of host `h` changes. -/
def doneRegs (h : HostPort) (d : Desc) : List Nat := [Reg.hostDescDone (hostNum h), ringTail h d.cq.val]

/-- A descriptor as it stands in flight once it has started (R463). -/
def startedDesc (s : State) (d : Desc) : Desc := { d with started := true, startedAt := s.bell.bounds }

/-- The next descriptor of SQ `q` is `d`, of type `t`, and may start (R462, R463). -/
abbrev Starts (s : State) (h : HostPort) (q : RingId) (t : Nat) (d : Desc) : Prop :=
  s.descServed = true ∧ s.startable h q (isType t) = some d

/-- An access of host `h` reaches register `off`: the port answers and BAR0 serves the offset (R525, R530). -/
abbrev Reaches (s : State) (h : HostPort) (off : Nat) : Prop := s.answers h = true ∧ s.serves off = true

/-- Only link `l` changes, and becomes `k`. -/
def Relinked (a b : State) (l : LinkId) (k : Link) : Prop :=
  b.link l = k ∧ (∀ l', l' ≠ l → b.link l' = a.link l') ∧ b = a.withLinks b.links

/-- Registers that the end of a session of port `p` may write beside the reports: the error records of the port, the switch
core and the bell, and the count of partial frames (R87, R127, R170). -/
def sessionRegs (p : Port) : List Nat :=
  recordRegs (Reg.portErr p.val) ++ recordRegs Reg.swErr ++ [Reg.swErrCapture, Reg.swPartialDrop] ++ recordRegs Reg.bellErr

/-- The frame of what a link does: of the state nothing changes but the links of a list, the switch core's queues and ports'
dead agents, gateway buffers and MORT agents, what the bell knows of its time links and its lock, free draws, the
progress of running activities, registers of a list, and reports. Bell time, tables and pool memory stay. -/
structure LinkEffect (ls : List LinkId) (regs : List Nat) (a b : State) : Prop where
  rest : b = { a with links := b.links, sw := b.sw, mort := { a.mort with gw := b.mort.gw, agents := b.mort.agents },
                      bell := b.bell, regs := b.regs, test := b.test, hostA := b.hostA, hostB := b.hostB, out := b.out,
                      free := b.free, fault := { a.fault with running := b.fault.running } }
  time : b.bell.now = a.bell.now ∧ b.bell.len = a.bell.len
  link : ∀ l, l ∉ ls → b.link l = a.link l
  reg : ∀ off, off ∉ regs → reportReg off = false → b.rd off = a.rd off

/-- The tables of the mortise check and the drawer table are the same: both banks of each and which is active. -/
structure TablesSame (a b : State) : Prop where
  jobs : b.mort.job0 = a.mort.job0 ∧ b.mort.job1 = a.mort.job1
  addresses : b.mort.jat0 = a.mort.jat0 ∧ b.mort.jat1 = a.mort.jat1
  admission : b.mort.adm0 = a.mort.adm0 ∧ b.mort.adm1 = a.mort.adm1
  drawers : b.mort.drw0 = a.mort.drw0 ∧ b.mort.drw1 = a.mort.drw1
  banks : b.mort.mortBank = a.mort.mortBank ∧ b.mort.drawerBank = a.mort.drawerBank

/-- Registers that the switch core, the mortise check and the gateways write of themselves: their error records, captures and
counters, and the mirror counts (R156, R183). -/
def fabricRegs : List Nat :=
  recordRegs Reg.swErr ++ recordRegs Reg.mortErr ++ [Reg.swErrCapture, Reg.mortErrCapture, Reg.mortErrCaptureSw]
  ++ [Reg.swCtDemote, Reg.swLenDrop, Reg.swPartialDrop, Reg.swAgeDrop, Reg.swNoroute, Reg.swPoliceDrop, Reg.swFailover,
      Reg.swSampleDrop, Reg.mortDenied, Reg.mortFenced, Reg.mortCheck, Reg.mortLateDrop, Reg.mortSynthFenced,
      Reg.mortAdmitDrop] ++ (List.range 8).map Reg.mirCount

/-- The frame of what moves frames between queues: nothing changes but the switch core, counts and queues of links and the
transaction layer (its tables apart), registers of a list, and reports. No link changes its training state, and all of
pool memory is as it was. -/
structure FabricEffect (regs : List Nat) (a b : State) : Prop where
  rest : b = { a with regs := b.regs, links := b.links, sw := b.sw, mort := b.mort, test := b.test, hostA := b.hostA,
                      hostB := b.hostB, out := b.out, free := b.free }
  tables : TablesSame a b
  train : ∀ l, (b.link l).train = (a.link l).train ∧ (b.link l).cfg = (a.link l).cfg
  reg : ∀ off, off ∉ regs → reportReg off = false → b.rd off = a.rd off

/-- A completion of request `f` in class `c` can be sent: its originator is of this switch, or its switch has a route (R140,
R163). -/
abbrev Answerable (s : State) (f : Frame) (c : Cls) : Prop :=
  f.srcSwitch = s.swNum ∨ (s.routeOut f.srcSwitch c).isSome = true

/-- On the way from `a` to `b` a completion of request `f`, with status `st` and data, enters a queue of the switch core
(R140). -/
def Completed (f : Frame) (st : Status) (data : Bytes) (a b : State) : Prop :=
  ∃ e ∈ b.sw.queue, ∃ c : Frame, a.sw.nextId ≤ e.id ∧ e.hdr = c.hdr ∧ e.bytes = c.toBytes ∧ c.isCpl = true
    ∧ c.dest = f.srcSwitch ∧ c.tag = f.tag ∧ c.seq = f.seq ∧ c.addr = f.addr ∧ c.job = f.job ∧ c.ak = f.ak ∧ c.status = st
    ∧ c.payload = data

/-- A request at a local output that passes the tests before the mortise check (R15, R16, R132, R135, R138). -/
abbrev SoundRequest (e : QEntry) (f : Frame) : Prop :=
  f = Frame.ofBytes e.bytes ∧ f.isCpl = false ∧ e.short = false ∧ f.payload.length = f.len ∧ f.checkOk = true
    ∧ f.fmtGen = 1 ∧ requestRsvd f = false ∧ misaligned f = false

/-- A counter that saturates has counted `n` more (R23). -/
abbrev Counted (off n : Nat) (a b : State) : Prop := (b.rd off).toNat = min ((a.rd off).toNat + n) 0xFFFFFFFF

/-- Registers of a bench that its work writes: its error record, captures and counters (R363). -/
def benchRegs (b : BenchId) : List Nat :=
  let at_ := fun (reg : Nat → Nat → Nat) => reg (b.val / 14) (benchIn b)
  recordRegs (at_ Reg.bnErr) ++ [Reg.bnErrCapture, Reg.bnErrDescLo, Reg.bnErrDescHi, Reg.bnLaunchTt, Reg.bnLaunchQ, Reg.bnSkipped,
    Reg.bnAborts, Reg.bnSat, Reg.bnNan].map at_

/-- Registers that the requests and completions of any unit may write: those of the switch core and the mortise check, and the
tails of completion rings. -/
def unitRegs : List Nat := fabricRegs ++ (List.range 64).flatMap (fun r => [ringTail .a r, ringTail .b r])

/-- The frame of the units' work: nothing changes but benches, network units, the switch core, the transaction layer (its tables
apart), free draws, registers of a list, and reports. Pool memory, links, the roll and bell time stay. -/
structure WorkEffect (regs : List Nat) (a b : State) : Prop where
  rest : b = { a with regs := b.regs, benches := b.benches, net := b.net, sw := b.sw, mort := b.mort, test := b.test,
                      hostA := b.hostA, hostB := b.hostB, out := b.out, free := b.free }
  tables : TablesSame a b
  reg : ∀ off, off ∉ regs → reportReg off = false → b.rd off = a.rd off

/-- Registers that the roll engine writes: its error record, captures and counters, and those of the fabric. -/
def rollRegs : List Nat :=
  recordRegs Reg.rollErr ++ [Reg.rollErrCapture, Reg.rollErrCaptureSw, Reg.rollOps, Reg.rollStale, Reg.rollReturned, Reg.rollClaims,
    Reg.rollBound, Reg.rollEmpty, Reg.rollEventDrop, Reg.rollCacheMiss] ++ fabricRegs

/-- The frame of the roll engine: nothing changes but live halves, tickets, bound areas, watches, messages and claims of the roll
(its tables and their active bank stay), the switch core, the transaction layer (its tables apart), free draws, registers
of the roll and the fabric, and reports. Pool memory stays. -/
structure RollEffect (a b : State) : Prop where
  rest : b = { a with regs := b.regs, sw := b.sw, mort := b.mort, test := b.test, hostA := b.hostA, hostB := b.hostB, out := b.out,
                      free := b.free,
                      roll := { a.roll with live := b.roll.live, tickets := b.roll.tickets, boundAt := b.roll.boundAt,
                                            bound := b.roll.bound, watchers := b.roll.watchers, watched := b.roll.watched,
                                            heardAt := b.roll.heardAt, sentAt := b.roll.sentAt, msgs := b.roll.msgs,
                                            nextMsg := b.roll.nextMsg, claims := b.roll.claims } }
  tables : TablesSame a b
  reg : ∀ off, off ∉ rollRegs → reportReg off = false → b.rd off = a.rd off

/-- Registers that network unit `u` writes: its own counters, and those of the NETWORK block (R429). -/
def netRegs (u : Nat) : List Nat :=
  recordRegs Reg.netErr ++ [Reg.netErrCapture, Reg.netErrCaptureSw, Reg.netPfxLookups, Reg.netPfxHits, Reg.netPfxInserts,
    Reg.netPfxDup, Reg.netPfxEvict, Reg.netPfxStale, Reg.netContribDrop, Reg.nuStarts u, Reg.nuSkipped u, Reg.nuFailed u,
    Reg.nuBytesLo u, Reg.nuBytesHi u] ++ unitRegs

/-- A request of network unit `u` for a piece of work has entered the switch core on the way from `a` to `b`. -/
def NetSent (w : NetWork) (q : NetAsk) (a b : State) : Prop :=
  ∃ e ∈ b.sw.queue, ∃ f : Frame, a.sw.nextId ≤ e.id ∧ e.bytes = f.toBytes ∧ f.addr = BitVec.ofNat 64 q.addr ∧ f.opcode = q.op
    ∧ f.job = odJob w.desc ∧ f.payload = q.payload

/-- A reset of the main domain takes `a` to `b` (R527, R528): the boot begins again in a state, RESET_CAUSE names the cause,
registers outside the module, the cause and, when warm, the identity key read their reset values, and everything the main
domain holds is as after reset. Bell time runs on; so do the module and what has left the device. -/
structure Restarted (warm : Bool) (next : BootSt) (cause : Word) (a b : State) : Prop where
  boot : b.boot.state = next ∧ b.boot.enteredAt = a.bell.ticks ∧ b.boot.pendReset = none ∧ b.boot.root = [] ∧ b.boot.wdogOn = false
    ∧ b.boot.auxGood = a.boot.auxGood ∧ b.boot.pwrGood = a.boot.pwrGood ∧ b.boot.lossSeen = a.boot.lossSeen
    ∧ b.boot.held = a.boot.held
  cause : b.rd Reg.resetCause = cause ∧ b.rd64 Reg.bootStampLo = a.now
  reg : ∀ off, off ∉ [Reg.resetCause, Reg.bootStampLo, Reg.bootStampHi] →
    b.rd off = if keptReg warm off then a.rd off else regReset off
  main : b.links = [] ∧ b.sw = Switch.reset ∧ b.mort = Mortise.reset ∧ b.pool = Pool.reset ∧ b.dir = Directory.reset
    ∧ b.roll = Roll.reset ∧ b.benches = [] ∧ b.net = Net.reset ∧ b.fault = Faults.reset ∧ b.tt = Timetable.reset
    ∧ b.latch = [] ∧ b.hold = []
  hosts : b.hostA = a.hostA.restart warm ∧ b.hostB = a.hostB.restart warm
  bell : b.bell.now = a.bell.now ∧ b.bell.ticks = a.bell.ticks ∧ b.bell.bounds = a.bell.bounds ∧ b.bell.lock = .unlocked
  island : b.mod.alert = a.mod.alert ∧ b.mod.trip = a.mod.trip ∧ b.test.jtag = a.test.jtag
  kept : b.out = a.out ∧ b.free = a.free ∧ b.pending = a.pending

/-- The boot moves on from `a` to `b` (R529): it enters a state now, and stamps the entry; of the state nothing changes but
`regs`, the boot itself and what the statement adds. -/
structure Boots (next : BootSt) (regs : List Nat) (a b : State) : Prop where
  entered : b.boot.state = next ∧ b.boot.enteredAt = a.bell.ticks ∧ b.boot.enteredBound = a.bell.bounds
    ∧ b.rd64 Reg.bootStampLo = a.now
  rest : b = { a with regs := b.regs, boot := b.boot, bell := b.bell, free := b.free, out := b.out }
  reg : ∀ off, off ∉ Reg.bootStampLo :: Reg.bootStampHi :: regs → b.rd off = a.rd off

end Sys2Proof.Machine
end

