-- ==== Sys2Proof/Certificates/Slice0/Obligations.lean ====
section
/-!
DEFINITION. The statements for the provers. Each names, in its docstring, what it says and the rules of the spec it rests on.
-/
open Sys2Proof Sys2Proof.Machine

/-- For every state whose queue begins with a command c: step is exec of c on the state with the queue's rest. With no
command waiting step answers the same state. Both are the model's own (assumption log 1: no rule of the spec speaks of
a queue; the clock's slot is the command BELL_SLOT_ADVANCE, so an empty queue lets no time pass). (R35,
opcode_table.json: the commands, assumption log 1) -/
def Obligations.StepRunsFrontCommand : Prop :=
  (∀ (c : Instr) (rest : List Instr) (s : State), s.pending = c :: rest → step s = exec c (s.withPending rest))
  ∧ ∀ s : State, s.pending = [] → step s = .next s

/-- For every command and every state exec answers a next state: no command faults and none is refused. (R15, R17, R23,
R512) -/
def Obligations.EveryCommandAnswers : Prop :=
  ∀ (c : Instr) (s : State), ∃ t, exec c s = .next t

/-- For every state whose stored registers, latched and held register words and pool memory are in canonical form, if step
answers next t then they are in canonical form in t. Equal contents are then equal data in every state a run reaches.
(06_pool_memory.md, R4, R6, R7, R189, R191, R212) -/
def Obligations.StorageStaysCanonical : Prop :=
  ∀ s t : State, s.canonical → step s = .next t → t.canonical

/-- Pool memory, the register file and the latched and held register words of State.reset are in canonical form. (R189,
06_pool_memory.md) -/
def Obligations.ResetStorageCanonical : Prop :=
  State.reset.canonical

/-- For every state, if step answers next t, then what had left the device (completions, frames, flits, writes to host
memory, interrupts) is still what left it, with only later output before it (the list runs latest first). The record
of output is the model's own. (R5, R6, R38, R457, R463, R465, 14_host_interface.md, 03_thoade_link.md) -/
def Obligations.OutputStays : Prop :=
  ∀ s t : State, step s = .next t → s.out <:+ t.out

/-- For every command and state, if exec answers next t, the queue of t is the queue of s: neither a reset nor the loss of
a supply drops or adds a waiting command. The queue is the model's own. (assumption log 1, 17_startup.md) -/
def Obligations.CommandLeavesQueue : Prop :=
  ∀ (c : Instr) (s t : State), exec c s = .next t → t.pending = s.pending

/-- In State.reset the bell count is (0, 0, 0) at a term length of 65,536 periods, the lock state is UNLOCKED, the
timetable is empty with every gate open, no command waits, pool memory lists nothing, the boot state is AUX_ONLY, and
every register reads its reset value. (R35, R37, R44, R58, R69, R525, R8) -/
def Obligations.ResetValues : Prop :=
  State.reset.bell.now = ⟨0, 0, 0⟩ ∧ State.reset.bell.len = 65536 ∧ State.reset.tt.activeLen = 65536
  ∧ State.reset.bell.lock = .unlocked ∧ State.reset.bell.master = false
  ∧ State.reset.tt.bank0 = [] ∧ State.reset.tt.bank1 = [] ∧ (∀ p, State.reset.gate p = 0xFF)
  ∧ State.reset.boot.state = .auxOnly ∧ State.reset.pool.mem = [] ∧ State.reset.pending = []
  ∧ ∀ off, State.reset.rd off = regReset off

/-- For all points a and b: a is earlier than b exactly when its term is lower, or the terms are equal and its period is
lower, or both are equal and its slot is lower. (R11) -/
def Obligations.BellTimeOrder : Prop :=
  ∀ a b : BellTime, a.earlier b = true ↔
    (a.term < b.term ∨ (a.term = b.term ∧ (a.period < b.period ∨ (a.period = b.period ∧ a.slot < b.slot))))

/-- For every set of field values f: the fields read from the content bytes built for f are f. The content is good to a
receiver (its CRC16 verifies, PERIOD below its own term length, FMT_GEN 1) exactly when f's PERIOD is at most its
LEN_M1 and its FMT_GEN is 1. (R39, R36, R13) -/
def Obligations.BellFrameRoundTrip : Prop :=
  ∀ f : BellFrame, bellFields (bellContent f) = f
    ∧ (bellGood (bellContent f) = true ↔ f.period ≤ f.lenM1 ∧ f.fmtGen = 1)

/-- For every set of header fields with LEN below 65,536, every payload and check: the frame built of the packed header
reads back each field, FMT_GEN is 1 and no reserved bit is set. (R129, R13, R14) -/
def Obligations.HeaderRoundTrip : Prop :=
  ∀ (h : HdrFields) (p : Bytes) (c : Word), h.len < 65536 →
    let f : Frame := ⟨h.pack, p, c⟩
    f.addr = h.addr ∧ f.seq = h.seq ∧ f.aux = h.aux ∧ f.len = h.len ∧ f.dest = h.dest ∧ f.srcSwitch = h.srcSwitch
    ∧ f.srcUnit = h.srcUnit ∧ f.tag = h.tag ∧ f.status = h.status ∧ f.job = h.job ∧ f.scope = h.scope
    ∧ f.flags = h.flags ∧ f.opcode = h.opcode ∧ f.ak = h.ak ∧ f.fmtGen = 1
    ∧ (h.flags &&& 0xE0 = 0 → f.hdr &&& hdrReserved = 0)

/-- For every state with the auxiliary supply good, no reset asked for and no count to be taken: BELL_SLOT_ADVANCE
advances the slot; after slot 255 the period advances; after the last period of the term the period returns to 0 and
the term advances. Pool memory, tables, links and the other blocks named are untouched. (R35, R36,
02_bell_timetable.md) -/
def Obligations.SlotAdvance : Prop :=
  ∀ s : State, s.boot.auxGood = true → s.boot.pendReset = none → s.bell.jump = none →
    ∃ t, exec .bellSlotAdvance s = .next t
    ∧ (s.bell.now.slot ≠ 255 → t.bell.now = ⟨s.bell.now.term, s.bell.now.period, s.bell.now.slot + 1⟩)
    ∧ (s.bell.now.slot = 255 → s.bell.now.period.toNat + 1 < s.bell.len →
        t.bell.now = ⟨s.bell.now.term, s.bell.now.period + 1, 0⟩)
    ∧ (s.bell.now.slot = 255 → s.bell.now.period.toNat + 1 = s.bell.len → t.bell.now = ⟨s.bell.now.term + 1, 0, 0⟩)
    ∧ t.bell.len = s.bell.len ∧ t.bell.ticks = s.bell.ticks + 1
    ∧ t.links = s.links ∧ t.mort = s.mort ∧ t.pool = s.pool ∧ t.dir = s.dir ∧ t.roll = s.roll ∧ t.fault = s.fault
    ∧ t.boot = s.boot ∧ t.mod = s.mod ∧ t.latch = s.latch ∧ t.hold = s.hold

/-- A master or a candidate that has not yet sent this period's frame sends at slot 0 one good frame that carries its own
count, number and priority, with 0 hops. BELL_READY takes the value R45 wants, at the tracked marker or at slot 128.
On an enabled time link a timestamp falls due every 16 periods. Nothing else changes. (R38, R39, R45, R51) -/
def Obligations.BellFramesSent : Prop :=
  (∀ s : State, (s.bell.master || s.bell.election) = true → s.bell.sentThis = false → s.bell.now.slot = 0 →
    ∃ c, exec .bellFrameSend s = .next ((s.withBell { s.bell with sentThis := true }).emit (.bell (some c)))
    ∧ c.extractLsb' 256 16 = bellCrc (c.extractLsb' 0 256)
    ∧ (bellFields c).term = s.bell.now.term ∧ (bellFields c).period = s.bell.now.period
    ∧ (bellFields c).lenM1 = BitVec.ofNat 16 (s.bell.len - 1)
    ∧ (bellFields c).masterSw = s.swNum ∧ (bellFields c).masterPrio = s.prio ∧ (bellFields c).hops = 0
    ∧ (bellFields c).fmtGen = 1)
  ∧ (∀ s : State, s.bell.ready ≠ s.readyWanted → (s.bell.tracked || s.bell.now.slot == 128) = true →
    exec .bellReadyChange s = .next (s.withBell { s.bell with ready := s.readyWanted }))
  ∧ (∀ (p : Port) (s : State), (s.timePort = some p ∨ (s.timeLink p).received = true) → s.timeLinkUp p = true →
    ((s.timeLink p).sent = false ∨ (s.timeLink p).lastSend + 16 ≤ s.bell.bounds) →
    ∃ t, exec (.timestampSend p) s = .next t ∧ t = (s.withBell t.bell).withLinks t.links
    ∧ (t.link p.link).tsDue = true ∧ (t.timeLink p).lastSend = s.bell.bounds
    ∧ (∀ l, l ≠ p.link → t.link l = s.link l) ∧ t.bell.now = s.bell.now)

/-- A frame whose CRC16 or form is bad raises CRC_ERR and ends the run of good frames. A good frame at a member that is
neither master nor candidate counts as good, is kept, and with the fourth in a row in UNLOCKED the member goes to
COARSE and takes the frame's next count at the boundary. The fourth own frame that returns makes a candidate master
and LOCKED. (R36, R40, R41, R44, R48, R87) -/
def Obligations.BellFrameReceived : Prop :=
  (∀ (c : BitVec 272) (s : State), s.boot.auxGood = true → bellGood c = false →
    ∃ t, exec (.bellFrameReceive c) s = .next t ∧ bit (t.rd Reg.bellErr) 0 = true
    ∧ t.bell.goodRun = 0 ∧ t.bell.crcThis = true ∧ t.bell.now = s.bell.now ∧ t.bell.lock = s.bell.lock
    ∧ t.tt = s.tt ∧ t.pool = s.pool)
  ∧ (∀ (c : BitVec 272) (s : State), s.boot.auxGood = true → bellGood c = true → s.bell.master = false →
    s.bell.election = false →
    ∃ t, exec (.bellFrameReceive c) s = .next t ∧ t.bell.goodRun = s.bell.goodRun + 1 ∧ t.bell.goodAt = s.bell.bounds
    ∧ t.bell.health = (bellFields c).health
    ∧ (s.bell.lock = .unlocked → 3 ≤ s.bell.goodRun → t.bell.lock = .coarse
        ∧ t.bell.jump = some ⟨(addPeriods ((bellFields c).lenM1.toNat + 1) (bellFields c).term (bellFields c).period 1).1,
            (addPeriods ((bellFields c).lenM1.toNat + 1) (bellFields c).term (bellFields c).period 1).2,
            (bellFields c).lenM1.toNat + 1⟩)
    ∧ (s.bell.lock = .unlocked → s.bell.goodRun < 3 → t.bell.lock = .unlocked ∧ t.bell.jump = s.bell.jump)
    ∧ t.bell.now = s.bell.now ∧ t.pool = s.pool ∧ t.links = s.links)
  ∧ (∀ (c : BitVec 272) (s : State), s.boot.auxGood = true → bellGood c = true → s.bell.election = true →
    (bellFields c).masterSw = s.swNum → 3 ≤ s.bell.ownRun →
    ∃ t, exec (.bellFrameReceive c) s = .next t ∧ t.bell.master = true ∧ t.bell.election = false ∧ t.bell.lock = .locked
    ∧ RegsOnly [Reg.bellHops] (s.withBell t.bell) t)

/-- Each watch of the bell, when its condition holds: a second missing frame takes a member from COARSE to UNLOCKED or
from LOCKED to HOLDOVER; a master whose frames do not return raises RING_OPEN; HOLDOVER ends after 1,000 periods in
UNLOCKED with its error bit; a candidate without a good frame for 16 periods enters election and raises the bit for
it; a single card that has heard no own frame for 16 periods of election becomes master and LOCKED. (R27, R43, R44,
R48, R50, R87, R512) -/
def Obligations.BellWatchesFire : Prop :=
  (∀ s : State, s.bell.tracked = true → s.bell.master = false → s.bell.election = false →
    ∃ t, exec .missingFrame s = .next t ∧ t.bell.missRun = s.bell.missRun + 1
    ∧ (1 ≤ s.bell.missRun → s.bell.lock = .coarse → t.bell.lock = .unlocked ∧ bit (t.rd Reg.bellErr) 1 = true)
    ∧ (1 ≤ s.bell.missRun → s.bell.lock = .locked → t.bell.lock = .holdover ∧ bit (t.rd Reg.bellErr) 1 = true)
    ∧ (s.bell.missRun = 0 → t.bell.lock = s.bell.lock)
    ∧ ChangesOnly (recordRegs Reg.bellErr) (s.withBell t.bell) t ∧ t.bell.now = s.bell.now)
  ∧ (∀ s : State, s.bell.master = true → s.isFabric = true →
    max (s.bell.masterAt + 6) s.bell.returnAt + 5 ≤ s.bell.bounds →
    ∃ t, exec .ringOpen s = .next t ∧ bit (t.rd Reg.bellErr) 3 = true
    ∧ ChangesOnly (recordRegs Reg.bellErr) (s.withBell { s.bell with returnAt := s.bell.bounds }) t)
  ∧ (∀ s : State, s.bell.lock = .holdover → s.bell.holdAt + 1000 ≤ s.bell.bounds →
    ∃ t, exec .holdoverExpiry s = .next t ∧ t.bell.lock = .unlocked ∧ bit (t.rd Reg.bellErr) 2 = true
    ∧ ChangesOnly (recordRegs Reg.bellErr) (s.withBell t.bell) t ∧ t.bell.now = s.bell.now)
  ∧ (∀ s : State, s.candidate = true → s.bell.master = false → s.bell.election = false →
    (s.bell.lock = .unlocked ∨ s.bell.lock = .holdover) → s.bell.goodAt + 16 ≤ s.bell.bounds →
    ∃ t, exec .electionEntry s = .next t ∧ bit (t.rd Reg.bellErr) 4 = true
    ∧ ChangesOnly (recordRegs Reg.bellErr)
        (s.withBell { s.bell with election := true, before := s.bell.lock, electAt := s.bell.bounds, ownRun := 0 }) t)
  ∧ (∀ s : State, s.isFabric = false → s.bell.election = true → s.bell.ownRun = 0 → s.bell.electAt + 16 ≤ s.bell.bounds →
    ∃ t, exec .singleCardSelfMaster s = .next t ∧ t = s.withBell t.bell ∧ t.bell.master = true ∧ t.bell.election = false
    ∧ t.bell.lock = .locked ∧ t.bell.now = s.bell.now)

/-- A timestamp flit whose PERIOD lies within its own term length is taken from its link and its TX_TIME and sender state
are kept for the port. A lost reference is recorded and a master raises REF_LOST; a reference that appears is recorded
and nothing else changes. A pulse-per-second edge at the master captures its bell time in BELL_PPS_STAMP and changes
nothing else. (R51, R52, R55, R56, R57, R87, R123) -/
def Obligations.BellReferences : Prop :=
  (∀ (p : Port) (x : BitVec 6) (n : Option SoNotice) (s : State) (pl : Bytes) (rx : Dword),
    (s.link p.link).tsIn = some (pl, rx) →
    (BellTime.ofStamp (BitVec.ofNat 64 (field pl 0 8))).period.toNat ≤ field pl 10 2 →
    ∃ t, exec (.timestampReceive p x n) s = .next t ∧ (t.link p.link).tsIn = none
    ∧ (t.timeLink p).received = true ∧ (t.timeLink p).peerTx = BitVec.ofNat 64 (field pl 0 8)
    ∧ (t.timeLink p).rxTime = rx ∧ (t.timeLink p).rxSub = x ∧ (t.timeLink p).peerState = BitVec.ofNat 8 (field pl 9 1)
    ∧ (∀ l, l ≠ p.link → t.link l = s.link l) ∧ t.bell.now = s.bell.now ∧ t.pool = s.pool)
  ∧ (∀ s : State, s.bell.refPresent = true →
    ∃ t, exec .refLost s = .next t ∧ (s.bell.master = true → bit (t.rd Reg.bellErr) 5 = true)
    ∧ ChangesOnly (if s.bell.master then recordRegs Reg.bellErr else []) (s.withBell { s.bell with refPresent := false }) t)
  ∧ (∀ s : State, exec .refAppear s = .next (s.withBell { s.bell with refPresent := true }))
  ∧ (∀ s : State, s.bell.master = true →
    ∃ t, exec .ppsEdge s = .next t ∧ t.rd64 Reg.bellPpsStampLo = s.bell.now.stamp
    ∧ RegsOnly [Reg.bellPpsStampLo, Reg.bellPpsStampHi] s t)

/-- Within 32 periods of its point the announcement of a top-ring master with bell lock is committed. At the point of a
committed announcement a switch with bell lock whose armed bank matches makes the other bank active with the announced
tag and term length; any other marks the switch-over missed, raises SO_MISSED in TT_ERR and the bit for it in
BELL_ERR, and runs at the announced length. The GATE entries of a port that fire set its gates, the last by index
standing. (R69, R78, R80, R81, R83, R46) -/
def Obligations.TimetableCommit : Prop :=
  (∀ (s : State) (a : Announce), s.tt.ann = some a → s.topMaster = true → (s.bell.lock = .locked ∨ s.bell.lock = .holdover) →
    a.committed = false → s.periodsTo a.term a.period ≤ 32 →
    exec .soCommitPoint s = .next (s.withTt { s.tt with ann := some { a with committed := true } }))
  ∧ (∀ (s : State) (a : Announce), s.tt.ann = some a → a.committed = true → s.reached a.term a.period = true →
    ∃ t, exec .timetableSwitchOver s = .next t ∧ t.tt.ann = none ∧ t.bell.len = a.len
    ∧ (s.takesOver a = true → t.tt.active = !s.tt.active ∧ t.tt.activeTag = a.tag ∧ t.tt.activeLen = a.len
        ∧ t.tt.armed = none ∧ t.tt.missed = false ∧ t.tt.bank0 = s.tt.bank0 ∧ t.tt.bank1 = s.tt.bank1)
    ∧ (s.takesOver a = false → t.tt.missed = true ∧ t.tt.active = s.tt.active ∧ bit (t.rd Reg.ttErr) 1 = true
        ∧ bit (t.rd Reg.bellErr) 6 = true)
    ∧ t.bell.now = s.bell.now ∧ t.pool = s.pool ∧ t.links = s.links)
  ∧ (∀ (p : Port) (s : State), ∃ t, exec (.gateEntryFire p) s = .next t
    ∧ (∀ q, (s.firingNow 0 p.val 3).getLast? = some q → t.gate p = ttGateMask q.2)
    ∧ (s.firingNow 0 p.val 3 = [] → t = s)
    ∧ (∀ r, r ≠ p → t.gate r = s.gate r) ∧ t = (s.withTt t.tt).withTest t.test ∧ t.tt.bank0 = s.tt.bank0
    ∧ t.tt.bank1 = s.tt.bank1)

/-- For a TT_LOAD that starts while no bank is armed and names a table within its limits: if every entry passes, the
entries read stand at their indexes of the named table of the inactive bank, every other table of it and the whole
active bank are unchanged, and the descriptor completes OK with the count. If an entry is refused, the descriptor
completes with FORMAT where any entry fails its format, else with the first refusal, and nothing is written. Nothing
else changes. (R15, R16, R58, R63, R73, R74, R79, R463, R471) -/
def Obligations.TimetableLoads : Prop :=
  ∀ (h : HostPort) (q : RingId) (data : Bytes) (s : State) (d : Desc), Starts s h q 0x08 d → s.tt.armed = none →
    loadTable d ≤ 2 → loadNumber d < ttTables (loadTable d) → loadFirst d + loadCount d ≤ ttEntries (loadTable d) →
    dField d 32 8 % 64 = 0 →
    let kind := loadTable d
    let at_ := fun i => ttKey kind (loadNumber d) (loadFirst d + i)
    let entry := fun i => BitVec.ofNat 128 (field data (16 * i) 16)
    ((∀ i < loadCount d, entryRefusal (ttReserved kind) (ttBad kind) (entry i) = none) →
      ∃ t, exec (.ttLoad h q data) s = .next t ∧ ChangesOnly (doneRegs h d) (s.withTt t.tt) t
      ∧ Completes h (startedDesc s d) 0 (loadCount d) s t ∧ t.activeTt = s.activeTt
      ∧ (∀ i < loadCount d, t.inactiveTt.get 0 (at_ i) = entry i)
      ∧ ∀ k, (k < ttKey kind (loadNumber d) 0 ∨ ttKey kind (loadNumber d) 0 + 8192 ≤ k) →
          t.inactiveTt.get 0 k = s.inactiveTt.get 0 k)
    ∧ (∀ i < loadCount d, ∀ st, entryRefusal (ttReserved kind) (ttBad kind) (entry i) = some st →
        (st = St.format ∨ ((∀ j < loadCount d, entryRefusal (ttReserved kind) (ttBad kind) (entry j) ≠ some St.format)
          ∧ ∀ j < i, entryRefusal (ttReserved kind) (ttBad kind) (entry j) = none)) →
      ∃ t, exec (.ttLoad h q data) s = .next t ∧ ChangesOnly (doneRegs h d) s t
      ∧ Completes h (startedDesc s d) st.toNat 0 s t)

/-- A TT_ARM with a term length of 1 to 65,536 periods arms the inactive bank with its tag and length; at a member, or at
a master of a child ring, it announces nothing and completes OK with 0; at the master of the top ring with no
committed announcement it announces the tag and length at the effective point and completes with that point. A
TT_CANCEL with no committed announcement disarms, and at the master of the top ring withdraws the announcement and
raises SO_ABORTED; past the commit point the master of the top ring keeps the announcement and raises bit 6 of TT_ERR.
(R75, R76, R78, R79, R463) -/
def Obligations.TimetableArmed : Prop :=
  (∀ (h : HostPort) (q : RingId) (s : State) (d : Desc), Starts s h q 0x09 d → dField d 20 4 ≠ 0 → dField d 20 4 ≤ 65536 →
    let tag : Word := BitVec.ofNat 32 (dField d 16 4)
    let len := dField d 20 4
    let p := s.effectivePoint len (dPoint d 24).term (dPoint d 24).period
    ∃ t, exec (.ttArm h q) s = .next t ∧ ChangesOnly (doneRegs h d) (s.withTt t.tt) t ∧ t.tt.armed = some (tag, len)
    ∧ t.tt.bank0 = s.tt.bank0 ∧ t.tt.bank1 = s.tt.bank1 ∧ t.tt.active = s.tt.active
    ∧ (s.topMaster = false → t.tt.ann = s.tt.ann ∧ Completes h (startedDesc s d) 0 0 s t)
    ∧ (s.topMaster = true → (∀ a, s.tt.ann = some a → a.committed = false) →
        t.tt.ann = some ⟨tag, len, p.1, p.2, false⟩
        ∧ Completes h (startedDesc s d) 0 (BellTime.at0 p.1 p.2).stamp.toNat s t))
  ∧ (∀ (h : HostPort) (q : RingId) (s : State) (d : Desc), Starts s h q 0x0A d →
    ∃ t, exec (.ttCancel h q) s = .next t ∧ Completes h (startedDesc s d) 0 0 s t
    ∧ ChangesOnly (doneRegs h d ++ recordRegs Reg.ttErr) (s.withTt t.tt) t
    ∧ ((∀ a, s.tt.ann = some a → s.topMaster = true → a.committed = false) → t.tt.armed = none)
    ∧ (s.topMaster = true → ∀ a, s.tt.ann = some a → a.committed = false → t.tt.ann = none ∧ bit (t.rd Reg.ttErr) 0 = true)
    ∧ (s.topMaster = true → ∀ a, s.tt.ann = some a → a.committed = true → t.tt = s.tt ∧ bit (t.rd Reg.ttErr) 6 = true))

/-- A BANK_ARM of a set takes as its point the one it names, or the period 4 ahead where that is later, and completes with
it; one that cancels in time disarms the set. At or past its point an armed set is disarmed and its other bank becomes
active; the mortise and drawer switch-overs leave both banks' contents as loaded, and no switch-over changes a byte of
memory. (R22, R82, R149, R191, R198, R373, R472) -/
def Obligations.LocalBanksSwitch : Prop :=
  (∀ (h : HostPort) (q : RingId) (s : State) (d : Desc) (set : TableSet), Starts s h q 0x14 d →
    tableSetOf (dField d 16 1) = some set →
    ∃ t, exec (.bankArm h q) s = .next t ∧ ChangesOnly (doneRegs h d) (s.withTt t.tt) t
    ∧ (dField d 17 1 % 2 = 0 →
        let p := s.armPoint (dPoint d 24).term (dPoint d 24).period
        t.armedPoint set = some ⟨p.1, p.2⟩ ∧ Completes h (startedDesc s d) 0 (BellTime.at0 p.1 p.2).stamp.toNat s t
        ∧ ∀ other, other ≠ set → t.armedPoint other = s.armedPoint other)
    ∧ (dField d 17 1 % 2 = 1 → ∀ p, s.armedPoint set = some p → s.cancelInTime p = true →
        t.armedPoint set = none ∧ Completes h (startedDesc s d) 0 0 s t)
    ∧ (dField d 17 1 % 2 = 1 → ∀ p, s.armedPoint set = some p → s.cancelInTime p = false →
        t.tt = s.tt ∧ Completes h (startedDesc s d) St.denied.toNat 0 s t))
  ∧ (∀ (set : TableSet) (s : State) (p : Point), s.armedPoint set = some p → s.reached p.term p.period = true →
    ∃ t, exec (.bankSwitchOver set) s = .next t ∧ t.armedPoint set = none ∧ t.pool.mem = s.pool.mem ∧ t.bell = s.bell
    ∧ (set = .mortise → t.mort.mortBank = !s.mort.mortBank ∧ t.mort.job0 = s.mort.job0 ∧ t.mort.job1 = s.mort.job1
        ∧ t.mort.jat0 = s.mort.jat0 ∧ t.mort.jat1 = s.mort.jat1 ∧ t.mort.adm0 = s.mort.adm0 ∧ t.mort.adm1 = s.mort.adm1)
    ∧ (set = .drawer → t.mort.drawerBank = !s.mort.drawerBank ∧ t.mort.drw0 = s.mort.drw0 ∧ t.mort.drw1 = s.mort.drw1)
    ∧ (set = .object → t.pool.objBank = !s.pool.objBank ∧ t.pool.obj0 = s.pool.obj0 ∧ t.pool.obj1 = s.pool.obj1)
    ∧ (set = .roll → t.roll.bank = !s.roll.bank ∧ t.roll.cfg0 = s.roll.cfg0 ∧ t.roll.cfg1 = s.roll.cfg1))

/-- For a MORT_LOAD that starts while its set is not armed, keeps its limits and whose entries all pass: if the bank it
would make keeps its partitions, the entries stand at their indexes of the named table of the inactive bank and the
descriptor completes OK with the count; if not, LOAD_REFUSED is raised, it completes DENIED and no table changes. The
active bank never changes. (R143, R144, R145, R471, R507) -/
def Obligations.MortiseLoads : Prop :=
  ∀ (h : HostPort) (q : RingId) (data : Bytes) (s : State) (d : Desc), Starts s h q 0x10 d → s.tt.armMort = none →
    plainLoad d = true → dField d 32 8 % 64 = 0 →
    let job := if s.mort.mortBank then s.mort.job0 else s.mort.job1
    let jat := if s.mort.mortBank then s.mort.jat0 else s.mort.jat1
    let adm := if s.mort.mortBank then s.mort.adm0 else s.mort.adm1
    let bank := fun (t : State) => if t.mort.mortBank then (t.mort.job0, t.mort.jat0, t.mort.adm0)
      else (t.mort.job1, t.mort.jat1, t.mort.adm1)
    let active := fun (t : State) => if t.mort.mortBank then (t.mort.job1, t.mort.jat1, t.mort.adm1)
      else (t.mort.job0, t.mort.jat0, t.mort.adm0)
    let slots := (loadEntries d data 64 512).flatMap (fun e => (List.range 16).map (fun j => e.extractLsb' (16 * j) 16))
    let ends := fun (job' : Tab (BitVec 64)) (jat' : Tab (BitVec 128)) (adm' : Tab (BitVec 16)) =>
      ∃ t, exec (.mortLoad h q data) s = .next t ∧ t.mort.mortBank = s.mort.mortBank ∧ active t = active s
      ∧ (s.mortLoadOk job' jat' adm' = true → bank t = (job', jat', adm') ∧ ChangesOnly (doneRegs h d) (s.withMort t.mort) t
          ∧ Completes h (startedDesc s d) 0 (loadCount d) s t)
      ∧ (s.mortLoadOk job' jat' adm' = false → bit (t.rd Reg.mortErr) 7 = true ∧ Completes h (startedDesc s d) 2 0 s t
          ∧ ChangesOnly (doneRegs h d ++ recordRegs Reg.mortErr ++ [Reg.mortErrCapture, Reg.mortErrCaptureSw]) s t)
    (loadTable d = 0 → loadFirst d + loadCount d ≤ 4096 →
      (∀ e ∈ loadEntries d data 8 64, entryRefusal (maskBits 64 63 14 ||| maskBits 64 7 3) (fun _ => false) e = none) →
      ends (Tab.putRun 0 job (loadFirst d) (loadEntries d data 8 64)) jat adm)
    ∧ (loadTable d = 1 → loadFirst d + loadCount d ≤ 262144 →
      (∀ e ∈ loadEntries d data 16 128, entryRefusal (maskBits 128 127 110 ||| maskBits 128 87 83 ||| maskBits 128 77 64
        ||| maskBits 128 2 2) (fun _ => false) e = none) →
      ends job (Tab.putRun 0 jat (loadFirst d) (loadEntries d data 16 128)) adm)
    ∧ (loadTable d = 2 → loadFirst d + loadCount d ≤ 192 → (∀ e ∈ loadEntries d data 64 512, admRefusal e = none) →
      ends job jat (Tab.putRun 0 adm (16 * loadFirst d) slots))

/-- A DRAWER_LOAD whose set is not armed, whose entries pass and which breaks none of R148, R193, R194 and R316 puts its
entries, with the drawers' own KEY_GEN, at their indexes of the inactive drawer bank, completes OK with the count, and
leaves the active bank alone. An OBJ_LOAD whose set is not armed and whose entries pass puts them into the inactive
object bank in the same way. (R146, R148, R193, R194, R195, R196, R316, R471) -/
def Obligations.DrawerAndObjectLoads : Prop :=
  (∀ (h : HostPort) (q : RingId) (data : Bytes) (s : State) (d : Desc), Starts s h q 0x11 d → s.tt.armDrawer = none →
    loadTable d = 0 → plainLoad d = true → loadFits d 65536 = true →
    let es := loadEntries d data 16 128
    let made := ((List.range es.length).zip es).map (fun p => (loadFirst d + p.1, s.loadedDrawer (loadFirst d + p.1) p.2))
    let bank := made.foldl (fun (t : Tab (BitVec 128)) p => t.put 0 p.1 p.2) (if s.mort.drawerBank then s.mort.drw0 else s.mort.drw1)
    let lends := made.filter (fun p => drwState p.2 == 1 && drwState (s.drawer p.1) != 1)
    (∀ e ∈ es, entryRefusal (maskBits 128 90 82 ||| maskBits 128 63 48 ||| maskBits 128 20 2) (fun e => drwState e == 3) e = none) →
    (∀ p ∈ lends, (∀ r ∈ s.pool.resets, r.1 ≠ p.1) ∧ ∀ g ∈ s.dir.purges,
      ¬(g.2.1 * 128 < drwBase p.2 + drwSize p.2 ∧ drwBase p.2 < g.2.2.1 * 128)) →
    (∀ p ∈ made, (drwShared p.2 && decide (0 < drwSize p.2) && decide (tieredBase < drwBase p.2 + drwSize p.2)) = false
      ∧ s.drawerChangeBad p.1 p.2 = false ∧ s.drawerOverlaps bank p.1 p.2 = false) →
    ∃ t, exec (.drawerLoad h q data) s = .next t ∧ ChangesOnly (doneRegs h d) (s.withMort t.mort) t
    ∧ Completes h (startedDesc s d) 0 (loadCount d) s t
    ∧ t.mort.drawerBank = s.mort.drawerBank ∧ t.drawerTable = s.drawerTable
    ∧ (if t.mort.drawerBank then t.mort.drw0 else t.mort.drw1) = bank)
  ∧ (∀ (h : HostPort) (q : RingId) (data : Bytes) (s : State) (d : Desc), Starts s h q 0x12 d → s.tt.armObj = none →
    loadTable d = 0 → plainLoad d = true → loadFits d 16384 = true →
    (∀ e ∈ loadEntries d data 64 512, entryRefusal objReserved (fun e => objTier (e.extractLsb' 0 192) == 3
      || objVeneer (e.extractLsb' 0 192) == 3 || decide (9 ≤ objShape (e.extractLsb' 0 192))) e = none) →
    ∃ t, exec (.objLoad h q data) s = .next t ∧ ChangesOnly (doneRegs h d) (s.withPool t.pool) t
    ∧ Completes h (startedDesc s d) 0 (loadCount d) s t ∧ t.objTable = s.objTable ∧ t.pool.mem = s.pool.mem
    ∧ (if t.pool.objBank then t.pool.obj0 else t.pool.obj1)
        = Tab.putRun 0 (if s.pool.objBank then s.pool.obj0 else s.pool.obj1) (loadFirst d)
            ((loadEntries d data 64 512).map (fun e => e.extractLsb' 0 192)))

/-- For a ROLL_LOAD whose set is not armed, keeps its limits, whose entries pass and which R372 allows: the entries stand
at their indexes of the named table of the inactive bank, the active bank is unchanged, nothing else of the roll
changes, and the descriptor completes OK with the count. (R367, R369, R372, R387, R471) -/
def Obligations.RollLoads : Prop :=
  ∀ (h : HostPort) (q : RingId) (data : Bytes) (s : State) (d : Desc), Starts s h q 0x13 d → s.tt.armRoll = none →
    plainLoad d = true → dField d 32 8 % 64 = 0 →
    let ends := fun (r : Roll) => ∃ t, exec (.rollLoad h q data) s = .next t
      ∧ ChangesOnly (doneRegs h d) (s.withRoll r) t ∧ Completes h (startedDesc s d) 0 (loadCount d) s t
    let made := (List.range (loadCount d)).zip (loadEntries d data 128 1024)
    let closes := (made.filter (fun p => cfgValid (s.rollCfg (loadFirst d + p.1)) && !cfgValid p.2)).map
      (fun p => loadFirst d + p.1)
    (loadTable d = 0 → loadFirst d + loadCount d ≤ 32768 →
      (∀ e ∈ loadEntries d data 128 1024, entryRefusal cfgReserved cfgBad e = none) →
      (∀ p ∈ made, s.cfgRefused (loadFirst d + p.1) p.2 closes = false) →
      ends (if s.roll.bank then { s.roll with cfg0 := Tab.putRun 0 s.roll.cfg0 (loadFirst d) (loadEntries d data 128 1024) }
        else { s.roll with cfg1 := Tab.putRun 0 s.roll.cfg1 (loadFirst d) (loadEntries d data 128 1024) }))
    ∧ (loadTable d = 1 → loadFirst d + loadCount d ≤ 256 →
      (∀ e ∈ loadEntries d data 16 128, entryRefusal shapeReserved shapeBad e = none) →
      (∀ i < loadCount d, ∀ p ∈ (if s.roll.bank then s.roll.cfg1 else s.roll.cfg0), cfgValid p.2 = true →
        cfgShape p.2 ≠ loadFirst d + i) →
      ends (if s.roll.bank then { s.roll with shape0 := Tab.putRun 0 s.roll.shape0 (loadFirst d) (loadEntries d data 16 128) }
        else { s.roll with shape1 := Tab.putRun 0 s.roll.shape1 (loadFirst d) (loadEntries d data 16 128) }))
    ∧ (loadTable d = 2 → loadFirst d + loadCount d ≤ 1024 →
      (∀ e ∈ loadEntries d data 64 512, entryRefusal stationReserved stationBad e = none) →
      (∀ i < loadCount d, s.stationNamed (loadFirst d + i) = false) →
      ends (if s.roll.bank then { s.roll with station0 := Tab.putRun 0 s.roll.station0 (loadFirst d) (loadEntries d data 64 512) }
        else { s.roll with station1 := Tab.putRun 0 s.roll.station1 (loadFirst d) (loadEntries d data 64 512) }))

/-- An unlocked write of PORT_CFG on a port that is no member of a bonded group stores its defined bits; a 33rd tray keeps
the old role and raises ROLE_LIMIT; a G role in single-card mode keeps the old role and raises ROLE_MISMATCH. RETRAIN
takes an active link of an unfenced partition to DETECT and starts an idle enabled port. DISABLE takes both links to
DISABLED. REKEY starts a rekey of an encrypted active link and queues its message. CLR_COUNTERS zeroes the port's
counters. A margin scan starts with its status at 0 and ends with its result. Nothing else changes. (R89, R96, R27,
R122, R124, R125, R126, R127, R540) -/
def Obligations.PortRegisters : Prop :=
  (∀ (h : HostPort) (p : Port) (v : Word) (s : State), Reaches s h (Reg.portCfg p.val) → s.locked = false →
    (∀ l ∈ bothLinks p, (s.link l).train ≠ .fenced ∨ (s.link l).fencedByMismatch = false) →
    let off := Reg.portCfg p.val
    let v' := v &&& regMask off
    let role := bits v'.toNat 5 4
    let was := bits (s.rd off).toNat 5 4
    ∃ t, exec (.portCfgWrite h p v) s = .next t
    ∧ (s.isMember p = true → t = s.touch h)
    ∧ (s.isMember p = false → (role = 2 → s.traysBut p + traySize v' ≤ 32) → (role = 3 → s.isFabric = true) →
        t.rd off = v' ∧ RegsOnly [off] (s.touch h) t)
    ∧ (s.isMember p = false → role = 2 → 32 < s.traysBut p + traySize v' →
        t.rd off = withRole v' was ∧ bit (t.rd (Reg.portErr p.val)) 7 = true
        ∧ ChangesOnly (off :: recordRegs (Reg.portErr p.val)) (s.touch h) t)
    ∧ (s.isMember p = false → role = 3 → s.isFabric = false →
        t.rd off = withRole v' was ∧ bit (t.rd (Reg.portErr p.val)) 6 = true
        ∧ ChangesOnly (off :: recordRegs (Reg.portErr p.val)) (s.touch h) t))
  ∧ (∀ (h : HostPort) (p : Port) (s : State), Reaches s h (Reg.portCtrl p.val) → s.proceeded = true → s.isMember p = false →
    s.isFenced (bits (s.rd (Reg.portCfg p.val)).toNat 21 16) = false →
    ∃ t, exec (.portRetrain h p) s = .next t ∧ LinkEffect (bothLinks p) (sessionRegs p) (s.touch h) t
    ∧ (∀ l ∈ bothLinks p, (s.link l).train = .active → (s.link l).looped = false → (t.link l).train = .detect)
    ∧ ((∀ l ∈ bothLinks p, (s.link l).train = .disabled ∧ (s.link l).looped = false) → bit (s.rd (Reg.portCfg p.val)) 0 = true →
        bits (s.rd (Reg.portCfg p.val)).toNat 5 4 ≠ 0 → s.groupOk p = true →
        (t.link p.link).train = .detect ∧ (t.link p.link).cfg = s.rd (Reg.portCfg p.val)))
  ∧ (∀ (h : HostPort) (p : Port) (s : State), Reaches s h (Reg.portCtrl p.val) →
    ∃ t, exec (.portDisable h p) s = .next t ∧ LinkEffect (bothLinks p) (sessionRegs p) (s.touch h) t
    ∧ ∀ l ∈ bothLinks p, (t.link l).train = .disabled ∧ (t.link l).looped = false)
  ∧ (∀ (h : HostPort) (p : Port) (s : State), Reaches s h (Reg.portCtrl p.val) → s.entropyOk = true →
    ∃ t, exec (.portRekey h p) s = .next t ∧ LinkEffect (bothLinks p) [] (s.touch h) t
    ∧ ∀ l ∈ bothLinks p, (s.link l).train = .active → (s.link l).encrypted = true → (s.link l).looped = false →
        (s.link l).kex.rekeyOwn = false → (s.link l).nextKey = none →
        (t.link l).kex.rekeyOwn = true
        ∧ (t.link l).ctlOut = (s.link l).ctlOut ++ (fragments 0x11 (t.link l).kex.rekeyEk).map (fun c => ⟨3, c⟩))
  ∧ (∀ (h : HostPort) (p : Port) (s : State), Reaches s h (Reg.portCtrl p.val) →
    let n := p.val
    let zeros := [Reg.portFecCorrLo n, Reg.portFecCorrHi n, Reg.portFecUncorr n, Reg.portCrcErr n, Reg.portDup n, Reg.portGap n,
      Reg.portReplay n, Reg.portHold n, Reg.portSchedStall n, Reg.portAuthFail n, Reg.portRoleDrop n]
      ++ (List.range 4).flatMap (fun j => [Reg.laneBerLo n j, Reg.laneBerHi n j])
    ∃ t, exec (.portClrCounters h p) s = .next t ∧ (∀ off ∈ zeros, t.rd off = 0)
    ∧ t.rd (Reg.portTrainFail n) = s.rd (Reg.portTrainFail n) &&& 0xF0000000
    ∧ RegsOnly (Reg.portTrainFail n :: zeros) (s.touch h) t)
  ∧ (∀ (h : HostPort) (p : Port) (lane : Fin 4) (s : State), Reaches s h (Reg.laneMarginCtrl p.val lane.val) →
    ∃ t, exec (.laneMarginStart h p lane) s = .next t ∧ t.rd (Reg.laneMarginStatus p.val lane.val) = 0
    ∧ (p, lane) ∈ t.test.scans
    ∧ RegsOnly [Reg.laneMarginStatus p.val lane.val] ((s.touch h).withTest { s.test with scans := t.test.scans }) t)
  ∧ (∀ (p : Port) (lane : Fin 4) (eye : Word) (s : State), (p, lane) ∈ s.test.scans →
    ∃ t, exec (.laneMarginDone p lane eye) s = .next t ∧ t.rd (Reg.laneEye p.val lane.val) = eye
    ∧ t.rd (Reg.laneMarginStatus p.val lane.val) = 1
    ∧ RegsOnly [Reg.laneEye p.val lane.val, Reg.laneMarginStatus p.val lane.val]
        (s.withTest { s.test with scans := s.test.scans.erase (p, lane) }) t)

/-- Signal on the lanes of MIN_WIDTH takes an enabled link from DETECT to EQ_LOW; equalization at low rate to LANE_MAP;
the lane map is reported and the link goes to VERSION. VERSION goes to EQ_FULL with a 1.0 peer of the right kind and
partition that some width fits (to CONFIG with a 0.9 peer that is allowed), refuses with VERSION, ROLE_MISMATCH or the
encryption bit, and goes to FENCED on a partition mismatch. EQ_FULL goes to SECURE with encryption, else to CONFIG;
CONFIG to ACTIVE, with a new session of its port. A timeout counts, keeps the state it came from and goes to DETECT.
The other links and memory are unchanged. (R90, R92, R93, R94, R98, R99, R107, R114, R126, R508) -/
def Obligations.TrainingSteps : Prop :=
  (∀ (l : LinkId) (lanes : BitVec 16) (s : State), let cfg := s.rd (Reg.portCfg l.port.val)
    (s.link l).train = .detect → (s.link l).looped = false → bit cfg 0 = true → bits cfg.toNat 5 4 ≠ 0 → s.groupOk l.port = true →
    bit cfg 3 = bit (s.link l).cfg 3 → hasLanes lanes (bits cfg.toNat 11 10) = true →
    ∃ t, exec (.signalDetect l lanes) s = .next t
    ∧ Relinked s t l { s.link l with cfg := cfg, lanes := lanes, train := .eqLow, enteredAt := s.bell.ticks })
  ∧ (∀ (l : LinkId) (lanes : BitVec 16) (s : State), (s.link l).train = .eqLow →
    ∃ t, exec (.eqLowDone l lanes) s = .next t
    ∧ Relinked s t l { s.link l with lanes := (s.link l).lanes &&& lanes, train := .laneMap, enteredAt := s.bell.ticks })
  ∧ (∀ (l : LinkId) (rev : Bool) (inv : BitVec 4) (s : State), (s.link l).train = .laneMap →
    ∃ t, exec (.laneMapDone l rev inv) s = .next t
    ∧ Relinked (s.withRegs t.regs) t l { s.link l with train := .version, enteredAt := s.bell.ticks }
    ∧ bit (t.rd (Reg.portLaneMap l.port.val)) 3 = rev
    ∧ (bit (s.link l).cfg 3 = false → bits (t.rd (Reg.portLaneMap l.port.val)).toNat 7 4 = inv.toNat)
    ∧ ∀ off, off ≠ Reg.portLaneMap l.port.val → t.rd off = s.rd off)
  ∧ (∀ (l : LinkId) (peer : PeerCaps) (s : State), (s.link l).train = .version →
    let k := s.link l
    let cfg := k.cfg
    let okKind := peer.kind.toNat = bits cfg.toNat 5 4
    let okPart := peer.partition = cfg.extractLsb' 16 6
    let free := bit cfg 25 = false ∧ peer.encRequired = false
    ∃ t, exec (.versionDecide l peer) s = .next t ∧ LinkEffect [l] (sessionRegs l.port) s t
    ∧ (∀ w, commonVersion peer = some false → okKind → okPart → (peer.encSupport = true ∨ free) →
        usableWidth cfg k.lanes = some w →
        t.link l = { k with v09 := false, encrypted := peer.encSupport, fecLL := bit cfg 24 && peer.fecLL, peer := some peer,
                            width := BitVec.ofNat 2 w, degraded := decide (w < cfgWidth cfg), train := .eqFull,
                            enteredAt := s.bell.ticks }
        ∧ (w < cfgWidth cfg → bit (t.rd (Reg.portErr l.port.val)) 9 = true))
    ∧ (∀ w, commonVersion peer = some true → bit cfg 26 = true → bit cfg 3 = false → okKind → okPart → free →
        usableWidth cfg k.lanes = some w → (t.link l).train = .config ∧ (t.link l).v09 = true ∧ (t.link l).encrypted = false)
    ∧ (commonVersion peer = none → (t.link l).train = .disabled ∧ bit (t.rd (Reg.portErr l.port.val)) 5 = true)
    ∧ (commonVersion peer = some false → ¬ okKind →
        (t.link l).train = .disabled ∧ bit (t.rd (Reg.portErr l.port.val)) 6 = true)
    ∧ (commonVersion peer = some false → okKind → ¬ okPart → (t.link l).train = .fenced ∧ (t.link l).fencedByMismatch = true
        ∧ bit (t.rd (Reg.portErr l.port.val)) 8 = true)
    ∧ (commonVersion peer = some false → okKind → okPart → peer.encSupport = false → ¬ free →
        (t.link l).train = .disabled ∧ bit (t.rd (Reg.portErr l.port.val)) 10 = true))
  ∧ (∀ (l : LinkId) (preset : BitVec 16) (s : State), (s.link l).train = .eqFull →
    ∃ t, exec (.eqFullDone l preset) s = .next t
    ∧ ((s.link l).encrypted = true → (t.link l).train = .secure) ∧ ((s.link l).encrypted = false → (t.link l).train = .config)
    ∧ (bit (s.link l).cfg 3 = false → ∀ j < 4, (t.rd (Reg.laneTxPreset l.port.val j)).toNat = preset.toNat / 16 ^ j % 16)
    ∧ LinkEffect [l] (recordRegs (Reg.portErr l.port.val)
        ++ (List.range 4).flatMap (fun j => [Reg.laneTxPreset l.port.val j, Reg.laneSnr l.port.val j])) s t)
  ∧ (∀ (l : LinkId) (credits : List (BitVec 16)) (s : State), (s.link l).train = .config → (s.link l).looped = false →
    ∃ t, exec (.configDone l credits) s = .next t ∧ (t.link l).train = .active ∧ (t.link l).aliveAt = s.bell.ticks
    ∧ (∀ c : Cls, (t.link l).credits[c.val] = (credits.getD c.val 0).toNat)
    ∧ (∀ l', l' ≠ l → t.link l' = s.link l') ∧ t = (s.withLinks t.links).withRoll { s.roll with sessions := t.roll.sessions }
    ∧ t.roll.sessions.get 0 l.port.val = s.roll.sessions.get 0 l.port.val % 255 + 1)
  ∧ (∀ (l : LinkId) (n : Nat) (s : State), (s.link l).train.limit = some n → (s.link l).enteredAt + n ≤ s.bell.ticks →
    s.isFenced (bits (s.rd (Reg.portCfg l.port.val)).toNat 21 16) = false →
    ∃ t, exec (.trainTimeout l) s = .next t ∧ (t.link l).train = .detect ∧ bit (t.rd (Reg.portErr l.port.val)) 1 = true
    ∧ (t.rd (Reg.portTrainFail l.port.val)).toNat / 2 ^ 28 = (s.link l).train.code.toNat
    ∧ (t.rd (Reg.portTrainFail l.port.val)).toNat % 65536 = min 0xFFFF ((s.rd (Reg.portTrainFail l.port.val)).toNat % 65536 + 1)
    ∧ LinkEffect [l] (Reg.portTrainFail l.port.val :: sessionRegs l.port) s t)

/-- In ACTIVE, a sequenced flit that passes its check with the expected count is accepted: the expected count advances,
its credits are taken, and a frame it starts is held. An earlier count is a duplicate and counted; a later one opens a
gap: a REPLAY_REQ for the expected count is queued. One that fails its check is counted and discarded. More than 16
uncorrectable codewords in a period send the link to RECOVERY. A REPLAY_REQ inside the replay buffer starts the
replay, one beyond it goes to RECOVERY. The replay wait repeats its request and after the fourth goes to RECOVERY.
After 8 silent periods the link goes to DETECT; after RECOVERY it is ACTIVE and asks for the expected count. Other
links and memory are unchanged. (R102, R108, R110, R111, R112, R114, R115, R117, R119, R121) -/
def Obligations.FlitsAndReplay : Prop :=
  let fec := fun (p : Port) => [Reg.portFecCorrLo p.val, Reg.portFecCorrHi p.val, Reg.portFecUncorr p.val]
    ++ (List.range 4).flatMap (fun j => [Reg.laneBerLo p.val j, Reg.laneBerHi p.val j])
  (∀ (l : LinkId) (f : Flit) (corrected : Nat) (s : State) (payload : Bytes), let k := s.link l
    let p := l.port
    let d := (flRoll f + 65536 - k.rxNext % 65536) % 65536
    k.train = .active → openFlit k f = some payload → flitMalformed f = false → sequenced (flType f) = true →
    ∃ t, exec (.flitReceive l f corrected 0) s = .next t ∧ (t.link l).train = .active
    ∧ LinkEffect [l] (fec p ++ sessionRegs p ++ [Reg.portDup p.val, Reg.portGap p.val, Reg.portRoleDrop p.val, Reg.secRekeys]) s t
    ∧ (d = 0 → (t.link l).rxNext = k.rxNext + 1 ∧ (t.link l).waiting = false ∧ (t.link l).aliveAt = s.bell.ticks
        ∧ (∀ c : Cls, (t.link l).credits[c.val] = k.credits[c.val] + (if flCrClass f = c.val then flCrCount f else 0))
        ∧ (flType f = 1 → flFirst f = true → k.looped = false → bits k.cfg.toNat 5 4 ≠ 2 →
            ∃ a ∈ (t.link l).arriving, a.cls = flClass f ∧ a.bytes = payload.take (flValid f) ∧ a.whole = flLast f))
    ∧ (32768 ≤ d → (t.rd (Reg.portDup p.val)).toNat = min ((s.rd (Reg.portDup p.val)).toNat + 1) 0xFFFFFFFF
        ∧ (t.link l).rxNext = k.rxNext ∧ (t.link l).arriving = k.arriving)
    ∧ (0 < d → d < 32768 → k.waiting = false →
        (t.rd (Reg.portGap p.val)).toNat = min ((s.rd (Reg.portGap p.val)).toNat + 1) 0xFFFFFFFF
        ∧ (t.link l).rxNext = k.rxNext ∧ (t.link l).waiting = true ∧ (t.link l).reqs = 1
        ∧ (t.link l).ctlOut = k.ctlOut ++ [⟨5, leBytes 2 (k.rxNext % 65536)⟩]))
  ∧ (∀ (l : LinkId) (f : Flit) (corrected : Nat) (s : State), let k := s.link l
    let p := l.port
    k.train = .active → openFlit k f = none → k.encrypted = false →
    ∃ t, exec (.flitReceive l f corrected 0) s = .next t
    ∧ (t.rd (Reg.portCrcErr p.val)).toNat = min ((s.rd (Reg.portCrcErr p.val)).toNat + 1) 0xFFFFFFFF
    ∧ (t.link l).train = .active ∧ (t.link l).rxNext = k.rxNext ∧ (t.link l).arriving = k.arriving
    ∧ LinkEffect [l] (Reg.portCrcErr p.val :: fec p) s t)
  ∧ (∀ (l : LinkId) (f : Flit) (corrected n : Nat) (s : State), let k := s.link l
    let p := l.port
    k.train = .active → k.errBound ≠ s.bell.bounds → n ≠ 0 →
    ∃ t, exec (.flitReceive l f corrected n) s = .next t
    ∧ (t.rd (Reg.portFecUncorr p.val)).toNat = min ((s.rd (Reg.portFecUncorr p.val)).toNat + n) 0xFFFFFFFF
    ∧ (16 < n → (t.link l).train = .recovery ∧ bit (t.rd (Reg.portErr p.val)) 12 = true)
    ∧ (n ≤ 16 → (t.link l).train = .active) ∧ (t.link l).rxNext = k.rxNext ∧ (t.link l).arriving = k.arriving
    ∧ LinkEffect [l] (fec p ++ sessionRegs p) s t)
  ∧ (∀ (l : LinkId) (n : BitVec 16) (s : State), let k := s.link l
    let d := (n.toNat + 65536 - k.replayBase % 65536) % 65536
    k.train = .active → k.reqIn = some n → k.replayPos = none →
    ∃ t, exec (.replayReqReceive l) s = .next t ∧ (t.link l).reqIn = none
    ∧ (d < k.replay.length → (t.link l).replayPos = some (k.replayBase + d) ∧ (t.link l).train = .active
        ∧ (t.rd (Reg.portReplay l.port.val)).toNat = min ((s.rd (Reg.portReplay l.port.val)).toNat + 1) 0xFFFFFFFF)
    ∧ (k.replay.length < d → (t.link l).train = .recovery ∧ bit (t.rd (Reg.portErr l.port.val)) 3 = true)
    ∧ (t.link l).replay = k.replay ∧ LinkEffect [l] (Reg.portReplay l.port.val :: sessionRegs l.port) s t)
  ∧ (∀ (l : LinkId) (s : State), let k := s.link l
    k.train = .active → k.waiting = true → k.waitTick + 125 ≤ s.bell.ticks →
    ∃ t, exec (.replayWaitRetry l) s = .next t ∧ LinkEffect [l] (sessionRegs l.port) s t
    ∧ (k.reqs < 4 → t.link l = { k with reqs := k.reqs + 1, waitTick := s.bell.ticks,
                                        ctlOut := k.ctlOut ++ [⟨5, leBytes 2 (k.rxNext % 65536)⟩] })
    ∧ (4 ≤ k.reqs → t.link l = { k with train := .recovery, enteredAt := s.bell.ticks }
        ∧ bit (t.rd (Reg.portErr l.port.val)) 3 = true))
  ∧ (∀ (l : LinkId) (s : State), let k := s.link l
    (k.train = .active ∨ k.train = .recovery) → k.aliveAt + 2048 ≤ s.bell.ticks →
    s.isFenced (bits (s.rd (Reg.portCfg l.port.val)).toNat 21 16) = false →
    ∃ t, exec (.peerDead l) s = .next t ∧ (t.link l).train = .detect ∧ (t.link l).arriving = [] ∧ (t.link l).replay = []
    ∧ bit (t.rd (Reg.portErr l.port.val)) 2 = true ∧ LinkEffect [l] (sessionRegs l.port) s t)
  ∧ (∀ (l : LinkId) (s : State), let k := s.link l
    k.train = .recovery →
    ∃ t, exec (.recoveryDone l) s = .next t
    ∧ Relinked s t l { k with train := .active, enteredAt := s.bell.ticks, waiting := true, reqs := 1, waitTick := s.bell.ticks,
                              ctlOut := k.ctlOut ++ [⟨5, leBytes 2 (k.rxNext % 65536)⟩] })

/-- In a running exchange: a HELLO whose chain passes stores the peer's leaf, and an initiator sends KEM_EK; one that
fails stops the exchange. A KEM_EK with a good signature makes the responder send KEM_CT and FINISHED and hold K; a
KEM_CT makes the initiator hold K and send FINISHED; a matching FINISHED is taken, and with both done the link goes to
CONFIG; a bad signature or FINISHED stops the exchange and is counted. ABORT stops it. After 1 ms everything sent is
sent again. In ACTIVE, REKEY_EK is answered and gives the next key; REKEY_CT gives it and announces the flit number
2,048 ahead; an announcement moves both directions. Nothing changes but the link, free draws and errors. (R122, R495,
R496, R497, R498, R505, R506) -/
def Obligations.LinkKeyExchange : Prop :=
  let stops := fun (l : LinkId) (b : Nat) (s t : State) => (t.link l).kex.stopped = true ∧ (t.link l).kex.sent = []
    ∧ (t.link l).train = .secure ∧ bit (t.rd Reg.secErr) b = true
    ∧ (t.rd Reg.secAuthFail).toNat = min ((s.rd Reg.secAuthFail).toNat + 1) 0xFFFFFFFF
    ∧ LinkEffect [l] (recordRegs Reg.secErr ++ [Reg.secErrCapture, Reg.secAuthFail]) s t
  let front := fun (l : LinkId) (s : State) (n : BitVec 8) (m : Bytes) => s.kexRuns l = true
    ∧ ∃ rest, (s.link l).kex.inbox = (n, m) :: rest
  let config := fun (p : Port) => recordRegs (Reg.portErr p.val) ++ [Reg.secSecureDone]
  (∀ (l : LinkId) (m : Bytes) (s : State), front l s 1 m → (s.link l).kex.helloPeer = [] →
    let kind := leafKind (((s.link l).peer.map (·.kind)).getD 0)
    ∃ t, exec (.secureHello l) s = .next t
    ∧ (s.checkChain (m.drop 32) kind = .bad → stops l 0 s t)
    ∧ (s.checkChain (m.drop 32) kind = .untrusted → stops l 1 s t)
    ∧ (∀ leaf, s.checkChain (m.drop 32) kind = .ok leaf → LinkEffect [l] [] s t ∧ (t.link l).kex.peerOk = true
        ∧ (t.link l).kex.peerLeaf = leaf ∧ (t.link l).kex.helloPeer = m ∧ (t.link l).train = .secure
        ∧ ((s.link l).kex.initiator = true → ∃ sig, (t.link l).kex.sent = [(2, (t.link l).kex.ek ++ sig)]
            ∧ (t.link l).kex.h1 = Config.shake256 ((s.link l).kex.helloOwn ++ m ++ (t.link l).kex.ek) 64)
        ∧ ((s.link l).kex.initiator = false → (t.link l).kex.sent = [])))
  ∧ (∀ (l : LinkId) (m : Bytes) (s : State), front l s 2 m → (s.link l).kex.initiator = false → (s.link l).kex.peerOk = true →
    (s.link l).kex.finSent = false →
    let x := (s.link l).kex
    let h1 := Config.shake256 (x.helloPeer ++ x.helloOwn ++ byteRun m 0 1568) 64
    let good := Config.falconVerify (certKey x.peerLeaf) h1 (byteRun m 1568 1280)
    ∃ t, exec (.secureKemEk l) s = .next t ∧ (good = false → stops l 0 s t)
    ∧ (good = true → (t.link l).kex.finSent = true ∧ (t.link l).train = (if x.finGot then .config else .secure)
        ∧ LinkEffect [l] (config l.port) s t
        ∧ ∃ v, (t.link l).kex.k = some (Config.shake256 (ascii "THOADE-LINK" ++ (Config.kemEncaps (byteRun m 0 1568) v).2
            ++ Config.shake256 (h1 ++ (Config.kemEncaps (byteRun m 0 1568) v).1) 64) 136)
          ∧ ∃ sig fin, (t.link l).kex.sent = [(3, (Config.kemEncaps (byteRun m 0 1568) v).1 ++ sig), (4, fin)]))
  ∧ (∀ (l : LinkId) (m : Bytes) (s : State), front l s 3 m → (s.link l).kex.initiator = true → (s.link l).kex.peerOk = true →
    (s.link l).kex.finSent = false →
    let x := (s.link l).kex
    let h2 := Config.shake256 (x.h1 ++ byteRun m 0 1568) 64
    let good := Config.falconVerify (certKey x.peerLeaf) h2 (byteRun m 1568 1280)
    let key := Config.shake256 (ascii "THOADE-LINK" ++ Config.kemDecaps x.dk (byteRun m 0 1568) ++ h2) 136
    ∃ t, exec (.secureKemCt l) s = .next t ∧ (good = false → stops l 0 s t)
    ∧ (good = true → (t.link l).kex.finSent = true ∧ (t.link l).kex.k = some key
        ∧ (t.link l).kex.sent = [(4, Config.shake256 (ascii "FIN-I" ++ key) 32)]
        ∧ (t.link l).train = (if x.finGot then .config else .secure) ∧ LinkEffect [l] (config l.port) s t))
  ∧ (∀ (l : LinkId) (m key : Bytes) (s : State), front l s 4 m → (s.link l).kex.k = some key → (s.link l).kex.finGot = false →
    let good := m == Config.shake256 (ascii (if (s.link l).kex.initiator then "FIN-R" else "FIN-I") ++ key) 32
    ∃ t, exec (.secureFinished l) s = .next t ∧ (good = false → stops l 0 s t)
    ∧ (good = true → (t.link l).kex.finGot = true ∧ (t.link l).kex.sent = []
        ∧ (t.link l).train = (if (s.link l).kex.finSent then .config else .secure) ∧ LinkEffect [l] (config l.port) s t
        ∧ ((s.link l).kex.finSent = true →
            (t.rd Reg.secSecureDone).toNat = min ((s.rd Reg.secSecureDone).toNat + 1) 0xFFFFFFFF)))
  ∧ (∀ (l : LinkId) (m : Bytes) (s : State) (rest : List (BitVec 8 × Bytes)), (s.link l).train = .secure →
    (s.link l).kex.inbox = (5, m) :: rest →
    ∃ t, exec (.secureAbort l) s = .next t
    ∧ Relinked s t l { s.link l with kex := { (s.link l).kex with inbox := rest, stopped := true, sent := [] } })
  ∧ (∀ (l : LinkId) (s : State), s.kexRuns l = true → (s.link l).kex.sent ≠ [] → (s.link l).kex.lastTick + 125000 ≤ s.bell.ticks →
    ∃ t, exec (.secureResend l) s = .next t
    ∧ t.out = (((s.link l).kex.sent.flatMap (fun m => fragments m.1 m.2)).map (fun c => Out.flit l (secureFlit c))).reverse ++ s.out
    ∧ Relinked (s.withOut t.out) t l { s.link l with kex := { (s.link l).kex with lastTick := s.bell.ticks } })
  ∧ (∀ (l : LinkId) (m : Bytes) (s : State) (rest : List (BitVec 8 × Bytes)), (s.link l).train = .active →
    (s.link l).kex.inbox = (0x11, m) :: rest → (s.link l).encrypted = true → (s.link l).nextKey = none →
    ((s.link l).kex.rekeyOwn = true → (s.link l).kex.initiator = false) → s.entropyOk = true →
    ∃ t v, exec (.rekeyEk l) s = .next t ∧ (t.link l).nextKey.isSome = true ∧ (t.link l).kex.rekeyOwn = false
    ∧ (t.link l).ctlOut = (s.link l).ctlOut ++ (fragments 0x12 (Config.kemEncaps m v).1).map (fun c => ⟨3, c⟩)
    ∧ (t.link l).key = (s.link l).key ∧ LinkEffect [l] [] s t)
  ∧ (∀ (l : LinkId) (m : Bytes) (s : State) (rest : List (BitVec 8 × Bytes)), (s.link l).train = .active →
    (s.link l).kex.inbox = (0x12, m) :: rest → (s.link l).kex.rekeyOwn = true →
    let n := max (s.link l).txNext (s.link l).rxNext + 2048
    ∃ t, exec (.rekeyCt l) s = .next t ∧ (t.link l).nextKey.isSome = true ∧ (t.link l).kex.rekeyOwn = false
    ∧ (t.link l).txSwitch = some n
    ∧ (t.link l).ctlOut = (s.link l).ctlOut ++ [⟨2, leBytes 8 n⟩] ∧ (t.link l).key = (s.link l).key ∧ LinkEffect [l] [] s t)
  ∧ (∀ (l : LinkId) (n : Nat) (s : State), (s.link l).ctlIn = some n → (s.link l).nextKey.isSome = true →
    let m := max n ((s.link l).txSwitch.getD 0)
    ∃ t, exec (.linkCtlRekeyAnnounce l) s = .next t
    ∧ Relinked s t l { s.link l with ctlIn := none, txSwitch := some m })

/-- In CONFIG the link sends an IDLE flit with the next count. In ACTIVE, with no link-layer flit waiting: during a replay
it sends the stored flit due; with its replay buffer full and no replay it sends HOLD and counts it; otherwise it
sends one flit with the next count, which joins the replay buffer: an IDLE flit where no frame is queued, and in an
open window the next content of the frame that R173 picks, for one credit, where its class has credit and its gate is
open. Pool memory, tables and every link's training state are unchanged. (R98, R104, R106, R108, R112, R113, R172,
R173) -/
def Obligations.EgressFlits : Prop :=
  (∀ (l : LinkId) (sub : BitVec 6) (s : State), let k := s.link l
    k.train = .config →
    ∃ t f, exec (.egressFlitPosition l sub) s = .next t ∧ t.out = .flit l f :: s.out ∧ flType f = 0
    ∧ flRoll f = k.txNext % 65536 ∧ (t.link l).txNext = k.txNext + 1 ∧ (t.link l).replay = k.replay ++ [f]
    ∧ (∀ l', l' ≠ l → t.link l' = s.link l') ∧ t = (s.withLinks t.links).withOut t.out)
  ∧ (∀ (l : LinkId) (sub : BitVec 6) (s : State) (n : Nat) (f : Flit), let k := s.link l
    k.train = .active → k.ctlOut = [] → (s.gateway l.port).combine = [] → k.txNext < k.keyBase + 2 ^ 32 →
    k.replayPos = some n → k.replay[n - k.replayBase]? = some f →
    ∃ t, exec (.egressFlitPosition l sub) s = .next t ∧ t.out = .flit l f :: s.out
    ∧ Relinked (s.withOut t.out) t l
        { k with replayPos := if n + 1 < k.replayBase + k.replay.length then some (n + 1) else none })
  ∧ (∀ (l : LinkId) (sub : BitVec 6) (s : State), let k := s.link l
    k.train = .active → k.ctlOut = [] → (s.gateway l.port).combine = [] → k.txNext < k.keyBase + 2 ^ 32 →
    k.replayPos = none → k.replaySize ≤ k.replay.length →
    ∃ t f, exec (.egressFlitPosition l sub) s = .next t ∧ t.out = .flit l f :: s.out ∧ flType f = 4
    ∧ Counted (Reg.portHold l.port.val) 1 s t ∧ RegsOnly [Reg.portHold l.port.val] (s.withOut t.out) t)
  ∧ (∀ (l : LinkId) (sub : BitVec 6) (s : State), let k := s.link l
    k.train = .active → k.ctlOut = [] → (s.gateway l.port).combine = [] → k.txNext < k.keyBase + 2 ^ 32 →
    k.replayPos = none → k.replay.length < k.replaySize → k.looped = false → k.tsDue = false →
    ∃ t f, exec (.egressFlitPosition l sub) s = .next t ∧ .flit l f ∈ t.out ∧ flRoll f = k.txNext % 65536
    ∧ (t.link l).txNext = k.txNext + 1 ∧ (t.link l).replay = k.replay ++ [f]
    ∧ FabricEffect (Reg.portSchedStall l.port.val :: fabricRegs) s t
    ∧ (s.sw.queue = [] → flType f = 0)
    ∧ ∀ (w : BitVec 128) (e : QEntry), let c : Cls := ⟨ttClass w % 8, Nat.mod_lt _ (by decide)⟩
      s.openWindow l = some w → bit (s.gate l.port) c.val = true → s.inRecess 0 l.port.val = false →
      k.emptyWindows = false → s.scheduledPick l w c sub = some e →
      (k.credits[c.val] = 0 → flType f = 0 ∧ Counted (Reg.portSchedStall l.port.val) 1 s t)
      ∧ (k.credits[c.val] ≠ 0 → flType f = 1 ∧ flClass f = c ∧ (flFirst f = true ↔ e.sent = 0)
          ∧ (k.encrypted = false → f.payload = byteRun ((e.bytes.drop (240 * e.sent)).take 240) 0 240)
          ∧ (t.link l).credits[c.val] = k.credits[c.val] - 1))

/-- At an A-role port a request of a job that is admitted and unpoliced joins a queue toward its route, and its agent's
record opens; one of a job that is not admitted gets DENIED and is counted. A whole store-and-forward frame with the
right counts becomes eligible. At a local output: a request whose check fails gets CHECK; one that the mortise check
refuses gets that status; a LINE_READ of WINDOW or STACK that passes returns the 128 bytes stored (zeros in an
unwritten plank); a LINE_WRITE there stores its payload at its line, zero-fills the rest of an unwritten plank, and
changes no other byte; a MSG that passes waits for its row. (R16, R132, R138, R140, R143, R147, R160, R163, R168,
R191) -/
def Obligations.FramesEnterAndAreChecked : Prop :=
  (∀ (l : LinkId) (c : Cls) (s : State) (a : Arriving), let k := s.link l
    let f : Frame := ⟨BitVec.ofNat 256 (leNat (byteRun a.bytes 0 32)), [], 0⟩
    k.arriving.find? (fun x => x.cls == c && x.entry.isNone && !x.dropped) = some a → bits k.cfg.toNat 5 4 = 1 →
    k.v09 = false → f.isCpl = false →
    ∃ t, exec (.ingressFirstFlit l c) s = .next t ∧ FabricEffect fabricRegs s t
    ∧ (s.admitSlot l.port f.job = none → Counted Reg.mortAdmitDrop 1 s t ∧ bit (t.rd Reg.mortErr) 2 = true
        ∧ ∃ e ∈ t.sw.queue, e.dest = .port l.port ∧ (⟨e.hdr, [], 0⟩ : Frame).isCpl = true
          ∧ (⟨e.hdr, [], 0⟩ : Frame).tag = f.tag ∧ (⟨e.hdr, [], 0⟩ : Frame).status = St.denied)
    ∧ (∀ slot, s.admitSlot l.port f.job = some slot → s.polRate (s.polSel l.port.val slot c.val) = 0 → s.openFrom l.port f < 512 →
        (f.dest = s.swNum ∨ (s.route f.dest (portIn l.port) c).isSome = true) →
        t.mort.agents = s.mort.agents ++ [⟨l.port, f.srcSwitch, f.srcUnit, f.tag, f.seq, f.dest, l.val % 2 == 1⟩]
        ∧ ∃ e, t.sw.queue = s.sw.queue ++ [e] ∧ e.id = s.sw.nextId ∧ e.input = portIn l.port ∧ e.cls = c ∧ e.hdr = f.hdr
          ∧ e.bytes = a.bytes ∧ e.whole = a.whole ∧ e.tick = a.tick ∧ (f.dest = s.swNum → e.dest = .home)
          ∧ ∀ q, f.dest ≠ s.swNum → s.route f.dest (portIn l.port) c = some q → e.dest = .port q))
  ∧ (∀ (l : LinkId) (c : Cls) (s : State) (e : QEntry),
    s.sw.queue.find? (fun e => e.input == portIn l.port && e.half1 == (l.val % 2 == 1) && e.cls == c && e.saf && e.whole
      && !e.eligible) = some e →
    ∃ t, exec (.safFrameComplete l c) s = .next t ∧ FabricEffect fabricRegs s t
    ∧ (e.flits = frameFlits (⟨e.hdr, [], 0⟩ : Frame).len → e.bytes.length = 36 + (⟨e.hdr, [], 0⟩ : Frame).len →
        t = s.withSw { s.sw with queue := s.sw.queue.map (fun x => if x.id == e.id then { x with eligible := true } else x) })
    ∧ (e.flits ≠ frameFlits (⟨e.hdr, [], 0⟩ : Frame).len → Counted Reg.swLenDrop 1 s t ∧ bit (t.rd Reg.swErr) 0 = true
        ∧ ((⟨e.hdr, [], 0⟩ : Frame).isCpl = false → Answerable s ⟨e.hdr, [], 0⟩ c → Completed ⟨e.hdr, [], 0⟩ St.check [] s t)))
  ∧ (∀ (k : Fin 12) (s : State) (e : QEntry), let f := Frame.ofBytes e.bytes
    s.homeNext k = some e → f.isCpl = false → (e.short = true ∨ f.payload.length ≠ f.len ∨ f.checkOk = false) →
    f.opcode ≠ 0x48 → f.opcode ≠ 0x40 → Answerable s f e.cls →
    ∃ t, exec (.mortiseCheck k) s = .next t ∧ FabricEffect fabricRegs s t ∧ Counted Reg.mortCheck 1 s t
    ∧ bit (t.rd Reg.mortErr) 0 = true ∧ Completed f St.check [] s t)
  ∧ (∀ (k : Fin 12) (s : State) (e : QEntry) (f : Frame) (st : Status),
    s.homeNext k = some e → SoundRequest e f → f.opcode ∉ ([0x30, 0x40, 0x48, 0x50, 0x58] : List (BitVec 8)) →
    s.admitFrame ((portOf e.input.val).map s.portPartition) f (requestExtent f).1 (requestExtent f).2 (opRights f) = .mortise st →
    delivers st = false → Answerable s f e.cls →
    ∃ t, exec (.mortiseCheck k) s = .next t ∧ FabricEffect fabricRegs s t ∧ Completed f st [] s t
    ∧ (st = St.fenced → Counted Reg.mortFenced 1 s t ∧ bit (t.rd Reg.mortErr) 4 = true)
    ∧ (st ≠ St.fenced → Counted Reg.mortDenied 1 s t ∧ bit (t.rd Reg.mortErr) 3 = true))
  ∧ (∀ (k : Fin 12) (s : State) (e : QEntry) (f : Frame) (d : DrawerId) (o : Nat), let plank := o / plankBytes
    let base := physical (plank * plankBytes)
    let a := base + o % plankBytes / 128 * 128
    s.homeNext k = some e → SoundRequest e f →
    s.admitFrame ((portOf e.input.val).map s.portPartition) f (requestExtent f).1 (requestExtent f).2 (opRights f) = .ok d o false →
    s.region o ≠ some .tiered → s.mort.served = [] → s.sw.passed = [] → Answerable s f e.cls →
    (f.opcode = 0x01 → f.scope = 0 → s.badIn a 128 = [] →
      ∃ t, exec (.mortiseCheck k) s = .next t ∧ FabricEffect fabricRegs s t
      ∧ (s.pool.written.get false plank = true → Completed f St.ok (s.memRead a 128) s t)
      ∧ (s.pool.written.get false plank = false → Completed f St.ok (List.replicate 128 0) s t))
    ∧ (f.opcode = 0x02 →
      ∃ t, exec (.mortiseCheck k) s = .next t ∧ FabricEffect fabricRegs (s.withPool t.pool) t ∧ Completed f St.ok [] s t
      ∧ (∀ i < 128, t.pool.mem.get 0 (a + i) = f.payload.getD i 0)
      ∧ (∀ x, base ≤ x → x < base + plankBytes → (x < a ∨ a + 128 ≤ x) →
          t.pool.mem.get 0 x = if s.pool.written.get false plank then s.pool.mem.get 0 x else 0)
      ∧ (∀ x, (x < base ∨ base + plankBytes ≤ x) → t.pool.mem.get 0 x = s.pool.mem.get 0 x)
      ∧ t.pool.map = s.pool.map ∧ t.pool.written.get false plank = true))
  ∧ (∀ (k : Fin 12) (s : State) (e : QEntry) (f : Frame),
    s.homeNext k = some e → SoundRequest e f → f.opcode = 0x30 →
    s.mortise12 ((portOf e.input.val).map s.portPartition) f.job = none →
    ∃ t, exec (.mortiseCheck k) s = .next t ∧ FabricEffect [] s t
    ∧ ∃ p, t.sw.passed = s.sw.passed ++ [p] ∧ p.frame = f ∧ p.cls = e.cls ∧ p.cluster = k ∧ p.drawer = none)

/-- A passed MSG for an active A-role port that admits its job is queued toward it, and one that is not deliverable gets
DENIED; an acknowledged message is completed. A completion for an agent goes to its port; one for a gateway's own tag
closes the tag with its status and data; one that matches nothing raises TAG_ERR. A tag past MORT_REQ_TIMEOUT closes
with TIMEOUT. The drain bound ends every request open toward the drawer. The shred advances the drawer's KEY_GEN,
makes it FREE in both banks, empties the written bitmap of its planks and counts; a map reset leaves its TIERED planks
ZERO. No byte of memory changes. (R19, R133, R138, R139, R140, R141, R150, R191, R193) -/
def Obligations.MessagesTagsAndRecalls : Prop :=
  let gw := fun (q : Purpose) => (∃ p a b c, q = .gwFlush p a b c) ∨ ∃ p a b c, q = .gwFetch p a b c
  (∀ (s : State) (p : Passed), s.sw.passed.find? (fun p => p.frame.opcode == 0x30) = some p →
    ∃ t, exec .msgDeliver s = .next t ∧ FabricEffect fabricRegs s t
    ∧ t.sw.passed = s.sw.passed.filter (fun q => q.id != p.id)
    ∧ (∀ q, portOf (p.frame.addr.toNat % 256) = some q → s.role q = 1 → s.portActive q = true →
        (s.admitSlot q p.frame.job).isSome = true →
        t.mort.msgs = s.mort.msgs ++ [⟨q, p.frame, p.cls, s.sw.nextId⟩]
        ∧ ∃ e, t.sw.queue = s.sw.queue ++ [e] ∧ e.id = s.sw.nextId ∧ e.dest = .port q ∧ e.cls = p.cls ∧ e.bytes = p.frame.toBytes)
    ∧ (∀ q, portOf (p.frame.addr.toNat % 256) = some q → s.role q ≠ 1 → Answerable s p.frame p.cls →
        Completed p.frame St.denied [] s t))
  ∧ (∀ (p : Port) (s : State) (m : Msg) (st : Status), s.mort.msgs.find? (fun m => (s.msgState p m).isSome) = some m →
    s.msgState p m = some st → Answerable s m.frame m.cls →
    ∃ t, exec (.msgAcked p) s = .next t ∧ FabricEffect fabricRegs s t ∧ t.mort.msgs = s.mort.msgs.erase m
    ∧ Completed m.frame st [] s t)
  ∧ (∀ (k : Fin 12) (s : State) (e : QEntry), let f := Frame.ofBytes e.bytes
    s.homeNext k = some e → f.isCpl = true →
    ∃ t, exec (.cplReceive k) s = .next t
    ∧ (∀ a, s.mort.tags.find? (fun t => t.tag == f.tag && t.seq == f.seq) = none → s.agentOf f = some a →
        FabricEffect fabricRegs s t ∧ t.mort.agents = s.mort.agents.erase a
        ∧ ∃ e' ∈ t.sw.queue, e'.dest = .port a.port ∧ e'.hdr = f.hdr ∧ e'.bytes = f.toBytes)
    ∧ (s.mort.tags.find? (fun t => t.tag == f.tag && t.seq == f.seq) = none → s.agentOf f = none →
        FabricEffect fabricRegs s t ∧ bit (t.rd Reg.mortErr) 1 = true)
    ∧ (∀ g, s.mort.tags.find? (fun t => t.tag == f.tag && t.seq == f.seq) = some g → e.short = false → cplChecks g f = true →
        gw g.purpose → (∀ w ∈ s.mort.tagQueue, w.unit ≠ g.unit) →
        FabricEffect fabricRegs s t ∧ t.mort.tags = s.mort.tags.erase g
        ∧ t.mort.done = s.mort.done ++ [⟨g.purpose, f.status, f.flags, if delivers f.status then f.payload else []⟩]))
  ∧ (∀ (unit : BitVec 10) (tag : Fin 512) (s : State) (g : Tag),
    s.mort.tags.find? (fun t => t.unit == unit && t.tag.toNat == tag.val) = some g → g.born + s.reqTimeout ≤ s.bell.bounds →
    gw g.purpose → (∀ w ∈ s.mort.tagQueue, w.unit ≠ g.unit) →
    ∃ t, exec (.tagTimeout unit tag) s = .next t ∧ FabricEffect fabricRegs s t ∧ t.mort.tags = s.mort.tags.erase g
    ∧ t.mort.done = s.mort.done ++ [⟨g.purpose, St.timeout, 0, []⟩])
  ∧ (∀ (d : DrawerId) (s : State) (r : Recall),
    s.mort.recalls.find? (fun r => r.drawer == d && !r.drained && decide (r.at_ + 4 ≤ s.bell.bounds)) = some r →
    (∀ q ∈ s.mort.served, q.wait ≠ .promotion) →
    ∃ t, exec (.drainBoundExpiry d) s = .next t ∧ (∀ q ∈ t.mort.served, q.drawer ≠ d)
    ∧ { r with drained := true } ∈ t.mort.recalls ∧ t.pool.mem = s.pool.mem ∧ TablesSame s t
    ∧ (∀ q ∈ s.mort.served, q.drawer = d → Answerable s q.frame q.cls → Completed q.frame St.fenced [] s t))
  ∧ (∀ (d : DrawerId) (s : State) (r : Recall),
    s.mort.recalls.find? (fun r => r.drawer == d && r.drained && decide (r.at_ + 5 ≤ s.bell.bounds)) = some r →
    let e := s.drawer d.val
    ∃ t, exec (.drawerShred d) s = .next t ∧ t.drawer d.val = shredEntry e ∧ drwState (t.drawer d.val) = 0
    ∧ drwKeyGen (t.drawer d.val) = (drwKeyGen e + 1) % 65536 ∧ (∀ i, i ≠ d.val → t.drawer i = s.drawer i)
    ∧ t.mort.recalls = s.mort.recalls.erase r ∧ t.pool.mem = s.pool.mem ∧ Counted Reg.secShreds 1 s t
    ∧ (∀ plank, drwBase e / plankBytes ≤ plank → plank < (drwBase e + drwSize e) / plankBytes →
        t.pool.written.get false plank = false)
    ∧ ChangesOnly (Reg.secShreds :: recordRegs Reg.poolErr ++ [Reg.poolErrCapture])
        (((s.withMort t.mort).withPool t.pool).withDir t.dir) t)
  ∧ (∀ (d : DrawerId) (s : State) (r : Nat × Nat × Nat), s.pool.resets.find? (fun r => r.1 == d.val) = some r →
    (∀ q ∈ s.mort.served, q.wait ≠ .promotion) →
    ∃ t, exec (.mapResetDone d) s = .next t ∧ t.pool.resets = s.pool.resets.erase r ∧ t.pool.mem = s.pool.mem
    ∧ (∀ i, r.2.1 ≤ i → i < r.2.2 → (t.mapEntry (i + tieredBase / plankBytes)).state = .zero)
    ∧ t = s.withPool t.pool)

/-- A line write that the port combines and no buffer takes opens a buffer with its bytes and completes OK. A buffer past
FLUSH_PERIODS leaves as one PLANK_MERGE, sent or waiting for a tag. A flush that completes OK leaves nothing behind;
one that fails is kept for the next ORDER completion and raises FLUSH_FAIL. An ORDER frame starts the flushes of its
job toward its switch and is held; with none open it is sent on. A line read that no buffer serves fetches its plank,
one that a filled young buffer holds completes with the line; the fetched plank completes every read that waits. Pool
memory is unchanged. (R140, R152, R153, R154, R264, R275) -/
def Obligations.GatewayPorts : Prop :=
  let head := fun (s : State) (p : Port) (kind : Frame → Cls → Bool) (e : QEntry) (f : Frame) => s.gatewayHead p kind = some (e, f)
  let asked := fun (s : State) (q : Purpose) => (∃ g ∈ s.mort.tags, g.purpose = q) ∨ ∃ w ∈ s.mort.tagQueue, w.purpose = q
  (∀ (p : Port) (s : State) (e : QEntry) (f : Frame), head s p (fun f c => s.combines p f c) e f →
    s.gatewayCheck p e f = none → (s.gateway p).combine.any (fun b => b.meets f && b.cls == e.cls) = false →
    (s.gateway p).combine.length < 8 → Answerable s f e.cls →
    ∃ t, exec (.gwCombineWrite p) s = .next t ∧ FabricEffect fabricRegs s t ∧ Completed f St.ok [] s t
    ∧ ∃ b, (t.gateway p).combine = (s.gateway p).combine ++ [b] ∧ b.meets f = true ∧ b.cls = e.cls ∧ b.at_ = s.bell.bounds
      ∧ b.lines.get 0 (f.addr.toNat / 128 % 256)
          = (if f.opcode = 0x02 then BitVec.allOnes 128 else BitVec.ofNat 128 (field f.payload 0 16))
      ∧ (f.opcode = 0x02 → ∀ j < 128, b.data.get 0 (128 * (f.addr.toNat / 128 % 256) + j) = f.payload.getD j 0))
  ∧ (∀ (p : Port) (i : Fin 8) (s : State) (b : Combine), (s.gateway p).combine[i.val]? = some b →
    b.at_ + s.flushPeriods p ≤ s.bell.bounds →
    ∃ t, exec (.gwFlushTimeout p i) s = .next t ∧ FabricEffect fabricRegs s t
    ∧ (t.gateway p).combine = (s.gateway p).combine.erase b
    ∧ (t.gateway p).flushing = (s.gateway p).flushing ++ [(b.job.toNat, b.dest.toNat, b.plank.toNat)]
    ∧ asked t (.gwFlush p b.job.toNat b.dest.toNat b.plank.toNat))
  ∧ (∀ (p : Port) (s : State) (d : TagDone) (j w k : Nat), s.mort.done.find? (fun d => match d.purpose with
      | .gwFlush q _ _ _ => q == p
      | _ => false) = some d → d.purpose = .gwFlush p j w k →
    ∃ t, exec (.gwFlushComplete p) s = .next t ∧ t.mort.done = s.mort.done.erase d
    ∧ FabricEffect (recordRegs Reg.mortErr ++ [Reg.mortErrCapture, Reg.mortErrCaptureSw]) s t
    ∧ (t.gateway p).flushing = (s.gateway p).flushing.erase (j, w, k)
    ∧ (d.status = St.ok → t = s.withMort t.mort ∧ (t.gateway p).failed = (s.gateway p).failed)
    ∧ (d.status ≠ St.ok → bit (t.rd Reg.mortErr) 8 = true ∧ (t.gateway p).failed.any (fun x => x.1 == (j, w)) = true))
  ∧ (∀ (p : Port) (s : State) (e : QEntry) (f : Frame), head s p (fun f _ => f.opcode == 0x50) e f →
    ∃ t, exec (.gwOrderFrame p) s = .next t ∧ FabricEffect fabricRegs s t
    ∧ (t.gateway p).held = (s.gateway p).held ++ [(f, e.cls)]
    ∧ (∀ b ∈ (t.gateway p).combine, ¬ (b.dest = f.dest ∧ b.job = f.job))
    ∧ ∀ b ∈ (s.gateway p).combine, b.dest = f.dest → b.job = f.job → asked t (.gwFlush p b.job.toNat b.dest.toNat b.plank.toNat))
  ∧ (∀ (p : Port) (s : State) (f : Frame) (c : Cls),
    (s.gateway p).held.find? (fun h => !(s.gateway p).flushing.any (fun q => q.1 == h.1.job.toNat && q.2.1 == h.1.dest.toNat))
      = some (f, c) →
    ∃ t, exec (.gwOrderForward p) s = .next t ∧ FabricEffect [] s t ∧ (t.gateway p).held = (s.gateway p).held.erase (f, c)
    ∧ ∃ e, t.sw.queue = s.sw.queue ++ [e] ∧ e.dest = .port p ∧ e.cls = c ∧ e.bytes = f.toBytes ∧ e.past = true)
  ∧ (∀ (p : Port) (s : State) (e : QEntry) (f : Frame), head s p (fun f c => s.readsAhead p f c) e f →
    (s.gateway p).holds f = false →
    let g := s.gateway p
    let found := g.ahead.find? (fun a => (a.dest == f.dest && a.job == f.job && a.ak == f.ak && a.plank == framePlank f
      && a.cls == e.cls) && (!a.filled || decide (s.bell.bounds < a.at_ + s.flushPeriods p)))
    ∃ t, exec (.gwReadAhead p) s = .next t ∧ FabricEffect fabricRegs s t
    ∧ (found = none → asked t (.gwFetch p f.job.toNat f.dest.toNat (framePlank f).toNat)
        ∧ ∃ a ∈ (t.gateway p).ahead, a.plank = framePlank f ∧ a.filled = false ∧ a.waiting = [f] ∧ a.at_ = s.bell.bounds)
    ∧ (∀ a, found = some a → a.filled = true → f.opcode = 0x01 → Answerable s f e.cls → Completed f St.ok (a.line f) s t))
  ∧ (∀ (p : Port) (s : State) (d : TagDone) (a : ReadAhead), s.mort.done.find? (fun d => match d.purpose with
      | .gwFetch q _ _ _ => q == p
      | _ => false) = some d →
    (s.gateway p).ahead.find? (fun a => !a.filled && d.purpose == .gwFetch p a.job.toNat a.dest.toNat a.plank.toNat) = some a →
    (∀ f ∈ a.waiting, Answerable s f a.cls) →
    ∃ t, exec (.gwReadaheadFill p) s = .next t ∧ FabricEffect fabricRegs s t ∧ t.mort.done = s.mort.done.erase d
    ∧ (delivers d.status = true →
        (∀ f ∈ a.waiting, f.opcode = 0x01 → Completed f d.status ((Tab.putRun 0 [] 0 d.data).getRun 0 (f.addr.toNat % plankBytes / 128 * 128) 128) s t)
        ∧ ∃ b ∈ (t.gateway p).ahead, b.plank = a.plank ∧ b.filled = true ∧ b.waiting = [] ∧ b.at_ = s.bell.bounds)
    ∧ (delivers d.status = false → (∀ f ∈ a.waiting, Completed f d.status [] s t)
        ∧ (t.gateway p).ahead = (s.gateway p).ahead.erase a))

/-- When a best-effort port goes down and some destination has an alternate, the port is marked failed over, counted and
reported; a best-effort frame stuck there moves to its alternate's queue, and a frame with none is discarded with
TIMEOUT. A port that is back takes an input's classes whose queues toward the alternate are empty. A frame older than
its limit, or a scheduled frame left from before a switch-over for a whole term, is discarded: counted or reported,
and a request gets TIMEOUT. Pool memory and the tables are unchanged. (R81, R163, R164, R165, R166, R183) -/
def Obligations.SwitchCoreEvents : Prop :=
  (∀ (p : Port) (s : State), s.portUp p = false → s.hasAlternate p = true → s.sw.failed.contains p = false →
    ∃ t, exec (.egressPortDown p) s = .next t ∧ FabricEffect fabricRegs s t ∧ t.sw.failed = s.sw.failed ++ [p]
    ∧ (t.rd Reg.swFailover).toNat = min ((s.rd Reg.swFailover).toNat + 1) 0xFFFFFFFF ∧ bit (t.rd Reg.swErr) 4 = true)
  ∧ (∀ (p : Port) (s : State) (e : QEntry), s.portUp p = false → s.sw.queue.filter (s.stuck p) = [e] →
    ∃ t, exec (.egressPortDown p) s = .next t ∧ FabricEffect fabricRegs s t
    ∧ (∀ q, 4 ≤ e.cls.val → e.sent = 0 → s.alternate p (⟨e.hdr, [], 0⟩ : Frame).dest = some q →
        t.sw.queue = s.sw.queue.filter (fun x => x.id != e.id) ++ [{ e with dest := .port q, toHalf1 := none }])
    ∧ (e.cls.val < 4 → (⟨e.hdr, [], 0⟩ : Frame).isCpl = false → (∀ m ∈ s.mort.msgs, m.entry ≠ e.id) →
        Answerable s ⟨e.hdr, [], 0⟩ e.cls → Completed ⟨e.hdr, [], 0⟩ St.timeout [] s t ∧ Counted Reg.swNoroute 1 s t))
  ∧ (∀ (p : Port) (i : InputId) (s : State), p ∈ s.sw.failed → s.portActive p = true → s.sw.backOn = [] → s.sw.queue = [] →
    exec (.failback p i) s
      = .next (s.withSw { s.sw with backOn := [(p, i, 4), (p, i, 5), (p, i, 6), (p, i, 7)] }))
  ∧ (∀ (i : InputId) (o : Port) (c : Cls) (s : State) (e : QEntry),
    let limit := fun (e : QEntry) => if 4 ≤ c.val then max 1 (bits (s.rd Reg.swBeAge).toNat 15 0) else e.len
    s.sw.queue.find? (fun e => e.input == i && e.dest == .port o && e.cls == c && e.sent == 0
        && (4 ≤ c.val || !e.crossed) && e.bound + limit e ≤ s.bell.bounds) = some e →
    ∃ t, exec (.ageDiscard i o c) s = .next t ∧ FabricEffect fabricRegs s t ∧ Counted Reg.swAgeDrop 1 s t
    ∧ bit (t.rd Reg.swErr) 2 = true
    ∧ ((⟨e.hdr, [], 0⟩ : Frame).isCpl = true → t.sw.queue = s.sw.queue.filter (fun x => x.id != e.id))
    ∧ ((⟨e.hdr, [], 0⟩ : Frame).isCpl = false → (∀ m ∈ s.mort.msgs, m.entry ≠ e.id) → Answerable s ⟨e.hdr, [], 0⟩ e.cls →
        Completed ⟨e.hdr, [], 0⟩ St.timeout [] s t))
  ∧ (∀ (i : InputId) (o : Port) (c : Cls) (s : State) (e : QEntry),
    s.sw.queue.find? (fun e => e.input == i && e.dest == .port o && e.cls == c && e.crossed && e.sent == 0) = some e →
    s.tt.soAt + s.bell.len ≤ s.bell.bounds →
    ∃ t, exec (.strandedDiscard i o c) s = .next t ∧ FabricEffect (recordRegs Reg.ttErr ++ fabricRegs) s t
    ∧ bit (t.rd Reg.ttErr) 3 = true
    ∧ ((⟨e.hdr, [], 0⟩ : Frame).isCpl = true → t.sw.queue = s.sw.queue.filter (fun x => x.id != e.id))
    ∧ ((⟨e.hdr, [], 0⟩ : Frame).isCpl = false → (∀ m ∈ s.mort.msgs, m.entry ≠ e.id) → Answerable s ⟨e.hdr, [], 0⟩ e.cls →
        Completed ⟨e.hdr, [], 0⟩ St.timeout [] s t))

/-- A shaper burst or selection is stored and waits for the next slot boundary; profile 0 and classes 0 to 3 keep what
they read. A policer selection is stored and each class it changes holds its new profile's burst; a policer profile is
stored and every policer that uses it holds its burst; profile 0 is unchanged. A mirror write is stored and its
session counts from 0. A route entry is stored whole, and one with a reserved code raises ROUTE_RSVD; under the lock
nothing is stored. CLR_COUNTERS zeroes the block's counters. Nothing else changes. (R8, R162, R176, R178, R179, R181,
R183) -/
def Obligations.SwitchWrites : Prop :=
  (∀ (h : HostPort) (i : Fin 256) (v : Word) (s : State), Reaches s h (Reg.shapeBurst i.val) →
    ∃ t, exec (.shapeBurstWrite h i v) s = .next t ∧ (i.val = 0 → t = s.touch h)
    ∧ (i.val ≠ 0 → t.rd (Reg.shapeBurst i.val) = v &&& regMask (Reg.shapeBurst i.val) ∧ i ∈ t.sw.burstPend
        ∧ RegsOnly [Reg.shapeBurst i.val] ((s.touch h).withSw { s.sw with burstPend := t.sw.burstPend }) t))
  ∧ (∀ (h : HostPort) (p : Port) (c : Cls) (v : Word) (s : State), Reaches s h (Reg.swShapeSel p.val c.val) →
    ∃ t, exec (.shapeSelWrite h p c v) s = .next t ∧ (c.val < 4 → t = s.touch h)
    ∧ (4 ≤ c.val → t.rd (Reg.swShapeSel p.val c.val) = v &&& regMask (Reg.swShapeSel p.val c.val) ∧ (p, c) ∈ t.sw.selPend
        ∧ RegsOnly [Reg.swShapeSel p.val c.val] ((s.touch h).withSw { s.sw with selPend := t.sw.selPend }) t))
  ∧ (∀ (h : HostPort) (p : Port) (slot : Fin 16) (v : Word) (s : State), Reaches s h (Reg.swPolSel p.val slot.val) →
    ∃ t, exec (.polSelWrite h p slot v) s = .next t ∧ t.rd (Reg.swPolSel p.val slot.val) = v
    ∧ (∀ c < 8, bits (s.rd (Reg.swPolSel p.val slot.val)).toNat (4 * c + 3) (4 * c) ≠ bits v.toNat (4 * c + 3) (4 * c) →
        t.sw.police.get 0 (polKey p.val slot.val c) = 256 * s.polBurst (bits v.toNat (4 * c + 3) (4 * c)))
    ∧ (∀ q, (∀ c < 8, q ≠ polKey p.val slot.val c) → t.sw.police.get 0 q = s.sw.police.get 0 q)
    ∧ RegsOnly [Reg.swPolSel p.val slot.val]
        ((s.touch h).withSw { s.sw with police := t.sw.police, policeAt := t.sw.policeAt }) t)
  ∧ (∀ (h : HostPort) (i : Fin 16) (burst : Bool) (v : Word) (s : State),
    let off := if burst then Reg.polBurst i.val else Reg.polRate i.val
    Reaches s h off → s.regs.wf regReset = true →
    ∃ t, exec (.polProfileWrite h i burst v) s = .next t ∧ (i.val = 0 → t = s.touch h)
    ∧ (i.val ≠ 0 → t.rd off = v &&& regMask off
        ∧ (∀ p slot c, (p, slot, c) ∈ s.policersOf i.val → t.sw.police.get 0 (polKey p slot c) = 256 * t.polBurst i.val)
        ∧ RegsOnly [off] ((s.touch h).withSw { s.sw with police := t.sw.police, policeAt := t.sw.policeAt }) t))
  ∧ (∀ (h : HostPort) (m : Fin 8) (n : Bool) (v : Word) (s : State),
    let off := if n then Reg.mirN m.val else Reg.mirCfg m.val
    Reaches s h off →
    ∃ t, exec (.mirCfgWrite h m n v) s = .next t ∧ t.rd off = v &&& regMask off ∧ t.rd (Reg.mirCount m.val) = 0
    ∧ t.sw.mirSeen.get 0 m.val = 0
    ∧ RegsOnly [off, Reg.mirCount m.val] ((s.touch h).withSw { s.sw with mirSeen := t.sw.mirSeen }) t)
  ∧ (∀ (h : HostPort) (sw : Fin 4096) (v : Word) (s : State), Reaches s h (Reg.swRoute sw.val) →
    ∃ t, exec (.swRouteWrite h sw v) s = .next t
    ∧ (s.locked = false → t.rd (Reg.swRoute sw.val) = v
        ∧ ((2 ≤ bits v.toNat 25 24 ∨ bits v.toNat 31 26 ≠ 0) → bit (t.rd Reg.swErr) 5 = true)
        ∧ ChangesOnly (Reg.swRoute sw.val :: recordRegs Reg.swErr ++ [Reg.swErrCapture]) (s.touch h) t)
    ∧ (s.locked = true → bit (t.rd Reg.faultErr) 0 = true
        ∧ ChangesOnly (recordRegs Reg.faultErr ++ [Reg.faultErrCapture, Reg.faultLockedAddr]) (s.touch h) t))
  ∧ (∀ (h : HostPort) (s : State), Reaches s h Reg.swCtrl →
    let zeros := [Reg.swCtDemote, Reg.swLenDrop, Reg.swPartialDrop, Reg.swAgeDrop, Reg.swNoroute, Reg.swPoliceDrop,
      Reg.swFailover, Reg.swSampleDrop]
    ∃ t, exec (.swClrCounters h) s = .next t ∧ (∀ off ∈ zeros, t.rd off = 0) ∧ RegsOnly zeros (s.touch h) t)

/-- POOL_CTRL.INIT in TIMETABLE starts the initialization; in any other state it is counted as out of order and has no
other effect. Its end leaves every byte of pool memory at 0, no plank mapped, no object, the roll's tables empty,
INIT_DONE and the session bit set, and the device in RUN; with no tray, no flash and 572 GiB of direct stacked memory.
CLR_COUNTERS of the pool, of a stack and of the trays zero the block's counters and nothing else. (R31, R189, R221,
R223, R257, R532) -/
def Obligations.PoolSession : Prop :=
  (∀ (h : HostPort) (s : State), Reaches s h Reg.poolCtrl →
    ∃ t, exec (.poolInit h) s = .next t
    ∧ (s.boot.state = .timetable → t.boot.state = .poolInit ∧ t.pool.initBusy = true ∧ t.pool.initDone = false
        ∧ t.pool.mem = s.pool.mem ∧ RegsOnly [Reg.bootStampLo, Reg.bootStampHi] (((s.touch h).withPool t.pool).withBoot t.boot) t)
    ∧ (s.boot.state ≠ .timetable → Counted Reg.bootOrderIgnored 1 s t ∧ RegsOnly [Reg.bootOrderIgnored] (s.touch h) t))
  ∧ (∀ s : State, s.boot.state = .poolInit →
    ∃ t, exec .poolInitDone s = .next t ∧ t.boot.state = .run ∧ t.pool.initDone = true ∧ t.pool.initBusy = false
    ∧ t.pool.mem = [] ∧ t.pool.map = [] ∧ t.pool.frames = [] ∧ t.pool.written = [] ∧ t.pool.obj0 = [] ∧ t.pool.obj1 = []
    ∧ t.roll.cfg0 = [] ∧ t.roll.cfg1 = [] ∧ t.roll.station0 = [] ∧ t.roll.station1 = [] ∧ bit (t.rd Reg.scaleStatus) 0 = true
    ∧ (s.pool.trays = [] → t.pool.flashBytes = 0 ∧ t.pool.frameCount = 0 ∧ t.pool.direct = 572 * gib)
    ∧ t.bell = s.bell ∧ t.tt = s.tt ∧ t.links = s.links ∧ t.mort = s.mort ∧ t.dir = s.dir ∧ t.fault = s.fault ∧ t.mod = s.mod)
  ∧ (∀ (h : HostPort) (s : State), Reaches s h Reg.poolCtrl →
    let zeros := [Reg.poolPromotions, Reg.poolDemotions, Reg.poolStreams, Reg.poolExpands, Reg.poolDemoteCancel, Reg.poolReservedDrop]
    ∃ t, exec (.poolClrCounters h) s = .next t ∧ (∀ off ∈ zeros, t.rd off = 0) ∧ RegsOnly zeros (s.touch h) t)
  ∧ (∀ (h : HostPort) (k : StackId) (s : State), Reaches s h (Reg.stkCtrl k.val) →
    let zeros := [Reg.stkCorrLo k.val, Reg.stkCorrHi k.val, Reg.stkUncorr k.val, Reg.stkMacFail k.val, Reg.stkScrubPasses k.val]
    ∃ t, exec (.stkClrCounters h k) s = .next t ∧ (∀ off ∈ zeros, t.rd off = 0) ∧ RegsOnly zeros (s.touch h) t)
  ∧ (∀ (h : HostPort) (s : State), Reaches s h Reg.trayCtrl →
    let zeros := [Reg.trayDiscards, Reg.trayMacFail, Reg.trayVersionFail, Reg.trayVersionPinned, Reg.trayDemoteFail]
    ∃ t, exec (.trayClrCounters h) s = .next t ∧ (∀ off ∈ zeros, t.rd off = 0)
    ∧ (∀ p ∈ t.pool.trays, p.2.sectDemote = 0 ∧ p.2.sectGc = 0 ∧ p.2.sectWear = 0) ∧ t.pool.mem = s.pool.mem
    ∧ RegsOnly zeros ((s.touch h).withPool { s.pool with trays := t.pool.trays }) t)

/-- With no request waiting: the commit of a promotion whose entry is as it left it puts the plank into the free frame,
names it STACKED, counts it and changes no other byte of memory; one whose entry has changed changes neither map nor
memory. A request past the promotion limit gets TIMEOUT. The sweep clears the mark of a frame used since its last
pass, demotes an unmarked ALLOW_FLASH frame, and ends at FRAME_HIGH. A frame past its age starts its demotion.
POOL_MIGRATE of an object asks for the activity; of none it is DENIED. PLANK_DISCARD marks every plank DISCARDED and
completes with their number. (R201, R204, R206, R207, R208, R209, R210, R243, R248) -/
def Obligations.PlanksMove : Prop :=
  (∀ (e : EngineId) (s : State) (w : Work), s.nextWork e.val .commit = some w → s.mort.served = [] → w.goal = .promote →
    ∃ t, exec (.migrationCommit e) s = .next t
    ∧ ((s.mapEntry w.plank ≠ w.expects ∨ s.freeFrame ≠ none) → ∀ v ∈ t.pool.works, v.id ≠ w.id)
    ∧ (∀ f, s.mapEntry w.plank = w.expects → s.freeFrame = some f → w.ven = false →
        t.mapEntry w.plank = { w.old with state := .stacked, ven := false, tray := 0, up := false, loc := 8 * f, size := 0 }
        ∧ Counted Reg.poolPromotions 1 s t
        ∧ (∀ i < w.data.length, t.pool.mem.get 0 (s.frameBase f + i) = w.data.getD i 0)
        ∧ (∀ i, w.data.length ≤ i → i < plankBytes → t.pool.mem.get 0 (s.frameBase f + i) = 0)
        ∧ (w.data.length ≤ plankBytes → ∀ x, (x < s.frameBase f ∨ s.frameBase f + plankBytes ≤ x) →
            t.pool.mem.get 0 x = s.pool.mem.get 0 x)
        ∧ ∀ p, mapIndex p ≠ mapIndex w.plank → t.mapEntry p = s.mapEntry p)
    ∧ (s.mapEntry w.plank ≠ w.expects → t.pool.mem = s.pool.mem ∧ t.pool.map = s.pool.map))
  ∧ (∀ (s : State) (r : Served), let limit := max 1 (bits (s.rd Reg.poolPromoteLimit).toNat 15 0)
    s.mort.served.find? (fun r => r.wait == .promotion && decide (r.since + limit ≤ s.bell.bounds)) = some r →
    Answerable s r.frame r.cls →
    ∃ t, exec .promoteTimeout s = .next t ∧ Completed r.frame St.timeout [] s t ∧ bit (t.rd Reg.poolErr) 2 = true
    ∧ (∀ q ∈ t.mort.served, q.id ≠ r.id)
    ∧ ((∀ q ∈ s.mort.served, q.wait = .promotion → q.id = r.id) → t.pool.mem = s.pool.mem ∧ t.pool.map = s.pool.map))
  ∧ (∀ s : State, s.pool.sweeping = true →
    ∃ t, exec .pressureSweep s = .next t ∧ t.pool.mem = s.pool.mem
    ∧ (s.frameHigh ≤ s.framesFree → t = s.withPool { s.pool with sweeping := false })
    ∧ ∀ f r, s.framesFree < s.frameHigh → s.pool.frames.find? (fun p => p.2.valid && decide (s.pool.sweepAt ≤ p.1)) = some (f, r) →
        t.pool.sweepAt = f + 1
        ∧ (r.referenced = true → (t.pool.frames.get FrameRec.reset f).referenced = false ∧ t.pool.map = s.pool.map)
        ∧ (r.referenced = false → s.wanted r.plank = false → s.work r.plank = none → objTier (s.objectAt (r.plank * plankBytes)) = 2 →
            veneerPolicy (s.objectAt (r.plank * plankBytes)) ≠ 2 → (s.mapEntry r.plank).state = .stacked →
            (s.mapEntry r.plank).version ≠ 0xFFFF →
            t.mapEntry r.plank = { s.mapEntry r.plank with state := .moving, up := false }))
  ∧ (∀ s : State, s.pool.sweeping = false → s.framesFree < (s.rd Reg.poolFrameLow).toNat → s.framesFree < s.frameHigh →
    ∃ t, exec .pressureSweep s = .next t ∧ t.pool.sweeping = true ∧ t.pool.mem = s.pool.mem)
  ∧ (∀ (frame : Nat) (s : State), let r := s.pool.frames.get FrameRec.reset frame
    let obj := s.objectAt (r.plank * plankBytes)
    r.valid = true → objTier obj = 2 → objAge obj ≠ 0 → r.last / 1024 + objAge obj ≤ s.bell.bounds / 1024 → s.work r.plank = none →
    (s.mapEntry r.plank).state = .stacked → (s.mapEntry r.plank).version ≠ 0xFFFF →
    ∃ t, exec (.ageDemote frame) s = .next t ∧ t.mapEntry r.plank = { s.mapEntry r.plank with state := .moving, up := false }
    ∧ t.pool.mem = s.pool.mem ∧ t.pool.frames = s.pool.frames)
  ∧ (∀ (h : HostPort) (q : RingId) (s : State) (d : Desc), Starts s h q 0x18 d →
    let n := dField d 16 2
    let e := s.objTable.get 0 n
    ∃ t, exec (.poolMigrate h q) s = .next t ∧ t.pool = s.pool
    ∧ ((16384 ≤ n ∨ 1 < dField d 18 1 ∨ dField d 19 1 ≠ 0) →
        Completes h (startedDesc s d) St.rsvdSet.toNat 0 s t ∧ ChangesOnly (doneRegs h d) s t)
    ∧ (n < 16384 → dField d 18 1 ≤ 1 → dField d 19 1 = 0 → (objSize e = 0 ∨ s.pool.inert.get false n = true) →
        Completes h (startedDesc s d) St.denied.toNat 0 s t ∧ ChangesOnly (doneRegs h d) s t)
    ∧ (n < 16384 → dField d 18 1 ≤ 1 → dField d 19 1 = 0 → objSize e ≠ 0 → s.pool.inert.get false n = false →
        dField d 20 4 + dField d 24 4 ≤ objSize e / plankBytes →
        ChangesOnly [] (s.withFault t.fault) t ∧ ∃ a, t.fault.waiting = s.fault.waiting ++ [a] ∧ a.cls = 5 ∧ a.kind = 8 ∧ a.unit = n
          ∧ a.desc = some (h, d.id) ∧ t.fault = { s.fault with waiting := t.fault.waiting }))
  ∧ (∀ (h : HostPort) (q : RingId) (s : State) (d : Desc), Starts s h q 0x19 d → (∀ d ∈ s.sqInFlight h q, d.started = true → dType d ≠ 0x19) →
    d.progress = 0 → dField d 24 8 % plankBytes = 0 →
    let n := dField d 20 4
    let at_ := fun i => s.mortise none (dJob d) false (dAddr d 24 + BitVec.ofNat 64 (i * plankBytes)) plankBytes 2
    ∃ t, exec (.plankDiscard h q) s = .next t ∧ t.pool.mem = s.pool.mem
    ∧ ((∀ i < n, ∃ dn o sh, at_ i = .pass dn o sh ∧ s.region o = some .tiered ∧ (s.mapEntry (o / plankBytes)).state ≠ .moving) →
        Completes h (startedDesc s d) 0 n s t ∧ ChangesOnly (Reg.trayDiscards :: doneRegs h d) (s.withPool t.pool) t
        ∧ ∀ i < n, ∀ dn o sh, at_ i = .pass dn o sh → (t.mapEntry (o / plankBytes)).state = .discarded)
    ∧ (∀ st, n ≠ 0 → at_ 0 = .refuse st → Completes h (startedDesc s d) st.toNat 0 s t ∧ t.pool = s.pool))

/-- A line read whose flips leave it good changes nothing; a corrected one is counted and raises CORRECTED; one that
cannot be corrected is counted, raises its bit and stays bad until written, and a MAC mismatch is counted beside it.
Refresh changes nothing. At 85 degrees the stack goes to the high refresh rate and raises its bit. A patrol pass is
asked for when its interval has passed or on SCRUB_NOW; a running one ends and is counted; one that runs past twice
its interval raises SCRUB_LATE. A retrained interface raises its bit. No byte of memory changes. (R214, R215, R216,
R223, R224) -/
def Obligations.StackControllers : Prop :=
  (∀ (k : StackId) (line : Nat) (flips : LineFlips) (s : State), line < stackLines →
    let a := stackAddr k.val (line * 128)
    s.lineBad a = 0 →
    ∃ t, exec (.stackLineRead k line flips) s = .next t ∧ t.pool.mem = s.pool.mem
    ∧ (decideLine flips = .delivered → t = s)
    ∧ (decideLine flips = .corrected → t.rd64 (Reg.stkCorrLo k.val) = BitVec.ofNat 64 (min ((s.rd64 (Reg.stkCorrLo k.val)).toNat + 1) 0xFFFFFFFFFFFFFFFF)
        ∧ bit (t.rd (Reg.stkErr k.val)) 0 = true ∧ t.pool = s.pool)
    ∧ (decideLine flips = .uncorrectable → t.lineBad a = 1 ∧ Counted (Reg.stkUncorr (stackOf a)) 1 s t
        ∧ bit (t.rd (Reg.stkErr (stackOf a))) 1 = true)
    ∧ (decideLine flips = .integrity → t.lineBad a = 2 ∧ Counted (Reg.stkUncorr (stackOf a)) 1 s t
        ∧ Counted (Reg.stkMacFail (stackOf a)) 1 s t ∧ bit (t.rd (Reg.stkErr (stackOf a))) 2 = true)
    ∧ t.pool.map = s.pool.map ∧ ChangesOnly ([k.val, stackOf a].flatMap (fun j => recordRegs (Reg.stkErr j)
        ++ [Reg.stkErrAddrLo j, Reg.stkErrAddrHi j, Reg.stkCorrLo j, Reg.stkCorrHi j, Reg.stkUncorr j, Reg.stkMacFail j])) (s.withPool t.pool) t)
  ∧ (∀ (k : StackId) (s : State), exec (.stackRefresh k) s = .next s)
  ∧ (∀ (k : StackId) (s : State), 85 ≤ (s.rd (Reg.stkTemp k.val)).toNat → bit (s.rd (Reg.stkStatus k.val)) 2 = false →
    ∃ t, exec (.stackTempHigh k) s = .next t ∧ bit (t.rd (Reg.stkStatus k.val)) 2 = true ∧ bit (t.rd (Reg.stkErr k.val)) 4 = true
    ∧ ChangesOnly (Reg.stkStatus k.val :: recordRegs (Reg.stkErr k.val)) s t)
  ∧ (∀ (k : StackId) (s : State),
    ∃ t, exec (.stackPhyRetrain k) s = .next t ∧ bit (t.rd (Reg.stkErr k.val)) 3 = true ∧ ChangesOnly (recordRegs (Reg.stkErr k.val)) s t)
  ∧ (∀ (k : StackId) (s : State) (a : Activity), s.runningActivity 1 2 k.val = some a → a.result = none →
    ∃ t, exec (.scrubStack k) s = .next t ∧ Counted (Reg.stkScrubPasses k.val) 1 s t
    ∧ t.fault.running = s.fault.running.map (fun x => if x == a then { a with result := some 0 } else x)
    ∧ RegsOnly [Reg.stkScrubPasses k.val] (s.withFault { s.fault with running := t.fault.running }) t)
  ∧ (∀ (k : StackId) (s : State), s.runningActivity 1 2 k.val = none → s.hasActivity 1 2 k.val = false → s.pool.initDone = true →
    s.scrubInterval k.val ≠ 0 →
    (s.pool.scrubAt.get 0 k.val = 0 ∨ s.pool.scrubAt.get 0 k.val - 1 + s.scrubInterval k.val ≤ s.bell.bounds) →
    ∃ t, exec (.scrubStack k) s = .next t ∧ t.pool.scrubAt.get 0 k.val = s.bell.bounds + 1
    ∧ t = (s.withPool { s.pool with scrubAt := t.pool.scrubAt }).withFault { s.fault with waiting := t.fault.waiting }
    ∧ ∃ a, t.fault.waiting = s.fault.waiting ++ [a] ∧ a.cls = 1 ∧ a.kind = 2 ∧ a.unit = k.val)
  ∧ (∀ (k : StackId) (s : State) (a : Activity), s.runningActivity 1 2 k.val = some a → a.result = none → s.scrubInterval k.val ≠ 0 →
    s.pool.scrubLate.get 0 k.val ≠ a.at_ + 1 → a.at_ + 2 * s.scrubInterval k.val ≤ s.bell.bounds →
    ∃ t, exec (.scrubLate k) s = .next t ∧ bit (t.rd (Reg.stkErr k.val)) 5 = true
    ∧ ChangesOnly (recordRegs (Reg.stkErr k.val)) (s.withPool { s.pool with scrubLate := t.pool.scrubLate }) t)
  ∧ (∀ (h : HostPort) (k : StackId) (s : State), Reaches s h (Reg.stkCtrl k.val) →
    ∃ t, exec (.scrubNow h k) s = .next t ∧ t = (s.touch h).withFault { s.fault with waiting := t.fault.waiting }
    ∧ ∃ a, t.fault.waiting = s.fault.waiting ++ [a] ∧ a.cls = 1 ∧ a.kind = 2 ∧ a.unit = k.val)

/-- A tray bridge on an active T-role port without a tray becomes the lowest free tray, IDENTIFYING, and is sent IDENTIFY
and two GET_LOG. A good descriptor makes it READY with the geometry it gives; a bad one, or 10 ms without an answer,
refuses it with an error. A tray in use whose port leaves ACTIVE and RECOVERY is LOST with no command open; one not in
use is gone. Pool memory and the other trays are unchanged. (R225, R226, R227, R233, R235, R257, R258) -/
def Obligations.TraysComeAndGo : Prop :=
  (∀ (p : Port) (s : State) (n : Nat), s.role p = 2 →
    (s.linksOf p).any (fun l => (s.link l).train == .active && (s.link l).peer.any (fun c => c.kind == 2)) = true → s.trayAt p = none →
    s.freeTray = some n →
    ∃ t, exec (.trayIdentify p) s = .next t ∧ (t.tray n).state = .identifying ∧ (t.tray n).port = p.val
    ∧ (t.tray n).since = s.bell.ticks ∧ (t.tray n).cmds.map (fun c => (c.opcode, c.addr)) = [(0x01, 0), (0x02, 0), (0x02, 0)]
    ∧ t.sw.queue.length = s.sw.queue.length + 3 ∧ (∀ e ∈ t.sw.queue, e ∈ s.sw.queue ∨ e.dest = .port p)
    ∧ t.pool.mem = s.pool.mem ∧ (∀ m, m ≠ n → t.tray m = s.tray m) ∧ t = (s.withPool t.pool).withSw t.sw)
  ∧ (∀ (n : TrayId) (descriptor bad erases : Bytes) (s : State), (s.tray n.val).state = .identifying →
    ∃ t, exec (.trayIdentifyDone n descriptor bad erases) s = .next t ∧ t.pool.mem = s.pool.mem
    ∧ (∀ m, m ≠ n.val → t.tray m = s.tray m)
    ∧ (descriptorOk descriptor = true → (t.tray n.val).state = .ready ∧ (t.tray n.val).port = (s.tray n.val).port
        ∧ (t.tray n.val).units = field descriptor 7 1 ∧ (t.tray n.val).perBlock = field descriptor 8 4
        ∧ (t.tray n.val).total = field descriptor 12 4 ∧ t = s.withPool t.pool)
    ∧ (descriptorOk descriptor = false → (t.tray n.val).state = .refused ∧ bit (t.rd Reg.trayErr) 5 = true
        ∧ ChangesOnly (recordRegs Reg.trayErr ++ [Reg.trayErrCapture]) (s.withPool t.pool) t))
  ∧ (∀ (n : TrayId) (s : State), (s.tray n.val).state = .identifying → (s.tray n.val).since + 1250000 ≤ s.bell.ticks →
    ∃ t, exec (.trayIdentifyTimeout n) s = .next t ∧ (t.tray n.val).state = .refused ∧ (t.tray n.val).cmds = []
    ∧ bit (t.rd Reg.trayErr) 5 = true ∧ (∀ m, m ≠ n.val → t.tray m = s.tray m) ∧ t.pool.mem = s.pool.mem
    ∧ ChangesOnly (recordRegs Reg.trayErr ++ [Reg.trayErrCapture]) (s.withPool t.pool) t)
  ∧ (∀ (n : TrayId) (s : State), (portOf (s.tray n.val).port).any s.portUp = false → (s.tray n.val).state ≠ .absent →
    (s.tray n.val).state ≠ .lost →
    ∃ t, exec (.trayLost n) s = .next t
    ∧ ((s.tray n.val).inUse = true → s.mort.served = [] → (t.tray n.val).state = .lost ∧ (t.tray n.val).cmds = []
        ∧ bit (t.rd Reg.trayErr) 0 = true ∧ t.pool.mem = s.pool.mem)
    ∧ ((s.tray n.val).inUse = false → t.tray n.val = Tray.reset ∧ (∀ m, m ≠ n.val → t.tray m = s.tray m)
        ∧ t = s.withPool { s.pool with trays := t.pool.trays }))

/-- A completion that names no open command is discarded and raises BAD_FRAME. The health log is kept. A completed PROGRAM
of a demotion whose entry is as it left it commits it: FLASH at its place with the next version, its frame freed,
counted. A timed-out command is marked and raises TIMEOUT, and a first READ is sent again. Collection and levelling
are asked for when their level is crossed; a collection that runs with enough free blocks ends. A card past its age is
rebuilt into its registers. No byte of pool memory changes. (R233, R242, R243, R250, R252, R255, R256, R258) -/
def Obligations.TrayCommandsAndCare : Prop :=
  (∀ (n : TrayId) (m : TrayMsg) (s : State), (s.tray n.val).completes m = none →
    ∃ t, exec (.trayCompletion n m) s = .next t ∧ bit (t.rd Reg.trayErr) 4 = true
    ∧ ChangesOnly (recordRegs Reg.trayErr ++ [Reg.trayErrCapture]) s t)
  ∧ (∀ (n : TrayId) (m : TrayMsg) (s : State) (c : TrayCmd), (s.tray n.val).completes m = some c → c.timedOut = false →
    trayStatusOf m.head = 0 →
    ∃ t, exec (.trayCompletion n m) s = .next t
    ∧ (c.why = .log 3 → (t.tray n.val).health = byteRun m.data 0 64 ∧ t.pool.mem = s.pool.mem ∧ t.pool.map = s.pool.map)
    ∧ (∀ id w addr, c.why = .work id → c.opcode = 0x11 → s.pool.works.find? (fun w => w.id == id) = some w →
        w.place = some (n.val, addr) → s.mapEntry w.plank = w.expects → s.mort.served = [] →
        t.mapEntry w.plank = { w.old with version := w.old.version + 1, state := .flash, ven := w.ven, tray := n.val,
                                          size := sectorsFor w.data.length, up := false, loc := addr }
        ∧ (t.pool.frames.get FrameRec.reset w.old.frame).valid = false ∧ Counted Reg.poolDemotions 1 s t
        ∧ t.pool.mem = s.pool.mem ∧ ∀ v ∈ t.pool.works, v.id ≠ id))
  ∧ (∀ (n : TrayId) (cmdId : BitVec 16) (s : State) (c : TrayCmd),
    (s.tray n.val).cmds.find? (fun c => c.queue == bits cmdId.toNat 10 9 && c.id == bits cmdId.toNat 8 0 && !c.timedOut && c.why != .event
        && decide (c.at_ + max 1 (bits (s.rd Reg.trayCmdTimeout).toNat 15 0) ≤ s.bell.bounds)) = some c →
    c.opcode = 0x10 → c.again = false → (s.tray n.val).room c.queue = true →
    ∃ t, exec (.trayCmdTimeout n cmdId) s = .next t ∧ bit (t.rd Reg.trayErr) 1 = true ∧ t.pool.mem = s.pool.mem
    ∧ { c with timedOut := true } ∈ (t.tray n.val).cmds
    ∧ ∃ c2 ∈ (t.tray n.val).cmds, c2.opcode = 0x10 ∧ c2.again = true ∧ c2.addr = c.addr ∧ c2.sectors = c.sectors ∧ c2.why = c.why)
  ∧ (∀ (n : TrayId) (s : State), s.runningActivity 2 3 n.val = none → (s.tray n.val).inUse = true →
    (s.tray n.val).freeReaches s.gcLevels.1 = false → s.hasActivity 2 3 n.val = false →
    ∃ t, exec (.gcFlash n) s = .next t ∧ t = s.withFault { s.fault with waiting := t.fault.waiting }
    ∧ ∃ a, t.fault.waiting = s.fault.waiting ++ [a] ∧ a.cls = 2 ∧ a.kind = 3 ∧ a.unit = n.val)
  ∧ (∀ (n : TrayId) (s : State) (a : Activity), s.runningActivity 2 3 n.val = some a → a.result = none →
    (s.tray n.val).victim = none → (s.tray n.val).freeReaches s.gcLevels.2 = true →
    ∃ t, exec (.gcFlash n) s = .next t
    ∧ t = s.withFault { s.fault with running := s.fault.running.map (fun x => if x == a then { a with result := some 0 } else x) })
  ∧ (∀ (n : TrayId) (s : State), s.runningActivity 3 3 n.val = none → (s.tray n.val).inUse = true →
    max 1 (bits (s.rd Reg.trayWearCfg).toNat 15 0) < (s.tray n.val).eraseMax - (s.tray n.val).eraseMin →
    1000 ≤ (s.tray n.val).erasesSince → s.hasActivity 3 3 n.val = false →
    ∃ t, exec (.wearLevel n) s = .next t ∧ t = s.withFault { s.fault with waiting := t.fault.waiting }
    ∧ ∃ a, t.fault.waiting = s.fault.waiting ++ [a] ∧ a.cls = 3 ∧ a.kind = 3 ∧ a.unit = n.val)
  ∧ (∀ (n : Nat) (x : Tray) (s : State), s.pool.trays = [(n, x)] → n < 32 → (x.inUse = true ∨ x.state = .lost) →
    x.cardAt + 65536 ≤ s.bell.bounds →
    ∃ t, exec .reportCardRebuild s = .next t ∧ (t.tray n).cardAt = s.bell.bounds ∧ t.pool.mem = s.pool.mem
    ∧ ∀ i < 64, t.rd (Reg.trayTCard n i) = BitVec.ofNat 32 (field (s.reportCard n) (4 * i) 4))

/-- A FENCE completes OK. A FLUSH_RANGE or RELEASE_RANGE whose guarded set is open waits; with the set empty a FLUSH_RANGE
completes with the first failed status or OK. A RELEASE to WINDOW or STACK, with no request open, stores its 8-byte
value (or adds it) at its flag, records the release tag of the line, completes OK and changes no other byte; a
RELEASE_RANGE does so when its set has emptied without a failure, else completes with the first failure, writes
nothing and is counted. A held release past its limit gets TIMEOUT. CLR_COUNTERS zeroes the ordering counters. (R268,
R269, R270, R271, R272, R273, R278, R288) -/
def Obligations.OrderFrames : Prop :=
  let ordRegs := recordRegs Reg.ordErr ++ [Reg.ordTagEvict] ++ fabricRegs
  let flagDone := fun (f : Frame) (o : Nat) (s t : State) =>
    let a := physical (o / plankBytes * plankBytes) + o % plankBytes
    let x := field f.payload 8 8
    let new := if field f.payload 1 1 = 1 then (leNat (s.memRead a 8) + x) % 2 ^ 64 else x
    t.memRead a 8 = leBytes 8 new ∧ (∀ y, (y < a ∨ a + 8 ≤ y) → t.pool.mem.get 0 y = s.pool.mem.get 0 y)
    ∧ (∃ tag, t.pool.tags.find (lineOf o) = some tag ∧ tag.job = f.job ∧ tag.srcSwitch = f.srcSwitch ∧ tag.srcUnit = f.srcUnit)
    ∧ Completed f St.ok [] s t ∧ FabricEffect ordRegs (s.withPool t.pool) t
  let plainFlag := fun (drawer o : Nat) (s : State) => drwShared (s.drawer drawer) = false ∧ s.region o ≠ some .tiered
    ∧ s.lineBad (physical (o / plankBytes * plankBytes) + o % plankBytes / 128 * 128) = 0
    ∧ s.pool.written.get false (o / plankBytes) = true
  (∀ (s : State) (p : Passed), s.sw.passed.find? (fun p => isOrder p.frame 4) = some p → Answerable s p.frame p.cls →
    ∃ t, exec .orderFence s = .next t ∧ Completed p.frame St.ok [] s t ∧ FabricEffect fabricRegs s t
    ∧ t.sw.passed = s.sw.passed.filter (fun q => q.id != p.id))
  ∧ (∀ (s : State) (p : Passed) (g : Guard), s.sw.passed.find? (fun p => isOrder p.frame 1) = some p → s.guardOf p.id = some g →
    g.release = false →
    ∃ t, exec .orderFlushRange s = .next t
    ∧ (g.open_ ≠ [] → t.sw.queue = s.sw.queue ∧ FabricEffect [] s t
        ∧ ∃ r, t.mort.served = s.mort.served ++ [r] ∧ r.id = p.id ∧ r.frame = p.frame ∧ r.wait = .guard ∧ r.since = s.bell.bounds)
    ∧ (g.open_ = [] → Answerable s p.frame p.cls → Completed p.frame g.first [] s t
        ∧ (g.first = St.ok → t.pool.mem = s.pool.mem ∧ FabricEffect fabricRegs (s.withPool t.pool) t)))
  ∧ (∀ (s : State) (p : Passed) (dn : Nat), s.sw.passed = [p] → isOrder p.frame 2 = true → p.drawer = some dn → dn < 65536 →
    s.mort.served = [] → plainFlag dn p.offset s → Answerable s p.frame p.cls →
    ∃ t, exec .orderRelease s = .next t ∧ flagDone p.frame p.offset s t)
  ∧ (∀ (s : State) (p : Passed) (dn : Nat) (g : Guard), s.sw.passed = [p] → isOrder p.frame 3 = true → p.drawer = some dn →
    dn < 65536 → s.mort.served = [] → s.guardOf p.id = some g → g.release = true →
    ∃ t, exec .orderReleaseRange s = .next t
    ∧ (g.open_ ≠ [] → t.sw.queue = s.sw.queue ∧ FabricEffect [] s t
        ∧ ∃ r, t.mort.served = [r] ∧ r.id = p.id ∧ r.frame = p.frame ∧ r.wait = .guard ∧ r.since = s.bell.bounds)
    ∧ (g.open_ = [] → g.first = St.ok → plainFlag dn p.offset s → Answerable s p.frame p.cls → flagDone p.frame p.offset s t)
    ∧ (g.open_ = [] → g.first ≠ St.ok → delivers g.first = false → Answerable s p.frame p.cls →
        Completed p.frame g.first [] s t ∧ Counted Reg.ordGuardFail 1 s t ∧ bit (t.rd Reg.ordErr) 1 = true
        ∧ t.pool.mem = s.pool.mem))
  ∧ (∀ (s : State) (r : Served) (g : Guard),
    s.mort.served.find? (fun r => r.wait == .guard && (s.guardOf r.id).any (fun g => g.open_.isEmpty)) = some r →
    s.guardOf r.id = some g → Answerable s r.frame r.cls →
    ∃ t, exec .guardSetEmpty s = .next t
    ∧ (g.release = false → g.first = St.ok → Completed r.frame St.ok [] s t ∧ (∀ q ∈ t.mort.served, q.id ≠ r.id)
        ∧ FabricEffect fabricRegs (s.withPool t.pool) t ∧ t.pool.mem = s.pool.mem)
    ∧ (g.release = true → g.first ≠ St.ok → delivers g.first = false → Completed r.frame g.first [] s t
        ∧ Counted Reg.ordGuardFail 1 s t ∧ bit (t.rd Reg.ordErr) 1 = true ∧ ∀ q ∈ t.mort.served, q.id ≠ r.id))
  ∧ (∀ (s : State) (r : Served), let limit := max 1 (bits (s.rd Reg.ordGuardLimit).toNat 15 0)
    s.mort.served.find? (fun r => r.wait == .guard && (s.guardOf r.id).any (fun g => g.release && !g.open_.isEmpty)
        && decide (r.since + limit ≤ s.bell.bounds)) = some r → Answerable s r.frame r.cls →
    ∃ t, exec .guardTimeout s = .next t ∧ Completed r.frame St.timeout [] s t ∧ bit (t.rd Reg.ordErr) 2 = true
    ∧ (∀ q ∈ t.mort.served, q.id ≠ r.id)
    ∧ ((∀ q ∈ s.mort.served, q.wait ≠ .promotion) → t.pool.mem = s.pool.mem))
  ∧ (∀ (h : HostPort) (s : State), Reaches s h Reg.ordCtrl →
    let zeros := [Reg.ordTagEvict, Reg.ordUntaggedAcq, Reg.ordScopeWarn, Reg.ordGuardFail]
    ∃ t, exec (.ordClrCounters h) s = .next t ∧ (∀ off ∈ zeros, t.rd off = 0) ∧ RegsOnly zeros (s.touch h) t)

/-- At an idle directory: a GET of an UNCACHED line in a set with room opens a fill; a GET_M of a line others share
invalidates them; an UPGRADE by the only sharer is granted at once. A fill for GET_S grants the line EXCLUSIVE with
its 128 bytes. A PUT by the owner completes and leaves the line UNCACHED, PUT_M with its data in memory; a PUT by
another completes, and PUT_M is counted stale and changes no byte. An answer that matches no open snoop is counted
stale. The last answer grants a waiting GET_M with the line, which RECALL_DATA has first put into memory; an answer
that is not the last only closes its snoop. (R290, R295, R297, R298, R301, R304, R305, R306) -/
def Obligations.DirectoryTransactions : Prop :=
  let addrOf := fun (line : Nat) => physical (line * 128 / plankBytes * plankBytes) + line * 128 % plankBytes / 128 * 128
  let content := fun (s : State) (line : Nat) =>
    if s.pool.written.get false (line * 128 / plankBytes) then s.memRead (addrOf line) 128 else List.replicate 128 0
  let quiet := fun (s : State) => s.dir.trackers = [] ∧ s.dir.hold = [] ∧ s.dir.frozen = []
  let taken := fun (s : State) (sub : Nat) (p : Passed) => s.sw.passed.find? (fun p => isDir p.frame sub) = some p
  let fill := fun (c : Instr) (sub : Nat) (ask : DirAsk) => ∀ (s : State) (p : Passed), taken s sub p → quiet s →
    (s.dirEntry (p.offset / 128)).state = .uncached → (s.waysOf (dirSet (p.offset / 128))).length < 16 →
    ∃ t tr, exec c s = .next t ∧ t.dir.trackers.get none 0 = some tr ∧ tr.line = p.offset / 128 ∧ tr.active = s.dirRequest p ask
    ∧ (t.dirEntry (p.offset / 128)).state = .filling ∧ t.sw.queue = s.sw.queue ∧ t = (s.withDir t.dir).withSw t.sw
  let ready := fun (s : State) (tr : Tracker) (f : Frame) => tr.active.frame = some f ∧ tr.active.line = tr.line ∧ tr.wait = []
    ∧ tr.held = [] ∧ s.dir.hold = [] ∧ Answerable s f s.dirClasses.2
  let granted := fun (s t : State) (tr : Tracker) (f : Frame) (sub grant : Nat) (bs : Bytes) =>
    Completed f St.ok (dirBlock sub grant 0 bs) s t ∧ (t.dirEntry tr.line).state = .exclusive
    ∧ (t.dirEntry tr.line).sharers = [tr.active.agent] ∧ Counted Reg.dirGrants 1 s t
  fill .dirGetS 1 .getS ∧ fill .dirGetM 2 .getM ∧ fill .dirUpgrade 3 .upgrade
  ∧ (∀ (s : State) (p : Passed), taken s 2 p → quiet s → (s.dirEntry (p.offset / 128)).state = .shared →
    let q := s.dirRequest p .getM
    let others := (s.dirEntry (p.offset / 128)).sharers.filter (· != q.agent)
    others ≠ [] →
    ∃ t tr, exec .dirGetM s = .next t ∧ t.dir.trackers.get none 0 = some tr ∧ tr.active = q
    ∧ tr.snoops.map (fun x => (x.agent, x.kind)) = others.map (fun a => (a, 0x10))
    ∧ (t.dirEntry q.line).state = .invalidating ∧ Counted Reg.dirInvSent others.length s t ∧ t.pool = s.pool)
  ∧ (∀ (s : State) (p : Passed), taken s 3 p → quiet s → (s.dirEntry (p.offset / 128)).state = .shared →
    let q := s.dirRequest p .upgrade
    (s.dirEntry (p.offset / 128)).sharers = [q.agent] → Answerable s p.frame s.dirClasses.2 →
    ∃ t, exec .dirUpgrade s = .next t ∧ Completed p.frame St.ok (dirBlock 3 3 0 []) s t
    ∧ (t.dirEntry q.line).state = .exclusive ∧ (t.dirEntry q.line).sharers = [q.agent] ∧ Counted Reg.dirGrants 1 s t
    ∧ t.pool.mem = s.pool.mem)
  ∧ (∀ (n : Fin 4096) (s : State) (tr : Tracker) (f : Frame), s.dir.trackers.get none n.val = some tr →
    (s.dirEntry tr.line).state = .filling → ready s tr f → tr.active.ask = .getS → tr.prior.state = .uncached →
    field f.payload 0 1 = 1 → s.badIn (addrOf tr.line) 128 = [] →
    ∃ t, exec (.dirFillData n) s = .next t ∧ granted s t tr f 1 2 (content s tr.line) ∧ t.pool.mem = s.pool.mem
    ∧ t.dir.trackers.get none n.val = none)
  ∧ (∀ (s : State) (p : Passed) (data : Bool), let c := if data then Instr.dirPutM else Instr.dirPutE
    let line := p.offset / 128
    let q := s.dirRequest p .getS
    taken s (if data then 5 else 4) p → quiet s → Answerable s p.frame s.dirClasses.2 →
    ∃ t, exec c s = .next t ∧ Completed p.frame St.ok [] s t
    ∧ ((s.dirEntry line).state = .exclusive → (s.dirEntry line).sharers.headD 0 = q.agent →
        (t.dirEntry line).state = .uncached
        ∧ (data = false → t.pool = s.pool)
        ∧ (data = true → t.memRead (addrOf line) 128 = byteRun p.frame.payload 16 128
            ∧ ∀ x, (s.pool.written.get false (line * 128 / plankBytes) = true ∨ x < physical (line * 128 / plankBytes * plankBytes)
                ∨ physical (line * 128 / plankBytes * plankBytes) + plankBytes ≤ x) →
              (x < addrOf line ∨ addrOf line + 128 ≤ x) → t.pool.mem.get 0 x = s.pool.mem.get 0 x))
    ∧ ((s.dirEntry line).sharers.headD 0 ≠ q.agent → t.pool = s.pool ∧ t.dir = s.dir ∧ (data = true → Counted Reg.dirStale 1 s t)))
  ∧ (∀ (s : State) (p : Passed), taken s 0x20 p → answerRsvd p.frame = false →
    ∃ t, exec .dirInvAck s = .next t
    ∧ (s.matchAnswer p.frame true = none → Counted Reg.dirStale 1 s t ∧ t.dir = s.dir ∧ t.pool = s.pool)
    ∧ ∀ n tr x, s.matchAnswer p.frame true = some (n, tr, x) →
        (tr.snoops.erase x ≠ [] → t.dir.trackers.get none n = some { tr with snoops := tr.snoops.erase x } ∧ t.pool = s.pool)
        ∧ (∀ f, tr.snoops.erase x = [] → ready s tr f → tr.active.ask = .getM → field f.payload 0 1 = 2 →
            s.badIn (addrOf tr.line) 128 = [] → granted s t tr f 2 3 (content s tr.line) ∧ t.pool.mem = s.pool.mem))
  ∧ (∀ (s : State) (p : Passed), taken s 0x21 p → answerRsvd p.frame = false →
    ∃ t, exec .dirRecallAck s = .next t
    ∧ (s.matchAnswer p.frame false = none → Counted Reg.dirStale 1 s t ∧ t.dir = s.dir ∧ t.pool = s.pool)
    ∧ ∀ n tr x f, s.matchAnswer p.frame false = some (n, tr, x) → bits (field p.frame.payload 2 1) 2 2 = 0 → ready s tr f →
        tr.active.ask = .getM → field f.payload 0 1 = 2 → s.badIn (addrOf tr.line) 128 = [] →
        granted s t tr f 2 3 (content s tr.line) ∧ t.pool.mem = s.pool.mem)
  ∧ (∀ (s : State) (p : Passed), taken s 0x22 p → answerRsvd p.frame = false →
    ∃ t, exec .dirRecallData s = .next t
    ∧ (s.matchAnswer p.frame false = none → Counted Reg.dirStale 1 s t ∧ t.dir = s.dir ∧ t.pool = s.pool)
    ∧ ∀ n tr x f, s.matchAnswer p.frame false = some (n, tr, x) → bits (field p.frame.payload 2 1) 2 2 = 0 → ready s tr f →
        tr.active.ask = .getM → field f.payload 0 1 = 2 →
        granted s t tr f 2 3 (byteRun p.frame.payload 16 128)
        ∧ t.memRead (addrOf tr.line) 128 = byteRun p.frame.payload 16 128)

/-- A snoop for an active agent port of this switch is queued toward it, any other raises BAD_MSG. Snoops unanswered for 4
periods: a recalled line is POISONED with DATA_LOST raised, an invalidated one loses the snoops with INV_LATE raised.
A request held 8 periods is frozen and counted. A scan for a dead agent or a purge is asked for as DIR_REBUILD; once
it runs, a dead agent leaves every sharer list, and a purge snoops; 4 periods later the purged lines have no entry.
POISON_CLEAR of a POISONED line leaves it UNCACHED; a misformed address gets RSVD_SET. The probe shows the entry it
names. CLR_COUNTERS zeroes the counters. Pool memory is unchanged. (R294, R300, R310, R312, R313, R314, R316, R317,
R516) -/
def Obligations.DirectoryUpkeep : Prop :=
  (∀ (f : Frame) (s : State) (p : Passed), s.sw.passed.find? (fun p => p.frame == f && isSnoop p.frame) = some p →
    ∃ t, exec (.dirSnoopDeliver f) s = .next t
    ∧ (∀ q, p.port.any (fun q => s.role q == 1) = false → portOf (field f.payload 6 1) = some q → s.role q = 1 → s.portActive q = true →
        ∃ e, t.sw.queue = s.sw.queue ++ [e] ∧ e.dest = .port q ∧ e.cls = p.cls ∧ e.bytes = f.toBytes ∧ t = s.withSw t.sw)
    ∧ (p.port.any (fun q => s.role q == 1) = true → bit (t.rd Reg.dirErr) 3 = true ∧ t.sw.queue = s.sw.queue
        ∧ ChangesOnly (recordRegs Reg.dirErr ++ [Reg.dirErrCapture, Reg.dirErrAddrLo, Reg.dirErrAddrHi]) (s.withSw t.sw) t))
  ∧ (∀ (n : Fin 4096) (s : State) (tr : Tracker), s.dir.trackers.get none n.val = some tr →
    tr.snoops.filter (fun x => decide (x.at_ + 4 ≤ s.bell.bounds)) ≠ [] →
    ∃ t, exec (.dirSnoopTimeout n) s = .next t
    ∧ ((s.dirEntry tr.line).state = .recalling → tr.active.ask = .evict → tr.wait = [] → s.dir.hold = [] →
        (t.dirEntry tr.line).state = .poisoned ∧ bit (t.rd Reg.dirErr) 0 = true ∧ t.dir.trackers.get none n.val = none
        ∧ t.pool.mem = s.pool.mem)
    ∧ ((s.dirEntry tr.line).state = .invalidating → (∃ x ∈ tr.snoops, s.bell.bounds < x.at_ + 4) →
        bit (t.rd Reg.dirErr) 1 = true ∧ t.pool = s.pool
        ∧ t.dir.trackers.get none n.val = some { tr with snoops := tr.snoops.filter (fun x => decide (s.bell.bounds < x.at_ + 4)) }))
  ∧ (∀ (s : State) (q : DirReq),
    s.dir.hold.find? (fun q => decide (q.at_ + 8 ≤ s.bell.bounds) && !s.dir.frozen.contains q) = some q →
    ∃ t, exec .dirAgeFreeze s = .next t ∧ Counted Reg.dirFreeze 1 s t
    ∧ RegsOnly [Reg.dirFreeze] (s.withDir { s.dir with frozen := s.dir.frozen ++ [q] }) t)
  ∧ (∀ (p : Port) (s : State), p ∈ s.sw.deadDir → s.hasActivity 6 7 0 = false →
    exec (.dirRebuild p) s = .next (s.requestActivity 6 7 0 0 none))
  ∧ (∀ (p : Port) (s : State) (a : Activity), s.runningActivity 6 7 0 = some a → a.result = none → p ∈ s.sw.deadDir →
    s.dir.trackers = [] → s.dir.hold = [] → s.dir.entries.wf (fun _ => DirEntry.reset) = true →
    (∀ x ∈ s.dir.entries, x.2.state = .exclusive → x.2.sharers.headD 0 ≠ agentId s.swNum p.val) →
    ∃ t, exec (.dirRebuild p) s = .next t ∧ p ∉ t.sw.deadDir ∧ (∀ line, t.dirEntry line = (s.dirEntry line).without (agentId s.swNum p.val))
    ∧ t = ((s.withDir t.dir).withSw { s.sw with deadDir := t.sw.deadDir }).activityDone a 0)
  ∧ (∀ (d : DrawerId) (s : State) (lo hi sent : Nat), s.dir.purges.find? (fun p => p.1 == d.val) = some (d.val, lo, hi, sent) →
    s.dir.hold = [] →
    ∃ t, exec (.dirPurge d) s = .next t ∧ t.pool = s.pool
    ∧ (sent = 0 → s.hasActivity 6 7 0 = false → t = s.requestActivity 6 7 0 0 none)
    ∧ (∀ a, sent = 0 → s.runningActivity 6 7 0 = some a → a.result = none →
        (d.val, lo, hi, s.bell.bounds + 1) ∈ t.dir.purges ∧ t.dir.entries = s.dir.entries ∧ t.fault = (s.activityDone a 0).fault)
    ∧ (0 < sent → sent + 3 ≤ s.bell.bounds →
        (∀ line, lo ≤ line → line < hi → t.dirEntry line = DirEntry.reset)
        ∧ (∀ line, (line < lo ∨ hi ≤ line) → t.dirEntry line = s.dirEntry line)
        ∧ t.dir.purges = s.dir.purges.erase (d.val, lo, hi, sent) ∧ t = s.withDir t.dir))
  ∧ (∀ (h : HostPort) (q : RingId) (s : State) (d : Desc), Starts s h q 0x1A d →
    let a := dAddr d 24
    let line := (a.extractLsb' 0 48).toNat / 128
    let good := a.extractLsb' 60 4 = 0 ∧ a.extractLsb' 48 12 = s.swNum ∧ a.extractLsb' 0 7 = 0
    ∃ t, exec (.poisonClear h q) s = .next t ∧ ChangesOnly (doneRegs h d) (s.withDir t.dir) t
    ∧ (good → Completes h (startedDesc s d) 0 0 s t
        ∧ ((s.dirEntry line).state = .poisoned → (t.dirEntry line).state = .uncached)
        ∧ ((s.dirEntry line).state ≠ .poisoned → t.dir = s.dir)
        ∧ ∀ l, l ≠ line → t.dirEntry l = s.dirEntry l)
    ∧ (¬ good → Completes h (startedDesc s d) St.rsvdSet.toNat 0 s t ∧ t.dir = s.dir))
  ∧ (∀ (h : HostPort) (s : State), Reaches s h Reg.dirProbeCtrl →
    let line := ((s.rd64 Reg.dirProbeAddrLo).extractLsb' 0 40).toNat / 128
    let e := s.dirEntry line
    ∃ t, exec (.dirProbe h) s = .next t
    ∧ (e.state = .uncached → t.rd Reg.dirProbeStatus = 1 ∧ t.rd64 Reg.dirProbeEntryLo = 0)
    ∧ (e.state ≠ .uncached → t.rd Reg.dirProbeStatus = 3)
    ∧ (∀ a, e.state = .exclusive → e.sharers = [a] → e.block = none →
        (t.rd64 Reg.dirProbeEntryLo).extractLsb' 0 20 = a ∧ (t.rd64 Reg.dirProbeEntryLo).extractLsb' 47 3 = BitVec.ofNat 3 DirSt.exclusive.code)
    ∧ RegsOnly [Reg.dirProbeStatus, Reg.dirProbeEntryLo, Reg.dirProbeEntryLo + 4] ((s.touch h).withFree t.free) t)
  ∧ (∀ (h : HostPort) (s : State), Reaches s h Reg.dirCtrl →
    let zeros := [Reg.dirMaxAge, Reg.dirGrants, Reg.dirInvSent, Reg.dirRecallSent, Reg.dirCapEvict, Reg.dirReplaceInv, Reg.dirStale,
      Reg.dirFreeze]
    ∃ t, exec (.dirClrCounters h) s = .next t ∧ (∀ off ∈ zeros, t.rd off = 0) ∧ RegsOnly zeros (s.touch h) t)

/-- For a host port that answers: an access whose size is not 4 bytes or whose offset is not a multiple of 4, and every
register command at such an offset, is completed with Unsupported Request; registers, held and latched words and all
else stay as they are. (R5) -/
def Obligations.UnsupportedAccesses : Prop :=
  ∀ (h : HostPort) (off : BitVec 25) (s : State), s.answers h = true →
  (∀ (size : Nat) (w : Bool), ¬ (size = 4 ∧ off.toNat % 4 = 0) →
    exec (.bar0UnsupportedAccess h off size w) s = .next (s.emit (.unsupported h)))
  ∧ (off.toNat % 4 ≠ 0 → ∀ (v : Word) (c : Instr),
      c ∈ [.regWrite h off v, .readLoLatch h off, .readHi h off, .writeLoHold h off v, .writeHiApply h off v, .errW1cClear h off v] →
      exec c s = .next (s.emit (.unsupported h)))

/-- For a port that answers and the _LO offset of a pair: READ_LO_LATCH returns _LO and latches the _HI value of that
moment for that port and pair, afresh whatever was latched. READ_HI returns the word latched for its port and pair,
which is then consumed, or the live _HI value where none is latched. The latches of every other port and pair, all
registers and all memory stay. (A read first notes that the port's link is up: s.touch h.) (R6) -/
def Obligations.LatchedPairs : Prop :=
  ∀ (h : HostPort) (off : BitVec 25) (s : State), s.answers h = true → off.toNat % 4 = 0 →
  let r := s.touch h
  let others := fun (lo : Nat) (t : State) => ∀ (h' : HostPort) (lo' : Nat), (h', lo') ≠ (h, lo) →
    t.latch.get none (holdKey h' lo') = s.latch.get none (holdKey h' lo')
  (isLo off.toNat = true → ∃ t, exec (.readLoLatch h off) s = .next t
    ∧ t.out = .cpl h (r.served off.toNat) :: s.out
    ∧ t.latch.get none (holdKey h off.toNat) = some (r.served (off.toNat + 4))
    ∧ others off.toNat t ∧ t = (r.withLatch t.latch).withOut t.out)
  ∧ (isLo (off.toNat - 4) = true → ∃ t, exec (.readHi h off) s = .next t
    ∧ (∀ v, s.latch.get none (holdKey h (off.toNat - 4)) = some v → t.out = .cpl h v :: s.out)
    ∧ (s.latch.get none (holdKey h (off.toNat - 4)) = none → t.out = .cpl h (r.served off.toNat) :: s.out)
    ∧ t.latch.get none (holdKey h (off.toNat - 4)) = none
    ∧ others (off.toNat - 4) t ∧ t = (r.withLatch t.latch).withOut t.out)

/-- A write of a read-write register outside the acting groups stores its defined bits; of a read-only register or a
reserved offset it changes nothing; of a locking register under the lock it raises FAULT_ERR LOCKED_WRITE. Writing
ones clears those bits of an error record, and its COUNT once all are clear. A write of _LO is held for its port and
not applied; a write of _HI applies both words, the held one or else the current one, and ends the hold. Every other
register stays. (R7, R8, R9, R489, R512, R524) -/
def Obligations.RegisterWrites : Prop :=
  ∀ (h : HostPort) (off : BitVec 25) (v : Word) (s : State), off.toNat % 4 = 0 → Reaches s h off.toNat →
  let o := off.toNat
  let r := s.touch h
  (∀ row, regRow o = some row → row.acc = .rw → isLo o = false → isLo (o - 4) = false → (o < 0x400000 ∨ (0x800000 ≤ o ∧ o < 0x1100000)) →
    ∃ t, exec (.regWrite h off v) s = .next t ∧ t.rd o = v &&& row.mask ∧ RegsOnly [o] r t)
  ∧ ((regRow o = none ∨ ∃ row, regRow o = some row ∧ row.acc = .ro) → exec (.regWrite h off v) s = .next r)
  ∧ (∀ row, regRow o = some row → row.acc = .rwl → isTrust0 o = false → s.locked = true →
    ∃ t, exec (.regWrite h off v) s = .next t ∧ bit (t.rd Reg.faultErr) 0 = true
    ∧ (bit (s.rd Reg.faultErr) 0 = false → t.rd Reg.faultLockedAddr = BitVec.ofNat 32 o)
    ∧ ChangesOnly (recordRegs Reg.faultErr ++ [Reg.faultErrCapture, Reg.faultLockedAddr]) r t)
  ∧ (∀ row, regRow o = some row → row.acc = .w1c → ∀ c ∈ [Instr.regWrite h off v, .errW1cClear h off v],
    ∃ t, exec c s = .next t ∧ t.rd o = s.rd o &&& ~~~v
    ∧ (s.rd o &&& ~~~v = 0 → t.rd (o + 4) = 0) ∧ (s.rd o &&& ~~~v ≠ 0 → t.rd (o + 4) = s.rd (o + 4)) ∧ RegsOnly [o, o + 4] r t)
  ∧ (writableLo o = true → ringRegOf o = none →
    ∃ t, exec (.writeLoHold h off v) s = .next t ∧ t.hold.get none (holdKey h o) = some v
    ∧ (∀ h' o', (h', o') ≠ (h, o) → t.hold.get none (holdKey h' o') = s.hold.get none (holdKey h' o')) ∧ t = r.withHold t.hold)
  ∧ (writableLo (o - 4) = true → ringRegOf o = none → o - 4 ≠ Reg.faultFenceSetLo → o - 4 ≠ Reg.faultLiftLo →
    ∃ t, exec (.writeHiApply h off v) s = .next t
    ∧ t.rd (o - 4) = (s.hold.get none (holdKey h (o - 4))).getD (s.rd (o - 4)) &&& regMask (o - 4)
    ∧ t.rd o = v &&& regMask o ∧ t.hold.get none (holdKey h (o - 4)) = none
    ∧ (∀ h' o', (h', o') ≠ (h, o - 4) → t.hold.get none (holdKey h' o') = s.hold.get none (holdKey h' o'))
    ∧ RegsOnly [o - 4, o] (r.withHold t.hold) t)

/-- A LAUNCH entry that fires on a free bench starts the operator of its descriptor; on a busy one it is skipped and
counted, with TT_OVERRUN. A LAUNCH frame joins its bench's queue; AUX that names no bench gets RSVD_SET, and where no
bench takes it TIMEOUT. The launch at the head asks for the lines of its descriptor; once they are back, the bench is
free and the operator fits before the next reserved slot, it starts; a refused descriptor completes the LAUNCH with
its status. A launch that waits a term completes with TIMEOUT. Other benches and all of pool memory stay. (R72, R134,
R339, R352, R353, R354, R357, R515) -/
def Obligations.BenchLaunches : Prop :=
  let alone := fun (b : BenchId) (regs : List Nat) (s t : State) => WorkEffect (benchRegs b ++ unitRegs ++ regs) s t
    ∧ ∀ b', b' ≠ b → t.bench b' = s.bench b'
  (∀ (b : BenchId) (s : State) (e : Nat × BitVec 128) (es : List (Nat × BitVec 128)), s.firingNow 1 b.val 1 = e :: es →
    (s.bench b).firedAt ≠ s.bell.ticks + 1 →
    let d := (s.localRead (ttDescOffset e.2) 384).1
    ∃ t, exec (.ttLaunchFire b) s = .next t ∧ alone b (recordRegs Reg.ttErr ++ [Reg.ttOverrunUnit] ++ recordRegs Reg.faultErr ++ [Reg.faultErrCapture]) s t
    ∧ (t.bench b).firedAt = s.bell.ticks + 1 ∧ (t.bench b).queue = (s.bench b).queue
    ∧ (s.benchFree b = false → s.benchOffline b.val = false → bit (t.rd Reg.ttErr) 2 = true ∧ (t.bench b).run = (s.bench b).run
        ∧ Counted (Reg.bnSkipped (b.val / 14) (benchIn b)) (es.length + 1) s t)
    ∧ (s.benchFree b = true → s.localBad (ttDescOffset e.2) 384 = false →
        Counted (Reg.bnLaunchTt (b.val / 14) (benchIn b)) 1 s t ∧ Counted (Reg.bnSkipped (b.val / 14) (benchIn b)) es.length s t
        ∧ (opRefusal d = none → odAcq d = true → ∃ r, (t.bench b).run = some r ∧ r.desc = d ∧ r.stage = .acquire
            ∧ r.seed = ttSeed s.tt.activeTag b.val e.1 s.bell.now.period ∧ r.started = s.bell.ticks
            ∧ r.reqs.map UReq.addr = [odAcqFlag d / 128 * 128])
        ∧ (∀ st, opRefusal d = some st → (t.bench b).run = none ∧ bit (t.rd (Reg.bnErr (b.val / 14) (benchIn b))) 1 = true)))
  ∧ (∀ (s : State) (p : Passed), s.sw.passed.find? (fun p => p.frame.opcode == 0x38) = some p →
    let f := p.frame
    let bad := 168 ≤ f.aux.toNat ∧ f.aux ≠ 0xFFFF
    ∃ t, exec .fabricLaunch s = .next t ∧ WorkEffect fabricRegs s t
    ∧ (bad → Answerable s f p.cls → Completed f St.rsvdSet [] s t ∧ t.benches = s.benches)
    ∧ (¬ bad → s.launchBench f.aux.toNat = none → Answerable s f p.cls → Completed f St.timeout [] s t ∧ t.benches = s.benches)
    ∧ (∀ b, ¬ bad → s.launchBench f.aux.toNat = some b →
        t.bench b = { s.bench b with queue := (s.bench b).queue ++ [⟨.fabric f p.cls p.cluster, f.addr.toNat, f.job, s.bell.ticks, s.bell.bounds⟩] }
        ∧ (∀ b', b' ≠ b → t.bench b' = s.bench b') ∧ t.sw.queue = s.sw.queue))
  ∧ (∀ (b : BenchId) (s : State) (f : Frame) (c : Cls) (k : Fin 12) (l : Launch) (rest : List Launch), (s.bench b).queue = l :: rest →
    l.src = .fabric f c k →
    let x := s.bench b
    let d := headDesc l x.head
    ∃ t, exec (.benchLaunchStart b) s = .next t ∧ alone b [] s t ∧ (t.bench b).store = x.store
    ∧ (x.head = [] → s.benchOffline b.val = false →
        (t.bench b).head.map UReq.addr = lineAddrs l.addr 384 ∧ (∀ r ∈ (t.bench b).head, r.got = none) ∧ (t.bench b).queue = x.queue
        ∧ (t.bench b).run = x.run)
    ∧ (x.head ≠ [] → allBack x.head = true → s.benchFree b = true → firstFailure x.head = none →
        (∀ st, opRefusal d = some st → (t.bench b).run = none ∧ (t.bench b).queue = rest ∧ (t.bench b).head = []
            ∧ bit (t.rd (Reg.bnErr (b.val / 14) (benchIn b))) 1 = true ∧ Counted (Reg.bnLaunchQ (b.val / 14) (benchIn b)) 1 s t
            ∧ (Answerable s f c → Completed f st [] s t))
        ∧ (opRefusal d = none → odJob d = l.job → s.benchFits b (opReserve d) = false → t = s)
        ∧ (opRefusal d = none → odJob d = l.job → s.benchFits b (opReserve d) = true → odAcq d = true →
            (t.bench b).queue = rest ∧ (t.bench b).head = [] ∧ Counted (Reg.bnLaunchQ (b.val / 14) (benchIn b)) 1 s t
            ∧ ∃ r, (t.bench b).run = some r ∧ r.desc = d ∧ r.launch = l ∧ r.stage = .acquire ∧ r.seed = odSeed d
                ∧ r.started = s.bell.ticks)))
  ∧ (∀ (b : BenchId) (s : State) (f : Frame) (c : Cls) (k : Fin 12) (l : Launch) (rest : List Launch), (s.bench b).queue = l :: rest →
    l.src = .fabric f c k → l.bound + s.bell.len ≤ s.bell.bounds →
    ∃ t, exec (.benchQueueTimeout b) s = .next t ∧ alone b [] s t ∧ (t.bench b).queue = rest ∧ (t.bench b).head = []
    ∧ (t.bench b).run = (s.bench b).run ∧ bit (t.rd (Reg.bnErr (b.val / 14) (benchIn b))) 5 = true
    ∧ (Answerable s f c → Completed f St.timeout [] s t))

/-- A flag that holds ends the acquire, and slots whose sources meet the declared range are no longer ready; a wait that
ends aborts with ACQ_TIMEOUT or GATHER_TIMEOUT; a flag that does not hold is read again after 8 slots. Operands that
all delivered start the computation, one that failed aborts the operator. L slots later a STORE output stands in the
store, POOL outputs are being written, VENEER_FIT has written its basis slot. Outputs complete lead to the release or
the end; the end completes the LAUNCH. An abort counts, raises ABORT and leaves the store. CLEAR_STORE zeroes an idle
bench's store. (R285, R351, R355, R356, R357, R358, R359, R360, R362, R363, R437, R503) -/
def Obligations.BenchOperators : Prop :=
  let at_ := fun (b : BenchId) (reg : Nat → Nat → Nat) => reg (b.val / 14) (benchIn b)
  let alone := fun (b : BenchId) (regs : List Nat) (s t : State) => WorkEffect (benchRegs b ++ unitRegs ++ regs) s t
    ∧ ∀ b', b' ≠ b → t.bench b' = s.bench b'
  let ends := fun (b : BenchId) (r : BenchRun) (st : BitVec 8) (s t : State) => (t.bench b).run = none
    ∧ (t.bench b).queue = (s.bench b).queue
    ∧ ∀ f c k, r.launch.src = .fabric f c k → Answerable s f c → Completed f st [] s t
  let aborts := fun (b : BenchId) (r : BenchRun) (st : BitVec 8) (bits : List Nat) (s t : State) => ends b r st s t
    ∧ (t.bench b).store = (s.bench b).store ∧ Counted (at_ b Reg.bnAborts) 1 s t ∧ ∀ n ∈ 0 :: bits, bit (t.rd (at_ b Reg.bnErr)) n = true
  let runs := fun (b : BenchId) (t : State) (stages : List BenchStage) (d : Bytes) => ∃ r, (t.bench b).run = some r ∧ r.stage ∈ stages ∧ r.desc = d
  (∀ (b : BenchId) (s : State) (r : BenchRun) (q : UReq) (qs : List UReq), (s.bench b).run = some r → r.stage = .acquire →
    r.reqs = q :: qs → allBack r.reqs = true →
    let spans := s.localSpans (odJob r.desc) (odRangeBase r.desc) (128 * odRangeLines r.desc)
    ∃ t, exec (.benchAcquirePoll b) s = .next t ∧ alone b [] s t
    ∧ (delivers q.status = false → aborts b r q.status [] s t)
    ∧ (delivers q.status = true → flagHolds r.desc q.data = true → runs b t [.gather, .fetch, .compute] r.desc
        ∧ ∀ i, spansMeet ((s.bench b).slot i).sources spans = true → ((t.bench b).slot i).ready = false)
    ∧ (delivers q.status = true → flagHolds r.desc q.data = false →
        (r.started + odWait r.desc ≤ s.bell.ticks → aborts b r St.timeout [2] s t)
        ∧ (s.bell.ticks < r.started + odWait r.desc →
            (s.bell.ticks < r.lastRead + 8 → t = s)
            ∧ (r.lastRead + 8 ≤ s.bell.ticks → ∃ r', (t.bench b).run = some r' ∧ r'.stage = .acquire ∧ r'.lastRead = s.bell.ticks
                ∧ r'.reqs.map UReq.addr = [odAcqFlag r.desc / 128 * 128] ∧ r'.reqs.map UReq.got = [none]))))
  ∧ (∀ (b : BenchId) (s : State) (r : BenchRun), (s.bench b).run = some r → r.stage = .gather →
    let wait := (s.bench b).unready r.desc
    let bad := wait.find? (fun q => ((s.bench b).slot q.2).invalid.isSome)
    ∃ t, exec (.benchGatherWaitEnd b) s = .next t ∧ alone b [] s t
    ∧ (wait = [] → runs b t [.fetch, .compute] r.desc)
    ∧ (∀ q st, bad = some q → ((s.bench b).slot q.2).invalid = some st → aborts b r st [] s t)
    ∧ (wait ≠ [] → bad = none → r.started + odWait r.desc ≤ s.bell.ticks → aborts b r St.timeout [3] s t)
    ∧ (wait ≠ [] → bad = none → s.bell.ticks < r.started + odWait r.desc → t = s))
  ∧ (∀ (b : BenchId) (s : State) (r : BenchRun), (s.bench b).run = some r → r.stage = .fetch → allBack r.reqs = true →
    let of := fun (i : Nat) => reqsFor r.reqs i false ++ reqsFor r.reqs i true
    let poisoned := ∃ i ∈ inputSlots r.desc, ∃ q ∈ of i, q.status = St.poison
    ∃ t, exec (.benchOperandsFetched b) s = .next t ∧ alone b [] s t
    ∧ ((∀ i ∈ inputSlots r.desc, firstFailure (of i) = none) →
        ∃ r', (t.bench b).run = some r' ∧ r'.stage = .compute ∧ r'.desc = r.desc ∧ r'.reqs = r.reqs
        ∧ (poisoned → r'.poison = true ∧ bit (t.rd (at_ b Reg.bnErr)) 4 = true) ∧ (¬ poisoned → r'.poison = r.poison))
    ∧ (∀ i st, (inputSlots r.desc).findSome? (fun i => (firstFailure (of i)).map (fun st => (i, st))) = some (i, st) →
        aborts b r st [] s t))
  ∧ (∀ (b : BenchId) (s : State) (r : BenchRun), (s.bench b).run = some r → r.stage = .compute →
    r.readyAt + opLatency r.desc ≤ s.bell.ticks →
    let d := r.desc
    let outs := (opResults d (inputMat (s.bench b) r)).filterMap (fun p =>
      (operandOf d p.1).map (fun o => (o, o.write p.2 (odRound d) (odSat d) r.seed p.1)))
    ∃ t, exec (.benchComputeDone b) s = .next t ∧ Counted Reg.secStoreForeign (foreignReads (s.bench b) d) s t
    ∧ (odOp d ≠ 9 →
        alone b ([Reg.secStoreForeign, Reg.secErrCapture] ++ recordRegs Reg.secErr) s t
        ∧ Counted (at_ b Reg.bnSat) (outs.map (fun p => p.2.sat)).sum s t ∧ Counted (at_ b Reg.bnNan) (outs.map (fun p => p.2.nan)).sum s t
        ∧ (∀ o l a bs, outs = [(o, l)] → o.kind = .store → l.runs = [(a, bs)] →
            (t.bench b).store.getRun 0 a bs.length = bs
            ∧ (odRel d = false → ends b r r.okStatus s t)
            ∧ ∀ i, (∀ n ∈ slotsOf a bs.length, i / 32768 ≠ n) → (t.bench b).store.get 0 i = (s.bench b).store.get 0 i)
        ∧ (∀ o l a bs, outs = [(o, l)] → o.kind = .pool → l.runs = [(a, bs)] → 0 < bs.length →
            runs b t [.write] d ∧ (t.bench b).store = (s.bench b).store))
    ∧ (odOp d = 9 → ∀ o, operandOf d 0 = some o →
        alone b ([Reg.secStoreForeign, Reg.secErrCapture, Reg.venTableBusy, Reg.venErrCapture, Reg.venErrPlankLo, Reg.venErrPlankHi]
          ++ recordRegs Reg.secErr ++ recordRegs Reg.venErr) (s.withPool t.pool) t ∧ t.pool.mem = s.pool.mem
        ∧ (∀ g, s.slotForWrite (par d 0 1) (par d 1 1) = some g →
            let x := t.slot (par d 0 1) g
            x.state = .resident ∧ x.shape = fmtShape o.fmt ∧ x.rmax = par d 2 1 ∧ x.cols = shapeCols (fmtShape o.fmt)
            ∧ x.tag = nextTag (s.slot (par d 0 1) g).tag ∧ (odRel d = false → ends b r r.okStatus s t))
        ∧ (s.slotForWrite (par d 0 1) (par d 1 1) = none → aborts b r St.tableBusy [] s t ∧ Counted Reg.venTableBusy 1 s t)))
  ∧ (∀ (b : BenchId) (s : State) (r : BenchRun), (s.bench b).run = some r → r.stage = .write → allBack r.reqs = true →
    ∃ t, exec (.benchOutputsDone b) s = .next t ∧ alone b [] s t ∧ (t.bench b).store = (s.bench b).store
    ∧ (∀ st, firstNotOk r.reqs = some st → ends b r (if r.poison then St.poison else st) s t)
    ∧ (firstNotOk r.reqs = none → (odRel r.desc = false ∨ r.poison = true) → ends b r r.okStatus s t)
    ∧ (firstNotOk r.reqs = none → odRel r.desc = true → r.poison = false →
        ∃ r', (t.bench b).run = some r' ∧ r'.stage = .release ∧ r'.reqs.map UReq.addr = [odRelFlag r.desc]))
  ∧ (∀ (b : BenchId) (s : State) (r : BenchRun), (s.bench b).run = some r → r.stage = .release → allBack r.reqs = true →
    ∃ t, exec (.benchReleaseDone b) s = .next t ∧ alone b [] s t ∧ (t.bench b).store = (s.bench b).store
    ∧ ends b r ((firstNotOk r.reqs).getD r.okStatus) s t)
  ∧ (∀ (h : HostPort) (b : BenchId) (s : State), Reaches s h (at_ b Reg.bnCtrl) →
    (∃ t, exec (.benchClearStore h b) s = .next t
      ∧ ((s.bench b).run = none → s.inRecess 1 b.val = false → (t.bench b).store = [] ∧ (t.bench b).slots = []
          ∧ (t.bench b).queue = (s.bench b).queue ∧ (∀ b', b' ≠ b → t.bench b' = s.bench b')
          ∧ t = ((s.touch h).withBenches t.benches).withTest t.test)
      ∧ (((s.bench b).run ≠ none ∨ s.inRecess 1 b.val = true) → t = s.touch h))
    ∧ ∃ t, exec (.benchClrCounters h b) s = .next t ∧ (t.bench b).busy = 0
      ∧ (let zeros := [Reg.bnLaunchTt, Reg.bnLaunchQ, Reg.bnSkipped, Reg.bnAborts, Reg.bnSat, Reg.bnNan].map (at_ b)
         (∀ off ∈ zeros, t.rd off = 0) ∧ RegsOnly zeros (((s.touch h).withBenches t.benches).withTest t.test) t)
      ∧ (t.bench b).run = (s.bench b).run ∧ ∀ b', b' ≠ b → t.bench b' = s.bench b')

/-- A ROLL_OP on an open entry of its JOB, no deadline being due: READ completes with the 256 bytes; COMMIT, OFFER,
WITHDRAW, TAKE and CLOSE in the right state and epoch change the live half as the table of R378 says and complete with
the result block; CLAIM of an ORPHANED pass with the next epoch opens its discards; ATTEND leaves its ticket pending
at its station. In another state or epoch the answer is PASS_STALE, and where a condition fails DENIED; the live half
then stays. Other slots, the roll's tables and pool memory stay. (R374, R375, R376, R378, R379, R380, R384, R389) -/
def Obligations.PassTransitions : Prop :=
  let taken := fun (s : State) (sub : Nat) (p : Passed) => s.sw.passed.find? (fun p => isRoll sub p.frame) = some p
  let ready := fun (s : State) (sub : Nat) (p : Passed) (c : BitVec 1024) => taken s sub p ∧ s.rollFind p.frame false = some c
    ∧ (s.rollLive (rollSlot p.frame)).holderDead = false ∧ Answerable s p.frame p.cls
    ∧ ((s.rollLive (rollSlot p.frame)).state = .offered → s.now.toNat < (s.rollLive (rollSlot p.frame)).deadline.toNat)
  let effect := fun (s : State) (p : Passed) (t : State) => RollEffect s t ∧ ∀ n, n ≠ rollSlot p.frame → t.rollLive n = s.rollLive n
  let refused := fun (s : State) (p : Passed) (st : Status) (t : State) => Completed p.frame st [] s t
    ∧ t.rollLive (rollSlot p.frame) = s.rollLive (rollSlot p.frame) ∧ (st = St.passStale → Counted Reg.rollStale 1 s t)
  let did := fun (s : State) (p : Passed) (sub : Nat) (l : Live) (t : State) =>
    t.rollLive (rollSlot p.frame) = { l with lastChange := s.now } ∧ Completed p.frame St.ok (rollBlock sub l) s t ∧ Counted Reg.rollOps 1 s t
  (∀ (s : State) (p : Passed) (c : BitVec 1024), ready s 1 p c →
    ∃ t, exec .rollRead s = .next t ∧ effect s p t ∧ Completed p.frame St.ok (s.rollEntry (rollSlot p.frame)) s t
    ∧ t.rollLive (rollSlot p.frame) = s.rollLive (rollSlot p.frame))
  ∧ ∀ (s : State) (p : Passed) (c : BitVec 1024), cfgPart c = false →
    let f := p.frame
    let l := s.rollLive (rollSlot f)
    let held := l.state = .held ∧ f.aux = l.epoch
    let offered := l.state = .offered ∧ f.aux = l.epoch
    let count := field f.payload 4 4
    let who : BitVec 24 := BitVec.ofNat 24 (field f.payload 4 3)
    let at_ := addPeriods s.bell.len s.bell.now.term s.bell.now.period (max 1 (bits (s.rd Reg.rollOfferTimeout).toNat 15 0))
    (ready s 2 p c → ∃ t, exec .rollCommit s = .next t ∧ effect s p t
      ∧ (held → l.committed ≤ count → count ≤ cfgCap c → did s p 2 { l with committed := count } t)
      ∧ (¬ held → refused s p St.passStale t) ∧ (held → ¬ (l.committed ≤ count ∧ count ≤ cfgCap c) → refused s p St.denied t))
    ∧ (ready s 0x10 p c → ∃ t, exec .rollOffer s = .next t ∧ effect s p t
      ∧ (held → agentPart who ≠ agentPart l.holder →
          did s p 0x10 { l with state := .offered, target := who, targetSession := 0, deadline := (BellTime.at0 at_.1 at_.2).stamp } t)
      ∧ (¬ held → refused s p St.passStale t) ∧ (held → agentPart who = agentPart l.holder → refused s p St.denied t))
    ∧ (ready s 0x11 p c → ∃ t, exec .rollWithdraw s = .next t ∧ effect s p t
      ∧ (offered → did s p 0x11 { l with state := .held, target := 0, targetSession := 0, deadline := 0 } t ∧ Counted Reg.rollReturned 1 s t)
      ∧ (¬ offered → refused s p St.passStale t))
    ∧ (ready s 0x12 p c → ∃ t, exec .rollTake s = .next t ∧ effect s p t
      ∧ (offered → f.srcSwitch = agentSwitch (agentPart l.target) → f.srcUnit.toNat = agentPort (agentPart l.target) →
          did s p 0x12 { l with state := .held, holder := l.target, holderSession := l.targetSession, epoch := l.epoch + 1, target := 0,
                                targetSession := 0, deadline := 0 } t)
      ∧ (¬ offered → refused s p St.passStale t) ∧ (offered → sentBy f l.target = false → refused s p St.denied t))
    ∧ (ready s 0x13 p c → (∀ k ∈ s.roll.claims, k.slot ≠ rollSlot f) → ∃ t, exec .rollClaim s = .next t ∧ effect s p t
      ∧ (l.state = .orphaned → f.aux = l.epoch + 1 →
          t.rollLive (rollSlot f) = { l with state := .held, holder := who, holderSession := 0, epoch := l.epoch + 1, lastChange := s.now }
          ∧ Counted Reg.rollClaims 1 s t
          ∧ ∃ k ∈ t.roll.claims, k.slot = rollSlot f ∧ k.frame = f ∧ k.committed = l.committed ∧ k.trims = cfgParts c)
      ∧ (¬ (l.state = .orphaned ∧ f.aux = l.epoch + 1) → refused s p St.passStale t))
    ∧ (ready s 0x14 p c → let keep := field f.payload 4 1 = 1
      ∃ t, exec .rollClose s = .next t ∧ effect s p t
      ∧ (held → (keep → cfgParts c = 0) → did s p 0x14 { l with state := .closed, frozen := decide keep } t)
      ∧ (¬ held → refused s p St.passStale t) ∧ (held → keep → cfgParts c ≠ 0 → refused s p St.denied t))
    ∧ (ready s 0x30 p c → let n := tkStation f.payload
      let fits := s.ticketFits (rollSlot f) f.payload = true ∧ f.srcUnit.toNat < 192
      ∃ t, exec .rollAttend s = .next t ∧ effect s p t ∧ t.rollLive (rollSlot f) = l
      ∧ (held → fits → s.roll.tickets.get none n = none →
          t.roll.tickets.get none n = some ⟨rollSlot f, l.epoch, byteRun f.payload 0 64, some (f, p.cls, p.cluster)⟩ ∧ Counted Reg.rollOps 1 s t)
      ∧ (held → fits → (s.roll.tickets.get none n).isSome = true → refused s p St.timeout t ∧ t.roll.tickets = s.roll.tickets)
      ∧ (held → ¬ fits → refused s p St.denied t) ∧ (¬ held → refused s p St.passStale t))

/-- At its deadline an offered pass returns to the holder under the next epoch, or is orphaned if the holder is dead. A
dead agent (its port's own death, AGENT_DOWN, a heartbeat with another session count, heartbeats that fail to come)
orphans the passes it holds, returns those offered to it under the next epoch, and leaves an offered pass whose holder
it was to its target. WATCH records the watcher and answers the session count; a heartbeat goes to every watching
switch when due; a failed WATCH is sent again after 16 periods. Pool memory, the roll's tables and other agents'
passes stay. (R378, R379, R380, R382, R383, R384) -/
def Obligations.PassLiveness : Prop :=
  let taken := fun (s : State) (sub : Nat) (p : Passed) => s.sw.passed.find? (fun p => isRoll sub p.frame) = some p
  let died := fun (a : AgentId) (s t : State) => ∀ slot, let l := s.rollLive slot
    let l' := t.rollLive slot
    l.live = true → cfgPart (s.rollCfg slot) = false → l.holderDead = false →
    (l.state = .held → agentPart l.holder = a → l'.state = .orphaned ∧ l'.epoch = l.epoch ∧ l'.committed = l.committed)
    ∧ (l.state = .offered → agentPart l.target = a → agentPart l.holder ≠ a →
        l'.state = .held ∧ l'.epoch = l.epoch + 1 ∧ l'.holder = l.holder ∧ l'.target = 0 ∧ l'.committed = l.committed)
    ∧ (l.state = .offered → agentPart l.holder = a → agentPart l.target ≠ a →
        l'.state = .offered ∧ l'.target = l.target ∧ l'.epoch = l.epoch ∧ l'.holderDead = true)
    ∧ (agentPart l.holder ≠ a → ¬ (l.state = .offered ∧ agentPart l.target = a) → l' = l)
  (∀ (slot : SlotId) (s : State), let l := s.rollLive slot.val
    let due := l.live = true ∧ l.state = .offered ∧ l.deadline.toNat ≤ s.now.toNat
    ∃ t, exec (.offerDeadline slot) s = .next t ∧ RollEffect s t ∧ (∀ n, n ≠ slot.val → t.rollLive n = s.rollLive n)
    ∧ (due → l.holderDead = false → Counted Reg.rollReturned 1 s t ∧ t.rollLive slot.val =
        { l with state := .held, epoch := l.epoch + 1, target := 0, targetSession := 0, deadline := 0, lastChange := s.now })
    ∧ (due → l.holderDead = true → (t.rollLive slot.val).state = .orphaned ∧ (t.rollLive slot.val).epoch = l.epoch + 1)
    ∧ (¬ due → t = s))
  ∧ (∀ (p : Port) (s : State), p ∈ s.sw.deadRoll → ∃ t, exec (.rollAgentDead p) s = .next t ∧ RollEffect s t
    ∧ t.sw.deadRoll = s.sw.deadRoll.erase p ∧ died (agentId s.swNum p.val) s t)
  ∧ (∀ (s : State) (p : Passed), taken s 0x23 p → ∃ t, exec .rollAgentDown s = .next t ∧ RollEffect s t
    ∧ died (agentId p.frame.srcSwitch (field p.frame.payload 4 1)) s t)
  ∧ (∀ (s : State) (p : Passed), taken s 0x22 p → let sw := p.frame.srcSwitch.toNat
    let wrong := s.roll.watched.filter (fun w => w.1 / 256 == sw && (match w.2 with
      | some x => !x.dead && (match x.count with
        | some n => field p.frame.payload (16 + w.1 % 256) 1 != n.toNat
        | none => false)
      | none => false))
    ∃ t, exec .rollHeartbeat s = .next t ∧ RollEffect s t ∧ t.roll.heardAt.get 0 sw = s.bell.bounds
    ∧ (wrong = [] → t.roll.live = s.roll.live) ∧ (∀ w, wrong = [w] → died (BitVec.ofNat 20 w.1) s t))
  ∧ (∀ (sw : Fin 4096) (s : State), s.roll.heardAt.get 0 sw.val + s.hbMiss * s.hbPeriods ≤ s.bell.bounds → ∀ w,
    s.roll.watched.filter (fun w => w.1 / 256 == sw.val && (match w.2 with
      | some x => !x.dead
      | none => false)) = [w] →
    ∃ t, exec (.hbLost sw) s = .next t ∧ RollEffect s t ∧ bit (t.rd Reg.rollErr) 7 = true ∧ died (BitVec.ofNat 20 w.1) s t)
  ∧ (∀ (s : State) (p : Passed), taken s 0x20 p → field p.frame.payload 4 1 < 192 → Answerable s p.frame p.cls →
    let port := field p.frame.payload 4 1
    ∃ t, exec .rollWatch s = .next t ∧ RollEffect s t ∧ t.roll.live = s.roll.live
    ∧ t.roll.watchers.get false (4096 * port + p.frame.srcSwitch.toNat) = (field p.frame.payload 5 1 == 1)
    ∧ Completed p.frame St.ok ([0x20, BitVec.ofNat 8 (s.sessionCount port)] ++ List.replicate 14 0) s t)
  ∧ (∀ s : State, ∃ t, exec .heartbeatSend s = .next t ∧ RollEffect s t ∧ t.roll.live = s.roll.live
    ∧ (s.bell.bounds < s.roll.sentAt + s.hbPeriods → t = s)
    ∧ (s.roll.sentAt + s.hbPeriods ≤ s.bell.bounds → t.roll.sentAt = s.bell.bounds
        ∧ ∀ w ∈ s.roll.watchers, let sw : BitVec 12 := BitVec.ofNat 12 (w.1 % 4096)
          (sw = s.swNum ∨ (s.routeOut sw rollClass).isSome = true) →
          ∃ e ∈ t.sw.queue, ∃ f : Frame, s.sw.nextId ≤ e.id ∧ e.bytes = f.toBytes ∧ f.dest = sw ∧ f.opcode = 0x40
            ∧ f.payload = [0x22] ++ List.replicate 15 0 ++ (List.range 192).map (fun p => BitVec.ofNat 8 (s.sessionCount p))))
  ∧ (∀ (sw : Fin 4096) (port : Fin 256) (s : State) (w : Watched) (on : Bool) (at_ : Nat),
    let key := 256 * sw.val + port.val
    s.roll.watched.get none key = some w → w.retry = some (on, at_) →
    ∃ t, exec (.watchRetry sw port) s = .next t ∧ RollEffect s t ∧ t.roll.live = s.roll.live
    ∧ (s.bell.bounds < at_ + 16 → t = s)
    ∧ (at_ + 16 ≤ s.bell.bounds → t.roll.msgs.get none s.roll.nextMsg = some (.watch key on)
        ∧ t.roll.watched.get none key = (if on then some { w with retry := none } else none)))

/-- At its BIND_SLOT of a firing period a station binds: a pending ticket of the epoch is bound (every bench copy carries
the entry's JOB) and its ATTEND completes with OK; a stale one ends with PASS_STALE in an empty firing; with none the
firing is empty and every bench copy is the template made empty. A part holds a forwarded ticket, reporting a late
one; TRIM opens its discards. When lines, planks and TRIMs of a claim are done it completes; a plank of it becomes
DISCARDED. The probe shows its slot; CLR_COUNTERS zeroes the counters. (R371, R373, R384, R389, R390, R392, R393,
R396) -/
def Obligations.StationsAndDiscards : Prop :=
  let taken := fun (s : State) (sub : Nat) (p : Passed) => s.sw.passed.find? (fun p => isRoll sub p.frame) = some p
  (∀ (station : Fin 1024) (s : State), let n := station.val
    let st := s.rollStation n
    let area := (s.localRead (stTemplate st) 0x2000).1
    let copy := fun (t : State) (i : Nat) => t.roll.bound.getRun 0 (8192 * n + 384 * i) 384
    stValid st = true → s.bell.now.slot.toNat = stBindSlot st → s.bell.now.period.toNat % stMod st = stPhase st →
    s.roll.boundAt.get 0 n ≠ s.bell.bounds + 1 →
    ∃ t, exec (.rollStationBind station) s = .next t ∧ RollEffect s t ∧ t.roll.boundAt.get 0 n = s.bell.bounds + 1
    ∧ t.roll.tickets.get none n = none
    ∧ (s.roll.tickets.get none n = none → Counted Reg.rollEmpty 1 s t ∧ t.roll.live = s.roll.live
        ∧ ∀ i, i < stBenches st → i < 16 → copy t i = emptyBench (byteRun area (384 * i) 384))
    ∧ (∀ k, s.roll.tickets.get none n = some k → ((s.rollLive k.slot).state = .offered → s.now.toNat < (s.rollLive k.slot).deadline.toNat) →
        let fresh := k.origin = none ∨ (s.rollLive k.slot).epoch = k.epoch
        t.roll.live = s.roll.live
        ∧ (fresh → Counted Reg.rollBound 1 s t
            ∧ (∀ i, i < stBenches st → i < 16 → field (copy t i) 4 2 = (cfgJob (s.rollCfg k.slot)).toNat)
            ∧ ∀ f c x, k.origin = some (f, c, x) → Answerable s f c → Completed f St.ok (rollBlock 0x30 (s.rollLive k.slot)) s t)
        ∧ (¬ fresh → Counted Reg.rollEmpty 1 s t ∧ Counted Reg.rollStale 1 s t ∧ bit (t.rd Reg.rollErr) 4 = true
            ∧ ∀ f c x, k.origin = some (f, c, x) → Answerable s f c → Completed f St.passStale [] s t)))
  ∧ (∀ (s : State) (p : Passed) (c : BitVec 1024), taken s 0x24 p → s.rollFind p.frame true = some c → cfgPart c = true →
    let n := tkStation p.frame.payload
    ∃ t, exec .rollForward s = .next t ∧ RollEffect s t ∧ t.roll.live = s.roll.live
    ∧ t.roll.tickets.get none n = some ⟨rollSlot p.frame, 0, byteRun p.frame.payload 0 64, none⟩
    ∧ ((s.roll.tickets.get none n).isSome = true ∨ s.roll.boundAt.get 0 n = s.bell.bounds + 1 → bit (t.rd Reg.rollErr) 5 = true)
    ∧ (Answerable s p.frame p.cls → Completed p.frame St.ok [] s t))
  ∧ (∀ (s : State) (p : Passed) (c : BitVec 1024), taken s 0x25 p → s.rollFind p.frame true = some c → cfgPart c = true →
    ∃ t k, exec .rollTrim s = .next t ∧ RollEffect s t ∧ t.roll.live = s.roll.live ∧ t.roll.claims = s.roll.claims ++ [k]
    ∧ k.slot = rollSlot p.frame ∧ k.frame = p.frame ∧ k.committed = field p.frame.payload 4 4 ∧ k.planks = [] ∧ k.trims = 0)
  ∧ (∀ (slot : SlotId) (s : State) (k : Claim), s.roll.claims.find? (fun k => k.slot == slot.val) = some k → k.lines = [] → k.trims = 0 →
    ∃ t, exec (.claimDiscardsDone slot) s = .next t ∧ t.roll.live = s.roll.live
    ∧ (k.planks = [] → RollEffect s t ∧ (∀ x ∈ t.roll.claims, x.slot ≠ slot.val)
        ∧ (Answerable s k.frame k.cls → Completed k.frame St.ok k.block s t))
    ∧ (∀ a d o sh, k.planks = [a] → s.mortise none (cfgJob (s.rollCfg slot.val)) true a plankBytes 2 = .pass d o sh → tieredBase ≤ o →
        ((s.mapEntry (o / plankBytes)).state = .moving → (∃ x ∈ t.roll.claims, x.slot = slot.val ∧ x.planks = [a]))
        ∧ ((s.mapEntry (o / plankBytes)).state ≠ .moving → (t.mapEntry (o / plankBytes)).state = .discarded
            ∧ ∀ x ∈ t.roll.claims, x.slot ≠ slot.val)))
  ∧ (∀ (h : HostPort) (s : State), Reaches s h Reg.rollProbeCtrl →
    let slot := bits (s.rd Reg.rollProbeSlot).toNat 14 0
    ∃ t, exec (.rollProbe h) s = .next t ∧ t.roll.probe = some (s.rollEntry slot, cfgValid (s.rollCfg slot))
    ∧ t = (s.touch h).withRoll { s.roll with probe := t.roll.probe })
  ∧ (∀ (h : HostPort) (s : State), Reaches s h Reg.rollCtrl →
    let zeros := [Reg.rollOps, Reg.rollStale, Reg.rollReturned, Reg.rollClaims, Reg.rollBound, Reg.rollEmpty, Reg.rollEventDrop,
      Reg.rollCacheMiss]
    ∃ t, exec (.rollClrCounters h) s = .next t ∧ (∀ off ∈ zeros, t.rd off = 0) ∧ RegsOnly zeros (s.touch h) t)

/-- A START entry that fires on a free unit counts a start: a sound descriptor becomes work in its acquire, and a walk's
target slots are no longer ready; a refused one ends as failed with BAD_DESC. On a busy unit it is skipped and
counted, with TT_OVERRUN. An acquire read that failed ends the work with its status; a flag that holds leads to
CONSUME or to the work itself (a session polls the flags of its LOCAL entries); one that does not hold is read again
after 8 slots, and ends the work with TIMEOUT when the wait is over. Other units and pool memory stay. (R72, R357,
R399, R400, R401, R407, R417, R515) -/
def Obligations.NetworkUnitStarts : Prop :=
  let alone := fun (u : NetId) (regs : List Nat) (s t : State) => WorkEffect (netRegs u.val ++ regs) s t ∧ ∀ v, v ≠ u → t.netUnit v = s.netUnit v
  let gone := fun (u : NetId) (w : NetWork) (s t : State) => (∀ v ∈ (t.netUnit u).works, v.ctx ≠ w.ctx) ∧ Counted (Reg.nuFailed u.val) 1 s t
  let at_ := fun (u : NetId) (w : NetWork) (stage : NetStage) (addrs : List Nat) (t : State) =>
    ∃ w' ∈ (t.netUnit u).works, w'.ctx = w.ctx ∧ w'.desc = w.desc ∧ w'.stage = stage ∧ w'.reqs.map UReq.addr = addrs
  (∀ (u : NetId) (s : State) (e : Nat × BitVec 128) (es : List (Nat × BitVec 128)), s.firingNow 2 u.val 1 = e :: es →
    (s.netUnit u).firedAt ≠ s.bell.ticks + 1 →
    let d := (s.localRead (ttDescOffset e.2) (netDescBytes u)).1
    let works := (s.netUnit u).works
    ∃ t, exec (.ttStartFire u) s = .next t
    ∧ alone u (recordRegs Reg.ttErr ++ [Reg.ttOverrunUnit] ++ recordRegs Reg.faultErr ++ [Reg.faultErrCapture]) s t
    ∧ (t.netUnit u).firedAt = s.bell.ticks + 1
    ∧ (s.netFree u = false → s.unitOffline u.val = false → (t.netUnit u).works = works ∧ bit (t.rd Reg.ttErr) 2 = true
        ∧ Counted (Reg.nuSkipped u.val) (es.length + 1) s t)
    ∧ (s.netFree u = true → s.localBad (ttDescOffset e.2) (netDescBytes u) = false →
        Counted (Reg.nuStarts u.val) 1 s t ∧ Counted (Reg.nuSkipped u.val) es.length s t
        ∧ (∀ st, s.netRefusal u d = some st → (t.netUnit u).works = works ∧ bit (t.rd Reg.netErr) 0 = true
            ∧ Counted (Reg.nuFailed u.val) 1 s t)
        ∧ (s.netRefusal u d = none → odAcq d = true → (netKind u = 0 → ∀ v ∈ works, rdSession v.desc ≠ rdSession d) →
            (∃ w, (t.netUnit u).works = works ++ [w] ∧ w.desc = d ∧ w.stage = .acquire ∧ w.started = s.bell.ticks
              ∧ w.seed = ttSeed s.tt.activeTag (168 + u.val) e.1 s.bell.now.period ∧ w.period = s.bell.now.period
              ∧ w.reqs.map UReq.addr = [odAcqFlag d / 128 * 128])
            ∧ (netKind u = 1 → ∀ i k, i < gdTargets d → (targetOf d i).kind = 0 → (s.targetSlots d (targetOf d i)).1 ≤ k →
                k < (s.targetSlots d (targetOf d i)).2 → ((t.bench (targetBench (targetOf d i))).slot k).ready = false))))
  ∧ ∀ (u : NetId) (s : State) (w : NetWork) (q : UReq) (qs : List UReq),
    (s.netUnit u).works.find? (fun w => w.stage == .acquire && allBack w.reqs) = some w → w.reqs = q :: qs →
    let d := w.desc
    let holds := delivers q.status = true ∧ flagHolds d q.data = true
    let waitOver := w.started + odWait d ≤ s.bell.ticks
    let flag := odAcqFlag d / 128 * 128
    ∃ t, exec (.nuAcquirePoll u) s = .next t ∧ alone u [] s t
    ∧ (delivers q.status = false → gone u w s t)
    ∧ (holds → field d 65 1 % 2 = 1 → at_ u w .consume [flag] t)
    ∧ (holds → field d 65 1 % 2 = 0 → netKind u = 0 → at_ u w .run (w.unready.map (fun p => p.2.flag / 128 * 128)) t)
    ∧ (holds → field d 65 1 % 2 = 0 → netKind u = 1 → ∃ w' ∈ (t.netUnit u).works, w'.ctx = w.ctx ∧ w'.desc = d ∧ w'.stage = .run)
    ∧ (delivers q.status = true → flagHolds d q.data = false → waitOver → gone u w s t ∧ bit (t.rd Reg.netErr) 2 = true)
    ∧ (delivers q.status = true → flagHolds d q.data = false → ¬ waitOver → s.bell.ticks < w.lastRead + 8 → t = s)
    ∧ (delivers q.status = true → flagHolds d q.data = false → ¬ waitOver → w.lastRead + 8 ≤ s.bell.ticks → at_ u w .acquire [flag] t)

/-- A CONTRIB segment that the open session expects is appended to its contribution, which ends with OK when whole, and
gets OK; with no session it gets DENIED, is counted and raises NET_ERR, as with another PERIOD. Flags are polled every
8 slots; one that holds starts the clear and the reads of its contribution, which is buffered when they are back. When
no contributor is missing a session merges, a relay sends its contributions, a failed contributor fails it; after the
merge's slots the results go out by KIND. At the deadline it fails with TIMEOUT. A DELIVER for an admitting A-role
port is queued toward it. (R402, R405, R406, R407, R408, R409, R410, R411, R412, R428) -/
def Obligations.ReduceSessions : Prop :=
  let alone := fun (u : NetId) (s t : State) => WorkEffect (netRegs u.val) s t ∧ ∀ v, v ≠ u → t.netUnit v = s.netUnit v
  let gone := fun (u : NetId) (w : NetWork) (t : State) => ∀ v ∈ (t.netUnit u).works, v.ctx ≠ w.ctx
  let becomes := fun (u : NetId) (w : NetWork) (t : State) (good : NetWork → Prop) =>
    ∃ w' ∈ (t.netUnit u).works, w'.ctx = w.ctx ∧ w'.desc = w.desc ∧ good w'
  let unitOf := fun (u : Fin 12) => (⟨u.val, by omega⟩ : NetId)
  (∀ (u : NetId) (s : State) (p : Passed), s.sw.passed.find? (fun p => p.frame.opcode == 0x58 && field p.frame.payload 0 1 == 1) = some p →
    u.val = bits p.frame.addr.toNat 23 16 % 12 → Answerable s p.frame p.cls →
    let f := p.frame
    let b := f.payload
    let session := (s.netUnit u).works.find? (fun w => w.failed.isNone && rdSession w.desc == f.addr.toNat % 65536 && odJob w.desc == f.job)
    let key := contribKey (field b 1 1) (field b 2 1)
    ∃ t, exec .contrib s = .next t ∧ alone u s t
    ∧ (session = none → Completed f St.denied [] s t ∧ (t.netUnit u).works = (s.netUnit u).works ∧ Counted Reg.netContribDrop 1 s t
        ∧ bit (t.rd Reg.netErr) 4 = true)
    ∧ (∀ w, session = some w → field b 8 2 ≠ w.period.toNat → Completed f St.denied [] s t ∧ (t.netUnit u).works = (s.netUnit u).works
        ∧ Counted Reg.netContribDrop 1 s t ∧ bit (t.rd Reg.netErr) 5 = true)
    ∧ (∀ w, session = some w → field b 8 2 = w.period.toNat → field b 1 1 < rdGroups w.desc → rdExpects w.desc (field b 2 1) = true →
        (w.contrib key).ended = none → field b 4 1 = 0 → field b 16 4 = contribSize w.desc (field b 22 2) →
        field b 12 4 = (w.contrib key).data.length → (w.contrib key).data.length + (b.drop 32).length ≤ field b 16 4 →
        Completed f St.ok [] s t
        ∧ becomes u w t (fun w' => (w'.contrib key).data = (w.contrib key).data ++ b.drop 32
            ∧ ((w'.contrib key).ended = some St.ok ↔ (w.contrib key).data.length + (b.drop 32).length = field b 16 4))))
  ∧ (∀ (u : Fin 12) (s : State) (w : NetWork), (s.netUnit (unitOf u)).works = [w] → w.stage = .run →
    ∃ t, exec (.reduceFlagPoll u) s = .next t ∧ alone (unitOf u) s t
    ∧ (w.reqs = [] → w.unready ≠ [] → w.lastRead + 8 ≤ s.bell.ticks → becomes (unitOf u) w t (fun w' => w'.lastRead = s.bell.ticks
        ∧ w'.reqs.map UReq.addr = w.unready.map (fun p => p.2.flag / 128 * 128)))
    ∧ (∀ r e, w.reqs = [r] → r.what = .flag e → e < 16 → r.got.isSome = true → delivers r.status = true →
        field r.data ((localEntry w.desc e).flag % 128) 8 ≠ 0 →
        becomes (unitOf u) w t (fun w' => w'.held = w.held ++ [e]
          ∧ ∃ q ∈ w'.reqs, q.what = .clear e ∧ q.addr = (localEntry w.desc e).flag / 128 * 128)))
  ∧ (∀ (u : Fin 12) (s : State) (w : NetWork) (e : Nat) (x : LocalEntry),
    let ready := fun (w : NetWork) => (locals w.desc).find? (fun p => w.held.contains p.1
      && (w.contrib (contribKey p.2.group p.2.contrib)).ended.isNone && allBack (entryReqs w.reqs p.1))
    (s.netUnit (unitOf u)).works.find? (fun w => w.stage == .run && (ready w).isSome) = some w → ready w = some (e, x) →
    let rs := entryReqs w.reqs e
    let size := contribSize w.desc x.rc
    let main := if rdFn w.desc = 3 then 4 * x.rc * rdCols w.desc else size
    ∃ t, exec (.reduceLocalReadDone u) s = .next t ∧ alone (unitOf u) s t
    ∧ becomes (unitOf u) w t (fun w' => let c := w'.contrib (contribKey x.group x.contrib)
        c.ended = some ((firstNotOk rs).getD St.ok) ∧ c.row0 = x.row0 ∧ c.rc = x.rc
        ∧ c.data = readBack rs (.data e 0) x.data main ++ readBack rs (.ml e 0) x.ml (size - main)))
  ∧ (∀ (u : Fin 12) (s : State) (w : NetWork), (s.netUnit (unitOf u)).works = [w] → w.stage = .run → w.missing = [] →
    let failure := ((contributors w.desc).mergeSort (fun a b => decide (a ≤ b))).findSome? (fun k =>
      ((w.contrib k).ended).bind (fun st => if st == St.ok then none else some st))
    ∃ t, exec (.reduceMergeStart u) s = .next t ∧ alone (unitOf u) s t
    ∧ (rdKind w.desc = 3 → s.relayAsks w ≠ [] → becomes (unitOf u) w t (fun w' => w'.stage = .deliver
        ∧ w'.reqs.map UReq.addr = (s.relayAsks w).map NetAsk.addr))
    ∧ (rdKind w.desc ≠ 3 → failure = none → becomes (unitOf u) w t (fun w' => w'.stage = .merge ∧ w'.mergeAt = s.bell.ticks))
    ∧ (∀ st, rdKind w.desc = 2 → failure = some st → rdGroups w.desc ≠ 0 → becomes (unitOf u) w t (fun w' => w'.stage = .deliver ∧ w'.failed = some st))
    ∧ (∀ st, rdKind w.desc < 2 → failure = some st → gone (unitOf u) w t))
  ∧ (∀ (u : Fin 12) (s : State) (w : NetWork), (s.netUnit (unitOf u)).works.find? (fun w => w.stage == .merge
      && decide (w.mergeAt + w.mergeSlots ≤ s.bell.ticks)) = some w →
    let asks := s.sessionAsks (unitOf u) w
    ∃ t, exec (.reduceMergeDone u) s = .next t ∧ alone (unitOf u) s t
    ∧ (asks ≠ [] → becomes (unitOf u) w t (fun w' => w'.stage = .deliver ∧ w'.reqs.map UReq.addr = asks.map NetAsk.addr))
    ∧ (∀ q, asks.head? = some q → rdKind w.desc = 1 → (∀ x ∈ s.mort.tags, x.unit ≠ netUnitId (unitOf u)) → NetSent w q s t)
    ∧ (asks = [] → w.failed = none → odRel w.desc = false → gone (unitOf u) w t))
  ∧ (∀ (u : Fin 12) (s : State) (w : NetWork), (s.netUnit (unitOf u)).works.find? (fun w => (w.stage == .acquire || w.stage == .consume
      || w.stage == .run) && !w.missing.isEmpty && decide (w.started + s.deadlineOf w.desc ≤ s.bell.ticks)) = some w →
    ∃ t, exec (.reduceDeadline u) s = .next t ∧ alone (unitOf u) s t ∧ bit (t.rd Reg.netErr) 3 = true
    ∧ (rdKind w.desc < 2 → gone (unitOf u) w t ∧ Counted (Reg.nuFailed u.val) 1 s t)
    ∧ (rdKind w.desc = 2 → rdGroups w.desc ≠ 0 → becomes (unitOf u) w t (fun w' => w'.stage = .deliver ∧ w'.failed = some St.timeout))
    ∧ (rdKind w.desc = 3 → becomes (unitOf u) w t (fun w' => w'.stage = .run ∧ ∀ k ∈ w.missing, (w'.contrib k).ended = some St.timeout)))
  ∧ (∀ (s : State) (p : Passed), s.sw.passed.find? (fun p => p.frame.opcode == 0x58 && field p.frame.payload 0 1 == 8) = some p →
    ∃ t, exec .deliver s = .next t ∧ FabricEffect fabricRegs s t
    ∧ (∀ q, portOf (p.frame.addr.toNat % 256) = some q → s.role q = 1 → s.portActive q = true → (s.admitSlot q p.frame.job).isSome = true →
        ∃ e, t.sw.queue = s.sw.queue ++ [e] ∧ e.dest = .port q ∧ e.cls = p.cls ∧ e.bytes = p.frame.toBytes)
    ∧ (∀ q, portOf (p.frame.addr.toNat % 256) = some q → s.role q ≠ 1 → Answerable s p.frame p.cls → Completed p.frame St.denied [] s t))

/-- What a walk has read leads on: a list entry to its block table entry, a block table entry of this switch and format to
its plank, a plank for a bench to its store slot, which then holds the data and is ready, a plank for the pool to its
write. A failed request, a table entry of another switch (DENIED) or format (FORMAT) fails the walk. A walk with
everything delivered, or failed, ends. A selection whose inputs have come writes its numbers, and scores where VALUES
names a place; a failed input ends it. Other units and pool memory stay. (R370, R371, R401, R413, R415, R416, R417,
R420, R447) -/
def Obligations.WalksAndSelections : Prop :=
  let alone := fun (u : NetId) (s t : State) => WorkEffect (netRegs u.val) s t ∧ ∀ v, v ≠ u → t.netUnit v = s.netUnit v
  let gone := fun (u : NetId) (w : NetWork) (t : State) => ∀ v ∈ (t.netUnit u).works, v.ctx ≠ w.ctx
  let becomes := fun (u : NetId) (w : NetWork) (t : State) (good : NetWork → Prop) =>
    ∃ w' ∈ (t.netUnit u).works, w'.ctx = w.ctx ∧ w'.desc = w.desc ∧ good w'
  (∀ (u : NetId) (s : State) (w : NetWork) (q : UReq) (qs : List UReq), netKind u = 1 → (s.netUnit u).works.find? s.walkDue = some w →
    w.reqs = q :: qs →
    let d := w.desc
    let t0 := targetOf d w.target
    let data := w.reqs.flatMap UReq.data
    let e := field data w.base 8
    ∃ t, exec (.gatherFetchDone u) s = .next t ∧ alone u s t
    ∧ (∀ st, firstNotOk w.reqs = some st → becomes u w t (fun w' => w'.failed = some st)
        ∧ (t0.kind = 0 → expansionFailure st = true →
            ((t.bench (targetBench t0)).slot w.destSlot).ready = false ∧ ((t.bench (targetBench t0)).slot w.destSlot).invalid = some st))
    ∧ (firstNotOk w.reqs = none → q.what = .list → gdKind d = 0 →
        let b := field data ((field d 144 8 + 4 * (field d 140 4 * t0.head + t0.first + w.pos / s.planksPer d)) % 128) 4
        (∀ slot own, b ≠ 0xFFFFFFFF → s.resolveBlock 64 (gdSlot d) b = some (slot, own) →
          s.inShape slot (gdLayer d) (gdHead0 d + t0.head) = true →
          becomes u w t (fun w' => w'.reqs.map UReq.addr = lineAddrs
            (cfgTable (s.rollCfg slot) + 8 * s.entryIndex slot own (gdLayer d) (gdHead0 d + t0.head)) 8))
        ∧ (b = 0xFFFFFFFF → becomes u w t (fun w' => w'.failed = some St.denied)))
    ∧ (firstNotOk w.reqs = none → q.what = .table →
        (bits e 63 48 ≠ s.swNum.toNat → becomes u w t (fun w' => w'.failed = some St.denied))
        ∧ (bits e 63 48 = s.swNum.toNat → e % 4 ≠ 1 → becomes u w t (fun w' => w'.failed = some St.format))
        ∧ (bits e 63 48 = s.swNum.toNat → e % 4 = 1 →
            becomes u w t (fun w' => w'.reqs.map UReq.addr = [e / 32768 * 32768 + 32768 * (w.pos % s.planksPer d)])))
    ∧ (firstNotOk w.reqs = none → q.what = .plank → t0.kind = 0 →
        (t.bench (targetBench t0)).store.getRun 0 (32768 * w.destSlot) q.data.length = q.data
        ∧ ((t.bench (targetBench t0)).slot w.destSlot).ready = true
        ∧ ((t.bench (targetBench t0)).slot w.destSlot).invalid = none
        ∧ (0 < q.data.length → ((t.bench (targetBench t0)).slot w.destSlot).owner = some (odJob d)))
    ∧ (firstNotOk w.reqs = none → q.what = .plank → t0.kind = 1 →
        becomes u w t (fun w' => w'.reqs.map UReq.addr = [field d 160 8 + (t0.dest + w.pos) * 32768])))
  ∧ (∀ (u : NetId) (s : State) (w : NetWork), netKind u = 1 → (s.netUnit u).works.find? (fun w => w.stage == .run && allBack w.reqs
      && (w.failed.isSome || (w.reqs.isEmpty && decide (gdTargets w.desc ≤ w.target)))) = some w →
    ∃ t, exec (.gatherWalkDone u) s = .next t ∧ alone u s t
    ∧ (∀ st, w.failed = some st → gone u w t ∧ (st ≠ St.ok → st ≠ St.scope → Counted (Reg.nuFailed u.val) 1 s t))
    ∧ (w.failed = none → odRel w.desc = false → gone u w t)
    ∧ (w.failed = none → odRel w.desc = true → becomes u w t (fun w' => w'.stage = .release ∧ w'.reqs.map UReq.addr = [odRelFlag w.desc])))
  ∧ (∀ (u : NetId) (s : State) (w : NetWork), netKind u = 2 → (s.netUnit u).works.find? (fun w => w.stage == .run && allBack w.reqs) = some w →
    let d := w.desc
    let rs := (List.range (fdHeads d)).map (fun j => headResult d (s.headScores w j).1)
    let asks := s.writeAsks (field d 184 8) (rs.flatMap (·.1))
      ++ (if field d 192 8 = 0 then [] else s.writeAsks (field d 192 8) (rs.flatMap (·.2)))
    ∃ t, exec (.filterSelectDone u) s = .next t ∧ alone u s t
    ∧ (∀ st, firstNotOk w.reqs = some st → gone u w t)
    ∧ (firstNotOk w.reqs = none → fdHeads d = 0 → odRel d = false → gone u w t)
    ∧ (firstNotOk w.reqs = none → fdHeads d ≠ 0 → (fdKind d = 1 ∨ blockScaled (field d 139 1) = false) → asks ≠ [] →
        becomes u w t (fun w' => w'.stage = .deliver ∧ w'.reqs.map UReq.addr = asks.map NetAsk.addr)
        ∧ ∀ q, asks.head? = some q → (∀ x ∈ s.mort.tags, x.unit ≠ netUnitId u) → NetSent w q s t))

/-- Where every listed entry is live: a lookup counts the hashes from the first that have an entry, and its completion
carries that number with the depth, slot, sequence and COMMITTED of the last, or zeros. Before pool initialization
nothing matches. An insert of one hash of a frozen closed context is a duplicate, takes the lowest free way of its
bucket, or replaces the deepest way and counts the eviction; its completion says which. Any other insert gets DENIED
and changes no entry. CLR_COUNTERS zeroes the counters. (R423, R424, R425, R426, R427, R429) -/
def Obligations.PrefixIndex : Prop :=
  let taken := fun (s : State) (sub : Nat) (p : Passed) => s.sw.passed.find? (fun p => p.frame.opcode == 0x58 && field p.frame.payload 0 1 == sub) = some p
  let allLive := fun (s : State) => ∀ i, pxDepth (s.net.pfx.get 0 i) ≠ 0 → s.pxLive (s.net.pfx.get 0 i) = true
  let alone := fun (s t : State) => WorkEffect (netRegs 0) s t ∧ t.net.units = s.net.units ∧ t.benches = s.benches
  (∀ (s : State) (p : Passed), taken s 0x10 p → Answerable s p.frame p.cls → allLive s →
    let f := p.frame
    let look := fun (h : Nat) => s.pxFind (s.pxBucket h f.job) h f.job
    let hit := ((List.range (field f.payload 2 2)).map (pxArg f)).takeWhile (fun h => (look h).isSome)
    ∃ t, exec .pfxLookup s = .next t ∧ alone s t ∧ t.net = s.net ∧ Counted Reg.netPfxLookups 1 s t
    ∧ (s.net.pfxLog2 = 0 ∨ hit = [] → Completed f St.ok (List.replicate 32 0) s t ∧ Counted Reg.netPfxHits 0 s t)
    ∧ (∀ h e, s.net.pfxLog2 ≠ 0 → hit.getLast? = some h → look h = some e → Counted Reg.netPfxHits hit.length s t
        ∧ Completed f St.ok (leBytes 2 hit.length ++ [0, 0] ++ leBytes 4 (pxDepth e) ++ leBytes 2 (pxSlot e) ++ leBytes 2 s.swNum.toNat
            ++ leBytes 4 (cfgSeq (s.rollCfg (pxSlot e))) ++ leBytes 4 (s.rollLive (pxSlot e)).committed ++ List.replicate 12 0) s t))
  ∧ (∀ (s : State) (p : Passed), taken s 0x11 p → Answerable s p.frame p.cls → allLive s → field p.frame.payload 2 2 = 1 →
    let f := p.frame
    let first := field f.payload 4 4
    let slot := field f.payload 8 2 % 32768
    let seq := field f.payload 12 4
    let l := s.rollLive slot
    let good := s.net.pfxLog2 ≠ 0 ∧ s.contextOk slot seq f.job = true ∧ l.state = .closed ∧ l.frozen = true ∧ 1 ≤ first ∧ first * 16 ≤ l.committed
    let hash := pxArg f 0
    let b := s.pxBucket hash f.job
    let way := fun (t : State) (i : Nat) => t.net.pfx.get 0 (16 * b + i)
    let e := pxEntry hash f.job slot (seq % 65536) first
    let answer := fun (ins dup ev : Nat) (t : State) => Completed f St.ok (leBytes 2 ins ++ leBytes 2 dup ++ leBytes 2 ev ++ List.replicate 10 0) s t
    let puts := fun (i : Nat) (t : State) => way t i = e ∧ ∀ j, j ≠ 16 * b + i → t.net.pfx.get 0 j = s.net.pfx.get 0 j
    ∃ t, exec .pfxInsert s = .next t ∧ alone s t
    ∧ (¬ good → Completed f St.denied [] s t ∧ t.net = s.net ∧ bit (t.rd Reg.netErr) 8 = true)
    ∧ (good → (s.pxFind b hash f.job).isSome = true → answer 0 1 0 t ∧ t.net = s.net ∧ Counted Reg.netPfxDup 1 s t)
    ∧ (good → s.pxFind b hash f.job = none →
        (∀ i, i < 16 → pxDepth (way s i) = 0 → (∀ j, j < i → pxDepth (way s j) ≠ 0) →
          answer 1 0 0 t ∧ puts i t ∧ Counted Reg.netPfxInserts 1 s t)
        ∧ ((∀ i, i < 16 → pxDepth (way s i) ≠ 0) →
            answer 1 0 1 t ∧ Counted Reg.netPfxEvict 1 s t ∧ ∃ i, i < 16 ∧ puts i t ∧ ∀ j, j < 16 → pxDepth (way s j) ≤ pxDepth (way s i))))
  ∧ (∀ (h : HostPort) (s : State), Reaches s h Reg.netCtrl →
    let zeros := [Reg.netPfxLookups, Reg.netPfxHits, Reg.netPfxInserts, Reg.netPfxDup, Reg.netPfxEvict, Reg.netPfxStale,
      Reg.netContribDrop] ++ (List.range 36).flatMap (fun u => [Reg.nuStarts u, Reg.nuSkipped u, Reg.nuFailed u, Reg.nuBytesLo u, Reg.nuBytesHi u])
    ∃ t, exec (.netClrCounters h) s = .next t ∧ (∀ off ∈ zeros, t.rd off = 0) ∧ (∀ u, (t.netUnit u).busy = 0)
    ∧ (s.net.units.wf (fun _ => NetUnit.reset) = true → ∀ u, (t.netUnit u).works = (s.netUnit u).works)
    ∧ RegsOnly zeros ((s.touch h).withNet { s.net with units := t.net.units }) t)

/-- A plank that codes goes on as its veneered bytes and is counted; one that declines goes on as it is, counted under its
reason. An expansion that passes the checks goes on as its 32,768 bytes; a refused one raises its bit of VEN_ERR and
ends, a promotion's plank staying as it was. BASIS_LOAD writes a slot that holds no references and is RESIDENT with
its table, check, shape and tag; a busy one gets TABLE_BUSY, a table with NaN or Inf DENIED. BASIS_SAVE writes header
and table to host memory; SELECT names the current slot; FREE frees an unreferenced one. Memory and other slots stay.
(R434, R436, R437, R438, R440, R441, R445, R446, R447, R448, R449) -/
def Obligations.VeneerCommands : Prop :=
  let only := fun (s : State) (w : Work) => ∀ v ∈ s.pool.works, v.id = w.id → v = w
  let goesOn := fun (w : Work) (t : State) (good : Work → Prop) => ∃ v ∈ t.pool.works, v.id = w.id ∧ v.plank = w.plank ∧ v.goal = w.goal ∧ good v
  let onward := fun (w v : Work) => v.stage = (if w.goal = .demote then Stage.media else Stage.commit)
  (∀ (e : EngineId) (s : State) (w : Work), s.nextWork e.val .compress = some w → only s w →
    ∃ t, exec (.veneerCompress e) s = .next t ∧ t.pool.mem = s.pool.mem
    ∧ (∀ b r, s.venCode w.data w.obj w.slot = .done b r → Counted Reg.venCompressed 1 s t
        ∧ goesOn w t (fun v => v.data = b ∧ v.ven = true ∧ onward w v))
    ∧ (∀ c, s.venCode w.data w.obj w.slot = .declined c → Counted (Reg.venDecline c) 1 s t ∧ (c = 1 → bit (t.rd Reg.venErr) 4 = true)
        ∧ goesOn w t (fun v => v.data = w.data ∧ v.ven = false ∧ v.slot = none ∧ onward w v)))
  ∧ (∀ (e : EngineId) (s : State) (w : Work), s.nextWork e.val .expand = some w → only s w → s.mort.served = [] →
    ∃ t, exec (.veneerExpand e) s = .next t ∧ t.pool.mem = s.pool.mem
    ∧ (∀ st b, s.venRefusal w.data w.lenOk (objShape w.obj) = some (st, b) → bit (t.rd Reg.venErr) b = true
        ∧ (∀ v ∈ t.pool.works, v.id ≠ w.id) ∧ (w.goal = .promote → t.mapEntry w.plank = w.old))
    ∧ (s.venRefusal w.data w.lenOk (objShape w.obj) = none → s.storesCoded w = true →
        goesOn w t (fun v => v.data = w.data ∧ v.ven = w.ven ∧ v.stage = .commit))
    ∧ (s.venRefusal w.data w.lenOk (objShape w.obj) = none → s.storesCoded w = false → w.goal ≠ .read →
        Counted Reg.venExpanded 1 s t ∧ goesOn w t (fun v => v.data = s.venExpand w.data ∧ v.ven = false ∧ v.stage = .commit))
    ∧ (s.venRefusal w.data w.lenOk (objShape w.obj) = none → s.storesCoded w = false → w.goal = .read → ∀ v ∈ t.pool.works, v.id ≠ w.id))
  ∧ (∀ (h : HostPort) (q : RingId) (s : State) (d : Desc) (data : Bytes), s.fault.running = [] →
    let m := bStream d
    let g := bGen d
    let fresh := fun (k : Nat) => Starts s h q k d ∧ ∀ e ∈ s.sqInFlight h q, e.started = true → dType e ≠ k
    let frame := fun (t : State) => t.pool.mem = s.pool.mem ∧ ChangesOnly (doneRegs h d ++ recordRegs Reg.venErr
      ++ [Reg.venErrCapture, Reg.venErrPlankLo, Reg.venErrPlankHi, Reg.venTableBusy]) (s.withPool t.pool) t
    let ends := fun (t : State) (st : Status) (result : Nat) => Completes h (startedDesc s d) st.toNat result s t
    let others := fun (t : State) (k : Nat) => ∀ m' g', slotKey m' g' ≠ slotKey m k → t.slot m' g' = s.slot m' g'
    (fresh 0x20 →
      let shape := dField d 18 1
      let rmax := dField d 19 1
      let table := byteRun data 0 (2 * rmax * shapeCols shape)
      let good := (g ≤ 3 ∨ g = 0xFF) ∧ veneerShape shape = true ∧ 1 ≤ rmax ∧ rmax ≤ 64 ∧ dField d 20 2 ≠ 0 ∧ dField d 32 8 % 64 = 0
      ∃ t, exec (.basisLoad h q data) s = .next t ∧ frame t
      ∧ (¬ good → ends t St.rsvdSet 0 ∧ t.pool = s.pool)
      ∧ (good → s.slotForWrite m g = none → ends t St.tableBusy 0 ∧ t.pool = s.pool ∧ Counted Reg.venTableBusy 1 s t)
      ∧ (∀ k, good → s.slotForWrite m g = some k →
          let bad := ∃ c ∈ tableCodes table, 0x7F7F < c % 32768
          (bad → ends t St.denied 0 ∧ t.pool = s.pool ∧ bit (t.rd Reg.venErr) 6 = true)
          ∧ (¬ bad → ends t St.ok k ∧ others t k ∧ let x := t.slot m k
              x.state = .resident ∧ x.shape = shape ∧ x.rmax = rmax ∧ x.cols = shapeCols shape ∧ x.tag = BitVec.ofNat 16 (dField d 20 2)
              ∧ x.refs = 0 ∧ x.table = table ∧ x.check = crc32c table ∧ x.loaded = s.now)))
    ∧ (fresh 0x21 → let b := s.slot m g
      let good := g ≤ 3 ∧ dField d 32 8 % 64 = 0
      ∃ t, exec (.basisSave h q) s = .next t ∧ frame t ∧ t.pool = s.pool
      ∧ (¬ good → ends t St.rsvdSet 0) ∧ (good → b.state ≠ .resident → ends t St.tableGen 0)
      ∧ (good → b.state = .resident → ends t St.ok (b.header ++ b.table).length
          ∧ Out.hostWrite (s.setOwner h) (dAddr d 32) (b.header ++ b.table) ∈ t.out))
    ∧ (fresh 0x22 → ∃ t, exec (.basisSelect h q) s = .next t ∧ frame t
      ∧ t.pool = { s.pool with current := t.pool.current }
      ∧ (¬ (g ≤ 3 ∨ g = 0xFF) → ends t St.rsvdSet 0 ∧ t.pool = s.pool)
      ∧ (g = 0xFF → ends t St.ok 0 ∧ t.pool.current.get none m = none)
      ∧ (g ≤ 3 → (s.slot m g).state = .resident → ends t St.ok 0 ∧ t.pool.current.get none m = some g)
      ∧ (g ≤ 3 → (s.slot m g).state ≠ .resident → ends t St.tableGen 0 ∧ t.pool = s.pool))
    ∧ (fresh 0x23 → ∃ t, exec (.basisFree h q) s = .next t ∧ frame t
      ∧ (3 < g → ends t St.rsvdSet 0 ∧ t.pool = s.pool)
      ∧ (g ≤ 3 → (s.slot m g).refs ≠ 0 → ends t St.tableBusy 0 ∧ t.pool = s.pool ∧ Counted Reg.venTableBusy 1 s t)
      ∧ (g ≤ 3 → (s.slot m g).refs = 0 → ends t St.ok 0 ∧ t.slot m g = { s.slot m g with state := .free } ∧ others t g
          ∧ t.pool.current.get none m ≠ some g)))
  ∧ (∀ (h : HostPort) (s : State), Reaches s h Reg.venCtrl →
    let zeros := [Reg.venCompressed, Reg.venExpanded, Reg.venInBytesLo, Reg.venInBytesHi, Reg.venOutBytesLo, Reg.venOutBytesHi, Reg.venCmpLen,
      Reg.venTableGen, Reg.venTableBusy, Reg.venCheckFail] ++ [1, 2, 3, 4, 5].map Reg.venDecline
      ++ (List.range 16).flatMap (fun e => [Reg.mdmaBasisMiss e, Reg.mdmaBusyLo e, Reg.mdmaBusyHi e])
    ∃ t, exec (.venClrCounters h) s = .next t ∧ (∀ off ∈ zeros, t.rd off = 0) ∧ RegsOnly zeros (s.touch h) t)

/-- A doorbell that names a place in its ring moves the tail or head there; any other raises DB_INVALID and moves nothing.
Enabling a ring empties it; a write to an enabled ring's configuration is CFG_LIVE, one through the other host's port
FOREIGN_WRITE. A fetch takes the next descriptor of its SQ into flight, reserves its completion entry and advances the
head; a malformed one completes at once with its status. An entry left unsignalled for INT_PERIODS raises its vector.
A finished readback sets both HRDY pins to what is due. NOP completes with OK. CLR_COUNTERS zeroes the counters.
(R459, R460, R461, R462, R463, R465, R466, R468, R470, R477, R482) -/
def Obligations.HostRings : Prop :=
  (∀ (h : HostPort) (r : RingId) (v : Word) (s : State), s.answers (s.setOwner h) = true → s.boot.state ≠ .off →
    let n := hostNum h
    let new := bits v.toNat 15 0
    let size := ringSize (s.rd (Reg.sqCfg n r.val))
    let head := (s.rd (Reg.sqHead n r.val)).toNat % size
    let tail := (s.rd (Reg.sqTail n r.val)).toNat % size
    let fits := new < size ∧ (tail + size - head) % size + (new + size - tail) % size < size
    let csize := ringSize (s.rd (ringCfg h r.val))
    let chead := (s.rd (ringHead h r.val)).toNat % csize
    let cfits := new < csize ∧ (new + csize - chead) % csize ≤ s.ringFill h r.val
    let up := s.touch (s.setOwner h)
    (∃ t, exec (.sqDoorbell h r v) s = .next t
      ∧ (fits → t.rd (Reg.sqTail n r.val) = BitVec.ofNat 32 new ∧ RegsOnly [Reg.sqTail n r.val] up t)
      ∧ (¬ fits → bit (t.rd (Reg.hostErr n)) 0 = true ∧ ChangesOnly [] up t))
    ∧ (∃ t, exec (.cqDoorbell h r v) s = .next t
      ∧ (cfits → t.rd (ringHead h r.val) = BitVec.ofNat 32 new ∧ ChangesOnly [ringHead h r.val, ringTail h r.val] up t)
      ∧ (¬ cfits → bit (t.rd (Reg.hostErr n)) 0 = true ∧ ChangesOnly [] up t))
    ∧ ∃ t, exec (.evtDoorbell h v) s = .next t
      ∧ (new < ringSize (s.rd (ringCfg h 64)) → t.rd (ringHead h 64) = BitVec.ofNat 32 new ∧ ChangesOnly [ringHead h 64] up t)
      ∧ (ringSize (s.rd (ringCfg h 64)) ≤ new → bit (t.rd (Reg.hostErr n)) 0 = true ∧ ChangesOnly [] up t))
  ∧ (∀ (h : HostPort) (off : BitVec 25) (v : Word) (s : State) (r : RingReg), ringRegOf off.toNat = some r → Reaches s h off.toNat →
    let foreign := h ≠ r.set ∧ (s.host r.set).ring ≠ .quiesced
    let live := ringEnabled (s.rd (r.base + 8)) = true
    ∃ t, exec (.ringCfgWrite h off v) s = .next t
    ∧ (foreign → bit (t.rd (Reg.hostErr (hostNum r.set))) 2 = true ∧ ChangesOnly [] (s.touch h) t)
    ∧ (¬ foreign → r.word = 2 → live → bit v 31 = true → bit (t.rd (Reg.hostErr (hostNum r.set))) 1 = true ∧ ChangesOnly [] (s.touch h) t)
    ∧ (¬ foreign → r.word = 2 → live → bit v 31 = false →
        t.rd (r.base + 8) = v &&& regMask (r.base + 8) ∧ ChangesOnly [r.base + 8] (s.touch h) t)
    ∧ (¬ foreign → r.word = 2 → ¬ live → bit v 31 = true → (s.host r.set).held = [] →
        t.rd (r.base + 8) = v &&& regMask (r.base + 8) ∧ t.rd (r.base + 0x0C) = 0
        ∧ t.rd (r.base + 0x10) = (if r.kind = 0 then 0 else 0x10000)
        ∧ (h = r.set → (s.host h).ring = .quiesced → (t.host h).ring = .active)
        ∧ ChangesOnly [r.base + 8, r.base + 0x0C, r.base + 0x10] (s.touch h) t))
  ∧ (∀ (h : HostPort) (q : RingId) (data : Bytes) (s : State), s.nextSq h = some q → (∀ e ∈ (s.host h).flight, e.id ≠ (s.host h).nextId) →
    let n := hostNum h
    let cfg := s.rd (Reg.sqCfg n q.val)
    let cq := bits cfg.toNat 21 16 % 64
    ∃ t d, exec (.descriptorFetch h q data) s = .next t ∧ d.bytes = byteRun data 0 64 ∧ d.sq = q ∧ d.cq.val = cq ∧ d.started = false
    ∧ (t.rd (Reg.sqHead n q.val)).toNat = ((s.rd (Reg.sqHead n q.val)).toNat + 1) % ringSize cfg
    ∧ ChangesOnly (Reg.sqHead n q.val :: doneRegs h d) s t
    ∧ (descRefusal d.bytes = none → (t.host h).flight = (s.host h).flight ++ [d]
        ∧ (t.host h).reserved.get 0 cq = (s.host h).reserved.get 0 cq + 1)
    ∧ (∀ st, descRefusal d.bytes = some st → Completes h d st.toNat 0 s t ∧ (t.host h).flight = (s.host h).flight))
  ∧ (∀ (h : HostPort) (ring : Fin 65) (s : State), let u := (s.host h).unsig.get (0, 0) ring.val
    let cfg := (s.rd (ringCfg h ring.val)).toNat
    let due := u.1 ≠ 0 ∧ bits cfg 13 6 ≠ 0 ∧ u.2 + bits cfg 13 6 ≤ s.bell.bounds
    ∃ t, exec (.intTimeout h ring) s = .next t ∧ (¬ due → t = s)
    ∧ (due → t.out = .msix (s.setOwner h) (BitVec.ofNat 8 (bits cfg 29 22)) :: s.out ∧ (t.host h).unsig.get (0, 0) ring.val = (0, 0)
        ∧ t = (s.withHost h { s.host h with unsig := (t.host h).unsig }).withOut t.out))
  ∧ (∀ (h : HostPort) (ring : Fin 65) (s : State), ∃ t, exec (.hrdyReadbackDone h ring) s = .next t
    ∧ (t.host h).readback.get 0 ring.val = 0 ∧ (∀ g, (t.host g).hrdy = t.hrdyDue g)
    ∧ (∀ k, k ≠ ring.val → (t.host h).readback.get 0 k = (s.host h).readback.get 0 k)
    ∧ t = (s.withHost .a (t.host .a)).withHost .b (t.host .b))
  ∧ (∀ (h : HostPort) (q : RingId) (s : State) (d : Desc), Starts s h q 0x01 d →
    ∃ t, exec (.nop h q) s = .next t ∧ Completes h (startedDesc s d) 0 0 s t ∧ ChangesOnly (doneRegs h d) s t)
  ∧ (∀ (h : HostPort) (s : State), Reaches s h (Reg.hostCtrl (hostNum h)) →
    let n := hostNum h
    let zeros := [Reg.hostDescDone n, Reg.hostBar4Reads n, Reg.hostBar4Writes n, Reg.evtDrop n]
    ∃ t, exec (.hostClrCounters h) s = .next t ∧ (∀ off ∈ zeros, t.rd off = 0) ∧ RegsOnly zeros (s.touch h) t)

/-- TAKEOVER of a quiesced set adopts it; of a running one it is DENIED, else it waits and times out; GIVE quiesces the
adopted set. The end of a quiescing set completes who waits. A port that goes down quiesces the sets its host owns.
RING_LAUNCH and FABRIC send their frame for the descriptor's job. A failed read of host memory completes its
descriptor with TIMEOUT and raises HOST_ERR. BAR4 accesses to a valid window become requests in flight, to an invalid
one UR; a complete read or atomic returns its data, or Completer Abort; before FW_START the window is the staging
buffer. (R134, R455, R456, R457, R468, R470, R473, R476, R478, R479, R531) -/
def Obligations.HostRequests : Prop :=
  let pool := fun (s t : State) => t.pool = s.pool ∧ t.links = s.links ∧ TablesSame s t
  let picked := fun (s : State) (h : HostPort) (q : RingId) (pick : Desc → Bool) (d : Desc) => s.descServed = true ∧ s.startable h q pick = some d
  let ends := fun (h : HostPort) (s : State) (d : Desc) (st : Status) (t : State) => Completes h (startedDesc s d) st.toNat 0 s t
  let sent := fun (unit : BitVec 10) (why : Purpose) (s t : State) (good : Frame → Prop) =>
    (∀ x ∈ s.mort.tags, x.unit ≠ unit) → (∃ x ∈ t.mort.tags, x.unit = unit ∧ x.purpose = why)
    ∧ ∃ e ∈ t.sw.queue, ∃ f : Frame, s.sw.nextId ≤ e.id ∧ e.bytes = f.toBytes ∧ f.srcUnit = unit ∧ good f
  (∀ (h : HostPort) (q : RingId) (s : State) (d : Desc),
    let o := s.host (other h)
    (picked s h q (isTakeover false) d → ∃ t, exec (.takeover h q) s = .next t ∧ pool s t
      ∧ ((s.host h).ring = .adopted ∨ o.ring = .adopted → ends h s d St.denied t ∧ (t.host (other h)).ring = o.ring)
      ∧ ((s.host h).ring ≠ .adopted → o.ring = .quiesced → ends h s d St.ok t ∧ (t.host (other h)).ring = .adopted
          ∧ t.setOwner (other h) = h ∧ bit (t.rd (Reg.hostErr (hostNum h))) 12 = true)
      ∧ ((s.host h).ring ≠ .adopted → o.ring = .active → o.dlUp = true → o.perst = false → o.d3hot = false → ends h s d St.denied t)
      ∧ ((s.host h).ring ≠ .adopted → o.ring = .quiescing → t = s.setDesc h (startedDesc s d)))
    ∧ (picked s h q (isTakeover true) d → ∃ t, exec (.takeoverGive h q) s = .next t
      ∧ (o.ring ≠ .adopted ∨ (s.host h).ring = .adopted → ends h s d St.denied t ∧ pool s t)
      ∧ (o.ring = .adopted → (s.host h).ring ≠ .adopted → (t.host (other h)).ring = .quiescing
          ∧ ∃ e ∈ (t.host h).flight, e.id = d.id ∧ e.started = true)))
  ∧ (∀ (h : HostPort) (s : State) (d : Desc), s.waitingTakeover h false = some d →
    ∃ t, exec (.takeoverWaitTimeout h) s = .next t ∧ (s.bell.bounds < d.startedAt + dField d 20 4 → t = s)
    ∧ (d.startedAt + dField d 20 4 ≤ s.bell.bounds → Completes h d St.timeout.toNat 0 s t ∧ ChangesOnly (doneRegs h d) s t))
  ∧ (∀ (h : HostPort) (s : State), (s.host h).ring = .quiescing → (s.host h).flight = [] →
    let o := other h
    ∃ t, exec (.ringsQuiesced h) s = .next t ∧ pool s t
    ∧ (∀ d, s.waitingTakeover o true = some d → (t.host h).ring = .quiesced ∧ Completes o d 0 0 s t
        ∧ bit (t.rd (Reg.hostErr (hostNum o))) 12 = true)
    ∧ (∀ d, s.waitingTakeover o true = none → s.waitingTakeover o false = some d → (t.host h).ring = .adopted ∧ Completes o d 0 0 s t)
    ∧ (s.waitingTakeover o true = none → s.waitingTakeover o false = none → t = s.withHost h { s.host h with ring := .quiesced }))
  ∧ (∀ (h : HostPort) (s : State), s.powered = true → (s.host h).dlUp = true →
    let owned := fun (g : HostPort) => ((s.host g).ring = .active ∨ (s.host g).ring = .adopted) ∧ s.setOwner g = h
    ∃ t, exec (.hostPortDown h) s = .next t ∧ (t.host h).dlUp = false ∧ (t.host h).bar4 = [] ∧ (t.host h).fm = FmSession.reset
    ∧ bit (t.rd (Reg.hostErr (hostNum h))) 11 = true ∧ pool s t
    ∧ ∀ g, (owned g → (t.host g).ring = .quiescing) ∧ (¬ owned g → (t.host g).ring = (s.host g).ring))
  ∧ (∀ (h : HostPort) (q : RingId) (s : State) (d : Desc) (data : Bytes),
    let dest : BitVec 12 := BitVec.ofNat 12 (dField d 18 2)
    let reach := dest = s.swNum ∨ (s.routeOut dest (s.ringClass (s.setOwner h))).isSome = true
    (Starts s h q 0x28 d → let b := dField d 16 2
      let good := (b < 168 ∨ b = 0xFFFF) ∧ dField d 18 2 < 4096
      ∃ t, exec (.ringLaunch h q) s = .next t ∧ pool s t ∧ (¬ good → ends h s d St.rsvdSet t)
      ∧ (good → reach → sent (s.hostUnit h) (.desc h d.id) s t (fun f => f.opcode = 0x38 ∧ f.dest = dest ∧ f.aux = BitVec.ofNat 16 b
          ∧ f.addr = dAddr d 24 ∧ f.job = dJob d)))
    ∧ (Starts s h q 0x29 d → let op := dField d 16 1
      let good := (op = 0x40 ∨ op = 0x50 ∨ op = 0x58) ∧ dField d 18 2 < 4096 ∧ dField d 22 2 ≤ 1024 ∧ dField d 32 8 % 64 = 0
        ∧ dField d 40 8 % 64 = 0
      ∃ t, exec (.fabric h q data) s = .next t ∧ pool s t ∧ (¬ good → ends h s d St.rsvdSet t)
      ∧ (good → reach → sent (s.hostUnit h) (.desc h d.id) s t (fun f => f.opcode = BitVec.ofNat 8 op ∧ f.dest = dest
          ∧ f.aux = BitVec.ofNat 16 (dField d 20 2) ∧ f.addr = dAddr d 24 ∧ f.job = dJob d ∧ f.ak = (dField d 17 1 % 2 == 1)
          ∧ f.payload = byteRun data 0 (dField d 22 2)))))
  ∧ (∀ (h : HostPort) (q : RingId) (s : State) (d : Desc),
    let reads := fun (d : Desc) => [0x08, 0x10, 0x11, 0x12, 0x13, 0x20, 0x29].contains (dType d)
      || (dType d == 0x38 && (dField d 16 1 == 2 || dField d 16 1 == 3 || decide (0x10 ≤ dField d 16 1)))
    picked s h q reads d → ∃ t, exec (.hostCompletionTimeout h q) s = .next t ∧ ends h s d St.timeout t
    ∧ bit (t.rd (Reg.hostErr (hostNum (s.setOwner h)))) 3 = true ∧ pool s t
    ∧ ((dType d ≠ 0x08 ∨ s.tt.armed = none) → ChangesOnly (doneRegs h d) s t))
  ∧ (∀ (h : HostPort) (addr : Dword) (s : State), s.answers h = true →
    let o := addr.toNat % 2 ^ 36
    let unit : BitVec 10 := BitVec.ofNat 10 (640 + hostNum h)
    let x := s.host h
    let inFlight := fun (t : State) (a : Bar4) => (t.host h).bar4 = x.bar4 ++ [a] ∧ a.id = x.nextBar4 ∧ a.offset = BitVec.ofNat 64 o
    let running := s.staging = false ∧ s.boot.state ≠ .off ∧ s.echoes h = false
    (∀ (len : Nat) (tag : BitVec 16), let ps := pieces o len
      ∃ t, exec (.bar4Read h addr len tag) s = .next t ∧ pool s t
      ∧ (s.staging = true → o < 0x1000000 → t.out = .bar4 h tag false false (s.boot.staging.getRun 0 o len) :: s.out)
      ∧ (running → (∃ p ∈ ps, s.window h p.1 = none) → t.out.head? = some (.unsupported h) ∧ bit (t.rd (Reg.hostErr (hostNum h))) 6 = true
          ∧ (t.host h).bar4 = x.bar4)
      ∧ (running → (∀ p ∈ ps, s.window h p.1 ≠ none) → ∃ a, inFlight t a ∧ a.kind = .read ∧ a.len = len ∧ a.tag = tag ∧ a.open_ = ps.length))
    ∧ (∀ (data : Bytes) (be : List Bool), let ps := pieces o data.length
      ∃ t, exec (.bar4Write h addr data be) s = .next t ∧ pool s t
      ∧ (s.staging = true → s.boot.claim = none → o + data.length ≤ 0x1000000 →
          ∀ i, t.boot.staging.get 0 i = (if o ≤ i ∧ i < o + data.length ∧ be.getD (i - o) true = true then data.getD (i - o) 0
            else s.boot.staging.get 0 i))
      ∧ (running → (∃ p ∈ ps, s.window h p.1 = none) → bit (t.rd (Reg.hostErr (hostNum h))) 6 = true ∧ (t.host h).bar4 = x.bar4)
      ∧ (running → (∀ p ∈ ps, s.window h p.1 ≠ none) → Counted (Reg.hostBar4Writes (hostNum h)) 1 s t
          ∧ ∃ a, inFlight t a ∧ a.kind = .write ∧ a.len = data.length ∧ a.open_ = ps.length))
    ∧ (∀ (op : Fin 3) (data : Bytes) (tag : BitVec 16), ∃ t, exec (.bar4Atomic h addr op data tag) s = .next t ∧ pool s t
      ∧ (data.length ≠ (if op = 2 then 16 else 8) → t.out.head? = some (.unsupported h) ∧ (t.host h).bar4 = x.bar4)
      ∧ (∀ dest a, running → data.length = (if op = 2 then 16 else 8) → s.window h o = some (dest, a) →
          (∃ b, inFlight t b ∧ b.kind = .atomic ∧ b.open_ = 1 ∧ b.tag = tag)
          ∧ (dest = s.swNum → sent unit (.bar4 h x.nextBar4 0) s t (fun f => f.addr = a ∧ f.payload = data
              ∧ f.opcode = (if op = 0 then 0x10 else if op = 1 then 0x13 else 0x14))))))
  ∧ (∀ (h : HostPort) (s : State) (a : Bar4), (s.host h).bar4.find? (bar4Ready (s.host h).bar4) = some a →
    ∃ t, exec (.bar4Complete h) s = .next t ∧ (t.host h).bar4 = (s.host h).bar4.filter (fun b => b.id != a.id)
    ∧ ChangesOnly [Reg.hostBar4Reads (hostNum h)] s t
    ∧ (a.kind = .write → t.out = s.out)
    ∧ (a.kind ≠ .write → delivers (bar4Status a) = true →
        t.out = .bar4 h a.tag false (bar4Status a == St.poison) (bar4Data a) :: s.out)
    ∧ (a.kind ≠ .write → delivers (bar4Status a) = false →
        t.out.head? = some (.bar4 h a.tag true false []) ∧ bit (t.rd (Reg.hostErr (hostNum h))) 5 = true)
    ∧ (a.kind = .read → Counted (Reg.hostBar4Reads (hostNum h)) 1 s t))

/-- GET_CHAIN writes both certificates, ATTEST a signed report, EXTEND extends MEAS5 to 7; an output beyond DST_MAX is
DENIED. FM_OPEN with a trusted chain answers this side's half and keeps the session keys, any other raises FM_AUTH;
FM_FINISH with a sound signature and FINISHED takes the role, else it is refused. A tagged request without the role
raises bit 5, with a bad tag or an old count bit 4; FM_CLOSE ends the role; FM_READ sends its data sealed. LOCK
extends MEAS2 and MEAS3 and sets LOCKED; the counters clear; a failed source stops what runs. The draws and opaque
cryptography are free (the model's choice, log 48). (R488, R489, R490, R494, R499, R500, R501, R502, R505, R506,
assumption log 48) -/
def Obligations.SecurityRequests : Prop :=
  let picked := fun (s : State) (h : HostPort) (q : RingId) (n : Nat) (d : Desc) => s.descServed = true ∧ s.startable h q (isSec n) = some d
  let ends := fun (h : HostPort) (s : State) (d : Desc) (st : Status) (n : Nat) (t : State) => Completes h (startedDesc s d) st.toNat n s t
  let writes := fun (h : HostPort) (a : Dword) (out : Bytes) (s t : State) => Out.hostWrite (s.setOwner h) a out ∈ t.out
  let errs := Reg.secErrCapture :: recordRegs Reg.secErr
  let extended := fun (s : State) (m : Nat) (ev : Bytes) =>
    byteRun (Config.shake256 (s.rdBytes (Reg.secMeas m) 16 ++ byteRun (Config.shake256 ev 64) 0 64) 64) 0 64
  let meas := fun (m : Nat) => (List.range 16).map (Reg.secMeas m)
  let tagOf := fun (f : FmSession) (d : Desc) =>
    Config.gmac128 (BitVec.ofNat 256 (field f.k 0 32)) (byteRun f.k 32 4 ++ leBytes 8 (dField d 40 8)) (byteRun d.bytes 0 48)
  let fresh := fun (f : FmSession) (d : Desc) => tagOf f d = BitVec.ofNat 128 (dField d 48 16) ∧ f.reqCount < dField d 40 8
  (∀ (h : HostPort) (q : RingId) (s : State) (d : Desc), picked s h q 0x01 d →
    let out := byteRun Config.deviceCert 0 3200 ++ byteRun Config.caCert 0 3200
    ∃ t, exec (.secGetChain h q) s = .next t ∧ ChangesOnly (doneRegs h d) s t
    ∧ (dField d 40 4 < 6400 → ends h s d St.denied 0 t)
    ∧ (6400 ≤ dField d 40 4 → ends h s d St.ok 6400 t ∧ writes h (dAddr d 32) out s t))
  ∧ (∀ (h : HostPort) (q : RingId) (data : Bytes) (s : State) (d : Desc), picked s h q 0x02 d →
    let r := s.report (s.setOwner h) data
    let out := r ++ byteRun (Config.falconSign Config.otpSeed r (Config.freeValue s.free)) 0 1280
    ∃ t, exec (.secAttest h q data) s = .next t
    ∧ (dField d 20 4 ≠ 32 → ends h s d St.rsvdSet 0 t ∧ ChangesOnly (doneRegs h d) s t)
    ∧ (dField d 20 4 = 32 → ChangesOnly (doneRegs h d) (s.withFree (s.free + 1)) t
        ∧ (dField d 40 4 < out.length → ends h s d St.denied 0 t)
        ∧ (out.length ≤ dField d 40 4 → ends h s d St.ok out.length t ∧ writes h (dAddr d 32) out s t)))
  ∧ (∀ (h : HostPort) (q : RingId) (data : Bytes) (s : State) (d : Desc), picked s h q 0x03 d →
    let m := dField d 17 1
    let n := dField d 20 4
    let good := 5 ≤ m ∧ m ≤ 7 ∧ 1 ≤ n ∧ n ≤ 4096
    ∃ t, exec (.secExtend h q data) s = .next t
    ∧ (¬ good → ends h s d St.rsvdSet 0 t ∧ ChangesOnly (doneRegs h d) s t)
    ∧ (good → ends h s d St.ok 0 t ∧ t.rdBytes (Reg.secMeas m) 16 = extended s m (byteRun data 0 n)
        ∧ ChangesOnly (meas m ++ doneRegs h d) s t))
  ∧ (∀ (h : HostPort) (q : RingId) (data : Bytes) (s : State) (d : Desc), picked s h q 0x10 d →
    let port := s.setOwner h
    let n := dField d 20 4
    let input := byteRun data 0 n
    let found := if s.entropyOk = true ∧ 1600 ≤ n then s.checkChain ((input.drop 32).take (n - 1600)) 5 else .bad
    let kem := Config.kemEncaps (input.drop (n - 1568)) (Config.freeValue (s.free + 1))
    let ct := byteRun kem.1 0 1568
    let out := byteRun (Config.random s.free 32) 0 32 ++ byteRun Config.deviceCert 0 3200 ++ byteRun Config.caCert 0 3200 ++ ct
    let g1 := Config.shake256 input 64
    let g2 := Config.shake256 (g1 ++ out ++ ct) 64
    ∃ t, exec (.fmOpen h q data) s = .next t
    ∧ (dField d 40 4 < 9280 → ends h s d St.denied 0 t ∧ (t.host port).fm = (s.host port).fm ∧ ChangesOnly (doneRegs h d) s t)
    ∧ (9280 ≤ dField d 40 4 → found = .bad ∨ found = .untrusted →
        ends h s d St.denied 0 t ∧ (t.host port).fm = FmSession.reset ∧ bit (t.rd Reg.secErr) 3 = true
        ∧ (found = .untrusted → bit (t.rd Reg.secErr) 1 = true) ∧ Counted Reg.secAuthFail 1 s t
        ∧ ChangesOnly (Reg.secAuthFail :: errs ++ doneRegs h d) s t)
    ∧ (∀ leaf, 9280 ≤ dField d 40 4 → found = .ok leaf →
        (t.host port).fm = ⟨true, false, g1, g2, byteRun (Config.shake256 (ascii "CF480-FM" ++ kem.2 ++ g2) 72) 0 72, leaf, 0, 0⟩
        ∧ writes h (dAddr d 32) (out ++ byteRun (Config.falconSign Config.otpSeed g2 (Config.freeValue (s.free + 2))) 0 1280) s t
        ∧ ends h s d St.ok 9280 t ∧ ChangesOnly (doneRegs h d) (s.withFree (s.free + 3)) t))
  ∧ (∀ (h : HostPort) (q : RingId) (data : Bytes) (s : State) (d : Desc), picked s h q 0x11 d →
    let port := s.setOwner h
    let f := (s.host port).fm
    let good := f.opened = true ∧ dField d 20 4 = 1312 ∧ Config.falconVerify (certKey f.leaf) f.g2 (byteRun data 0 1280) = true
      ∧ byteRun data 1280 32 = byteRun (Config.shake256 (ascii "FIN-I" ++ f.k) 32) 0 32
    ∃ t, exec (.fmFinish h q data) s = .next t
    ∧ (dField d 40 4 < 32 → ends h s d St.denied 0 t ∧ (t.host port).fm = f ∧ ChangesOnly (doneRegs h d) s t)
    ∧ (32 ≤ dField d 40 4 → good → ends h s d St.ok 32 t
        ∧ (t.host port).fm = { f with opened := false, role := true, reqCount := 0, respCount := 0 }
        ∧ writes h (dAddr d 32) (byteRun (Config.shake256 (ascii "FIN-R" ++ f.k) 32) 0 32) s t ∧ ChangesOnly (doneRegs h d) s t)
    ∧ (32 ≤ dField d 40 4 → ¬ good → ends h s d St.denied 0 t ∧ (t.host port).fm = { f with opened := false }
        ∧ bit (t.rd Reg.secErr) 3 = true ∧ Counted Reg.secAuthFail 1 s t
        ∧ ChangesOnly (Reg.secAuthFail :: errs ++ doneRegs h d) s t))
  ∧ (∀ (h : HostPort) (q : RingId) (s : State) (d : Desc), picked s h q 0x12 d →
    let port := s.setOwner h
    let f := (s.host port).fm
    ∃ t, exec (.fmClose h q) s = .next t ∧ ChangesOnly (errs ++ doneRegs h d) s t
    ∧ (f.role = false → ends h s d St.denied 0 t ∧ bit (t.rd Reg.secErr) 5 = true ∧ (t.host port).fm = f)
    ∧ (f.role = true → ¬ fresh f d → ends h s d St.denied 0 t ∧ bit (t.rd Reg.secErr) 4 = true ∧ (t.host port).fm = f)
    ∧ (f.role = true → fresh f d → ends h s d St.ok 0 t ∧ (t.host port).fm = FmSession.reset))
  ∧ (∀ (h : HostPort) (q : RingId) (s : State) (d : Desc), picked s h q 0x13 d →
    let port := s.setOwner h
    let f := (s.host port).fm
    let u := (s.setDesc h (startedDesc s d)).setFm port { f with reqCount := dField d 40 8 }
    let max := dField d 20 4
    let took := (s.sw.samples.take ((max - 32) / 160)).flatten
    let image := if dField d 17 1 = 0 then Config.telemetryImage u.telemetry
      else if dField d 17 1 = 1 then took
      else Config.traceImage ([0, 1, 2, 3].map (fun b => (s.test.trace.get Trace.reset b).entries))
    let sealed := Config.gcmSeal128 (BitVec.ofNat 256 (field f.k 36 32)) (byteRun f.k 68 4 ++ leBytes 8 (f.respCount + 1)) image
    let after := if dField d 17 1 = 1 then s.withSw { s.sw with samples := s.sw.samples.drop ((max - 32) / 160) } else s
    ∃ t, exec (.fmRead h q) s = .next t
    ∧ (2 < dField d 17 1 → ends h s d St.rsvdSet 0 t ∧ ChangesOnly (doneRegs h d) s t ∧ (t.host port).fm = f)
    ∧ (dField d 17 1 ≤ 2 → f.role = false → ends h s d St.denied 0 t ∧ bit (t.rd Reg.secErr) 5 = true ∧ (t.host port).fm = f)
    ∧ (dField d 17 1 ≤ 2 → f.role = true → ¬ fresh f d →
        ends h s d St.denied 0 t ∧ bit (t.rd Reg.secErr) 4 = true ∧ (t.host port).fm = f)
    ∧ (dField d 17 1 ≤ 2 → f.role = true → fresh f d → (∀ x ∈ s.sw.samples, x.length = 160) → max < image.length + 32 →
        ends h s d St.denied 0 t ∧ (t.host port).fm = { f with reqCount := dField d 40 8 } ∧ ChangesOnly (doneRegs h d) s t)
    ∧ (dField d 17 1 ≤ 2 → f.role = true → fresh f d → (∀ x ∈ s.sw.samples, x.length = 160) → image.length + 32 ≤ max →
        ends h s d St.ok (image.length + 32) t
        ∧ (t.host port).fm = { f with reqCount := dField d 40 8, respCount := f.respCount + 1 }
        ∧ writes h (dAddr d 32) (leBytes 8 (f.respCount + 1) ++ leBytes 4 image.length ++ List.replicate 4 0
            ++ byteRun sealed.1 0 image.length ++ leBytes 16 sealed.2.toNat) s t
        ∧ ChangesOnly (doneRegs h d) after t))
  ∧ (∀ (h : HostPort) (v : Word) (s : State), Reaches s h Reg.secLock →
    ∃ t, exec (.secLock h v) s = .next t ∧ (bit v 0 = false ∨ s.locked = true → t = s.touch h)
    ∧ (bit v 0 = true → s.locked = false → t.locked = true
        ∧ t.rdBytes (Reg.secMeas 2) 16 = extended s 2 (rwlOffsets.flatMap (fun o => leBytes 4 (s.rd o).toNat))
        ∧ t.rdBytes (Reg.secMeas 3) 16 = extended s 3 ((List.range 16).flatMap (fun e =>
            Config.trustRecord (bit (s.trustCtrl e) 8) ((s.trustCtrl e).extractLsb' 0 8) (s.trustHash e)))
        ∧ RegsOnly (Reg.secLock :: meas 2 ++ meas 3) (s.touch h) t))
  ∧ (∀ (h : HostPort) (s : State), Reaches s h Reg.secCtrl →
    let zeros := [Reg.secSecureDone, Reg.secAuthFail, Reg.secRekeys, Reg.secStoreForeign, Reg.secShreds]
    ∃ t, exec (.secClrCounters h) s = .next t ∧ (∀ off ∈ zeros, t.rd off = 0) ∧ RegsOnly zeros (s.touch h) t)
  ∧ (∀ s : State, ∃ t, exec .entropyFail s = .next t ∧ (s.entropyOk = false → t = s)
    ∧ (s.entropyOk = true → t.rd Reg.secStatus = clrBit (s.rd Reg.secStatus) 1 ∧ bit (t.rd Reg.secErr) 2 = true
        ∧ (∀ g, (t.host g).fm = { (s.host g).fm with opened := false })
        ∧ (∀ l, t.link l = (if (s.link l).train = .secure then { s.link l with kex := { (s.link l).kex with stopped := true, sent := [] } }
            else s.link l))
        ∧ ChangesOnly (Reg.secStatus :: errs) (s.withLinks t.links) t))

/-- FENCE_SET and LIFT take effect at the next boundary: a fence sends the partition's links to FENCED; a lift, barred
while a drawer or job of the partition keeps its fence, lets them train again. Offline registers take their value, the
pair with its high word. MAINT_REQ is refused for a bad form, an absent tray or a missing recess; else the activity is
requested. One that asks runs at once unless a running one is incompatible: then it is pending, counted and logged.
One that is done ends with its descriptor, and a pending one that can start does. One not started within a term ends
with TIMEOUT. A recess lets its unit's activities ask and counts self-test runs. (R7, R70, R509, R510, R515, R516,
R517, R518, R519, R520, R523, R524) -/
def Obligations.FencesAndMaintenance : Prop :=
  let errs := Reg.faultErrCapture :: recordRegs Reg.faultErr
  let partOf := fun (s : State) (l : LinkId) => bits (s.link l).cfg.toNat 21 16
  let tails := (List.range 64).flatMap (fun r => [ringTail .a r, ringTail .b r])
  (∀ (h : HostPort) (mask : Dword) (s : State), Reaches s h Reg.faultFenceSetLo →
    ∃ t, exec (.faultFenceSet h mask) s = .next t
    ∧ (∀ p, t.fault.fencePend.get 0 p = (if p < 64 ∧ bit mask p = true ∧ s.isFenced p = false ∧ s.fault.fencePend.get 0 p = 0
        then s.bell.bounds + 1 else s.fault.fencePend.get 0 p))
    ∧ t = (s.touch h).withFault { s.fault with fencePend := t.fault.fencePend })
  ∧ (∀ (part : Fin 64) (s : State), let due := s.fault.fencePend.get 0 part.val ≠ 0 ∧ s.fault.fencePend.get 0 part.val ≤ s.bell.bounds
    let lent := s.withFault { s.fault with fenced := setBit s.fault.fenced part.val, fencePend := s.fault.fencePend.put 0 part.val 0 }
    ∃ t, exec (.fenceTakesEffect part) s = .next t ∧ (¬ due → t = s)
    ∧ (due → t.isFenced part.val = true ∧ t.fault.fencePend.get 0 part.val = 0 ∧ bit (t.rd Reg.faultErr) 4 = true
        ∧ (∀ l, partOf s l = part.val → (s.link l).train = .disabled → (s.link l).looped = false → t.link l = s.link l)
        ∧ (∀ l, partOf s l = part.val → (s.link l).train = .loopback ∨ (s.link l).looped = true →
            (t.link l).train = .disabled ∧ (t.link l).looped = false)
        ∧ (∀ l, partOf s l = part.val → (s.link l).train ≠ .disabled → (s.link l).train ≠ .loopback → (s.link l).looped = false →
            (t.link l).train = .fenced)
        ∧ LinkEffect (s.linksOfPart part.val) ((s.linksOfPart part.val).flatMap (fun l => sessionRegs l.port)
            ++ recordRegs Reg.bellErr ++ errs) lent t))
  ∧ (∀ (h : HostPort) (mask : Dword) (s : State), Reaches s h Reg.faultLiftLo →
    ∃ t, exec (.faultLift h mask) s = .next t
    ∧ (∀ p, t.fault.liftPend.get 0 p = (if p < 64 ∧ bit mask p = true ∧ s.isFenced p = true ∧ s.liftBarred p = false
        then s.bell.bounds + 1 else s.fault.liftPend.get 0 p))
    ∧ (∀ p, p < 64 → bit mask p = true → s.isFenced p = true → s.liftBarred p = true → bit (t.rd Reg.faultErr) 5 = true)
    ∧ ChangesOnly errs ((s.touch h).withFault { s.fault with liftPend := t.fault.liftPend }) t)
  ∧ (∀ (part : Fin 64) (s : State), let due := s.fault.liftPend.get 0 part.val ≠ 0 ∧ s.fault.liftPend.get 0 part.val ≤ s.bell.bounds
    let lifted := s.withFault { s.fault with fenced := clrBit s.fault.fenced part.val, liftPend := s.fault.liftPend.put 0 part.val 0 }
    ∃ t, exec (.fenceLiftEffect part) s = .next t ∧ (¬ due → t = s)
    ∧ (due → t.isFenced part.val = false ∧ t.fault.liftPend.get 0 part.val = 0
        ∧ (∀ l, (s.link l).train ≠ .fenced → t.link l = s.link l)
        ∧ (∀ l, partOf s l = part.val → (s.link l).train = .fenced → bits (s.rd (Reg.portCfg l.port.val)).toNat 21 16 = part.val →
            (t.link l).train = .detect)
        ∧ LinkEffect (s.linksOfPart part.val) ((s.linksOfPart part.val).flatMap (fun l => sessionRegs l.port)) lifted t))
  ∧ (∀ (h : HostPort) (word : Fin 8) (v : Word) (s : State), Reaches s h (offlineReg word.val) →
    let lo := Reg.faultOfflineNuLo
    let hi := Reg.faultOfflineNuHi
    ∃ t, exec (.faultOfflineWrite h word v) s = .next t
    ∧ (word.val < 6 → t.rd (offlineReg word.val) = v &&& regMask (offlineReg word.val)
        ∧ RegsOnly [offlineReg word.val] (s.touch h) t)
    ∧ (word.val = 6 → t = (s.touch h).withHold (s.hold.put none (holdKey h lo) (some v)))
    ∧ (word.val = 7 → t.rd lo = (s.hold.get none (holdKey h lo)).getD (s.rd lo) &&& regMask lo ∧ t.rd hi = v &&& regMask hi
        ∧ t.hold.get none (holdKey h lo) = none ∧ RegsOnly [lo, hi] ((s.touch h).withHold (s.hold.put none (holdKey h lo) none)) t))
  ∧ (∀ (h : HostPort) (q : RingId) (s : State) (d : Desc), Starts s h q 0x30 d →
    let act := dField d 16 1
    let kind := dField d 17 1
    let unit := dField d 18 2
    let fits := act < 10 ∧ kind < 16 ∧ maintFits act kind unit (dField d 24 8) = true
    let gone := kind = 3 ∧ (s.tray unit).state ≠ .live ∧ (s.tray unit).state ≠ .full
    ∃ t, exec (.maintReq h q) s = .next t
    ∧ (¬ fits → Completes h (startedDesc s d) St.rsvdSet.toNat 0 s t ∧ ChangesOnly (doneRegs h d) s t)
    ∧ (fits → gone → Completes h (startedDesc s d) St.denied.toNat 0 s t ∧ ChangesOnly (doneRegs h d) s t)
    ∧ ∀ a : Activity, a.cls.val = act → a.kind.val = kind → a.unit = unit → fits → ¬ gone →
        let whole := act = 7 ∧ kind = 1 ∧ dField d 24 1 % 4 = 0 ∧ s.unitFenced a = false
        (whole → Completes h (startedDesc s d) St.rsvdSet.toNat 0 s t ∧ ChangesOnly (doneRegs h d) s t)
        ∧ (¬ whole → s.recessRefused a = true → Completes h (startedDesc s d) St.noRecess.toNat 0 s t
            ∧ bit (t.rd Reg.faultErr) 1 = true ∧ ChangesOnly (errs ++ doneRegs h d) s t)
        ∧ (¬ whole → s.recessRefused a = false → a.arg = dAddr d 24 → a.desc = some (h, d.id) → a.at_ = s.bell.bounds →
            a.pending = false → a.askedAt = 0 → a.result = none → a.progress = 0 →
            t = (s.setDesc h (startedDesc s d)).withFault { s.fault with waiting := s.fault.waiting ++ [a] }))
  ∧ (∀ (cls : Fin 10) (kind : Fin 16) (unit : Nat) (s : State) (a : Activity) (pre post : List Activity),
    let mine := fun (x : Activity) => x.cls = cls ∧ x.kind = kind ∧ x.unit = unit
    let open_ := recessClass cls.val = false ∨ s.unitFenced a = true ∨ s.recessOpens a = true
    let rest := s.fault.waiting.filter (fun x => x != a)
    let k := (s.rd Reg.maintLogNext).toNat % 64
    s.fault.waiting = pre ++ a :: post → (∀ x ∈ pre, ¬ mine x) → mine a → a.pending = false → open_ →
    ∃ t, exec (.maintActivityAsk cls kind unit) s = .next t
    ∧ (s.blocker a = none → cls.val ≠ 4 → cls.val ≠ 5 →
        t = (s.withFault { s.fault with waiting := rest, running := s.fault.running
              ++ [{ a with pending := false, at_ := s.bell.bounds, progress := 0 }] }).withBenches t.benches
        ∧ (cls.val ≠ 7 ∨ kind.val ≠ 4 → t.benches = s.benches)
        ∧ (cls.val = 7 → kind.val = 4 → t.benches.get Bench.reset unit = { s.benches.get Bench.reset unit with store := [], slots := [] }
            ∧ ∀ b, b ≠ unit → t.benches.get Bench.reset b = s.benches.get Bench.reset b))
    ∧ (∀ r, s.blocker a = some r → t.fault.waiting = rest ++ [{ a with pending := true, askedAt := s.bell.ticks }]
        ∧ t.fault.running = s.fault.running ∧ Counted Reg.maintDeferrals 1 s t ∧ bit (t.rd Reg.faultErr) 2 = true
        ∧ (t.rd (Reg.maintLogW0 k)).toNat = cls.val * 2 ^ 28 + r.cls.val * 2 ^ 24 + kind.val * 2 ^ 20 + unit % 65536
        ∧ (t.rd (Reg.maintLogW1 k)).toNat = s.bell.now.term.toNat % 65536 * 65536 + s.bell.now.period.toNat
        ∧ (t.rd Reg.maintLogNext).toNat = (k + 1) % 64
        ∧ ChangesOnly ([Reg.maintLogW0 k, Reg.maintLogW1 k, Reg.maintLogNext, Reg.maintDeferrals] ++ errs ++ tails)
            (s.withFault { s.fault with waiting := t.fault.waiting }) t))
  ∧ (∀ (cls : Fin 10) (kind : Fin 16) (unit : Nat) (s : State) (a : Activity) (st : BitVec 8),
    let left := s.fault.running.filter (fun x => x != a)
    let u := s.withFault { s.fault with running := left }
    s.fault.running.find? (fun x => x.cls == cls && x.kind == kind && x.unit == unit && (s.activityResult x).isSome) = some a →
    s.activityResult a = some st →
    ∃ t, exec (.maintActivityEnd cls kind unit) s = .next t
    ∧ ((∀ x ∈ s.fault.waiting, x.pending = false) →
        (a.desc = none → t = u)
        ∧ (∀ h d, a.desc = some (h, d.id) → (s.host h).flight.find? (fun e => e.id == d.id) = some d →
            Completes h d st.toNat (s.activityCount a) s t ∧ ChangesOnly (doneRegs h d) u t))
    ∧ (∀ b, s.fault.waiting = [b] → b.pending = true → recessClass b.cls.val = false → b.cls.val ≠ 4 → b.cls.val ≠ 5 → u.blocker b = none →
        t.fault.waiting = [] ∧ t.fault.running = left ++ [{ b with pending := false, at_ := s.bell.bounds, progress := 0 }]))
  ∧ (∀ (h : HostPort) (s : State) (a : Activity) (d : Desc) (pre post : List Activity),
    s.fault.waiting = pre ++ a :: post → (∀ x ∈ pre, ∀ i, x.desc ≠ some (h, i)) → a.desc = some (h, d.id) →
    (s.host h).flight.find? (fun e => e.id == d.id) = some d → a.kind.val ≠ 8 → a.kind.val ≠ 9 → a.at_ + s.bell.len ≤ s.bell.bounds →
    ∃ t, exec (.maintReqTimeout h) s = .next t ∧ t.fault.waiting = s.fault.waiting.filter (fun x => x != a)
    ∧ Counted Reg.maintTimeouts 1 s t ∧ bit (t.rd Reg.faultErr) 3 = true ∧ Completes h d 0x0B 0 s t
    ∧ ChangesOnly (Reg.maintTimeouts :: errs ++ doneRegs h d) (s.withFault { s.fault with waiting := t.fault.waiting }) t)
  ∧ (∀ (kind : Fin 3) (num : Fin 192) (s : State),
    let es := (s.covering kind.val num.val 4).filter (fun q => ttFirst q.2 == s.bell.now.slot.toNat)
    let mine := fun (a : Activity) => a.kind.val = [1, 4, 5].getD kind.val 0 ∧ a.unit = num.val
    ∃ t, exec (.recessStart kind num) s = .next t ∧ (es = [] → t = s)
    ∧ (es ≠ [] → s.fault.waiting = [] →
        (∀ a ∈ s.fault.running, a.cls.val = 7 → mine a → a.progress = 0 ∨ a.askedAt ≠ s.bell.ticks →
          { a with progress := a.progress + 1, askedAt := s.bell.ticks } ∈ t.fault.running)
        ∧ ChangesOnly [] (s.withFault { s.fault with running := t.fault.running }) t)
    ∧ (∀ a, es ≠ [] → s.fault.waiting = [a] → s.fault.running = [] → a.cls.val = 8 → mine a → a.pending = false →
        t.fault.waiting = [] ∧ t.fault.running = [{ a with pending := false, at_ := s.bell.bounds, progress := 0 }]))

/-- AUX_GOOD starts the management island with RESET_CAUSE.AUX_POR; MAIN_ENABLE drives PWR_GOOD; the release of the main
reset starts ROM_START with MAIN_FIRST, or MAIN_LOSS after a main loss; a main loss returns to AUX_ONLY; an aux loss
loses all state. A write of RESET_CTRL with its code and a kind asks for a reset 1 us later, of the strongest kind
asked for; a write without them does nothing. A reset returns the main domain to its reset values and keeps bell time,
the module and, when warm, host links and the identity key. PORT_RESET takes the port down, drops its held words and a
claim by it, and sets its bit. (R35, R476, R500, R525, R527, R528, R531, R538) -/
def Obligations.PowerAndResets : Prop :=
  let allows := fun (v : Word) => v.extractLsb' 16 16 = 0xA5C3 ∧ (bit v 0 = true ∨ bit v 1 = true)
  let causeOf := fun (h : HostPort) (v : Word) =>
    BitVec.ofNat 32 (4 * b2n (bit v 1) + 8 * b2n (bit v 0) + 128 * b2n (bit v 2) + 256 * (hostNum h + 1))
  let asked := fun (h : HostPort) (v : Word) (s t : State) =>
    (¬ allows v → t = s.touch h)
    ∧ (allows v → (∃ r, t = (s.touch h).withBoot { s.boot with pendReset := some r })
        ∧ ∀ r, t.boot.pendReset = some r →
          (s.boot.pendReset = none → r = ⟨if bit v 1 = true then .cold else .warm, causeOf h v, bit v 2, s.bell.ticks⟩)
          ∧ (∀ p, s.boot.pendReset = some p → r.at_ = p.at_ ∧ r.cause = p.cause ||| causeOf h v ∧ r.force = (p.force || bit v 2)
              ∧ (r.kind = .cold ↔ p.kind = .cold ∨ bit v 1 = true)))
  (∀ s : State, ∃ t, exec .auxGood s = .next t ∧ (s.boot.auxGood = true → t = s)
    ∧ (s.boot.auxGood = false → t.rd Reg.resetCause = 1 ∧ t.boot.auxGood = true ∧ Boots .auxOnly [Reg.resetCause] s t))
  ∧ (∀ s : State, ∃ t, exec .mainEnable s = .next t
    ∧ (s.boot.auxGood = true ∧ s.mod.trip = false ∧ s.boot.state = .auxOnly → t = s.withBoot { s.boot with pwrGood := true })
    ∧ (s.boot.auxGood = false ∨ s.mod.trip = true ∨ s.boot.state ≠ .auxOnly → t = s))
  ∧ (∀ s : State, ∃ t, exec .mainResetRelease s = .next t
    ∧ (s.boot.pwrGood = false ∨ s.boot.held = true ∨ s.boot.state ≠ .auxOnly → t = s)
    ∧ (s.boot.pwrGood = true → s.boot.held = false → s.boot.state = .auxOnly →
        Restarted false .romStart (if s.boot.lossSeen = true then s.rd Reg.resetCause &&& 2 else 0x400) s t ∧ t.boot.force = false))
  ∧ (∀ s : State, ∃ t, exec .mainLoss s = .next t ∧ (s.boot.pwrGood = false → t = s)
    ∧ (s.boot.pwrGood = true → Restarted false .auxOnly 2 (s.withBoot { s.boot with pwrGood := false, lossSeen := true }) t))
  ∧ (∀ s : State, ∃ t, exec .auxLoss s = .next t ∧ t.boot = Boot.reset ∧ t.bell = Bell.reset ∧ (∀ off, t.rd off = regReset off)
    ∧ t.pool = Pool.reset ∧ t.mort = Mortise.reset ∧ t.links = [] ∧ t.mod = Module.reset ∧ t.hostA = HostSide.reset
    ∧ t.hostB = HostSide.reset ∧ t.out = s.out ∧ t.pending = s.pending)
  ∧ (∀ (h : HostPort) (v : Word) (s : State), Reaches s h Reg.resetCtrl →
    (∃ t, exec (.resetCold h v) s = .next t ∧ asked h (setBit v 1) s t)
    ∧ (∃ t, exec (.resetWarm h v) s = .next t ∧ asked h (setBit v 0) s t)
    ∧ ∃ t, exec (.forceRecovery h v) s = .next t ∧ asked h (setBit v 2) s t)
  ∧ (∀ (s : State) (r : PendingReset), s.boot.auxGood = true → s.boot.pendReset = some r → r.at_ + 125 ≤ s.bell.ticks →
    ∃ t, exec .bellSlotAdvance s = .next t ∧ t.boot.state = .romStart ∧ t.boot.force = r.force ∧ t.boot.pendReset = none
    ∧ t.rd Reg.resetCause = r.cause ||| (if s.boot.shutDown = true then 0x40 else 0)
    ∧ t.links = [] ∧ t.pool = Pool.reset ∧ t.mort = Mortise.reset ∧ t.bell.lock = .unlocked ∧ t.bell.ticks = s.bell.ticks + 1
    ∧ t.hostA = s.hostA.restart (r.kind == .warm) ∧ t.hostB = s.hostB.restart (r.kind == .warm))
  ∧ (∀ (h : HostPort) (kind : PortResetKind) (s : State), ∃ t, exec (.portReset h kind) s = .next t ∧ (s.powered = false → t = s)
    ∧ (s.powered = true → (t.host h).dlUp = false ∧ (t.host h).perst = (kind == .perst) ∧ (t.host h).d3hot = false
        ∧ (t.host h).bar4 = [] ∧ (t.host h).fm = FmSession.reset
        ∧ (s.boot.claim = some h → t.boot.claim = none) ∧ (s.boot.claim ≠ some h → t.boot.claim = s.boot.claim)
        ∧ t.rd Reg.resetCause = setBit (s.rd Reg.resetCause) 5 ∧ bit (t.rd (Reg.hostErr (hostNum h))) 11 = true
        ∧ (∀ off, t.hold.get none (holdKey h off) = none ∧ t.latch.get none (holdKey h off) = none
            ∧ t.hold.get none (holdKey (other h) off) = s.hold.get none (holdKey (other h) off)
            ∧ t.latch.get none (holdKey (other h) off) = s.latch.get none (holdKey (other h) off))
        ∧ (kind = .perst → t.test.hlb.port = h → t.test.hlb.running = false)
        ∧ t.pool = s.pool ∧ t.links = s.links ∧ TablesSame s t ∧ t.bell.now = s.bell.now))

/-- Each step of the boot moves it to the state the sequence names and stamps the entry: the ROM measures itself; an image
that is missing or fails a check leads to RECOVERY_WAIT with its cause; a sound one is measured, runs and starts the
watchdog; a stack, the entropy source or a window that fails leads to FAILED; a state that outlasts its limit leads to
FAILED, LINK_TRAINING to BELL_WAIT. The first claim wins; RECOVER_GO by another is ignored. PROCEED fixes the identity
and trains the ports. SHUTDOWN_GO ends descriptors and links and drops the session root. The watchdog interrupts, then
resets. Random values are free draws (the model's choice, log 46). (R27, R484, R488, R491, R529, R531, R532, R533,
R535, R536, R537, assumption log 46) -/
def Obligations.BootSequence : Prop :=
  let extended := fun (s : State) (m : Nat) (ev : Bytes) =>
    byteRun (Config.shake256 (s.rdBytes (Reg.secMeas m) 16 ++ byteRun (Config.shake256 ev 64) 0 64) 64) 0 64
  let meas := fun (m : Nat) => (List.range 16).map (Reg.secMeas m)
  let fw := Reg.fwVersionLo :: Reg.fwVersionHi :: meas 1
  let refused := fun (cause : BitVec 8) (s t : State) => Boots .recoveryWait [] s t ∧ t.boot.failCause = cause ∧ t.boot.claim = none
  let runs := fun (s t : State) => Boots .fwStart fw s t ∧ t.rdBytes (Reg.secMeas 1) 16 = extended s 1 s.boot.image
    ∧ (t.rd64 Reg.fwVersionLo).toNat = field s.boot.image 8 8 ∧ t.boot.wdogOn = true ∧ t.boot.wdogAt = s.bell.bounds
  let fails := fun (cause : BitVec 8) (regs : List Nat) (s t : State) => Boots .failed regs s t ∧ t.boot.failCause = cause ∧ t.boot.wdogOn = false
  (∀ (pass : Bool) (s : State), ∃ t, exec (.romStartDone pass) s = .next t ∧ (s.boot.state ≠ .romStart → t = s)
    ∧ (s.boot.state = .romStart → t.rdBytes (Reg.secMeas 0) 16 = extended s 0 Config.romMeasurement
        ∧ (pass = true → Boots (if s.boot.force = true then .recoveryWait else .spiRead) (meas 0) s t)
        ∧ (pass = false → fails 0 (meas 0) s t)))
  ∧ (∀ (image : Bytes) (answered : Bool) (s : State), s.boot.state = .spiRead →
    ∃ t, exec (.spiReadDone image answered) s = .next t ∧ (answered = false → refused 1 s t)
    ∧ (answered = true → image.length < 2048 → refused 2 s t)
    ∧ (answered = true → 2048 ≤ image.length → Boots .verify [] s t ∧ t.boot.image = image))
  ∧ (∀ s : State, s.boot.state = .verify → ∃ t, exec .verifyDone s = .next t
    ∧ (imageCause s.boot.image none = 0 → runs s t ∧ t.out = s.out)
    ∧ (imageCause s.boot.image none ≠ 0 → refused (BitVec.ofNat 8 (imageCause s.boot.image none)) s t))
  ∧ (∀ (h : HostPort) (s : State), Reaches s h Reg.bootCtrl → ∃ t, exec (.bootClaim h) s = .next t
    ∧ (s.boot.state = .recoveryWait → s.boot.claim = none → t = (s.touch h).withBoot { s.boot with claim := some h })
    ∧ (s.boot.state ≠ .recoveryWait ∨ s.boot.claim ≠ none → t = s.touch h))
  ∧ (∀ (h : HostPort) (program : Bool) (s : State), Reaches s h Reg.bootCtrl → let n := (s.rd Reg.bootRecoveryLen).toNat
    ∃ t, exec (.recoverGo h program) s = .next t
    ∧ (s.boot.claim ≠ some h ∨ 4194304 < n → t = (s.touch h).withBoot { s.boot with recoveryIgnored := true })
    ∧ (s.boot.claim = some h → n ≤ 4194304 → s.boot.state = .recoveryWait → Boots .recoveryVerify [] (s.touch h) t
        ∧ t.boot.program = program ∧ t.boot.image = s.boot.staging.getRun 0 0 n ∧ t.boot.claim = some h))
  ∧ (∀ s : State, s.boot.state = .recoveryVerify → let c := imageCause s.boot.image (some (s.rd Reg.bootRecoveryLen).toNat)
    ∃ t, exec .recoveryVerifyDone s = .next t ∧ (c ≠ 0 → refused (BitVec.ofNat 8 c) s t ∧ t.out = s.out)
    ∧ (c = 0 → runs s t ∧ t.out = (if s.boot.program = true then .spiProgram s.boot.image :: s.out else s.out)))
  ∧ (∀ (ready : BitVec 8) (s : State), s.boot.state = .fwStart → let regs := (List.range 8).map Reg.stkStatus
    ∃ t, exec (.fwStartDone ready) s = .next t
    ∧ (∀ k, k < 8 → (t.rd (Reg.stkStatus k)).toNat % 4 = (if bit ready k = true then 3 else 1)
        ∧ (t.rd (Reg.stkStatus k)).toNat / 4 = (s.rd (Reg.stkStatus k)).toNat / 4)
    ∧ (ready = 0xFF → Boots .keygen regs s t) ∧ (ready ≠ 0xFF → fails 6 regs s t))
  ∧ (∀ (pass : Bool) (s : State), s.boot.state = .keygen → ∃ t, exec (.keygenDone pass) s = .next t ∧ (pass = false → fails 7 [] s t)
    ∧ (pass = true → Boots .bist (Reg.secStatus :: (List.range 16).map Reg.secIdentityHash ++ (List.range 8).map Reg.secSessionId) s t
        ∧ t.rdBytes Reg.secIdentityHash 16 = byteRun (Config.shake256 (Config.falconPublic Config.otpSeed) 64) 0 64
        ∧ t.boot.root = byteRun (Config.random s.free 64) 0 64
        ∧ t.rdBytes Reg.secSessionId 8 = byteRun (Config.random (s.free + 1) 32) 0 32 ∧ t.entropyOk = true))
  ∧ (∀ (bad : BitVec 168) (ok : Bool) (s : State), s.boot.state = .bist →
    let regs := (List.range 6).map Reg.faultOffline ++ (List.range 6).map Reg.bootBenchFail
    ∃ t, exec (.bootBistDone bad ok) s = .next t
    ∧ (∀ b, b < 168 → t.benchOffline b = (s.benchOffline b || bit bad b) ∧ bit (t.rd (Reg.bootBenchFail (b / 32))) (b % 32) = bit bad b)
    ∧ (ok = true → Boots .configure regs s t) ∧ (ok = false → fails 8 regs s t))
  ∧ (∀ (s : State) (ms : Nat), s.bootLimit = some ms → ∃ t, exec .bootStateTimeout s = .next t
    ∧ (s.bell.ticks < s.boot.enteredAt + ms * 125000 → t = s)
    ∧ (s.boot.enteredAt + ms * 125000 ≤ s.bell.ticks → (s.boot.state = .linkTraining → Boots .bellWait [] s t)
        ∧ (s.boot.state ≠ .linkTraining → fails s.boot.failCause [] s t)))
  ∧ (∀ (h : HostPort) (s : State), Reaches s h Reg.bootCtrl → ∃ t, exec (.proceed h) s = .next t
    ∧ (s.boot.state ≠ .configure → t = s.touch h)
    ∧ (s.boot.state = .configure → t.boot.state = .linkTraining ∧ t.boot.identity = some (s.rd Reg.swIdentity)
        ∧ t.rd64 Reg.bootStampLo = s.now
        ∧ (∀ p : Port, let cfg := s.rd (Reg.portCfg p.val)
            (∀ l ∈ bothLinks p, (s.link l).train = .disabled) → s.isMember p = false → bit cfg 0 = true → bits cfg.toNat 5 4 ≠ 0 →
            (s.groupOk p = true → s.isFenced (bits cfg.toNat 21 16) = false → (t.link p.link).train = .detect ∧ (t.link p.link).cfg = cfg)
            ∧ (s.groupOk p = false → (t.link p.link).train = .disabled ∧ bit (t.rd (Reg.portErr p.val)) 6 = true))
        ∧ t.pool = s.pool ∧ TablesSame s t ∧ t.bell.now = s.bell.now ∧ t.fault.fenced = s.fault.fenced))
  ∧ (∀ s : State, s.boot.state = .linkTraining → ∃ t, exec .linkTrainingDone s = .next t
    ∧ (s.trained = true → Boots .bellWait [] s t) ∧ (s.trained = false → t = s))
  ∧ (∀ s : State, s.boot.state = .bellWait → ∃ t, exec .bellWaitDone s = .next t
    ∧ (s.bell.lock = .locked ∨ s.bell.lock = .holdover → Boots .timetable [] s t)
    ∧ (s.bell.lock ≠ .locked → s.bell.lock ≠ .holdover → t = s))
  ∧ (∀ s : State, s.boot.state = .bellWait → ∃ t, exec .bellSlow s = .next t
    ∧ (s.boot.enteredBound + 65536 ≤ s.bell.bounds → t = s.withBoot { s.boot with bellSlow := true })
    ∧ (s.bell.bounds < s.boot.enteredBound + 65536 → t = s))
  ∧ (∀ (h : HostPort) (v : Word) (s : State), Reaches s h Reg.shutdownCtrl →
    let good := v.extractLsb' 16 16 = 0xA5C3 ∧ bit v 0 = true ∧ 9 ≤ s.boot.state.code ∧ s.boot.state.code ≤ 14
    ∃ t, exec (.shutdownGo h v) s = .next t ∧ (¬ good → t = s.touch h)
    ∧ (good → t.boot.state = .shutdown ∧ t.boot.root = [] ∧ t.boot.wdogOn = false ∧ t.rd64 Reg.bootStampLo = s.now
        ∧ (∀ g, (t.host g).flight = []) ∧ t.fault.running = [] ∧ t.fault.waiting = []
        ∧ (∀ l, (t.link l).train = .disabled ∧ (t.link l).looped = false)
        ∧ t.pool = s.pool ∧ TablesSame s t ∧ t.bell.now = s.bell.now))
  ∧ (∀ s : State, s.boot.state = .shutdown → ∃ t, exec .shutdownDone s = .next t ∧ Boots .off [] s t ∧ t.boot.shutDown = true)
  ∧ (∀ s : State, let up := 6 ≤ s.boot.state.code ∧ s.boot.state.code ≤ 14
    ∃ t, exec .mgmtHeartbeat s = .next t ∧ (¬ up → t = s)
    ∧ (up → t.rd Reg.mgmtHeartbeat = s.rd Reg.mgmtHeartbeat + 1 ∧ t.rd Reg.wdogStatus = 0
        ∧ RegsOnly [Reg.mgmtHeartbeat, Reg.wdogStatus] (s.withBoot { s.boot with wdogAt := s.bell.bounds }) t))
  ∧ (∀ s : State, let limit := 1024 * max 1 (bits (s.rd Reg.wdogCfg).toNat 15 0)
    ∃ t, exec .watchdogExpiry s = .next t ∧ (s.boot.wdogOn = false ∨ s.bell.bounds < s.boot.wdogAt + limit → t = s)
    ∧ (s.boot.wdogOn = true → s.boot.wdogAt + limit ≤ s.bell.bounds → bit (s.rd Reg.wdogStatus) 0 = false →
        t.rd Reg.wdogStatus = 1 ∧ RegsOnly [Reg.wdogStatus] (s.withBoot { s.boot with wdogAt := s.bell.bounds, wdogSeen := true }) t)
    ∧ (s.boot.wdogOn = true → s.boot.wdogAt + limit ≤ s.bell.bounds → bit (s.rd Reg.wdogStatus) 0 = true →
        Restarted true .romStart 0x10 s t))

/-- A START that may run loops the port's links with its counters at 0, else REFUSED; STOP disables them; likewise a host
port. At depth 3 a request that passes its checks is served by the echo buffer and answered on the link, a damaged one
with CHECK. A self-test that is done records its outcome and takes a failed unit offline. Recalibration takes one lane
per recess run. TRC_CFG arms a buffer or ends capture. A scan instruction that holds resets the main domain. A sweep
stores temperatures, sets the alert and its interrupt, and trips; CLEAR_TRIP clears the trip below 85 °C. Slot 0
copies the job counts into their views. (R504, R539, R540, R542, R543, R546, R547, R549, R551, R552, R562, R563) -/
def Obligations.TestsAndModule : Prop :=
  (∀ (h : HostPort) (p : Port) (depth : BitVec 2) (s : State), Reaches s h Reg.testLbCtrl →
    let cfg := s.rd (Reg.portCfg p.val)
    let zeros := [Reg.testLbBitsLo, Reg.testLbBitsHi, Reg.testLbEchoOps] ++ (List.range 16).map Reg.testLbErr
    ∃ t, exec (.testLbStart h p depth) s = .next t
    ∧ (s.loopRefused p depth = true → t = (s.touch h).withTest { s.test with lb := { s.test.lb with refused := true } })
    ∧ (s.loopRefused p depth = false → t.test.lb = ⟨p, depth, true, false, false⟩ ∧ t.test.echo = [] ∧ (∀ off ∈ zeros, t.rd off = 0)
        ∧ (∀ l ∈ cfgLinks p cfg, (t.link l).looped = true ∧ (t.link l).cfg = cfg
            ∧ (t.link l).train = (if depth.toNat < 2 then .loopback else .detect))
        ∧ LinkEffect (bothLinks p) (zeros ++ sessionRegs p) (s.touch h) t))
  ∧ (∀ (h : HostPort) (s : State), Reaches s h Reg.testLbCtrl → let p := s.test.lb.port
    ∃ t, exec (.testLbStop h) s = .next t ∧ (s.test.lb.running = false → t = s.touch h)
    ∧ (s.test.lb.running = true → (∀ l ∈ bothLinks p, (t.link l).train = .disabled ∧ (t.link l).looped = false)
        ∧ ((s.link p.link).looped = true → t.test.lb.running = false) ∧ LinkEffect (bothLinks p) (sessionRegs p) (s.touch h) t))
  ∧ (∀ (h port : HostPort) (depth : BitVec 2) (s : State), Reaches s h Reg.testHlbCtrl →
    let no := s.test.hlb.running = true ∨ depth = 3 ∨ (depth.toNat < 2 ∧ h = port)
    ∃ t, exec (.testHlbStart h port depth) s = .next t
    ∧ (no → t = (s.touch h).withTest { s.test with hlb := { s.test.hlb with refused := true } })
    ∧ (¬ no → t.test.hlb = ⟨port, depth, true, false, false⟩ ∧ t.rd Reg.testHlbBitsLo = 0 ∧ t.rd Reg.testHlbBitsHi = 0
        ∧ (∀ i, i < 8 → t.rd (Reg.testHlbErr i) = 0) ∧ (depth.toNat < 2 → (t.host port).dlUp = false)
        ∧ (2 ≤ depth.toNat → t.test.hostEcho = []) ∧ t.pool = s.pool ∧ t.links = s.links))
  ∧ (∀ (h : HostPort) (s : State), Reaches s h Reg.testHlbCtrl →
    exec (.testHlbStop h) s = .next ((s.touch h).withTest { s.test with hlb := { s.test.hlb with running := false } }))
  ∧ (∀ (l : LinkId) (s : State) (a : Arriving) (f : Frame),
    let damaged := a.bytes.length ≠ 36 + f.len ∨ f.payload.length ≠ f.len ∨ f.checkOk = false
    let x := requestExtent f
    let back := fun (st : Status) (data : Bytes) (t : State) => ∃ c : Frame, c.isCpl = true ∧ c.tag = f.tag ∧ c.seq = f.seq
      ∧ c.dest = f.srcSwitch ∧ c.status = st ∧ c.payload = data
      ∧ (t.link l).echo = (s.link l).echo ++ (List.range (frameFlits data.length)).map (fun i =>
          ⟨a.cls, i == 0, i + 1 == frameFlits data.length, (c.toBytes.drop (240 * i)).take 240⟩)
    (s.link l).looped = true → s.test.lb.depth = 3 → (s.link l).arriving.find? (·.whole) = some a → f = Frame.ofBytes a.bytes →
    ∃ t, exec (.echoRequest l) s = .next t ∧ (t.link l).arriving = (s.link l).arriving.erase a
    ∧ LinkEffect [l] (Reg.testLbEchoOps :: fabricRegs) s t
    ∧ (f.isCpl = true → (t.link l).echo = (s.link l).echo ∧ t.test = s.test)
    ∧ (f.isCpl = false → damaged → back St.check [] t ∧ t.test.echo = s.test.echo ∧ Counted Reg.mortCheck 1 s t)
    ∧ (f.isCpl = false → ¬ damaged → f.fmtGen = 1 → requestRsvd f = false → echoServed f = true → (s.link l).v09 = false →
        misaligned f = false → ∀ d o e, s.mortise (some (s.portPartition l.port)) f.job f.ak x.1 x.2 (opRights f) = .pass d o e →
        back St.ok (s.echoServe f o).1 t ∧ t.test.echo = (s.echoServe f o).2.test.echo ∧ Counted Reg.testLbEchoOps 1 s t))
  ∧ (∀ (kind : Fin 16) (unit : Nat) (pass : Bool) (detail : Word) (line : Dword) (s : State) (a : Activity),
    let st : BitVec 8 := if pass = true then St.ok else St.media
    let off := if kind.val = 4 then Reg.faultOffline (unit / 32) else if unit < 32 then Reg.faultOfflineNuLo else Reg.faultOfflineNuHi
    s.fault.running.find? (fun x => x.cls == 7 && x.kind == kind && x.unit == unit && x.result.isNone && s.bistReady x) = some a →
    (kind.val = 4 → unit < 168) → (kind.val = 5 → unit < 36) →
    ∃ t, exec (.bist kind unit pass detail line) s = .next t
    ∧ t.fault.running = s.fault.running.map (fun x => if x = a then { a with result := some st } else x)
    ∧ (t.rd Reg.testBistLast).toNat = kind.val * 2 ^ 28 + st.toNat * 2 ^ 16 + unit % 65536
    ∧ t.rd Reg.testBistDetail = (if pass = true then 0 else detail) ∧ Counted Reg.testBistRuns 1 s t
    ∧ Counted Reg.testBistFails (if pass = true then 0 else 1) s t
    ∧ (pass = false → kind.val = 4 ∨ kind.val = 5 → bit (t.rd off) (unit % 32) = true)
    ∧ (kind.val = 4 → t.benches.get Bench.reset unit = { s.benches.get Bench.reset unit with store := [], slots := [] })
    ∧ (kind.val ≠ 4 → t.benches = s.benches)
    ∧ (kind.val = 2 → t.rd64 Reg.testBistAddrLo = (if pass = true then 0 else line))
    ∧ RegsOnly [Reg.testBistLast, Reg.testBistDetail, Reg.testBistRuns, Reg.testBistFails, Reg.testBistAddrLo, Reg.testBistAddrHi,
        Reg.testMarchDoneLo, Reg.testMarchDoneHi, off] ((s.withFault { s.fault with running := t.fault.running }).withBenches t.benches) t)
  ∧ (∀ (p : Port) (s : State) (a : Activity),
    s.fault.running.find? (fun x => x.cls == 8 && x.kind == 1 && x.unit == p.val && x.result.isNone) = some a →
    let step := s.recalSlot p = true ∧ (a.progress = 0 ∨ a.askedAt ≠ s.bell.ticks)
    let becomes := fun (b : Activity) (t : State) =>
      t = s.withFault { s.fault with running := s.fault.running.map (fun x => if x = a then b else x) }
    ∃ t, exec (.linkRecal p) s = .next t
    ∧ (s.unitFenced a = true → becomes { a with result := some St.ok } t)
    ∧ (s.unitFenced a = false → ¬ step → t = s)
    ∧ (s.unitFenced a = false → step → a.progress + 1 < s.portLanes p →
        becomes { a with progress := a.progress + 1, askedAt := s.bell.ticks, result := none } t)
    ∧ (s.unitFenced a = false → step → s.portLanes p ≤ a.progress + 1 →
        becomes { a with progress := a.progress + 1, askedAt := s.bell.ticks, result := some St.ok } t))
  ∧ (∀ (h : HostPort) (buf : Fin 4) (v : Word) (s : State), Reaches s h (Reg.trcCfg buf.val) →
    let old := s.test.trace.get Trace.reset buf.val
    ∃ t, exec (.trcCfgWrite h buf v) s = .next t ∧ t.rd (Reg.trcCfg buf.val) = v &&& regMask (Reg.trcCfg buf.val)
    ∧ t.test.trace.get Trace.reset buf.val = (if bit v 31 = true then ⟨.capturing, [], 0⟩ else ⟨.idle, old.entries, 0⟩)
    ∧ (∀ k, k ≠ buf.val → t.test.trace.get Trace.reset k = s.test.trace.get Trace.reset k)
    ∧ RegsOnly [Reg.trcCfg buf.val] ((s.touch h).withTest { s.test with trace := t.test.trace }) t)
  ∧ (∀ (i : JtagInstr) (s : State), let u := s.withTest { s.test with jtag := i }
    let v := u.withBoot { s.boot with held := scanHolds i }
    ∃ t, exec (.jtagInstructionLoad i) s = .next t ∧ (scanHolds i = s.boot.held → t = u)
    ∧ (scanHolds i = true → s.boot.held = false → s.boot.pwrGood = true → Restarted false .auxOnly (s.rd Reg.resetCause) v t)
    ∧ (scanHolds i = false → s.boot.held = true → s.boot.pwrGood = true → s.boot.state = .auxOnly →
        Restarted false .romStart (s.rd Reg.resetCause) v t)
    ∧ (scanHolds i ≠ s.boot.held → s.boot.pwrGood = false → t = v))
  ∧ (∀ (w : SensorSweep) (s : State), let st := s.rd Reg.telStatus
    let hot := hottest w.dies
    let warm := decide (s.warnC ≤ hot) || (bit st 0 && decide (s.warnC < hot + 5))
    let cool := decide (45 < w.inlet.toNat) || (bit st 1 && decide (45 < w.inlet.toNat + 5))
    let due := s.boot.auxGood = true ∧ (s.mod.sweepAt = 0 ∨ s.mod.sweepAt + 1024 ≤ s.bell.bounds + 1)
    let trips := s.mod.trip = false ∧ (115 ≤ hot ∨ 125 ≤ w.regulator.toNat)
    let stkRegs := (List.range 8).flatMap (fun k => [Reg.stkTemp k, Reg.stkStatus k])
    let regs := [Reg.telTjMax, Reg.telCoolant, Reg.telRegTemp, Reg.telVin, Reg.telVaux, Reg.telStatus] ++ (List.range 6).map Reg.telDieTemp
    ∃ t, exec (.sensorRead w) s = .next t ∧ (¬ due → t = s)
    ∧ (due → t.rd Reg.telTjMax = BitVec.ofNat 32 hot ∧ (∀ d, d < 6 → t.rd (Reg.telDieTemp d) = (w.dies.getD d 0).setWidth 32)
        ∧ t.rd Reg.telCoolant = BitVec.ofNat 32 (w.outlet.toNat * 256 + w.inlet.toNat)
        ∧ t.rd Reg.telRegTemp = w.regulator.setWidth 32 ∧ t.rd Reg.telVin = w.vinMv ∧ t.rd Reg.telVaux = w.vauxMv
        ∧ bit (t.rd Reg.telStatus) 0 = warm ∧ bit (t.rd Reg.telStatus) 1 = cool ∧ t.mod.alert = (warm || cool))
    ∧ (due → ¬ trips → t.mod.trip = s.mod.trip ∧ t.mod.pin = w.pinW ∧ t.mod.paux = w.pauxW
        ∧ t.mod.energy = s.mod.energy + w.pinW * 2048 * (if s.mod.sweepAt = 0 then 0 else s.bell.bounds + 1 - s.mod.sweepAt)
        ∧ (s.powered = true → ∀ k, k < 8 → t.rd (Reg.stkTemp k) = (w.stackDeg.getD k 0).setWidth 32)
        ∧ t.out = (if (warm = true ∧ bit st 0 = false) ∨ (cool = true ∧ bit st 1 = false) then .i3cInterrupt :: s.out else s.out)
        ∧ RegsOnly (if s.powered = true then regs ++ stkRegs else regs) ((s.withMod t.mod).withOut t.out) t)
    ∧ (due → trips → t.mod.trip = true ∧ bit (t.rd Reg.telStatus) 3 = true ∧ Counted Reg.telTrips 1 s t
        ∧ (s.boot.pwrGood = true → t.boot.state = .auxOnly ∧ t.boot.pwrGood = false ∧ t.boot.lossSeen = true
            ∧ t.rd Reg.resetCause = 2 ∧ t.links = [] ∧ t.pool = Pool.reset)))
  ∧ (∀ s : State, let may := s.boot.auxGood = true ∧ s.mod.trip = true ∧ (s.rd Reg.telTjMax).toNat < 85
    ∃ t, exec .clearTrip s = .next t ∧ (¬ may → t = s)
    ∧ (may → t.rd Reg.telStatus = clrBit (s.rd Reg.telStatus) 3 ∧ RegsOnly [Reg.telStatus] (s.withMod { s.mod with trip := false }) t))
  ∧ (∀ s : State, let due := s.bell.now.slot = 0 ∧ s.mort.jobCopyAt ≠ s.bell.bounds + 1
    let power := s.mort.jobPower = 0 ∨ s.mod.powerAt + 4883 ≤ s.bell.bounds
    ∃ t, exec .jobViewCopy s = .next t ∧ (¬ due → t = s)
    ∧ (due → t.mort.jobStamp = s.bell.now.period ∧ t.mort.jobCopyAt = s.bell.bounds + 1
        ∧ (s.mort.jobLive.rising = true → ∀ i, t.mort.jobShown.get 0 i =
            viewCount (if i % 8 = 4 ∨ i % 8 = 5 then s.mort.jobLive.get 0 i / 1000 else s.mort.jobLive.get 0 i))
        ∧ (power → t.rd Reg.telPin = BitVec.ofNat 32 (s.mod.pin / 8 * 8) ∧ t.rd Reg.telPaux = BitVec.ofNat 32 (s.mod.paux / 8 * 8)
            ∧ t.mod = { s.mod with powerAt := s.bell.bounds })
        ∧ (¬ power → t.mod = s.mod ∧ t.mort.jobPower = s.mort.jobPower)
        ∧ RegsOnly (if power then [Reg.telPin, Reg.telPaux, Reg.telEnergyLo, Reg.telEnergyHi] else [])
            (((s.withMort { s.mort with jobShown := t.mort.jobShown, jobStamp := t.mort.jobStamp, jobCopyAt := t.mort.jobCopyAt,
                                        jobPower := t.mort.jobPower }).withMod t.mod).withFree t.free) t))
end

