-- ==== Sys2Proof/Laws/State.lean ====
section
/-!
SUPPORT. What each field of the state reads as after each named update: one lemma per field and update, so that no
later proof unfolds a record update.
-/
namespace Sys2Proof.Machine

@[simp] theorem State.withRegs_regs (s : State) (x : Tab Word) : (s.withRegs x).regs = x := rfl
@[simp] theorem State.withRegs_latch (s : State) (x : Tab Word) : (s.withRegs x).latch = s.latch := rfl
@[simp] theorem State.withRegs_hold (s : State) (x : Tab Word) : (s.withRegs x).hold = s.hold := rfl
@[simp] theorem State.withRegs_bell (s : State) (x : Tab Word) : (s.withRegs x).bell = s.bell := rfl
@[simp] theorem State.withRegs_tt (s : State) (x : Tab Word) : (s.withRegs x).tt = s.tt := rfl
@[simp] theorem State.withRegs_links (s : State) (x : Tab Word) : (s.withRegs x).links = s.links := rfl
@[simp] theorem State.withRegs_sw (s : State) (x : Tab Word) : (s.withRegs x).sw = s.sw := rfl
@[simp] theorem State.withRegs_mort (s : State) (x : Tab Word) : (s.withRegs x).mort = s.mort := rfl
@[simp] theorem State.withRegs_pool (s : State) (x : Tab Word) : (s.withRegs x).pool = s.pool := rfl
@[simp] theorem State.withRegs_dir (s : State) (x : Tab Word) : (s.withRegs x).dir = s.dir := rfl
@[simp] theorem State.withRegs_roll (s : State) (x : Tab Word) : (s.withRegs x).roll = s.roll := rfl
@[simp] theorem State.withRegs_benches (s : State) (x : Tab Word) : (s.withRegs x).benches = s.benches := rfl
@[simp] theorem State.withRegs_net (s : State) (x : Tab Word) : (s.withRegs x).net = s.net := rfl
@[simp] theorem State.withRegs_hostA (s : State) (x : Tab Word) : (s.withRegs x).hostA = s.hostA := rfl
@[simp] theorem State.withRegs_hostB (s : State) (x : Tab Word) : (s.withRegs x).hostB = s.hostB := rfl
@[simp] theorem State.withRegs_fault (s : State) (x : Tab Word) : (s.withRegs x).fault = s.fault := rfl
@[simp] theorem State.withRegs_boot (s : State) (x : Tab Word) : (s.withRegs x).boot = s.boot := rfl
@[simp] theorem State.withRegs_test (s : State) (x : Tab Word) : (s.withRegs x).test = s.test := rfl
@[simp] theorem State.withRegs_mod (s : State) (x : Tab Word) : (s.withRegs x).mod = s.mod := rfl
@[simp] theorem State.withRegs_free (s : State) (x : Tab Word) : (s.withRegs x).free = s.free := rfl
@[simp] theorem State.withRegs_out (s : State) (x : Tab Word) : (s.withRegs x).out = s.out := rfl
@[simp] theorem State.withRegs_pending (s : State) (x : Tab Word) : (s.withRegs x).pending = s.pending := rfl

@[simp] theorem State.withLatch_regs (s : State) (x : Tab (Option Word)) : (s.withLatch x).regs = s.regs := rfl
@[simp] theorem State.withLatch_latch (s : State) (x : Tab (Option Word)) : (s.withLatch x).latch = x := rfl
@[simp] theorem State.withLatch_hold (s : State) (x : Tab (Option Word)) : (s.withLatch x).hold = s.hold := rfl
@[simp] theorem State.withLatch_bell (s : State) (x : Tab (Option Word)) : (s.withLatch x).bell = s.bell := rfl
@[simp] theorem State.withLatch_tt (s : State) (x : Tab (Option Word)) : (s.withLatch x).tt = s.tt := rfl
@[simp] theorem State.withLatch_links (s : State) (x : Tab (Option Word)) : (s.withLatch x).links = s.links := rfl
@[simp] theorem State.withLatch_sw (s : State) (x : Tab (Option Word)) : (s.withLatch x).sw = s.sw := rfl
@[simp] theorem State.withLatch_mort (s : State) (x : Tab (Option Word)) : (s.withLatch x).mort = s.mort := rfl
@[simp] theorem State.withLatch_pool (s : State) (x : Tab (Option Word)) : (s.withLatch x).pool = s.pool := rfl
@[simp] theorem State.withLatch_dir (s : State) (x : Tab (Option Word)) : (s.withLatch x).dir = s.dir := rfl
@[simp] theorem State.withLatch_roll (s : State) (x : Tab (Option Word)) : (s.withLatch x).roll = s.roll := rfl
@[simp] theorem State.withLatch_benches (s : State) (x : Tab (Option Word)) : (s.withLatch x).benches = s.benches := rfl
@[simp] theorem State.withLatch_net (s : State) (x : Tab (Option Word)) : (s.withLatch x).net = s.net := rfl
@[simp] theorem State.withLatch_hostA (s : State) (x : Tab (Option Word)) : (s.withLatch x).hostA = s.hostA := rfl
@[simp] theorem State.withLatch_hostB (s : State) (x : Tab (Option Word)) : (s.withLatch x).hostB = s.hostB := rfl
@[simp] theorem State.withLatch_fault (s : State) (x : Tab (Option Word)) : (s.withLatch x).fault = s.fault := rfl
@[simp] theorem State.withLatch_boot (s : State) (x : Tab (Option Word)) : (s.withLatch x).boot = s.boot := rfl
@[simp] theorem State.withLatch_test (s : State) (x : Tab (Option Word)) : (s.withLatch x).test = s.test := rfl
@[simp] theorem State.withLatch_mod (s : State) (x : Tab (Option Word)) : (s.withLatch x).mod = s.mod := rfl
@[simp] theorem State.withLatch_free (s : State) (x : Tab (Option Word)) : (s.withLatch x).free = s.free := rfl
@[simp] theorem State.withLatch_out (s : State) (x : Tab (Option Word)) : (s.withLatch x).out = s.out := rfl
@[simp] theorem State.withLatch_pending (s : State) (x : Tab (Option Word)) : (s.withLatch x).pending = s.pending := rfl

@[simp] theorem State.withHold_regs (s : State) (x : Tab (Option Word)) : (s.withHold x).regs = s.regs := rfl
@[simp] theorem State.withHold_latch (s : State) (x : Tab (Option Word)) : (s.withHold x).latch = s.latch := rfl
@[simp] theorem State.withHold_hold (s : State) (x : Tab (Option Word)) : (s.withHold x).hold = x := rfl
@[simp] theorem State.withHold_bell (s : State) (x : Tab (Option Word)) : (s.withHold x).bell = s.bell := rfl
@[simp] theorem State.withHold_tt (s : State) (x : Tab (Option Word)) : (s.withHold x).tt = s.tt := rfl
@[simp] theorem State.withHold_links (s : State) (x : Tab (Option Word)) : (s.withHold x).links = s.links := rfl
@[simp] theorem State.withHold_sw (s : State) (x : Tab (Option Word)) : (s.withHold x).sw = s.sw := rfl
@[simp] theorem State.withHold_mort (s : State) (x : Tab (Option Word)) : (s.withHold x).mort = s.mort := rfl
@[simp] theorem State.withHold_pool (s : State) (x : Tab (Option Word)) : (s.withHold x).pool = s.pool := rfl
@[simp] theorem State.withHold_dir (s : State) (x : Tab (Option Word)) : (s.withHold x).dir = s.dir := rfl
@[simp] theorem State.withHold_roll (s : State) (x : Tab (Option Word)) : (s.withHold x).roll = s.roll := rfl
@[simp] theorem State.withHold_benches (s : State) (x : Tab (Option Word)) : (s.withHold x).benches = s.benches := rfl
@[simp] theorem State.withHold_net (s : State) (x : Tab (Option Word)) : (s.withHold x).net = s.net := rfl
@[simp] theorem State.withHold_hostA (s : State) (x : Tab (Option Word)) : (s.withHold x).hostA = s.hostA := rfl
@[simp] theorem State.withHold_hostB (s : State) (x : Tab (Option Word)) : (s.withHold x).hostB = s.hostB := rfl
@[simp] theorem State.withHold_fault (s : State) (x : Tab (Option Word)) : (s.withHold x).fault = s.fault := rfl
@[simp] theorem State.withHold_boot (s : State) (x : Tab (Option Word)) : (s.withHold x).boot = s.boot := rfl
@[simp] theorem State.withHold_test (s : State) (x : Tab (Option Word)) : (s.withHold x).test = s.test := rfl
@[simp] theorem State.withHold_mod (s : State) (x : Tab (Option Word)) : (s.withHold x).mod = s.mod := rfl
@[simp] theorem State.withHold_free (s : State) (x : Tab (Option Word)) : (s.withHold x).free = s.free := rfl
@[simp] theorem State.withHold_out (s : State) (x : Tab (Option Word)) : (s.withHold x).out = s.out := rfl
@[simp] theorem State.withHold_pending (s : State) (x : Tab (Option Word)) : (s.withHold x).pending = s.pending := rfl

@[simp] theorem State.withBell_regs (s : State) (x : Bell) : (s.withBell x).regs = s.regs := rfl
@[simp] theorem State.withBell_latch (s : State) (x : Bell) : (s.withBell x).latch = s.latch := rfl
@[simp] theorem State.withBell_hold (s : State) (x : Bell) : (s.withBell x).hold = s.hold := rfl
@[simp] theorem State.withBell_bell (s : State) (x : Bell) : (s.withBell x).bell = x := rfl
@[simp] theorem State.withBell_tt (s : State) (x : Bell) : (s.withBell x).tt = s.tt := rfl
@[simp] theorem State.withBell_links (s : State) (x : Bell) : (s.withBell x).links = s.links := rfl
@[simp] theorem State.withBell_sw (s : State) (x : Bell) : (s.withBell x).sw = s.sw := rfl
@[simp] theorem State.withBell_mort (s : State) (x : Bell) : (s.withBell x).mort = s.mort := rfl
@[simp] theorem State.withBell_pool (s : State) (x : Bell) : (s.withBell x).pool = s.pool := rfl
@[simp] theorem State.withBell_dir (s : State) (x : Bell) : (s.withBell x).dir = s.dir := rfl
@[simp] theorem State.withBell_roll (s : State) (x : Bell) : (s.withBell x).roll = s.roll := rfl
@[simp] theorem State.withBell_benches (s : State) (x : Bell) : (s.withBell x).benches = s.benches := rfl
@[simp] theorem State.withBell_net (s : State) (x : Bell) : (s.withBell x).net = s.net := rfl
@[simp] theorem State.withBell_hostA (s : State) (x : Bell) : (s.withBell x).hostA = s.hostA := rfl
@[simp] theorem State.withBell_hostB (s : State) (x : Bell) : (s.withBell x).hostB = s.hostB := rfl
@[simp] theorem State.withBell_fault (s : State) (x : Bell) : (s.withBell x).fault = s.fault := rfl
@[simp] theorem State.withBell_boot (s : State) (x : Bell) : (s.withBell x).boot = s.boot := rfl
@[simp] theorem State.withBell_test (s : State) (x : Bell) : (s.withBell x).test = s.test := rfl
@[simp] theorem State.withBell_mod (s : State) (x : Bell) : (s.withBell x).mod = s.mod := rfl
@[simp] theorem State.withBell_free (s : State) (x : Bell) : (s.withBell x).free = s.free := rfl
@[simp] theorem State.withBell_out (s : State) (x : Bell) : (s.withBell x).out = s.out := rfl
@[simp] theorem State.withBell_pending (s : State) (x : Bell) : (s.withBell x).pending = s.pending := rfl

@[simp] theorem State.withTt_regs (s : State) (x : Timetable) : (s.withTt x).regs = s.regs := rfl
@[simp] theorem State.withTt_latch (s : State) (x : Timetable) : (s.withTt x).latch = s.latch := rfl
@[simp] theorem State.withTt_hold (s : State) (x : Timetable) : (s.withTt x).hold = s.hold := rfl
@[simp] theorem State.withTt_bell (s : State) (x : Timetable) : (s.withTt x).bell = s.bell := rfl
@[simp] theorem State.withTt_tt (s : State) (x : Timetable) : (s.withTt x).tt = x := rfl
@[simp] theorem State.withTt_links (s : State) (x : Timetable) : (s.withTt x).links = s.links := rfl
@[simp] theorem State.withTt_sw (s : State) (x : Timetable) : (s.withTt x).sw = s.sw := rfl
@[simp] theorem State.withTt_mort (s : State) (x : Timetable) : (s.withTt x).mort = s.mort := rfl
@[simp] theorem State.withTt_pool (s : State) (x : Timetable) : (s.withTt x).pool = s.pool := rfl
@[simp] theorem State.withTt_dir (s : State) (x : Timetable) : (s.withTt x).dir = s.dir := rfl
@[simp] theorem State.withTt_roll (s : State) (x : Timetable) : (s.withTt x).roll = s.roll := rfl
@[simp] theorem State.withTt_benches (s : State) (x : Timetable) : (s.withTt x).benches = s.benches := rfl
@[simp] theorem State.withTt_net (s : State) (x : Timetable) : (s.withTt x).net = s.net := rfl
@[simp] theorem State.withTt_hostA (s : State) (x : Timetable) : (s.withTt x).hostA = s.hostA := rfl
@[simp] theorem State.withTt_hostB (s : State) (x : Timetable) : (s.withTt x).hostB = s.hostB := rfl
@[simp] theorem State.withTt_fault (s : State) (x : Timetable) : (s.withTt x).fault = s.fault := rfl
@[simp] theorem State.withTt_boot (s : State) (x : Timetable) : (s.withTt x).boot = s.boot := rfl
@[simp] theorem State.withTt_test (s : State) (x : Timetable) : (s.withTt x).test = s.test := rfl
@[simp] theorem State.withTt_mod (s : State) (x : Timetable) : (s.withTt x).mod = s.mod := rfl
@[simp] theorem State.withTt_free (s : State) (x : Timetable) : (s.withTt x).free = s.free := rfl
@[simp] theorem State.withTt_out (s : State) (x : Timetable) : (s.withTt x).out = s.out := rfl
@[simp] theorem State.withTt_pending (s : State) (x : Timetable) : (s.withTt x).pending = s.pending := rfl

@[simp] theorem State.withLinks_regs (s : State) (x : Tab Link) : (s.withLinks x).regs = s.regs := rfl
@[simp] theorem State.withLinks_latch (s : State) (x : Tab Link) : (s.withLinks x).latch = s.latch := rfl
@[simp] theorem State.withLinks_hold (s : State) (x : Tab Link) : (s.withLinks x).hold = s.hold := rfl
@[simp] theorem State.withLinks_bell (s : State) (x : Tab Link) : (s.withLinks x).bell = s.bell := rfl
@[simp] theorem State.withLinks_tt (s : State) (x : Tab Link) : (s.withLinks x).tt = s.tt := rfl
@[simp] theorem State.withLinks_links (s : State) (x : Tab Link) : (s.withLinks x).links = x := rfl
@[simp] theorem State.withLinks_sw (s : State) (x : Tab Link) : (s.withLinks x).sw = s.sw := rfl
@[simp] theorem State.withLinks_mort (s : State) (x : Tab Link) : (s.withLinks x).mort = s.mort := rfl
@[simp] theorem State.withLinks_pool (s : State) (x : Tab Link) : (s.withLinks x).pool = s.pool := rfl
@[simp] theorem State.withLinks_dir (s : State) (x : Tab Link) : (s.withLinks x).dir = s.dir := rfl
@[simp] theorem State.withLinks_roll (s : State) (x : Tab Link) : (s.withLinks x).roll = s.roll := rfl
@[simp] theorem State.withLinks_benches (s : State) (x : Tab Link) : (s.withLinks x).benches = s.benches := rfl
@[simp] theorem State.withLinks_net (s : State) (x : Tab Link) : (s.withLinks x).net = s.net := rfl
@[simp] theorem State.withLinks_hostA (s : State) (x : Tab Link) : (s.withLinks x).hostA = s.hostA := rfl
@[simp] theorem State.withLinks_hostB (s : State) (x : Tab Link) : (s.withLinks x).hostB = s.hostB := rfl
@[simp] theorem State.withLinks_fault (s : State) (x : Tab Link) : (s.withLinks x).fault = s.fault := rfl
@[simp] theorem State.withLinks_boot (s : State) (x : Tab Link) : (s.withLinks x).boot = s.boot := rfl
@[simp] theorem State.withLinks_test (s : State) (x : Tab Link) : (s.withLinks x).test = s.test := rfl
@[simp] theorem State.withLinks_mod (s : State) (x : Tab Link) : (s.withLinks x).mod = s.mod := rfl
@[simp] theorem State.withLinks_free (s : State) (x : Tab Link) : (s.withLinks x).free = s.free := rfl
@[simp] theorem State.withLinks_out (s : State) (x : Tab Link) : (s.withLinks x).out = s.out := rfl
@[simp] theorem State.withLinks_pending (s : State) (x : Tab Link) : (s.withLinks x).pending = s.pending := rfl

@[simp] theorem State.withSw_regs (s : State) (x : Switch) : (s.withSw x).regs = s.regs := rfl
@[simp] theorem State.withSw_latch (s : State) (x : Switch) : (s.withSw x).latch = s.latch := rfl
@[simp] theorem State.withSw_hold (s : State) (x : Switch) : (s.withSw x).hold = s.hold := rfl
@[simp] theorem State.withSw_bell (s : State) (x : Switch) : (s.withSw x).bell = s.bell := rfl
@[simp] theorem State.withSw_tt (s : State) (x : Switch) : (s.withSw x).tt = s.tt := rfl
@[simp] theorem State.withSw_links (s : State) (x : Switch) : (s.withSw x).links = s.links := rfl
@[simp] theorem State.withSw_sw (s : State) (x : Switch) : (s.withSw x).sw = x := rfl
@[simp] theorem State.withSw_mort (s : State) (x : Switch) : (s.withSw x).mort = s.mort := rfl
@[simp] theorem State.withSw_pool (s : State) (x : Switch) : (s.withSw x).pool = s.pool := rfl
@[simp] theorem State.withSw_dir (s : State) (x : Switch) : (s.withSw x).dir = s.dir := rfl
@[simp] theorem State.withSw_roll (s : State) (x : Switch) : (s.withSw x).roll = s.roll := rfl
@[simp] theorem State.withSw_benches (s : State) (x : Switch) : (s.withSw x).benches = s.benches := rfl
@[simp] theorem State.withSw_net (s : State) (x : Switch) : (s.withSw x).net = s.net := rfl
@[simp] theorem State.withSw_hostA (s : State) (x : Switch) : (s.withSw x).hostA = s.hostA := rfl
@[simp] theorem State.withSw_hostB (s : State) (x : Switch) : (s.withSw x).hostB = s.hostB := rfl
@[simp] theorem State.withSw_fault (s : State) (x : Switch) : (s.withSw x).fault = s.fault := rfl
@[simp] theorem State.withSw_boot (s : State) (x : Switch) : (s.withSw x).boot = s.boot := rfl
@[simp] theorem State.withSw_test (s : State) (x : Switch) : (s.withSw x).test = s.test := rfl
@[simp] theorem State.withSw_mod (s : State) (x : Switch) : (s.withSw x).mod = s.mod := rfl
@[simp] theorem State.withSw_free (s : State) (x : Switch) : (s.withSw x).free = s.free := rfl
@[simp] theorem State.withSw_out (s : State) (x : Switch) : (s.withSw x).out = s.out := rfl
@[simp] theorem State.withSw_pending (s : State) (x : Switch) : (s.withSw x).pending = s.pending := rfl

@[simp] theorem State.withMort_regs (s : State) (x : Mortise) : (s.withMort x).regs = s.regs := rfl
@[simp] theorem State.withMort_latch (s : State) (x : Mortise) : (s.withMort x).latch = s.latch := rfl
@[simp] theorem State.withMort_hold (s : State) (x : Mortise) : (s.withMort x).hold = s.hold := rfl
@[simp] theorem State.withMort_bell (s : State) (x : Mortise) : (s.withMort x).bell = s.bell := rfl
@[simp] theorem State.withMort_tt (s : State) (x : Mortise) : (s.withMort x).tt = s.tt := rfl
@[simp] theorem State.withMort_links (s : State) (x : Mortise) : (s.withMort x).links = s.links := rfl
@[simp] theorem State.withMort_sw (s : State) (x : Mortise) : (s.withMort x).sw = s.sw := rfl
@[simp] theorem State.withMort_mort (s : State) (x : Mortise) : (s.withMort x).mort = x := rfl
@[simp] theorem State.withMort_pool (s : State) (x : Mortise) : (s.withMort x).pool = s.pool := rfl
@[simp] theorem State.withMort_dir (s : State) (x : Mortise) : (s.withMort x).dir = s.dir := rfl
@[simp] theorem State.withMort_roll (s : State) (x : Mortise) : (s.withMort x).roll = s.roll := rfl
@[simp] theorem State.withMort_benches (s : State) (x : Mortise) : (s.withMort x).benches = s.benches := rfl
@[simp] theorem State.withMort_net (s : State) (x : Mortise) : (s.withMort x).net = s.net := rfl
@[simp] theorem State.withMort_hostA (s : State) (x : Mortise) : (s.withMort x).hostA = s.hostA := rfl
@[simp] theorem State.withMort_hostB (s : State) (x : Mortise) : (s.withMort x).hostB = s.hostB := rfl
@[simp] theorem State.withMort_fault (s : State) (x : Mortise) : (s.withMort x).fault = s.fault := rfl
@[simp] theorem State.withMort_boot (s : State) (x : Mortise) : (s.withMort x).boot = s.boot := rfl
@[simp] theorem State.withMort_test (s : State) (x : Mortise) : (s.withMort x).test = s.test := rfl
@[simp] theorem State.withMort_mod (s : State) (x : Mortise) : (s.withMort x).mod = s.mod := rfl
@[simp] theorem State.withMort_free (s : State) (x : Mortise) : (s.withMort x).free = s.free := rfl
@[simp] theorem State.withMort_out (s : State) (x : Mortise) : (s.withMort x).out = s.out := rfl
@[simp] theorem State.withMort_pending (s : State) (x : Mortise) : (s.withMort x).pending = s.pending := rfl

@[simp] theorem State.withPool_regs (s : State) (x : Pool) : (s.withPool x).regs = s.regs := rfl
@[simp] theorem State.withPool_latch (s : State) (x : Pool) : (s.withPool x).latch = s.latch := rfl
@[simp] theorem State.withPool_hold (s : State) (x : Pool) : (s.withPool x).hold = s.hold := rfl
@[simp] theorem State.withPool_bell (s : State) (x : Pool) : (s.withPool x).bell = s.bell := rfl
@[simp] theorem State.withPool_tt (s : State) (x : Pool) : (s.withPool x).tt = s.tt := rfl
@[simp] theorem State.withPool_links (s : State) (x : Pool) : (s.withPool x).links = s.links := rfl
@[simp] theorem State.withPool_sw (s : State) (x : Pool) : (s.withPool x).sw = s.sw := rfl
@[simp] theorem State.withPool_mort (s : State) (x : Pool) : (s.withPool x).mort = s.mort := rfl
@[simp] theorem State.withPool_pool (s : State) (x : Pool) : (s.withPool x).pool = x := rfl
@[simp] theorem State.withPool_dir (s : State) (x : Pool) : (s.withPool x).dir = s.dir := rfl
@[simp] theorem State.withPool_roll (s : State) (x : Pool) : (s.withPool x).roll = s.roll := rfl
@[simp] theorem State.withPool_benches (s : State) (x : Pool) : (s.withPool x).benches = s.benches := rfl
@[simp] theorem State.withPool_net (s : State) (x : Pool) : (s.withPool x).net = s.net := rfl
@[simp] theorem State.withPool_hostA (s : State) (x : Pool) : (s.withPool x).hostA = s.hostA := rfl
@[simp] theorem State.withPool_hostB (s : State) (x : Pool) : (s.withPool x).hostB = s.hostB := rfl
@[simp] theorem State.withPool_fault (s : State) (x : Pool) : (s.withPool x).fault = s.fault := rfl
@[simp] theorem State.withPool_boot (s : State) (x : Pool) : (s.withPool x).boot = s.boot := rfl
@[simp] theorem State.withPool_test (s : State) (x : Pool) : (s.withPool x).test = s.test := rfl
@[simp] theorem State.withPool_mod (s : State) (x : Pool) : (s.withPool x).mod = s.mod := rfl
@[simp] theorem State.withPool_free (s : State) (x : Pool) : (s.withPool x).free = s.free := rfl
@[simp] theorem State.withPool_out (s : State) (x : Pool) : (s.withPool x).out = s.out := rfl
@[simp] theorem State.withPool_pending (s : State) (x : Pool) : (s.withPool x).pending = s.pending := rfl

@[simp] theorem State.withDir_regs (s : State) (x : Directory) : (s.withDir x).regs = s.regs := rfl
@[simp] theorem State.withDir_latch (s : State) (x : Directory) : (s.withDir x).latch = s.latch := rfl
@[simp] theorem State.withDir_hold (s : State) (x : Directory) : (s.withDir x).hold = s.hold := rfl
@[simp] theorem State.withDir_bell (s : State) (x : Directory) : (s.withDir x).bell = s.bell := rfl
@[simp] theorem State.withDir_tt (s : State) (x : Directory) : (s.withDir x).tt = s.tt := rfl
@[simp] theorem State.withDir_links (s : State) (x : Directory) : (s.withDir x).links = s.links := rfl
@[simp] theorem State.withDir_sw (s : State) (x : Directory) : (s.withDir x).sw = s.sw := rfl
@[simp] theorem State.withDir_mort (s : State) (x : Directory) : (s.withDir x).mort = s.mort := rfl
@[simp] theorem State.withDir_pool (s : State) (x : Directory) : (s.withDir x).pool = s.pool := rfl
@[simp] theorem State.withDir_dir (s : State) (x : Directory) : (s.withDir x).dir = x := rfl
@[simp] theorem State.withDir_roll (s : State) (x : Directory) : (s.withDir x).roll = s.roll := rfl
@[simp] theorem State.withDir_benches (s : State) (x : Directory) : (s.withDir x).benches = s.benches := rfl
@[simp] theorem State.withDir_net (s : State) (x : Directory) : (s.withDir x).net = s.net := rfl
@[simp] theorem State.withDir_hostA (s : State) (x : Directory) : (s.withDir x).hostA = s.hostA := rfl
@[simp] theorem State.withDir_hostB (s : State) (x : Directory) : (s.withDir x).hostB = s.hostB := rfl
@[simp] theorem State.withDir_fault (s : State) (x : Directory) : (s.withDir x).fault = s.fault := rfl
@[simp] theorem State.withDir_boot (s : State) (x : Directory) : (s.withDir x).boot = s.boot := rfl
@[simp] theorem State.withDir_test (s : State) (x : Directory) : (s.withDir x).test = s.test := rfl
@[simp] theorem State.withDir_mod (s : State) (x : Directory) : (s.withDir x).mod = s.mod := rfl
@[simp] theorem State.withDir_free (s : State) (x : Directory) : (s.withDir x).free = s.free := rfl
@[simp] theorem State.withDir_out (s : State) (x : Directory) : (s.withDir x).out = s.out := rfl
@[simp] theorem State.withDir_pending (s : State) (x : Directory) : (s.withDir x).pending = s.pending := rfl

@[simp] theorem State.withRoll_regs (s : State) (x : Roll) : (s.withRoll x).regs = s.regs := rfl
@[simp] theorem State.withRoll_latch (s : State) (x : Roll) : (s.withRoll x).latch = s.latch := rfl
@[simp] theorem State.withRoll_hold (s : State) (x : Roll) : (s.withRoll x).hold = s.hold := rfl
@[simp] theorem State.withRoll_bell (s : State) (x : Roll) : (s.withRoll x).bell = s.bell := rfl
@[simp] theorem State.withRoll_tt (s : State) (x : Roll) : (s.withRoll x).tt = s.tt := rfl
@[simp] theorem State.withRoll_links (s : State) (x : Roll) : (s.withRoll x).links = s.links := rfl
@[simp] theorem State.withRoll_sw (s : State) (x : Roll) : (s.withRoll x).sw = s.sw := rfl
@[simp] theorem State.withRoll_mort (s : State) (x : Roll) : (s.withRoll x).mort = s.mort := rfl
@[simp] theorem State.withRoll_pool (s : State) (x : Roll) : (s.withRoll x).pool = s.pool := rfl
@[simp] theorem State.withRoll_dir (s : State) (x : Roll) : (s.withRoll x).dir = s.dir := rfl
@[simp] theorem State.withRoll_roll (s : State) (x : Roll) : (s.withRoll x).roll = x := rfl
@[simp] theorem State.withRoll_benches (s : State) (x : Roll) : (s.withRoll x).benches = s.benches := rfl
@[simp] theorem State.withRoll_net (s : State) (x : Roll) : (s.withRoll x).net = s.net := rfl
@[simp] theorem State.withRoll_hostA (s : State) (x : Roll) : (s.withRoll x).hostA = s.hostA := rfl
@[simp] theorem State.withRoll_hostB (s : State) (x : Roll) : (s.withRoll x).hostB = s.hostB := rfl
@[simp] theorem State.withRoll_fault (s : State) (x : Roll) : (s.withRoll x).fault = s.fault := rfl
@[simp] theorem State.withRoll_boot (s : State) (x : Roll) : (s.withRoll x).boot = s.boot := rfl
@[simp] theorem State.withRoll_test (s : State) (x : Roll) : (s.withRoll x).test = s.test := rfl
@[simp] theorem State.withRoll_mod (s : State) (x : Roll) : (s.withRoll x).mod = s.mod := rfl
@[simp] theorem State.withRoll_free (s : State) (x : Roll) : (s.withRoll x).free = s.free := rfl
@[simp] theorem State.withRoll_out (s : State) (x : Roll) : (s.withRoll x).out = s.out := rfl
@[simp] theorem State.withRoll_pending (s : State) (x : Roll) : (s.withRoll x).pending = s.pending := rfl

@[simp] theorem State.withBenches_regs (s : State) (x : Tab Bench) : (s.withBenches x).regs = s.regs := rfl
@[simp] theorem State.withBenches_latch (s : State) (x : Tab Bench) : (s.withBenches x).latch = s.latch := rfl
@[simp] theorem State.withBenches_hold (s : State) (x : Tab Bench) : (s.withBenches x).hold = s.hold := rfl
@[simp] theorem State.withBenches_bell (s : State) (x : Tab Bench) : (s.withBenches x).bell = s.bell := rfl
@[simp] theorem State.withBenches_tt (s : State) (x : Tab Bench) : (s.withBenches x).tt = s.tt := rfl
@[simp] theorem State.withBenches_links (s : State) (x : Tab Bench) : (s.withBenches x).links = s.links := rfl
@[simp] theorem State.withBenches_sw (s : State) (x : Tab Bench) : (s.withBenches x).sw = s.sw := rfl
@[simp] theorem State.withBenches_mort (s : State) (x : Tab Bench) : (s.withBenches x).mort = s.mort := rfl
@[simp] theorem State.withBenches_pool (s : State) (x : Tab Bench) : (s.withBenches x).pool = s.pool := rfl
@[simp] theorem State.withBenches_dir (s : State) (x : Tab Bench) : (s.withBenches x).dir = s.dir := rfl
@[simp] theorem State.withBenches_roll (s : State) (x : Tab Bench) : (s.withBenches x).roll = s.roll := rfl
@[simp] theorem State.withBenches_benches (s : State) (x : Tab Bench) : (s.withBenches x).benches = x := rfl
@[simp] theorem State.withBenches_net (s : State) (x : Tab Bench) : (s.withBenches x).net = s.net := rfl
@[simp] theorem State.withBenches_hostA (s : State) (x : Tab Bench) : (s.withBenches x).hostA = s.hostA := rfl
@[simp] theorem State.withBenches_hostB (s : State) (x : Tab Bench) : (s.withBenches x).hostB = s.hostB := rfl
@[simp] theorem State.withBenches_fault (s : State) (x : Tab Bench) : (s.withBenches x).fault = s.fault := rfl
@[simp] theorem State.withBenches_boot (s : State) (x : Tab Bench) : (s.withBenches x).boot = s.boot := rfl
@[simp] theorem State.withBenches_test (s : State) (x : Tab Bench) : (s.withBenches x).test = s.test := rfl
@[simp] theorem State.withBenches_mod (s : State) (x : Tab Bench) : (s.withBenches x).mod = s.mod := rfl
@[simp] theorem State.withBenches_free (s : State) (x : Tab Bench) : (s.withBenches x).free = s.free := rfl
@[simp] theorem State.withBenches_out (s : State) (x : Tab Bench) : (s.withBenches x).out = s.out := rfl
@[simp] theorem State.withBenches_pending (s : State) (x : Tab Bench) : (s.withBenches x).pending = s.pending := rfl

@[simp] theorem State.withNet_regs (s : State) (x : Net) : (s.withNet x).regs = s.regs := rfl
@[simp] theorem State.withNet_latch (s : State) (x : Net) : (s.withNet x).latch = s.latch := rfl
@[simp] theorem State.withNet_hold (s : State) (x : Net) : (s.withNet x).hold = s.hold := rfl
@[simp] theorem State.withNet_bell (s : State) (x : Net) : (s.withNet x).bell = s.bell := rfl
@[simp] theorem State.withNet_tt (s : State) (x : Net) : (s.withNet x).tt = s.tt := rfl
@[simp] theorem State.withNet_links (s : State) (x : Net) : (s.withNet x).links = s.links := rfl
@[simp] theorem State.withNet_sw (s : State) (x : Net) : (s.withNet x).sw = s.sw := rfl
@[simp] theorem State.withNet_mort (s : State) (x : Net) : (s.withNet x).mort = s.mort := rfl
@[simp] theorem State.withNet_pool (s : State) (x : Net) : (s.withNet x).pool = s.pool := rfl
@[simp] theorem State.withNet_dir (s : State) (x : Net) : (s.withNet x).dir = s.dir := rfl
@[simp] theorem State.withNet_roll (s : State) (x : Net) : (s.withNet x).roll = s.roll := rfl
@[simp] theorem State.withNet_benches (s : State) (x : Net) : (s.withNet x).benches = s.benches := rfl
@[simp] theorem State.withNet_net (s : State) (x : Net) : (s.withNet x).net = x := rfl
@[simp] theorem State.withNet_hostA (s : State) (x : Net) : (s.withNet x).hostA = s.hostA := rfl
@[simp] theorem State.withNet_hostB (s : State) (x : Net) : (s.withNet x).hostB = s.hostB := rfl
@[simp] theorem State.withNet_fault (s : State) (x : Net) : (s.withNet x).fault = s.fault := rfl
@[simp] theorem State.withNet_boot (s : State) (x : Net) : (s.withNet x).boot = s.boot := rfl
@[simp] theorem State.withNet_test (s : State) (x : Net) : (s.withNet x).test = s.test := rfl
@[simp] theorem State.withNet_mod (s : State) (x : Net) : (s.withNet x).mod = s.mod := rfl
@[simp] theorem State.withNet_free (s : State) (x : Net) : (s.withNet x).free = s.free := rfl
@[simp] theorem State.withNet_out (s : State) (x : Net) : (s.withNet x).out = s.out := rfl
@[simp] theorem State.withNet_pending (s : State) (x : Net) : (s.withNet x).pending = s.pending := rfl

@[simp] theorem State.withFault_regs (s : State) (x : Faults) : (s.withFault x).regs = s.regs := rfl
@[simp] theorem State.withFault_latch (s : State) (x : Faults) : (s.withFault x).latch = s.latch := rfl
@[simp] theorem State.withFault_hold (s : State) (x : Faults) : (s.withFault x).hold = s.hold := rfl
@[simp] theorem State.withFault_bell (s : State) (x : Faults) : (s.withFault x).bell = s.bell := rfl
@[simp] theorem State.withFault_tt (s : State) (x : Faults) : (s.withFault x).tt = s.tt := rfl
@[simp] theorem State.withFault_links (s : State) (x : Faults) : (s.withFault x).links = s.links := rfl
@[simp] theorem State.withFault_sw (s : State) (x : Faults) : (s.withFault x).sw = s.sw := rfl
@[simp] theorem State.withFault_mort (s : State) (x : Faults) : (s.withFault x).mort = s.mort := rfl
@[simp] theorem State.withFault_pool (s : State) (x : Faults) : (s.withFault x).pool = s.pool := rfl
@[simp] theorem State.withFault_dir (s : State) (x : Faults) : (s.withFault x).dir = s.dir := rfl
@[simp] theorem State.withFault_roll (s : State) (x : Faults) : (s.withFault x).roll = s.roll := rfl
@[simp] theorem State.withFault_benches (s : State) (x : Faults) : (s.withFault x).benches = s.benches := rfl
@[simp] theorem State.withFault_net (s : State) (x : Faults) : (s.withFault x).net = s.net := rfl
@[simp] theorem State.withFault_hostA (s : State) (x : Faults) : (s.withFault x).hostA = s.hostA := rfl
@[simp] theorem State.withFault_hostB (s : State) (x : Faults) : (s.withFault x).hostB = s.hostB := rfl
@[simp] theorem State.withFault_fault (s : State) (x : Faults) : (s.withFault x).fault = x := rfl
@[simp] theorem State.withFault_boot (s : State) (x : Faults) : (s.withFault x).boot = s.boot := rfl
@[simp] theorem State.withFault_test (s : State) (x : Faults) : (s.withFault x).test = s.test := rfl
@[simp] theorem State.withFault_mod (s : State) (x : Faults) : (s.withFault x).mod = s.mod := rfl
@[simp] theorem State.withFault_free (s : State) (x : Faults) : (s.withFault x).free = s.free := rfl
@[simp] theorem State.withFault_out (s : State) (x : Faults) : (s.withFault x).out = s.out := rfl
@[simp] theorem State.withFault_pending (s : State) (x : Faults) : (s.withFault x).pending = s.pending := rfl

@[simp] theorem State.withBoot_regs (s : State) (x : Boot) : (s.withBoot x).regs = s.regs := rfl
@[simp] theorem State.withBoot_latch (s : State) (x : Boot) : (s.withBoot x).latch = s.latch := rfl
@[simp] theorem State.withBoot_hold (s : State) (x : Boot) : (s.withBoot x).hold = s.hold := rfl
@[simp] theorem State.withBoot_bell (s : State) (x : Boot) : (s.withBoot x).bell = s.bell := rfl
@[simp] theorem State.withBoot_tt (s : State) (x : Boot) : (s.withBoot x).tt = s.tt := rfl
@[simp] theorem State.withBoot_links (s : State) (x : Boot) : (s.withBoot x).links = s.links := rfl
@[simp] theorem State.withBoot_sw (s : State) (x : Boot) : (s.withBoot x).sw = s.sw := rfl
@[simp] theorem State.withBoot_mort (s : State) (x : Boot) : (s.withBoot x).mort = s.mort := rfl
@[simp] theorem State.withBoot_pool (s : State) (x : Boot) : (s.withBoot x).pool = s.pool := rfl
@[simp] theorem State.withBoot_dir (s : State) (x : Boot) : (s.withBoot x).dir = s.dir := rfl
@[simp] theorem State.withBoot_roll (s : State) (x : Boot) : (s.withBoot x).roll = s.roll := rfl
@[simp] theorem State.withBoot_benches (s : State) (x : Boot) : (s.withBoot x).benches = s.benches := rfl
@[simp] theorem State.withBoot_net (s : State) (x : Boot) : (s.withBoot x).net = s.net := rfl
@[simp] theorem State.withBoot_hostA (s : State) (x : Boot) : (s.withBoot x).hostA = s.hostA := rfl
@[simp] theorem State.withBoot_hostB (s : State) (x : Boot) : (s.withBoot x).hostB = s.hostB := rfl
@[simp] theorem State.withBoot_fault (s : State) (x : Boot) : (s.withBoot x).fault = s.fault := rfl
@[simp] theorem State.withBoot_boot (s : State) (x : Boot) : (s.withBoot x).boot = x := rfl
@[simp] theorem State.withBoot_test (s : State) (x : Boot) : (s.withBoot x).test = s.test := rfl
@[simp] theorem State.withBoot_mod (s : State) (x : Boot) : (s.withBoot x).mod = s.mod := rfl
@[simp] theorem State.withBoot_free (s : State) (x : Boot) : (s.withBoot x).free = s.free := rfl
@[simp] theorem State.withBoot_out (s : State) (x : Boot) : (s.withBoot x).out = s.out := rfl
@[simp] theorem State.withBoot_pending (s : State) (x : Boot) : (s.withBoot x).pending = s.pending := rfl

@[simp] theorem State.withTest_regs (s : State) (x : Test) : (s.withTest x).regs = s.regs := rfl
@[simp] theorem State.withTest_latch (s : State) (x : Test) : (s.withTest x).latch = s.latch := rfl
@[simp] theorem State.withTest_hold (s : State) (x : Test) : (s.withTest x).hold = s.hold := rfl
@[simp] theorem State.withTest_bell (s : State) (x : Test) : (s.withTest x).bell = s.bell := rfl
@[simp] theorem State.withTest_tt (s : State) (x : Test) : (s.withTest x).tt = s.tt := rfl
@[simp] theorem State.withTest_links (s : State) (x : Test) : (s.withTest x).links = s.links := rfl
@[simp] theorem State.withTest_sw (s : State) (x : Test) : (s.withTest x).sw = s.sw := rfl
@[simp] theorem State.withTest_mort (s : State) (x : Test) : (s.withTest x).mort = s.mort := rfl
@[simp] theorem State.withTest_pool (s : State) (x : Test) : (s.withTest x).pool = s.pool := rfl
@[simp] theorem State.withTest_dir (s : State) (x : Test) : (s.withTest x).dir = s.dir := rfl
@[simp] theorem State.withTest_roll (s : State) (x : Test) : (s.withTest x).roll = s.roll := rfl
@[simp] theorem State.withTest_benches (s : State) (x : Test) : (s.withTest x).benches = s.benches := rfl
@[simp] theorem State.withTest_net (s : State) (x : Test) : (s.withTest x).net = s.net := rfl
@[simp] theorem State.withTest_hostA (s : State) (x : Test) : (s.withTest x).hostA = s.hostA := rfl
@[simp] theorem State.withTest_hostB (s : State) (x : Test) : (s.withTest x).hostB = s.hostB := rfl
@[simp] theorem State.withTest_fault (s : State) (x : Test) : (s.withTest x).fault = s.fault := rfl
@[simp] theorem State.withTest_boot (s : State) (x : Test) : (s.withTest x).boot = s.boot := rfl
@[simp] theorem State.withTest_test (s : State) (x : Test) : (s.withTest x).test = x := rfl
@[simp] theorem State.withTest_mod (s : State) (x : Test) : (s.withTest x).mod = s.mod := rfl
@[simp] theorem State.withTest_free (s : State) (x : Test) : (s.withTest x).free = s.free := rfl
@[simp] theorem State.withTest_out (s : State) (x : Test) : (s.withTest x).out = s.out := rfl
@[simp] theorem State.withTest_pending (s : State) (x : Test) : (s.withTest x).pending = s.pending := rfl

@[simp] theorem State.withMod_regs (s : State) (x : Module) : (s.withMod x).regs = s.regs := rfl
@[simp] theorem State.withMod_latch (s : State) (x : Module) : (s.withMod x).latch = s.latch := rfl
@[simp] theorem State.withMod_hold (s : State) (x : Module) : (s.withMod x).hold = s.hold := rfl
@[simp] theorem State.withMod_bell (s : State) (x : Module) : (s.withMod x).bell = s.bell := rfl
@[simp] theorem State.withMod_tt (s : State) (x : Module) : (s.withMod x).tt = s.tt := rfl
@[simp] theorem State.withMod_links (s : State) (x : Module) : (s.withMod x).links = s.links := rfl
@[simp] theorem State.withMod_sw (s : State) (x : Module) : (s.withMod x).sw = s.sw := rfl
@[simp] theorem State.withMod_mort (s : State) (x : Module) : (s.withMod x).mort = s.mort := rfl
@[simp] theorem State.withMod_pool (s : State) (x : Module) : (s.withMod x).pool = s.pool := rfl
@[simp] theorem State.withMod_dir (s : State) (x : Module) : (s.withMod x).dir = s.dir := rfl
@[simp] theorem State.withMod_roll (s : State) (x : Module) : (s.withMod x).roll = s.roll := rfl
@[simp] theorem State.withMod_benches (s : State) (x : Module) : (s.withMod x).benches = s.benches := rfl
@[simp] theorem State.withMod_net (s : State) (x : Module) : (s.withMod x).net = s.net := rfl
@[simp] theorem State.withMod_hostA (s : State) (x : Module) : (s.withMod x).hostA = s.hostA := rfl
@[simp] theorem State.withMod_hostB (s : State) (x : Module) : (s.withMod x).hostB = s.hostB := rfl
@[simp] theorem State.withMod_fault (s : State) (x : Module) : (s.withMod x).fault = s.fault := rfl
@[simp] theorem State.withMod_boot (s : State) (x : Module) : (s.withMod x).boot = s.boot := rfl
@[simp] theorem State.withMod_test (s : State) (x : Module) : (s.withMod x).test = s.test := rfl
@[simp] theorem State.withMod_mod (s : State) (x : Module) : (s.withMod x).mod = x := rfl
@[simp] theorem State.withMod_free (s : State) (x : Module) : (s.withMod x).free = s.free := rfl
@[simp] theorem State.withMod_out (s : State) (x : Module) : (s.withMod x).out = s.out := rfl
@[simp] theorem State.withMod_pending (s : State) (x : Module) : (s.withMod x).pending = s.pending := rfl

@[simp] theorem State.withFree_regs (s : State) (x : Nat) : (s.withFree x).regs = s.regs := rfl
@[simp] theorem State.withFree_latch (s : State) (x : Nat) : (s.withFree x).latch = s.latch := rfl
@[simp] theorem State.withFree_hold (s : State) (x : Nat) : (s.withFree x).hold = s.hold := rfl
@[simp] theorem State.withFree_bell (s : State) (x : Nat) : (s.withFree x).bell = s.bell := rfl
@[simp] theorem State.withFree_tt (s : State) (x : Nat) : (s.withFree x).tt = s.tt := rfl
@[simp] theorem State.withFree_links (s : State) (x : Nat) : (s.withFree x).links = s.links := rfl
@[simp] theorem State.withFree_sw (s : State) (x : Nat) : (s.withFree x).sw = s.sw := rfl
@[simp] theorem State.withFree_mort (s : State) (x : Nat) : (s.withFree x).mort = s.mort := rfl
@[simp] theorem State.withFree_pool (s : State) (x : Nat) : (s.withFree x).pool = s.pool := rfl
@[simp] theorem State.withFree_dir (s : State) (x : Nat) : (s.withFree x).dir = s.dir := rfl
@[simp] theorem State.withFree_roll (s : State) (x : Nat) : (s.withFree x).roll = s.roll := rfl
@[simp] theorem State.withFree_benches (s : State) (x : Nat) : (s.withFree x).benches = s.benches := rfl
@[simp] theorem State.withFree_net (s : State) (x : Nat) : (s.withFree x).net = s.net := rfl
@[simp] theorem State.withFree_hostA (s : State) (x : Nat) : (s.withFree x).hostA = s.hostA := rfl
@[simp] theorem State.withFree_hostB (s : State) (x : Nat) : (s.withFree x).hostB = s.hostB := rfl
@[simp] theorem State.withFree_fault (s : State) (x : Nat) : (s.withFree x).fault = s.fault := rfl
@[simp] theorem State.withFree_boot (s : State) (x : Nat) : (s.withFree x).boot = s.boot := rfl
@[simp] theorem State.withFree_test (s : State) (x : Nat) : (s.withFree x).test = s.test := rfl
@[simp] theorem State.withFree_mod (s : State) (x : Nat) : (s.withFree x).mod = s.mod := rfl
@[simp] theorem State.withFree_free (s : State) (x : Nat) : (s.withFree x).free = x := rfl
@[simp] theorem State.withFree_out (s : State) (x : Nat) : (s.withFree x).out = s.out := rfl
@[simp] theorem State.withFree_pending (s : State) (x : Nat) : (s.withFree x).pending = s.pending := rfl

@[simp] theorem State.withOut_regs (s : State) (x : List Out) : (s.withOut x).regs = s.regs := rfl
@[simp] theorem State.withOut_latch (s : State) (x : List Out) : (s.withOut x).latch = s.latch := rfl
@[simp] theorem State.withOut_hold (s : State) (x : List Out) : (s.withOut x).hold = s.hold := rfl
@[simp] theorem State.withOut_bell (s : State) (x : List Out) : (s.withOut x).bell = s.bell := rfl
@[simp] theorem State.withOut_tt (s : State) (x : List Out) : (s.withOut x).tt = s.tt := rfl
@[simp] theorem State.withOut_links (s : State) (x : List Out) : (s.withOut x).links = s.links := rfl
@[simp] theorem State.withOut_sw (s : State) (x : List Out) : (s.withOut x).sw = s.sw := rfl
@[simp] theorem State.withOut_mort (s : State) (x : List Out) : (s.withOut x).mort = s.mort := rfl
@[simp] theorem State.withOut_pool (s : State) (x : List Out) : (s.withOut x).pool = s.pool := rfl
@[simp] theorem State.withOut_dir (s : State) (x : List Out) : (s.withOut x).dir = s.dir := rfl
@[simp] theorem State.withOut_roll (s : State) (x : List Out) : (s.withOut x).roll = s.roll := rfl
@[simp] theorem State.withOut_benches (s : State) (x : List Out) : (s.withOut x).benches = s.benches := rfl
@[simp] theorem State.withOut_net (s : State) (x : List Out) : (s.withOut x).net = s.net := rfl
@[simp] theorem State.withOut_hostA (s : State) (x : List Out) : (s.withOut x).hostA = s.hostA := rfl
@[simp] theorem State.withOut_hostB (s : State) (x : List Out) : (s.withOut x).hostB = s.hostB := rfl
@[simp] theorem State.withOut_fault (s : State) (x : List Out) : (s.withOut x).fault = s.fault := rfl
@[simp] theorem State.withOut_boot (s : State) (x : List Out) : (s.withOut x).boot = s.boot := rfl
@[simp] theorem State.withOut_test (s : State) (x : List Out) : (s.withOut x).test = s.test := rfl
@[simp] theorem State.withOut_mod (s : State) (x : List Out) : (s.withOut x).mod = s.mod := rfl
@[simp] theorem State.withOut_free (s : State) (x : List Out) : (s.withOut x).free = s.free := rfl
@[simp] theorem State.withOut_out (s : State) (x : List Out) : (s.withOut x).out = x := rfl
@[simp] theorem State.withOut_pending (s : State) (x : List Out) : (s.withOut x).pending = s.pending := rfl

@[simp] theorem State.withPending_regs (s : State) (x : List Instr) : (s.withPending x).regs = s.regs := rfl
@[simp] theorem State.withPending_latch (s : State) (x : List Instr) : (s.withPending x).latch = s.latch := rfl
@[simp] theorem State.withPending_hold (s : State) (x : List Instr) : (s.withPending x).hold = s.hold := rfl
@[simp] theorem State.withPending_bell (s : State) (x : List Instr) : (s.withPending x).bell = s.bell := rfl
@[simp] theorem State.withPending_tt (s : State) (x : List Instr) : (s.withPending x).tt = s.tt := rfl
@[simp] theorem State.withPending_links (s : State) (x : List Instr) : (s.withPending x).links = s.links := rfl
@[simp] theorem State.withPending_sw (s : State) (x : List Instr) : (s.withPending x).sw = s.sw := rfl
@[simp] theorem State.withPending_mort (s : State) (x : List Instr) : (s.withPending x).mort = s.mort := rfl
@[simp] theorem State.withPending_pool (s : State) (x : List Instr) : (s.withPending x).pool = s.pool := rfl
@[simp] theorem State.withPending_dir (s : State) (x : List Instr) : (s.withPending x).dir = s.dir := rfl
@[simp] theorem State.withPending_roll (s : State) (x : List Instr) : (s.withPending x).roll = s.roll := rfl
@[simp] theorem State.withPending_benches (s : State) (x : List Instr) : (s.withPending x).benches = s.benches := rfl
@[simp] theorem State.withPending_net (s : State) (x : List Instr) : (s.withPending x).net = s.net := rfl
@[simp] theorem State.withPending_hostA (s : State) (x : List Instr) : (s.withPending x).hostA = s.hostA := rfl
@[simp] theorem State.withPending_hostB (s : State) (x : List Instr) : (s.withPending x).hostB = s.hostB := rfl
@[simp] theorem State.withPending_fault (s : State) (x : List Instr) : (s.withPending x).fault = s.fault := rfl
@[simp] theorem State.withPending_boot (s : State) (x : List Instr) : (s.withPending x).boot = s.boot := rfl
@[simp] theorem State.withPending_test (s : State) (x : List Instr) : (s.withPending x).test = s.test := rfl
@[simp] theorem State.withPending_mod (s : State) (x : List Instr) : (s.withPending x).mod = s.mod := rfl
@[simp] theorem State.withPending_free (s : State) (x : List Instr) : (s.withPending x).free = s.free := rfl
@[simp] theorem State.withPending_out (s : State) (x : List Instr) : (s.withPending x).out = s.out := rfl
@[simp] theorem State.withPending_pending (s : State) (x : List Instr) : (s.withPending x).pending = x := rfl

@[simp] theorem State.withHost_regs (s : State) (h : HostPort) (x : HostSide) : (s.withHost h x).regs = s.regs := by cases h <;> rfl
@[simp] theorem State.withHost_latch (s : State) (h : HostPort) (x : HostSide) : (s.withHost h x).latch = s.latch := by cases h <;> rfl
@[simp] theorem State.withHost_hold (s : State) (h : HostPort) (x : HostSide) : (s.withHost h x).hold = s.hold := by cases h <;> rfl
@[simp] theorem State.withHost_bell (s : State) (h : HostPort) (x : HostSide) : (s.withHost h x).bell = s.bell := by cases h <;> rfl
@[simp] theorem State.withHost_tt (s : State) (h : HostPort) (x : HostSide) : (s.withHost h x).tt = s.tt := by cases h <;> rfl
@[simp] theorem State.withHost_links (s : State) (h : HostPort) (x : HostSide) : (s.withHost h x).links = s.links := by cases h <;> rfl
@[simp] theorem State.withHost_sw (s : State) (h : HostPort) (x : HostSide) : (s.withHost h x).sw = s.sw := by cases h <;> rfl
@[simp] theorem State.withHost_mort (s : State) (h : HostPort) (x : HostSide) : (s.withHost h x).mort = s.mort := by cases h <;> rfl
@[simp] theorem State.withHost_pool (s : State) (h : HostPort) (x : HostSide) : (s.withHost h x).pool = s.pool := by cases h <;> rfl
@[simp] theorem State.withHost_dir (s : State) (h : HostPort) (x : HostSide) : (s.withHost h x).dir = s.dir := by cases h <;> rfl
@[simp] theorem State.withHost_roll (s : State) (h : HostPort) (x : HostSide) : (s.withHost h x).roll = s.roll := by cases h <;> rfl
@[simp] theorem State.withHost_benches (s : State) (h : HostPort) (x : HostSide) : (s.withHost h x).benches = s.benches := by cases h <;> rfl
@[simp] theorem State.withHost_net (s : State) (h : HostPort) (x : HostSide) : (s.withHost h x).net = s.net := by cases h <;> rfl
@[simp] theorem State.withHost_fault (s : State) (h : HostPort) (x : HostSide) : (s.withHost h x).fault = s.fault := by cases h <;> rfl
@[simp] theorem State.withHost_boot (s : State) (h : HostPort) (x : HostSide) : (s.withHost h x).boot = s.boot := by cases h <;> rfl
@[simp] theorem State.withHost_test (s : State) (h : HostPort) (x : HostSide) : (s.withHost h x).test = s.test := by cases h <;> rfl
@[simp] theorem State.withHost_mod (s : State) (h : HostPort) (x : HostSide) : (s.withHost h x).mod = s.mod := by cases h <;> rfl
@[simp] theorem State.withHost_free (s : State) (h : HostPort) (x : HostSide) : (s.withHost h x).free = s.free := by cases h <;> rfl
@[simp] theorem State.withHost_out (s : State) (h : HostPort) (x : HostSide) : (s.withHost h x).out = s.out := by cases h <;> rfl
@[simp] theorem State.withHost_pending (s : State) (h : HostPort) (x : HostSide) : (s.withHost h x).pending = s.pending := by cases h <;> rfl

@[simp] theorem State.withHost_host (s : State) (h : HostPort) (x : HostSide) : (s.withHost h x).host h = x := by cases h <;> rfl
@[simp] theorem State.withHost_host_other (s : State) (h : HostPort) (x : HostSide) :
    (s.withHost h x).host (other h) = s.host (other h) := by cases h <;> rfl

end Sys2Proof.Machine
end

