-- ==== Sys2Proof/Laws/Tab.lean ====
section
/-!
SUPPORT. Laws of sparse tables: a read after a write gives the value written and leaves every other key alone, and every
operation keeps the canonical form.
-/
namespace Sys2Proof.Machine

variable {α : Type}

theorem Tab.find_insert_same (t : Tab α) (i : Nat) (v : α) : (Tab.insert t i v).find i = some v := by
  induction t with
  | nil => simp [Tab.insert, Tab.find]
  | cons p t ih =>
    obtain ⟨k, w⟩ := p
    simp only [Tab.insert]
    split
    · simp [Tab.find]
    · split
      · simp [Tab.find]
      · simp [Tab.find, *]

theorem Tab.find_insert_other (t : Tab α) {i j : Nat} (v : α) (h : j ≠ i) : (Tab.insert t i v).find j = t.find j := by
  induction t with
  | nil => simp [Tab.insert, Tab.find, h]
  | cons p t ih =>
    obtain ⟨k, w⟩ := p
    simp only [Tab.insert]
    split
    · simp [Tab.find, h]
    · split
      · next hk => subst hk; simp [Tab.find, h]
      · simp [Tab.find, ih]

theorem Tab.find_filter_keep (t : Tab α) (f : Nat → Bool) (j : Nat) (h : f j = true) :
    Tab.find (t.filter (fun p => f p.1)) j = t.find j := by
  induction t with
  | nil => rfl
  | cons p t ih =>
    obtain ⟨k, w⟩ := p
    by_cases hk : f k = true
    · simp [hk, Tab.find, ih]
    · simp only [List.filter_cons, hk, Tab.find]
      have : j ≠ k := fun e => hk (e ▸ h)
      simp [this, ih]

theorem Tab.find_filter_drop (t : Tab α) (f : Nat → Bool) (j : Nat) (h : f j = false) :
    Tab.find (t.filter (fun p => f p.1)) j = none := by
  induction t with
  | nil => rfl
  | cons p t ih =>
    obtain ⟨k, w⟩ := p
    by_cases hk : f k = true
    · have : j ≠ k := fun e => by simp [e, hk] at h
      simp [hk, Tab.find, this, ih]
    · simpa [List.filter_cons, hk] using ih

theorem Tab.find_erase_same (t : Tab α) (i : Nat) : (t.erase i).find i = none :=
  Tab.find_filter_drop t (fun k => k != i) i (by simp)

theorem Tab.find_erase_other (t : Tab α) {i j : Nat} (h : j ≠ i) : (t.erase i).find j = t.find j :=
  Tab.find_filter_keep t (fun k => k != i) j (by simpa using h)

/-- A read after a write to the same key gives the value written. -/
@[simp] theorem Tab.get_put_same [DecidableEq α] (d : α) (t : Tab α) (i : Nat) (v : α) : (t.put d i v).get d i = v := by
  unfold Tab.put Tab.get
  split
  · next h => simp [Tab.find_erase_same, h]
  · simp [Tab.find_insert_same]

/-- A write leaves every other key alone. -/
theorem Tab.get_put_other [DecidableEq α] (d e : α) (t : Tab α) {i j : Nat} (v : α) (h : j ≠ i) :
    (t.put d i v).get e j = t.get e j := by
  unfold Tab.put Tab.get
  split
  · simp [Tab.find_erase_other t h]
  · simp [Tab.find_insert_other t v h]

/-- A cleared range reads as the default, and every other key as before. -/
theorem Tab.get_clearRange (d : α) (t : Tab α) (lo hi j : Nat) :
    (t.clearRange lo hi).get d j = if lo ≤ j ∧ j < hi then d else t.get d j := by
  unfold Tab.clearRange Tab.get
  split
  · next h => rw [Tab.find_filter_drop t (fun k => decide (k < lo) || decide (hi ≤ k)) j (by simp; omega)]; rfl
  · next h => rw [Tab.find_filter_keep t (fun k => decide (k < lo) || decide (hi ≤ k)) j (by simp; omega)]

/-! The canonical form. -/

theorem Tab.rising_iff (t : Tab α) : t.rising = true ↔ t.Pairwise (fun p q => p.1 < q.1) := by
  induction t with
  | nil => simp [Tab.rising]
  | cons p t ih =>
    cases t with
    | nil => simp [Tab.rising]
    | cons q t =>
      obtain ⟨k, v⟩ := p
      obtain ⟨l, w⟩ := q
      simp only [Tab.rising, Bool.and_eq_true, decide_eq_true_eq, ih]
      constructor
      · rintro ⟨h, hp⟩
        refine List.pairwise_cons.2 ⟨?_, hp⟩
        intro r hr
        rcases List.mem_cons.1 hr with rfl | hr
        · exact h
        · exact lt_trans h ((List.pairwise_cons.1 hp).1 r hr)
      · intro hp
        exact ⟨(List.pairwise_cons.1 hp).1 (l, w) (by simp), (List.pairwise_cons.1 hp).2⟩

theorem Tab.wf_iff [DecidableEq α] (d : Nat → α) (t : Tab α) :
    t.wf d = true ↔ t.Pairwise (fun p q => p.1 < q.1) ∧ ∀ p ∈ t, p.2 ≠ d p.1 := by
  simp only [Tab.wf, Bool.and_eq_true, Tab.rising_iff, List.all_eq_true, decide_eq_true_eq]

@[simp] theorem Tab.wf_nil [DecidableEq α] (d : Nat → α) : Tab.wf d [] = true := rfl

theorem Tab.wf_filter [DecidableEq α] {d : Nat → α} {t : Tab α} (f : Nat × α → Bool) (h : t.wf d = true) :
    Tab.wf d (t.filter f) = true := by
  rw [Tab.wf_iff] at *
  exact ⟨h.1.filter _, fun p hp => h.2 p (List.mem_of_mem_filter hp)⟩

theorem Tab.mem_insert {t : Tab α} {i : Nat} {v : α} {p : Nat × α} (h : p ∈ Tab.insert t i v) : p = (i, v) ∨ p ∈ t := by
  induction t with
  | nil => simpa [Tab.insert] using h
  | cons q t ih =>
    obtain ⟨k, w⟩ := q
    simp only [Tab.insert] at h
    split at h
    · simpa using h
    · split at h
      · simp only [List.mem_cons] at h ⊢; tauto
      · simp only [List.mem_cons] at h ⊢
        rcases h with h | h
        · exact .inr (.inl h)
        · rcases ih h with h | h
          · exact .inl h
          · exact .inr (.inr h)

theorem Tab.wf_insert [DecidableEq α] {d : Nat → α} {t : Tab α} {i : Nat} {v : α} (hv : v ≠ d i) (h : t.wf d = true) :
    Tab.wf d (Tab.insert t i v) = true := by
  rw [Tab.wf_iff] at *
  refine ⟨?_, fun p hp => ?_⟩
  · replace h := h.1
    induction t with
    | nil => simp [Tab.insert]
    | cons q t ih =>
      obtain ⟨k, w⟩ := q
      have hq := List.pairwise_cons.1 h
      simp only [Tab.insert]
      split
      · next hk =>
        refine List.pairwise_cons.2 ⟨fun r hr => ?_, h⟩
        rcases List.mem_cons.1 hr with rfl | hr
        · exact hk
        · exact lt_trans hk (hq.1 r hr)
      · split
        · next hk => subst hk; exact List.pairwise_cons.2 ⟨hq.1, hq.2⟩
        · next h1 h2 =>
          refine List.pairwise_cons.2 ⟨fun r hr => ?_, ih hq.2⟩
          rcases Tab.mem_insert hr with rfl | hr
          · show k < i; omega
          · exact hq.1 r hr
  · rcases Tab.mem_insert hp with rfl | hp
    · exact hv
    · exact h.2 p hp

/-- A write keeps the canonical form. -/
theorem Tab.wf_put [DecidableEq α] {d : Nat → α} {t : Tab α} (i : Nat) (v : α) (h : t.wf d = true) :
    (t.put (d i) i v).wf d = true := by
  unfold Tab.put
  split
  · exact Tab.wf_filter _ h
  · next hv => exact Tab.wf_insert hv h

theorem Tab.wf_clearRange [DecidableEq α] {d : Nat → α} {t : Tab α} (lo hi : Nat) (h : t.wf d = true) :
    (t.clearRange lo hi).wf d = true := Tab.wf_filter _ h

/-- A run of writes keeps the canonical form. -/
theorem Tab.wf_putRun [DecidableEq α] {d : α} {t : Tab α} (i : Nat) (vs : List α) (h : t.wf (fun _ => d) = true) :
    (t.putRun d i vs).wf (fun _ => d) = true := by
  rw [Tab.wf_iff] at *
  unfold Tab.putRun
  have hz : ∀ p ∈ ((List.range' i vs.length).zip vs).filter (fun p => decide (p.2 ≠ d)),
      i ≤ p.1 ∧ p.1 < i + vs.length ∧ p.2 ≠ d := by
    intro p hp
    simp only [List.mem_filter, decide_eq_true_eq] at hp
    have := (List.of_mem_zip hp.1).1
    rw [List.mem_range'_1] at this
    exact ⟨this.1, this.2, hp.2⟩
  have hzp : (((List.range' i vs.length).zip vs).filter (fun p => decide (p.2 ≠ d))).Pairwise (fun p q => p.1 < q.1) := by
    refine List.Pairwise.filter _ ?_
    have hm : (((List.range' i vs.length).zip vs).map Prod.fst).Pairwise (· < ·) := by
      rw [List.map_fst_zip (by simp)]
      exact List.pairwise_lt_range'
    exact List.pairwise_map.1 hm
  refine ⟨?_, fun p hp => ?_⟩
  · rw [List.pairwise_append, List.pairwise_append]
    refine ⟨⟨h.1.filter _, hzp, ?_⟩, h.1.filter _, ?_⟩
    · intro p hp q hq
      have h1 := (hz q hq).1
      simp only [List.mem_filter, decide_eq_true_eq] at hp
      omega
    · intro p hp q hq
      simp only [List.mem_filter, decide_eq_true_eq] at hq
      rcases List.mem_append.1 hp with hp | hp
      · simp only [List.mem_filter, decide_eq_true_eq] at hp
        omega
      · have := (hz p hp).2.1
        omega
  · rcases List.mem_append.1 hp with hp | hp
    · rcases List.mem_append.1 hp with hp | hp
      · exact h.2 p (List.mem_of_mem_filter hp)
      · exact (hz p hp).2.2
    · exact h.2 p (List.mem_of_mem_filter hp)

end Sys2Proof.Machine
end

