-- ==== Sys2Proof/Laws/Keeps.lean ====
section
/-!
SUPPORT. What the named updates, the matches and the folds of the meanings keep (`Keeps`); the files beside this one say
it of every operation and meaning, so that a statement about every step needs none of them unfolded.
-/
namespace Sys2Proof.Machine

variable {a s : State}

theorem Keeps.refl (s : State) : Keeps s s := ⟨id, List.suffix_refl _, le_refl _, rfl⟩

theorem Keeps.trans {a b c : State} (h : Keeps a b) (g : Keeps b c) : Keeps a c :=
  ⟨g.canonical ∘ h.canonical, h.out.trans g.out, h.free.trans g.free, g.pending.trans h.pending⟩

/-- Of an optional state. -/
def KeepsOpt (a : State) (o : Option State) : Prop := ∀ t, o = some t → Keeps a t
/-- Of an optional pair that ends in a state. -/
def KeepsPair {β : Type} (a : State) (o : Option (β × State)) : Prop := ∀ x t, o = some (x, t) → Keeps a t
/-- Of an outcome. -/
def KeepsNext (a : State) (o : Host.Outcome State Fault Refusal) : Prop := ∀ t, o = .next t → Keeps a t

theorem KeepsOpt.some {t : State} (h : Keeps a t) : KeepsOpt a (some t) := fun _ e => Option.some.inj e ▸ h
theorem KeepsOpt.none : KeepsOpt a none := fun _ e => nomatch e
theorem KeepsPair.some {β : Type} {x : β} {t : State} (h : Keeps a t) : KeepsPair a (Option.some (x, t)) :=
  fun _ _ e => (Prod.mk.inj (Option.some.inj e)).2 ▸ h
theorem KeepsPair.none {β : Type} : KeepsPair (β := β) a Option.none := fun _ _ e => nomatch e
theorem KeepsNext.next {t : State} (h : Keeps a t) : KeepsNext a (.next t) := fun _ e => Host.Outcome.next.inj e ▸ h

theorem Keeps.ite {c : Prop} [Decidable c] {t u : State} (h : Keeps a t) (g : Keeps a u) : Keeps a (if c then t else u) := by
  split <;> assumption

theorem Keeps.iteSnd {β : Type} {c : Prop} [Decidable c] {t u : β × State} (h : Keeps a t.2) (g : Keeps a u.2) :
    Keeps a (if c then t else u).2 := by
  split <;> assumption

theorem Keeps.iteFst {β : Type} {c : Prop} [Decidable c] {t u : State × β} (h : Keeps a t.1) (g : Keeps a u.1) :
    Keeps a (if c then t else u).1 := by
  split <;> assumption

theorem KeepsOpt.elim {o : Option State} {t : State} (e : o = Option.some t) (h : KeepsOpt a o) : Keeps a t := h t e

theorem KeepsOpt.elimFst {p : Option State × State} {t u : State} (e : p = (Option.some t, u)) (h : KeepsOpt a p.1) :
    Keeps a t := h t (by rw [e])

theorem KeepsOpt.map {β : Type} {o : Option β} {f : β → State} (h : ∀ b, Keeps a (f b)) : KeepsOpt a (o.map f) := by
  intro t e
  obtain ⟨b, -, rfl⟩ := Option.map_eq_some_iff.1 e
  exact h b

theorem KeepsOpt.orElse {o : Option State} {f : Unit → Option State} (h : KeepsOpt a o) (g : KeepsOpt a (f ())) :
    KeepsOpt a (o.orElse f) := by
  cases o with
  | none => exact g
  | some t => exact h

theorem KeepsOpt.getD {o : Option State} {t : State} (h : KeepsOpt a o) (g : Keeps a t) : Keeps a (o.getD t) := by
  cases o with
  | none => exact g
  | some u => exact h u rfl

theorem KeepsPair.elim {β : Type} {o : Option (β × State)} {x : β} {t : State} (e : o = Option.some (x, t))
    (h : KeepsPair a o) : Keeps a t := h x t e

theorem KeepsNext.ite {c : Prop} [Decidable c] {t u : Host.Outcome State Fault Refusal} (h : KeepsNext a t)
    (g : KeepsNext a u) : KeepsNext a (if c then t else u) := by
  split <;> assumption

theorem KeepsOpt.ite {c : Prop} [Decidable c] {t u : Option State} (h : KeepsOpt a t) (g : KeepsOpt a u) :
    KeepsOpt a (if c then t else u) := by
  split <;> assumption

theorem KeepsPair.ite {β : Type} {c : Prop} [Decidable c] {t u : Option (β × State)} (h : KeepsPair a t)
    (g : KeepsPair a u) : KeepsPair a (if c then t else u) := by
  split <;> assumption

theorem Keeps.foldl {β : Type} {f : State → β → State} {l : List β} (h : Keeps a s)
    (hf : ∀ s b, Keeps a s → Keeps a (f s b)) : Keeps a (l.foldl f s) := by
  induction l generalizing s with
  | nil => exact h
  | cons b l ih => exact ih (hf s b h)

theorem Keeps.foldlFst {β γ : Type} {f : State × γ → β → State × γ} {l : List β} {p : State × γ} (h : Keeps a p.1)
    (hf : ∀ p b, Keeps a p.1 → Keeps a (f p b).1) : Keeps a (l.foldl f p).1 := by
  induction l generalizing p with
  | nil => exact h
  | cons b l ih => exact ih (hf p b h)

theorem Keeps.foldlSnd {β γ : Type} {f : γ × State → β → γ × State} {l : List β} {p : γ × State} (h : Keeps a p.2)
    (hf : ∀ p b, Keeps a p.2 → Keeps a (f p b).2) : Keeps a (l.foldl f p).2 := by
  induction l generalizing p with
  | nil => exact h
  | cons b l ih => exact ih (hf p b h)

theorem Keeps.snd {β : Type} {p : β × State} {x : β} {t : State} (e : p = (x, t)) (h : Keeps a p.2) : Keeps a t := by
  subst e; exact h

theorem Keeps.fst {β : Type} {p : State × β} {x : β} {t : State} (e : p = (t, x)) (h : Keeps a p.1) : Keeps a t := by
  subst e; exact h

/-- A step through a value that is kept. -/
theorem Keeps.bind {v : State} {f : State → State} (hv : Keeps a v) (hf : ∀ s, Keeps a s → Keeps a (f s)) :
    Keeps a (f v) := hf v hv

/-! The named updates. -/

theorem State.withBell_keeps {x} (h : Keeps a s) : Keeps a (s.withBell x) :=
  ⟨fun c => let k := h.canonical c; ⟨k.regs, k.latch, k.hold, k.mem⟩, h.out, h.free, h.pending⟩
theorem State.withTt_keeps {x} (h : Keeps a s) : Keeps a (s.withTt x) :=
  ⟨fun c => let k := h.canonical c; ⟨k.regs, k.latch, k.hold, k.mem⟩, h.out, h.free, h.pending⟩
theorem State.withLinks_keeps {x} (h : Keeps a s) : Keeps a (s.withLinks x) :=
  ⟨fun c => let k := h.canonical c; ⟨k.regs, k.latch, k.hold, k.mem⟩, h.out, h.free, h.pending⟩
theorem State.withSw_keeps {x} (h : Keeps a s) : Keeps a (s.withSw x) :=
  ⟨fun c => let k := h.canonical c; ⟨k.regs, k.latch, k.hold, k.mem⟩, h.out, h.free, h.pending⟩
theorem State.withMort_keeps {x} (h : Keeps a s) : Keeps a (s.withMort x) :=
  ⟨fun c => let k := h.canonical c; ⟨k.regs, k.latch, k.hold, k.mem⟩, h.out, h.free, h.pending⟩
theorem State.withDir_keeps {x} (h : Keeps a s) : Keeps a (s.withDir x) :=
  ⟨fun c => let k := h.canonical c; ⟨k.regs, k.latch, k.hold, k.mem⟩, h.out, h.free, h.pending⟩
theorem State.withRoll_keeps {x} (h : Keeps a s) : Keeps a (s.withRoll x) :=
  ⟨fun c => let k := h.canonical c; ⟨k.regs, k.latch, k.hold, k.mem⟩, h.out, h.free, h.pending⟩
theorem State.withBenches_keeps {x} (h : Keeps a s) : Keeps a (s.withBenches x) :=
  ⟨fun c => let k := h.canonical c; ⟨k.regs, k.latch, k.hold, k.mem⟩, h.out, h.free, h.pending⟩
theorem State.withNet_keeps {x} (h : Keeps a s) : Keeps a (s.withNet x) :=
  ⟨fun c => let k := h.canonical c; ⟨k.regs, k.latch, k.hold, k.mem⟩, h.out, h.free, h.pending⟩
theorem State.withFault_keeps {x} (h : Keeps a s) : Keeps a (s.withFault x) :=
  ⟨fun c => let k := h.canonical c; ⟨k.regs, k.latch, k.hold, k.mem⟩, h.out, h.free, h.pending⟩
theorem State.withBoot_keeps {x} (h : Keeps a s) : Keeps a (s.withBoot x) :=
  ⟨fun c => let k := h.canonical c; ⟨k.regs, k.latch, k.hold, k.mem⟩, h.out, h.free, h.pending⟩
theorem State.withTest_keeps {x} (h : Keeps a s) : Keeps a (s.withTest x) :=
  ⟨fun c => let k := h.canonical c; ⟨k.regs, k.latch, k.hold, k.mem⟩, h.out, h.free, h.pending⟩
theorem State.withMod_keeps {x} (h : Keeps a s) : Keeps a (s.withMod x) :=
  ⟨fun c => let k := h.canonical c; ⟨k.regs, k.latch, k.hold, k.mem⟩, h.out, h.free, h.pending⟩
theorem State.withHost_keeps {p x} (h : Keeps a s) : Keeps a (s.withHost p x) := by
  cases p <;> exact ⟨fun c => let k := h.canonical c; ⟨k.regs, k.latch, k.hold, k.mem⟩, h.out, h.free, h.pending⟩
theorem State.withPool_keeps {x : Pool} (h : Keeps a s) (hm : Memory.wf s.pool.mem = true → Memory.wf x.mem = true) :
    Keeps a (s.withPool x) :=
  ⟨fun c => let k := h.canonical c; ⟨k.regs, k.latch, k.hold, hm k.mem⟩, h.out, h.free, h.pending⟩
theorem State.emit_keeps {o} (h : Keeps a s) : Keeps a (s.emit o) :=
  ⟨fun c => let k := h.canonical c; ⟨k.regs, k.latch, k.hold, k.mem⟩, h.out.trans (List.suffix_cons _ _), h.free, h.pending⟩
theorem State.wr_keeps {o v} (h : Keeps a s) : Keeps a (s.wr o v) :=
  ⟨fun c => let k := h.canonical c; ⟨Tab.wf_put o v k.regs, k.latch, k.hold, k.mem⟩, h.out, h.free, h.pending⟩
theorem State.clearRegs_keeps {lo hi} (h : Keeps a s) : Keeps a (s.clearRegs lo hi) :=
  ⟨fun c => let k := h.canonical c; ⟨Tab.wf_clearRange lo hi k.regs, k.latch, k.hold, k.mem⟩, h.out, h.free, h.pending⟩
theorem State.withLatch_keeps {x : Tab (Option Word)} (h : Keeps a s)
    (hx : s.latch.wf (fun _ => none) = true → x.wf (fun _ => none) = true) : Keeps a (s.withLatch x) :=
  ⟨fun c => let k := h.canonical c; ⟨k.regs, hx k.latch, k.hold, k.mem⟩, h.out, h.free, h.pending⟩
theorem State.withHold_keeps {x : Tab (Option Word)} (h : Keeps a s)
    (hx : s.hold.wf (fun _ => none) = true → x.wf (fun _ => none) = true) : Keeps a (s.withHold x) :=
  ⟨fun c => let k := h.canonical c; ⟨k.regs, k.latch, hx k.hold, k.mem⟩, h.out, h.free, h.pending⟩
theorem State.withFree_keeps {n} (h : Keeps a s) (hn : s.free ≤ n) : Keeps a (s.withFree n) :=
  ⟨fun c => let k := h.canonical c; ⟨k.regs, k.latch, k.hold, k.mem⟩, h.out, le_trans h.free hn, h.pending⟩

end Sys2Proof.Machine
end

