-- ==== Sys2Proof/Laws/KeepsOps.lean ====
section
/-!
SUPPORT. What the operations and meanings of Machine/Ops.lean keep (`Keeps`).
-/
namespace Sys2Proof.Machine

variable {st0 : State}

theorem State.setLink_keeps {s : State} {l : LinkId} {k : Link} (hk : Keeps st0 s) :
    Keeps st0 (State.setLink s l k) := by
  unfold State.setLink
  repeat' with_reducible first | assumption | apply State.withLinks_keeps

theorem State.draw_keeps {s : State} (hk : Keeps st0 s) :
    Keeps st0 (State.draw s).2 := by
  unfold State.draw
  try dsimp only
  repeat' first
    | exact Nat.le_add_right _ _
    | with_reducible first | assumption | apply State.withFree_keeps

theorem State.drawBytes_keeps {s : State} {n : Nat} (hk : Keeps st0 s) :
    Keeps st0 (State.drawBytes s n).2 := by
  unfold State.drawBytes
  try dsimp only
  repeat' first
    | exact Nat.le_add_right _ _
    | with_reducible first | assumption | apply State.withFree_keeps

theorem State.addReg_keeps {s : State} {off n : Nat} (hk : Keeps st0 s) :
    Keeps st0 (State.addReg s off n) := by
  unfold State.addReg
  repeat' with_reducible first | assumption | apply State.wr_keeps

theorem State.bump_keeps {s : State} {off : Nat} (hk : Keeps st0 s) :
    Keeps st0 (State.bump s off) := by
  unfold State.bump
  repeat' with_reducible first | assumption | apply State.addReg_keeps

theorem State.wr64_keeps {s : State} {lo : Nat} {v : Dword} (hk : Keeps st0 s) :
    Keeps st0 (State.wr64 s lo v) := by
  unfold State.wr64
  repeat' with_reducible first | assumption | apply State.wr_keeps

theorem State.add64_keeps {s : State} {lo n : Nat} (hk : Keeps st0 s) :
    Keeps st0 (State.add64 s lo n) := by
  unfold State.add64
  repeat' with_reducible first | assumption | apply State.wr64_keeps

theorem State.zeroRegs_keeps {s : State} {offs : List Nat} (hk : Keeps st0 s) :
    Keeps st0 (State.zeroRegs s offs) := by
  unfold State.zeroRegs
  repeat' first
    | with_reducible intro _
    | with_reducible first | assumption | apply State.wr_keeps
    | with_reducible (apply Keeps.foldl; rotate_left; intro s b hk)

theorem traceInto_keeps {s : State} {src unit : Nat} {anyUnit : Bool} {data : Bytes} {b : Nat} (hk : Keeps st0 s) :
    Keeps st0 (traceInto s src unit anyUnit data b) := by
  unfold traceInto
  repeat' first
    | with_reducible first | assumption | apply State.withTest_keeps | apply Keeps.ite
    | split
    | dsimp only

theorem State.traceEv_keeps {s : State} {src unit : Nat} {anyUnit : Bool} {data : Bytes} (hk : Keeps st0 s) :
    Keeps st0 (State.traceEv s src unit anyUnit data) := by
  unfold State.traceEv
  repeat' first
    | with_reducible intro _
    | with_reducible first | assumption | apply traceInto_keeps
    | with_reducible (apply Keeps.foldl; rotate_left; intro s b hk)

theorem traceTrigger_keeps {s : State} {e b k : Nat} (hk : Keeps st0 s) :
    Keeps st0 (traceTrigger s e b k) := by
  unfold traceTrigger
  repeat' first
    | with_reducible first | assumption | apply State.withTest_keeps | apply State.wr64_keeps | apply Keeps.ite
    | split
    | dsimp only

theorem State.signal_keeps {s : State} {h : HostPort} {r : Nat} (hk : Keeps st0 s) :
    Keeps st0 (State.signal s h r) := by
  unfold State.signal
  repeat' first
    | with_reducible first | assumption | apply State.emit_keeps | apply State.withHost_keeps | apply Keeps.ite
    | split
    | dsimp only

theorem State.ringWrite_keeps {s : State} {h : HostPort} {r : Nat} {entry : Bytes} (hk : Keeps st0 s) :
    Keeps st0 (State.ringWrite s h r entry) := by
  unfold State.ringWrite
  repeat' first
    | with_reducible first | assumption | apply State.emit_keeps | apply State.hostWrite_keeps | apply State.signal_keeps | apply State.withHost_keeps | apply State.wr_keeps | apply Keeps.ite
    | split
    | dsimp only

theorem State.evtWrite_keeps {s : State} {h : HostPort} {e : Bytes} (hk : Keeps st0 s) :
    Keeps st0 (State.evtWrite s h e) := by
  unfold State.evtWrite
  repeat' first
    | with_reducible first | assumption | apply State.ringWrite_keeps | apply State.withHost_keeps | apply Keeps.ite
    | split
    | dsimp only

theorem State.evtDrop_keeps {s : State} {h : HostPort} (hk : Keeps st0 s) :
    Keeps st0 (State.evtDrop s h) := by
  unfold State.evtDrop
  repeat' with_reducible first | assumption | apply State.bump_keeps | apply State.withHost_keeps

theorem State.record_keeps {s : State} {e b : Nat} {caps bitCaps : List (Nat × Word)} (hk : Keeps st0 s) :
    Keeps st0 (State.record s e b caps bitCaps) := by
  unfold State.record
  repeat' first
    | with_reducible intro _
    | with_reducible first | assumption | apply State.bump_keeps | apply State.traceEv_keeps | apply State.wr_keeps | apply State.wr64_keeps | apply traceTrigger_keeps | apply Keeps.ite
    | with_reducible (apply Keeps.foldl; rotate_left; intro s b hk)
    | with_reducible (apply Keeps.foldlSnd; rotate_left; intro s b hk)
    | with_reducible (apply Keeps.foldlFst; rotate_left; intro s b hk)
    | split
    | dsimp only
    | with_reducible refine Keeps.snd ‹_› ?_
    | with_reducible refine Keeps.fst ‹_› ?_

theorem postEventTo_keeps {fuel : Nat} {s : State} {h : HostPort} {e : Bytes} (hs : Keeps st0 s) :
    Keeps st0 (postEventTo fuel s h e) := by
  induction fuel generalizing s h e with
  | zero => exact State.evtDrop_keeps hs
  | succ fuel ih =>
    unfold postEventTo
    repeat' with_reducible first
      | assumption
      | apply ih
      | apply Keeps.ite
      | apply State.evtWrite_keeps
      | apply State.record_keeps
      | apply State.evtDrop_keeps

theorem State.postEvent_keeps {s : State} {kind b subject : Nat} {detail : Bytes} (hk : Keeps st0 s) :
    Keeps st0 (State.postEvent s kind b subject detail) := by
  unfold State.postEvent
  repeat' with_reducible first | assumption | apply postEventTo_keeps

theorem State.raiseCap_keeps {s : State} {e b : Nat} {caps bitCaps : List (Nat × Word)} (hk : Keeps st0 s) :
    Keeps st0 (State.raiseCap s e b caps bitCaps) := by
  unfold State.raiseCap
  repeat' first
    | with_reducible first | assumption | apply State.postEvent_keeps | apply State.record_keeps | apply Keeps.ite
    | split
    | dsimp only

theorem State.raise_keeps {s : State} {e b : Nat} {caps : List (Nat × Word)} (hk : Keeps st0 s) :
    Keeps st0 (State.raise s e b caps) := by
  unfold State.raise
  repeat' with_reducible first | assumption | apply State.raiseCap_keeps

theorem State.raiseHost_keeps {s : State} {h : HostPort} {b : Nat} {type status ring : Nat} {addr : Dword} (hk : Keeps st0 s) :
    Keeps st0 (State.raiseHost s h b type status ring addr) := by
  unfold State.raiseHost
  repeat' with_reducible first | assumption | apply State.raise_keeps

theorem State.raiseFault_keeps {s : State} {b subject status : Nat} (hk : Keeps st0 s) :
    Keeps st0 (State.raiseFault s b subject status) := by
  unfold State.raiseFault
  repeat' with_reducible first | assumption | apply State.raise_keeps

theorem State.cqPost_keeps {s : State} {h : HostPort} {r : RingId} {entry : Bytes} {keep : Nat} (hk : Keeps st0 s) :
    Keeps st0 (State.cqPost s h r entry keep) := by
  unfold State.cqPost
  repeat' first
    | with_reducible first | assumption | apply State.ringWrite_keeps | apply State.withHost_keeps | apply Keeps.ite
    | split
    | dsimp only

theorem flushHeld_keeps {fuel : Nat} {s : State} {h : HostPort} {r : RingId} (hs : Keeps st0 s) :
    Keeps st0 (flushHeld fuel s h r) := by
  induction fuel generalizing s with
  | zero => exact hs
  | succ fuel ih =>
    unfold flushHeld
    split
    · exact hs
    · split
      · exact ih (State.ringWrite_keeps (State.withHost_keeps hs))
      · exact hs

theorem State.finish_keeps {s : State} {h : HostPort} {d : Desc} {status result : Nat} (hk : Keeps st0 s) :
    Keeps st0 (State.finish s h d status result) := by
  unfold State.finish
  repeat' first
    | with_reducible intro _
    | with_reducible first | assumption | apply State.bump_keeps | apply State.cqPost_keeps | apply State.withHost_keeps

theorem State.interim_keeps {s : State} {h : HostPort} {d : Desc} (hk : Keeps st0 s) :
    Keeps st0 (State.interim s h d) := by
  unfold State.interim
  repeat' first
    | with_reducible intro _
    | with_reducible first | assumption | apply State.raiseHost_keeps | apply State.ringWrite_keeps | apply State.withHost_keeps | apply Keeps.ite
    | split
    | dsimp only

theorem State.operatorCpl_keeps {s : State} {h : HostPort} {r : RingId} {op status arg unit : Nat} (hk : Keeps st0 s) :
    Keeps st0 (State.operatorCpl s h r op status arg unit).1 := by
  unfold State.operatorCpl
  try dsimp only
  repeat' first
    | with_reducible first | assumption | apply State.raiseHost_keeps | apply State.ringWrite_keeps | apply State.withHost_keeps | apply Keeps.ite | apply Keeps.iteSnd | apply Keeps.iteFst
    | split
    | dsimp only

end Sys2Proof.Machine
end

