-- ==== Sys2Proof/Laws/KeepsFabric.lean ====
section
/-!
SUPPORT. What the operations and meanings of Machine/Fabric.lean keep (`Keeps`).
-/
namespace Sys2Proof.Machine

variable {st0 : State}

theorem State.raiseSw_keeps {s : State} {b input output cls : Nat} (hk : Keeps st0 s) :
    Keeps st0 (State.raiseSw s b input output cls) := by
  unfold State.raiseSw
  repeat' with_reducible first | assumption | apply State.raise_keeps

theorem State.raiseMort_keeps {s : State} {b : Nat} {f : Frame} {st : Status} (hk : Keeps st0 s) :
    Keeps st0 (State.raiseMort s b f st) := by
  unfold State.raiseMort
  repeat' with_reducible first | assumption | apply State.raise_keeps

theorem State.enqueue_keeps {s : State} {i : InputId} {d : Dest} {half : Option Bool} {c : Cls} {f : Frame} (hk : Keeps st0 s) :
    Keeps st0 (State.enqueue s i d half c f) := by
  unfold State.enqueue
  repeat' with_reducible first | assumption | apply State.withSw_keeps

theorem State.toPort_keeps {s : State} {p : Port} {half : Option Bool} {c : Cls} {f : Frame} (hk : Keeps st0 s) :
    Keeps st0 (State.toPort s p half c f) := by
  unfold State.toPort
  repeat' with_reducible first | assumption | apply State.enqueue_keeps

theorem State.addJob_keeps {s : State} {job : BitVec 12} {word n : Nat} (hk : Keeps st0 s) :
    Keeps st0 (State.addJob s job word n) := by
  unfold State.addJob
  repeat' with_reducible first | assumption | apply State.withMort_keeps

theorem State.cplToAgent_keeps {s : State} {a : AgentTag} {c : Cls} {f : Frame} (hk : Keeps st0 s) :
    Keeps st0 (State.cplToAgent s a c f) := by
  unfold State.cplToAgent
  repeat' first
    | with_reducible first | assumption | apply State.toPort_keeps | apply State.withMort_keeps | apply Keeps.ite
    | split
    | dsimp only

theorem State.noRoute_keeps {s : State} {i : InputId} {dest : BitVec 12} {c : Cls} (hk : Keeps st0 s) :
    Keeps st0 (State.noRoute s i dest c) := by
  unfold State.noRoute
  repeat' first
    | with_reducible first | assumption | apply State.bump_keeps | apply State.raiseSw_keeps | apply Keeps.ite
    | split
    | dsimp only

theorem State.sendFrameOut_keeps {s : State} {k : Fin 12} {c : Cls} {f : Frame} (hk : Keeps st0 s) :
    Keeps st0 (State.sendFrameOut s k c f) := by
  unfold State.sendFrameOut
  repeat' first
    | with_reducible first | assumption | apply State.cplToAgent_keeps | apply State.enqueue_keeps | apply State.noRoute_keeps | apply State.toPort_keeps | apply Keeps.ite
    | split
    | dsimp only

theorem State.complete_keeps {s : State} {k : Fin 12} {c : Cls} {req : Frame} {st : Status} {data : Bool} {payload : Bytes} {flags : BitVec 8} {unit : BitVec 10} (hk : Keeps st0 s) :
    Keeps st0 (State.complete s k c req st data payload flags unit) := by
  unfold State.complete
  repeat' first
    | with_reducible first | assumption | apply State.enqueue_keeps | apply State.sendFrameOut_keeps | apply Keeps.ite
    | split
    | dsimp only

theorem State.refuse_keeps {s : State} {k : Fin 12} {c : Cls} {req : Frame} {st : Status} (hk : Keeps st0 s) :
    Keeps st0 (State.refuse s k c req st) := by
  unfold State.refuse
  repeat' first
    | with_reducible first | assumption | apply State.addJob_keeps | apply State.complete_keeps | apply Keeps.ite
    | split
    | dsimp only

theorem State.dropNoRoute_keeps {s : State} {i : InputId} {c : Cls} {f : Frame} (hk : Keeps st0 s) :
    Keeps st0 (State.dropNoRoute s i c f) := by
  unfold State.dropNoRoute
  repeat' first
    | with_reducible first | assumption | apply State.noRoute_keeps | apply State.refuse_keeps | apply Keeps.ite
    | split
    | dsimp only

theorem State.injectReq_keeps {s : State} {k : Fin 12} {c : Cls} {f : Frame} (hk : Keeps st0 s) :
    Keeps st0 (State.injectReq s k c f) := by
  unfold State.injectReq
  repeat' first
    | with_reducible first | assumption | apply State.dropNoRoute_keeps | apply State.enqueue_keeps | apply State.toPort_keeps | apply Keeps.ite
    | split
    | dsimp only

theorem State.originate_keeps {s : State} {unit : BitVec 10} {k : Fin 12} {c : Cls} {hdr : BitVec 256} {payload : Bytes} {why : Purpose} (hk : Keeps st0 s) :
    Keeps st0 (State.originate s unit k c hdr payload why) := by
  unfold State.originate
  repeat' first
    | with_reducible first | assumption | apply State.injectReq_keeps | apply State.withMort_keeps
    | split
    | dsimp only

theorem State.retryTags_keeps {s : State} {unit : BitVec 10} (hk : Keeps st0 s) :
    Keeps st0 (State.retryTags s unit) := by
  unfold State.retryTags
  repeat' first
    | with_reducible intro _
    | with_reducible first | assumption | apply State.originate_keeps | apply State.withMort_keeps | apply Keeps.ite
    | split
    | dsimp only

theorem State.closeTag_keeps {s : State} {t : Tag} {st : Status} {flags : BitVec 8} {data : Bytes} (hk : Keeps st0 s) :
    Keeps st0 (State.closeTag s t st flags data) := by
  unfold State.closeTag
  repeat' with_reducible first | assumption | apply State.done_keeps | apply State.retryTags_keeps | apply State.withMort_keeps

theorem State.takeDone_keeps {s : State} {p : Purpose} (hk : Keeps st0 s) :
    KeepsPair st0 (State.takeDone s p) := by
  unfold State.takeDone
  try dsimp only
  repeat' first
    | with_reducible intro _
    | with_reducible first | assumption | apply State.done_keeps | apply State.withMort_keeps | apply KeepsPair.some | exact KeepsPair.none
    | split
    | dsimp only

theorem State.countRefusal_keeps {s : State} {f : Frame} {st : Status} (hk : Keeps st0 s) :
    Keeps st0 (State.countRefusal s f st) := by
  unfold State.countRefusal
  repeat' first
    | with_reducible first | assumption | apply State.bump_keeps | apply State.raiseMort_keeps | apply Keeps.ite
    | split
    | dsimp only

end Sys2Proof.Machine
end

