-- ==== Sys2Proof/Laws/KeepsResetOps.lean ====
section
/-!
SUPPORT. What the operations and meanings of Machine/ResetOps.lean keep (`Keeps`).
-/
namespace Sys2Proof.Machine

variable {st0 : State}

theorem State.enterBoot_keeps {s : State} {b : BootSt} (hk : Keeps st0 s) :
    Keeps st0 (State.enterBoot s b) := by
  unfold State.enterBoot
  repeat' with_reducible first | assumption | apply State.withBoot_keeps | apply State.wr64_keeps

theorem State.resetMain_keeps {s : State} {kind : ResetKind} {next : BootSt} {cause : Word} {force : Bool}
    (hk : Keeps st0 s) : Keeps st0 (s.resetMain kind next cause force) := by
  unfold State.resetMain
  refine State.enterBoot_keeps (State.wr_keeps (State.withTest_keeps ⟨fun c => ?_, hk.out, hk.free, hk.pending⟩))
  exact ⟨Tab.wf_filter _ (hk.canonical c).regs, rfl, rfl, rfl⟩

theorem State.askReset_keeps {s : State} {kind : ResetKind} {cause : Word} {force : Bool} (hk : Keeps st0 s) :
    Keeps st0 (State.askReset s kind cause force) := by
  unfold State.askReset
  repeat' first
    | with_reducible first | assumption | apply State.withBoot_keeps | apply Keeps.ite
    | split
    | dsimp only

theorem State.resetDue_keeps {s : State} (hk : Keeps st0 s) :
    Keeps st0 (State.resetDue s) := by
  unfold State.resetDue
  repeat' first
    | with_reducible first | assumption | apply State.resetMain_keeps | apply State.shutDown_keeps | apply Keeps.ite
    | split
    | dsimp only

end Sys2Proof.Machine
end

