-- ==== Sys2Proof/Laws/KeepsBellOps.lean ====
section
/-!
SUPPORT. What the operations and meanings of Machine/BellOps.lean keep (`Keeps`).
-/
namespace Sys2Proof.Machine

variable {st0 : State}

theorem State.setTimeLink_keeps {s : State} {p : Port} {t : TimeLink} (hk : Keeps st0 s) :
    Keeps st0 (State.setTimeLink s p t) := by
  unfold State.setTimeLink
  repeat' with_reducible first | assumption | apply State.withBell_keeps

theorem State.setLock_keeps {s : State} {l : Lock} (hk : Keeps st0 s) :
    Keeps st0 (State.setLock s l) := by
  unfold State.setLock
  repeat' first
    | with_reducible first | assumption | apply State.lock_keeps | apply State.raise_keeps | apply State.withBell_keeps | apply Keeps.ite
    | split
    | dsimp only

theorem State.becomeMaster_keeps {s : State} (hk : Keeps st0 s) :
    Keeps st0 (State.becomeMaster s) := by
  unfold State.becomeMaster
  repeat' with_reducible first | assumption | apply State.setLock_keeps | apply State.withBell_keeps

theorem State.winElection_keeps {s : State} (hk : Keeps st0 s) :
    Keeps st0 (State.winElection s) := by
  unfold State.winElection
  repeat' first
    | with_reducible first | assumption | apply State.becomeMaster_keeps | apply State.withBell_keeps | apply Keeps.ite
    | split
    | dsimp only

theorem State.timeLinkCheck_keeps {s : State} (hk : Keeps st0 s) :
    Keeps st0 (State.timeLinkCheck s) := by
  unfold State.timeLinkCheck
  repeat' first
    | with_reducible first | assumption | apply State.lock_keeps | apply State.setLock_keeps | apply Keeps.ite
    | split
    | dsimp only

theorem State.disarm_keeps {s : State} (hk : Keeps st0 s) :
    Keeps st0 (State.disarm s) := by
  unfold State.disarm
  repeat' with_reducible first | assumption | apply State.withTt_keeps

theorem State.withdrawAnn_keeps {s : State} (hk : Keeps st0 s) :
    Keeps st0 (State.withdrawAnn s) := by
  unfold State.withdrawAnn
  repeat' with_reducible first | assumption | apply State.raise_keeps | apply State.withTt_keeps

theorem State.followAnn_keeps {s : State} {a : Option Announce} (hk : Keeps st0 s) :
    Keeps st0 (State.followAnn s a) := by
  unfold State.followAnn
  repeat' first
    | with_reducible first | assumption | apply State.withTt_keeps | apply Keeps.ite
    | split
    | dsimp only

theorem State.shaperTick_keeps {s : State} (hk : Keeps st0 s) :
    Keeps st0 (State.shaperTick s) := by
  unfold State.shaperTick
  repeat' first
    | with_reducible first | assumption | apply State.withSw_keeps
    | with_reducible (apply Keeps.foldl; rotate_left; intro s b hk)

theorem State.sendSlot_keeps {s : State} (hk : Keeps st0 s) :
    Keeps st0 (State.sendSlot s) := by
  unfold State.sendSlot
  repeat' first
    | with_reducible intro _
    | with_reducible first | assumption | apply State.raise_keeps | apply State.traceEv_keeps | apply State.withTt_keeps | apply Keeps.ite
    | with_reducible (apply Keeps.foldl; rotate_left; intro s b hk)
    | split
    | dsimp only

end Sys2Proof.Machine
end

