-- ==== Sys2Proof/Laws/KeepsBellRows.lean ====
section
/-!
SUPPORT. What the operations and meanings of Machine/BellRows.lean keep (`Keeps`).
-/
namespace Sys2Proof.Machine

variable {st0 : State}

theorem State.periodStart_keeps {s : State} (hk : Keeps st0 s) :
    Keeps st0 (State.periodStart s) := by
  unfold State.periodStart
  repeat' first
    | with_reducible first | assumption | apply State.becomeMaster_keeps | apply State.withBell_keeps | apply State.withTt_keeps | apply Keeps.ite
    | split
    | dsimp only

theorem State.unitTick_keeps {s : State} (hk : Keeps st0 s) :
    Keeps st0 (State.unitTick s) := by
  unfold State.unitTick
  repeat' first
    | with_reducible intro _
    | with_reducible first | assumption | apply State.withBenches_keeps | apply State.withNet_keeps
    | with_reducible (apply Keeps.foldl; rotate_left; intro s b hk)
    | split
    | dsimp only
    | with_reducible refine Keeps.snd ‹_› ?_
    | with_reducible refine Keeps.fst ‹_› ?_

theorem State.prbsPort_keeps {s : State} (hk : Keeps st0 s) :
    Keeps st0 (State.prbsPort s) := by
  unfold State.prbsPort
  repeat' first
    | with_reducible intro _
    | with_reducible first | assumption | apply State.add64_keeps | apply State.addReg_keeps | apply State.draw_keeps | apply State.withTest_keeps | apply Keeps.ite
    | with_reducible (apply Keeps.foldl; rotate_left; intro s b hk)
    | with_reducible (apply Keeps.foldlSnd; rotate_left; intro s b hk)
    | with_reducible (apply Keeps.foldlFst; rotate_left; intro s b hk)
    | split
    | dsimp only
    | with_reducible refine Keeps.snd ‹_› ?_
    | with_reducible refine Keeps.fst ‹_› ?_

theorem State.prbsHost_keeps {s : State} (hk : Keeps st0 s) :
    Keeps st0 (State.prbsHost s) := by
  unfold State.prbsHost
  repeat' first
    | with_reducible intro _
    | with_reducible first | assumption | apply State.add64_keeps | apply State.addReg_keeps | apply State.draw_keeps | apply State.withTest_keeps | apply Keeps.ite
    | with_reducible (apply Keeps.foldl; rotate_left; intro s b hk)
    | with_reducible (apply Keeps.foldlSnd; rotate_left; intro s b hk)
    | with_reducible (apply Keeps.foldlFst; rotate_left; intro s b hk)
    | split
    | dsimp only
    | with_reducible refine Keeps.snd ‹_› ?_
    | with_reducible refine Keeps.fst ‹_› ?_

theorem State.slotBefore_keeps {s : State} (hk : Keeps st0 s) :
    Keeps st0 (State.slotBefore s) := by
  unfold State.slotBefore
  repeat' with_reducible first | assumption | apply State.shaperTick_keeps | apply State.prbsHost_keeps | apply State.prbsPort_keeps | apply State.unitTick_keeps

theorem State.slotAfter_keeps {s : State} (hk : Keeps st0 s) :
    Keeps st0 (State.slotAfter s) := by
  unfold State.slotAfter
  repeat' with_reducible first | assumption | apply State.resetDue_keeps | apply State.sendSlot_keeps

theorem execBellSlotAdvance_keeps {s : State} (hk : Keeps st0 s) :
    KeepsNext st0 (execBellSlotAdvance s) := by
  unfold execBellSlotAdvance
  repeat' first
    | with_reducible first | assumption | apply State.periodStart_keeps | apply State.slotAfter_keeps | apply State.slotBefore_keeps | apply State.withBell_keeps | apply Keeps.ite | apply KeepsNext.ite | apply KeepsNext.next
    | split
    | dsimp only

theorem execBellFrameSend_keeps {s : State} (hk : Keeps st0 s) :
    KeepsNext st0 (execBellFrameSend s) := by
  unfold execBellFrameSend
  repeat' first
    | with_reducible first | assumption | apply State.emit_keeps | apply State.withBell_keeps | apply Keeps.ite | apply KeepsNext.ite | apply KeepsNext.next
    | split
    | dsimp only

theorem State.forwardBell_keeps {s : State} {f : BellFrame} {health : BitVec 16} (hk : Keeps st0 s) :
    Keeps st0 (State.forwardBell s f health) := by
  unfold State.forwardBell
  repeat' first
    | with_reducible first | assumption | apply State.emit_keeps | apply State.withBell_keeps | apply Keeps.ite
    | split
    | dsimp only

theorem State.bellBad_keeps {s : State} (hk : Keeps st0 s) :
    Keeps st0 (State.bellBad s) := by
  unfold State.bellBad
  repeat' first
    | with_reducible first | assumption | apply State.emit_keeps | apply State.forwardBell_keeps | apply State.raise_keeps | apply State.withBell_keeps | apply Keeps.ite
    | split
    | dsimp only

theorem State.bellMember_keeps {s : State} {c : BitVec 272} (hk : Keeps st0 s) :
    Keeps st0 (State.bellMember s c) := by
  unfold State.bellMember
  repeat' first
    | with_reducible first | assumption | apply State.followAnn_keeps | apply State.forwardBell_keeps | apply State.lock_keeps | apply State.setLock_keeps | apply State.withBell_keeps | apply State.wr_keeps | apply Keeps.ite
    | split
    | dsimp only

theorem State.bellOwn_keeps {s : State} {c : BitVec 272} (hk : Keeps st0 s) :
    Keeps st0 (State.bellOwn s c) := by
  unfold State.bellOwn
  repeat' first
    | with_reducible first | assumption | apply State.winElection_keeps | apply State.withBell_keeps | apply State.withdrawAnn_keeps | apply State.wr_keeps | apply Keeps.ite
    | split
    | dsimp only

theorem execBellFrameReceive_keeps {c : BitVec 272} {s : State} (hk : Keeps st0 s) :
    KeepsNext st0 (execBellFrameReceive c s) := by
  unfold execBellFrameReceive
  repeat' first
    | with_reducible first | assumption | apply State.bellBad_keeps | apply State.bellMember_keeps | apply State.bellOwn_keeps | apply State.setLock_keeps | apply State.withBell_keeps | apply State.withTt_keeps | apply Keeps.ite | apply KeepsNext.ite | apply KeepsNext.next
    | split
    | dsimp only

theorem execMissingFrame_keeps {s : State} (hk : Keeps st0 s) :
    KeepsNext st0 (execMissingFrame s) := by
  unfold execMissingFrame
  repeat' first
    | with_reducible first | assumption | apply State.lock_keeps | apply State.setLock_keeps | apply State.withBell_keeps | apply Keeps.ite | apply KeepsNext.ite | apply KeepsNext.next
    | split
    | dsimp only

theorem execRingOpen_keeps {s : State} (hk : Keeps st0 s) :
    KeepsNext st0 (execRingOpen s) := by
  unfold execRingOpen
  repeat' first
    | with_reducible first | assumption | apply State.raise_keeps | apply State.withBell_keeps | apply Keeps.ite | apply KeepsNext.ite | apply KeepsNext.next
    | split
    | dsimp only

theorem execHoldoverExpiry_keeps {s : State} (hk : Keeps st0 s) :
    KeepsNext st0 (execHoldoverExpiry s) := by
  unfold execHoldoverExpiry
  repeat' first
    | with_reducible first | assumption | apply State.lock_keeps | apply State.raise_keeps | apply State.setLock_keeps | apply Keeps.ite | apply KeepsNext.ite | apply KeepsNext.next
    | split
    | dsimp only

theorem execElectionEntry_keeps {s : State} (hk : Keeps st0 s) :
    KeepsNext st0 (execElectionEntry s) := by
  unfold execElectionEntry
  repeat' first
    | with_reducible first | assumption | apply State.lock_keeps | apply State.raise_keeps | apply State.withBell_keeps | apply Keeps.ite | apply KeepsNext.ite | apply KeepsNext.next
    | split
    | dsimp only

theorem execSingleCardSelfMaster_keeps {s : State} (hk : Keeps st0 s) :
    KeepsNext st0 (execSingleCardSelfMaster s) := by
  unfold execSingleCardSelfMaster
  repeat' first
    | with_reducible first | assumption | apply State.winElection_keeps | apply Keeps.ite | apply KeepsNext.ite | apply KeepsNext.next
    | split
    | dsimp only

theorem execBellReadyChange_keeps {s : State} (hk : Keeps st0 s) :
    KeepsNext st0 (execBellReadyChange s) := by
  unfold execBellReadyChange
  repeat' first
    | with_reducible first | assumption | apply State.withBell_keeps | apply Keeps.ite | apply KeepsNext.ite | apply KeepsNext.next
    | split
    | dsimp only

theorem execTimestampSend_keeps {p : Port} {s : State} (hk : Keeps st0 s) :
    KeepsNext st0 (execTimestampSend p s) := by
  unfold execTimestampSend
  repeat' first
    | with_reducible first | assumption | apply State.setLink_keeps | apply State.setTimeLink_keeps | apply Keeps.ite | apply KeepsNext.ite | apply KeepsNext.next
    | split
    | dsimp only

theorem State.useOffset_keeps {s : State} {off : Int} (hk : Keeps st0 s) :
    Keeps st0 (State.useOffset s off) := by
  unfold State.useOffset
  repeat' first
    | with_reducible first | assumption | apply State.lock_keeps | apply State.raise_keeps | apply State.setLock_keeps | apply State.withBell_keeps | apply State.wr_keeps | apply Keeps.ite
    | split
    | dsimp only

theorem execTimestampReceive_keeps {p : Port} {rxSub : BitVec 6} {parent : Option SoNotice} {s : State} (hk : Keeps st0 s) :
    KeepsNext st0 (execTimestampReceive p rxSub parent s) := by
  unfold execTimestampReceive
  repeat' first
    | with_reducible intro _
    | with_reducible first | assumption | apply State.followAnn_keeps | apply State.setLink_keeps | apply State.setTimeLink_keeps | apply State.useOffset_keeps | apply State.withBell_keeps | apply State.withdrawAnn_keeps | apply Keeps.ite | apply KeepsNext.ite | apply KeepsNext.next
    | split
    | dsimp only

theorem execRefLost_keeps {s : State} (hk : Keeps st0 s) :
    KeepsNext st0 (execRefLost s) := by
  unfold execRefLost
  repeat' first
    | with_reducible first | assumption | apply State.raise_keeps | apply State.withBell_keeps | apply Keeps.ite | apply KeepsNext.ite | apply KeepsNext.next
    | split
    | dsimp only

theorem execRefAppear_keeps {s : State} (hk : Keeps st0 s) :
    KeepsNext st0 (execRefAppear s) := by
  unfold execRefAppear
  repeat' with_reducible first | assumption | apply State.withBell_keeps | apply KeepsNext.next

theorem execPpsEdge_keeps {s : State} (hk : Keeps st0 s) :
    KeepsNext st0 (execPpsEdge s) := by
  unfold execPpsEdge
  repeat' first
    | with_reducible first | assumption | apply State.wr64_keeps | apply Keeps.ite | apply KeepsNext.ite | apply KeepsNext.next
    | split
    | dsimp only

theorem execSoCommitPoint_keeps {s : State} (hk : Keeps st0 s) :
    KeepsNext st0 (execSoCommitPoint s) := by
  unfold execSoCommitPoint
  repeat' first
    | with_reducible first | assumption | apply State.lock_keeps | apply State.withTt_keeps | apply Keeps.ite | apply KeepsNext.ite | apply KeepsNext.next
    | split
    | dsimp only

theorem execGateEntryFire_keeps {p : Port} {s : State} (hk : Keeps st0 s) :
    KeepsNext st0 (execGateEntryFire p s) := by
  unfold execGateEntryFire
  repeat' first
    | with_reducible intro _
    | with_reducible first | assumption | apply State.traceEv_keeps | apply State.withTt_keeps | apply KeepsNext.next
    | with_reducible (apply Keeps.foldl; rotate_left; intro s b hk)

end Sys2Proof.Machine
end

