-- ==== Sys2Proof/Laws/KeepsLinkOps.lean ====
section
/-!
SUPPORT. What the operations and meanings of Machine/LinkOps.lean keep (`Keeps`).
-/
namespace Sys2Proof.Machine

variable {st0 : State}

theorem State.raisePort_keeps {s : State} {l : LinkId} {b : Nat} (hk : Keeps st0 s) :
    Keeps st0 (State.raisePort s l b) := by
  unfold State.raisePort
  repeat' first
    | with_reducible first | assumption | apply State.raise_keeps | apply State.wr_keeps | apply Keeps.ite
    | split
    | dsimp only

theorem State.modLink_keeps {s : State} {l : LinkId} {f : Link → Link} (hk : Keeps st0 s) :
    Keeps st0 (State.modLink s l f) := by
  unfold State.modLink
  repeat' with_reducible first | assumption | apply State.setLink_keeps

theorem State.sendCtl_keeps {s : State} {l : LinkId} {type : BitVec 4} {content : Bytes} (hk : Keeps st0 s) :
    Keeps st0 (State.sendCtl s l type content) := by
  unfold State.sendCtl
  repeat' first
    | with_reducible intro _
    | with_reducible first | assumption | apply State.modLink_keeps

theorem State.sendReplayReq_keeps {s : State} {l : LinkId} (hk : Keeps st0 s) :
    Keeps st0 (State.sendReplayReq s l) := by
  unfold State.sendReplayReq
  repeat' with_reducible first | assumption | apply State.sendCtl_keeps

theorem State.sendMsg_keeps {s : State} {l : LinkId} {msg : BitVec 8} {content : Bytes} (hk : Keeps st0 s) :
    Keeps st0 (State.sendMsg s l msg content) := by
  unfold State.sendMsg
  repeat' first
    | with_reducible intro _
    | with_reducible first | assumption | apply State.emit_keeps | apply State.modLink_keeps | apply State.sendCtl_keeps | apply Keeps.ite
    | with_reducible (apply Keeps.foldl; rotate_left; intro s b hk)
    | split
    | dsimp only

theorem State.oweCredit_keeps {s : State} {l : LinkId} {c : Cls} {n : Nat} (hk : Keeps st0 s) :
    Keeps st0 (State.oweCredit s l c n) := by
  unfold State.oweCredit
  repeat' first
    | with_reducible intro _
    | with_reducible first | assumption | apply State.modLink_keeps

theorem State.dropEntry_keeps {s : State} {e : QEntry} (hk : Keeps st0 s) :
    Keeps st0 (State.dropEntry s e) := by
  unfold State.dropEntry
  repeat' first
    | with_reducible intro _
    | with_reducible first | assumption | apply State.oweCredit_keeps | apply State.withSw_keeps
    | split
    | dsimp only

theorem State.sampleBusy_keeps {s : State} (hk : Keeps st0 s) :
    Keeps st0 (State.sampleBusy s).2 := by
  unfold State.sampleBusy
  repeat' first
    | with_reducible first | assumption | apply State.draw_keeps
    | split
    | dsimp only
    | with_reducible refine Keeps.snd ‹_› ?_

theorem State.mirrorOne_keeps {s : State} {at_ : Dword} {p : Port} {egress : Bool} {cls : Nat} {job : BitVec 12} {dropped : Bool} {bytes : Bytes} {len : Nat} {m : Nat} (hk : Keeps st0 s) :
    Keeps st0 (State.mirrorOne s at_ p egress cls job dropped bytes len m) := by
  unfold State.mirrorOne
  repeat' first
    | with_reducible first | assumption | apply State.bump_keeps | apply State.raiseSw_keeps | apply State.withSw_keeps | apply State.sampleBusy_keeps | apply Keeps.ite
    | split
    | dsimp only
    | with_reducible refine Keeps.snd ‹_› ?_

theorem State.mirror_keeps {s : State} {at_ : Dword} {p : Port} {egress : Bool} {cls : Nat} {job : BitVec 12} {dropped : Bool} {bytes : Bytes} {len : Nat} (hk : Keeps st0 s) :
    Keeps st0 (State.mirror s at_ p egress cls job dropped bytes len) := by
  unfold State.mirror
  repeat' first
    | with_reducible intro _
    | with_reducible first | assumption | apply State.mirrorOne_keeps
    | with_reducible (apply Keeps.foldl; rotate_left; intro s b hk)

theorem State.traceFrame_keeps {s : State} {src : Nat} {p : Port} {hdr : BitVec 256} (hk : Keeps st0 s) :
    Keeps st0 (State.traceFrame s src p hdr) := by
  unfold State.traceFrame
  repeat' with_reducible first | assumption | apply State.traceEv_keeps

theorem State.losePartial_keeps {s : State} {a : Arriving} (hk : Keeps st0 s) :
    Keeps st0 (State.losePartial s a) := by
  unfold State.losePartial
  repeat' first
    | with_reducible intro _
    | with_reducible first | assumption | apply State.bump_keeps | apply State.raiseSw_keeps | apply State.withSw_keeps | apply Keeps.ite
    | split
    | dsimp only

theorem State.gatewayDown_keeps {s : State} {p : Port} (hk : Keeps st0 s) :
    Keeps st0 (State.gatewayDown s p) := by
  unfold State.gatewayDown
  repeat' first
    | with_reducible intro _
    | with_reducible first | assumption | apply State.withMort_keeps

theorem State.endSession_keeps {s : State} {l : LinkId} (hk : Keeps st0 s) :
    Keeps st0 (State.endSession s l) := by
  unfold State.endSession
  repeat' first
    | with_reducible intro _
    | with_reducible first | assumption | apply State.gatewayDown_keeps | apply State.losePartial_keeps | apply State.setLink_keeps | apply State.withMort_keeps | apply State.withSw_keeps | apply Keeps.ite
    | with_reducible (apply Keeps.foldl; rotate_left; intro s b hk)
    | split
    | dsimp only

theorem State.newSession_keeps {s : State} {p : Port} (hk : Keeps st0 s) :
    Keeps st0 (State.newSession s p) := by
  unfold State.newSession
  repeat' with_reducible first | assumption | apply State.withRoll_keeps

theorem State.enter_keeps {s : State} {l : LinkId} {t : Train} (hk : Keeps st0 s) :
    Keeps st0 (State.enter s l t) := by
  unfold State.enter
  repeat' first
    | with_reducible intro _
    | with_reducible first | assumption | apply State.modLink_keeps

theorem State.toDetect_keeps {s : State} {l : LinkId} (hk : Keeps st0 s) :
    Keeps st0 (State.toDetect s l) := by
  unfold State.toDetect
  repeat' first
    | with_reducible intro _
    | with_reducible first | assumption | apply State.endSession_keeps | apply State.enter_keeps | apply State.modLink_keeps | apply Keeps.ite
    | split
    | dsimp only

theorem State.endLoop_keeps {s : State} {l : LinkId} (hk : Keeps st0 s) :
    Keeps st0 (State.endLoop s l) := by
  unfold State.endLoop
  repeat' first
    | with_reducible intro _
    | with_reducible first | assumption | apply State.modLink_keeps | apply State.withTest_keeps | apply Keeps.ite
    | split
    | dsimp only

theorem State.toDisabled_keeps {s : State} {l : LinkId} (hk : Keeps st0 s) :
    Keeps st0 (State.toDisabled s l) := by
  unfold State.toDisabled
  repeat' with_reducible first | assumption | apply State.endLoop_keeps | apply State.endSession_keeps | apply State.enter_keeps | apply State.timeLinkCheck_keeps

theorem State.toRecovery_keeps {s : State} {l : LinkId} (hk : Keeps st0 s) :
    Keeps st0 (State.toRecovery s l) := by
  unfold State.toRecovery
  repeat' with_reducible first | assumption | apply State.enter_keeps | apply State.timeLinkCheck_keeps

theorem State.startTraining_keeps {s : State} {p : Port} (hk : Keeps st0 s) :
    Keeps st0 (State.startTraining s p) := by
  unfold State.startTraining
  repeat' first
    | with_reducible intro _
    | with_reducible first | assumption | apply State.modLink_keeps | apply State.raisePort_keeps | apply State.toDetect_keeps | apply Keeps.ite
    | with_reducible (apply Keeps.foldl; rotate_left; intro s b hk)
    | split
    | dsimp only

end Sys2Proof.Machine
end

