-- ==== Sys2Proof/Laws/KeepsAccess.lean ====
section
/-!
SUPPORT. What the operations and meanings of Machine/Access.lean keep (`Keeps`).
-/
namespace Sys2Proof.Machine

variable {st0 : State}

theorem State.touch_keeps {s : State} {h : HostPort} (hk : Keeps st0 s) :
    Keeps st0 (State.touch s h) := by
  unfold State.touch
  repeat' first
    | with_reducible first | assumption | apply State.draw_keeps | apply State.withHost_keeps | apply Keeps.ite
    | split
    | dsimp only
    | with_reducible refine Keeps.snd ‹_› ?_

theorem State.hostWrite_keeps {s : State} {h : HostPort} {off : Nat} {f : State → State} (hk : Keeps st0 s) (hf : ∀ t, Keeps st0 t → Keeps st0 (f t)) :
    Keeps st0 (State.hostWrite s h off f) := by
  unfold State.hostWrite
  repeat' first
    | with_reducible first | assumption | apply State.touch_keeps | apply Keeps.ite
    | split
    | dsimp only
    | with_reducible apply hf

theorem State.lockedWrite_keeps {s : State} {off : Nat} (hk : Keeps st0 s) :
    Keeps st0 (State.lockedWrite s off) := by
  unfold State.lockedWrite
  repeat' with_reducible first | assumption | apply State.raiseCap_keeps

theorem State.hostWriteRwl_keeps {s : State} {h : HostPort} {off : Nat} {f : State → State} (hk : Keeps st0 s) (hf : ∀ t, Keeps st0 t → Keeps st0 (f t)) :
    Keeps st0 (State.hostWriteRwl s h off f) := by
  unfold State.hostWriteRwl
  repeat' first
    | with_reducible intro _
    | with_reducible first | assumption | apply State.hostWrite_keeps | apply State.lockedWrite_keeps | apply Keeps.ite
    | split
    | dsimp only
    | with_reducible apply hf

theorem State.wrMasked_keeps {s : State} {off : Nat} {v : Word} (hk : Keeps st0 s) :
    Keeps st0 (State.wrMasked s off v) := by
  unfold State.wrMasked
  repeat' with_reducible first | assumption | apply State.wr_keeps

theorem State.holdLo_keeps {s : State} {h : HostPort} {off : Nat} {v : Word} (hk : Keeps st0 s) :
    Keeps st0 (State.holdLo s h off v) := by
  unfold State.holdLo
  repeat' first
    | exact Tab.wf_put (d := fun _ => none) _ _
    | exact Tab.wf_filter _
    | with_reducible first | assumption | apply State.withHold_keeps

theorem State.dropHeld_keeps {s : State} {h : HostPort} {off : Nat} (hk : Keeps st0 s) :
    Keeps st0 (State.dropHeld s h off) := by
  unfold State.dropHeld
  repeat' first
    | exact Tab.wf_put (d := fun _ => none) _ _
    | exact Tab.wf_filter _
    | with_reducible first | assumption | apply State.withHold_keeps

end Sys2Proof.Machine
end

