-- ==== Sys2Proof/Laws/KeepsPoolOps.lean ====
section
/-!
SUPPORT. What the operations and meanings of Machine/PoolOps.lean keep (`Keeps`).
-/
namespace Sys2Proof.Machine

variable {st0 : State}

theorem State.memWrite_keeps {s : State} {x : Nat} {bs : Bytes} (hk : Keeps st0 s) : Keeps st0 (s.memWrite x bs) :=
  State.withPool_keeps hk (Tab.wf_putRun x bs)

theorem putMasked_wf {t : Tab Byte} (x : Nat) (w : LineWrite) (h : Memory.wf t = true) : Memory.wf (putMasked t x w) = true := by
  unfold putMasked
  generalize List.range 128 = l
  induction l generalizing t with
  | nil => exact h
  | cons i l ih =>
    refine ih (t := if bit w.mask i then t.put 0 (x + w.at_ + i) (w.data.getD i 0) else t) ?_
    split
    · exact Tab.wf_put (d := fun _ => 0) _ _ h
    · exact h

theorem putMasked_lines_wf {t : Tab Byte} (x : Nat) (ws : List LineWrite) (h : Memory.wf t = true) :
    Memory.wf (ws.foldl (fun t w => putMasked t x w) t) = true := by
  induction ws generalizing t with
  | nil => exact h
  | cons w ws ih => exact ih (putMasked_wf x w h)

theorem State.badRead_keeps {s : State} {a : Nat} (hk : Keeps st0 s) :
    Keeps st0 (State.badRead s a) := by
  unfold State.badRead
  repeat' first
    | with_reducible first | assumption | apply State.bump_keeps | apply State.raise_keeps | apply Keeps.ite
    | split
    | dsimp only

theorem State.writeLines_both {s : State} {x : Nat} {ws : List LineWrite} (hk : Keeps st0 s) :
    KeepsOpt st0 (s.writeLines x ws).1 ∧ Keeps st0 (s.writeLines x ws).2 := by
  unfold State.writeLines
  dsimp only
  split
  · have h := State.withPool_keeps (x := { s.pool with
        mem := ws.foldl (fun t w => putMasked t x w) s.pool.mem,
        badLines := s.pool.badLines.filter (fun p =>
          !((ws.filter (fun w => w.mask == fullMask)).map (fun w => (x + w.at_) / 128)).contains p.1) }) hk
      (putMasked_lines_wf x ws)
    exact ⟨KeepsOpt.some h, h⟩
  · exact ⟨KeepsOpt.none, Keeps.foldl hk (fun _ _ h => State.badRead_keeps h)⟩

theorem State.writeLines_keeps1 {s : State} {x : Nat} {ws : List LineWrite} (hk : Keeps st0 s) :
    KeepsOpt st0 (s.writeLines x ws).1 := (State.writeLines_both hk).1

theorem State.writeLines_keeps2 {s : State} {x : Nat} {ws : List LineWrite} (hk : Keeps st0 s) :
    Keeps st0 (s.writeLines x ws).2 := (State.writeLines_both hk).2

theorem State.zeroPlank_keeps {s : State} {x : Nat} (hk : Keeps st0 s) : Keeps st0 (s.zeroPlank x) :=
  State.withPool_keeps hk (Tab.wf_clearRange x (x + plankBytes))

theorem State.putPlank_keeps {s : State} {a : Nat} {bs : Bytes} (hk : Keeps st0 s) :
    Keeps st0 (State.putPlank s a bs) := by
  unfold State.putPlank
  repeat' with_reducible first | assumption | apply State.memWrite_keeps | apply State.zeroPlank_keeps

theorem State.dropTags_keeps {s : State} {o ext : Nat} (hk : Keeps st0 s) :
    Keeps st0 (State.dropTags s o ext) := by
  unfold State.dropTags
  repeat' first
    | exact fun h => h
    | with_reducible first | assumption | apply State.withPool_keeps

theorem State.setEntry_keeps {s : State} {plank : Nat} {e : MapEntry} (hk : Keeps st0 s) :
    Keeps st0 (State.setEntry s plank e) := by
  unfold State.setEntry
  repeat' first
    | exact fun h => h
    | with_reducible first | assumption | apply State.withPool_keeps

theorem State.takeFrame_keeps {s : State} {f plank : Nat} (hk : Keeps st0 s) :
    Keeps st0 (State.takeFrame s f plank) := by
  unfold State.takeFrame
  repeat' first
    | exact fun h => h
    | with_reducible first | assumption | apply State.withPool_keeps

theorem State.dropFrame_keeps {s : State} {f : Nat} (hk : Keeps st0 s) :
    Keeps st0 (State.dropFrame s f) := by
  unfold State.dropFrame
  repeat' first
    | exact fun h => h
    | with_reducible intro _
    | with_reducible first | assumption | apply State.withPool_keeps

theorem State.touchFrame_keeps {s : State} {f : Nat} (hk : Keeps st0 s) :
    Keeps st0 (State.touchFrame s f) := by
  unfold State.touchFrame
  repeat' first
    | exact fun h => h
    | with_reducible intro _
    | with_reducible first | assumption | apply State.withPool_keeps

theorem State.fillCache_keeps {s : State} {k plank : Nat} {bs : Bytes} (hk : Keeps st0 s) :
    Keeps st0 (State.fillCache s k plank bs) := by
  unfold State.fillCache
  repeat' first
    | exact fun h => h
    | with_reducible intro _
    | with_reducible first | assumption | apply State.withPool_keeps

theorem State.uncache_keeps {s : State} {plank : Nat} (hk : Keeps st0 s) :
    Keeps st0 (State.uncache s plank) := by
  unfold State.uncache
  repeat' first
    | exact fun h => h
    | with_reducible intro _
    | with_reducible first | assumption | apply State.withPool_keeps

theorem State.setSlot_keeps {s : State} {stream gen : Nat} {b : BasisSlot} (hk : Keeps st0 s) :
    Keeps st0 (State.setSlot s stream gen b) := by
  unfold State.setSlot
  repeat' first
    | exact fun h => h
    | with_reducible first | assumption | apply State.withPool_keeps

theorem State.takeRef_keeps {s : State} {q : Option (Nat × Nat)} (hk : Keeps st0 s) :
    Keeps st0 (State.takeRef s q) := by
  unfold State.takeRef
  repeat' first
    | with_reducible first | assumption | apply State.setSlot_keeps
    | split
    | dsimp only

theorem State.giveRef_keeps {s : State} {q : Option (Nat × Nat)} (hk : Keeps st0 s) :
    Keeps st0 (State.giveRef s q) := by
  unfold State.giveRef
  repeat' first
    | with_reducible first | assumption | apply State.setSlot_keeps
    | split
    | dsimp only

theorem State.storeRef_keeps {s : State} {plank : Nat} {q : Option (Nat × Nat)} (hk : Keeps st0 s) :
    Keeps st0 (State.storeRef s plank q) := by
  unfold State.storeRef
  repeat' first
    | exact fun h => h
    | with_reducible first | assumption | apply State.giveRef_keeps | apply State.withPool_keeps

theorem State.setWork_keeps {s : State} {w : Work} (hk : Keeps st0 s) :
    Keeps st0 (State.setWork s w) := by
  unfold State.setWork
  repeat' first
    | exact fun h => h
    | with_reducible intro _
    | with_reducible first | assumption | apply State.withPool_keeps | apply Keeps.ite
    | split
    | dsimp only

theorem State.endWork_keeps {s : State} {w : Work} (hk : Keeps st0 s) :
    Keeps st0 (State.endWork s w) := by
  unfold State.endWork
  repeat' first
    | exact fun h => h
    | with_reducible intro _
    | with_reducible first | assumption | apply State.withPool_keeps

theorem State.startWork_keeps {s : State} {plank : Nat} {goal : Goal} {stage : Stage} {rank : Nat} {data : Bytes} {ven : Bool} {req : Option Nat} {cluster : Option Nat} {slot : Option (Nat × Nat)} (hk : Keeps st0 s) :
    Keeps st0 (State.startWork s plank goal stage rank data ven req cluster slot) := by
  unfold State.startWork
  repeat' first
    | exact fun h => h
    | with_reducible first | assumption | apply State.withPool_keeps

end Sys2Proof.Machine
end

