-- ==== Sys2Proof/Laws/KeepsTrayOps.lean ====
section
/-!
SUPPORT. What the operations and meanings of Machine/TrayOps.lean keep (`Keeps`).
-/
namespace Sys2Proof.Machine

variable {st0 : State}

theorem State.setTray_keeps {s : State} {t : Nat} {x : Tray} (hk : Keeps st0 s) :
    Keeps st0 (State.setTray s t x) := by
  unfold State.setTray
  repeat' first
    | exact fun h => h
    | with_reducible first | assumption | apply State.withPool_keeps

theorem State.enqueueRaw_keeps {s : State} {p : Port} {c : Cls} {bs : Bytes} (hk : Keeps st0 s) :
    Keeps st0 (State.enqueueRaw s p c bs) := by
  unfold State.enqueueRaw
  repeat' with_reducible first | assumption | apply State.withSw_keeps

theorem State.sendCmd_keeps {s : State} {t q opcode param addr sectors : Nat} {payload : Bytes} {why : CmdFor} {again : Bool} (hk : Keeps st0 s) :
    Keeps st0 (State.sendCmd s t q opcode param addr sectors payload why again) := by
  unfold State.sendCmd
  repeat' first
    | with_reducible first | assumption | apply State.enqueueRaw_keeps | apply State.setTray_keeps | apply State.timedOut_keeps
    | split
    | dsimp only

theorem State.raiseTray_keeps {s : State} {b t : Nat} (hk : Keeps st0 s) :
    Keeps st0 (State.raiseTray s b t) := by
  unfold State.raiseTray
  repeat' with_reducible first | assumption | apply State.raise_keeps

theorem State.note_keeps {s : State} {b t : Nat} (hk : Keeps st0 s) :
    Keeps st0 (State.note s b t) := by
  unfold State.note
  repeat' with_reducible first | assumption | apply State.postEvent_keeps | apply State.record_keeps

theorem State.crossNote_keeps {s : State} {b t : Nat} {past : Bool} (hk : Keeps st0 s) :
    Keeps st0 (State.crossNote s b t past) := by
  unfold State.crossNote
  repeat' first
    | with_reducible first | assumption | apply State.note_keeps | apply State.setTray_keeps | apply Keeps.ite
    | split
    | dsimp only

theorem State.crossShare_keeps {s : State} {t : Nat} (hk : Keeps st0 s) :
    Keeps st0 (State.crossShare s t) := by
  unfold State.crossShare
  repeat' first
    | with_reducible intro _
    | with_reducible first | assumption | apply State.crossNote_keeps
    | dsimp only

theorem State.retireBlock_keeps {s : State} {t b : Nat} (hk : Keeps st0 s) :
    Keeps st0 (State.retireBlock s t b) := by
  unfold State.retireBlock
  repeat' first
    | with_reducible intro _
    | with_reducible first | assumption | apply State.bump_keeps | apply State.crossShare_keeps | apply State.note_keeps | apply State.setTray_keeps | apply step_keeps | apply Keeps.ite
    | split
    | dsimp only

theorem State.settleBlock_keeps {s : State} {t b : Nat} (hk : Keeps st0 s) :
    Keeps st0 (State.settleBlock s t b) := by
  unfold State.settleBlock
  repeat' first
    | with_reducible intro _
    | with_reducible first | assumption | apply State.retireBlock_keeps | apply State.setTray_keeps | apply Keeps.ite
    | dsimp only

theorem State.invalidate_keeps {s : State} {t loc n : Nat} (hk : Keeps st0 s) :
    Keeps st0 (State.invalidate s t loc n) := by
  unfold State.invalidate
  repeat' with_reducible first | assumption | apply State.setTray_keeps | apply State.settleBlock_keeps

theorem State.closeBlock_keeps {s : State} {t b : Nat} (hk : Keeps st0 s) :
    Keeps st0 (State.closeBlock s t b) := by
  unfold State.closeBlock
  repeat' first
    | with_reducible intro _
    | with_reducible first | assumption | apply State.settleBlock_keeps | apply State.setTray_keeps | apply Keeps.ite
    | dsimp only

theorem State.validate_keeps {s : State} {t loc n : Nat} (hk : Keeps st0 s) :
    Keeps st0 (State.validate s t loc n) := by
  unfold State.validate
  repeat' with_reducible first | assumption | apply State.setTray_keeps

theorem State.askErase_keeps {s : State} {t : Nat} {unit : Option Nat} {reloc : Bool} (hk : Keeps st0 s) :
    Keeps st0 (State.askErase s t unit reloc) := by
  unfold State.askErase
  repeat' first
    | with_reducible intro _
    | with_reducible first | assumption | apply State.sendCmd_keeps | apply Keeps.ite
    | split
    | dsimp only

theorem State.placeDemotion_keeps {s : State} {t n : Nat} (hk : Keeps st0 s) :
    Keeps st0 (State.placeDemotion s t n).2 := by
  unfold State.placeDemotion
  try dsimp only
  repeat' first
    | with_reducible first | assumption | apply State.askErase_keeps | apply State.closeBlock_keeps | apply State.setTray_keeps | apply Keeps.ite | apply Keeps.iteSnd | apply Keeps.iteFst
    | split
    | dsimp only

theorem State.placeMove_keeps {s : State} {t n : Nat} {wear : Bool} (hk : Keeps st0 s) :
    Keeps st0 (State.placeMove s t n wear).2 := by
  unfold State.placeMove
  try dsimp only
  repeat' first
    | with_reducible first | assumption | apply State.askErase_keeps | apply State.closeBlock_keeps | apply State.setTray_keeps | apply Keeps.ite | apply Keeps.iteSnd | apply Keeps.iteFst
    | split
    | dsimp only

end Sys2Proof.Machine
end

