-- ==== Sys2Proof/Laws/KeepsServeOps.lean ====
section
/-!
SUPPORT. What the operations and meanings of Machine/ServeOps.lean keep (`Keeps`).
-/
namespace Sys2Proof.Machine

variable {st0 : State}

theorem State.memOp_keeps {s : State} {f : Frame} {rel base : Nat} (hk : Keeps st0 s) :
    Keeps st0 (State.memOp s f rel base).2 := by
  unfold State.memOp
  try dsimp only
  repeat' first
    | with_reducible intro _
    | with_reducible first | assumption | apply State.badRead_keeps | apply State.memWrite_keeps | apply State.writeLines_keeps1 | apply State.writeLines_keeps2 | apply Keeps.ite | apply Keeps.iteSnd | apply Keeps.iteFst
    | with_reducible (apply Keeps.foldl; rotate_left; intro s b hk)
    | with_reducible (apply Keeps.foldlSnd; rotate_left; intro s b hk)
    | with_reducible (apply Keeps.foldlFst; rotate_left; intro s b hk)
    | split
    | dsimp only
    | with_reducible refine Keeps.snd ‹_› ?_
    | with_reducible refine Keeps.fst ‹_› ?_
    | with_reducible refine KeepsOpt.elimFst ‹_› ?_

theorem State.directOp_keeps {s : State} {f : Frame} {o : Nat} (hk : Keeps st0 s) :
    Keeps st0 (State.directOp s f o).2 := by
  unfold State.directOp
  try dsimp only
  repeat' first
    | exact fun h => h
    | with_reducible first | assumption | apply State.memOp_keeps | apply State.withPool_keeps | apply State.zeroPlank_keeps | apply Keeps.ite | apply Keeps.iteSnd | apply Keeps.iteFst
    | split
    | dsimp only

theorem State.scopeWarn_keeps {s : State} {f : Frame} {t : RelTag} {o : Nat} (hk : Keeps st0 s) :
    Keeps st0 (State.scopeWarn s f t o) := by
  unfold State.scopeWarn
  repeat' with_reducible first | assumption | apply State.bump_keeps | apply State.raiseCap_keeps

theorem State.acquireCheck_keeps {s : State} {f : Frame} {o : Nat} {a : Answer} (hk : Keeps st0 s) :
    Keeps st0 (State.acquireCheck s f o a).2 := by
  unfold State.acquireCheck
  try dsimp only
  repeat' first
    | with_reducible first | assumption | apply State.bump_keeps | apply State.scopeWarn_keeps | apply Keeps.ite | apply Keeps.iteSnd | apply Keeps.iteFst
    | split
    | dsimp only

theorem State.recordTag_keeps {s : State} {f : Frame} {o : Nat} (hk : Keeps st0 s) :
    Keeps st0 (State.recordTag s f o) := by
  unfold State.recordTag
  repeat' first
    | exact fun h => h
    | with_reducible intro _
    | with_reducible first | assumption | apply State.bump_keeps | apply State.raise_keeps | apply State.withPool_keeps | apply Keeps.ite
    | with_reducible (apply Keeps.foldl; rotate_left; intro s b hk)
    | split
    | dsimp only
    | with_reducible refine Keeps.snd ‹_› ?_
    | with_reducible refine Keeps.fst ‹_› ?_

theorem State.afterAccess_keeps {s : State} {f : Frame} {o : Nat} {a : Answer} (hk : Keeps st0 s) :
    Keeps st0 (State.afterAccess s f o a).2 := by
  unfold State.afterAccess
  try dsimp only
  repeat' first
    | with_reducible intro _
    | with_reducible first | assumption | apply State.acquireCheck_keeps | apply State.dropTags_keeps | apply State.recordTag_keeps | apply State.uncache_keeps | apply Keeps.ite | apply Keeps.iteSnd | apply Keeps.iteFst
    | with_reducible (apply Keeps.foldl; rotate_left; intro s b hk)
    | with_reducible (apply Keeps.foldlSnd; rotate_left; intro s b hk)
    | with_reducible (apply Keeps.foldlFst; rotate_left; intro s b hk)
    | split
    | dsimp only
    | with_reducible refine Keeps.snd ‹_› ?_
    | with_reducible refine Keeps.fst ‹_› ?_

theorem State.memberDone_keeps {s : State} {id : Nat} {st : Status} (hk : Keeps st0 s) :
    Keeps st0 (State.memberDone s id st) := by
  unfold State.memberDone
  repeat' first
    | exact fun h => h
    | with_reducible intro _
    | with_reducible first | assumption | apply State.withPool_keeps

theorem State.answer_keeps {s : State} {k : Fin 12} {c : Cls} {f : Frame} {a : Answer} (hk : Keeps st0 s) :
    Keeps st0 (State.answer s k c f a) := by
  unfold State.answer
  repeat' first
    | with_reducible first | assumption | apply State.addJob_keeps | apply State.complete_keeps | apply State.refuse_keeps | apply Keeps.ite
    | split
    | dsimp only

theorem State.endServed_keeps {s : State} {r : Served} {a : Answer} (hk : Keeps st0 s) :
    Keeps st0 (State.endServed s r a) := by
  unfold State.endServed
  repeat' first
    | with_reducible intro _
    | with_reducible first | assumption | apply State.answer_keeps | apply State.memberDone_keeps | apply State.withMort_keeps

theorem State.startExpand_keeps {s : State} {plank : Nat} {goal : Goal} {rank : Nat} {e : MapEntry} {req cluster : Option Nat} (hk : Keeps st0 s) :
    Keeps st0 (State.startExpand s plank goal rank e req cluster) := by
  unfold State.startExpand
  repeat' with_reducible first | assumption | apply State.startWork_keeps | apply State.takeRef_keeps

theorem State.startPromotion_keeps {s : State} {plank rank : Nat} (hk : Keeps st0 s) :
    Keeps st0 (State.startPromotion s plank rank) := by
  unfold State.startPromotion
  repeat' with_reducible first | assumption | apply State.setEntry_keeps | apply State.startWork_keeps

theorem State.cancelDemotion_keeps {s : State} {plank : Nat} (hk : Keeps st0 s) :
    Keeps st0 (State.cancelDemotion s plank) := by
  unfold State.cancelDemotion
  repeat' first
    | with_reducible first | assumption | apply State.bump_keeps | apply State.endWork_keeps | apply State.giveRef_keeps | apply State.setEntry_keeps
    | split
    | dsimp only

theorem State.replacePlank_keeps {s : State} {plank : Nat} {bs : Bytes} {ven : Bool} {ref : Option (Nat × Nat)} (hk : Keeps st0 s) :
    KeepsOpt st0 (State.replacePlank s plank bs ven ref) := by
  unfold State.replacePlank
  try dsimp only
  repeat' first
    | with_reducible first | assumption | apply State.dropTags_keeps | apply State.invalidate_keeps | apply State.memWrite_keeps | apply State.putPlank_keeps | apply State.setEntry_keeps | apply State.storeRef_keeps | apply State.takeFrame_keeps | apply State.uncache_keeps | apply Keeps.ite | apply KeepsOpt.ite | apply KeepsOpt.some | exact KeepsOpt.none
    | split
    | dsimp only

theorem State.tieredOp_keeps {s : State} {r : Served} (hk : Keeps st0 s) :
    Keeps st0 (State.tieredOp s r).2 := by
  unfold State.tieredOp
  try dsimp only
  repeat' first
    | with_reducible intro _
    | with_reducible first | assumption | apply State.cancelDemotion_keeps | apply State.fillCache_keeps | apply State.memOp_keeps | apply State.raise_keeps | apply State.replacePlank_keeps | apply State.setEntry_keeps | apply State.startExpand_keeps | apply State.startPromotion_keeps | apply State.startWork_keeps | apply State.takeFrame_keeps | apply State.takeRef_keeps | apply State.touchFrame_keeps | apply State.zeroPlank_keeps | apply Keeps.ite | apply Keeps.iteSnd | apply Keeps.iteFst
    | split
    | dsimp only
    | with_reducible refine Keeps.snd ‹_› ?_
    | with_reducible refine KeepsOpt.elim ‹_› ?_

theorem State.expandFirst_keeps {s : State} {r : Served} (hk : Keeps st0 s) :
    Keeps st0 (State.expandFirst s r) := by
  unfold State.expandFirst
  repeat' first
    | with_reducible intro _
    | with_reducible first | assumption | apply State.startWork_keeps | apply State.takeRef_keeps | apply Keeps.ite
    | split
    | dsimp only

theorem State.attempt_keeps {s : State} {r : Served} (hk : Keeps st0 s) :
    Keeps st0 (State.attempt s r).2 := by
  unfold State.attempt
  try dsimp only
  repeat' first
    | with_reducible first | assumption | apply State.afterAccess_keeps | apply State.directOp_keeps | apply State.expandFirst_keeps | apply State.tieredOp_keeps | apply Keeps.ite | apply Keeps.iteSnd | apply Keeps.iteFst
    | split
    | dsimp only
    | with_reducible refine Keeps.snd ‹_› ?_

theorem State.retryWaiting_keeps {s : State} (hk : Keeps st0 s) :
    Keeps st0 (State.retryWaiting s) := by
  unfold State.retryWaiting
  repeat' first
    | with_reducible intro _
    | with_reducible first | assumption | apply State.attempt_keeps | apply State.endServed_keeps
    | with_reducible (apply Keeps.foldl; rotate_left; intro s b hk)
    | with_reducible (apply Keeps.foldlSnd; rotate_left; intro s b hk)
    | with_reducible (apply Keeps.foldlFst; rotate_left; intro s b hk)
    | split
    | dsimp only
    | with_reducible refine Keeps.snd ‹_› ?_
    | with_reducible refine Keeps.fst ‹_› ?_

theorem State.failWaiting_keeps {s : State} {plank : Nat} {st : Status} (hk : Keeps st0 s) :
    Keeps st0 (State.failWaiting s plank st) := by
  unfold State.failWaiting
  repeat' first
    | with_reducible intro _
    | with_reducible first | assumption | apply State.endServed_keeps
    | with_reducible (apply Keeps.foldl; rotate_left; intro s b hk)

theorem State.serveOwned_keeps {s : State} {r : Served} (hk : Keeps st0 s) :
    Keeps st0 (State.serveOwned s r) := by
  unfold State.serveOwned
  repeat' first
    | with_reducible first | assumption | apply State.answer_keeps | apply State.attempt_keeps | apply State.withMort_keeps
    | split
    | dsimp only
    | with_reducible refine Keeps.snd ‹_› ?_

end Sys2Proof.Machine
end

