-- ==== Sys2Proof/Laws/KeepsEngineOps.lean ====
section
/-!
SUPPORT. What the operations and meanings of Machine/EngineOps.lean keep (`Keeps`).
-/
namespace Sys2Proof.Machine

variable {st0 : State}

theorem State.pumpDemotion_keeps {s : State} {w : Work} (hk : Keeps st0 s) :
    Keeps st0 (State.pumpDemotion s w) := by
  unfold State.pumpDemotion
  repeat' first
    | exact fun h => h
    | with_reducible first | assumption | apply State.placeDemotion_keeps | apply State.sendCmd_keeps | apply State.setWork_keeps | apply State.withPool_keeps | apply Keeps.ite
    | split
    | dsimp only
    | with_reducible refine Keeps.snd ‹_› ?_

theorem State.pumpRead_keeps {s : State} {w : Work} (hk : Keeps st0 s) :
    Keeps st0 (State.pumpRead s w) := by
  unfold State.pumpRead
  repeat' first
    | with_reducible first | assumption | apply State.sendCmd_keeps | apply State.setWork_keeps | apply Keeps.ite
    | split
    | dsimp only

theorem State.pumpWorks_keeps {s : State} (hk : Keeps st0 s) :
    Keeps st0 (State.pumpWorks s) := by
  unfold State.pumpWorks
  repeat' first
    | with_reducible intro _
    | with_reducible first | assumption | apply State.pumpDemotion_keeps | apply State.pumpRead_keeps | apply Keeps.ite
    | with_reducible (apply Keeps.foldl; rotate_left; intro s b hk)
    | split
    | dsimp only

theorem State.pumpMoves_keeps {s : State} {t : Nat} (hk : Keeps st0 s) :
    Keeps st0 (State.pumpMoves s t) := by
  unfold State.pumpMoves
  repeat' first
    | with_reducible intro _
    | with_reducible first | assumption | apply State.placeMove_keeps | apply State.sendCmd_keeps | apply State.setTray_keeps | apply Keeps.ite
    | with_reducible (apply Keeps.foldl; rotate_left; intro s b hk)
    | with_reducible (apply Keeps.foldlSnd; rotate_left; intro s b hk)
    | with_reducible (apply Keeps.foldlFst; rotate_left; intro s b hk)
    | split
    | dsimp only
    | with_reducible refine Keeps.snd ‹_› ?_
    | with_reducible refine Keeps.fst ‹_› ?_

theorem State.pump_keeps {s : State} (hk : Keeps st0 s) :
    Keeps st0 (State.pump s) := by
  unfold State.pump
  repeat' first
    | with_reducible intro _
    | with_reducible first | assumption | apply State.pumpMoves_keeps | apply State.pumpWorks_keeps
    | with_reducible (apply Keeps.foldl; rotate_left; intro s b hk)

theorem State.raisePool_keeps {s : State} {b : Nat} {f : Option Frame} (hk : Keeps st0 s) :
    Keeps st0 (State.raisePool s b f) := by
  unfold State.raisePool
  repeat' first
    | with_reducible first | assumption | apply State.raise_keeps
    | split
    | dsimp only

theorem State.suspectBlock_keeps {s : State} {t addr : Nat} (hk : Keeps st0 s) :
    Keeps st0 (State.suspectBlock s t addr) := by
  unfold State.suspectBlock
  repeat' first
    | with_reducible intro _
    | with_reducible first | assumption | apply State.note_keeps | apply State.setTray_keeps | apply Keeps.ite
    | split
    | dsimp only

theorem State.readFailed_keeps {s : State} {w : Work} (hk : Keeps st0 s) :
    Keeps st0 (State.readFailed s w) := by
  unfold State.readFailed
  repeat' first
    | with_reducible intro _
    | with_reducible first | assumption | apply State.endServed_keeps | apply State.endWork_keeps | apply State.failWaiting_keeps | apply State.raisePool_keeps | apply State.setEntry_keeps | apply Keeps.ite
    | split
    | dsimp only

theorem State.programFailed_keeps {s : State} {w : Work} (hk : Keeps st0 s) :
    Keeps st0 (State.programFailed s w) := by
  unfold State.programFailed
  repeat' first
    | with_reducible first | assumption | apply State.bump_keeps | apply State.endWork_keeps | apply State.giveRef_keeps | apply State.raiseTray_keeps | apply State.setEntry_keeps | apply State.setWork_keeps | apply Keeps.ite
    | split
    | dsimp only

theorem State.commitDemotion_keeps {s : State} {w : Work} (hk : Keeps st0 s) :
    Keeps st0 (State.commitDemotion s w) := by
  unfold State.commitDemotion
  repeat' first
    | with_reducible first | assumption | apply State.bump_keeps | apply State.dropFrame_keeps | apply State.dropTags_keeps | apply State.endWork_keeps | apply State.giveRef_keeps | apply State.retryWaiting_keeps | apply State.setEntry_keeps | apply State.storeRef_keeps | apply State.uncache_keeps | apply State.validate_keeps | apply Keeps.ite
    | split
    | dsimp only

theorem State.settleFrame_keeps {s : State} {w : Work} (hk : Keeps st0 s) :
    KeepsOpt st0 (State.settleFrame s w) := by
  unfold State.settleFrame
  try dsimp only
  repeat' first
    | with_reducible first | assumption | apply State.memWrite_keeps | apply State.putPlank_keeps | apply State.setEntry_keeps | apply State.takeFrame_keeps | apply Keeps.ite | apply KeepsOpt.ite | apply KeepsOpt.some | exact KeepsOpt.none
    | split
    | dsimp only

theorem State.commitWork_keeps {s : State} {w : Work} (hk : Keeps st0 s) :
    Keeps st0 (State.commitWork s w) := by
  unfold State.commitWork
  repeat' first
    | with_reducible intro _
    | with_reducible first | assumption | apply State.afterAccess_keeps | apply State.bump_keeps | apply State.directOp_keeps | apply State.dropFrame_keeps | apply State.dropTags_keeps | apply State.endServed_keeps | apply State.endWork_keeps | apply State.giveRef_keeps | apply State.invalidate_keeps | apply State.replacePlank_keeps | apply State.retryWaiting_keeps | apply State.settleFrame_keeps | apply State.storeRef_keeps | apply State.withMort_keeps | apply Keeps.ite
    | split
    | dsimp only
    | with_reducible refine Keeps.snd ‹_› ?_
    | with_reducible refine KeepsOpt.elim ‹_› ?_

theorem State.pin_keeps {s : State} {plank : Nat} (hk : Keeps st0 s) :
    Keeps st0 (State.pin s plank) := by
  unfold State.pin
  repeat' first
    | exact fun h => h
    | with_reducible first | assumption | apply State.bump_keeps | apply State.raiseTray_keeps | apply State.withPool_keeps | apply Keeps.ite
    | split
    | dsimp only

theorem State.startDemotion_keeps {s : State} {plank rank : Nat} (hk : Keeps st0 s) :
    Keeps st0 (State.startDemotion s plank rank) := by
  unfold State.startDemotion
  repeat' first
    | with_reducible first | assumption | apply State.pin_keeps | apply State.setEntry_keeps | apply State.startWork_keeps | apply State.takeRef_keeps | apply Keeps.ite
    | split
    | dsimp only

theorem State.startPack_keeps {s : State} {plank : Nat} (hk : Keeps st0 s) :
    Keeps st0 (State.startPack s plank) := by
  unfold State.startPack
  repeat' with_reducible first | assumption | apply State.startWork_keeps | apply State.takeRef_keeps

theorem State.cancelWork_keeps {s : State} {w : Work} (hk : Keeps st0 s) :
    Keeps st0 (State.cancelWork s w) := by
  unfold State.cancelWork
  repeat' first
    | with_reducible first | assumption | apply State.endWork_keeps | apply State.giveRef_keeps | apply State.setEntry_keeps | apply Keeps.ite
    | split
    | dsimp only

theorem State.workRead_keeps {s : State} {t : Nat} {w : Work} {r : TrayResult} {data : Bytes} (hk : Keeps st0 s) :
    Keeps st0 (State.workRead s t w r data) := by
  unfold State.workRead
  repeat' first
    | with_reducible first | assumption | apply State.bump_keeps | apply State.endServed_keeps | apply State.endWork_keeps | apply State.raiseTray_keeps | apply State.readFailed_keeps | apply State.retireBlock_keeps | apply State.retryWaiting_keeps | apply State.setWork_keeps | apply State.suspectBlock_keeps | apply State.takeRef_keeps | apply Keeps.ite
    | split
    | dsimp only

theorem State.workProgrammed_keeps {s : State} {t addr : Nat} {w : Work} {r : TrayResult} (hk : Keeps st0 s) :
    Keeps st0 (State.workProgrammed s t addr w r) := by
  unfold State.workProgrammed
  repeat' first
    | with_reducible first | assumption | apply State.commitDemotion_keeps | apply State.programFailed_keeps | apply State.retireBlock_keeps | apply State.closeBlock_keeps
    | split
    | dsimp only

theorem State.moveDone_keeps {s : State} {t addr plank loc : Nat} {n : Nat} (hk : Keeps st0 s) :
    Keeps st0 (State.moveDone s t addr plank loc n) := by
  unfold State.moveDone
  repeat' first
    | with_reducible first | assumption | apply State.invalidate_keeps | apply State.setEntry_keeps | apply State.validate_keeps | apply Keeps.ite
    | split
    | dsimp only

theorem State.openErased_keeps {s : State} {t b : Nat} {reloc : Bool} (hk : Keeps st0 s) :
    Keeps st0 (State.openErased s t b reloc) := by
  unfold State.openErased
  repeat' first
    | with_reducible first | assumption | apply State.crossShare_keeps | apply State.setTray_keeps | apply Keeps.ite
    | split
    | dsimp only

theorem State.trayEvent_keeps {s : State} {t param addr : Nat} (hk : Keeps st0 s) :
    Keeps st0 (State.trayEvent s t param addr) := by
  unfold State.trayEvent
  repeat' first
    | with_reducible first | assumption | apply State.note_keeps | apply State.retireBlock_keeps | apply State.setTray_keeps | apply Keeps.ite
    | split
    | dsimp only

theorem State.cmdEnded_keeps {s : State} {t : Nat} {c : TrayCmd} {r : TrayResult} {param addr : Nat} {data : Bytes} (hk : Keeps st0 s) :
    Keeps st0 (State.cmdEnded s t c r param addr data) := by
  unfold State.cmdEnded
  repeat' first
    | with_reducible intro _
    | with_reducible first | assumption | apply State.bump_keeps | apply State.closeBlock_keeps | apply State.moveDone_keeps | apply State.openErased_keeps | apply State.raise_keeps | apply State.retireBlock_keeps | apply State.sendCmd_keeps | apply State.setTray_keeps | apply State.suspectBlock_keeps | apply State.trayEvent_keeps | apply State.workProgrammed_keeps | apply State.workRead_keeps | apply Keeps.ite
    | with_reducible (apply Keeps.foldl; rotate_left; intro s b hk)
    | split
    | dsimp only
    | with_reducible refine Keeps.snd ‹_› ?_
    | with_reducible refine Keeps.fst ‹_› ?_

theorem State.endCmd_keeps {s : State} {t : Nat} {c : TrayCmd} {r : TrayResult} {param addr : Nat} {data : Bytes} (hk : Keeps st0 s) :
    Keeps st0 (State.endCmd s t c r param addr data) := by
  unfold State.endCmd
  repeat' first
    | with_reducible intro _
    | with_reducible first | assumption | apply State.cmdEnded_keeps | apply State.pump_keeps | apply State.setTray_keeps | apply State.settleBlock_keeps | apply State.timedOut_keeps | apply Keeps.ite
    | split
    | dsimp only

theorem State.loseTray_keeps {s : State} {t : Nat} (hk : Keeps st0 s) :
    Keeps st0 (State.loseTray s t) := by
  unfold State.loseTray
  repeat' first
    | with_reducible intro _
    | with_reducible first | assumption | apply State.programFailed_keeps | apply State.pump_keeps | apply State.raiseTray_keeps | apply State.readFailed_keeps | apply State.setTray_keeps | apply Keeps.ite
    | with_reducible (apply Keeps.foldl; rotate_left; intro s b hk)
    | split
    | dsimp only
    | with_reducible refine Keeps.snd ‹_› ?_
    | with_reducible refine Keeps.fst ‹_› ?_

end Sys2Proof.Machine
end

