-- ==== Sys2Proof/Laws/KeepsDirOps.lean ====
section
/-!
SUPPORT. What the operations and meanings of Machine/DirOps.lean keep (`Keeps`).
-/
namespace Sys2Proof.Machine

variable {st0 : State}

theorem State.setDir_keeps {s : State} {line : Nat} {e : DirEntry} (hk : Keeps st0 s) :
    Keeps st0 (State.setDir s line e) := by
  unfold State.setDir
  repeat' first
    | with_reducible first | assumption | apply State.withDir_keeps | apply Keeps.ite
    | split
    | dsimp only

theorem State.raiseDir_keeps {s : State} {b : Nat} {a : AgentId} {line : Nat} (hk : Keeps st0 s) :
    Keeps st0 (State.raiseDir s b a line) := by
  unfold State.raiseDir
  repeat' with_reducible first | assumption | apply State.raise_keeps

theorem State.lineData_keeps {s : State} {line : Nat} (hk : Keeps st0 s) :
    Keeps st0 (State.lineData s line).2 := by
  unfold State.lineData
  try dsimp only
  repeat' first
    | with_reducible first | assumption | apply State.directOp_keeps | apply Keeps.ite | apply Keeps.iteSnd | apply Keeps.iteFst
    | split
    | dsimp only
    | with_reducible refine Keeps.snd ‹_› ?_

theorem State.putLine_keeps {s : State} {line : Nat} {bs : Bytes} (hk : Keeps st0 s) :
    Keeps st0 (State.putLine s line bs) := by
  unfold State.putLine
  repeat' with_reducible first | assumption | apply State.directOp_keeps | apply State.dropTags_keeps

theorem State.deliverSnoop_keeps {s : State} {f : Frame} {agent : AgentId} {line : Nat} (hk : Keeps st0 s) :
    Keeps st0 (State.deliverSnoop s f agent line) := by
  unfold State.deliverSnoop
  repeat' first
    | with_reducible first | assumption | apply State.raiseDir_keeps | apply State.toPort_keeps | apply Keeps.ite
    | split
    | dsimp only

theorem State.sendSnoop_keeps {s : State} {line : Nat} {agent : AgentId} {kind : BitVec 8} (hk : Keeps st0 s) :
    Keeps st0 (State.sendSnoop s line agent kind).2 := by
  unfold State.sendSnoop
  try dsimp only
  repeat' first
    | with_reducible first | assumption | apply State.bump_keeps | apply State.deliverSnoop_keeps | apply State.noRoute_keeps | apply State.toPort_keeps | apply State.withDir_keeps | apply Keeps.ite | apply Keeps.iteSnd | apply Keeps.iteFst
    | split
    | dsimp only

theorem State.sendSnoops_keeps {s : State} {line : Nat} {agents : List AgentId} {kind : BitVec 8} (hk : Keeps st0 s) :
    Keeps st0 (State.sendSnoops s line agents kind).2 := by
  unfold State.sendSnoops
  try dsimp only
  repeat' first
    | with_reducible intro _
    | with_reducible first | assumption | apply State.sendSnoop_keeps
    | with_reducible (apply Keeps.foldl; rotate_left; intro s b hk)
    | with_reducible (apply Keeps.foldlSnd; rotate_left; intro s b hk)
    | with_reducible (apply Keeps.foldlFst; rotate_left; intro s b hk)
    | split
    | dsimp only
    | with_reducible refine Keeps.snd ‹_› ?_
    | with_reducible refine Keeps.fst ‹_› ?_

theorem State.ageSeen_keeps {s : State} {q : DirReq} (hk : Keeps st0 s) :
    Keeps st0 (State.ageSeen s q) := by
  unfold State.ageSeen
  repeat' first
    | with_reducible first | assumption | apply State.wr_keeps | apply Keeps.ite
    | split
    | dsimp only

theorem State.dirAnswer_keeps {s : State} {q : DirReq} {st : Status} {grant : Nat} {line : Bytes} (hk : Keeps st0 s) :
    Keeps st0 (State.dirAnswer s q st grant line) := by
  unfold State.dirAnswer
  repeat' first
    | with_reducible first | assumption | apply State.ageSeen_keeps | apply State.bump_keeps | apply State.complete_keeps | apply Keeps.ite
    | split
    | dsimp only

theorem State.lineDone_keeps {s : State} {q : DirReq} {a : Answer} (hk : Keeps st0 s) :
    Keeps st0 (State.lineDone s q a).1 := by
  unfold State.lineDone
  try dsimp only
  repeat' first
    | with_reducible intro _
    | with_reducible first | assumption | apply State.ageSeen_keeps | apply State.endServed_keeps | apply State.withMort_keeps | apply Keeps.ite | apply Keeps.iteSnd | apply Keeps.iteFst
    | split
    | dsimp only

theorem State.performLine_keeps {s : State} {q : DirReq} {poison : Bool} (hk : Keeps st0 s) :
    Keeps st0 (State.performLine s q poison).1 := by
  unfold State.performLine
  try dsimp only
  repeat' first
    | with_reducible first | assumption | apply State.afterAccess_keeps | apply State.directOp_keeps | apply State.lineDone_keeps | apply State.poison_keeps | apply Keeps.ite | apply Keeps.iteSnd | apply Keeps.iteFst
    | split
    | dsimp only
    | with_reducible refine Keeps.snd ‹_› ?_
    | with_reducible refine Keeps.fst ‹_› ?_

theorem State.addSharer_keeps {s : State} {line : Nat} {e : DirEntry} {a : AgentId} (hk : Keeps st0 s) :
    Keeps st0 (State.addSharer s line e a) := by
  unfold State.addSharer
  repeat' first
    | with_reducible first | assumption | apply State.setDir_keeps | apply Keeps.ite
    | split
    | dsimp only

theorem State.setTracker_keeps {s : State} {n : Nat} {t : Option Tracker} (hk : Keeps st0 s) :
    Keeps st0 (State.setTracker s n t) := by
  unfold State.setTracker
  repeat' with_reducible first | assumption | apply State.withDir_keeps

theorem State.holdReq_keeps {s : State} {q : DirReq} (hk : Keeps st0 s) :
    Keeps st0 (State.holdReq s q).1 := by
  unfold State.holdReq
  try dsimp only
  repeat' first
    | with_reducible first | assumption | apply State.dirAnswer_keeps | apply State.lineDone_keeps | apply State.raiseDir_keeps | apply State.withDir_keeps | apply Keeps.ite | apply Keeps.iteSnd | apply Keeps.iteFst
    | split
    | dsimp only
    | with_reducible refine Keeps.fst ‹_› ?_

theorem State.openTracker_keeps {s : State} {n : Nat} {q : DirReq} {state : DirSt} {e : DirEntry} {snoops : List Snoop} (hk : Keeps st0 s) :
    Keeps st0 (State.openTracker s n q state e snoops) := by
  unfold State.openTracker
  repeat' with_reducible first | assumption | apply State.setDir_keeps | apply State.setTracker_keeps

theorem State.poison_keeps {s : State} {line : Nat} (hk : Keeps st0 s) :
    Keeps st0 (State.poison s line) := by
  unfold State.poison
  repeat' with_reducible first | assumption | apply State.setDir_keeps

theorem State.servePoisoned_keeps {s : State} {q : DirReq} (hk : Keeps st0 s) :
    Keeps st0 (State.servePoisoned s q).1 := by
  unfold State.servePoisoned
  try dsimp only
  repeat' first
    | with_reducible first | assumption | apply State.dirAnswer_keeps | apply State.lineData_keeps | apply State.performLine_keeps | apply State.poison_keeps | apply State.setDir_keeps | apply State.wr_keeps | apply Keeps.ite | apply Keeps.iteSnd | apply Keeps.iteFst
    | split
    | dsimp only
    | with_reducible refine Keeps.snd ‹_› ?_
    | with_reducible refine Keeps.fst ‹_› ?_

theorem State.finishActive_keeps {s : State} {q : DirReq} {e : DirEntry} {kept : Bool} (hk : Keeps st0 s) :
    Keeps st0 (State.finishActive s q e kept).1 := by
  unfold State.finishActive
  try dsimp only
  repeat' first
    | with_reducible first | assumption | apply State.addSharer_keeps | apply State.dirAnswer_keeps | apply State.dropTags_keeps | apply State.lineData_keeps | apply State.performLine_keeps | apply State.setDir_keeps | apply State.wr_keeps | apply Keeps.ite | apply Keeps.iteSnd | apply Keeps.iteFst
    | split
    | dsimp only
    | with_reducible refine Keeps.snd ‹_› ?_
    | with_reducible refine Keeps.fst ‹_› ?_

theorem State.startEvict_keeps {s : State} {n : Nat} {line : Nat} {e : DirEntry} {ask : DirAsk} (hk : Keeps st0 s) :
    Keeps st0 (State.startEvict s n line e ask) := by
  unfold State.startEvict
  repeat' first
    | with_reducible first | assumption | apply State.openTracker_keeps | apply State.sendSnoops_keeps | apply Keeps.ite
    | split
    | dsimp only
    | with_reducible refine Keeps.snd ‹_› ?_

theorem State.dirServe_keeps {s : State} {n : Nat} {q : DirReq} (hk : Keeps st0 s) :
    Keeps st0 (State.dirServe s n q).1 := by
  unfold State.dirServe
  try dsimp only
  repeat' first
    | with_reducible intro _
    | with_reducible first | assumption | apply State.bump_keeps | apply State.dirAnswer_keeps | apply State.finishActive_keeps | apply State.holdReq_keeps | apply State.openTracker_keeps | apply State.performLine_keeps | apply State.raiseDir_keeps | apply State.sendSnoops_keeps | apply State.servePoisoned_keeps | apply State.startEvict_keeps | apply State.wr_keeps | apply Keeps.ite | apply Keeps.iteSnd | apply Keeps.iteFst
    | split
    | dsimp only
    | with_reducible refine Keeps.snd ‹_› ?_
    | with_reducible refine Keeps.fst ‹_› ?_

theorem State.poisonTracker_keeps {s : State} {n : Nat} {t : Tracker} (hk : Keeps st0 s) :
    Keeps st0 (State.poisonTracker s n t).1 := by
  unfold State.poisonTracker
  try dsimp only
  repeat' first
    | with_reducible intro _
    | with_reducible first | assumption | apply State.complete_keeps | apply State.poison_keeps | apply State.setTracker_keeps
    | with_reducible (apply Keeps.foldl; rotate_left; intro s b hk)
    | with_reducible (apply Keeps.foldlSnd; rotate_left; intro s b hk)
    | with_reducible (apply Keeps.foldlFst; rotate_left; intro s b hk)
    | split
    | dsimp only
    | with_reducible refine Keeps.snd ‹_› ?_
    | with_reducible refine Keeps.fst ‹_› ?_

theorem State.dirOne_keeps {s : State} {q : DirReq} (hk : Keeps st0 s) :
    Keeps st0 (State.dirOne s q).1 := by
  unfold State.dirOne
  try dsimp only
  repeat' first
    | with_reducible intro _
    | with_reducible first | assumption | apply State.dirServe_keeps | apply State.holdReq_keeps | apply State.poison_keeps | apply State.poisonTracker_keeps | apply State.raiseDir_keeps | apply State.setTracker_keeps | apply State.wr_keeps | apply Keeps.ite | apply Keeps.iteSnd | apply Keeps.iteFst
    | split
    | dsimp only
    | with_reducible refine Keeps.fst ‹_› ?_

theorem dirRun_keeps {fuel : Nat} {s : State} {qs : List DirReq} (hk : Keeps st0 s) : Keeps st0 (dirRun fuel s qs) := by
  induction fuel generalizing s qs with
  | zero => exact hk
  | succ fuel ih =>
    cases qs with
    | nil => exact hk
    | cons q rest => exact ih (State.dirOne_keeps hk)

theorem State.retryHold_keeps {s : State} (hk : Keeps st0 s) :
    Keeps st0 (State.retryHold s) := by
  unfold State.retryHold
  repeat' first
    | with_reducible intro _
    | with_reducible first | assumption | apply State.withDir_keeps | apply dirRun_keeps | apply Keeps.ite
    | with_reducible (apply Keeps.foldl; rotate_left; intro s b hk)
    | split
    | dsimp only
    | with_reducible refine Keeps.snd ‹_› ?_
    | with_reducible refine Keeps.fst ‹_› ?_

theorem State.dirGo_keeps {s : State} {qs : List DirReq} (hk : Keeps st0 s) :
    Keeps st0 (State.dirGo s qs) := by
  unfold State.dirGo
  repeat' with_reducible first | assumption | apply State.retryHold_keeps | apply dirRun_keeps

theorem State.finishTracker_keeps {s : State} {n : Nat} {t : Tracker} {e : DirEntry} {kept : Bool} (hk : Keeps st0 s) :
    Keeps st0 (State.finishTracker s n t e kept) := by
  unfold State.finishTracker
  repeat' first
    | with_reducible intro _
    | with_reducible first | assumption | apply State.complete_keeps | apply State.dirGo_keeps | apply State.finishActive_keeps | apply State.setTracker_keeps
    | with_reducible (apply Keeps.foldl; rotate_left; intro s b hk)
    | with_reducible (apply Keeps.foldlSnd; rotate_left; intro s b hk)
    | with_reducible (apply Keeps.foldlFst; rotate_left; intro s b hk)
    | split
    | dsimp only
    | with_reducible refine Keeps.snd ‹_› ?_
    | with_reducible refine Keeps.fst ‹_› ?_

theorem State.serveShared_keeps {s : State} {r : Served} (hk : Keeps st0 s) :
    Keeps st0 (State.serveShared s r) := by
  unfold State.serveShared
  repeat' first
    | with_reducible first | assumption | apply State.dirGo_keeps | apply State.endServed_keeps | apply State.withMort_keeps
    | split
    | dsimp only

end Sys2Proof.Machine
end

