-- ==== Sys2Proof/Laws/KeepsKeys.lean ====
section
/-!
SUPPORT. What the operations and meanings of Machine/Keys.lean keep (`Keeps`).
-/
namespace Sys2Proof.Machine

variable {st0 : State}

theorem State.raiseSec_keeps {s : State} {b source unit : Nat} (hk : Keeps st0 s) :
    Keeps st0 (State.raiseSec s b source unit) := by
  unfold State.raiseSec
  repeat' with_reducible first | assumption | apply State.raise_keeps

theorem State.randomBytes_keeps {s : State} {n : Nat} (hk : Keeps st0 s) :
    Keeps st0 (State.randomBytes s n).2 := by
  unfold State.randomBytes
  try dsimp only
  repeat' first
    | exact Nat.le_add_right _ _
    | with_reducible first | assumption | apply State.withFree_keeps

theorem State.modKex_keeps {s : State} {l : LinkId} {f : Kex → Kex} (hk : Keeps st0 s) :
    Keeps st0 (State.modKex s l f) := by
  unfold State.modKex
  repeat' first
    | with_reducible intro _
    | with_reducible first | assumption | apply State.modLink_keeps

theorem State.kexHeard_keeps {s : State} {l : LinkId} (hk : Keeps st0 s) :
    Keeps st0 (State.kexHeard s l) := by
  unfold State.kexHeard
  repeat' first
    | with_reducible intro _
    | with_reducible first | assumption | apply State.modKex_keeps

theorem State.kexTake_keeps {s : State} {l : LinkId} {msg : BitVec 8} (hk : Keeps st0 s) :
    KeepsPair st0 (State.kexTake s l msg) := by
  unfold State.kexTake
  try dsimp only
  repeat' first
    | with_reducible intro _
    | with_reducible first | assumption | apply State.modKex_keeps | apply Keeps.ite | apply KeepsPair.ite | apply KeepsPair.some | exact KeepsPair.none
    | split
    | dsimp only

theorem State.kexRefuse_keeps {s : State} {l : LinkId} {untrusted : Bool} (hk : Keeps st0 s) :
    Keeps st0 (State.kexRefuse s l untrusted) := by
  unfold State.kexRefuse
  repeat' first
    | with_reducible intro _
    | with_reducible first | assumption | apply State.bump_keeps | apply State.kexHeard_keeps | apply State.modKex_keeps | apply State.raiseSec_keeps | apply State.sendMsg_keeps | apply Keeps.ite
    | split
    | dsimp only

theorem State.enterSecure_keeps {s : State} {l : LinkId} (hk : Keeps st0 s) :
    Keeps st0 (State.enterSecure s l) := by
  unfold State.enterSecure
  repeat' first
    | with_reducible intro _
    | with_reducible first | assumption | apply State.enter_keeps | apply State.modKex_keeps | apply State.randomBytes_keeps | apply State.sendMsg_keeps | apply Keeps.ite
    | split
    | dsimp only
    | with_reducible refine Keeps.snd ‹_› ?_

theorem State.enterConfig_keeps {s : State} {l : LinkId} (hk : Keeps st0 s) :
    Keeps st0 (State.enterConfig s l) := by
  unfold State.enterConfig
  repeat' first
    | with_reducible intro _
    | with_reducible first | assumption | apply State.enter_keeps | apply State.modLink_keeps | apply State.raisePort_keeps | apply Keeps.ite
    | split
    | dsimp only

theorem State.kexDone_keeps {s : State} {l : LinkId} (hk : Keeps st0 s) :
    Keeps st0 (State.kexDone s l) := by
  unfold State.kexDone
  repeat' first
    | with_reducible first | assumption | apply State.bump_keeps | apply State.enterConfig_keeps | apply Keeps.ite
    | split
    | dsimp only

theorem State.sendFinished_keeps {s : State} {l : LinkId} {k : Bytes} (hk : Keeps st0 s) :
    Keeps st0 (State.sendFinished s l k) := by
  unfold State.sendFinished
  repeat' first
    | with_reducible intro _
    | with_reducible first | assumption | apply State.modKex_keeps | apply State.sendMsg_keeps | apply Keeps.ite
    | split
    | dsimp only

theorem State.startRekey_keeps {s : State} {l : LinkId} (hk : Keeps st0 s) :
    Keeps st0 (State.startRekey s l) := by
  unfold State.startRekey
  repeat' first
    | with_reducible intro _
    | with_reducible first | assumption | apply State.draw_keeps | apply State.modKex_keeps | apply State.sendMsg_keeps | apply Keeps.ite
    | split
    | dsimp only
    | with_reducible refine Keeps.snd ‹_› ?_

theorem State.setNextKey_keeps {s : State} {l : LinkId} {ss : Bytes} (hk : Keeps st0 s) :
    Keeps st0 (State.setNextKey s l ss) := by
  unfold State.setNextKey
  repeat' first
    | with_reducible intro _
    | with_reducible first | assumption | apply State.modLink_keeps

theorem State.setSwitch_keeps {s : State} {l : LinkId} {n : Nat} (hk : Keeps st0 s) :
    Keeps st0 (State.setSwitch s l n) := by
  unfold State.setSwitch
  repeat' first
    | with_reducible intro _
    | with_reducible first | assumption | apply State.modLink_keeps

theorem State.announceKey_keeps {s : State} {l : LinkId} (hk : Keeps st0 s) :
    Keeps st0 (State.announceKey s l) := by
  unfold State.announceKey
  repeat' with_reducible first | assumption | apply State.sendCtl_keeps | apply State.setSwitch_keeps

end Sys2Proof.Machine
end

