-- ==== Sys2Proof/Laws/KeepsLinkRows.lean ====
section
/-!
SUPPORT. What the operations and meanings of Machine/LinkRows.lean keep (`Keeps`).
-/
namespace Sys2Proof.Machine

variable {st0 : State}

theorem State.writePortCfg_keeps {s : State} {p : Port} {v : Word} (hk : Keeps st0 s) :
    Keeps st0 (State.writePortCfg s p v) := by
  unfold State.writePortCfg
  repeat' first
    | with_reducible intro _
    | with_reducible first | assumption | apply State.raisePort_keeps | apply State.toDetect_keeps | apply State.wr_keeps | apply Keeps.ite
    | with_reducible (apply Keeps.foldl; rotate_left; intro s b hk)
    | split
    | dsimp only
    | with_reducible refine Keeps.snd ‹_› ?_
    | with_reducible refine Keeps.fst ‹_› ?_

theorem execPortCfgWrite_keeps {h : HostPort} {p : Port} {v : Word} {s : State} (hk : Keeps st0 s) :
    KeepsNext st0 (execPortCfgWrite h p v s) := by
  unfold execPortCfgWrite
  repeat' first
    | with_reducible intro _
    | with_reducible first | assumption | apply State.hostWriteRwl_keeps | apply State.writePortCfg_keeps | apply KeepsNext.next

theorem State.retrainLink_keeps {s : State} {l : LinkId} (hk : Keeps st0 s) :
    Keeps st0 (State.retrainLink s l) := by
  unfold State.retrainLink
  repeat' first
    | with_reducible first | assumption | apply State.toDetect_keeps | apply Keeps.ite
    | split
    | dsimp only

theorem State.retrain_keeps {s : State} {p : Port} (hk : Keeps st0 s) :
    Keeps st0 (State.retrain s p) := by
  unfold State.retrain
  repeat' first
    | with_reducible intro _
    | with_reducible first | assumption | apply State.retrainLink_keeps | apply State.startTraining_keeps | apply Keeps.ite
    | with_reducible (apply Keeps.foldl; rotate_left; intro s b hk)
    | split
    | dsimp only

theorem execPortRetrain_keeps {h : HostPort} {p : Port} {s : State} (hk : Keeps st0 s) :
    KeepsNext st0 (execPortRetrain h p s) := by
  unfold execPortRetrain
  repeat' first
    | with_reducible intro _
    | with_reducible first | assumption | apply State.hostWrite_keeps | apply State.retrain_keeps | apply KeepsNext.next

theorem State.disablePort_keeps {s : State} {p : Port} (hk : Keeps st0 s) :
    Keeps st0 (State.disablePort s p) := by
  unfold State.disablePort
  repeat' first
    | with_reducible intro _
    | with_reducible first | assumption | apply State.toDisabled_keeps | apply Keeps.ite
    | with_reducible (apply Keeps.foldl; rotate_left; intro s b hk)
    | split
    | dsimp only

theorem execPortDisable_keeps {h : HostPort} {p : Port} {s : State} (hk : Keeps st0 s) :
    KeepsNext st0 (execPortDisable h p s) := by
  unfold execPortDisable
  repeat' first
    | with_reducible intro _
    | with_reducible first | assumption | apply State.disablePort_keeps | apply State.hostWrite_keeps | apply KeepsNext.next

theorem State.rekeyPort_keeps {s : State} {p : Port} (hk : Keeps st0 s) :
    Keeps st0 (State.rekeyPort s p) := by
  unfold State.rekeyPort
  repeat' first
    | with_reducible first | assumption | apply State.startRekey_keeps
    | with_reducible (apply Keeps.foldl; rotate_left; intro s b hk)

theorem execPortRekey_keeps {h : HostPort} {p : Port} {s : State} (hk : Keeps st0 s) :
    KeepsNext st0 (execPortRekey h p s) := by
  unfold execPortRekey
  repeat' first
    | with_reducible intro _
    | with_reducible first | assumption | apply State.hostWrite_keeps | apply State.rekeyPort_keeps | apply KeepsNext.next

theorem State.clearPort_keeps {s : State} {p : Port} (hk : Keeps st0 s) :
    Keeps st0 (State.clearPort s p) := by
  unfold State.clearPort
  repeat' first
    | with_reducible intro _
    | with_reducible first | assumption | apply State.wr_keeps | apply State.zeroRegs_keeps

theorem execPortClrCounters_keeps {h : HostPort} {p : Port} {s : State} (hk : Keeps st0 s) :
    KeepsNext st0 (execPortClrCounters h p s) := by
  unfold execPortClrCounters
  repeat' first
    | with_reducible intro _
    | with_reducible first | assumption | apply State.clearPort_keeps | apply State.hostWrite_keeps | apply KeepsNext.next

theorem State.leaveDetect_keeps {s : State} {l : LinkId} {lanes : BitVec 16} (hk : Keeps st0 s) :
    Keeps st0 (State.leaveDetect s l lanes) := by
  unfold State.leaveDetect
  repeat' first
    | with_reducible intro _
    | with_reducible first | assumption | apply State.disablePort_keeps | apply State.enter_keeps | apply State.modLink_keeps | apply State.raisePort_keeps | apply State.startTraining_keeps | apply State.toDisabled_keeps | apply Keeps.ite
    | split
    | dsimp only

theorem execSignalDetect_keeps {l : LinkId} {lanes : BitVec 16} {s : State} (hk : Keeps st0 s) :
    KeepsNext st0 (execSignalDetect l lanes s) := by
  unfold execSignalDetect
  repeat' first
    | with_reducible first | assumption | apply State.leaveDetect_keeps | apply Keeps.ite | apply KeepsNext.ite | apply KeepsNext.next
    | split
    | dsimp only

theorem execEqLowDone_keeps {l : LinkId} {lanes : BitVec 16} {s : State} (hk : Keeps st0 s) :
    KeepsNext st0 (execEqLowDone l lanes s) := by
  unfold execEqLowDone
  repeat' first
    | with_reducible intro _
    | with_reducible first | assumption | apply State.enter_keeps | apply State.modLink_keeps | apply Keeps.ite | apply KeepsNext.ite | apply KeepsNext.next
    | split
    | dsimp only

theorem execLaneMapDone_keeps {l : LinkId} {reversed : Bool} {inverted : BitVec 4} {s : State} (hk : Keeps st0 s) :
    KeepsNext st0 (execLaneMapDone l reversed inverted s) := by
  unfold execLaneMapDone
  repeat' first
    | with_reducible first | assumption | apply State.enter_keeps | apply State.wr_keeps | apply Keeps.ite | apply KeepsNext.ite | apply KeepsNext.next
    | split
    | dsimp only

theorem State.refuseTraining_keeps {s : State} {l : LinkId} {b : Nat} (hk : Keeps st0 s) :
    Keeps st0 (State.refuseTraining s l b) := by
  unfold State.refuseTraining
  repeat' with_reducible first | assumption | apply State.raisePort_keeps | apply State.toDisabled_keeps

theorem execVersionDecide_keeps {l : LinkId} {peer : PeerCaps} {s : State} (hk : Keeps st0 s) :
    KeepsNext st0 (execVersionDecide l peer s) := by
  unfold execVersionDecide
  repeat' first
    | with_reducible intro _
    | with_reducible first | assumption | apply State.endSession_keeps | apply State.enter_keeps | apply State.enterConfig_keeps | apply State.modLink_keeps | apply State.raisePort_keeps | apply State.refuseTraining_keeps | apply Keeps.ite | apply KeepsNext.ite | apply KeepsNext.next
    | split
    | dsimp only

theorem execEqFullDone_keeps {l : LinkId} {preset : BitVec 16} {s : State} (hk : Keeps st0 s) :
    KeepsNext st0 (execEqFullDone l preset s) := by
  unfold execEqFullDone
  repeat' first
    | with_reducible intro _
    | with_reducible first | assumption | apply State.draw_keeps | apply State.enterConfig_keeps | apply State.enterSecure_keeps | apply State.wr_keeps | apply Keeps.ite | apply KeepsNext.ite | apply KeepsNext.next
    | with_reducible (apply Keeps.foldl; rotate_left; intro s b hk)
    | with_reducible (apply Keeps.foldlSnd; rotate_left; intro s b hk)
    | with_reducible (apply Keeps.foldlFst; rotate_left; intro s b hk)
    | split
    | dsimp only
    | with_reducible refine Keeps.snd ‹_› ?_
    | with_reducible refine Keeps.fst ‹_› ?_

theorem execConfigDone_keeps {l : LinkId} {credits : List (BitVec 16)} {s : State} (hk : Keeps st0 s) :
    KeepsNext st0 (execConfigDone l credits s) := by
  unfold execConfigDone
  repeat' first
    | with_reducible intro _
    | with_reducible first | assumption | apply State.enter_keeps | apply State.modLink_keeps | apply State.newSession_keeps | apply Keeps.ite | apply KeepsNext.ite | apply KeepsNext.next
    | split
    | dsimp only

theorem execTrainTimeout_keeps {l : LinkId} {s : State} (hk : Keeps st0 s) :
    KeepsNext st0 (execTrainTimeout l s) := by
  unfold execTrainTimeout
  repeat' first
    | with_reducible first | assumption | apply State.raisePort_keeps | apply State.toDetect_keeps | apply State.wr_keeps | apply Keeps.ite | apply KeepsNext.ite | apply KeepsNext.next
    | split
    | dsimp only

theorem State.errPeriod_keeps {s : State} {l : LinkId} (hk : Keeps st0 s) :
    Keeps st0 (State.errPeriod s l) := by
  unfold State.errPeriod
  repeat' first
    | with_reducible intro _
    | with_reducible first | assumption | apply State.modLink_keeps | apply Keeps.ite
    | split
    | dsimp only

theorem State.recalFailed_keeps {s : State} {p : Port} (hk : Keeps st0 s) :
    Keeps st0 (State.recalFailed s p) := by
  unfold State.recalFailed
  repeat' first
    | with_reducible intro _
    | with_reducible first | assumption | apply State.withFault_keeps | apply Keeps.ite
    | split
    | dsimp only

theorem State.fecCount_keeps {s : State} {l : LinkId} {corrected uncorrectable : Nat} (hk : Keeps st0 s) :
    Keeps st0 (State.fecCount s l corrected uncorrectable) := by
  unfold State.fecCount
  repeat' first
    | with_reducible intro _
    | with_reducible first | assumption | apply State.add64_keeps | apply State.addReg_keeps | apply State.draw_keeps | apply State.modLink_keeps | apply State.raisePort_keeps | apply State.recalFailed_keeps | apply State.toRecovery_keeps | apply Keeps.ite
    | with_reducible (apply Keeps.foldl; rotate_left; intro s b hk)
    | with_reducible (apply Keeps.foldlSnd; rotate_left; intro s b hk)
    | with_reducible (apply Keeps.foldlFst; rotate_left; intro s b hk)
    | split
    | dsimp only
    | with_reducible refine Keeps.snd ‹_› ?_
    | with_reducible refine Keeps.fst ‹_› ?_

theorem State.checkFailed_keeps {s : State} {l : LinkId} {f : Flit} (hk : Keeps st0 s) :
    Keeps st0 (State.checkFailed s l f) := by
  unfold State.checkFailed
  repeat' first
    | with_reducible intro _
    | with_reducible first | assumption | apply State.bump_keeps | apply State.modLink_keeps | apply State.raisePort_keeps | apply State.toRecovery_keeps | apply Keeps.ite
    | split
    | dsimp only

theorem State.takeAck_keeps {s : State} {l : LinkId} {ack : Nat} (hk : Keeps st0 s) :
    Keeps st0 (State.takeAck s l ack) := by
  unfold State.takeAck
  repeat' first
    | with_reducible intro _
    | with_reducible first | assumption | apply State.modLink_keeps | apply Keeps.ite
    | split
    | dsimp only

theorem State.takeFragment_keeps {s : State} {l : LinkId} {content : Bytes} (hk : Keeps st0 s) :
    Keeps st0 (State.takeFragment s l content) := by
  unfold State.takeFragment
  repeat' first
    | with_reducible intro _
    | with_reducible first | assumption | apply State.modKex_keeps | apply Keeps.ite
    | split
    | dsimp only

theorem State.roleDrop_keeps {s : State} {l : LinkId} (hk : Keeps st0 s) :
    Keeps st0 (State.roleDrop s l) := by
  unfold State.roleDrop
  repeat' with_reducible first | assumption | apply State.bump_keeps | apply State.raisePort_keeps

theorem State.startData_keeps {s : State} {l : LinkId} {f : Flit} (hk : Keeps st0 s) :
    Keeps st0 (State.startData s l f) := by
  unfold State.startData
  repeat' first
    | with_reducible intro _
    | with_reducible first | assumption | apply State.losePartial_keeps | apply State.modLink_keeps | apply State.roleDrop_keeps | apply Keeps.ite
    | split
    | dsimp only

theorem State.growFrame_keeps {s : State} {l : LinkId} {f : Flit} {content : Bytes} {a : Arriving} {lost : Bool} (hk : Keeps st0 s) :
    Keeps st0 (State.growFrame s l f content a lost) := by
  unfold State.growFrame
  repeat' first
    | with_reducible intro _
    | with_reducible first | assumption | apply State.modLink_keeps | apply State.oweCredit_keeps | apply State.withSw_keeps | apply Keeps.ite
    | split
    | dsimp only

theorem State.acceptData_keeps {s : State} {l : LinkId} {f : Flit} {payload : Bytes} (hk : Keeps st0 s) :
    Keeps st0 (State.acceptData s l f payload) := by
  unfold State.acceptData
  repeat' first
    | with_reducible first | assumption | apply State.growFrame_keeps | apply State.oweCredit_keeps | apply State.startData_keeps | apply Keeps.ite
    | split
    | dsimp only

theorem State.acceptLooped_keeps {s : State} {l : LinkId} {f : Flit} {payload : Bytes} (hk : Keeps st0 s) :
    Keeps st0 (State.acceptLooped s l f payload) := by
  unfold State.acceptLooped
  repeat' first
    | with_reducible intro _
    | with_reducible first | assumption | apply State.modLink_keeps | apply State.oweCredit_keeps | apply Keeps.ite
    | split
    | dsimp only

theorem State.acceptFlit_keeps {s : State} {l : LinkId} {f : Flit} {payload : Bytes} (hk : Keeps st0 s) :
    Keeps st0 (State.acceptFlit s l f payload) := by
  unfold State.acceptFlit
  repeat' first
    | with_reducible intro _
    | with_reducible first | assumption | apply State.acceptData_keeps | apply State.acceptLooped_keeps | apply State.bump_keeps | apply State.modLink_keeps | apply State.takeFragment_keeps | apply Keeps.ite
    | split
    | dsimp only

theorem State.rollCall_keeps {s : State} {l : LinkId} {f : Flit} {payload : Bytes} (hk : Keeps st0 s) :
    Keeps st0 (State.rollCall s l f payload) := by
  unfold State.rollCall
  repeat' first
    | with_reducible intro _
    | with_reducible first | assumption | apply State.acceptFlit_keeps | apply State.bump_keeps | apply State.modLink_keeps | apply State.sendReplayReq_keeps | apply Keeps.ite
    | split
    | dsimp only

theorem State.unsequenced_keeps {s : State} {l : LinkId} {f : Flit} {payload : Bytes} (hk : Keeps st0 s) :
    Keeps st0 (State.unsequenced s l f payload) := by
  unfold State.unsequenced
  repeat' first
    | with_reducible intro _
    | with_reducible first | assumption | apply State.modLink_keeps | apply State.roleDrop_keeps | apply Keeps.ite
    | split
    | dsimp only

theorem execFlitReceive_keeps {l : LinkId} {f : Flit} {corrected uncorrectable : Nat} {s : State} (hk : Keeps st0 s) :
    KeepsNext st0 (execFlitReceive l f corrected uncorrectable s) := by
  unfold execFlitReceive
  repeat' first
    | with_reducible intro _
    | with_reducible first | assumption | apply State.acceptFlit_keeps | apply State.checkFailed_keeps | apply State.errPeriod_keeps | apply State.fecCount_keeps | apply State.modLink_keeps | apply State.raisePort_keeps | apply State.rollCall_keeps | apply State.takeAck_keeps | apply State.takeFragment_keeps | apply State.unsequenced_keeps | apply Keeps.ite | apply KeepsNext.ite | apply KeepsNext.next
    | split
    | dsimp only

theorem execReplayReqReceive_keeps {l : LinkId} {s : State} (hk : Keeps st0 s) :
    KeepsNext st0 (execReplayReqReceive l s) := by
  unfold execReplayReqReceive
  repeat' first
    | with_reducible intro _
    | with_reducible first | assumption | apply State.bump_keeps | apply State.modLink_keeps | apply State.raisePort_keeps | apply State.toRecovery_keeps | apply Keeps.ite | apply KeepsNext.ite | apply KeepsNext.next
    | split
    | dsimp only

theorem execReplayWaitRetry_keeps {l : LinkId} {s : State} (hk : Keeps st0 s) :
    KeepsNext st0 (execReplayWaitRetry l s) := by
  unfold execReplayWaitRetry
  repeat' first
    | with_reducible intro _
    | with_reducible first | assumption | apply State.modLink_keeps | apply State.raisePort_keeps | apply State.sendReplayReq_keeps | apply State.toRecovery_keeps | apply Keeps.ite | apply KeepsNext.ite | apply KeepsNext.next
    | split
    | dsimp only

theorem execPeerDead_keeps {l : LinkId} {s : State} (hk : Keeps st0 s) :
    KeepsNext st0 (execPeerDead l s) := by
  unfold execPeerDead
  repeat' first
    | with_reducible first | assumption | apply State.raisePort_keeps | apply State.timeLinkCheck_keeps | apply State.toDetect_keeps | apply Keeps.ite | apply KeepsNext.ite | apply KeepsNext.next
    | split
    | dsimp only

theorem execRecoveryDone_keeps {l : LinkId} {s : State} (hk : Keeps st0 s) :
    KeepsNext st0 (execRecoveryDone l s) := by
  unfold execRecoveryDone
  repeat' first
    | with_reducible intro _
    | with_reducible first | assumption | apply State.enter_keeps | apply State.modLink_keeps | apply State.sendReplayReq_keeps | apply Keeps.ite | apply KeepsNext.ite | apply KeepsNext.next
    | split
    | dsimp only

theorem execLinkCtlRekeyAnnounce_keeps {l : LinkId} {s : State} (hk : Keeps st0 s) :
    KeepsNext st0 (execLinkCtlRekeyAnnounce l s) := by
  unfold execLinkCtlRekeyAnnounce
  repeat' first
    | with_reducible intro _
    | with_reducible first | assumption | apply State.modLink_keeps | apply State.setSwitch_keeps | apply Keeps.ite | apply KeepsNext.ite | apply KeepsNext.next
    | split
    | dsimp only

theorem State.startScan_keeps {s : State} {p : Port} {lane : Fin 4} (hk : Keeps st0 s) :
    Keeps st0 (State.startScan s p lane) := by
  unfold State.startScan
  repeat' first
    | with_reducible first | assumption | apply State.withTest_keeps | apply State.wr_keeps | apply Keeps.ite
    | split
    | dsimp only

theorem execLaneMarginStart_keeps {h : HostPort} {p : Port} {lane : Fin 4} {s : State} (hk : Keeps st0 s) :
    KeepsNext st0 (execLaneMarginStart h p lane s) := by
  unfold execLaneMarginStart
  repeat' first
    | with_reducible intro _
    | with_reducible first | assumption | apply State.hostWrite_keeps | apply State.startScan_keeps | apply KeepsNext.next

theorem execLaneMarginDone_keeps {p : Port} {lane : Fin 4} {eye : Word} {s : State} (hk : Keeps st0 s) :
    KeepsNext st0 (execLaneMarginDone p lane eye s) := by
  unfold execLaneMarginDone
  repeat' first
    | with_reducible first | assumption | apply State.withTest_keeps | apply State.wr_keeps | apply Keeps.ite | apply KeepsNext.ite | apply KeepsNext.next
    | split
    | dsimp only

theorem execSecureHello_keeps {l : LinkId} {s : State} (hk : Keeps st0 s) :
    KeepsNext st0 (execSecureHello l s) := by
  unfold execSecureHello
  repeat' first
    | with_reducible intro _
    | with_reducible first | assumption | apply State.draw_keeps | apply State.kexHeard_keeps | apply State.kexRefuse_keeps | apply State.kexTake_keeps | apply State.modKex_keeps | apply State.sendMsg_keeps | apply Keeps.ite | apply KeepsNext.ite | apply KeepsNext.next
    | split
    | dsimp only
    | with_reducible refine Keeps.snd ‹_› ?_
    | with_reducible refine KeepsPair.elim ‹_› ?_

theorem execSecureKemEk_keeps {l : LinkId} {s : State} (hk : Keeps st0 s) :
    KeepsNext st0 (execSecureKemEk l s) := by
  unfold execSecureKemEk
  repeat' first
    | with_reducible intro _
    | with_reducible first | assumption | apply State.draw_keeps | apply State.kexDone_keeps | apply State.kexHeard_keeps | apply State.kexRefuse_keeps | apply State.kexTake_keeps | apply State.modKex_keeps | apply State.sendFinished_keeps | apply State.sendMsg_keeps | apply Keeps.ite | apply KeepsNext.ite | apply KeepsNext.next
    | split
    | dsimp only
    | with_reducible refine Keeps.snd ‹_› ?_
    | with_reducible refine KeepsPair.elim ‹_› ?_

theorem execSecureKemCt_keeps {l : LinkId} {s : State} (hk : Keeps st0 s) :
    KeepsNext st0 (execSecureKemCt l s) := by
  unfold execSecureKemCt
  repeat' first
    | with_reducible intro _
    | with_reducible first | assumption | apply State.kexDone_keeps | apply State.kexHeard_keeps | apply State.kexRefuse_keeps | apply State.kexTake_keeps | apply State.modKex_keeps | apply State.sendFinished_keeps | apply Keeps.ite | apply KeepsNext.ite | apply KeepsNext.next
    | split
    | dsimp only
    | with_reducible refine KeepsPair.elim ‹_› ?_

theorem execSecureFinished_keeps {l : LinkId} {s : State} (hk : Keeps st0 s) :
    KeepsNext st0 (execSecureFinished l s) := by
  unfold execSecureFinished
  repeat' first
    | with_reducible intro _
    | with_reducible first | assumption | apply State.kexDone_keeps | apply State.kexHeard_keeps | apply State.kexRefuse_keeps | apply State.kexTake_keeps | apply State.modKex_keeps | apply Keeps.ite | apply KeepsNext.ite | apply KeepsNext.next
    | split
    | dsimp only
    | with_reducible refine KeepsPair.elim ‹_› ?_

theorem execSecureAbort_keeps {l : LinkId} {s : State} (hk : Keeps st0 s) :
    KeepsNext st0 (execSecureAbort l s) := by
  unfold execSecureAbort
  repeat' first
    | with_reducible intro _
    | with_reducible first | assumption | apply State.kexTake_keeps | apply State.modKex_keeps | apply Keeps.ite | apply KeepsNext.ite | apply KeepsNext.next
    | split
    | dsimp only
    | with_reducible refine KeepsPair.elim ‹_› ?_

theorem execSecureResend_keeps {l : LinkId} {s : State} (hk : Keeps st0 s) :
    KeepsNext st0 (execSecureResend l s) := by
  unfold execSecureResend
  repeat' first
    | with_reducible intro _
    | with_reducible first | assumption | apply State.emit_keeps | apply State.modKex_keeps | apply Keeps.ite | apply KeepsNext.ite | apply KeepsNext.next
    | with_reducible (apply Keeps.foldl; rotate_left; intro s b hk)
    | split
    | dsimp only

theorem execRekeyEk_keeps {l : LinkId} {s : State} (hk : Keeps st0 s) :
    KeepsNext st0 (execRekeyEk l s) := by
  unfold execRekeyEk
  repeat' first
    | with_reducible intro _
    | with_reducible first | assumption | apply State.draw_keeps | apply State.kexTake_keeps | apply State.modKex_keeps | apply State.sendMsg_keeps | apply State.setNextKey_keeps | apply Keeps.ite | apply KeepsNext.ite | apply KeepsNext.next
    | split
    | dsimp only
    | with_reducible refine Keeps.snd ‹_› ?_
    | with_reducible refine KeepsPair.elim ‹_› ?_

theorem execRekeyCt_keeps {l : LinkId} {s : State} (hk : Keeps st0 s) :
    KeepsNext st0 (execRekeyCt l s) := by
  unfold execRekeyCt
  repeat' first
    | with_reducible intro _
    | with_reducible first | assumption | apply State.announceKey_keeps | apply State.kexTake_keeps | apply State.modKex_keeps | apply State.setNextKey_keeps | apply Keeps.ite | apply KeepsNext.ite | apply KeepsNext.next
    | split
    | dsimp only
    | with_reducible refine KeepsPair.elim ‹_› ?_

end Sys2Proof.Machine
end

