-- ==== Sys2Proof/Laws/KeepsGatewayOps.lean ====
section
/-!
SUPPORT. What the operations and meanings of Machine/GatewayOps.lean keep (`Keeps`).
-/
namespace Sys2Proof.Machine

variable {st0 : State}

theorem State.setGateway_keeps {s : State} {p : Port} {g : Gateway} (hk : Keeps st0 s) :
    Keeps st0 (State.setGateway s p g) := by
  unfold State.setGateway
  repeat' with_reducible first | assumption | apply State.withMort_keeps

theorem State.flushBuffer_keeps {s : State} {p : Port} {b : Combine} (hk : Keeps st0 s) :
    Keeps st0 (State.flushBuffer s p b) := by
  unfold State.flushBuffer
  repeat' first
    | with_reducible intro _
    | with_reducible first | assumption | apply State.drawBytes_keeps | apply State.originate_keeps | apply State.setGateway_keeps | apply Keeps.ite
    | with_reducible (apply Keeps.foldl; rotate_left; intro s b hk)
    | with_reducible (apply Keeps.foldlSnd; rotate_left; intro s b hk)
    | with_reducible (apply Keeps.foldlFst; rotate_left; intro s b hk)
    | split
    | dsimp only
    | with_reducible refine Keeps.snd ‹_› ?_
    | with_reducible refine Keeps.fst ‹_› ?_

theorem State.flushWhere_keeps {s : State} {p : Port} {pick : Combine → Bool} (hk : Keeps st0 s) :
    Keeps st0 (State.flushWhere s p pick) := by
  unfold State.flushWhere
  repeat' first
    | with_reducible intro _
    | with_reducible first | assumption | apply State.flushBuffer_keeps
    | with_reducible (apply Keeps.foldl; rotate_left; intro s b hk)

theorem State.flushAhead_keeps {s : State} {p : Port} (hk : Keeps st0 s) :
    Keeps st0 (State.flushAhead s p) := by
  unfold State.flushAhead
  repeat' first
    | with_reducible intro _
    | with_reducible first | assumption | apply State.flushWhere_keeps | apply Keeps.ite
    | with_reducible (apply Keeps.foldl; rotate_left; intro s b hk)
    | split
    | dsimp only

theorem State.gatewayCpl_keeps {s : State} {p : Port} {c : Cls} {f : Frame} {st : BitVec 8} {data : Bytes} (hk : Keeps st0 s) :
    Keeps st0 (State.gatewayCpl s p c f st data) := by
  unfold State.gatewayCpl
  repeat' with_reducible first | assumption | apply State.complete_keeps

end Sys2Proof.Machine
end

