-- ==== Sys2Proof/Laws/KeepsSwitchRows.lean ====
section
/-!
SUPPORT. What the operations and meanings of Machine/SwitchRows.lean keep (`Keeps`).
-/
namespace Sys2Proof.Machine

variable {st0 : State}

theorem State.setPolicer_keeps {s : State} {p slot c tokens : Nat} (hk : Keeps st0 s) :
    Keeps st0 (State.setPolicer s p slot c tokens) := by
  unfold State.setPolicer
  repeat' with_reducible first | assumption | apply State.withSw_keeps

theorem State.fillPolicer_keeps {s : State} {p slot c : Nat} (hk : Keeps st0 s) :
    Keeps st0 (State.fillPolicer s p slot c) := by
  unfold State.fillPolicer
  repeat' with_reducible first | assumption | apply State.setPolicer_keeps

theorem State.dropArriving_keeps {s : State} {l : LinkId} {a : Arriving} (hk : Keeps st0 s) :
    Keeps st0 (State.dropArriving s l a) := by
  unfold State.dropArriving
  repeat' first
    | with_reducible intro _
    | with_reducible first | assumption | apply State.modLink_keeps | apply State.oweCredit_keeps | apply Keeps.ite
    | split
    | dsimp only

theorem State.refuseIngress_keeps {s : State} {l : LinkId} {a : Arriving} {f : Frame} {st : Status} (hk : Keeps st0 s) :
    Keeps st0 (State.refuseIngress s l a f st) := by
  unfold State.refuseIngress
  repeat' first
    | with_reducible first | assumption | apply State.addJob_keeps | apply State.dropArriving_keeps | apply State.toPort_keeps | apply Keeps.ite
    | split
    | dsimp only

theorem State.replaceStatus_keeps {s : State} {p : Port} {a : Arriving} {f : Frame} (hk : Keeps st0 s) :
    Keeps st0 (State.replaceStatus s p a f).2 := by
  unfold State.replaceStatus
  try dsimp only
  repeat' first
    | with_reducible intro _
    | with_reducible first | assumption | apply State.setGateway_keeps | apply Keeps.ite | apply Keeps.iteSnd | apply Keeps.iteFst
    | split
    | dsimp only

theorem State.queueFrame_keeps {s : State} {l : LinkId} {a : Arriving} {f : Frame} (hk : Keeps st0 s) :
    Keeps st0 (State.queueFrame s l a f) := by
  unfold State.queueFrame
  repeat' first
    | with_reducible intro _
    | with_reducible first | assumption | apply State.bump_keeps | apply State.dropArriving_keeps | apply State.dropNoRoute_keeps | apply State.mirror_keeps | apply State.modLink_keeps | apply State.withSw_keeps | apply Keeps.ite
    | split
    | dsimp only

theorem State.admitRequest_keeps {s : State} {l : LinkId} {a : Arriving} {f : Frame} (hk : Keeps st0 s) :
    Keeps st0 (State.admitRequest s l a f) := by
  unfold State.admitRequest
  repeat' first
    | with_reducible first | assumption | apply State.bump_keeps | apply State.mirror_keeps | apply State.queueFrame_keeps | apply State.raiseMort_keeps | apply State.raiseSw_keeps | apply State.refuseIngress_keeps | apply State.setPolicer_keeps | apply State.withMort_keeps | apply Keeps.ite
    | split
    | dsimp only

theorem execIngressFirstFlit_keeps {l : LinkId} {c : Cls} {s : State} (hk : Keeps st0 s) :
    KeepsNext st0 (execIngressFirstFlit l c s) := by
  unfold execIngressFirstFlit
  repeat' first
    | with_reducible intro _
    | with_reducible first | assumption | apply State.admitRequest_keeps | apply State.dropArriving_keeps | apply State.modLink_keeps | apply State.queueFrame_keeps | apply State.refuseIngress_keeps | apply State.replaceStatus_keeps | apply State.roleDrop_keeps | apply State.traceFrame_keeps | apply Keeps.ite | apply KeepsNext.ite | apply KeepsNext.next
    | split
    | dsimp only
    | with_reducible refine Keeps.snd ‹_› ?_

theorem execSafFrameComplete_keeps {l : LinkId} {c : Cls} {s : State} (hk : Keeps st0 s) :
    KeepsNext st0 (execSafFrameComplete l c s) := by
  unfold execSafFrameComplete
  repeat' first
    | with_reducible intro _
    | with_reducible first | assumption | apply State.bump_keeps | apply State.dropEntry_keeps | apply State.raiseSw_keeps | apply State.refuse_keeps | apply State.withSw_keeps | apply Keeps.ite | apply KeepsNext.ite | apply KeepsNext.next
    | split
    | dsimp only

theorem State.discardEntry_keeps {s : State} {e : QEntry} {st : Status} (hk : Keeps st0 s) :
    Keeps st0 (State.discardEntry s e st) := by
  unfold State.discardEntry
  repeat' first
    | with_reducible intro _
    | with_reducible first | assumption | apply State.dropEntry_keeps | apply State.refuse_keeps | apply Keeps.ite
    | split
    | dsimp only

theorem execStrandedDiscard_keeps {i : InputId} {o : Port} {c : Cls} {s : State} (hk : Keeps st0 s) :
    KeepsNext st0 (execStrandedDiscard i o c s) := by
  unfold execStrandedDiscard
  repeat' first
    | with_reducible intro _
    | with_reducible first | assumption | apply State.discardEntry_keeps | apply State.raise_keeps | apply Keeps.ite | apply KeepsNext.ite | apply KeepsNext.next
    | split
    | dsimp only

theorem execAgeDiscard_keeps {i : InputId} {o : Port} {c : Cls} {s : State} (hk : Keeps st0 s) :
    KeepsNext st0 (execAgeDiscard i o c s) := by
  unfold execAgeDiscard
  repeat' first
    | with_reducible intro _
    | with_reducible first | assumption | apply State.bump_keeps | apply State.discardEntry_keeps | apply State.raiseSw_keeps | apply Keeps.ite | apply KeepsNext.ite | apply KeepsNext.next
    | split
    | dsimp only

theorem State.rerouteEntry_keeps {s : State} {p : Port} {e : QEntry} (hk : Keeps st0 s) :
    Keeps st0 (State.rerouteEntry s p e) := by
  unfold State.rerouteEntry
  repeat' first
    | with_reducible intro _
    | with_reducible first | assumption | apply State.bump_keeps | apply State.discardEntry_keeps | apply State.raiseSw_keeps | apply State.withSw_keeps | apply Keeps.ite
    | split
    | dsimp only

theorem execEgressPortDown_keeps {p : Port} {s : State} (hk : Keeps st0 s) :
    KeepsNext st0 (execEgressPortDown p s) := by
  unfold execEgressPortDown
  repeat' first
    | with_reducible intro _
    | with_reducible first | assumption | apply State.bump_keeps | apply State.raiseSw_keeps | apply State.rerouteEntry_keeps | apply State.withSw_keeps | apply Keeps.ite | apply KeepsNext.ite | apply KeepsNext.next
    | with_reducible (apply Keeps.foldl; rotate_left; intro s b hk)
    | split
    | dsimp only

theorem execFailback_keeps {p : Port} {i : InputId} {s : State} (hk : Keeps st0 s) :
    KeepsNext st0 (execFailback p i s) := by
  unfold execFailback
  repeat' first
    | with_reducible intro _
    | with_reducible first | assumption | apply State.withSw_keeps | apply Keeps.ite | apply KeepsNext.ite | apply KeepsNext.next
    | split
    | dsimp only

theorem State.sendSequenced_keeps {s : State} {l : LinkId} {type cls : Nat} {first last : Bool} {content : Bytes} (hk : Keeps st0 s) :
    Keeps st0 (State.sendSequenced s l type cls first last content) := by
  unfold State.sendSequenced
  repeat' first
    | with_reducible intro _
    | with_reducible first | assumption | apply State.emit_keeps | apply State.modLink_keeps | apply Keeps.ite
    | split
    | dsimp only

theorem State.sendUnsequenced_keeps {s : State} {l : LinkId} {type : Nat} {content : Bytes} (hk : Keeps st0 s) :
    Keeps st0 (State.sendUnsequenced s l type content) := by
  unfold State.sendUnsequenced
  repeat' with_reducible first | assumption | apply State.emit_keeps

theorem State.sendStamp_keeps {s : State} {l : LinkId} {sub : BitVec 6} (hk : Keeps st0 s) :
    Keeps st0 (State.sendStamp s l sub) := by
  unfold State.sendStamp
  repeat' first
    | with_reducible intro _
    | with_reducible first | assumption | apply State.emit_keeps | apply State.modLink_keeps | apply State.setTimeLink_keeps | apply Keeps.ite
    | split
    | dsimp only

theorem State.sendData_keeps {s : State} {l : LinkId} {e : QEntry} (hk : Keeps st0 s) :
    Keeps st0 (State.sendData s l e) := by
  unfold State.sendData
  repeat' first
    | with_reducible intro _
    | with_reducible first | assumption | apply State.mirror_keeps | apply State.modLink_keeps | apply State.oweCredit_keeps | apply State.sendSequenced_keeps | apply State.traceFrame_keeps | apply State.withSw_keeps | apply Keeps.ite
    | split
    | dsimp only

theorem State.payToken_keeps {s : State} {p : Port} {e : QEntry} (hk : Keeps st0 s) :
    Keeps st0 (State.payToken s p e) := by
  unfold State.payToken
  repeat' first
    | with_reducible intro _
    | with_reducible first | assumption | apply State.withSw_keeps | apply Keeps.ite
    | split
    | dsimp only

theorem State.bestEffort_keeps {s : State} {l : LinkId} (hk : Keeps st0 s) :
    Keeps st0 (State.bestEffort s l) := by
  unfold State.bestEffort
  repeat' first
    | with_reducible intro _
    | with_reducible first | assumption | apply State.payToken_keeps | apply State.sendData_keeps | apply State.sendSequenced_keeps | apply State.withSw_keeps | apply Keeps.ite
    | split
    | dsimp only

theorem State.payloadFlit_keeps {s : State} {l : LinkId} {sub : BitVec 6} (hk : Keeps st0 s) :
    Keeps st0 (State.payloadFlit s l sub) := by
  unfold State.payloadFlit
  repeat' first
    | with_reducible first | assumption | apply State.bestEffort_keeps | apply State.bump_keeps | apply State.sendData_keeps | apply State.sendSequenced_keeps | apply State.sendStamp_keeps | apply Keeps.ite
    | split
    | dsimp only

theorem State.loopFlit_keeps {s : State} {l : LinkId} (hk : Keeps st0 s) :
    Keeps st0 (State.loopFlit s l) := by
  unfold State.loopFlit
  repeat' first
    | with_reducible intro _
    | with_reducible first | assumption | apply State.modLink_keeps | apply State.oweCredit_keeps | apply State.sendSequenced_keeps | apply Keeps.ite
    | split
    | dsimp only

theorem State.activeFlit_keeps {s : State} {l : LinkId} {sub : BitVec 6} (hk : Keeps st0 s) :
    Keeps st0 (State.activeFlit s l sub) := by
  unfold State.activeFlit
  repeat' first
    | with_reducible intro _
    | with_reducible first | assumption | apply State.bump_keeps | apply State.emit_keeps | apply State.flushAhead_keeps | apply State.loopFlit_keeps | apply State.modLink_keeps | apply State.payloadFlit_keeps | apply State.sendSequenced_keeps | apply State.sendUnsequenced_keeps | apply State.startRekey_keeps | apply Keeps.ite
    | split
    | dsimp only

theorem execEgressFlitPosition_keeps {l : LinkId} {sub : BitVec 6} {s : State} (hk : Keeps st0 s) :
    KeepsNext st0 (execEgressFlitPosition l sub s) := by
  unfold execEgressFlitPosition
  repeat' first
    | with_reducible first | assumption | apply State.activeFlit_keeps | apply State.sendSequenced_keeps | apply Keeps.ite | apply KeepsNext.ite | apply KeepsNext.next
    | split
    | dsimp only

theorem State.writeShapeBurst_keeps {s : State} {i : Fin 256} {v : Word} (hk : Keeps st0 s) :
    Keeps st0 (State.writeShapeBurst s i v) := by
  unfold State.writeShapeBurst
  repeat' first
    | with_reducible first | assumption | apply State.withSw_keeps | apply State.wrMasked_keeps | apply Keeps.ite
    | split
    | dsimp only

theorem execShapeBurstWrite_keeps {h : HostPort} {profile : Fin 256} {v : Word} {s : State} (hk : Keeps st0 s) :
    KeepsNext st0 (execShapeBurstWrite h profile v s) := by
  unfold execShapeBurstWrite
  repeat' first
    | with_reducible intro _
    | with_reducible first | assumption | apply State.hostWrite_keeps | apply State.writeShapeBurst_keeps | apply KeepsNext.next

theorem State.writeShapeSel_keeps {s : State} {p : Port} {c : Cls} {v : Word} (hk : Keeps st0 s) :
    Keeps st0 (State.writeShapeSel s p c v) := by
  unfold State.writeShapeSel
  repeat' first
    | with_reducible first | assumption | apply State.withSw_keeps | apply State.wrMasked_keeps | apply Keeps.ite
    | split
    | dsimp only

theorem execShapeSelWrite_keeps {h : HostPort} {p : Port} {c : Cls} {v : Word} {s : State} (hk : Keeps st0 s) :
    KeepsNext st0 (execShapeSelWrite h p c v s) := by
  unfold execShapeSelWrite
  repeat' first
    | with_reducible intro _
    | with_reducible first | assumption | apply State.hostWrite_keeps | apply State.writeShapeSel_keeps | apply KeepsNext.next

theorem State.writePolSel_keeps {s : State} {p : Port} {slot : Fin 16} {v : Word} (hk : Keeps st0 s) :
    Keeps st0 (State.writePolSel s p slot v) := by
  unfold State.writePolSel
  repeat' first
    | with_reducible intro _
    | with_reducible first | assumption | apply State.fillPolicer_keeps | apply State.wr_keeps
    | with_reducible (apply Keeps.foldl; rotate_left; intro s b hk)

theorem execPolSelWrite_keeps {h : HostPort} {p : Port} {slot : Fin 16} {v : Word} {s : State} (hk : Keeps st0 s) :
    KeepsNext st0 (execPolSelWrite h p slot v s) := by
  unfold execPolSelWrite
  repeat' first
    | with_reducible intro _
    | with_reducible first | assumption | apply State.hostWrite_keeps | apply State.writePolSel_keeps | apply KeepsNext.next

theorem State.writePolProfile_keeps {s : State} {i : Fin 16} {burst : Bool} {v : Word} (hk : Keeps st0 s) :
    Keeps st0 (State.writePolProfile s i burst v) := by
  unfold State.writePolProfile
  repeat' first
    | with_reducible intro _
    | with_reducible first | assumption | apply State.fillPolicer_keeps | apply State.wrMasked_keeps | apply Keeps.ite
    | with_reducible (apply Keeps.foldl; rotate_left; intro s b hk)
    | split
    | dsimp only

theorem execPolProfileWrite_keeps {h : HostPort} {profile : Fin 16} {burst : Bool} {v : Word} {s : State} (hk : Keeps st0 s) :
    KeepsNext st0 (execPolProfileWrite h profile burst v s) := by
  unfold execPolProfileWrite
  repeat' first
    | with_reducible intro _
    | with_reducible first | assumption | apply State.hostWrite_keeps | apply State.writePolProfile_keeps | apply Keeps.ite | apply KeepsNext.ite | apply KeepsNext.next
    | split
    | dsimp only

theorem State.writeMir_keeps {s : State} {m : Fin 8} {n : Bool} {v : Word} (hk : Keeps st0 s) :
    Keeps st0 (State.writeMir s m n v) := by
  unfold State.writeMir
  repeat' first
    | with_reducible first | assumption | apply State.withSw_keeps | apply State.wr_keeps | apply State.wrMasked_keeps | apply Keeps.ite
    | split
    | dsimp only

theorem execMirCfgWrite_keeps {h : HostPort} {session : Fin 8} {n : Bool} {v : Word} {s : State} (hk : Keeps st0 s) :
    KeepsNext st0 (execMirCfgWrite h session n v s) := by
  unfold execMirCfgWrite
  repeat' first
    | with_reducible intro _
    | with_reducible first | assumption | apply State.hostWrite_keeps | apply State.writeMir_keeps | apply Keeps.ite | apply KeepsNext.ite | apply KeepsNext.next
    | split
    | dsimp only

theorem State.writeRoute_keeps {s : State} {sw : Fin 4096} {v : Word} (hk : Keeps st0 s) :
    Keeps st0 (State.writeRoute s sw v) := by
  unfold State.writeRoute
  repeat' first
    | with_reducible first | assumption | apply State.raiseSw_keeps | apply State.wr_keeps | apply Keeps.ite
    | split
    | dsimp only

theorem execSwRouteWrite_keeps {h : HostPort} {sw : Fin 4096} {v : Word} {s : State} (hk : Keeps st0 s) :
    KeepsNext st0 (execSwRouteWrite h sw v s) := by
  unfold execSwRouteWrite
  repeat' first
    | with_reducible intro _
    | with_reducible first | assumption | apply State.hostWriteRwl_keeps | apply State.writeRoute_keeps | apply KeepsNext.next

theorem State.clearSw_keeps {s : State} (hk : Keeps st0 s) :
    Keeps st0 (State.clearSw s) := by
  unfold State.clearSw
  repeat' with_reducible first | assumption | apply State.zeroRegs_keeps

theorem execSwClrCounters_keeps {h : HostPort} {s : State} (hk : Keeps st0 s) :
    KeepsNext st0 (execSwClrCounters h s) := by
  unfold execSwClrCounters
  repeat' with_reducible first | assumption | apply State.clearSw_keeps | apply State.hostWrite_keeps | apply KeepsNext.next

end Sys2Proof.Machine
end

