-- ==== Sys2Proof/Laws/KeepsMortRows.lean ====
section
/-!
SUPPORT. What the operations and meanings of Machine/MortRows.lean keep (`Keeps`).
-/
namespace Sys2Proof.Machine

variable {st0 : State}

theorem State.takeHome_keeps {s : State} {k : Fin 12} {e : QEntry} (hk : Keeps st0 s) :
    Keeps st0 (State.takeHome s k e) := by
  unfold State.takeHome
  repeat' first
    | with_reducible first | assumption | apply State.dropEntry_keeps | apply State.withMort_keeps | apply Keeps.ite
    | split
    | dsimp only

theorem State.refuseMort_keeps {s : State} {k : Fin 12} {c : Cls} {f : Frame} {st : Status} (hk : Keeps st0 s) :
    Keeps st0 (State.refuseMort s k c f st) := by
  unfold State.refuseMort
  repeat' with_reducible first | assumption | apply State.countRefusal_keeps | apply State.refuse_keeps

theorem State.refuseReserved_keeps {s : State} {k : Fin 12} {c : Cls} {f : Frame} (hk : Keeps st0 s) :
    Keeps st0 (State.refuseReserved s k c f) := by
  unfold State.refuseReserved
  repeat' with_reducible first | assumption | apply State.bump_keeps | apply State.raisePool_keeps | apply State.refuse_keeps

theorem State.acceptId_keeps {s : State} (hk : Keeps st0 s) :
    Keeps st0 (State.acceptId s).2 := by
  unfold State.acceptId
  repeat' with_reducible first | assumption | apply State.withMort_keeps

theorem State.passOn_keeps {s : State} {k : Fin 12} {e : QEntry} {f : Frame} {drawer : Option Nat} {o : Nat} (hk : Keeps st0 s) :
    Keeps st0 (State.passOn s k e f drawer o) := by
  unfold State.passOn
  repeat' first
    | with_reducible first | assumption | apply State.acceptId_keeps | apply State.addJob_keeps | apply State.withSw_keeps | apply Keeps.ite
    | split
    | dsimp only
    | with_reducible refine Keeps.snd ‹_› ?_

theorem State.passOrder_keeps {s : State} {k : Fin 12} {e : QEntry} {part : Option Nat} {f : Frame} (hk : Keeps st0 s) :
    Keeps st0 (State.passOrder s k e part f) := by
  unfold State.passOrder
  repeat' first
    | exact fun h => h
    | with_reducible first | assumption | apply State.passOn_keeps | apply State.refuseMort_keeps | apply State.refuseReserved_keeps | apply State.withPool_keeps | apply Keeps.ite
    | split
    | dsimp only

theorem State.accept_keeps {s : State} {k : Fin 12} {e : QEntry} {f : Frame} {d : DrawerId} {o : Nat} {shared : Bool} (hk : Keeps st0 s) :
    Keeps st0 (State.accept s k e f d o shared) := by
  unfold State.accept
  repeat' first
    | with_reducible first | assumption | apply State.acceptId_keeps | apply State.addJob_keeps | apply State.expandFirst_keeps | apply State.passOn_keeps | apply State.serveOwned_keeps | apply State.serveShared_keeps | apply State.withMort_keeps | apply Keeps.ite
    | split
    | dsimp only
    | with_reducible refine Keeps.snd ‹_› ?_

theorem State.checkRequest_keeps {s : State} {k : Fin 12} {e : QEntry} {f : Frame} (hk : Keeps st0 s) :
    Keeps st0 (State.checkRequest s k e f) := by
  unfold State.checkRequest
  repeat' first
    | with_reducible first | assumption | apply State.accept_keeps | apply State.bump_keeps | apply State.passOn_keeps | apply State.passOrder_keeps | apply State.raiseMort_keeps | apply State.refuse_keeps | apply State.refuseMort_keeps | apply State.refuseReserved_keeps | apply Keeps.ite
    | split
    | dsimp only

theorem execMortiseCheck_keeps {k : Fin 12} {s : State} (hk : Keeps st0 s) :
    KeepsNext st0 (execMortiseCheck k s) := by
  unfold execMortiseCheck
  repeat' first
    | with_reducible first | assumption | apply State.checkRequest_keeps | apply State.takeHome_keeps | apply Keeps.ite | apply KeepsNext.ite | apply KeepsNext.next
    | split
    | dsimp only

theorem State.takePassed_keeps {s : State} {pick : Frame → Bool} (hk : Keeps st0 s) :
    KeepsPair st0 (State.takePassed s pick) := by
  unfold State.takePassed
  try dsimp only
  repeat' first
    | with_reducible intro _
    | with_reducible first | assumption | apply State.withSw_keeps | apply KeepsPair.some | exact KeepsPair.none
    | split
    | dsimp only

theorem State.toAgent_keeps {s : State} {pick : Frame → Bool} (hk : Keeps st0 s) :
    Keeps st0 (State.toAgent s pick) := by
  unfold State.toAgent
  repeat' first
    | with_reducible first | assumption | apply State.refuseMort_keeps | apply State.takePassed_keeps | apply State.toPort_keeps | apply State.withMort_keeps | apply Keeps.ite
    | split
    | dsimp only
    | with_reducible refine KeepsPair.elim ‹_› ?_

theorem execMsgDeliver_keeps {s : State} (hk : Keeps st0 s) :
    KeepsNext st0 (execMsgDeliver s) := by
  unfold execMsgDeliver
  repeat' first
    | with_reducible intro _
    | with_reducible first | assumption | apply State.toAgent_keeps | apply KeepsNext.next

theorem execMsgAcked_keeps {p : Port} {s : State} (hk : Keeps st0 s) :
    KeepsNext st0 (execMsgAcked p s) := by
  unfold execMsgAcked
  repeat' first
    | with_reducible intro _
    | with_reducible first | assumption | apply State.complete_keeps | apply State.modLink_keeps | apply State.withMort_keeps | apply State.withSw_keeps | apply KeepsNext.next
    | with_reducible (apply Keeps.foldl; rotate_left; intro s b hk)
    | split
    | dsimp only
    | with_reducible refine Keeps.snd ‹_› ?_
    | with_reducible refine Keeps.fst ‹_› ?_

end Sys2Proof.Machine
end

