-- ==== Sys2Proof/Laws/KeepsRecallRows.lean ====
section
/-!
SUPPORT. What the operations and meanings of Machine/RecallRows.lean keep (`Keeps`).
-/
namespace Sys2Proof.Machine

variable {st0 : State}

theorem State.synthFenced_keeps {s : State} {f : Frame} (hk : Keeps st0 s) :
    Keeps st0 (State.synthFenced s f) := by
  unfold State.synthFenced
  repeat' with_reducible first | assumption | apply State.bump_keeps | apply State.raiseMort_keeps

theorem State.cancelRange_keeps {s : State} {lo hi : Nat} (hk : Keeps st0 s) :
    Keeps st0 (State.cancelRange s lo hi) := by
  unfold State.cancelRange
  repeat' first
    | exact fun h => h
    | with_reducible intro _
    | with_reducible first | assumption | apply State.cancelWork_keeps | apply State.withPool_keeps | apply Keeps.ite
    | with_reducible (apply Keeps.foldl; rotate_left; intro s b hk)
    | split
    | dsimp only
    | with_reducible refine Keeps.snd ‹_› ?_
    | with_reducible refine Keeps.fst ‹_› ?_

theorem State.fenceDirectory_keeps {s : State} {d : Nat} (hk : Keeps st0 s) :
    Keeps st0 (State.fenceDirectory s d) := by
  unfold State.fenceDirectory
  repeat' first
    | with_reducible intro _
    | with_reducible first | assumption | apply State.dirAnswer_keeps | apply State.setTracker_keeps | apply State.synthFenced_keeps | apply State.withDir_keeps | apply Keeps.ite
    | with_reducible (apply Keeps.foldl; rotate_left; intro s b hk)
    | split
    | dsimp only
    | with_reducible refine Keeps.snd ‹_› ?_
    | with_reducible refine Keeps.fst ‹_› ?_

theorem execDrainBoundExpiry_keeps {d : DrawerId} {s : State} (hk : Keeps st0 s) :
    KeepsNext st0 (execDrainBoundExpiry d s) := by
  unfold execDrainBoundExpiry
  repeat' first
    | with_reducible intro _
    | with_reducible first | assumption | apply State.cancelRange_keeps | apply State.endServed_keeps | apply State.fenceDirectory_keeps | apply State.memberDone_keeps | apply State.refuse_keeps | apply State.retryWaiting_keeps | apply State.synthFenced_keeps | apply State.withMort_keeps | apply State.withSw_keeps | apply Keeps.ite | apply KeepsNext.ite | apply KeepsNext.next
    | with_reducible (apply Keeps.foldl; rotate_left; intro s b hk)
    | split
    | dsimp only
    | with_reducible refine Keeps.snd ‹_› ?_
    | with_reducible refine Keeps.fst ‹_› ?_

theorem State.clearWritten_keeps {s : State} {e : BitVec 128} (hk : Keeps st0 s) :
    Keeps st0 (State.clearWritten s e) := by
  unfold State.clearWritten
  repeat' first
    | exact fun h => h
    | with_reducible first | assumption | apply State.withPool_keeps

theorem State.inertDrawer_keeps {s : State} {d : Nat} (hk : Keeps st0 s) :
    Keeps st0 (State.inertDrawer s d) := by
  unfold State.inertDrawer
  repeat' first
    | exact fun h => h
    | with_reducible intro _
    | with_reducible first | assumption | apply State.raisePool_keeps | apply State.withPool_keeps
    | with_reducible (apply Keeps.foldl; rotate_left; intro s b hk)

theorem execDrawerShred_keeps {d : DrawerId} {s : State} (hk : Keeps st0 s) :
    KeepsNext st0 (execDrawerShred d s) := by
  unfold execDrawerShred
  repeat' first
    | exact fun h => h
    | with_reducible intro _
    | with_reducible first | assumption | apply State.bump_keeps | apply State.clearWritten_keeps | apply State.dropTags_keeps | apply State.inertDrawer_keeps | apply State.withDir_keeps | apply State.withMort_keeps | apply State.withPool_keeps | apply Keeps.ite | apply KeepsNext.ite | apply KeepsNext.next
    | split
    | dsimp only

theorem State.resetPlank_keeps {s : State} {plank : Nat} (hk : Keeps st0 s) :
    Keeps st0 (State.resetPlank s plank) := by
  unfold State.resetPlank
  repeat' first
    | with_reducible first | assumption | apply State.cancelWork_keeps | apply State.dropFrame_keeps | apply State.invalidate_keeps | apply State.setEntry_keeps | apply State.storeRef_keeps | apply State.uncache_keeps | apply Keeps.ite
    | split
    | dsimp only

theorem execMapResetDone_keeps {d : DrawerId} {s : State} (hk : Keeps st0 s) :
    KeepsNext st0 (execMapResetDone d s) := by
  unfold execMapResetDone
  repeat' first
    | exact fun h => h
    | with_reducible intro _
    | with_reducible first | assumption | apply State.resetPlank_keeps | apply State.retryWaiting_keeps | apply State.withPool_keeps | apply KeepsNext.next
    | with_reducible (apply Keeps.foldl; rotate_left; intro s b hk)
    | split
    | dsimp only
    | with_reducible refine Keeps.snd ‹_› ?_
    | with_reducible refine Keeps.fst ‹_› ?_

theorem State.gatewayCheck_keeps {s : State} {p : Port} {e : QEntry} {f : Frame} (hk : Keeps st0 s) :
    KeepsOpt st0 (State.gatewayCheck s p e f) := by
  unfold State.gatewayCheck
  try dsimp only
  repeat' first
    | with_reducible first | assumption | apply State.bump_keeps | apply State.dropEntry_keeps | apply State.gatewayCpl_keeps | apply State.raiseMort_keeps | apply Keeps.ite | apply KeepsOpt.ite | apply KeepsOpt.some | exact KeepsOpt.none
    | split
    | dsimp only

theorem State.dropAhead_keeps {s : State} {p : Port} {pick : ReadAhead → Bool} (hk : Keeps st0 s) :
    Keeps st0 (State.dropAhead s p pick) := by
  unfold State.dropAhead
  repeat' first
    | with_reducible intro _
    | with_reducible first | assumption | apply State.setGateway_keeps

theorem execGwCombineWrite_keeps {p : Port} {s : State} (hk : Keeps st0 s) :
    KeepsNext st0 (execGwCombineWrite p s) := by
  unfold execGwCombineWrite
  repeat' first
    | with_reducible intro _
    | with_reducible first | assumption | apply State.dropAhead_keeps | apply State.dropEntry_keeps | apply State.flushBuffer_keeps | apply State.gatewayCheck_keeps | apply State.gatewayCpl_keeps | apply State.setGateway_keeps | apply Keeps.ite | apply KeepsNext.ite | apply KeepsNext.next
    | split
    | dsimp only
    | with_reducible refine KeepsOpt.elim ‹_› ?_

theorem execGwFlushTimeout_keeps {p : Port} {buf : Fin 8} {s : State} (hk : Keeps st0 s) :
    KeepsNext st0 (execGwFlushTimeout p buf s) := by
  unfold execGwFlushTimeout
  repeat' first
    | with_reducible first | assumption | apply State.flushBuffer_keeps | apply Keeps.ite | apply KeepsNext.ite | apply KeepsNext.next
    | split
    | dsimp only

theorem State.gatewayDone_keeps {s : State} {pick : Purpose → Bool} (hk : Keeps st0 s) :
    KeepsPair st0 (State.gatewayDone s pick) := by
  unfold State.gatewayDone
  try dsimp only
  repeat' first
    | with_reducible intro _
    | with_reducible first | assumption | apply State.done_keeps | apply State.withMort_keeps | apply KeepsPair.some | exact KeepsPair.none
    | split
    | dsimp only

theorem execGwFlushComplete_keeps {p : Port} {s : State} (hk : Keeps st0 s) :
    KeepsNext st0 (execGwFlushComplete p s) := by
  unfold execGwFlushComplete
  repeat' first
    | with_reducible intro _
    | with_reducible first | assumption | apply State.gatewayDone_keeps | apply State.raise_keeps | apply State.setGateway_keeps | apply Keeps.ite | apply KeepsNext.ite | apply KeepsNext.next
    | split
    | dsimp only
    | with_reducible refine KeepsPair.elim ‹_› ?_

theorem execGwOrderFrame_keeps {p : Port} {s : State} (hk : Keeps st0 s) :
    KeepsNext st0 (execGwOrderFrame p s) := by
  unfold execGwOrderFrame
  repeat' first
    | with_reducible intro _
    | with_reducible first | assumption | apply State.dropAhead_keeps | apply State.dropEntry_keeps | apply State.flushWhere_keeps | apply State.setGateway_keeps | apply KeepsNext.next
    | split
    | dsimp only

theorem execGwOrderForward_keeps {p : Port} {s : State} (hk : Keeps st0 s) :
    KeepsNext st0 (execGwOrderForward p s) := by
  unfold execGwOrderForward
  repeat' first
    | with_reducible intro _
    | with_reducible first | assumption | apply State.setGateway_keeps | apply State.withSw_keeps | apply KeepsNext.next
    | split
    | dsimp only

theorem execGwReadAhead_keeps {p : Port} {s : State} (hk : Keeps st0 s) :
    KeepsNext st0 (execGwReadAhead p s) := by
  unfold execGwReadAhead
  repeat' first
    | with_reducible intro _
    | with_reducible first | assumption | apply State.dropEntry_keeps | apply State.flushWhere_keeps | apply State.gatewayCpl_keeps | apply State.originate_keeps | apply State.setGateway_keeps | apply Keeps.ite | apply KeepsNext.ite | apply KeepsNext.next
    | split
    | dsimp only

theorem execGwReadaheadFill_keeps {p : Port} {s : State} (hk : Keeps st0 s) :
    KeepsNext st0 (execGwReadaheadFill p s) := by
  unfold execGwReadaheadFill
  repeat' first
    | with_reducible intro _
    | with_reducible first | assumption | apply State.gatewayCpl_keeps | apply State.gatewayDone_keeps | apply State.setGateway_keeps | apply Keeps.ite | apply KeepsNext.ite | apply KeepsNext.next
    | with_reducible (apply Keeps.foldl; rotate_left; intro s b hk)
    | with_reducible (apply Keeps.foldlSnd; rotate_left; intro s b hk)
    | with_reducible (apply Keeps.foldlFst; rotate_left; intro s b hk)
    | split
    | dsimp only
    | with_reducible refine Keeps.snd ‹_› ?_
    | with_reducible refine Keeps.fst ‹_› ?_
    | with_reducible refine KeepsPair.elim ‹_› ?_

end Sys2Proof.Machine
end

