-- ==== Sys2Proof/Laws/KeepsOrderRows.lean ====
section
/-!
SUPPORT. What the operations and meanings of Machine/OrderRows.lean keep (`Keeps`).
-/
namespace Sys2Proof.Machine

variable {st0 : State}

theorem State.performFlag_keeps {s : State} {r : Served} (hk : Keeps st0 s) :
    Keeps st0 (State.performFlag s r) := by
  unfold State.performFlag
  repeat' first
    | with_reducible first | assumption | apply State.answer_keeps | apply State.attempt_keeps | apply State.memberDone_keeps | apply State.withMort_keeps | apply State.serveShared_keeps | apply Keeps.ite
    | dsimp only
    | split
    | with_reducible refine Keeps.snd ‹_› ?_

theorem State.guardEmpty_keeps {s : State} {r : Served} {g : Guard} (hk : Keeps st0 s) :
    Keeps st0 (State.guardEmpty s r g) := by
  unfold State.guardEmpty
  repeat' first
    | exact fun h => h
    | with_reducible intro _
    | with_reducible first | assumption | apply State.bump_keeps | apply State.endServed_keeps | apply State.performFlag_keeps | apply State.raise_keeps | apply State.retryWaiting_keeps | apply State.withMort_keeps | apply State.withPool_keeps | apply Keeps.ite
    | split
    | dsimp only

theorem State.holdGuard_keeps {s : State} {p : Passed} (hk : Keeps st0 s) :
    Keeps st0 (State.holdGuard s p) := by
  unfold State.holdGuard
  repeat' first
    | with_reducible first | assumption | apply State.guardEmpty_keeps | apply State.withMort_keeps | apply Keeps.ite
    | split
    | dsimp only

theorem execOrderFlushRange_keeps {s : State} (hk : Keeps st0 s) :
    KeepsNext st0 (execOrderFlushRange s) := by
  unfold execOrderFlushRange
  repeat' first
    | with_reducible intro _
    | with_reducible first | assumption | apply State.holdGuard_keeps | apply State.takePassed_keeps | apply KeepsNext.next
    | split
    | dsimp only
    | with_reducible refine KeepsPair.elim ‹_› ?_

theorem execOrderRelease_keeps {s : State} (hk : Keeps st0 s) :
    KeepsNext st0 (execOrderRelease s) := by
  unfold execOrderRelease
  repeat' first
    | with_reducible intro _
    | with_reducible first | assumption | apply State.performFlag_keeps | apply State.retryWaiting_keeps | apply State.takePassed_keeps | apply KeepsNext.next
    | split
    | dsimp only
    | with_reducible refine KeepsPair.elim ‹_› ?_

theorem execOrderReleaseRange_keeps {s : State} (hk : Keeps st0 s) :
    KeepsNext st0 (execOrderReleaseRange s) := by
  unfold execOrderReleaseRange
  repeat' first
    | with_reducible intro _
    | with_reducible first | assumption | apply State.holdGuard_keeps | apply State.takePassed_keeps | apply KeepsNext.next
    | split
    | dsimp only
    | with_reducible refine KeepsPair.elim ‹_› ?_

theorem execOrderFence_keeps {s : State} (hk : Keeps st0 s) :
    KeepsNext st0 (execOrderFence s) := by
  unfold execOrderFence
  repeat' first
    | with_reducible intro _
    | with_reducible first | assumption | apply State.complete_keeps | apply State.takePassed_keeps | apply KeepsNext.next
    | split
    | dsimp only
    | with_reducible refine KeepsPair.elim ‹_› ?_

theorem execGuardSetEmpty_keeps {s : State} (hk : Keeps st0 s) :
    KeepsNext st0 (execGuardSetEmpty s) := by
  unfold execGuardSetEmpty
  repeat' first
    | with_reducible intro _
    | with_reducible first | assumption | apply State.guardEmpty_keeps | apply KeepsNext.next
    | split
    | dsimp only

theorem execGuardTimeout_keeps {s : State} (hk : Keeps st0 s) :
    KeepsNext st0 (execGuardTimeout s) := by
  unfold execGuardTimeout
  repeat' first
    | with_reducible intro _
    | with_reducible first | assumption | apply State.endServed_keeps | apply State.raise_keeps | apply State.retryWaiting_keeps | apply KeepsNext.next
    | split
    | dsimp only

theorem State.clearOrd_keeps {s : State} (hk : Keeps st0 s) :
    Keeps st0 (State.clearOrd s) := by
  unfold State.clearOrd
  repeat' with_reducible first | assumption | apply State.zeroRegs_keeps

theorem execOrdClrCounters_keeps {h : HostPort} {s : State} (hk : Keeps st0 s) :
    KeepsNext st0 (execOrdClrCounters h s) := by
  unfold execOrdClrCounters
  repeat' with_reducible first | assumption | apply State.clearOrd_keeps | apply State.hostWrite_keeps | apply KeepsNext.next

end Sys2Proof.Machine
end

