-- ==== Sys2Proof/Laws/KeepsDirRows.lean ====
section
/-!
SUPPORT. What the operations and meanings of Machine/DirRows.lean keep (`Keeps`).
-/
namespace Sys2Proof.Machine

variable {st0 : State}

theorem execDirGetS_keeps {s : State} (hk : Keeps st0 s) :
    KeepsNext st0 (execDirGetS s) := by
  unfold execDirGetS
  repeat' first
    | with_reducible intro _
    | with_reducible first | assumption | apply State.dirGo_keeps | apply State.takePassed_keeps | apply KeepsNext.next
    | split
    | dsimp only
    | with_reducible refine KeepsPair.elim ‹_› ?_

theorem execDirGetM_keeps {s : State} (hk : Keeps st0 s) :
    KeepsNext st0 (execDirGetM s) := by
  unfold execDirGetM
  repeat' first
    | with_reducible intro _
    | with_reducible first | assumption | apply State.dirGo_keeps | apply State.takePassed_keeps | apply KeepsNext.next
    | split
    | dsimp only
    | with_reducible refine KeepsPair.elim ‹_› ?_

theorem execDirUpgrade_keeps {s : State} (hk : Keeps st0 s) :
    KeepsNext st0 (execDirUpgrade s) := by
  unfold execDirUpgrade
  repeat' first
    | with_reducible intro _
    | with_reducible first | assumption | apply State.dirGo_keeps | apply State.takePassed_keeps | apply KeepsNext.next
    | split
    | dsimp only
    | with_reducible refine KeepsPair.elim ‹_› ?_

theorem State.dirPut_keeps {s : State} {p : Passed} {data : Option Bytes} (hk : Keeps st0 s) :
    Keeps st0 (State.dirPut s p data) := by
  unfold State.dirPut
  repeat' first
    | with_reducible intro _
    | with_reducible first | assumption | apply State.bump_keeps | apply State.complete_keeps | apply State.dirGo_keeps | apply State.done_keeps | apply State.putLine_keeps | apply State.setDir_keeps | apply State.setTracker_keeps | apply Keeps.ite
    | split
    | dsimp only

theorem execDirPutE_keeps {s : State} (hk : Keeps st0 s) :
    KeepsNext st0 (execDirPutE s) := by
  unfold execDirPutE
  repeat' first
    | with_reducible intro _
    | with_reducible first | assumption | apply State.dirPut_keeps | apply State.takePassed_keeps | apply KeepsNext.next
    | split
    | dsimp only
    | with_reducible refine KeepsPair.elim ‹_› ?_

theorem execDirPutM_keeps {s : State} (hk : Keeps st0 s) :
    KeepsNext st0 (execDirPutM s) := by
  unfold execDirPutM
  repeat' first
    | with_reducible intro _
    | with_reducible first | assumption | apply State.dirPut_keeps | apply State.takePassed_keeps | apply KeepsNext.next
    | split
    | dsimp only
    | with_reducible refine KeepsPair.elim ‹_› ?_

theorem State.noteAnswer_keeps {s : State} {p : Passed} (hk : Keeps st0 s) :
    Keeps st0 (State.noteAnswer s p) := by
  unfold State.noteAnswer
  repeat' first
    | with_reducible first | assumption | apply State.raiseDir_keeps | apply Keeps.ite
    | split
    | dsimp only

theorem State.recallEnds_keeps {s : State} {n : Nat} {t : Tracker} {lost kept : Bool} (hk : Keeps st0 s) :
    Keeps st0 (State.recallEnds s n t lost kept) := by
  unfold State.recallEnds
  repeat' first
    | with_reducible first | assumption | apply State.dirGo_keeps | apply State.finishTracker_keeps | apply State.poisonTracker_keeps | apply State.raiseDir_keeps | apply Keeps.ite
    | split
    | dsimp only
    | with_reducible refine Keeps.fst ‹_› ?_

theorem execDirInvAck_keeps {s : State} (hk : Keeps st0 s) :
    KeepsNext st0 (execDirInvAck s) := by
  unfold execDirInvAck
  repeat' first
    | with_reducible intro _
    | with_reducible first | assumption | apply State.bump_keeps | apply State.finishTracker_keeps | apply State.noteAnswer_keeps | apply State.setTracker_keeps | apply State.takePassed_keeps | apply Keeps.ite | apply KeepsNext.ite | apply KeepsNext.next
    | split
    | dsimp only
    | with_reducible refine KeepsPair.elim ‹_› ?_

theorem execDirRecallAck_keeps {s : State} (hk : Keeps st0 s) :
    KeepsNext st0 (execDirRecallAck s) := by
  unfold execDirRecallAck
  repeat' first
    | with_reducible intro _
    | with_reducible first | assumption | apply State.bump_keeps | apply State.noteAnswer_keeps | apply State.recallEnds_keeps | apply State.takePassed_keeps | apply KeepsNext.next
    | split
    | dsimp only
    | with_reducible refine KeepsPair.elim ‹_› ?_

theorem execDirRecallData_keeps {s : State} (hk : Keeps st0 s) :
    KeepsNext st0 (execDirRecallData s) := by
  unfold execDirRecallData
  repeat' first
    | with_reducible intro _
    | with_reducible first | assumption | apply State.bump_keeps | apply State.noteAnswer_keeps | apply State.putLine_keeps | apply State.recallEnds_keeps | apply State.takePassed_keeps | apply Keeps.ite | apply KeepsNext.ite | apply KeepsNext.next
    | split
    | dsimp only
    | with_reducible refine KeepsPair.elim ‹_› ?_

theorem execDirSnoopDeliver_keeps {f : Frame} {s : State} (hk : Keeps st0 s) :
    KeepsNext st0 (execDirSnoopDeliver f s) := by
  unfold execDirSnoopDeliver
  repeat' first
    | with_reducible intro _
    | with_reducible first | assumption | apply State.raiseDir_keeps | apply State.takePassed_keeps | apply State.toPort_keeps | apply Keeps.ite | apply KeepsNext.ite | apply KeepsNext.next
    | split
    | dsimp only
    | with_reducible refine KeepsPair.elim ‹_› ?_

theorem execDirSnoopTimeout_keeps {tracker : Fin 4096} {s : State} (hk : Keeps st0 s) :
    KeepsNext st0 (execDirSnoopTimeout tracker s) := by
  unfold execDirSnoopTimeout
  repeat' first
    | with_reducible intro _
    | with_reducible first | assumption | apply State.finishTracker_keeps | apply State.raiseDir_keeps | apply State.recallEnds_keeps | apply State.setTracker_keeps | apply Keeps.ite | apply KeepsNext.ite | apply KeepsNext.next
    | with_reducible (apply Keeps.foldl; rotate_left; intro s b hk)
    | split
    | dsimp only
    | with_reducible refine Keeps.snd ‹_› ?_
    | with_reducible refine Keeps.fst ‹_› ?_

theorem execDirFillData_keeps {tracker : Fin 4096} {s : State} (hk : Keeps st0 s) :
    KeepsNext st0 (execDirFillData tracker s) := by
  unfold execDirFillData
  repeat' first
    | with_reducible first | assumption | apply State.finishTracker_keeps | apply Keeps.ite | apply KeepsNext.ite | apply KeepsNext.next
    | split
    | dsimp only

theorem execDirAgeFreeze_keeps {s : State} (hk : Keeps st0 s) :
    KeepsNext st0 (execDirAgeFreeze s) := by
  unfold execDirAgeFreeze
  repeat' first
    | with_reducible intro _
    | with_reducible first | assumption | apply State.bump_keeps | apply State.withDir_keeps | apply KeepsNext.next
    | split
    | dsimp only

theorem State.probeDir_keeps {s : State} (hk : Keeps st0 s) :
    Keeps st0 (State.probeDir s) := by
  unfold State.probeDir
  repeat' first
    | with_reducible first | assumption | apply State.draw_keeps | apply State.wr_keeps | apply State.wr64_keeps | apply Keeps.ite
    | split
    | dsimp only
    | with_reducible refine Keeps.snd ‹_› ?_

theorem execDirProbe_keeps {h : HostPort} {s : State} (hk : Keeps st0 s) :
    KeepsNext st0 (execDirProbe h s) := by
  unfold execDirProbe
  repeat' with_reducible first | assumption | apply State.hostWrite_keeps | apply State.probeDir_keeps | apply KeepsNext.next

theorem State.clearDir_keeps {s : State} (hk : Keeps st0 s) :
    Keeps st0 (State.clearDir s) := by
  unfold State.clearDir
  repeat' with_reducible first | assumption | apply State.zeroRegs_keeps

theorem execDirClrCounters_keeps {h : HostPort} {s : State} (hk : Keeps st0 s) :
    KeepsNext st0 (execDirClrCounters h s) := by
  unfold execDirClrCounters
  repeat' with_reducible first | assumption | apply State.clearDir_keeps | apply State.hostWrite_keeps | apply KeepsNext.next

end Sys2Proof.Machine
end

