-- ==== Sys2Proof/Laws/KeepsMaintOps.lean ====
section
/-!
SUPPORT. What the operations and meanings of Machine/MaintOps.lean keep (`Keeps`).
-/
namespace Sys2Proof.Machine

variable {st0 : State}

theorem State.requestActivity_keeps {s : State} {cls : Fin 10} {kind : Fin 16} {unit : Nat} {arg : Dword} {desc : Option (HostPort × Nat)} (hk : Keeps st0 s) :
    Keeps st0 (State.requestActivity s cls kind unit arg desc) := by
  unfold State.requestActivity
  repeat' with_reducible first | assumption | apply State.withFault_keeps

theorem State.setActivity_keeps {s : State} {a b : Activity} (hk : Keeps st0 s) :
    Keeps st0 (State.setActivity s a b) := by
  unfold State.setActivity
  repeat' first
    | with_reducible intro _
    | with_reducible first | assumption | apply State.withFault_keeps | apply Keeps.ite
    | split
    | dsimp only

theorem State.activityDone_keeps {s : State} {a : Activity} {st : BitVec 8} (hk : Keeps st0 s) :
    Keeps st0 (State.activityDone s a st) := by
  unfold State.activityDone
  repeat' with_reducible first | assumption | apply State.setActivity_keeps

theorem State.deferRecord_keeps {s : State} {a r : Activity} (hk : Keeps st0 s) :
    Keeps st0 (State.deferRecord s a r) := by
  unfold State.deferRecord
  repeat' first
    | with_reducible intro _
    | with_reducible first | assumption | apply State.bump_keeps | apply State.interim_keeps | apply State.raiseFault_keeps | apply State.wr_keeps
    | split
    | dsimp only

theorem State.startBulk_keeps {s : State} {a : Activity} (hk : Keeps st0 s) :
    Keeps st0 (State.startBulk s a) := by
  unfold State.startBulk
  repeat' first
    | with_reducible intro _
    | with_reducible first | assumption | apply State.pump_keeps | apply State.startDemotion_keeps | apply State.startPromotion_keeps | apply Keeps.ite
    | with_reducible (apply Keeps.foldl; rotate_left; intro s b hk)
    | split
    | dsimp only
    | with_reducible refine Keeps.snd ‹_› ?_
    | with_reducible refine Keeps.fst ‹_› ?_

theorem State.bistClear_keeps {s : State} {a : Activity} (hk : Keeps st0 s) :
    Keeps st0 (State.bistClear s a) := by
  unfold State.bistClear
  repeat' first
    | with_reducible intro _
    | with_reducible first | assumption | apply State.withBenches_keeps | apply Keeps.ite
    | split
    | dsimp only

theorem State.startActivity_keeps {s : State} {a : Activity} (hk : Keeps st0 s) :
    Keeps st0 (State.startActivity s a) := by
  unfold State.startActivity
  repeat' first
    | with_reducible first | assumption | apply State.bistClear_keeps | apply State.rekeyPort_keeps | apply State.startBulk_keeps | apply State.withFault_keeps | apply Keeps.ite
    | split
    | dsimp only

theorem State.arbitrate_keeps {s : State} {a : Activity} (hk : Keeps st0 s) :
    Keeps st0 (State.arbitrate s a) := by
  unfold State.arbitrate
  repeat' first
    | with_reducible intro _
    | with_reducible first | assumption | apply State.deferRecord_keeps | apply State.startActivity_keeps | apply State.withFault_keeps
    | split
    | dsimp only

theorem State.takePending_keeps {s : State} (hk : Keeps st0 s) :
    Keeps st0 (State.takePending s) := by
  unfold State.takePending
  repeat' first
    | with_reducible intro _
    | with_reducible first | assumption | apply State.startActivity_keeps | apply State.withFault_keeps | apply Keeps.ite
    | with_reducible (apply Keeps.foldl; rotate_left; intro s b hk)
    | split
    | dsimp only

theorem State.finishFor_keeps {s : State} {desc : Option (HostPort × Nat)} {st : BitVec 8} {result : Nat} (hk : Keeps st0 s) :
    Keeps st0 (State.finishFor s desc st result) := by
  unfold State.finishFor
  repeat' first
    | with_reducible intro _
    | with_reducible first | assumption | apply State.finish_keeps
    | split
    | dsimp only

end Sys2Proof.Machine
end

