-- ==== Sys2Proof/Laws/KeepsFaultRows.lean ====
section
/-!
SUPPORT. What the operations and meanings of Machine/FaultRows.lean keep (`Keeps`).
-/
namespace Sys2Proof.Machine

variable {st0 : State}

theorem State.writeFenceSet_keeps {s : State} {mask : Dword} (hk : Keeps st0 s) :
    Keeps st0 (State.writeFenceSet s mask) := by
  unfold State.writeFenceSet
  repeat' first
    | with_reducible intro _
    | with_reducible first | assumption | apply State.withFault_keeps | apply Keeps.ite
    | with_reducible (apply Keeps.foldl; rotate_left; intro s b hk)
    | split
    | dsimp only

theorem execFaultFenceSet_keeps {h : HostPort} {mask : Dword} {s : State} (hk : Keeps st0 s) :
    KeepsNext st0 (execFaultFenceSet h mask s) := by
  unfold execFaultFenceSet
  repeat' first
    | with_reducible intro _
    | with_reducible first | assumption | apply State.hostWrite_keeps | apply State.writeFenceSet_keeps | apply KeepsNext.next

theorem State.fenceLink_keeps {s : State} {l : LinkId} (hk : Keeps st0 s) :
    Keeps st0 (State.fenceLink s l) := by
  unfold State.fenceLink
  repeat' first
    | with_reducible intro _
    | with_reducible first | assumption | apply State.endSession_keeps | apply State.enter_keeps | apply State.modLink_keeps | apply State.toDisabled_keeps | apply Keeps.ite
    | split
    | dsimp only

theorem execFenceTakesEffect_keeps {part : Fin 64} {s : State} (hk : Keeps st0 s) :
    KeepsNext st0 (execFenceTakesEffect part s) := by
  unfold execFenceTakesEffect
  repeat' first
    | with_reducible intro _
    | with_reducible first | assumption | apply State.fenceLink_keeps | apply State.raiseFault_keeps | apply State.timeLinkCheck_keeps | apply State.withFault_keeps | apply Keeps.ite | apply KeepsNext.ite | apply KeepsNext.next
    | with_reducible (apply Keeps.foldl; rotate_left; intro s b hk)
    | split
    | dsimp only

theorem State.writeLift_keeps {s : State} {mask : Dword} (hk : Keeps st0 s) :
    Keeps st0 (State.writeLift s mask) := by
  unfold State.writeLift
  repeat' first
    | with_reducible intro _
    | with_reducible first | assumption | apply State.raiseFault_keeps | apply State.withFault_keeps | apply Keeps.ite
    | with_reducible (apply Keeps.foldl; rotate_left; intro s b hk)
    | split
    | dsimp only

theorem execFaultLift_keeps {h : HostPort} {mask : Dword} {s : State} (hk : Keeps st0 s) :
    KeepsNext st0 (execFaultLift h mask s) := by
  unfold execFaultLift
  repeat' first
    | with_reducible intro _
    | with_reducible first | assumption | apply State.hostWrite_keeps | apply State.writeLift_keeps | apply KeepsNext.next

theorem execFenceLiftEffect_keeps {part : Fin 64} {s : State} (hk : Keeps st0 s) :
    KeepsNext st0 (execFenceLiftEffect part s) := by
  unfold execFenceLiftEffect
  repeat' first
    | with_reducible intro _
    | with_reducible first | assumption | apply State.toDetect_keeps | apply State.withFault_keeps | apply Keeps.ite | apply KeepsNext.ite | apply KeepsNext.next
    | with_reducible (apply Keeps.foldl; rotate_left; intro s b hk)
    | split
    | dsimp only

theorem State.writeOffline_keeps {s : State} {h : HostPort} {word : Nat} {v : Word} (hk : Keeps st0 s) :
    Keeps st0 (State.writeOffline s h word v) := by
  unfold State.writeOffline
  repeat' first
    | with_reducible first | assumption | apply State.dropHeld_keeps | apply State.holdLo_keeps | apply State.wrMasked_keeps | apply Keeps.ite
    | split
    | dsimp only

theorem execFaultOfflineWrite_keeps {h : HostPort} {word : Fin 8} {v : Word} {s : State} (hk : Keeps st0 s) :
    KeepsNext st0 (execFaultOfflineWrite h word v s) := by
  unfold execFaultOfflineWrite
  repeat' first
    | with_reducible intro _
    | with_reducible first | assumption | apply State.hostWrite_keeps | apply State.writeOffline_keeps | apply KeepsNext.next

theorem execMaintActivityAsk_keeps {cls : Fin 10} {kind : Fin 16} {unit : Nat} {s : State} (hk : Keeps st0 s) :
    KeepsNext st0 (execMaintActivityAsk cls kind unit s) := by
  unfold execMaintActivityAsk
  repeat' first
    | with_reducible intro _
    | with_reducible first | assumption | apply State.arbitrate_keeps | apply Keeps.ite | apply KeepsNext.ite | apply KeepsNext.next
    | split
    | dsimp only

theorem execMaintActivityEnd_keeps {cls : Fin 10} {kind : Fin 16} {unit : Nat} {s : State} (hk : Keeps st0 s) :
    KeepsNext st0 (execMaintActivityEnd cls kind unit s) := by
  unfold execMaintActivityEnd
  repeat' first
    | with_reducible intro _
    | with_reducible first | assumption | apply State.finishFor_keeps | apply State.takePending_keeps | apply State.withFault_keeps | apply KeepsNext.next
    | split
    | dsimp only

theorem execMaintReqTimeout_keeps {h : HostPort} {s : State} (hk : Keeps st0 s) :
    KeepsNext st0 (execMaintReqTimeout h s) := by
  unfold execMaintReqTimeout
  repeat' first
    | with_reducible intro _
    | with_reducible first | assumption | apply State.bump_keeps | apply State.finishFor_keeps | apply State.raiseFault_keeps | apply State.withFault_keeps | apply KeepsNext.next
    | split
    | dsimp only

end Sys2Proof.Machine
end

