-- ==== Sys2Proof/Laws/KeepsBootRows.lean ====
section
/-!
SUPPORT. What the operations and meanings of Machine/BootRows.lean keep (`Keeps`).
-/
namespace Sys2Proof.Machine

variable {st0 : State}

theorem execAuxGood_keeps {s : State} (hk : Keeps st0 s) :
    KeepsNext st0 (execAuxGood s) := by
  unfold execAuxGood
  repeat' first
    | with_reducible first | assumption | apply State.enterBoot_keeps | apply State.withBoot_keeps | apply State.wr_keeps | apply Keeps.ite | apply KeepsNext.ite | apply KeepsNext.next
    | split
    | dsimp only

theorem execMainEnable_keeps {s : State} (hk : Keeps st0 s) :
    KeepsNext st0 (execMainEnable s) := by
  unfold execMainEnable
  repeat' first
    | with_reducible first | assumption | apply State.withBoot_keeps | apply Keeps.ite | apply KeepsNext.ite | apply KeepsNext.next
    | split
    | dsimp only

theorem execMainResetRelease_keeps {s : State} (hk : Keeps st0 s) :
    KeepsNext st0 (execMainResetRelease s) := by
  unfold execMainResetRelease
  repeat' first
    | with_reducible first | assumption | apply State.resetMain_keeps | apply Keeps.ite | apply KeepsNext.ite | apply KeepsNext.next
    | split
    | dsimp only

theorem State.loseMain_keeps {s : State} (hk : Keeps st0 s) :
    Keeps st0 (State.loseMain s) := by
  unfold State.loseMain
  repeat' with_reducible first | assumption | apply State.resetMain_keeps | apply State.withBoot_keeps

theorem execMainLoss_keeps {s : State} (hk : Keeps st0 s) :
    KeepsNext st0 (execMainLoss s) := by
  unfold execMainLoss
  repeat' first
    | with_reducible first | assumption | apply State.loseMain_keeps | apply Keeps.ite | apply KeepsNext.ite | apply KeepsNext.next
    | split
    | dsimp only

theorem execAuxLoss_keeps {s : State} (hk : Keeps st0 s) : KeepsNext st0 (execAuxLoss s) := by
  unfold execAuxLoss
  exact KeepsNext.next ⟨fun _ => ⟨rfl, rfl, rfl, rfl⟩, hk.out, hk.free, hk.pending⟩

theorem State.writeResetCtrl_keeps {s : State} {h : HostPort} {v : Word} (hk : Keeps st0 s) :
    Keeps st0 (State.writeResetCtrl s h v) := by
  unfold State.writeResetCtrl
  repeat' first
    | with_reducible first | assumption | apply State.askReset_keeps | apply Keeps.ite
    | split
    | dsimp only

theorem execResetCold_keeps {h : HostPort} {v : Word} {s : State} (hk : Keeps st0 s) :
    KeepsNext st0 (execResetCold h v s) := by
  unfold execResetCold
  repeat' first
    | with_reducible intro _
    | with_reducible first | assumption | apply State.hostWrite_keeps | apply State.writeResetCtrl_keeps | apply KeepsNext.next

theorem execResetWarm_keeps {h : HostPort} {v : Word} {s : State} (hk : Keeps st0 s) :
    KeepsNext st0 (execResetWarm h v s) := by
  unfold execResetWarm
  repeat' first
    | with_reducible intro _
    | with_reducible first | assumption | apply State.hostWrite_keeps | apply State.writeResetCtrl_keeps | apply KeepsNext.next

theorem execForceRecovery_keeps {h : HostPort} {v : Word} {s : State} (hk : Keeps st0 s) :
    KeepsNext st0 (execForceRecovery h v s) := by
  unfold execForceRecovery
  repeat' first
    | with_reducible intro _
    | with_reducible first | assumption | apply State.hostWrite_keeps | apply State.writeResetCtrl_keeps | apply KeepsNext.next

theorem State.wrBytes_keeps {s : State} {off : Nat → Nat} {words : Nat} {bs : Bytes} (hk : Keeps st0 s) :
    Keeps st0 (State.wrBytes s off words bs) := by
  unfold State.wrBytes
  repeat' first
    | with_reducible intro _
    | with_reducible first | assumption | apply State.wr_keeps
    | with_reducible (apply Keeps.foldl; rotate_left; intro s b hk)

theorem State.extendMeas_keeps {s : State} {i : Nat} {event : Bytes} (hk : Keeps st0 s) :
    Keeps st0 (State.extendMeas s i event) := by
  unfold State.extendMeas
  repeat' with_reducible first | assumption | apply State.wrBytes_keeps

theorem State.startFirmware_keeps {s : State} (hk : Keeps st0 s) :
    Keeps st0 (State.startFirmware s) := by
  unfold State.startFirmware
  repeat' with_reducible first | assumption | apply State.enterBoot_keeps | apply State.extendMeas_keeps | apply State.withBoot_keeps | apply State.wr64_keeps

theorem State.bootFail_keeps {s : State} {cause : BitVec 8} (hk : Keeps st0 s) :
    Keeps st0 (State.bootFail s cause) := by
  unfold State.bootFail
  repeat' with_reducible first | assumption | apply State.enterBoot_keeps | apply State.withBoot_keeps

theorem State.imageRefused_keeps {s : State} {cause : BitVec 8} (hk : Keeps st0 s) :
    Keeps st0 (State.imageRefused s cause) := by
  unfold State.imageRefused
  repeat' with_reducible first | assumption | apply State.enterBoot_keeps | apply State.withBoot_keeps

theorem execRomStartDone_keeps {pass : Bool} {s : State} (hk : Keeps st0 s) :
    KeepsNext st0 (execRomStartDone pass s) := by
  unfold execRomStartDone
  repeat' first
    | with_reducible first | assumption | apply State.bootFail_keeps | apply State.enterBoot_keeps | apply State.extendMeas_keeps | apply Keeps.ite | apply KeepsNext.ite | apply KeepsNext.next
    | split
    | dsimp only

theorem execSpiReadDone_keeps {image : Bytes} {answered : Bool} {s : State} (hk : Keeps st0 s) :
    KeepsNext st0 (execSpiReadDone image answered s) := by
  unfold execSpiReadDone
  repeat' first
    | with_reducible first | assumption | apply State.enterBoot_keeps | apply State.imageRefused_keeps | apply State.withBoot_keeps | apply Keeps.ite | apply KeepsNext.ite | apply KeepsNext.next
    | split
    | dsimp only

theorem execVerifyDone_keeps {s : State} (hk : Keeps st0 s) :
    KeepsNext st0 (execVerifyDone s) := by
  unfold execVerifyDone
  repeat' first
    | with_reducible first | assumption | apply State.imageRefused_keeps | apply State.startFirmware_keeps | apply Keeps.ite | apply KeepsNext.ite | apply KeepsNext.next
    | split
    | dsimp only

theorem State.claimBoot_keeps {s : State} {h : HostPort} (hk : Keeps st0 s) :
    Keeps st0 (State.claimBoot s h) := by
  unfold State.claimBoot
  repeat' first
    | with_reducible first | assumption | apply State.withBoot_keeps | apply Keeps.ite
    | split
    | dsimp only

theorem execBootClaim_keeps {h : HostPort} {s : State} (hk : Keeps st0 s) :
    KeepsNext st0 (execBootClaim h s) := by
  unfold execBootClaim
  repeat' first
    | with_reducible intro _
    | with_reducible first | assumption | apply State.claimBoot_keeps | apply State.hostWrite_keeps | apply KeepsNext.next

theorem State.recover_keeps {s : State} {h : HostPort} {program : Bool} (hk : Keeps st0 s) :
    Keeps st0 (State.recover s h program) := by
  unfold State.recover
  repeat' first
    | with_reducible first | assumption | apply State.enterBoot_keeps | apply State.withBoot_keeps | apply Keeps.ite
    | split
    | dsimp only

theorem execRecoverGo_keeps {h : HostPort} {program : Bool} {s : State} (hk : Keeps st0 s) :
    KeepsNext st0 (execRecoverGo h program s) := by
  unfold execRecoverGo
  repeat' first
    | with_reducible intro _
    | with_reducible first | assumption | apply State.hostWrite_keeps | apply State.recover_keeps | apply KeepsNext.next

theorem execRecoveryVerifyDone_keeps {s : State} (hk : Keeps st0 s) :
    KeepsNext st0 (execRecoveryVerifyDone s) := by
  unfold execRecoveryVerifyDone
  repeat' first
    | with_reducible first | assumption | apply State.emit_keeps | apply State.imageRefused_keeps | apply State.startFirmware_keeps | apply Keeps.ite | apply KeepsNext.ite | apply KeepsNext.next
    | split
    | dsimp only

theorem execFwStartDone_keeps {stacksReady : BitVec 8} {s : State} (hk : Keeps st0 s) :
    KeepsNext st0 (execFwStartDone stacksReady s) := by
  unfold execFwStartDone
  repeat' first
    | with_reducible intro _
    | with_reducible first | assumption | apply State.bootFail_keeps | apply State.enterBoot_keeps | apply State.wr_keeps | apply Keeps.ite | apply KeepsNext.ite | apply KeepsNext.next
    | with_reducible (apply Keeps.foldl; rotate_left; intro s b hk)
    | split
    | dsimp only

theorem execKeygenDone_keeps {entropyPass : Bool} {s : State} (hk : Keeps st0 s) :
    KeepsNext st0 (execKeygenDone entropyPass s) := by
  unfold execKeygenDone
  repeat' first
    | with_reducible first | assumption | apply State.bootFail_keeps | apply State.enterBoot_keeps | apply State.randomBytes_keeps | apply State.withBoot_keeps | apply State.wr_keeps | apply State.wrBytes_keeps | apply Keeps.ite | apply KeepsNext.ite | apply KeepsNext.next
    | split
    | dsimp only
    | with_reducible refine Keeps.snd ‹_› ?_

theorem execBootBistDone_keeps {benchFail : BitVec 168} {ok : Bool} {s : State} (hk : Keeps st0 s) :
    KeepsNext st0 (execBootBistDone benchFail ok s) := by
  unfold execBootBistDone
  repeat' first
    | with_reducible intro _
    | with_reducible first | assumption | apply State.bootFail_keeps | apply State.enterBoot_keeps | apply State.withBell_keeps | apply State.wr_keeps | apply Keeps.ite | apply KeepsNext.ite | apply KeepsNext.next
    | with_reducible (apply Keeps.foldl; rotate_left; intro s b hk)
    | split
    | dsimp only

theorem execBootStateTimeout_keeps {s : State} (hk : Keeps st0 s) :
    KeepsNext st0 (execBootStateTimeout s) := by
  unfold execBootStateTimeout
  repeat' first
    | with_reducible first | assumption | apply State.bootFail_keeps | apply State.enterBoot_keeps | apply Keeps.ite | apply KeepsNext.ite | apply KeepsNext.next
    | split
    | dsimp only

theorem State.proceed_keeps {s : State} (hk : Keeps st0 s) :
    Keeps st0 (State.proceed s) := by
  unfold State.proceed
  repeat' first
    | with_reducible intro _
    | with_reducible first | assumption | apply State.enterBoot_keeps | apply State.startTraining_keeps | apply State.withBoot_keeps | apply Keeps.ite
    | with_reducible (apply Keeps.foldl; rotate_left; intro s b hk)
    | split
    | dsimp only

theorem execProceed_keeps {h : HostPort} {s : State} (hk : Keeps st0 s) :
    KeepsNext st0 (execProceed h s) := by
  unfold execProceed
  repeat' with_reducible first | assumption | apply State.hostWrite_keeps | apply State.proceed_keeps | apply KeepsNext.next

theorem execLinkTrainingDone_keeps {s : State} (hk : Keeps st0 s) :
    KeepsNext st0 (execLinkTrainingDone s) := by
  unfold execLinkTrainingDone
  repeat' first
    | with_reducible first | assumption | apply State.enterBoot_keeps | apply Keeps.ite | apply KeepsNext.ite | apply KeepsNext.next
    | split
    | dsimp only

theorem execBellWaitDone_keeps {s : State} (hk : Keeps st0 s) :
    KeepsNext st0 (execBellWaitDone s) := by
  unfold execBellWaitDone
  repeat' first
    | with_reducible first | assumption | apply State.enterBoot_keeps | apply State.lock_keeps | apply Keeps.ite | apply KeepsNext.ite | apply KeepsNext.next
    | split
    | dsimp only

theorem execBellSlow_keeps {s : State} (hk : Keeps st0 s) :
    KeepsNext st0 (execBellSlow s) := by
  unfold execBellSlow
  repeat' first
    | with_reducible first | assumption | apply State.withBoot_keeps | apply Keeps.ite | apply KeepsNext.ite | apply KeepsNext.next
    | split
    | dsimp only

theorem State.shutDown_keeps {s : State} {v : Word} (hk : Keeps st0 s) :
    Keeps st0 (State.shutDown s v) := by
  unfold State.shutDown
  repeat' first
    | with_reducible intro _
    | with_reducible first | assumption | apply State.enterBoot_keeps | apply State.finish_keeps | apply State.toDisabled_keeps | apply State.withBoot_keeps | apply State.withFault_keeps | apply Keeps.ite
    | with_reducible (apply Keeps.foldl; rotate_left; intro s b hk)
    | split
    | dsimp only

theorem execShutdownGo_keeps {h : HostPort} {v : Word} {s : State} (hk : Keeps st0 s) :
    KeepsNext st0 (execShutdownGo h v s) := by
  unfold execShutdownGo
  repeat' first
    | with_reducible intro _
    | with_reducible first | assumption | apply State.hostWrite_keeps | apply State.shutDown_keeps | apply KeepsNext.next

theorem execShutdownDone_keeps {s : State} (hk : Keeps st0 s) :
    KeepsNext st0 (execShutdownDone s) := by
  unfold execShutdownDone
  repeat' first
    | with_reducible first | assumption | apply State.enterBoot_keeps | apply State.shutDown_keeps | apply State.withBoot_keeps | apply Keeps.ite | apply KeepsNext.ite | apply KeepsNext.next
    | split
    | dsimp only

theorem execMgmtHeartbeat_keeps {s : State} (hk : Keeps st0 s) :
    KeepsNext st0 (execMgmtHeartbeat s) := by
  unfold execMgmtHeartbeat
  repeat' first
    | with_reducible first | assumption | apply State.withBoot_keeps | apply State.wr_keeps | apply Keeps.ite | apply KeepsNext.ite | apply KeepsNext.next
    | split
    | dsimp only

theorem execWatchdogExpiry_keeps {s : State} (hk : Keeps st0 s) :
    KeepsNext st0 (execWatchdogExpiry s) := by
  unfold execWatchdogExpiry
  repeat' first
    | with_reducible first | assumption | apply State.resetMain_keeps | apply State.withBoot_keeps | apply State.wr_keeps | apply Keeps.ite | apply KeepsNext.ite | apply KeepsNext.next
    | split
    | dsimp only

end Sys2Proof.Machine
end

