-- ==== Sys2Proof/Laws/KeepsPoolRows.lean ====
section
/-!
SUPPORT. What the operations and meanings of Machine/PoolRows.lean keep (`Keeps`).
-/
namespace Sys2Proof.Machine

variable {st0 : State}

theorem State.poolInit_keeps {s : State} (hk : Keeps st0 s) :
    Keeps st0 (State.poolInit s) := by
  unfold State.poolInit
  repeat' first
    | exact fun h => h
    | with_reducible first | assumption | apply State.bump_keeps | apply State.enterBoot_keeps | apply State.withPool_keeps | apply Keeps.ite
    | split
    | dsimp only

theorem execPoolInit_keeps {h : HostPort} {s : State} (hk : Keeps st0 s) :
    KeepsNext st0 (execPoolInit h s) := by
  unfold execPoolInit
  repeat' with_reducible first | assumption | apply State.hostWrite_keeps | apply State.poolInit_keeps | apply KeepsNext.next

theorem State.zeroPool_keeps {s : State} (hk : Keeps st0 s) :
    Keeps st0 (State.zeroPool s) := by
  unfold State.zeroPool
  repeat' first
    | exact fun h => h
    | exact fun _ => rfl
    | with_reducible first | assumption | apply State.withNet_keeps | apply State.withPool_keeps | apply State.withRoll_keeps

theorem State.sizePool_keeps {s : State} (hk : Keeps st0 s) :
    Keeps st0 (State.sizePool s) := by
  unfold State.sizePool
  repeat' first
    | exact fun h => h
    | with_reducible intro _
    | with_reducible first | assumption | apply State.withPool_keeps | apply State.wr_keeps | apply State.wr64_keeps | apply Keeps.ite
    | with_reducible (apply Keeps.foldl; rotate_left; intro s b hk)
    | split
    | dsimp only
    | with_reducible refine Keeps.snd ‹_› ?_
    | with_reducible refine Keeps.fst ‹_› ?_

theorem State.openEvents_keeps {s : State} (hk : Keeps st0 s) :
    Keeps st0 (State.openEvents s) := by
  unfold State.openEvents
  repeat' first
    | with_reducible intro _
    | with_reducible first | assumption | apply State.sendCmd_keeps
    | with_reducible (apply Keeps.foldl; rotate_left; intro s b hk)

theorem execPoolInitDone_keeps {s : State} (hk : Keeps st0 s) :
    KeepsNext st0 (execPoolInitDone s) := by
  unfold execPoolInitDone
  repeat' first
    | exact fun h => h
    | with_reducible first | assumption | apply State.enterBoot_keeps | apply State.openEvents_keeps | apply State.poolInit_keeps | apply State.postEvent_keeps | apply State.sizePool_keeps | apply State.withPool_keeps | apply State.wr_keeps | apply State.zeroPool_keeps | apply Keeps.ite | apply KeepsNext.ite | apply KeepsNext.next
    | split
    | dsimp only

theorem State.clearPool_keeps {s : State} (hk : Keeps st0 s) :
    Keeps st0 (State.clearPool s) := by
  unfold State.clearPool
  repeat' with_reducible first | assumption | apply State.zeroRegs_keeps

theorem execPoolClrCounters_keeps {h : HostPort} {s : State} (hk : Keeps st0 s) :
    KeepsNext st0 (execPoolClrCounters h s) := by
  unfold execPoolClrCounters
  repeat' with_reducible first | assumption | apply State.clearPool_keeps | apply State.hostWrite_keeps | apply KeepsNext.next

theorem State.resumeShared_keeps {s : State} {w : Work} (hk : Keeps st0 s) :
    Keeps st0 (State.resumeShared s w) := by
  unfold State.resumeShared
  repeat' first
    | with_reducible first | assumption | apply State.dirGo_keeps | apply Keeps.ite
    | split
    | dsimp only

theorem execMigrationCommit_keeps {e : EngineId} {s : State} (hk : Keeps st0 s) :
    KeepsNext st0 (execMigrationCommit e s) := by
  unfold execMigrationCommit
  repeat' first
    | with_reducible first | assumption | apply State.commitWork_keeps | apply State.pump_keeps | apply State.resumeShared_keeps | apply KeepsNext.next
    | split
    | dsimp only

theorem execPromoteTimeout_keeps {s : State} (hk : Keeps st0 s) :
    KeepsNext st0 (execPromoteTimeout s) := by
  unfold execPromoteTimeout
  repeat' first
    | with_reducible intro _
    | with_reducible first | assumption | apply State.endServed_keeps | apply State.raisePool_keeps | apply State.retryWaiting_keeps | apply Keeps.ite | apply KeepsNext.ite | apply KeepsNext.next
    | split
    | dsimp only

theorem State.sweepFrame_keeps {s : State} {f : Nat} {r : FrameRec} (hk : Keeps st0 s) :
    Keeps st0 (State.sweepFrame s f r) := by
  unfold State.sweepFrame
  repeat' first
    | exact fun h => h
    | with_reducible intro _
    | with_reducible first | assumption | apply State.startDemotion_keeps | apply State.startPack_keeps | apply State.withPool_keeps | apply Keeps.ite
    | split
    | dsimp only

theorem execPressureSweep_keeps {s : State} (hk : Keeps st0 s) :
    KeepsNext st0 (execPressureSweep s) := by
  unfold execPressureSweep
  repeat' first
    | exact fun h => h
    | with_reducible intro _
    | with_reducible first | assumption | apply State.pump_keeps | apply State.sweepFrame_keeps | apply State.withPool_keeps | apply Keeps.ite | apply KeepsNext.ite | apply KeepsNext.next
    | split
    | dsimp only

theorem execAgeDemote_keeps {frame : Nat} {s : State} (hk : Keeps st0 s) :
    KeepsNext st0 (execAgeDemote frame s) := by
  unfold execAgeDemote
  repeat' first
    | with_reducible first | assumption | apply State.pump_keeps | apply State.startDemotion_keeps | apply Keeps.ite | apply KeepsNext.ite | apply KeepsNext.next
    | split
    | dsimp only

theorem State.correctLine_keeps {s : State} {k a : Nat} (hk : Keeps st0 s) :
    Keeps st0 (State.correctLine s k a) := by
  unfold State.correctLine
  repeat' with_reducible first | assumption | apply State.add64_keeps | apply State.raise_keeps

theorem execStackLineRead_keeps {k : StackId} {line : Nat} {flips : LineFlips} {s : State} (hk : Keeps st0 s) :
    KeepsNext st0 (execStackLineRead k line flips s) := by
  unfold execStackLineRead
  repeat' first
    | exact fun h => h
    | with_reducible intro _
    | with_reducible first | assumption | apply State.badRead_keeps | apply State.correctLine_keeps | apply State.withPool_keeps | apply Keeps.ite | apply KeepsNext.ite | apply KeepsNext.next
    | split
    | dsimp only

theorem execStackRefresh_keeps {_k : StackId} {s : State} (hk : Keeps st0 s) :
    KeepsNext st0 (execStackRefresh _k s) := by
  unfold execStackRefresh
  repeat' with_reducible first | assumption | apply KeepsNext.next

theorem execStackTempHigh_keeps {k : StackId} {s : State} (hk : Keeps st0 s) :
    KeepsNext st0 (execStackTempHigh k s) := by
  unfold execStackTempHigh
  repeat' first
    | with_reducible first | assumption | apply State.raise_keeps | apply State.wr_keeps | apply Keeps.ite | apply KeepsNext.ite | apply KeepsNext.next
    | split
    | dsimp only

theorem execStackPhyRetrain_keeps {k : StackId} {s : State} (hk : Keeps st0 s) :
    KeepsNext st0 (execStackPhyRetrain k s) := by
  unfold execStackPhyRetrain
  repeat' with_reducible first | assumption | apply State.raise_keeps | apply KeepsNext.next

theorem execScrubStack_keeps {k : StackId} {s : State} (hk : Keeps st0 s) :
    KeepsNext st0 (execScrubStack k s) := by
  unfold execScrubStack
  repeat' first
    | exact fun h => h
    | with_reducible first | assumption | apply State.activityDone_keeps | apply State.bump_keeps | apply State.requestActivity_keeps | apply State.withPool_keeps | apply Keeps.ite | apply KeepsNext.ite | apply KeepsNext.next
    | split
    | dsimp only

theorem execScrubLate_keeps {k : StackId} {s : State} (hk : Keeps st0 s) :
    KeepsNext st0 (execScrubLate k s) := by
  unfold execScrubLate
  repeat' first
    | exact fun h => h
    | with_reducible first | assumption | apply State.raise_keeps | apply State.withPool_keeps | apply Keeps.ite | apply KeepsNext.ite | apply KeepsNext.next
    | split
    | dsimp only

theorem State.askScrub_keeps {s : State} {k : Nat} (hk : Keeps st0 s) :
    Keeps st0 (State.askScrub s k) := by
  unfold State.askScrub
  repeat' with_reducible first | assumption | apply State.requestActivity_keeps

theorem execScrubNow_keeps {h : HostPort} {k : StackId} {s : State} (hk : Keeps st0 s) :
    KeepsNext st0 (execScrubNow h k s) := by
  unfold execScrubNow
  repeat' first
    | with_reducible intro _
    | with_reducible first | assumption | apply State.askScrub_keeps | apply State.hostWrite_keeps | apply KeepsNext.next

theorem State.clearStk_keeps {s : State} {k : Nat} (hk : Keeps st0 s) :
    Keeps st0 (State.clearStk s k) := by
  unfold State.clearStk
  repeat' with_reducible first | assumption | apply State.zeroRegs_keeps

theorem execStkClrCounters_keeps {h : HostPort} {k : StackId} {s : State} (hk : Keeps st0 s) :
    KeepsNext st0 (execStkClrCounters h k s) := by
  unfold execStkClrCounters
  repeat' first
    | with_reducible intro _
    | with_reducible first | assumption | apply State.clearStk_keeps | apply State.hostWrite_keeps | apply KeepsNext.next

end Sys2Proof.Machine
end

