-- ==== Sys2Proof/Laws/KeepsTrayRows.lean ====
section
/-!
SUPPORT. What the operations and meanings of Machine/TrayRows.lean keep (`Keeps`).
-/
namespace Sys2Proof.Machine

variable {st0 : State}

theorem execTrayIdentify_keeps {p : Port} {s : State} (hk : Keeps st0 s) :
    KeepsNext st0 (execTrayIdentify p s) := by
  unfold execTrayIdentify
  repeat' first
    | with_reducible intro _
    | with_reducible first | assumption | apply State.sendCmd_keeps | apply State.setTray_keeps | apply Keeps.ite | apply KeepsNext.ite | apply KeepsNext.next
    | split
    | dsimp only

theorem State.refuseTray_keeps {s : State} {t : Nat} (hk : Keeps st0 s) :
    Keeps st0 (State.refuseTray s t) := by
  unfold State.refuseTray
  repeat' with_reducible first | assumption | apply State.raiseTray_keeps | apply State.setTray_keeps

theorem execTrayIdentifyDone_keeps {t : TrayId} {descriptor : Bytes} {bad : Bytes} {erases : Bytes} {s : State} (hk : Keeps st0 s) :
    KeepsNext st0 (execTrayIdentifyDone t descriptor bad erases s) := by
  unfold execTrayIdentifyDone
  repeat' first
    | with_reducible intro _
    | with_reducible first | assumption | apply State.refuseTray_keeps | apply State.setTray_keeps | apply Keeps.ite | apply KeepsNext.ite | apply KeepsNext.next
    | split
    | dsimp only

theorem execTrayIdentifyTimeout_keeps {t : TrayId} {s : State} (hk : Keeps st0 s) :
    KeepsNext st0 (execTrayIdentifyTimeout t s) := by
  unfold execTrayIdentifyTimeout
  repeat' first
    | with_reducible first | assumption | apply State.refuseTray_keeps | apply Keeps.ite | apply KeepsNext.ite | apply KeepsNext.next
    | split
    | dsimp only

theorem execTrayLost_keeps {t : TrayId} {s : State} (hk : Keeps st0 s) :
    KeepsNext st0 (execTrayLost t s) := by
  unfold execTrayLost
  repeat' first
    | with_reducible first | assumption | apply State.loseTray_keeps | apply State.retryWaiting_keeps | apply State.setTray_keeps | apply Keeps.ite | apply KeepsNext.ite | apply KeepsNext.next
    | split
    | dsimp only

theorem State.countTimeout_keeps {s : State} {t : Nat} (hk : Keeps st0 s) :
    Keeps st0 (State.countTimeout s t) := by
  unfold State.countTimeout
  repeat' first
    | with_reducible intro _
    | with_reducible first | assumption | apply State.sendCmd_keeps | apply State.setTray_keeps | apply State.closeBlock_keeps | apply Keeps.ite
    | with_reducible (apply Keeps.foldl; rotate_left; intro s b hk)
    | split
    | dsimp only

theorem State.timedOut_keeps {s : State} {t : Nat} {c : TrayCmd} (hk : Keeps st0 s) :
    Keeps st0 (State.timedOut s t c) := by
  unfold State.timedOut
  repeat' first
    | exact id
    | with_reducible first | assumption | apply State.cmdEnded_keeps | apply State.loseTray_keeps | apply State.sendCmd_keeps | apply State.withPool_keeps | apply Keeps.ite
    | split
    | dsimp only

theorem execTrayCmdTimeout_keeps {t : TrayId} {cmdId : BitVec 16} {s : State} (hk : Keeps st0 s) :
    KeepsNext st0 (execTrayCmdTimeout t cmdId s) := by
  unfold execTrayCmdTimeout
  repeat' first
    | with_reducible intro _
    | with_reducible first | assumption | apply State.countTimeout_keeps | apply State.pump_keeps | apply State.raiseTray_keeps | apply State.setTray_keeps | apply State.timedOut_keeps | apply Keeps.ite | apply KeepsNext.ite | apply KeepsNext.next
    | split
    | dsimp only

theorem State.discardPlank_keeps {s : State} {plank : Nat} (hk : Keeps st0 s) :
    Keeps st0 (State.discardPlank s plank) := by
  unfold State.discardPlank
  repeat' first
    | with_reducible first | assumption | apply State.bump_keeps | apply State.dropFrame_keeps | apply State.invalidate_keeps | apply State.setEntry_keeps | apply State.storeRef_keeps | apply State.uncache_keeps
    | split
    | dsimp only

theorem State.readVictim_keeps {s : State} {t b : Nat} {wear : Bool} (hk : Keeps st0 s) :
    Keeps st0 (State.readVictim s t b wear) := by
  unfold State.readVictim
  repeat' first
    | with_reducible intro _
    | with_reducible first | assumption | apply State.sendCmd_keeps | apply Keeps.ite
    | with_reducible (apply Keeps.foldl; rotate_left; intro s b hk)
    | split
    | dsimp only

theorem State.leaveVictim_keeps {s : State} {t b : Nat} (hk : Keeps st0 s) :
    Keeps st0 (State.leaveVictim s t b) := by
  unfold State.leaveVictim
  repeat' with_reducible first | assumption | apply State.retireBlock_keeps | apply Keeps.ite

theorem State.gcStep_keeps {s : State} {t : Nat} {a : Activity} (hk : Keeps st0 s) :
    Keeps st0 (State.gcStep s t a) := by
  unfold State.gcStep
  repeat' first
    | with_reducible first | assumption | apply State.activityDone_keeps | apply State.leaveVictim_keeps | apply State.pump_keeps | apply State.readVictim_keeps | apply State.setTray_keeps | apply Keeps.ite
    | split
    | dsimp only

theorem execGcFlash_keeps {t : TrayId} {s : State} (hk : Keeps st0 s) :
    KeepsNext st0 (execGcFlash t s) := by
  unfold execGcFlash
  repeat' first
    | with_reducible first | assumption | apply State.gcStep_keeps | apply State.requestActivity_keeps | apply Keeps.ite | apply KeepsNext.ite | apply KeepsNext.next
    | split
    | dsimp only

theorem State.wearStep_keeps {s : State} {t : Nat} {a : Activity} (hk : Keeps st0 s) :
    Keeps st0 (State.wearStep s t a) := by
  unfold State.wearStep
  repeat' first
    | with_reducible first | assumption | apply State.activityDone_keeps | apply State.leaveVictim_keeps | apply State.pump_keeps | apply State.readVictim_keeps | apply State.setTray_keeps | apply Keeps.ite
    | split
    | dsimp only

theorem execWearLevel_keeps {t : TrayId} {s : State} (hk : Keeps st0 s) :
    KeepsNext st0 (execWearLevel t s) := by
  unfold execWearLevel
  repeat' first
    | with_reducible first | assumption | apply State.requestActivity_keeps | apply State.wearStep_keeps | apply Keeps.ite | apply KeepsNext.ite | apply KeepsNext.next
    | split
    | dsimp only

theorem State.buildCard_keeps {s : State} {t : Nat} (hk : Keeps st0 s) :
    Keeps st0 (State.buildCard s t) := by
  unfold State.buildCard
  repeat' first
    | with_reducible intro _
    | with_reducible first | assumption | apply State.crossNote_keeps | apply State.crossShare_keeps | apply State.wr_keeps
    | with_reducible (apply Keeps.foldl; rotate_left; intro s b hk)

theorem execTrayCompletion_keeps {t : TrayId} {msg : TrayMsg} {s : State} (hk : Keeps st0 s) :
    KeepsNext st0 (execTrayCompletion t msg s) := by
  unfold execTrayCompletion
  repeat' first
    | with_reducible first | assumption | apply State.buildCard_keeps | apply State.endCmd_keeps | apply State.raiseTray_keeps | apply Keeps.ite | apply KeepsNext.ite | apply KeepsNext.next
    | split
    | dsimp only

theorem State.renewCard_keeps {s : State} {t : Nat} (hk : Keeps st0 s) :
    Keeps st0 (State.renewCard s t) := by
  unfold State.renewCard
  repeat' first
    | with_reducible first | assumption | apply State.buildCard_keeps | apply State.sendCmd_keeps | apply State.setTray_keeps | apply Keeps.ite
    | split
    | dsimp only

theorem execReportCardRebuild_keeps {s : State} (hk : Keeps st0 s) :
    KeepsNext st0 (execReportCardRebuild s) := by
  unfold execReportCardRebuild
  repeat' first
    | with_reducible intro _
    | with_reducible first | assumption | apply State.renewCard_keeps | apply KeepsNext.next
    | with_reducible (apply Keeps.foldl; rotate_left; intro s b hk)

theorem State.clearTrays_keeps {s : State} (hk : Keeps st0 s) :
    Keeps st0 (State.clearTrays s) := by
  unfold State.clearTrays
  repeat' first
    | exact fun h => h
    | with_reducible intro _
    | with_reducible first | assumption | apply State.withPool_keeps | apply State.zeroRegs_keeps

theorem execTrayClrCounters_keeps {h : HostPort} {s : State} (hk : Keeps st0 s) :
    KeepsNext st0 (execTrayClrCounters h s) := by
  unfold execTrayClrCounters
  repeat' with_reducible first | assumption | apply State.clearTrays_keeps | apply State.hostWrite_keeps | apply KeepsNext.next

end Sys2Proof.Machine
end

