-- ==== Sys2Proof/Laws/KeepsHostOps.lean ====
section
/-!
SUPPORT. What the operations and meanings of Machine/HostOps.lean keep (`Keeps`).
-/
namespace Sys2Proof.Machine

variable {st0 : State}

theorem State.refreshHrdy_keeps {s : State} (hk : Keeps st0 s) :
    Keeps st0 (State.refreshHrdy s) := by
  unfold State.refreshHrdy
  repeat' with_reducible first | assumption | apply State.withHost_keeps

theorem State.restartRing_keeps {s : State} {r : RingReg} (hk : Keeps st0 s) :
    Keeps st0 (State.restartRing s r) := by
  unfold State.restartRing
  repeat' first
    | with_reducible first | assumption | apply State.withHost_keeps | apply State.wr_keeps | apply Keeps.ite
    | split
    | dsimp only

theorem State.flushAll_keeps {s : State} {h : HostPort} (hk : Keeps st0 s) :
    Keeps st0 (State.flushAll s h) := by
  unfold State.flushAll
  repeat' first
    | with_reducible intro _
    | with_reducible first | assumption | apply flushHeld_keeps | apply Keeps.ite
    | with_reducible (apply Keeps.foldl; rotate_left; intro s b hk)
    | split
    | dsimp only

theorem State.writeRingCfg_keeps {s : State} {h : HostPort} {r : RingReg} {v : Word} (hk : Keeps st0 s) :
    Keeps st0 (State.writeRingCfg s h r v) := by
  unfold State.writeRingCfg
  repeat' first
    | with_reducible first | assumption | apply State.flushAll_keeps | apply State.raiseHost_keeps | apply State.refreshHrdy_keeps | apply State.restartRing_keeps | apply State.withHost_keeps | apply State.wrMasked_keeps | apply Keeps.ite
    | split
    | dsimp only

theorem State.writeRing_keeps {s : State} {h : HostPort} {off : Nat} {v : Word} (hk : Keeps st0 s) :
    Keeps st0 (State.writeRing s h off v) := by
  unfold State.writeRing
  repeat' first
    | with_reducible first | assumption | apply State.dropHeld_keeps | apply State.holdLo_keeps | apply State.raiseHost_keeps | apply State.wrMasked_keeps | apply State.writeRingCfg_keeps | apply Keeps.ite
    | split
    | dsimp only

theorem execRingCfgWrite_keeps {h : HostPort} {off : BitVec 25} {v : Word} {s : State} (hk : Keeps st0 s) :
    KeepsNext st0 (execRingCfgWrite h off v s) := by
  unfold execRingCfgWrite
  repeat' first
    | with_reducible intro _
    | with_reducible first | assumption | apply State.hostWrite_keeps | apply State.writeRing_keeps | apply KeepsNext.next

theorem State.doorbell_keeps {s : State} {set : HostPort} {f : State → State} (hk : Keeps st0 s) (hf : ∀ t, Keeps st0 t → Keeps st0 (f t)) :
    Keeps st0 (State.doorbell s set f) := by
  unfold State.doorbell
  repeat' first
    | with_reducible first | assumption | apply State.touch_keeps | apply Keeps.ite
    | split
    | dsimp only
    | with_reducible apply hf

theorem State.ringSq_keeps {s : State} {h : HostPort} {r : RingId} {v : Word} (hk : Keeps st0 s) :
    Keeps st0 (State.ringSq s h r v) := by
  unfold State.ringSq
  repeat' first
    | with_reducible first | assumption | apply State.raiseHost_keeps | apply State.wr_keeps | apply Keeps.ite
    | split
    | dsimp only

theorem execSqDoorbell_keeps {h : HostPort} {r : RingId} {v : Word} {s : State} (hk : Keeps st0 s) :
    KeepsNext st0 (execSqDoorbell h r v s) := by
  unfold execSqDoorbell
  repeat' first
    | with_reducible intro _
    | with_reducible first | assumption | apply State.doorbell_keeps | apply State.ringSq_keeps | apply KeepsNext.next

theorem State.ringHeadDb_keeps {s : State} {h : HostPort} {r : Nat} {v : Word} (hk : Keeps st0 s) :
    Keeps st0 (State.ringHeadDb s h r v) := by
  unfold State.ringHeadDb
  repeat' first
    | with_reducible intro _
    | with_reducible first | assumption | apply State.raiseHost_keeps | apply State.refreshHrdy_keeps | apply State.withHost_keeps | apply State.wr_keeps | apply flushHeld_keeps | apply Keeps.ite
    | split
    | dsimp only

theorem execCqDoorbell_keeps {h : HostPort} {r : RingId} {v : Word} {s : State} (hk : Keeps st0 s) :
    KeepsNext st0 (execCqDoorbell h r v s) := by
  unfold execCqDoorbell
  repeat' first
    | with_reducible intro _
    | with_reducible first | assumption | apply State.doorbell_keeps | apply State.ringHeadDb_keeps | apply KeepsNext.next

theorem execEvtDoorbell_keeps {h : HostPort} {v : Word} {s : State} (hk : Keeps st0 s) :
    KeepsNext st0 (execEvtDoorbell h v s) := by
  unfold execEvtDoorbell
  repeat' first
    | with_reducible intro _
    | with_reducible first | assumption | apply State.doorbell_keeps | apply State.ringHeadDb_keeps | apply KeepsNext.next

theorem execIntTimeout_keeps {h : HostPort} {ring : Fin 65} {s : State} (hk : Keeps st0 s) :
    KeepsNext st0 (execIntTimeout h ring s) := by
  unfold execIntTimeout
  repeat' first
    | with_reducible first | assumption | apply State.emit_keeps | apply State.withHost_keeps | apply Keeps.ite | apply KeepsNext.ite | apply KeepsNext.next
    | split
    | dsimp only

theorem execHrdyReadbackDone_keeps {h : HostPort} {ring : Fin 65} {s : State} (hk : Keeps st0 s) :
    KeepsNext st0 (execHrdyReadbackDone h ring s) := by
  unfold execHrdyReadbackDone
  repeat' with_reducible first | assumption | apply State.refreshHrdy_keeps | apply State.withHost_keeps | apply KeepsNext.next

theorem execDescriptorFetch_keeps {h : HostPort} {q : RingId} {data : Bytes} {s : State} (hk : Keeps st0 s) :
    KeepsNext st0 (execDescriptorFetch h q data s) := by
  unfold execDescriptorFetch
  repeat' first
    | with_reducible first | assumption | apply State.finish_keeps | apply State.interim_keeps | apply State.withHost_keeps | apply State.wr_keeps | apply Keeps.ite | apply KeepsNext.ite | apply KeepsNext.next
    | split
    | dsimp only

theorem State.setDesc_keeps {s : State} {h : HostPort} {d : Desc} (hk : Keeps st0 s) :
    Keeps st0 (State.setDesc s h d) := by
  unfold State.setDesc
  repeat' first
    | with_reducible intro _
    | with_reducible first | assumption | apply State.withHost_keeps | apply Keeps.ite
    | split
    | dsimp only

theorem State.withDesc_keeps {s : State} {h : HostPort} {q : RingId} {pick : Desc → Bool} {run : State → Desc → State} (hk : Keeps st0 s) (hf : ∀ t x0, Keeps st0 t → Keeps st0 (run t x0)) :
    Keeps st0 (State.withDesc s h q pick run) := by
  unfold State.withDesc
  repeat' first
    | with_reducible first | assumption | apply State.setDesc_keeps | apply Keeps.ite
    | split
    | dsimp only
    | with_reducible apply hf

theorem State.done_keeps {s : State} {h : HostPort} {d : Desc} {st : Status} {result : Nat} (hk : Keeps st0 s) :
    Keeps st0 (State.done s h d st result) := by
  unfold State.done
  repeat' with_reducible first | assumption | apply State.finish_keeps

theorem execNop_keeps {h : HostPort} {q : RingId} {s : State} (hk : Keeps st0 s) :
    KeepsNext st0 (execNop h q s) := by
  unfold execNop
  repeat' first
    | with_reducible intro _
    | with_reducible first | assumption | apply State.done_keeps | apply State.withDesc_keeps | apply KeepsNext.next

theorem State.loadDisarms_keeps {s : State} (hk : Keeps st0 s) :
    Keeps st0 (State.loadDisarms s) := by
  unfold State.loadDisarms
  repeat' first
    | with_reducible first | assumption | apply State.disarm_keeps | apply State.raise_keeps | apply State.withdrawAnn_keeps | apply Keeps.ite
    | split
    | dsimp only

theorem execHostCompletionTimeout_keeps {h : HostPort} {q : RingId} {s : State} (hk : Keeps st0 s) :
    KeepsNext st0 (execHostCompletionTimeout h q s) := by
  unfold execHostCompletionTimeout
  repeat' first
    | with_reducible intro _
    | with_reducible first | assumption | apply State.done_keeps | apply State.loadDisarms_keeps | apply State.raiseHost_keeps | apply State.withDesc_keeps | apply Keeps.ite | apply KeepsNext.ite | apply KeepsNext.next
    | split
    | dsimp only

theorem State.clearHost_keeps {s : State} {h : HostPort} (hk : Keeps st0 s) :
    Keeps st0 (State.clearHost s h) := by
  unfold State.clearHost
  repeat' with_reducible first | assumption | apply State.evtDrop_keeps | apply State.zeroRegs_keeps

theorem execHostClrCounters_keeps {h : HostPort} {s : State} (hk : Keeps st0 s) :
    KeepsNext st0 (execHostClrCounters h s) := by
  unfold execHostClrCounters
  repeat' first
    | with_reducible intro _
    | with_reducible first | assumption | apply State.clearHost_keeps | apply State.hostWrite_keeps | apply KeepsNext.next

end Sys2Proof.Machine
end

