-- ==== Sys2Proof/Laws/KeepsTableRows.lean ====
section
/-!
SUPPORT. What the operations and meanings of Machine/TableRows.lean keep (`Keeps`).
-/
namespace Sys2Proof.Machine

variable {st0 : State}

theorem State.ttWrite_keeps {s : State} {kind num first : Nat} {clear : Bool} {es : List (BitVec 128)} (hk : Keeps st0 s) :
    Keeps st0 (State.ttWrite s kind num first clear es) := by
  unfold State.ttWrite
  repeat' first
    | with_reducible intro _
    | with_reducible first | assumption | apply State.withTt_keeps | apply Keeps.ite
    | split
    | dsimp only

theorem execTtLoad_keeps {h : HostPort} {q : RingId} {data : Bytes} {s : State} (hk : Keeps st0 s) :
    KeepsNext st0 (execTtLoad h q data s) := by
  unfold execTtLoad
  repeat' first
    | with_reducible intro _
    | with_reducible first | assumption | apply State.done_keeps | apply State.loadDisarms_keeps | apply State.ttWrite_keeps | apply State.withDesc_keeps | apply Keeps.ite | apply KeepsNext.ite | apply KeepsNext.next
    | split
    | dsimp only

theorem State.armTt_keeps {s : State} {tag : Word} {len : Nat} {at_ : BellTime} (hk : Keeps st0 s) :
    Keeps st0 (State.armTt s tag len at_).1 := by
  unfold State.armTt
  try dsimp only
  repeat' first
    | with_reducible first | assumption | apply State.withTt_keeps | apply Keeps.ite | apply Keeps.iteSnd | apply Keeps.iteFst
    | split
    | dsimp only

theorem execTtArm_keeps {h : HostPort} {q : RingId} {s : State} (hk : Keeps st0 s) :
    KeepsNext st0 (execTtArm h q s) := by
  unfold execTtArm
  repeat' first
    | with_reducible intro _
    | with_reducible first | assumption | apply State.armTt_keeps | apply State.done_keeps | apply State.withDesc_keeps | apply Keeps.ite | apply KeepsNext.ite | apply KeepsNext.next
    | split
    | dsimp only
    | with_reducible refine Keeps.fst ‹_› ?_

theorem State.cancelTt_keeps {s : State} (hk : Keeps st0 s) :
    Keeps st0 (State.cancelTt s) := by
  unfold State.cancelTt
  repeat' first
    | with_reducible first | assumption | apply State.disarm_keeps | apply State.raise_keeps | apply State.withdrawAnn_keeps | apply Keeps.ite
    | split
    | dsimp only

theorem execTtCancel_keeps {h : HostPort} {q : RingId} {s : State} (hk : Keeps st0 s) :
    KeepsNext st0 (execTtCancel h q s) := by
  unfold execTtCancel
  repeat' first
    | with_reducible intro _
    | with_reducible first | assumption | apply State.cancelTt_keeps | apply State.done_keeps | apply State.withDesc_keeps | apply KeepsNext.next

theorem State.dropNoRecess_keeps {s : State} (hk : Keeps st0 s) :
    Keeps st0 (State.dropNoRecess s) := by
  unfold State.dropNoRecess
  repeat' first
    | with_reducible intro _
    | with_reducible first | assumption | apply State.finishFor_keeps | apply State.raise_keeps | apply State.withFault_keeps
    | with_reducible (apply Keeps.foldl; rotate_left; intro s b hk)

theorem State.activateTt_keeps {s : State} {a : Announce} (hk : Keeps st0 s) :
    Keeps st0 (State.activateTt s a) := by
  unfold State.activateTt
  repeat' first
    | with_reducible intro _
    | with_reducible first | assumption | apply State.dropNoRecess_keeps | apply State.withBell_keeps | apply State.withSw_keeps | apply State.withTt_keeps | apply State.wr_keeps | apply Keeps.ite
    | split
    | dsimp only

theorem execTimetableSwitchOver_keeps {s : State} (hk : Keeps st0 s) :
    KeepsNext st0 (execTimetableSwitchOver s) := by
  unfold execTimetableSwitchOver
  repeat' first
    | with_reducible first | assumption | apply State.activateTt_keeps | apply State.raise_keeps | apply State.withBell_keeps | apply State.withTt_keeps | apply State.wr_keeps | apply Keeps.ite | apply KeepsNext.ite | apply KeepsNext.next
    | split
    | dsimp only

theorem State.refuseArmed_keeps {s : State} {h : HostPort} {d : Desc} (hk : Keeps st0 s) :
    Keeps st0 (State.refuseArmed s h d) := by
  unfold State.refuseArmed
  repeat' with_reducible first | assumption | apply State.done_keeps | apply State.raiseHost_keeps

theorem State.loadRefused_keeps {s : State} (hk : Keeps st0 s) :
    Keeps st0 (State.loadRefused s) := by
  unfold State.loadRefused
  repeat' with_reducible first | assumption | apply State.raiseMort_keeps

theorem State.writeMort_keeps {s : State} {h : HostPort} {d : Desc} {job : Tab (BitVec 64)} {jat : Tab (BitVec 128)} {adm : Tab (BitVec 16)} (hk : Keeps st0 s) :
    Keeps st0 (State.writeMort s h d job jat adm) := by
  unfold State.writeMort
  repeat' first
    | with_reducible first | assumption | apply State.done_keeps | apply State.loadRefused_keeps | apply State.withMort_keeps | apply Keeps.ite
    | split
    | dsimp only

theorem State.loadMort_keeps {s : State} {h : HostPort} {d : Desc} {data : Bytes} (hk : Keeps st0 s) :
    Keeps st0 (State.loadMort s h d data) := by
  unfold State.loadMort
  repeat' first
    | with_reducible intro _
    | with_reducible first | assumption | apply State.done_keeps | apply State.refuseArmed_keeps | apply State.writeMort_keeps | apply Keeps.ite
    | split
    | dsimp only

theorem execMortLoad_keeps {h : HostPort} {q : RingId} {data : Bytes} {s : State} (hk : Keeps st0 s) :
    KeepsNext st0 (execMortLoad h q data s) := by
  unfold execMortLoad
  repeat' first
    | with_reducible intro _
    | with_reducible first | assumption | apply State.loadMort_keeps | apply State.withDesc_keeps | apply KeepsNext.next

theorem State.loadDrawers_keeps {s : State} {h : HostPort} {d : Desc} {data : Bytes} (hk : Keeps st0 s) :
    Keeps st0 (State.loadDrawers s h d data) := by
  unfold State.loadDrawers
  repeat' first
    | with_reducible intro _
    | with_reducible first | assumption | apply State.done_keeps | apply State.loadRefused_keeps | apply State.raiseDir_keeps | apply State.raisePool_keeps | apply State.refuseArmed_keeps | apply State.withMort_keeps | apply Keeps.ite
    | with_reducible (apply Keeps.foldl; rotate_left; intro s b hk)
    | split
    | dsimp only
    | with_reducible refine Keeps.snd ‹_› ?_
    | with_reducible refine Keeps.fst ‹_› ?_

theorem execDrawerLoad_keeps {h : HostPort} {q : RingId} {data : Bytes} {s : State} (hk : Keeps st0 s) :
    KeepsNext st0 (execDrawerLoad h q data s) := by
  unfold execDrawerLoad
  repeat' first
    | with_reducible intro _
    | with_reducible first | assumption | apply State.loadDrawers_keeps | apply State.withDesc_keeps | apply KeepsNext.next

theorem State.loadObjects_keeps {s : State} {h : HostPort} {d : Desc} {data : Bytes} (hk : Keeps st0 s) :
    Keeps st0 (State.loadObjects s h d data) := by
  unfold State.loadObjects
  repeat' first
    | exact fun h => h
    | with_reducible intro _
    | with_reducible first | assumption | apply State.done_keeps | apply State.refuseArmed_keeps | apply State.withPool_keeps | apply Keeps.ite
    | split
    | dsimp only

theorem execObjLoad_keeps {h : HostPort} {q : RingId} {data : Bytes} {s : State} (hk : Keeps st0 s) :
    KeepsNext st0 (execObjLoad h q data s) := by
  unfold execObjLoad
  repeat' first
    | with_reducible intro _
    | with_reducible first | assumption | apply State.loadObjects_keeps | apply State.withDesc_keeps | apply KeepsNext.next

theorem State.setArmed_keeps {s : State} {t : TableSet} {p : Option Point} (hk : Keeps st0 s) :
    Keeps st0 (State.setArmed s t p) := by
  unfold State.setArmed
  repeat' first
    | with_reducible first | assumption | apply State.withTt_keeps
    | split
    | dsimp only

theorem execBankArm_keeps {h : HostPort} {q : RingId} {s : State} (hk : Keeps st0 s) :
    KeepsNext st0 (execBankArm h q s) := by
  unfold execBankArm
  repeat' first
    | with_reducible intro _
    | with_reducible first | assumption | apply State.done_keeps | apply State.setArmed_keeps | apply State.withDesc_keeps | apply Keeps.ite | apply KeepsNext.ite | apply KeepsNext.next
    | split
    | dsimp only

theorem State.switchMort_keeps {s : State} (hk : Keeps st0 s) :
    Keeps st0 (State.switchMort s) := by
  unfold State.switchMort
  repeat' first
    | with_reducible intro _
    | with_reducible first | assumption | apply State.fillPolicer_keeps | apply State.withMort_keeps | apply Keeps.ite
    | with_reducible (apply Keeps.foldl; rotate_left; intro s b hk)
    | split
    | dsimp only

theorem State.switchDrawers_keeps {s : State} (hk : Keeps st0 s) :
    Keeps st0 (State.switchDrawers s) := by
  unfold State.switchDrawers
  repeat' first
    | with_reducible intro _
    | with_reducible first | assumption | apply State.clearWritten_keeps | apply State.withMort_keeps | apply Keeps.ite
    | with_reducible (apply Keeps.foldl; rotate_left; intro s b hk)
    | split
    | dsimp only

theorem State.switchObjects_keeps {s : State} (hk : Keeps st0 s) :
    Keeps st0 (State.switchObjects s) := by
  unfold State.switchObjects
  repeat' first
    | exact fun h => h
    | with_reducible intro _
    | with_reducible first | assumption | apply State.raisePool_keeps | apply State.withPool_keeps
    | with_reducible (apply Keeps.foldl; rotate_left; intro s b hk)

theorem State.copyPower_keeps {s : State} (hk : Keeps st0 s) :
    Keeps st0 (State.copyPower s) := by
  unfold State.copyPower
  repeat' with_reducible first | assumption | apply State.pin_keeps | apply State.wr_keeps | apply State.wr64_keeps

theorem execJobViewCopy_keeps {s : State} (hk : Keeps st0 s) :
    KeepsNext st0 (execJobViewCopy s) := by
  unfold execJobViewCopy
  repeat' first
    | exact Nat.le_add_right _ _
    | with_reducible intro _
    | with_reducible first | assumption | apply State.copyPower_keeps | apply State.withFree_keeps | apply State.withMod_keeps | apply State.withMort_keeps | apply Keeps.ite | apply KeepsNext.ite | apply KeepsNext.next
    | with_reducible (apply Keeps.foldl; rotate_left; intro s b hk)
    | split
    | dsimp only
    | with_reducible refine Keeps.snd ‹_› ?_
    | with_reducible refine Keeps.fst ‹_› ?_

end Sys2Proof.Machine
end

