-- ==== Sys2Proof/Laws/KeepsRollOps.lean ====
section
/-!
SUPPORT. What the operations and meanings of Machine/RollOps.lean keep (`Keeps`).
-/
namespace Sys2Proof.Machine

variable {st0 : State}

theorem State.setRollLive_keeps {s : State} {slot : Nat} {l : Live} (hk : Keeps st0 s) :
    Keeps st0 (State.setRollLive s slot l) := by
  unfold State.setRollLive
  repeat' with_reducible first | assumption | apply State.withRoll_keeps

theorem State.raiseRoll_keeps {s : State} {b slot sub : Nat} {st : Status} {f : Option Frame} (hk : Keeps st0 s) :
    Keeps st0 (State.raiseRoll s b slot sub st f) := by
  unfold State.raiseRoll
  repeat' first
    | with_reducible first | assumption | apply State.raise_keeps
    | split
    | dsimp only

theorem State.countStale_keeps {s : State} {slot sub : Nat} {f : Option Frame} (hk : Keeps st0 s) :
    Keeps st0 (State.countStale s slot sub f) := by
  unfold State.countStale
  repeat' with_reducible first | assumption | apply State.bump_keeps | apply State.raiseRoll_keeps

theorem State.rollSend_keeps {s : State} {msg : RollMsg} {slot : Nat} {c : Cls} {h : HdrFields} {payload : Bytes} (hk : Keeps st0 s) :
    Keeps st0 (State.rollSend s msg slot c h payload) := by
  unfold State.rollSend
  repeat' with_reducible first | assumption | apply State.originate_keeps | apply State.withRoll_keeps

theorem State.rollEvent_keeps {s : State} {kind slot : Nat} {agents : List (BitVec 24)} (hk : Keeps st0 s) :
    Keeps st0 (State.rollEvent s kind slot agents) := by
  unfold State.rollEvent
  repeat' first
    | with_reducible intro _
    | with_reducible first | assumption | apply State.postEvent_keeps | apply State.record_keeps | apply State.rollSend_keeps | apply State.traceEv_keeps
    | with_reducible (apply Keeps.foldl; rotate_left; intro s b hk)

theorem State.sendWatch_keeps {s : State} {a : AgentId} {on : Bool} (hk : Keeps st0 s) :
    Keeps st0 (State.sendWatch s a on) := by
  unfold State.sendWatch
  repeat' first
    | with_reducible first | assumption | apply State.rollSend_keeps | apply Keeps.ite
    | split
    | dsimp only

theorem State.watchAgent_keeps {s : State} {a : AgentId} (hk : Keeps st0 s) :
    Keeps st0 (State.watchAgent s a) := by
  unfold State.watchAgent
  repeat' first
    | with_reducible intro _
    | with_reducible first | assumption | apply State.sendWatch_keeps | apply State.withRoll_keeps | apply Keeps.ite
    | split
    | dsimp only

theorem State.dropWatches_keeps {s : State} (hk : Keeps st0 s) :
    Keeps st0 (State.dropWatches s) := by
  unfold State.dropWatches
  repeat' first
    | with_reducible intro _
    | with_reducible first | assumption | apply State.sendWatch_keeps | apply State.withRoll_keeps
    | with_reducible (apply Keeps.foldl; rotate_left; intro s b hk)

theorem State.returnPass_keeps {s : State} {slot : Nat} {bump : Bool} {agents : List (BitVec 24)} {sub : Nat} {f : Option Frame} (hk : Keeps st0 s) :
    Keeps st0 (State.returnPass s slot bump agents sub f) := by
  unfold State.returnPass
  repeat' first
    | with_reducible first | assumption | apply State.bump_keeps | apply State.raiseRoll_keeps | apply State.rollEvent_keeps | apply State.setRollLive_keeps | apply Keeps.ite
    | split
    | dsimp only

theorem State.orphanPass_keeps {s : State} {slot : Nat} {bump : Bool} {agents : List (BitVec 24)} (hk : Keeps st0 s) :
    Keeps st0 (State.orphanPass s slot bump agents) := by
  unfold State.orphanPass
  repeat' first
    | with_reducible first | assumption | apply State.bump_keeps | apply State.raiseRoll_keeps | apply State.rollEvent_keeps | apply State.setRollLive_keeps | apply Keeps.ite
    | split
    | dsimp only

theorem State.settlePass_keeps {s : State} {slot : Nat} (hk : Keeps st0 s) :
    Keeps st0 (State.settlePass s slot) := by
  unfold State.settlePass
  repeat' first
    | with_reducible first | assumption | apply State.orphanPass_keeps | apply Keeps.ite
    | split
    | dsimp only

theorem State.applyDeadline_keeps {s : State} {slot : Nat} (hk : Keeps st0 s) :
    Keeps st0 (State.applyDeadline s slot) := by
  unfold State.applyDeadline
  repeat' first
    | with_reducible first | assumption | apply State.dropWatches_keeps | apply State.orphanPass_keeps | apply State.returnPass_keeps | apply Keeps.ite
    | split
    | dsimp only

theorem State.deathOf_keeps {s : State} {a : AgentId} {slot : Nat} (hk : Keeps st0 s) :
    Keeps st0 (State.deathOf s a slot) := by
  unfold State.deathOf
  repeat' first
    | with_reducible first | assumption | apply State.returnPass_keeps | apply State.setRollLive_keeps | apply State.settlePass_keeps | apply Keeps.ite
    | split
    | dsimp only

theorem State.agentDied_keeps {s : State} {a : AgentId} (hk : Keeps st0 s) :
    Keeps st0 (State.agentDied s a) := by
  unfold State.agentDied
  repeat' first
    | with_reducible intro _
    | with_reducible first | assumption | apply State.deathOf_keeps | apply State.dropWatches_keeps | apply State.withRoll_keeps
    | with_reducible (apply Keeps.foldl; rotate_left; intro s b hk)
    | split
    | dsimp only
    | with_reducible refine Keeps.snd ‹_› ?_
    | with_reducible refine Keeps.fst ‹_› ?_

theorem State.rollNotify_keeps {s : State} {dest : BitVec 12} {payload : Bytes} (hk : Keeps st0 s) :
    Keeps st0 (State.rollNotify s dest payload) := by
  unfold State.rollNotify
  repeat' first
    | with_reducible first | assumption | apply State.enqueue_keeps | apply State.noRoute_keeps | apply State.toPort_keeps | apply State.withMort_keeps | apply Keeps.ite
    | split
    | dsimp only

theorem State.startDiscards_keeps {s : State} {slot : Nat} {p : Passed} {committed : Nat} {block : Bytes} (hk : Keeps st0 s) :
    Keeps st0 (State.startDiscards s slot p committed block) := by
  unfold State.startDiscards
  repeat' first
    | with_reducible intro _
    | with_reducible first | assumption | apply State.rollSend_keeps | apply State.withRoll_keeps | apply Keeps.ite
    | with_reducible (apply Keeps.foldl; rotate_left; intro s b hk)
    | split
    | dsimp only
    | with_reducible refine Keeps.snd ‹_› ?_
    | with_reducible refine Keeps.fst ‹_› ?_

theorem State.setClaim_keeps {s : State} {k : Claim} (hk : Keeps st0 s) :
    Keeps st0 (State.setClaim s k) := by
  unfold State.setClaim
  repeat' first
    | with_reducible intro _
    | with_reducible first | assumption | apply State.withRoll_keeps | apply Keeps.ite
    | split
    | dsimp only

theorem State.discardFailed_keeps {s : State} {slot : Nat} {st : Status} (hk : Keeps st0 s) :
    Keeps st0 (State.discardFailed s slot st) := by
  unfold State.discardFailed
  repeat' with_reducible first | assumption | apply State.raiseRoll_keeps

theorem State.tableLine_keeps {s : State} {slot line : Nat} {st : Status} {data : Bytes} (hk : Keeps st0 s) :
    Keeps st0 (State.tableLine s slot line st data) := by
  unfold State.tableLine
  repeat' first
    | with_reducible intro _
    | with_reducible first | assumption | apply State.discardFailed_keeps | apply State.setClaim_keeps | apply Keeps.ite
    | with_reducible (apply Keeps.foldl; rotate_left; intro s b hk)
    | split
    | dsimp only
    | with_reducible refine Keeps.snd ‹_› ?_
    | with_reducible refine Keeps.fst ‹_› ?_

theorem State.claimPlank_keeps {s : State} {slot : Nat} {a : Dword} (hk : Keeps st0 s) :
    KeepsOpt st0 (State.claimPlank s slot a) := by
  unfold State.claimPlank
  try dsimp only
  repeat' first
    | with_reducible first | assumption | apply State.discardFailed_keeps | apply State.discardPlank_keeps | apply State.refuse_keeps | apply Keeps.ite | apply KeepsOpt.ite | apply KeepsOpt.some | exact KeepsOpt.none
    | split
    | dsimp only

end Sys2Proof.Machine
end

