-- ==== Sys2Proof/Laws/KeepsVeneerOps.lean ====
section
/-!
SUPPORT. What the operations and meanings of Machine/VeneerOps.lean keep (`Keeps`).
-/
namespace Sys2Proof.Machine

variable {st0 : State}

theorem State.raiseVen_keeps {s : State} {b stream gen engine : Nat} {st : Status} {plank : Nat} (hk : Keeps st0 s) :
    Keeps st0 (State.raiseVen s b stream gen engine st plank) := by
  unfold State.raiseVen
  repeat' first
    | with_reducible first | assumption | apply State.raise_keeps | apply Keeps.ite
    | split
    | dsimp only

theorem State.venBusy_keeps {s : State} {stream gen : Nat} (hk : Keeps st0 s) :
    Keeps st0 (State.venBusy s stream gen) := by
  unfold State.venBusy
  repeat' with_reducible first | assumption | apply State.bump_keeps | apply State.raiseVen_keeps

theorem State.writeSlot_keeps {s : State} {stream gen shape rmax : Nat} {tag : BitVec 16} {table : Bytes} (hk : Keeps st0 s) :
    Keeps st0 (State.writeSlot s stream gen shape rmax tag table) := by
  unfold State.writeSlot
  repeat' first
    | exact fun h => h
    | with_reducible intro _
    | with_reducible first | assumption | apply State.setSlot_keeps | apply State.withPool_keeps

theorem State.useTable_keeps {s : State} {e key : Nat} (hk : Keeps st0 s) :
    Keeps st0 (State.useTable s e key) := by
  unfold State.useTable
  repeat' first
    | exact fun h => h
    | with_reducible first | assumption | apply State.bump_keeps | apply State.draw_keeps | apply State.withPool_keeps | apply Keeps.ite
    | split
    | dsimp only
    | with_reducible refine Keeps.snd ‹_› ?_

end Sys2Proof.Machine
end

