-- ==== Sys2Proof/Laws/KeepsBindOps.lean ====
section
/-!
SUPPORT. What the operations and meanings of Machine/BindOps.lean keep (`Keeps`).
-/
namespace Sys2Proof.Machine

variable {st0 : State}

theorem State.localRead_keeps {s : State} {o n : Nat} (hk : Keeps st0 s) :
    Keeps st0 (State.localRead s o n).2 := by
  unfold State.localRead
  try dsimp only
  repeat' first
    | with_reducible intro _
    | with_reducible first | assumption | apply State.drawBytes_keeps | apply Keeps.ite | apply Keeps.iteSnd | apply Keeps.iteFst
    | split
    | dsimp only

theorem State.writeBound_keeps {s : State} {station off : Nat} {bs : Bytes} (hk : Keeps st0 s) :
    Keeps st0 (State.writeBound s station off bs) := by
  unfold State.writeBound
  repeat' with_reducible first | assumption | apply State.withRoll_keeps

theorem State.templates_keeps {s : State} {st : BitVec 512} (hk : Keeps st0 s) :
    Keeps st0 (State.templates s st).2 := by
  unfold State.templates
  try dsimp only
  repeat' first
    | with_reducible intro _
    | with_reducible first | assumption | apply State.localRead_keeps
    | split
    | dsimp only
    | with_reducible refine Keeps.snd ‹_› ?_

theorem State.writeCopies_keeps {s : State} {n : Nat} {benches : List Bytes} {walk sel session : Bytes} (hk : Keeps st0 s) :
    Keeps st0 (State.writeCopies s n benches walk sel session) := by
  unfold State.writeCopies
  repeat' first
    | with_reducible intro _
    | with_reducible first | assumption | apply State.writeBound_keeps
    | with_reducible (apply Keeps.foldl; rotate_left; intro s b hk)

theorem State.bindEmpty_keeps {s : State} {n : Nat} (hk : Keeps st0 s) :
    Keeps st0 (State.bindEmpty s n) := by
  unfold State.bindEmpty
  repeat' first
    | with_reducible first | assumption | apply State.bump_keeps | apply State.templates_keeps | apply State.writeCopies_keeps
    | split
    | dsimp only
    | with_reducible refine Keeps.snd ‹_› ?_

theorem State.bindTicket_keeps {s : State} {n : Nat} {tt : Ticket} (hk : Keeps st0 s) :
    Keeps st0 (State.bindTicket s n tt) := by
  unfold State.bindTicket
  repeat' first
    | with_reducible intro _
    | with_reducible first | assumption | apply State.bump_keeps | apply State.rollSend_keeps | apply State.templates_keeps | apply State.writeCopies_keeps | apply Keeps.ite
    | with_reducible (apply Keeps.foldl; rotate_left; intro s b hk)
    | with_reducible (apply Keeps.foldlSnd; rotate_left; intro s b hk)
    | with_reducible (apply Keeps.foldlFst; rotate_left; intro s b hk)
    | split
    | dsimp only
    | with_reducible refine Keeps.snd ‹_› ?_
    | with_reducible refine Keeps.fst ‹_› ?_

end Sys2Proof.Machine
end

