-- ==== Sys2Proof/Laws/KeepsRollRows.lean ====
section
/-!
SUPPORT. What the operations and meanings of Machine/RollRows.lean keep (`Keeps`).
-/
namespace Sys2Proof.Machine

variable {st0 : State}

theorem State.rollComplete_keeps {s : State} {p : Passed} {st : Status} {data : Bytes} (hk : Keeps st0 s) :
    Keeps st0 (State.rollComplete s p st data) := by
  unfold State.rollComplete
  repeat' with_reducible first | assumption | apply State.complete_keeps

theorem State.rollRefuse_keeps {s : State} {p : Passed} {st : Status} (hk : Keeps st0 s) :
    Keeps st0 (State.rollRefuse s p st) := by
  unfold State.rollRefuse
  repeat' first
    | with_reducible first | assumption | apply State.countStale_keeps | apply State.rollComplete_keeps | apply Keeps.ite
    | split
    | dsimp only

theorem State.rollOp_keeps {s : State} {sub : Nat} {run : State → Passed → Nat → BitVec 1024 → State} (hk : Keeps st0 s) (hf : ∀ t x0 x1 x2, Keeps st0 t → Keeps st0 (run t x0 x1 x2)) :
    Keeps st0 (State.rollOp s sub run) := by
  unfold State.rollOp
  repeat' first
    | with_reducible first | assumption | apply State.addReg_keeps | apply State.applyDeadline_keeps | apply State.draw_keeps | apply State.rollRefuse_keeps | apply State.takePassed_keeps | apply Keeps.ite
    | split
    | dsimp only
    | with_reducible refine Keeps.snd ‹_› ?_
    | with_reducible refine KeepsPair.elim ‹_› ?_
    | with_reducible apply hf

theorem State.rollDone_keeps {s : State} {p : Passed} {slot : Nat} (hk : Keeps st0 s) :
    Keeps st0 (State.rollDone s p slot) := by
  unfold State.rollDone
  repeat' with_reducible first | assumption | apply State.bump_keeps | apply State.dropWatches_keeps | apply State.rollComplete_keeps | apply State.settlePass_keeps

theorem execRollRead_keeps {s : State} (hk : Keeps st0 s) :
    KeepsNext st0 (execRollRead s) := by
  unfold execRollRead
  repeat' first
    | with_reducible intro _
    | with_reducible first | assumption | apply State.bump_keeps | apply State.rollComplete_keeps | apply State.rollOp_keeps | apply KeepsNext.next

theorem execRollCommit_keeps {s : State} (hk : Keeps st0 s) :
    KeepsNext st0 (execRollCommit s) := by
  unfold execRollCommit
  repeat' first
    | with_reducible intro _
    | with_reducible first | assumption | apply State.rollDone_keeps | apply State.rollOp_keeps | apply State.rollRefuse_keeps | apply State.setRollLive_keeps | apply Keeps.ite | apply KeepsNext.ite | apply KeepsNext.next
    | split
    | dsimp only

theorem execRollOffer_keeps {s : State} (hk : Keeps st0 s) :
    KeepsNext st0 (execRollOffer s) := by
  unfold execRollOffer
  repeat' first
    | with_reducible intro _
    | with_reducible first | assumption | apply State.rollDone_keeps | apply State.rollEvent_keeps | apply State.rollOp_keeps | apply State.rollRefuse_keeps | apply State.setRollLive_keeps | apply State.watchAgent_keeps | apply Keeps.ite | apply KeepsNext.ite | apply KeepsNext.next
    | split
    | dsimp only

theorem execRollWithdraw_keeps {s : State} (hk : Keeps st0 s) :
    KeepsNext st0 (execRollWithdraw s) := by
  unfold execRollWithdraw
  repeat' first
    | with_reducible intro _
    | with_reducible first | assumption | apply State.returnPass_keeps | apply State.rollDone_keeps | apply State.rollOp_keeps | apply State.rollRefuse_keeps | apply Keeps.ite | apply KeepsNext.ite | apply KeepsNext.next
    | split
    | dsimp only

theorem execRollTake_keeps {s : State} (hk : Keeps st0 s) :
    KeepsNext st0 (execRollTake s) := by
  unfold execRollTake
  repeat' first
    | with_reducible intro _
    | with_reducible first | assumption | apply State.rollDone_keeps | apply State.rollEvent_keeps | apply State.rollOp_keeps | apply State.rollRefuse_keeps | apply State.setRollLive_keeps | apply State.watchAgent_keeps | apply Keeps.ite | apply KeepsNext.ite | apply KeepsNext.next
    | split
    | dsimp only

theorem execRollClaim_keeps {s : State} (hk : Keeps st0 s) :
    KeepsNext st0 (execRollClaim s) := by
  unfold execRollClaim
  repeat' first
    | with_reducible intro _
    | with_reducible first | assumption | apply State.bump_keeps | apply State.dropWatches_keeps | apply State.rollOp_keeps | apply State.rollRefuse_keeps | apply State.rollSend_keeps | apply State.setClaim_keeps | apply State.setRollLive_keeps | apply State.startDiscards_keeps | apply State.watchAgent_keeps | apply Keeps.ite | apply KeepsNext.ite | apply KeepsNext.next
    | with_reducible (apply Keeps.foldl; rotate_left; intro s b hk)
    | split
    | dsimp only
    | with_reducible refine Keeps.snd ‹_› ?_
    | with_reducible refine Keeps.fst ‹_› ?_

theorem execRollClose_keeps {s : State} (hk : Keeps st0 s) :
    KeepsNext st0 (execRollClose s) := by
  unfold execRollClose
  repeat' first
    | with_reducible intro _
    | with_reducible first | assumption | apply State.rollDone_keeps | apply State.rollOp_keeps | apply State.rollRefuse_keeps | apply State.setRollLive_keeps | apply Keeps.ite | apply KeepsNext.ite | apply KeepsNext.next
    | split
    | dsimp only

theorem execRollAttend_keeps {s : State} (hk : Keeps st0 s) :
    KeepsNext st0 (execRollAttend s) := by
  unfold execRollAttend
  repeat' first
    | with_reducible intro _
    | with_reducible first | assumption | apply State.bump_keeps | apply State.raiseRoll_keeps | apply State.rollOp_keeps | apply State.rollRefuse_keeps | apply State.withRoll_keeps | apply Keeps.ite | apply KeepsNext.ite | apply KeepsNext.next
    | split
    | dsimp only

theorem execRollWatch_keeps {s : State} (hk : Keeps st0 s) :
    KeepsNext st0 (execRollWatch s) := by
  unfold execRollWatch
  repeat' first
    | with_reducible first | assumption | apply State.bump_keeps | apply State.rollComplete_keeps | apply State.takePassed_keeps | apply State.withRoll_keeps | apply Keeps.ite | apply KeepsNext.ite | apply KeepsNext.next
    | split
    | dsimp only
    | with_reducible refine KeepsPair.elim ‹_› ?_

theorem execRollHeartbeat_keeps {s : State} (hk : Keeps st0 s) :
    KeepsNext st0 (execRollHeartbeat s) := by
  unfold execRollHeartbeat
  repeat' first
    | with_reducible intro _
    | with_reducible first | assumption | apply State.agentDied_keeps | apply State.takePassed_keeps | apply State.withRoll_keeps | apply KeepsNext.next
    | with_reducible (apply Keeps.foldl; rotate_left; intro s b hk)
    | with_reducible (apply Keeps.foldlSnd; rotate_left; intro s b hk)
    | with_reducible (apply Keeps.foldlFst; rotate_left; intro s b hk)
    | split
    | dsimp only
    | with_reducible refine Keeps.snd ‹_› ?_
    | with_reducible refine Keeps.fst ‹_› ?_
    | with_reducible refine KeepsPair.elim ‹_› ?_

theorem execRollAgentDown_keeps {s : State} (hk : Keeps st0 s) :
    KeepsNext st0 (execRollAgentDown s) := by
  unfold execRollAgentDown
  repeat' first
    | with_reducible first | assumption | apply State.agentDied_keeps | apply State.takePassed_keeps | apply KeepsNext.next
    | split
    | dsimp only
    | with_reducible refine KeepsPair.elim ‹_› ?_

theorem execRollForward_keeps {s : State} (hk : Keeps st0 s) :
    KeepsNext st0 (execRollForward s) := by
  unfold execRollForward
  repeat' first
    | with_reducible first | assumption | apply State.bump_keeps | apply State.raiseRoll_keeps | apply State.rollComplete_keeps | apply State.rollRefuse_keeps | apply State.takePassed_keeps | apply State.withRoll_keeps | apply Keeps.ite | apply KeepsNext.ite | apply KeepsNext.next
    | split
    | dsimp only
    | with_reducible refine KeepsPair.elim ‹_› ?_

theorem execRollTrim_keeps {s : State} (hk : Keeps st0 s) :
    KeepsNext st0 (execRollTrim s) := by
  unfold execRollTrim
  repeat' first
    | with_reducible first | assumption | apply State.bump_keeps | apply State.rollRefuse_keeps | apply State.startDiscards_keeps | apply State.takePassed_keeps | apply Keeps.ite | apply KeepsNext.ite | apply KeepsNext.next
    | split
    | dsimp only
    | with_reducible refine KeepsPair.elim ‹_› ?_

theorem execClaimDiscardsDone_keeps {slot : SlotId} {s : State} (hk : Keeps st0 s) :
    KeepsNext st0 (execClaimDiscardsDone slot s) := by
  unfold execClaimDiscardsDone
  repeat' first
    | with_reducible intro _
    | with_reducible first | assumption | apply State.claimPlank_keeps | apply State.complete_keeps | apply State.setClaim_keeps | apply State.withRoll_keeps | apply Keeps.ite | apply KeepsNext.ite | apply KeepsNext.next
    | with_reducible (apply Keeps.foldl; rotate_left; intro s b hk)
    | with_reducible (apply Keeps.foldlSnd; rotate_left; intro s b hk)
    | with_reducible (apply Keeps.foldlFst; rotate_left; intro s b hk)
    | split
    | dsimp only
    | with_reducible refine Keeps.snd ‹_› ?_
    | with_reducible refine Keeps.fst ‹_› ?_
    | with_reducible refine KeepsOpt.elim ‹_› ?_

theorem execOfferDeadline_keeps {slot : SlotId} {s : State} (hk : Keeps st0 s) :
    KeepsNext st0 (execOfferDeadline slot s) := by
  unfold execOfferDeadline
  repeat' with_reducible first | assumption | apply State.applyDeadline_keeps | apply KeepsNext.next

theorem execRollAgentDead_keeps {p : Port} {s : State} (hk : Keeps st0 s) :
    KeepsNext st0 (execRollAgentDead p s) := by
  unfold execRollAgentDead
  repeat' first
    | with_reducible intro _
    | with_reducible first | assumption | apply State.agentDied_keeps | apply State.rollNotify_keeps | apply State.withSw_keeps | apply Keeps.ite | apply KeepsNext.ite | apply KeepsNext.next
    | with_reducible (apply Keeps.foldl; rotate_left; intro s b hk)
    | split
    | dsimp only

theorem execHeartbeatSend_keeps {s : State} (hk : Keeps st0 s) :
    KeepsNext st0 (execHeartbeatSend s) := by
  unfold execHeartbeatSend
  repeat' first
    | with_reducible intro _
    | with_reducible first | assumption | apply State.rollNotify_keeps | apply State.withRoll_keeps | apply Keeps.ite | apply KeepsNext.ite | apply KeepsNext.next
    | with_reducible (apply Keeps.foldl; rotate_left; intro s b hk)
    | split
    | dsimp only

theorem execHbLost_keeps {sw : Fin 4096} {s : State} (hk : Keeps st0 s) :
    KeepsNext st0 (execHbLost sw s) := by
  unfold execHbLost
  repeat' first
    | with_reducible intro _
    | with_reducible first | assumption | apply State.agentDied_keeps | apply State.raiseRoll_keeps | apply Keeps.ite | apply KeepsNext.ite | apply KeepsNext.next
    | with_reducible (apply Keeps.foldl; rotate_left; intro s b hk)
    | split
    | dsimp only
    | with_reducible refine Keeps.snd ‹_› ?_
    | with_reducible refine Keeps.fst ‹_› ?_

theorem execWatchRetry_keeps {sw : Fin 4096} {port : Fin 256} {s : State} (hk : Keeps st0 s) :
    KeepsNext st0 (execWatchRetry sw port s) := by
  unfold execWatchRetry
  repeat' first
    | with_reducible first | assumption | apply State.sendWatch_keeps | apply State.withRoll_keeps | apply Keeps.ite | apply KeepsNext.ite | apply KeepsNext.next
    | split
    | dsimp only

theorem State.rollSettled_keeps {s : State} {k : Nat} {st : Status} {data : Bytes} (hk : Keeps st0 s) :
    Keeps st0 (State.rollSettled s k st data) := by
  unfold State.rollSettled
  repeat' first
    | with_reducible intro _
    | with_reducible first | assumption | apply State.bump_keeps | apply State.discardFailed_keeps | apply State.raiseRoll_keeps | apply State.setClaim_keeps | apply State.setRollLive_keeps | apply State.tableLine_keeps | apply State.withRoll_keeps | apply Keeps.ite
    | with_reducible (apply Keeps.foldl; rotate_left; intro s b hk)
    | split
    | dsimp only
    | with_reducible refine Keeps.snd ‹_› ?_
    | with_reducible refine Keeps.fst ‹_› ?_

theorem State.ticketEnd_keeps {s : State} {t : Ticket} {st : Status} (hk : Keeps st0 s) :
    Keeps st0 (State.ticketEnd s t st) := by
  unfold State.ticketEnd
  repeat' first
    | with_reducible first | assumption | apply State.complete_keeps
    | split
    | dsimp only

theorem execRollStationBind_keeps {station : Fin 1024} {s : State} (hk : Keeps st0 s) :
    KeepsNext st0 (execRollStationBind station s) := by
  unfold execRollStationBind
  repeat' first
    | with_reducible first | assumption | apply State.applyDeadline_keeps | apply State.bindEmpty_keeps | apply State.bindTicket_keeps | apply State.countStale_keeps | apply State.raiseRoll_keeps | apply State.ticketEnd_keeps | apply State.withRoll_keeps | apply Keeps.ite | apply KeepsNext.ite | apply KeepsNext.next
    | split
    | dsimp only

theorem State.rollLoadRefused_keeps {s : State} {h : HostPort} {d : Desc} (hk : Keeps st0 s) :
    Keeps st0 (State.rollLoadRefused s h d) := by
  unfold State.rollLoadRefused
  repeat' with_reducible first | assumption | apply State.done_keeps | apply State.raiseRoll_keeps

theorem State.putRoll_keeps {s : State} {t first : Nat} {cfgs : List (BitVec 1024)} {shapes : List (BitVec 128)} {stations : List (BitVec 512)} (hk : Keeps st0 s) :
    Keeps st0 (State.putRoll s t first cfgs shapes stations) := by
  unfold State.putRoll
  repeat' first
    | with_reducible first | assumption | apply State.withRoll_keeps | apply Keeps.ite
    | split
    | dsimp only

theorem State.loadRoll_keeps {s : State} {h : HostPort} {d : Desc} {data : Bytes} (hk : Keeps st0 s) :
    Keeps st0 (State.loadRoll s h d data) := by
  unfold State.loadRoll
  repeat' first
    | with_reducible intro _
    | with_reducible first | assumption | apply State.done_keeps | apply State.putRoll_keeps | apply State.refuseArmed_keeps | apply State.rollLoadRefused_keeps | apply Keeps.ite
    | split
    | dsimp only

theorem execRollLoad_keeps {h : HostPort} {q : RingId} {data : Bytes} {s : State} (hk : Keeps st0 s) :
    KeepsNext st0 (execRollLoad h q data s) := by
  unfold execRollLoad
  repeat' first
    | with_reducible intro _
    | with_reducible first | assumption | apply State.loadRoll_keeps | apply State.withDesc_keeps | apply KeepsNext.next

theorem State.addRefs_keeps {s : State} {parent : Option Nat} {up : Bool} (hk : Keeps st0 s) :
    Keeps st0 (State.addRefs s parent up) := by
  unfold State.addRefs
  repeat' first
    | with_reducible first | assumption | apply State.setRollLive_keeps | apply Keeps.ite
    | split
    | dsimp only

theorem State.closeSlot_keeps {s : State} {slot : Nat} {old : BitVec 1024} (hk : Keeps st0 s) :
    Keeps st0 (State.closeSlot s slot old) := by
  unfold State.closeSlot
  repeat' first
    | with_reducible intro _
    | with_reducible first | assumption | apply State.addRefs_keeps | apply State.ticketEnd_keeps | apply State.withRoll_keeps
    | with_reducible (apply Keeps.foldl; rotate_left; intro s b hk)
    | split
    | dsimp only
    | with_reducible refine Keeps.snd ‹_› ?_
    | with_reducible refine Keeps.fst ‹_› ?_

theorem State.openSlot_keeps {s : State} {slot : Nat} {c : BitVec 1024} (hk : Keeps st0 s) :
    Keeps st0 (State.openSlot s slot c) := by
  unfold State.openSlot
  repeat' first
    | with_reducible first | assumption | apply State.addRefs_keeps | apply State.setRollLive_keeps | apply State.watchAgent_keeps | apply State.withRoll_keeps | apply Keeps.ite
    | split
    | dsimp only

theorem State.switchRoll_keeps {s : State} (hk : Keeps st0 s) :
    Keeps st0 (State.switchRoll s) := by
  unfold State.switchRoll
  repeat' first
    | with_reducible intro _
    | with_reducible first | assumption | apply State.closeSlot_keeps | apply State.dropWatches_keeps | apply State.openSlot_keeps | apply State.withRoll_keeps | apply Keeps.ite
    | with_reducible (apply Keeps.foldl; rotate_left; intro s b hk)
    | split
    | dsimp only

theorem execBankSwitchOver_keeps {t : TableSet} {s : State} (hk : Keeps st0 s) :
    KeepsNext st0 (execBankSwitchOver t s) := by
  unfold execBankSwitchOver
  repeat' first
    | with_reducible first | assumption | apply State.setArmed_keeps | apply State.switchDrawers_keeps | apply State.switchMort_keeps | apply State.switchObjects_keeps | apply State.switchRoll_keeps | apply Keeps.ite | apply KeepsNext.ite | apply KeepsNext.next
    | split
    | dsimp only

theorem State.probeRoll_keeps {s : State} (hk : Keeps st0 s) :
    Keeps st0 (State.probeRoll s) := by
  unfold State.probeRoll
  repeat' with_reducible first | assumption | apply State.withRoll_keeps

theorem execRollProbe_keeps {h : HostPort} {s : State} (hk : Keeps st0 s) :
    KeepsNext st0 (execRollProbe h s) := by
  unfold execRollProbe
  repeat' with_reducible first | assumption | apply State.hostWrite_keeps | apply State.probeRoll_keeps | apply KeepsNext.next

theorem State.clearRoll_keeps {s : State} (hk : Keeps st0 s) :
    Keeps st0 (State.clearRoll s) := by
  unfold State.clearRoll
  repeat' with_reducible first | assumption | apply State.zeroRegs_keeps

theorem execRollClrCounters_keeps {h : HostPort} {s : State} (hk : Keeps st0 s) :
    KeepsNext st0 (execRollClrCounters h s) := by
  unfold execRollClrCounters
  repeat' with_reducible first | assumption | apply State.clearRoll_keeps | apply State.hostWrite_keeps | apply KeepsNext.next

end Sys2Proof.Machine
end

