-- ==== Sys2Proof/Laws/KeepsHostRows.lean ====
section
/-!
SUPPORT. What the operations and meanings of Machine/HostRows.lean keep (`Keeps`).
-/
namespace Sys2Proof.Machine

variable {st0 : State}

theorem State.stopMoves_keeps {s : State} {set : HostPort} (hk : Keeps st0 s) :
    Keeps st0 (State.stopMoves s set) := by
  unfold State.stopMoves
  repeat' first
    | with_reducible intro _
    | with_reducible first | assumption | apply State.done_keeps | apply State.withFault_keeps
    | with_reducible (apply Keeps.foldl; rotate_left; intro s b hk)
    | split
    | dsimp only
    | with_reducible refine Keeps.snd ‹_› ?_
    | with_reducible refine Keeps.fst ‹_› ?_

theorem State.quiesce_keeps {s : State} {set : HostPort} (hk : Keeps st0 s) :
    Keeps st0 (State.quiesce s set) := by
  unfold State.quiesce
  repeat' with_reducible first | assumption | apply State.stopMoves_keeps | apply State.withHost_keeps

theorem State.portDown_keeps {s : State} {h : HostPort} (hk : Keeps st0 s) :
    Keeps st0 (State.portDown s h) := by
  unfold State.portDown
  repeat' first
    | with_reducible intro _
    | with_reducible first | assumption | apply State.quiesce_keeps | apply State.raiseHost_keeps | apply State.refreshHrdy_keeps | apply State.withHost_keeps | apply postEventTo_keeps
    | with_reducible (apply Keeps.foldl; rotate_left; intro s b hk)

theorem execHostPortDown_keeps {h : HostPort} {s : State} (hk : Keeps st0 s) :
    KeepsNext st0 (execHostPortDown h s) := by
  unfold execHostPortDown
  repeat' first
    | with_reducible first | assumption | apply State.portDown_keeps | apply Keeps.ite | apply KeepsNext.ite | apply KeepsNext.next
    | split
    | dsimp only

theorem execPortReset_keeps {h : HostPort} {kind : PortResetKind} {s : State} (hk : Keeps st0 s) :
    KeepsNext st0 (execPortReset h kind s) := by
  unfold execPortReset
  repeat' first
    | exact Tab.wf_put (d := fun _ => none) _ _
    | exact Tab.wf_filter _
    | with_reducible intro _
    | with_reducible first | assumption | apply State.portDown_keeps | apply State.withBoot_keeps | apply State.withHold_keeps | apply State.withHost_keeps | apply State.withLatch_keeps | apply State.withTest_keeps | apply State.wr_keeps | apply Keeps.ite | apply KeepsNext.ite | apply KeepsNext.next
    | split
    | dsimp only

theorem State.adopt_keeps {s : State} {h : HostPort} (hk : Keeps st0 s) :
    Keeps st0 (State.adopt s h) := by
  unfold State.adopt
  repeat' first
    | with_reducible intro _
    | with_reducible first | assumption | apply State.flushAll_keeps | apply State.postEvent_keeps | apply State.raiseHost_keeps | apply State.refreshHrdy_keeps | apply State.restartRing_keeps | apply State.withHost_keeps
    | with_reducible (apply Keeps.foldl; rotate_left; intro s b hk)

theorem execTakeover_keeps {h : HostPort} {q : RingId} {s : State} (hk : Keeps st0 s) :
    KeepsNext st0 (execTakeover h q s) := by
  unfold execTakeover
  repeat' first
    | with_reducible intro _
    | with_reducible first | assumption | apply State.adopt_keeps | apply State.done_keeps | apply State.withDesc_keeps | apply Keeps.ite | apply KeepsNext.ite | apply KeepsNext.next
    | split
    | dsimp only

theorem execTakeoverGive_keeps {h : HostPort} {q : RingId} {s : State} (hk : Keeps st0 s) :
    KeepsNext st0 (execTakeoverGive h q s) := by
  unfold execTakeoverGive
  repeat' first
    | with_reducible intro _
    | with_reducible first | assumption | apply State.done_keeps | apply State.quiesce_keeps | apply State.refreshHrdy_keeps | apply State.withDesc_keeps | apply Keeps.ite | apply KeepsNext.ite | apply KeepsNext.next
    | split
    | dsimp only

theorem execTakeoverWaitTimeout_keeps {h : HostPort} {s : State} (hk : Keeps st0 s) :
    KeepsNext st0 (execTakeoverWaitTimeout h s) := by
  unfold execTakeoverWaitTimeout
  repeat' first
    | with_reducible first | assumption | apply State.done_keeps | apply Keeps.ite | apply KeepsNext.ite | apply KeepsNext.next
    | split
    | dsimp only

theorem execRingsQuiesced_keeps {h : HostPort} {s : State} (hk : Keeps st0 s) :
    KeepsNext st0 (execRingsQuiesced h s) := by
  unfold execRingsQuiesced
  repeat' first
    | with_reducible first | assumption | apply State.adopt_keeps | apply State.done_keeps | apply State.postEvent_keeps | apply State.raiseHost_keeps | apply State.withHost_keeps | apply Keeps.ite | apply KeepsNext.ite | apply KeepsNext.next
    | split
    | dsimp only

theorem execRingLaunch_keeps {h : HostPort} {q : RingId} {s : State} (hk : Keeps st0 s) :
    KeepsNext st0 (execRingLaunch h q s) := by
  unfold execRingLaunch
  repeat' first
    | with_reducible intro _
    | with_reducible first | assumption | apply State.done_keeps | apply State.originate_keeps | apply State.withDesc_keeps | apply Keeps.ite | apply KeepsNext.ite | apply KeepsNext.next
    | split
    | dsimp only

theorem execFabric_keeps {h : HostPort} {q : RingId} {data : Bytes} {s : State} (hk : Keeps st0 s) :
    KeepsNext st0 (execFabric h q data s) := by
  unfold execFabric
  repeat' first
    | with_reducible intro _
    | with_reducible first | assumption | apply State.done_keeps | apply State.originate_keeps | apply State.withDesc_keeps | apply Keeps.ite | apply KeepsNext.ite | apply KeepsNext.next
    | split
    | dsimp only

theorem State.descSettled_keeps {s : State} {set : HostPort} {id : Nat} {st : Status} {data : Bytes} (hk : Keeps st0 s) :
    Keeps st0 (State.descSettled s set id st data) := by
  unfold State.descSettled
  repeat' first
    | with_reducible intro _
    | with_reducible first | assumption | apply State.done_keeps | apply State.emit_keeps | apply State.hostWrite_keeps | apply Keeps.ite
    | split
    | dsimp only

theorem execMaintReq_keeps {h : HostPort} {q : RingId} {s : State} (hk : Keeps st0 s) :
    KeepsNext st0 (execMaintReq h q s) := by
  unfold execMaintReq
  repeat' first
    | with_reducible intro _
    | with_reducible first | assumption | apply State.done_keeps | apply State.raiseFault_keeps | apply State.requestActivity_keeps | apply State.withDesc_keeps | apply Keeps.ite | apply KeepsNext.ite | apply KeepsNext.next
    | split
    | dsimp only

theorem execPoolMigrate_keeps {h : HostPort} {q : RingId} {s : State} (hk : Keeps st0 s) :
    KeepsNext st0 (execPoolMigrate h q s) := by
  unfold execPoolMigrate
  repeat' first
    | with_reducible intro _
    | with_reducible first | assumption | apply State.done_keeps | apply State.requestActivity_keeps | apply State.withDesc_keeps | apply Keeps.ite | apply KeepsNext.ite | apply KeepsNext.next
    | split
    | dsimp only

theorem discardRun_keeps {fuel : Nat} {s : State} {h : HostPort} {d : Desc} (hk : Keeps st0 s) :
    Keeps st0 (discardRun fuel s h d) := by
  induction fuel generalizing s d with
  | zero => exact State.done_keeps hk
  | succ fuel ih =>
    unfold discardRun
    repeat' first
      | with_reducible first
        | assumption
        | apply ih
        | apply Keeps.ite
        | apply State.done_keeps
        | apply State.countRefusal_keeps
        | apply State.setDesc_keeps
        | apply State.discardPlank_keeps
      | split

theorem execPlankDiscard_keeps {h : HostPort} {q : RingId} {s : State} (hk : Keeps st0 s) :
    KeepsNext st0 (execPlankDiscard h q s) := by
  unfold execPlankDiscard
  repeat' first
    | with_reducible intro _
    | with_reducible first | assumption | apply State.done_keeps | apply State.withDesc_keeps | apply discardRun_keeps | apply Keeps.ite | apply KeepsNext.ite | apply KeepsNext.next
    | split
    | dsimp only

theorem execPoisonClear_keeps {h : HostPort} {q : RingId} {s : State} (hk : Keeps st0 s) :
    KeepsNext st0 (execPoisonClear h q s) := by
  unfold execPoisonClear
  repeat' first
    | with_reducible intro _
    | with_reducible first | assumption | apply State.done_keeps | apply State.setDir_keeps | apply State.withDesc_keeps | apply Keeps.ite | apply KeepsNext.ite | apply KeepsNext.next
    | split
    | dsimp only

theorem State.unmapped_keeps {s : State} {h : HostPort} {o : Nat} (hk : Keeps st0 s) :
    Keeps st0 (State.unmapped s h o) := by
  unfold State.unmapped
  repeat' with_reducible first | assumption | apply State.raiseHost_keeps

theorem State.bar4Request_keeps {s : State} {h : HostPort} {id idx : Nat} {dest : BitVec 12} {addr : Dword} {op : BitVec 8} {scope : BitVec 2} {payload : Bytes} (hk : Keeps st0 s) :
    Keeps st0 (State.bar4Request s h id idx dest addr op scope payload) := by
  unfold State.bar4Request
  repeat' with_reducible first | assumption | apply State.originate_keeps

theorem State.addBar4_keeps {s : State} {h : HostPort} {kind : Bar4Kind} {o len n : Nat} {tag : BitVec 16} (hk : Keeps st0 s) :
    Keeps st0 (State.addBar4 s h kind o len n tag) := by
  unfold State.addBar4
  repeat' with_reducible first | assumption | apply State.withHost_keeps

theorem execBar4Read_keeps {h : HostPort} {addr : Dword} {len : Nat} {tag : BitVec 16} {s : State} (hk : Keeps st0 s) :
    KeepsNext st0 (execBar4Read h addr len tag s) := by
  unfold execBar4Read
  repeat' first
    | with_reducible intro _
    | with_reducible first | assumption | apply State.addBar4_keeps | apply State.bar4Request_keeps | apply State.emit_keeps | apply State.touch_keeps | apply State.unmapped_keeps | apply Keeps.ite | apply KeepsNext.ite | apply KeepsNext.next
    | with_reducible (apply Keeps.foldl; rotate_left; intro s b hk)
    | split
    | dsimp only
    | with_reducible refine Keeps.snd ‹_› ?_
    | with_reducible refine Keeps.fst ‹_› ?_

theorem execBar4Write_keeps {h : HostPort} {addr : Dword} {data : Bytes} {be : List Bool} {s : State} (hk : Keeps st0 s) :
    KeepsNext st0 (execBar4Write h addr data be s) := by
  unfold execBar4Write
  repeat' first
    | with_reducible intro _
    | with_reducible first | assumption | apply State.addBar4_keeps | apply State.bar4Request_keeps | apply State.bump_keeps | apply State.touch_keeps | apply State.unmapped_keeps | apply State.withBoot_keeps | apply State.withTest_keeps | apply Keeps.ite | apply KeepsNext.ite | apply KeepsNext.next
    | with_reducible (apply Keeps.foldl; rotate_left; intro s b hk)
    | split
    | dsimp only
    | with_reducible refine Keeps.snd ‹_› ?_
    | with_reducible refine Keeps.fst ‹_› ?_

theorem execBar4Atomic_keeps {h : HostPort} {addr : Dword} {op : Fin 3} {data : Bytes} {tag : BitVec 16} {s : State} (hk : Keeps st0 s) :
    KeepsNext st0 (execBar4Atomic h addr op data tag s) := by
  unfold execBar4Atomic
  repeat' first
    | with_reducible first | assumption | apply State.addBar4_keeps | apply State.bar4Request_keeps | apply State.emit_keeps | apply State.touch_keeps | apply State.unmapped_keeps | apply State.withTest_keeps | apply Keeps.ite | apply KeepsNext.ite | apply KeepsNext.next
    | split
    | dsimp only

theorem State.bar4Settled_keeps {s : State} {h : HostPort} {id idx : Nat} {st : Status} {data : Bytes} (hk : Keeps st0 s) :
    Keeps st0 (State.bar4Settled s h id idx st data) := by
  unfold State.bar4Settled
  repeat' first
    | with_reducible intro _
    | with_reducible first | assumption | apply State.raiseHost_keeps | apply State.withHost_keeps | apply Keeps.ite
    | split
    | dsimp only

theorem execBar4Complete_keeps {h : HostPort} {s : State} (hk : Keeps st0 s) :
    KeepsNext st0 (execBar4Complete h s) := by
  unfold execBar4Complete
  repeat' first
    | with_reducible intro _
    | with_reducible first | assumption | apply State.bump_keeps | apply State.emit_keeps | apply State.poison_keeps | apply State.raiseHost_keeps | apply State.withHost_keeps | apply Keeps.ite | apply KeepsNext.ite | apply KeepsNext.next
    | split
    | dsimp only

end Sys2Proof.Machine
end

