-- ==== Sys2Proof/Laws/KeepsVeneerRows.lean ====
section
/-!
SUPPORT. What the operations and meanings of Machine/VeneerRows.lean keep (`Keeps`).
-/
namespace Sys2Proof.Machine

variable {st0 : State}

theorem State.engineBusy_keeps {s : State} {e ns : Nat} (hk : Keeps st0 s) :
    Keeps st0 (State.engineBusy s e ns) := by
  unfold State.engineBusy
  repeat' with_reducible first | assumption | apply State.add64_keeps

theorem State.codedOn_keeps {s : State} {w : Work} (hk : Keeps st0 s) :
    Keeps st0 (State.codedOn s w) := by
  unfold State.codedOn
  repeat' first
    | with_reducible first | assumption | apply State.setWork_keeps | apply Keeps.ite
    | split
    | dsimp only

theorem execVeneerCompress_keeps {e : EngineId} {s : State} (hk : Keeps st0 s) :
    KeepsNext st0 (execVeneerCompress e s) := by
  unfold execVeneerCompress
  repeat' first
    | with_reducible first | assumption | apply State.add64_keeps | apply State.bump_keeps | apply State.codedOn_keeps | apply State.done_keeps | apply State.engineBusy_keeps | apply State.giveRef_keeps | apply State.pump_keeps | apply State.raiseVen_keeps | apply State.useTable_keeps | apply Keeps.ite | apply KeepsNext.ite | apply KeepsNext.next
    | split
    | dsimp only

theorem State.failSome_keeps {s : State} {plank : Nat} {st : Status} {pick : Served → Bool} (hk : Keeps st0 s) :
    Keeps st0 (State.failSome s plank st pick) := by
  unfold State.failSome
  repeat' first
    | with_reducible intro _
    | with_reducible first | assumption | apply State.endServed_keeps
    | with_reducible (apply Keeps.foldl; rotate_left; intro s b hk)

theorem State.expandFailed_keeps {s : State} {w : Work} {st : Status} (hk : Keeps st0 s) :
    Keeps st0 (State.expandFailed s w st) := by
  unfold State.expandFailed
  repeat' first
    | with_reducible intro _
    | with_reducible first | assumption | apply State.endServed_keeps | apply State.endWork_keeps | apply State.failSome_keeps | apply State.failWaiting_keeps | apply State.giveRef_keeps | apply State.retryWaiting_keeps | apply State.setEntry_keeps
    | split
    | dsimp only

theorem State.venRefused_keeps {s : State} {e : Nat} {w : Work} {st : Status} {b : Nat} (hk : Keeps st0 s) :
    Keeps st0 (State.venRefused s e w st b) := by
  unfold State.venRefused
  repeat' first
    | with_reducible first | assumption | apply State.bump_keeps | apply State.raiseVen_keeps | apply Keeps.ite
    | split
    | dsimp only

theorem State.expanded_keeps {s : State} {w : Work} {plain : Bytes} (hk : Keeps st0 s) :
    Keeps st0 (State.expanded s w plain) := by
  unfold State.expanded
  repeat' first
    | with_reducible first | assumption | apply State.bump_keeps | apply State.endServed_keeps | apply State.endWork_keeps | apply State.fillCache_keeps | apply State.giveRef_keeps | apply State.retryWaiting_keeps | apply State.setWork_keeps | apply Keeps.ite
    | split
    | dsimp only

theorem execVeneerExpand_keeps {e : EngineId} {s : State} (hk : Keeps st0 s) :
    KeepsNext st0 (execVeneerExpand e s) := by
  unfold execVeneerExpand
  repeat' first
    | with_reducible first | assumption | apply State.bump_keeps | apply State.engineBusy_keeps | apply State.expandFailed_keeps | apply State.expanded_keeps | apply State.pump_keeps | apply State.setWork_keeps | apply State.useTable_keeps | apply State.venRefused_keeps | apply Keeps.ite | apply KeepsNext.ite | apply KeepsNext.next
    | split
    | dsimp only

theorem State.basisRun_keeps {s : State} {h : HostPort} {q : RingId} {type : Nat} {refuse : Desc → Bool} {run : State → Desc → State} (hk : Keeps st0 s) (hf : ∀ t x0, Keeps st0 t → Keeps st0 (run t x0)) :
    Keeps st0 (State.basisRun s h q type refuse run) := by
  unfold State.basisRun
  repeat' first
    | with_reducible intro _
    | with_reducible first | assumption | apply State.arbitrate_keeps | apply State.done_keeps | apply State.refuse_keeps | apply State.takePending_keeps | apply State.withDesc_keeps | apply State.withFault_keeps | apply Keeps.ite
    | split
    | dsimp only
    | with_reducible apply hf

theorem State.basisLoad_keeps {s : State} {h : HostPort} {d : Desc} {data : Bytes} (hk : Keeps st0 s) :
    Keeps st0 (State.basisLoad s h d data) := by
  unfold State.basisLoad
  repeat' first
    | with_reducible intro _
    | with_reducible first | assumption | apply State.done_keeps | apply State.raiseVen_keeps | apply State.venBusy_keeps | apply State.writeSlot_keeps | apply Keeps.ite
    | split
    | dsimp only

theorem execBasisLoad_keeps {h : HostPort} {q : RingId} {data : Bytes} {s : State} (hk : Keeps st0 s) :
    KeepsNext st0 (execBasisLoad h q data s) := by
  unfold execBasisLoad
  repeat' first
    | with_reducible intro _
    | with_reducible first | assumption | apply State.basisLoad_keeps | apply State.basisRun_keeps | apply KeepsNext.next

theorem execBasisSave_keeps {h : HostPort} {q : RingId} {s : State} (hk : Keeps st0 s) :
    KeepsNext st0 (execBasisSave h q s) := by
  unfold execBasisSave
  repeat' first
    | with_reducible intro _
    | with_reducible first | assumption | apply State.basisRun_keeps | apply State.done_keeps | apply State.emit_keeps | apply State.hostWrite_keeps | apply Keeps.ite | apply KeepsNext.ite | apply KeepsNext.next
    | split
    | dsimp only

theorem execBasisSelect_keeps {h : HostPort} {q : RingId} {s : State} (hk : Keeps st0 s) :
    KeepsNext st0 (execBasisSelect h q s) := by
  unfold execBasisSelect
  repeat' first
    | exact fun h => h
    | with_reducible intro _
    | with_reducible first | assumption | apply State.basisRun_keeps | apply State.done_keeps | apply State.withPool_keeps | apply Keeps.ite | apply KeepsNext.ite | apply KeepsNext.next
    | split
    | dsimp only

theorem execBasisFree_keeps {h : HostPort} {q : RingId} {s : State} (hk : Keeps st0 s) :
    KeepsNext st0 (execBasisFree h q s) := by
  unfold execBasisFree
  repeat' first
    | exact fun h => h
    | with_reducible intro _
    | with_reducible first | assumption | apply State.basisRun_keeps | apply State.done_keeps | apply State.setSlot_keeps | apply State.venBusy_keeps | apply State.withPool_keeps | apply Keeps.ite | apply KeepsNext.ite | apply KeepsNext.next
    | split
    | dsimp only

theorem State.clearVen_keeps {s : State} (hk : Keeps st0 s) :
    Keeps st0 (State.clearVen s) := by
  unfold State.clearVen
  repeat' first
    | with_reducible intro _
    | with_reducible first | assumption | apply State.zeroRegs_keeps

theorem execVenClrCounters_keeps {h : HostPort} {s : State} (hk : Keeps st0 s) :
    KeepsNext st0 (execVenClrCounters h s) := by
  unfold execVenClrCounters
  repeat' with_reducible first | assumption | apply State.clearVen_keeps | apply State.hostWrite_keeps | apply KeepsNext.next

end Sys2Proof.Machine
end

