-- ==== Sys2Proof/Laws/KeepsUnitOps.lean ====
section
/-!
SUPPORT. What the operations and meanings of Machine/UnitOps.lean keep (`Keeps`).
-/
namespace Sys2Proof.Machine

variable {st0 : State}

theorem State.traceFiring_keeps {s : State} {kind num index : Nat} {e : BitVec 128} {skipped : Bool} (hk : Keeps st0 s) :
    Keeps st0 (State.traceFiring s kind num index e skipped) := by
  unfold State.traceFiring
  repeat' with_reducible first | assumption | apply State.traceEv_keeps

theorem State.traceState_keeps {s : State} {unit old new op : Nat} (hk : Keeps st0 s) :
    Keeps st0 (State.traceState s unit old new op) := by
  unfold State.traceState
  repeat' first
    | with_reducible first | assumption | apply State.traceEv_keeps | apply Keeps.ite
    | split
    | dsimp only

theorem State.setBench_keeps {s : State} {b : BenchId} {x : Bench} (hk : Keeps st0 s) :
    Keeps st0 (State.setBench s b x) := by
  unfold State.setBench
  repeat' with_reducible first | assumption | apply State.traceState_keeps | apply State.withBenches_keeps

theorem State.benchSend_keeps {s : State} {b : BenchId} {job : BitVec 12} {c : Cls} {k addr : Nat} {ak : Bool} {op : BitVec 8} {scope : BitVec 2} {payload : Bytes} (hk : Keeps st0 s) :
    Keeps st0 (State.benchSend s b job c k addr ak op scope payload) := by
  unfold State.benchSend
  repeat' with_reducible first | assumption | apply State.originate_keeps

theorem State.benchAsk_keeps {s : State} {b : BenchId} {r : BenchRun} {asks : List Ask} (hk : Keeps st0 s) :
    Keeps st0 (State.benchAsk s b r asks) := by
  unfold State.benchAsk
  repeat' first
    | with_reducible intro _
    | with_reducible first | assumption | apply State.benchSend_keeps | apply State.setBench_keeps
    | with_reducible (apply Keeps.foldl; rotate_left; intro s b hk)

end Sys2Proof.Machine
end

