-- ==== Sys2Proof/Laws/KeepsBenchOps.lean ====
section
/-!
SUPPORT. What the operations and meanings of Machine/BenchOps.lean keep (`Keeps`).
-/
namespace Sys2Proof.Machine

variable {st0 : State}

theorem State.raiseBench_keeps {s : State} {b : BenchId} {n op : Nat} {st : BitVec 8} {operand desc : Nat} (hk : Keeps st0 s) :
    Keeps st0 (State.raiseBench s b n op st operand desc) := by
  unfold State.raiseBench
  repeat' first
    | with_reducible intro _
    | with_reducible first | assumption | apply State.raise_keeps
    | split
    | dsimp only

theorem State.countBench_keeps {s : State} {b : BenchId} {reg : Nat → Nat → Nat} {n : Nat} (hk : Keeps st0 s) :
    Keeps st0 (State.countBench s b reg n) := by
  unfold State.countBench
  repeat' with_reducible first | assumption | apply State.addReg_keeps

theorem State.benchPost_keeps {s : State} {b : BenchId} {d : Bytes} {desc : Nat} {st : BitVec 8} (hk : Keeps st0 s) :
    Keeps st0 (State.benchPost s b d desc st) := by
  unfold State.benchPost
  repeat' first
    | with_reducible first | assumption | apply State.benchSend_keeps | apply State.operatorCpl_keeps | apply State.raiseBench_keeps | apply State.setBench_keeps | apply Keeps.ite
    | split
    | dsimp only
    | with_reducible refine Keeps.fst ‹_› ?_

theorem State.launchCpl_keeps {s : State} {b : BenchId} {l : Launch} {st : BitVec 8} (hk : Keeps st0 s) :
    Keeps st0 (State.launchCpl s b l st) := by
  unfold State.launchCpl
  repeat' first
    | with_reducible first | assumption | apply State.complete_keeps
    | split
    | dsimp only

theorem State.benchEnd_keeps {s : State} {b : BenchId} {r : BenchRun} {st : BitVec 8} (hk : Keeps st0 s) :
    Keeps st0 (State.benchEnd s b r st) := by
  unfold State.benchEnd
  repeat' first
    | with_reducible first | assumption | apply State.addJob_keeps | apply State.benchPost_keeps | apply State.launchCpl_keeps | apply State.setBench_keeps | apply Keeps.ite
    | split
    | dsimp only

theorem State.benchAbort_keeps {s : State} {b : BenchId} {r : BenchRun} {st : BitVec 8} {operand : Nat} {bits : List Nat} (hk : Keeps st0 s) :
    Keeps st0 (State.benchAbort s b r st operand bits) := by
  unfold State.benchAbort
  repeat' first
    | with_reducible intro _
    | with_reducible first | assumption | apply State.benchEnd_keeps | apply State.countBench_keeps | apply State.raiseBench_keeps
    | with_reducible (apply Keeps.foldl; rotate_left; intro s b hk)
    | split
    | dsimp only
    | with_reducible refine Keeps.snd ‹_› ?_
    | with_reducible refine Keeps.fst ‹_› ?_

theorem State.benchRefused_keeps {s : State} {b : BenchId} {r : BenchRun} {st : BitVec 8} (hk : Keeps st0 s) :
    Keeps st0 (State.benchRefused s b r st) := by
  unfold State.benchRefused
  repeat' with_reducible first | assumption | apply State.benchEnd_keeps | apply State.raiseBench_keeps

theorem outputAsks_keeps {s : State} {o : Operand} {runs : List (Nat × Bytes)} (hk : Keeps st0 s) :
    Keeps st0 (outputAsks s o runs).2 := by
  unfold outputAsks
  try dsimp only
  repeat' first
    | with_reducible intro _
    | with_reducible first | assumption | apply State.drawBytes_keeps | apply Keeps.ite | apply Keeps.iteSnd | apply Keeps.iteFst
    | with_reducible (apply Keeps.foldl; rotate_left; intro s b hk)
    | with_reducible (apply Keeps.foldlSnd; rotate_left; intro s b hk)
    | with_reducible (apply Keeps.foldlFst; rotate_left; intro s b hk)
    | split
    | dsimp only
    | with_reducible refine Keeps.snd ‹_› ?_
    | with_reducible refine Keeps.fst ‹_› ?_

theorem State.benchCompute_keeps {s : State} {b : BenchId} {r : BenchRun} {ready : Nat} (hk : Keeps st0 s) :
    Keeps st0 (State.benchCompute s b r ready) := by
  unfold State.benchCompute
  repeat' with_reducible first | assumption | apply State.setBench_keeps

theorem State.benchFetch_keeps {s : State} {b : BenchId} {r : BenchRun} (hk : Keeps st0 s) :
    Keeps st0 (State.benchFetch s b r) := by
  unfold State.benchFetch
  repeat' first
    | with_reducible first | assumption | apply State.benchAsk_keeps | apply State.benchCompute_keeps | apply Keeps.ite
    | split
    | dsimp only

theorem State.benchGather_keeps {s : State} {b : BenchId} {r : BenchRun} (hk : Keeps st0 s) :
    Keeps st0 (State.benchGather s b r) := by
  unfold State.benchGather
  repeat' first
    | with_reducible first | assumption | apply State.benchFetch_keeps | apply State.setBench_keeps | apply Keeps.ite
    | split
    | dsimp only

theorem State.benchGo_keeps {s : State} {b : BenchId} {r : BenchRun} (hk : Keeps st0 s) :
    Keeps st0 (State.benchGo s b r) := by
  unfold State.benchGo
  repeat' first
    | with_reducible first | assumption | apply State.benchAsk_keeps | apply State.benchGather_keeps | apply Keeps.ite
    | split
    | dsimp only

theorem State.benchRelease_keeps {s : State} {b : BenchId} {r : BenchRun} {failed : Option (BitVec 8)} (hk : Keeps st0 s) :
    Keeps st0 (State.benchRelease s b r failed) := by
  unfold State.benchRelease
  repeat' first
    | with_reducible first | assumption | apply State.benchAsk_keeps | apply State.benchEnd_keeps | apply State.poison_keeps | apply Keeps.ite
    | split
    | dsimp only

theorem State.benchFit_keeps {s : State} {b : BenchId} {r : BenchRun} (hk : Keeps st0 s) :
    Keeps st0 (State.benchFit s b r) := by
  unfold State.benchFit
  repeat' first
    | with_reducible intro _
    | with_reducible first | assumption | apply State.benchAbort_keeps | apply State.benchRelease_keeps | apply State.venBusy_keeps | apply State.writeSlot_keeps
    | split
    | dsimp only

theorem State.benchWrite_keeps {s : State} {b : BenchId} {r : BenchRun} (hk : Keeps st0 s) :
    Keeps st0 (State.benchWrite s b r) := by
  unfold State.benchWrite
  repeat' first
    | with_reducible intro _
    | with_reducible first | assumption | apply State.benchAsk_keeps | apply State.benchRelease_keeps | apply State.countBench_keeps | apply State.setBench_keeps | apply outputAsks_keeps | apply Keeps.ite
    | with_reducible (apply Keeps.foldl; rotate_left; intro s b hk)
    | with_reducible (apply Keeps.foldlSnd; rotate_left; intro s b hk)
    | with_reducible (apply Keeps.foldlFst; rotate_left; intro s b hk)
    | split
    | dsimp only
    | with_reducible refine Keeps.snd ‹_› ?_
    | with_reducible refine Keeps.fst ‹_› ?_

theorem State.benchSettled_keeps {s : State} {b : BenchId} {k : Nat} {st flags : BitVec 8} {data : Bytes} (hk : Keeps st0 s) :
    Keeps st0 (State.benchSettled s b k st flags data) := by
  unfold State.benchSettled
  repeat' first
    | with_reducible intro _
    | with_reducible first | assumption | apply State.raiseBench_keeps | apply State.setBench_keeps | apply Keeps.ite
    | split
    | dsimp only

end Sys2Proof.Machine
end

