-- ==== Sys2Proof/Laws/KeepsBenchRows.lean ====
section
/-!
SUPPORT. What the operations and meanings of Machine/BenchRows.lean keep (`Keeps`).
-/
namespace Sys2Proof.Machine

variable {st0 : State}

theorem State.noteSkip_keeps {s : State} {kind num : Nat} {offline : Bool} (hk : Keeps st0 s) :
    Keeps st0 (State.noteSkip s kind num offline) := by
  unfold State.noteSkip
  repeat' first
    | with_reducible first | assumption | apply State.raise_keeps | apply State.raiseFault_keeps | apply State.wr_keeps | apply Keeps.ite
    | split
    | dsimp only

theorem State.benchSkip_keeps {s : State} {b : BenchId} {e : BitVec 128} (hk : Keeps st0 s) :
    Keeps st0 (State.benchSkip s b e) := by
  unfold State.benchSkip
  repeat' first
    | with_reducible first | assumption | apply State.benchPost_keeps | apply State.countBench_keeps | apply State.localRead_keeps | apply State.noteSkip_keeps | apply State.raiseBench_keeps
    | split
    | dsimp only
    | with_reducible refine Keeps.snd ‹_› ?_

theorem State.benchTimetable_keeps {s : State} {b : BenchId} {index : Nat} {e : BitVec 128} (hk : Keeps st0 s) :
    Keeps st0 (State.benchTimetable s b index e) := by
  unfold State.benchTimetable
  repeat' first
    | with_reducible first | assumption | apply State.benchAbort_keeps | apply State.benchGo_keeps | apply State.benchRefused_keeps | apply State.countBench_keeps | apply State.localRead_keeps | apply Keeps.ite
    | split
    | dsimp only
    | with_reducible refine Keeps.snd ‹_› ?_

theorem execTtLaunchFire_keeps {b : BenchId} {s : State} (hk : Keeps st0 s) :
    KeepsNext st0 (execTtLaunchFire b s) := by
  unfold execTtLaunchFire
  repeat' first
    | with_reducible intro _
    | with_reducible first | assumption | apply State.benchSkip_keeps | apply State.benchTimetable_keeps | apply State.setBench_keeps | apply State.traceFiring_keeps | apply Keeps.ite | apply KeepsNext.ite | apply KeepsNext.next
    | with_reducible (apply Keeps.foldl; rotate_left; intro s b hk)
    | with_reducible (apply Keeps.foldlSnd; rotate_left; intro s b hk)
    | with_reducible (apply Keeps.foldlFst; rotate_left; intro s b hk)
    | split
    | dsimp only
    | with_reducible refine Keeps.snd ‹_› ?_
    | with_reducible refine Keeps.fst ‹_› ?_

theorem execFabricLaunch_keeps {s : State} (hk : Keeps st0 s) :
    KeepsNext st0 (execFabricLaunch s) := by
  unfold execFabricLaunch
  repeat' first
    | with_reducible intro _
    | with_reducible first | assumption | apply State.complete_keeps | apply State.setBench_keeps | apply State.takePassed_keeps | apply Keeps.ite | apply KeepsNext.ite | apply KeepsNext.next
    | split
    | dsimp only
    | with_reducible refine KeepsPair.elim ‹_› ?_

theorem State.benchReadHead_keeps {s : State} {b : BenchId} {l : Launch} (hk : Keeps st0 s) :
    Keeps st0 (State.benchReadHead s b l) := by
  unfold State.benchReadHead
  repeat' first
    | with_reducible intro _
    | with_reducible first | assumption | apply State.benchSend_keeps | apply State.setBench_keeps
    | with_reducible (apply Keeps.foldl; rotate_left; intro s b hk)
    | split
    | dsimp only
    | with_reducible refine Keeps.snd ‹_› ?_
    | with_reducible refine Keeps.fst ‹_› ?_

theorem execBenchLaunchStart_keeps {b : BenchId} {s : State} (hk : Keeps st0 s) :
    KeepsNext st0 (execBenchLaunchStart b s) := by
  unfold execBenchLaunchStart
  repeat' first
    | with_reducible first | assumption | apply State.benchAbort_keeps | apply State.benchGo_keeps | apply State.benchReadHead_keeps | apply State.benchRefused_keeps | apply State.countBench_keeps | apply State.setBench_keeps | apply Keeps.ite | apply KeepsNext.ite | apply KeepsNext.next
    | split
    | dsimp only

theorem execBenchQueueTimeout_keeps {b : BenchId} {s : State} (hk : Keeps st0 s) :
    KeepsNext st0 (execBenchQueueTimeout b s) := by
  unfold execBenchQueueTimeout
  repeat' first
    | with_reducible first | assumption | apply State.benchPost_keeps | apply State.launchCpl_keeps | apply State.raiseBench_keeps | apply State.setBench_keeps | apply Keeps.ite | apply KeepsNext.ite | apply KeepsNext.next
    | split
    | dsimp only

theorem execBenchAcquirePoll_keeps {b : BenchId} {s : State} (hk : Keeps st0 s) :
    KeepsNext st0 (execBenchAcquirePoll b s) := by
  unfold execBenchAcquirePoll
  repeat' first
    | with_reducible first | assumption | apply State.benchAbort_keeps | apply State.benchAsk_keeps | apply State.benchGather_keeps | apply State.invalidate_keeps | apply State.setBench_keeps | apply Keeps.ite | apply KeepsNext.ite | apply KeepsNext.next
    | split
    | dsimp only

theorem execBenchGatherWaitEnd_keeps {b : BenchId} {s : State} (hk : Keeps st0 s) :
    KeepsNext st0 (execBenchGatherWaitEnd b s) := by
  unfold execBenchGatherWaitEnd
  repeat' first
    | with_reducible intro _
    | with_reducible first | assumption | apply State.benchAbort_keeps | apply State.benchFetch_keeps | apply Keeps.ite | apply KeepsNext.ite | apply KeepsNext.next
    | split
    | dsimp only

theorem execBenchOperandsFetched_keeps {b : BenchId} {s : State} (hk : Keeps st0 s) :
    KeepsNext st0 (execBenchOperandsFetched b s) := by
  unfold execBenchOperandsFetched
  repeat' first
    | with_reducible intro _
    | with_reducible first | assumption | apply State.benchAbort_keeps | apply State.benchCompute_keeps | apply State.poison_keeps | apply State.raiseBench_keeps | apply Keeps.ite | apply KeepsNext.ite | apply KeepsNext.next
    | split
    | dsimp only

theorem execBenchComputeDone_keeps {b : BenchId} {s : State} (hk : Keeps st0 s) :
    KeepsNext st0 (execBenchComputeDone b s) := by
  unfold execBenchComputeDone
  repeat' first
    | with_reducible intro _
    | with_reducible first | assumption | apply State.benchFit_keeps | apply State.benchWrite_keeps | apply State.bump_keeps | apply State.raiseSec_keeps | apply Keeps.ite | apply KeepsNext.ite | apply KeepsNext.next
    | with_reducible (apply Keeps.foldl; rotate_left; intro s b hk)
    | split
    | dsimp only
    | with_reducible refine Keeps.snd ‹_› ?_
    | with_reducible refine Keeps.fst ‹_› ?_

theorem execBenchOutputsDone_keeps {b : BenchId} {s : State} (hk : Keeps st0 s) :
    KeepsNext st0 (execBenchOutputsDone b s) := by
  unfold execBenchOutputsDone
  repeat' first
    | with_reducible first | assumption | apply State.benchRelease_keeps | apply Keeps.ite | apply KeepsNext.ite | apply KeepsNext.next
    | split
    | dsimp only

theorem execBenchReleaseDone_keeps {b : BenchId} {s : State} (hk : Keeps st0 s) :
    KeepsNext st0 (execBenchReleaseDone b s) := by
  unfold execBenchReleaseDone
  repeat' first
    | with_reducible first | assumption | apply State.benchEnd_keeps | apply Keeps.ite | apply KeepsNext.ite | apply KeepsNext.next
    | split
    | dsimp only

theorem State.clearStore_keeps {s : State} {b : BenchId} (hk : Keeps st0 s) :
    Keeps st0 (State.clearStore s b) := by
  unfold State.clearStore
  repeat' first
    | with_reducible first | assumption | apply State.setBench_keeps | apply Keeps.ite
    | split
    | dsimp only

theorem State.clearBench_keeps {s : State} {b : BenchId} (hk : Keeps st0 s) :
    Keeps st0 (State.clearBench s b) := by
  unfold State.clearBench
  repeat' first
    | with_reducible intro _
    | with_reducible first | assumption | apply State.setBench_keeps | apply State.zeroRegs_keeps
    | split
    | dsimp only

theorem execBenchClearStore_keeps {h : HostPort} {b : BenchId} {s : State} (hk : Keeps st0 s) :
    KeepsNext st0 (execBenchClearStore h b s) := by
  unfold execBenchClearStore
  repeat' first
    | with_reducible intro _
    | with_reducible first | assumption | apply State.clearStore_keeps | apply State.hostWrite_keeps | apply KeepsNext.next

theorem execBenchClrCounters_keeps {h : HostPort} {b : BenchId} {s : State} (hk : Keeps st0 s) :
    KeepsNext st0 (execBenchClrCounters h b s) := by
  unfold execBenchClrCounters
  repeat' first
    | with_reducible intro _
    | with_reducible first | assumption | apply State.clearBench_keeps | apply State.hostWrite_keeps | apply KeepsNext.next

theorem execRecessStart_keeps {kind : Fin 3} {num : Fin 192} {s : State} (hk : Keeps st0 s) :
    KeepsNext st0 (execRecessStart kind num s) := by
  unfold execRecessStart
  repeat' first
    | with_reducible intro _
    | with_reducible first | assumption | apply State.arbitrate_keeps | apply State.traceFiring_keeps | apply State.withFault_keeps | apply Keeps.ite | apply KeepsNext.ite | apply KeepsNext.next
    | with_reducible (apply Keeps.foldl; rotate_left; intro s b hk)
    | split
    | dsimp only
    | with_reducible refine Keeps.snd ‹_› ?_
    | with_reducible refine Keeps.fst ‹_› ?_

end Sys2Proof.Machine
end

