-- ==== Sys2Proof/Laws/KeepsNetOps.lean ====
section
/-!
SUPPORT. What the operations and meanings of Machine/NetOps.lean keep (`Keeps`).
-/
namespace Sys2Proof.Machine

variable {st0 : State}

theorem State.setNetUnit_keeps {s : State} {u : NetId} {x : NetUnit} (hk : Keeps st0 s) :
    Keeps st0 (State.setNetUnit s u x) := by
  unfold State.setNetUnit
  repeat' with_reducible first | assumption | apply State.traceState_keeps | apply State.withNet_keeps

theorem State.setWorkOf_keeps {s : State} {u : NetId} {w : NetWork} (hk : Keeps st0 s) :
    Keeps st0 (State.setWorkOf s u w) := by
  unfold State.setWorkOf
  repeat' first
    | with_reducible intro _
    | with_reducible first | assumption | apply State.setNetUnit_keeps | apply Keeps.ite
    | split
    | dsimp only

theorem State.raiseNet_keeps {s : State} {n unit : Nat} {st : BitVec 8} {f : Option Frame} (hk : Keeps st0 s) :
    Keeps st0 (State.raiseNet s n unit st f) := by
  unfold State.raiseNet
  repeat' first
    | with_reducible first | assumption | apply State.raise_keeps
    | split
    | dsimp only

theorem State.netAsk_keeps {s : State} {u : NetId} {w : NetWork} {asks : List NetAsk} (hk : Keeps st0 s) :
    Keeps st0 (State.netAsk s u w asks) := by
  unfold State.netAsk
  repeat' first
    | with_reducible intro _
    | with_reducible first | assumption | apply State.originate_keeps | apply State.setNetUnit_keeps | apply State.setWorkOf_keeps
    | with_reducible (apply Keeps.foldl; rotate_left; intro s b hk)

theorem State.netPost_keeps {s : State} {u : NetId} {d : Bytes} {st : BitVec 8} (hk : Keeps st0 s) :
    Keeps st0 (State.netPost s u d st) := by
  unfold State.netPost
  repeat' first
    | with_reducible first | assumption | apply State.operatorCpl_keeps | apply State.originate_keeps | apply State.setNetUnit_keeps | apply Keeps.ite
    | split
    | dsimp only
    | with_reducible refine Keeps.fst ‹_› ?_

theorem State.netEnd_keeps {s : State} {u : NetId} {w : NetWork} {st : BitVec 8} (hk : Keeps st0 s) :
    Keeps st0 (State.netEnd s u w st) := by
  unfold State.netEnd
  repeat' first
    | with_reducible intro _
    | with_reducible first | assumption | apply State.addJob_keeps | apply State.bump_keeps | apply State.netPost_keeps | apply State.setNetUnit_keeps | apply Keeps.ite
    | split
    | dsimp only

theorem State.netRelease_keeps {s : State} {u : NetId} {w : NetWork} (hk : Keeps st0 s) :
    Keeps st0 (State.netRelease s u w) := by
  unfold State.netRelease
  repeat' first
    | with_reducible first | assumption | apply State.netAsk_keeps | apply State.netEnd_keeps | apply Keeps.ite
    | split
    | dsimp only

theorem State.readFlags_keeps {s : State} {u : NetId} {w : NetWork} (hk : Keeps st0 s) :
    Keeps st0 (State.readFlags s u w) := by
  unfold State.readFlags
  repeat' first
    | with_reducible intro _
    | with_reducible first | assumption | apply State.netAsk_keeps

theorem State.netDeliver_keeps {s : State} {u : NetId} {w : NetWork} {asks : List NetAsk} (hk : Keeps st0 s) :
    Keeps st0 (State.netDeliver s u w asks) := by
  unfold State.netDeliver
  repeat' first
    | with_reducible first | assumption | apply State.netAsk_keeps | apply State.netEnd_keeps | apply State.netRelease_keeps | apply Keeps.ite
    | split
    | dsimp only

theorem State.sessionFails_keeps {s : State} {u : NetId} {w : NetWork} {st : BitVec 8} (hk : Keeps st0 s) :
    Keeps st0 (State.sessionFails s u w st) := by
  unfold State.sessionFails
  repeat' with_reducible first | assumption | apply State.netDeliver_keeps

theorem State.walkFails_keeps {s : State} {u : NetId} {w : NetWork} {st : BitVec 8} (hk : Keeps st0 s) :
    Keeps st0 (State.walkFails s u w st) := by
  unfold State.walkFails
  repeat' first
    | with_reducible first | assumption | apply State.netAsk_keeps | apply State.setBench_keeps | apply State.setWorkOf_keeps | apply Keeps.ite
    | split
    | dsimp only

theorem State.walkAsk_keeps {s : State} {u : NetId} {w : NetWork} {t : Target} (hk : Keeps st0 s) :
    Keeps st0 (State.walkAsk s u w t) := by
  unfold State.walkAsk
  repeat' first
    | with_reducible intro _
    | with_reducible first | assumption | apply State.netAsk_keeps | apply State.walkFails_keeps | apply Keeps.ite
    | split
    | dsimp only

theorem State.walkNext_keeps {fuel : Nat} {s : State} {u : NetId} {w : NetWork} (hk : Keeps st0 s) :
    Keeps st0 (s.walkNext fuel u w) := by
  induction fuel generalizing w with
  | zero => exact State.setWorkOf_keeps hk
  | succ fuel ih =>
    unfold State.walkNext
    repeat' with_reducible first
      | assumption
      | apply ih
      | apply Keeps.ite
      | apply State.setWorkOf_keeps
      | apply State.walkAsk_keeps
      | apply State.netAsk_keeps

theorem State.walkDeliver_keeps {s : State} {u : NetId} {w : NetWork} {data : Bytes} {ven : Bool} (hk : Keeps st0 s) :
    Keeps st0 (State.walkDeliver s u w data ven) := by
  unfold State.walkDeliver
  repeat' first
    | with_reducible intro _
    | with_reducible first | assumption | apply State.add64_keeps | apply State.netAsk_keeps | apply State.setBench_keeps | apply State.walkNext_keeps | apply Keeps.ite
    | split
    | dsimp only

theorem State.headScores_keeps {s : State} {w : NetWork} {j : Nat} (hk : Keeps st0 s) :
    Keeps st0 (State.headScores s w j).2 := by
  unfold State.headScores
  try dsimp only
  repeat' first
    | with_reducible intro _
    | with_reducible first | assumption | apply State.drawBytes_keeps | apply Keeps.ite | apply Keeps.iteSnd | apply Keeps.iteFst
    | split
    | dsimp only
    | with_reducible refine Keeps.snd ‹_› ?_

theorem State.netBegin_keeps {s : State} {u : NetId} {w : NetWork} (hk : Keeps st0 s) :
    Keeps st0 (State.netBegin s u w) := by
  unfold State.netBegin
  repeat' first
    | with_reducible first | assumption | apply State.netAsk_keeps | apply State.netEnd_keeps | apply State.readFlags_keeps | apply State.setWorkOf_keeps | apply State.walkFails_keeps | apply State.walkNext_keeps | apply Keeps.ite
    | split
    | dsimp only

theorem State.netAcquired_keeps {s : State} {u : NetId} {w : NetWork} (hk : Keeps st0 s) :
    Keeps st0 (State.netAcquired s u w) := by
  unfold State.netAcquired
  repeat' first
    | with_reducible first | assumption | apply State.netAsk_keeps | apply State.netBegin_keeps | apply Keeps.ite
    | split
    | dsimp only

theorem State.unreadyTargets_keeps {s : State} {d : Bytes} (hk : Keeps st0 s) :
    Keeps st0 (State.unreadyTargets s d) := by
  unfold State.unreadyTargets
  repeat' first
    | with_reducible intro _
    | with_reducible first | assumption | apply State.setBench_keeps | apply Keeps.ite
    | with_reducible (apply Keeps.foldl; rotate_left; intro s b hk)
    | split
    | dsimp only
    | with_reducible refine Keeps.snd ‹_› ?_
    | with_reducible refine Keeps.fst ‹_› ?_

theorem State.netStart_keeps {s : State} {u : NetId} {index : Nat} {e : BitVec 128} (hk : Keeps st0 s) :
    Keeps st0 (State.netStart s u index e) := by
  unfold State.netStart
  repeat' first
    | with_reducible intro _
    | with_reducible first | assumption | apply State.bump_keeps | apply State.localRead_keeps | apply State.netAsk_keeps | apply State.netBegin_keeps | apply State.netEnd_keeps | apply State.raiseNet_keeps | apply State.setNetUnit_keeps | apply State.unreadyTargets_keeps | apply Keeps.ite
    | split
    | dsimp only
    | with_reducible refine Keeps.snd ‹_› ?_

theorem State.netAdvance_keeps {s : State} {u : NetId} {w : NetWork} (hk : Keeps st0 s) :
    Keeps st0 (State.netAdvance s u w) := by
  unfold State.netAdvance
  repeat' first
    | with_reducible intro _
    | with_reducible first | assumption | apply State.netBegin_keeps | apply State.netEnd_keeps | apply State.netRelease_keeps | apply State.raiseNet_keeps | apply Keeps.ite
    | split
    | dsimp only

theorem State.netSettled_keeps {s : State} {u : NetId} {k : Nat} {st flags : BitVec 8} {data : Bytes} (hk : Keeps st0 s) :
    Keeps st0 (State.netSettled s u k st flags data) := by
  unfold State.netSettled
  repeat' first
    | with_reducible intro _
    | with_reducible first | assumption | apply State.netAdvance_keeps | apply State.setWorkOf_keeps
    | split
    | dsimp only

end Sys2Proof.Machine
end

