-- ==== Sys2Proof/Laws/KeepsNetRows.lean ====
section
/-!
SUPPORT. What the operations and meanings of Machine/NetRows.lean keep (`Keeps`).
-/
namespace Sys2Proof.Machine

variable {st0 : State}

theorem State.netSkip_keeps {s : State} {u : NetId} {e : BitVec 128} (hk : Keeps st0 s) :
    Keeps st0 (State.netSkip s u e) := by
  unfold State.netSkip
  repeat' first
    | with_reducible first | assumption | apply State.bump_keeps | apply State.localRead_keeps | apply State.netPost_keeps | apply State.noteSkip_keeps | apply State.raiseNet_keeps
    | split
    | dsimp only
    | with_reducible refine Keeps.snd ‹_› ?_

theorem execTtStartFire_keeps {u : NetId} {s : State} (hk : Keeps st0 s) :
    KeepsNext st0 (execTtStartFire u s) := by
  unfold execTtStartFire
  repeat' first
    | with_reducible intro _
    | with_reducible first | assumption | apply State.netSkip_keeps | apply State.netStart_keeps | apply State.setNetUnit_keeps | apply State.traceFiring_keeps | apply Keeps.ite | apply KeepsNext.ite | apply KeepsNext.next
    | with_reducible (apply Keeps.foldl; rotate_left; intro s b hk)
    | with_reducible (apply Keeps.foldlSnd; rotate_left; intro s b hk)
    | with_reducible (apply Keeps.foldlFst; rotate_left; intro s b hk)
    | split
    | dsimp only
    | with_reducible refine Keeps.snd ‹_› ?_
    | with_reducible refine Keeps.fst ‹_› ?_

theorem execNuAcquirePoll_keeps {u : NetId} {s : State} (hk : Keeps st0 s) :
    KeepsNext st0 (execNuAcquirePoll u s) := by
  unfold execNuAcquirePoll
  repeat' first
    | with_reducible intro _
    | with_reducible first | assumption | apply State.netAcquired_keeps | apply State.netAsk_keeps | apply State.netEnd_keeps | apply State.raiseNet_keeps | apply Keeps.ite | apply KeepsNext.ite | apply KeepsNext.next
    | split
    | dsimp only

theorem State.dropContrib_keeps {s : State} {p : Passed} {unit n : Nat} (hk : Keeps st0 s) :
    Keeps st0 (State.dropContrib s p unit n) := by
  unfold State.dropContrib
  repeat' with_reducible first | assumption | apply State.bump_keeps | apply State.complete_keeps | apply State.raiseNet_keeps

theorem execContrib_keeps {s : State} (hk : Keeps st0 s) :
    KeepsNext st0 (execContrib s) := by
  unfold execContrib
  repeat' first
    | with_reducible intro _
    | with_reducible first | assumption | apply State.complete_keeps | apply State.dropContrib_keeps | apply State.setWorkOf_keeps | apply State.takePassed_keeps | apply Keeps.ite | apply KeepsNext.ite | apply KeepsNext.next
    | split
    | dsimp only
    | with_reducible refine KeepsPair.elim ‹_› ?_

theorem State.flagBack_keeps {s : State} {u : NetId} {w : NetWork} {p : Nat × LocalEntry} {r : UReq} (hk : Keeps st0 s) :
    Keeps st0 (State.flagBack s u w p r) := by
  unfold State.flagBack
  repeat' first
    | with_reducible intro _
    | with_reducible first | assumption | apply State.netAsk_keeps | apply State.setWorkOf_keeps | apply Keeps.ite
    | split
    | dsimp only

theorem State.flagsBack_keeps {s : State} {u : NetId} {ctx : Nat} (hk : Keeps st0 s) :
    Keeps st0 (State.flagsBack s u ctx) := by
  unfold State.flagsBack
  repeat' first
    | with_reducible intro _
    | with_reducible first | assumption | apply State.flagBack_keeps
    | with_reducible (apply Keeps.foldl; rotate_left; intro s b hk)
    | split
    | dsimp only
    | with_reducible refine Keeps.snd ‹_› ?_
    | with_reducible refine Keeps.fst ‹_› ?_

theorem execReduceFlagPoll_keeps {u : Fin 12} {s : State} (hk : Keeps st0 s) :
    KeepsNext st0 (execReduceFlagPoll u s) := by
  unfold execReduceFlagPoll
  repeat' first
    | with_reducible intro _
    | with_reducible first | assumption | apply State.flagsBack_keeps | apply State.readFlags_keeps | apply Keeps.ite | apply KeepsNext.ite | apply KeepsNext.next
    | with_reducible (apply Keeps.foldl; rotate_left; intro s b hk)
    | split
    | dsimp only
    | with_reducible refine Keeps.snd ‹_› ?_
    | with_reducible refine Keeps.fst ‹_› ?_

theorem execReduceLocalReadDone_keeps {u : Fin 12} {s : State} (hk : Keeps st0 s) :
    KeepsNext st0 (execReduceLocalReadDone u s) := by
  unfold execReduceLocalReadDone
  repeat' first
    | with_reducible intro _
    | with_reducible first | assumption | apply State.setWorkOf_keeps | apply Keeps.ite | apply KeepsNext.ite | apply KeepsNext.next
    | split
    | dsimp only

theorem execReduceMergeStart_keeps {u : Fin 12} {s : State} (hk : Keeps st0 s) :
    KeepsNext st0 (execReduceMergeStart u s) := by
  unfold execReduceMergeStart
  repeat' first
    | with_reducible intro _
    | with_reducible first | assumption | apply State.netDeliver_keeps | apply State.sessionFails_keeps | apply State.setWorkOf_keeps | apply Keeps.ite | apply KeepsNext.ite | apply KeepsNext.next
    | with_reducible (apply Keeps.foldl; rotate_left; intro s b hk)
    | split
    | dsimp only
    | with_reducible refine Keeps.snd ‹_› ?_
    | with_reducible refine Keeps.fst ‹_› ?_

theorem execReduceMergeDone_keeps {u : Fin 12} {s : State} (hk : Keeps st0 s) :
    KeepsNext st0 (execReduceMergeDone u s) := by
  unfold execReduceMergeDone
  repeat' first
    | with_reducible intro _
    | with_reducible first | assumption | apply State.add64_keeps | apply State.netDeliver_keeps | apply KeepsNext.next
    | split
    | dsimp only

theorem execReduceDeadline_keeps {u : Fin 12} {s : State} (hk : Keeps st0 s) :
    KeepsNext st0 (execReduceDeadline u s) := by
  unfold execReduceDeadline
  repeat' first
    | with_reducible intro _
    | with_reducible first | assumption | apply State.raiseNet_keeps | apply State.sessionFails_keeps | apply State.setWorkOf_keeps | apply Keeps.ite | apply KeepsNext.ite | apply KeepsNext.next
    | with_reducible (apply Keeps.foldl; rotate_left; intro s b hk)
    | split
    | dsimp only
    | with_reducible refine Keeps.snd ‹_› ?_
    | with_reducible refine Keeps.fst ‹_› ?_

theorem State.walkListed_keeps {s : State} {u : NetId} {w : NetWork} {t : Target} (hk : Keeps st0 s) :
    Keeps st0 (State.walkListed s u w t) := by
  unfold State.walkListed
  repeat' first
    | with_reducible intro _
    | with_reducible first | assumption | apply State.netAsk_keeps | apply State.walkFails_keeps | apply Keeps.ite
    | split
    | dsimp only

theorem execGatherFetchDone_keeps {u : NetId} {s : State} (hk : Keeps st0 s) :
    KeepsNext st0 (execGatherFetchDone u s) := by
  unfold execGatherFetchDone
  repeat' first
    | with_reducible first | assumption | apply State.netAsk_keeps | apply State.raiseNet_keeps | apply State.walkDeliver_keeps | apply State.walkFails_keeps | apply State.walkListed_keeps | apply State.walkNext_keeps | apply Keeps.ite | apply KeepsNext.ite | apply KeepsNext.next
    | split
    | dsimp only

theorem execGatherWalkDone_keeps {u : NetId} {s : State} (hk : Keeps st0 s) :
    KeepsNext st0 (execGatherWalkDone u s) := by
  unfold execGatherWalkDone
  repeat' first
    | with_reducible intro _
    | with_reducible first | assumption | apply State.netEnd_keeps | apply State.netRelease_keeps | apply Keeps.ite | apply KeepsNext.ite | apply KeepsNext.next
    | split
    | dsimp only

theorem execFilterSelectDone_keeps {u : NetId} {s : State} (hk : Keeps st0 s) :
    KeepsNext st0 (execFilterSelectDone u s) := by
  unfold execFilterSelectDone
  repeat' first
    | with_reducible intro _
    | with_reducible first | assumption | apply State.add64_keeps | apply State.headScores_keeps | apply State.netDeliver_keeps | apply State.netEnd_keeps | apply State.netRelease_keeps | apply Keeps.ite | apply KeepsNext.ite | apply KeepsNext.next
    | with_reducible (apply Keeps.foldl; rotate_left; intro s b hk)
    | with_reducible (apply Keeps.foldlSnd; rotate_left; intro s b hk)
    | with_reducible (apply Keeps.foldlFst; rotate_left; intro s b hk)
    | split
    | dsimp only
    | with_reducible refine Keeps.snd ‹_› ?_
    | with_reducible refine Keeps.fst ‹_› ?_

theorem execDeliver_keeps {s : State} (hk : Keeps st0 s) :
    KeepsNext st0 (execDeliver s) := by
  unfold execDeliver
  repeat' first
    | with_reducible intro _
    | with_reducible first | assumption | apply State.toAgent_keeps | apply KeepsNext.next

theorem State.pxRead_keeps {s : State} {bucket : Nat} (hk : Keeps st0 s) :
    Keeps st0 (State.pxRead s bucket) := by
  unfold State.pxRead
  repeat' first
    | with_reducible intro _
    | with_reducible first | assumption | apply State.bump_keeps | apply State.withNet_keeps | apply Keeps.ite
    | with_reducible (apply Keeps.foldl; rotate_left; intro s b hk)
    | split
    | dsimp only
    | with_reducible refine Keeps.snd ‹_› ?_
    | with_reducible refine Keeps.fst ‹_› ?_

theorem State.pxProbe_keeps {s : State} {job : BitVec 12} {hs : List Nat} {n : Nat} {last : Option (BitVec 128)}
    (hk : Keeps st0 s) : Keeps st0 (s.pxProbe job hs n last).2 := by
  induction hs generalizing s n last with
  | nil => exact hk
  | cons x hs ih =>
    unfold State.pxProbe
    dsimp only
    split
    · exact State.pxRead_keeps hk
    · exact ih (State.pxRead_keeps hk)

theorem execPfxLookup_keeps {s : State} (hk : Keeps st0 s) :
    KeepsNext st0 (execPfxLookup s) := by
  unfold execPfxLookup
  repeat' first
    | with_reducible intro _
    | with_reducible first | assumption | apply State.addReg_keeps | apply State.bump_keeps | apply State.complete_keeps | apply State.pxProbe_keeps | apply State.takePassed_keeps | apply Keeps.ite | apply KeepsNext.ite | apply KeepsNext.next
    | split
    | dsimp only
    | with_reducible refine Keeps.snd ‹_› ?_
    | with_reducible refine KeepsPair.elim ‹_› ?_

theorem State.pxInsert_keeps {s : State} {job : BitVec 12} {slot seq hash depth : Nat} (hk : Keeps st0 s) :
    Keeps st0 (State.pxInsert s job slot seq hash depth).2 := by
  unfold State.pxInsert
  try dsimp only
  repeat' first
    | with_reducible intro _
    | with_reducible first | assumption | apply State.bump_keeps | apply State.pxRead_keeps | apply State.withNet_keeps | apply Keeps.ite | apply Keeps.iteSnd | apply Keeps.iteFst
    | with_reducible (apply Keeps.foldl; rotate_left; intro s b hk)
    | with_reducible (apply Keeps.foldlSnd; rotate_left; intro s b hk)
    | with_reducible (apply Keeps.foldlFst; rotate_left; intro s b hk)
    | split
    | dsimp only
    | with_reducible refine Keeps.snd ‹_› ?_
    | with_reducible refine Keeps.fst ‹_› ?_

theorem execPfxInsert_keeps {s : State} (hk : Keeps st0 s) :
    KeepsNext st0 (execPfxInsert s) := by
  unfold execPfxInsert
  repeat' first
    | with_reducible intro _
    | with_reducible first | assumption | apply State.addReg_keeps | apply State.complete_keeps | apply State.pxInsert_keeps | apply State.raiseNet_keeps | apply State.takePassed_keeps | apply Keeps.ite | apply KeepsNext.ite | apply KeepsNext.next
    | with_reducible (apply Keeps.foldl; rotate_left; intro s b hk)
    | with_reducible (apply Keeps.foldlSnd; rotate_left; intro s b hk)
    | with_reducible (apply Keeps.foldlFst; rotate_left; intro s b hk)
    | split
    | dsimp only
    | with_reducible refine Keeps.snd ‹_› ?_
    | with_reducible refine Keeps.fst ‹_› ?_
    | with_reducible refine KeepsPair.elim ‹_› ?_

theorem State.clearNet_keeps {s : State} (hk : Keeps st0 s) :
    Keeps st0 (State.clearNet s) := by
  unfold State.clearNet
  repeat' first
    | with_reducible intro _
    | with_reducible first | assumption | apply State.withNet_keeps | apply State.zeroRegs_keeps

theorem execNetClrCounters_keeps {h : HostPort} {s : State} (hk : Keeps st0 s) :
    KeepsNext st0 (execNetClrCounters h s) := by
  unfold execNetClrCounters
  repeat' first
    | with_reducible intro _
    | with_reducible first | assumption | apply State.clearNet_keeps | apply State.hostWrite_keeps | apply KeepsNext.next

end Sys2Proof.Machine
end

