-- ==== Sys2Proof/Laws/KeepsTestRows.lean ====
section
/-!
SUPPORT. What the operations and meanings of Machine/TestRows.lean keep (`Keeps`).
-/
namespace Sys2Proof.Machine

variable {st0 : State}

theorem State.zeroLoop_keeps {s : State} (hk : Keeps st0 s) :
    Keeps st0 (State.zeroLoop s) := by
  unfold State.zeroLoop
  repeat' with_reducible first | assumption | apply State.zeroRegs_keeps

theorem State.startLoop_keeps {s : State} {p : Port} {depth : BitVec 2} (hk : Keeps st0 s) :
    Keeps st0 (State.startLoop s p depth) := by
  unfold State.startLoop
  repeat' first
    | with_reducible intro _
    | with_reducible first | assumption | apply State.enter_keeps | apply State.modLink_keeps | apply State.toDetect_keeps | apply State.withTest_keeps | apply State.zeroLoop_keeps | apply Keeps.ite
    | with_reducible (apply Keeps.foldl; rotate_left; intro s b hk)
    | split
    | dsimp only

theorem execTestLbStart_keeps {h : HostPort} {p : Port} {depth : BitVec 2} {s : State} (hk : Keeps st0 s) :
    KeepsNext st0 (execTestLbStart h p depth s) := by
  unfold execTestLbStart
  repeat' first
    | with_reducible intro _
    | with_reducible first | assumption | apply State.hostWrite_keeps | apply State.startLoop_keeps | apply KeepsNext.next

theorem State.stopLoop_keeps {s : State} (hk : Keeps st0 s) :
    Keeps st0 (State.stopLoop s) := by
  unfold State.stopLoop
  repeat' first
    | with_reducible first | assumption | apply State.disablePort_keeps | apply Keeps.ite
    | split
    | dsimp only

theorem execTestLbStop_keeps {h : HostPort} {s : State} (hk : Keeps st0 s) :
    KeepsNext st0 (execTestLbStop h s) := by
  unfold execTestLbStop
  repeat' with_reducible first | assumption | apply State.hostWrite_keeps | apply State.stopLoop_keeps | apply KeepsNext.next

theorem State.echoServe_keeps {s : State} {f : Frame} {o : Nat} (hk : Keeps st0 s) :
    Keeps st0 (State.echoServe s f o).2 := by
  unfold State.echoServe
  try dsimp only
  repeat' first
    | with_reducible intro _
    | with_reducible first | assumption | apply State.withTest_keeps
    | split
    | dsimp only

theorem State.echoAnswer_keeps {s : State} {l : LinkId} {whole : Bool} {f : Frame} (hk : Keeps st0 s) :
    Keeps st0 (State.echoAnswer s l whole f).2.2 := by
  unfold State.echoAnswer
  try dsimp only
  repeat' first
    | with_reducible first | assumption | apply State.bump_keeps | apply State.countRefusal_keeps | apply State.echoServe_keeps | apply State.raiseMort_keeps | apply State.refuse_keeps | apply Keeps.ite | apply Keeps.iteSnd | apply Keeps.iteFst
    | split
    | dsimp only
    | with_reducible refine Keeps.snd ‹_› ?_

theorem State.echoSend_keeps {s : State} {l : LinkId} {c : Cls} {f : Frame} (hk : Keeps st0 s) :
    Keeps st0 (State.echoSend s l c f) := by
  unfold State.echoSend
  repeat' first
    | with_reducible intro _
    | with_reducible first | assumption | apply State.modLink_keeps

theorem execEchoRequest_keeps {l : LinkId} {s : State} (hk : Keeps st0 s) :
    KeepsNext st0 (execEchoRequest l s) := by
  unfold execEchoRequest
  repeat' first
    | with_reducible intro _
    | with_reducible first | assumption | apply State.echoAnswer_keeps | apply State.echoSend_keeps | apply State.modLink_keeps | apply State.oweCredit_keeps | apply Keeps.ite | apply KeepsNext.ite | apply KeepsNext.next
    | split
    | dsimp only
    | with_reducible refine Keeps.snd ‹_› ?_

theorem State.startHostLoop_keeps {s : State} {h port : HostPort} {depth : BitVec 2} (hk : Keeps st0 s) :
    Keeps st0 (State.startHostLoop s h port depth) := by
  unfold State.startHostLoop
  repeat' first
    | with_reducible first | assumption | apply State.portDown_keeps | apply State.withTest_keeps | apply State.zeroRegs_keeps | apply Keeps.ite
    | split
    | dsimp only

theorem execTestHlbStart_keeps {h port : HostPort} {depth : BitVec 2} {s : State} (hk : Keeps st0 s) :
    KeepsNext st0 (execTestHlbStart h port depth s) := by
  unfold execTestHlbStart
  repeat' first
    | with_reducible intro _
    | with_reducible first | assumption | apply State.hostWrite_keeps | apply State.startHostLoop_keeps | apply KeepsNext.next

theorem State.stopHostLoop_keeps {s : State} (hk : Keeps st0 s) :
    Keeps st0 (State.stopHostLoop s) := by
  unfold State.stopHostLoop
  repeat' with_reducible first | assumption | apply State.withTest_keeps

theorem execTestHlbStop_keeps {h : HostPort} {s : State} (hk : Keeps st0 s) :
    KeepsNext st0 (execTestHlbStop h s) := by
  unfold execTestHlbStop
  repeat' with_reducible first | assumption | apply State.hostWrite_keeps | apply State.stopHostLoop_keeps | apply KeepsNext.next

theorem State.recordBist_keeps {s : State} {a : Activity} {pass : Bool} {detail : Word} {line : Dword} (hk : Keeps st0 s) :
    Keeps st0 (State.recordBist s a pass detail line) := by
  unfold State.recordBist
  repeat' first
    | with_reducible first | assumption | apply State.bump_keeps | apply State.wr_keeps | apply State.wr64_keeps | apply Keeps.ite
    | split
    | dsimp only

theorem execBist_keeps {kind : Fin 16} {unit : Nat} {pass : Bool} {detail : Word} {line : Dword} {s : State} (hk : Keeps st0 s) :
    KeepsNext st0 (execBist kind unit pass detail line s) := by
  unfold execBist
  repeat' first
    | with_reducible intro _
    | with_reducible first | assumption | apply State.activityDone_keeps | apply State.bistClear_keeps | apply State.recordBist_keeps | apply Keeps.ite | apply KeepsNext.ite | apply KeepsNext.next
    | split
    | dsimp only

theorem execLinkRecal_keeps {p : Port} {s : State} (hk : Keeps st0 s) :
    KeepsNext st0 (execLinkRecal p s) := by
  unfold execLinkRecal
  repeat' first
    | with_reducible intro _
    | with_reducible first | assumption | apply State.activityDone_keeps | apply State.setActivity_keeps | apply Keeps.ite | apply KeepsNext.ite | apply KeepsNext.next
    | split
    | dsimp only

theorem State.writeTrcCfg_keeps {s : State} {b : Fin 4} {v : Word} (hk : Keeps st0 s) :
    Keeps st0 (State.writeTrcCfg s b v) := by
  unfold State.writeTrcCfg
  repeat' first
    | with_reducible first | assumption | apply State.withTest_keeps | apply State.wrMasked_keeps | apply Keeps.ite
    | split
    | dsimp only

theorem execTrcCfgWrite_keeps {h : HostPort} {buf : Fin 4} {v : Word} {s : State} (hk : Keeps st0 s) :
    KeepsNext st0 (execTrcCfgWrite h buf v s) := by
  unfold execTrcCfgWrite
  repeat' first
    | with_reducible intro _
    | with_reducible first | assumption | apply State.hostWrite_keeps | apply State.writeTrcCfg_keeps | apply KeepsNext.next

theorem execJtagInstructionLoad_keeps {i : JtagInstr} {s : State} (hk : Keeps st0 s) :
    KeepsNext st0 (execJtagInstructionLoad i s) := by
  unfold execJtagInstructionLoad
  repeat' first
    | with_reducible first | assumption | apply State.resetMain_keeps | apply State.withBoot_keeps | apply State.withTest_keeps | apply Keeps.ite | apply KeepsNext.ite | apply KeepsNext.next
    | split
    | dsimp only

end Sys2Proof.Machine
end

