-- ==== Sys2Proof/Laws/KeepsModuleRows.lean ====
section
/-!
SUPPORT. What the operations and meanings of Machine/ModuleRows.lean keep (`Keeps`).
-/
namespace Sys2Proof.Machine

variable {st0 : State}

theorem State.storeSweep_keeps {s : State} {w : SensorSweep} (hk : Keeps st0 s) :
    Keeps st0 (State.storeSweep s w) := by
  unfold State.storeSweep
  repeat' first
    | with_reducible intro _
    | with_reducible first | assumption | apply State.wr_keeps | apply Keeps.ite
    | with_reducible (apply Keeps.foldl; rotate_left; intro s b hk)
    | split
    | dsimp only

theorem State.storePower_keeps {s : State} {w : SensorSweep} (hk : Keeps st0 s) :
    Keeps st0 (State.storePower s w) := by
  unfold State.storePower
  repeat' first
    | with_reducible first | assumption | apply State.pin_keeps | apply State.withMod_keeps | apply Keeps.ite
    | split
    | dsimp only

theorem State.alertCheck_keeps {s : State} {w : SensorSweep} (hk : Keeps st0 s) :
    Keeps st0 (State.alertCheck s w) := by
  unfold State.alertCheck
  repeat' first
    | with_reducible first | assumption | apply State.emit_keeps | apply State.withMod_keeps | apply State.wr_keeps | apply Keeps.ite
    | split
    | dsimp only

theorem State.tripCheck_keeps {s : State} {w : SensorSweep} (hk : Keeps st0 s) :
    Keeps st0 (State.tripCheck s w) := by
  unfold State.tripCheck
  repeat' first
    | with_reducible first | assumption | apply State.bump_keeps | apply State.loseMain_keeps | apply State.withMod_keeps | apply State.wr_keeps | apply Keeps.ite
    | split
    | dsimp only

theorem execSensorRead_keeps {sweep : SensorSweep} {s : State} (hk : Keeps st0 s) :
    KeepsNext st0 (execSensorRead sweep s) := by
  unfold execSensorRead
  repeat' first
    | with_reducible first | assumption | apply State.alertCheck_keeps | apply State.storePower_keeps | apply State.storeSweep_keeps | apply State.tripCheck_keeps | apply Keeps.ite | apply KeepsNext.ite | apply KeepsNext.next
    | split
    | dsimp only

theorem execClearTrip_keeps {s : State} (hk : Keeps st0 s) :
    KeepsNext st0 (execClearTrip s) := by
  unfold execClearTrip
  repeat' first
    | with_reducible first | assumption | apply State.withMod_keeps | apply State.wr_keeps | apply Keeps.ite | apply KeepsNext.ite | apply KeepsNext.next
    | split
    | dsimp only

end Sys2Proof.Machine
end

