-- ==== Sys2Proof/Laws/KeepsSettleRows.lean ====
section
/-!
SUPPORT. What the operations and meanings of Machine/SettleRows.lean keep (`Keeps`).
-/
namespace Sys2Proof.Machine

variable {st0 : State}

theorem State.settle_keeps {s : State} {t : Tag} {st : Status} {flags : BitVec 8} {data : Bytes} (hk : Keeps st0 s) :
    Keeps st0 (State.settle s t st flags data) := by
  unfold State.settle
  repeat' first
    | with_reducible first | assumption | apply State.bar4Settled_keeps | apply State.benchSettled_keeps | apply State.closeTag_keeps | apply State.descSettled_keeps | apply State.netSettled_keeps | apply State.retryTags_keeps | apply State.rollSettled_keeps | apply State.withMort_keeps
    | split
    | dsimp only

theorem State.takeCpl_keeps {s : State} {e : QEntry} {f : Frame} (hk : Keeps st0 s) :
    Keeps st0 (State.takeCpl s e f) := by
  unfold State.takeCpl
  repeat' first
    | with_reducible intro _
    | with_reducible first | assumption | apply State.cplToAgent_keeps | apply State.raiseMort_keeps | apply State.settle_keeps | apply Keeps.ite
    | split
    | dsimp only

theorem execCplReceive_keeps {k : Fin 12} {s : State} (hk : Keeps st0 s) :
    KeepsNext st0 (execCplReceive k s) := by
  unfold execCplReceive
  repeat' first
    | with_reducible first | assumption | apply State.takeCpl_keeps | apply State.takeHome_keeps | apply Keeps.ite | apply KeepsNext.ite | apply KeepsNext.next
    | split
    | dsimp only

theorem execTagTimeout_keeps {unit : BitVec 10} {tag : Fin 512} {s : State} (hk : Keeps st0 s) :
    KeepsNext st0 (execTagTimeout unit tag s) := by
  unfold execTagTimeout
  repeat' first
    | with_reducible intro _
    | with_reducible first | assumption | apply State.settle_keeps | apply Keeps.ite | apply KeepsNext.ite | apply KeepsNext.next
    | split
    | dsimp only

end Sys2Proof.Machine
end

