-- ==== Sys2Proof/Laws/KeepsBar0Rows.lean ====
section
/-!
SUPPORT. What the operations and meanings of Machine/Bar0Rows.lean keep (`Keeps`).
-/
namespace Sys2Proof.Machine

variable {st0 : State}

theorem State.writePair_keeps {s : State} {lo : Nat} {q : Dword} (hk : Keeps st0 s) :
    Keeps st0 (State.writePair s lo q) := by
  unfold State.writePair
  repeat' first
    | with_reducible first | assumption | apply State.wrMasked_keeps | apply State.writeFenceSet_keeps | apply State.writeLift_keeps | apply Keeps.ite
    | split
    | dsimp only

theorem State.writeLoWord_keeps {s : State} {h : HostPort} {off : Nat} {v : Word} (hk : Keeps st0 s) :
    Keeps st0 (State.writeLoWord s h off v) := by
  unfold State.writeLoWord
  repeat' first
    | with_reducible first | assumption | apply State.holdLo_keeps | apply State.writeRing_keeps | apply Keeps.ite
    | split
    | dsimp only

theorem State.writeHiWord_keeps {s : State} {h : HostPort} {off : Nat} {v : Word} (hk : Keeps st0 s) :
    Keeps st0 (State.writeHiWord s h off v) := by
  unfold State.writeHiWord
  repeat' first
    | with_reducible first | assumption | apply State.dropHeld_keeps | apply State.writePair_keeps | apply State.writeRing_keeps | apply Keeps.ite
    | split
    | dsimp only

theorem State.lock_keeps {s : State} {v : Word} (hk : Keeps st0 s) :
    Keeps st0 (State.lock s v) := by
  unfold State.lock
  repeat' first
    | with_reducible intro _
    | with_reducible first | assumption | apply State.extendMeas_keeps | apply State.wr_keeps | apply Keeps.ite
    | split
    | dsimp only

theorem State.clearSec_keeps {s : State} (hk : Keeps st0 s) :
    Keeps st0 (State.clearSec s) := by
  unfold State.clearSec
  repeat' with_reducible first | assumption | apply State.zeroRegs_keeps

theorem State.writeRw_keeps {s : State} {off : Nat} {v : Word} (hk : Keeps st0 s) :
    Keeps st0 (State.writeRw s off v) := by
  unfold State.writeRw
  repeat' first
    | with_reducible intro _
    | with_reducible first | apply KeepsOpt.getD | apply KeepsOpt.orElse | apply KeepsOpt.map | assumption | apply State.wrMasked_keeps | apply State.writeMir_keeps | apply State.writePolProfile_keeps | apply State.writePolSel_keeps | apply State.writeShapeBurst_keeps | apply State.writeShapeSel_keeps | apply State.writeTrcCfg_keeps | apply Keeps.ite
    | split
    | dsimp only

theorem State.writeRwl_keeps {s : State} {off : Nat} {v : Word} (hk : Keeps st0 s) :
    Keeps st0 (State.writeRwl s off v) := by
  unfold State.writeRwl
  repeat' first
    | with_reducible intro _
    | with_reducible first | apply KeepsOpt.getD | apply KeepsOpt.orElse | apply KeepsOpt.map | assumption | apply State.timeLinkCheck_keeps | apply State.withBell_keeps | apply State.wrMasked_keeps | apply State.writePortCfg_keeps | apply State.writeRoute_keeps | apply Keeps.ite
    | split
    | dsimp only

theorem State.onBit_keeps {s : State} {v : Word} {i : Nat} {f : State → State} (hk : Keeps st0 s) (hf : ∀ t, Keeps st0 t → Keeps st0 (f t)) :
    Keeps st0 (State.onBit s v i f) := by
  unfold State.onBit
  repeat' first
    | with_reducible first | assumption | apply Keeps.ite
    | split
    | dsimp only
    | with_reducible apply hf

theorem State.writePortCtrl_keeps {s : State} {p : Port} {v : Word} (hk : Keeps st0 s) :
    Keeps st0 (State.writePortCtrl s p v) := by
  unfold State.writePortCtrl
  repeat' first
    | with_reducible intro _
    | with_reducible first | assumption | apply State.clearPort_keeps | apply State.disablePort_keeps | apply State.onBit_keeps | apply State.rekeyPort_keeps | apply State.retrain_keeps

theorem State.writeLbCtrl_keeps {s : State} {v : Word} (hk : Keeps st0 s) :
    Keeps st0 (State.writeLbCtrl s v) := by
  unfold State.writeLbCtrl
  repeat' first
    | with_reducible intro _
    | with_reducible first | assumption | apply State.onBit_keeps | apply State.startLoop_keeps | apply State.stopLoop_keeps | apply State.withTest_keeps
    | split
    | dsimp only

theorem State.writeHlbCtrl_keeps {s : State} {h : HostPort} {v : Word} (hk : Keeps st0 s) :
    Keeps st0 (State.writeHlbCtrl s h v) := by
  unfold State.writeHlbCtrl
  repeat' first
    | with_reducible intro _
    | with_reducible first | assumption | apply State.onBit_keeps | apply State.startHostLoop_keeps | apply State.stopHostLoop_keeps | apply Keeps.ite
    | split
    | dsimp only

theorem State.writeBootCtrl_keeps {s : State} {h : HostPort} {v : Word} (hk : Keeps st0 s) :
    Keeps st0 (State.writeBootCtrl s h v) := by
  unfold State.writeBootCtrl
  repeat' first
    | with_reducible intro _
    | with_reducible first | assumption | apply State.claimBoot_keeps | apply State.onBit_keeps | apply State.proceed_keeps | apply State.recover_keeps

theorem State.writeAction_keeps {s : State} {h : HostPort} {off : Nat} {v : Word} (hk : Keeps st0 s) :
    Keeps st0 (State.writeAction s h off v) := by
  unfold State.writeAction
  repeat' first
    | with_reducible intro _
    | with_reducible first | assumption | apply State.clearDir_keeps | apply State.clearHost_keeps | apply State.clearNet_keeps | apply State.clearOrd_keeps | apply State.clearPool_keeps | apply State.clearRoll_keeps | apply State.clearSec_keeps | apply State.clearSw_keeps | apply State.clearTrays_keeps | apply State.clearVen_keeps | apply State.onBit_keeps | apply State.poolInit_keeps | apply State.probeDir_keeps | apply State.probeRoll_keeps | apply State.shutDown_keeps | apply State.writeBootCtrl_keeps | apply State.writeHlbCtrl_keeps | apply State.writeLbCtrl_keeps | apply State.writeResetCtrl_keeps | apply Keeps.ite
    | split
    | dsimp only

theorem State.writeWo_keeps {s : State} {h : HostPort} {off : Nat} {v : Word} (hk : Keeps st0 s) :
    Keeps st0 (State.writeWo s h off v) := by
  unfold State.writeWo
  repeat' first
    | with_reducible intro _
    | with_reducible first | assumption | apply State.askScrub_keeps | apply State.clearBench_keeps | apply State.clearStk_keeps | apply State.clearStore_keeps | apply State.onBit_keeps | apply State.startScan_keeps | apply State.writeAction_keeps | apply State.writePortCtrl_keeps | apply Keeps.ite
    | split
    | dsimp only

theorem State.clearErr_keeps {s : State} {off : Nat} {v : Word} (hk : Keeps st0 s) :
    Keeps st0 (State.clearErr s off v) := by
  unfold State.clearErr
  repeat' first
    | with_reducible first | assumption | apply State.wr_keeps | apply Keeps.ite
    | split
    | dsimp only

theorem State.writeReg_keeps {s : State} {h : HostPort} {off : Nat} {v : Word} (hk : Keeps st0 s) :
    Keeps st0 (State.writeReg s h off v) := by
  unfold State.writeReg
  repeat' first
    | with_reducible first | assumption | apply State.clearErr_keeps | apply State.lock_keeps | apply State.lockedWrite_keeps | apply State.writeHiWord_keeps | apply State.writeLoWord_keeps | apply State.writeRing_keeps | apply State.writeRw_keeps | apply State.writeRwl_keeps | apply State.writeWo_keeps | apply Keeps.ite
    | split
    | dsimp only

theorem State.aligned_keeps {s : State} {h : HostPort} {off : Nat} {f : State → State} (hk : Keeps st0 s) (hf : ∀ t, Keeps st0 t → Keeps st0 (f t)) :
    Keeps st0 (State.aligned s h off f) := by
  unfold State.aligned
  repeat' first
    | with_reducible first | assumption | apply State.emit_keeps | apply Keeps.ite
    | split
    | dsimp only
    | with_reducible apply hf

theorem execRegWrite_keeps {h : HostPort} {off : BitVec 25} {v : Word} {s : State} (hk : Keeps st0 s) :
    KeepsNext st0 (execRegWrite h off v s) := by
  unfold execRegWrite
  repeat' first
    | with_reducible intro _
    | with_reducible first | assumption | apply State.aligned_keeps | apply State.hostWrite_keeps | apply State.writeReg_keeps | apply KeepsNext.next

theorem execBar0UnsupportedAccess_keeps {h : HostPort} {off : BitVec 25} {size : Nat} {_write : Bool} {s : State} (hk : Keeps st0 s) :
    KeepsNext st0 (execBar0UnsupportedAccess h off size _write s) := by
  unfold execBar0UnsupportedAccess
  repeat' first
    | with_reducible first | assumption | apply State.emit_keeps | apply Keeps.ite | apply KeepsNext.ite | apply KeepsNext.next
    | split
    | dsimp only

theorem State.readLo_keeps {s : State} {h : HostPort} {off : Nat} (hk : Keeps st0 s) :
    Keeps st0 (State.readLo s h off) := by
  unfold State.readLo
  repeat' first
    | exact Tab.wf_put (d := fun _ => none) _ _
    | exact Tab.wf_filter _
    | with_reducible first | assumption | apply State.emit_keeps | apply State.withLatch_keeps | apply Keeps.ite
    | split
    | dsimp only

theorem execReadLoLatch_keeps {h : HostPort} {off : BitVec 25} {s : State} (hk : Keeps st0 s) :
    KeepsNext st0 (execReadLoLatch h off s) := by
  unfold execReadLoLatch
  repeat' first
    | with_reducible intro _
    | with_reducible first | assumption | apply State.aligned_keeps | apply State.readLo_keeps | apply State.touch_keeps | apply Keeps.ite | apply KeepsNext.ite | apply KeepsNext.next
    | split
    | dsimp only

theorem State.readHi_keeps {s : State} {h : HostPort} {off : Nat} (hk : Keeps st0 s) :
    Keeps st0 (State.readHi s h off) := by
  unfold State.readHi
  repeat' first
    | exact Tab.wf_put (d := fun _ => none) _ _
    | exact Tab.wf_filter _
    | with_reducible first | assumption | apply State.emit_keeps | apply State.withLatch_keeps | apply Keeps.ite
    | split
    | dsimp only

theorem execReadHi_keeps {h : HostPort} {off : BitVec 25} {s : State} (hk : Keeps st0 s) :
    KeepsNext st0 (execReadHi h off s) := by
  unfold execReadHi
  repeat' first
    | with_reducible intro _
    | with_reducible first | assumption | apply State.aligned_keeps | apply State.readHi_keeps | apply State.touch_keeps | apply Keeps.ite | apply KeepsNext.ite | apply KeepsNext.next
    | split
    | dsimp only

theorem execWriteLoHold_keeps {h : HostPort} {off : BitVec 25} {v : Word} {s : State} (hk : Keeps st0 s) :
    KeepsNext st0 (execWriteLoHold h off v s) := by
  unfold execWriteLoHold
  repeat' first
    | with_reducible intro _
    | with_reducible first | assumption | apply State.aligned_keeps | apply State.hostWrite_keeps | apply State.writeLoWord_keeps | apply Keeps.ite | apply KeepsNext.ite | apply KeepsNext.next
    | split
    | dsimp only

theorem execWriteHiApply_keeps {h : HostPort} {off : BitVec 25} {v : Word} {s : State} (hk : Keeps st0 s) :
    KeepsNext st0 (execWriteHiApply h off v s) := by
  unfold execWriteHiApply
  repeat' first
    | with_reducible intro _
    | with_reducible first | assumption | apply State.aligned_keeps | apply State.hostWrite_keeps | apply State.writeHiWord_keeps | apply Keeps.ite | apply KeepsNext.ite | apply KeepsNext.next
    | split
    | dsimp only

theorem execErrW1cClear_keeps {h : HostPort} {off : BitVec 25} {v : Word} {s : State} (hk : Keeps st0 s) :
    KeepsNext st0 (execErrW1cClear h off v s) := by
  unfold execErrW1cClear
  repeat' first
    | with_reducible intro _
    | with_reducible first | assumption | apply State.aligned_keeps | apply State.clearErr_keeps | apply State.hostWrite_keeps | apply Keeps.ite | apply KeepsNext.ite | apply KeepsNext.next
    | split
    | dsimp only

end Sys2Proof.Machine
end

