-- ==== Sys2Proof/Laws/KeepsScanRows.lean ====
section
/-!
SUPPORT. What the operations and meanings of Machine/ScanRows.lean keep (`Keeps`).
-/
namespace Sys2Proof.Machine
variable {st0 : State}

theorem State.scanDead_keeps {s : State} {p : Port} (hk : Keeps st0 s) :
    Keeps st0 (State.scanDead s p) := by
  unfold State.scanDead
  repeat' first
    | with_reducible intro _
    | with_reducible first | assumption | apply State.dirGo_keeps | apply State.poison_keeps | apply State.startEvict_keeps | apply State.withDir_keeps | apply State.withSw_keeps | apply Keeps.ite
    | with_reducible (apply Keeps.foldl; rotate_left; intro s b hk)
    | split
    | dsimp only
    | with_reducible refine Keeps.snd ‹_› ?_
    | with_reducible refine Keeps.fst ‹_› ?_

theorem State.askScan_keeps {s : State} (hk : Keeps st0 s) :
    Keeps st0 (State.askScan s) := by
  unfold State.askScan
  repeat' first
    | with_reducible first | assumption | apply State.requestActivity_keeps | apply Keeps.ite
    | split

theorem execDirRebuild_keeps {p : Port} {s : State} (hk : Keeps st0 s) :
    KeepsNext st0 (execDirRebuild p s) := by
  unfold execDirRebuild
  repeat' first
    | with_reducible first | assumption | apply State.activityDone_keeps | apply State.scanDead_keeps | apply State.askScan_keeps | apply Keeps.ite | apply KeepsNext.next
    | split

theorem State.purgeLine_keeps {s : State} {line : Nat} {e : DirEntry} (hk : Keeps st0 s) :
    Keeps st0 (State.purgeLine s line e) := by
  unfold State.purgeLine
  repeat' first
    | with_reducible intro _
    | with_reducible first | assumption | apply State.complete_keeps | apply State.sendSnoops_keeps | apply State.setTracker_keeps | apply Keeps.ite
    | with_reducible (apply Keeps.foldl; rotate_left; intro s b hk)
    | split
    | dsimp only
    | with_reducible refine Keeps.snd ‹_› ?_
    | with_reducible refine Keeps.fst ‹_› ?_

theorem execDirPurge_keeps {d : DrawerId} {s : State} (hk : Keeps st0 s) :
    KeepsNext st0 (execDirPurge d s) := by
  unfold execDirPurge
  repeat' first
    | with_reducible intro _
    | with_reducible first | assumption | apply State.dirGo_keeps | apply State.activityDone_keeps | apply State.askScan_keeps | apply State.purgeLine_keeps | apply State.withDir_keeps | apply Keeps.ite | apply KeepsNext.ite | apply KeepsNext.next
    | with_reducible (apply Keeps.foldl; rotate_left; intro s b hk)
    | split
    | dsimp only
    | with_reducible refine Keeps.snd ‹_› ?_
    | with_reducible refine Keeps.fst ‹_› ?_

end Sys2Proof.Machine
end

