-- ==== Sys2Proof/Laws/KeepsSecRows.lean ====
section
/-!
SUPPORT. What the operations and meanings of Machine/SecRows.lean keep (`Keeps`).
-/
namespace Sys2Proof.Machine

variable {st0 : State}

theorem State.secOut_keeps {s : State} {h : HostPort} {d : Desc} {dstMax : Nat} {out : Bytes} (hk : Keeps st0 s) :
    Keeps st0 (State.secOut s h d dstMax out) := by
  unfold State.secOut
  repeat' first
    | with_reducible first | assumption | apply State.done_keeps | apply State.emit_keeps | apply State.hostWrite_keeps | apply Keeps.ite
    | split
    | dsimp only

theorem State.setFm_keeps {s : State} {h : HostPort} {f : FmSession} (hk : Keeps st0 s) :
    Keeps st0 (State.setFm s h f) := by
  unfold State.setFm
  repeat' with_reducible first | assumption | apply State.withHost_keeps

theorem execSecGetChain_keeps {h : HostPort} {q : RingId} {s : State} (hk : Keeps st0 s) :
    KeepsNext st0 (execSecGetChain h q s) := by
  unfold execSecGetChain
  repeat' first
    | with_reducible intro _
    | with_reducible first | assumption | apply State.secOut_keeps | apply State.withDesc_keeps | apply KeepsNext.next

theorem execSecAttest_keeps {h : HostPort} {q : RingId} {data : Bytes} {s : State} (hk : Keeps st0 s) :
    KeepsNext st0 (execSecAttest h q data s) := by
  unfold execSecAttest
  repeat' first
    | with_reducible intro _
    | with_reducible first | assumption | apply State.done_keeps | apply State.draw_keeps | apply State.secOut_keeps | apply State.withDesc_keeps | apply Keeps.ite | apply KeepsNext.ite | apply KeepsNext.next
    | split
    | dsimp only
    | with_reducible refine Keeps.snd ‹_› ?_

theorem execSecExtend_keeps {h : HostPort} {q : RingId} {data : Bytes} {s : State} (hk : Keeps st0 s) :
    KeepsNext st0 (execSecExtend h q data s) := by
  unfold execSecExtend
  repeat' first
    | with_reducible intro _
    | with_reducible first | assumption | apply State.done_keeps | apply State.extendMeas_keeps | apply State.secOut_keeps | apply State.withDesc_keeps | apply Keeps.ite | apply KeepsNext.ite | apply KeepsNext.next
    | split
    | dsimp only

theorem State.fmRefuse_keeps {s : State} {h : HostPort} {d : Desc} {untrusted : Bool} (hk : Keeps st0 s) :
    Keeps st0 (State.fmRefuse s h d untrusted) := by
  unfold State.fmRefuse
  repeat' first
    | with_reducible first | assumption | apply State.bump_keeps | apply State.done_keeps | apply State.raiseSec_keeps | apply Keeps.ite
    | split
    | dsimp only

theorem State.fmOpen_keeps {s : State} {h : HostPort} {d : Desc} {data : Bytes} (hk : Keeps st0 s) :
    Keeps st0 (State.fmOpen s h d data) := by
  unfold State.fmOpen
  repeat' first
    | with_reducible first | assumption | apply State.draw_keeps | apply State.fmRefuse_keeps | apply State.randomBytes_keeps | apply State.secOut_keeps | apply State.setFm_keeps | apply Keeps.ite
    | split
    | dsimp only
    | with_reducible refine Keeps.snd ‹_› ?_

theorem execFmOpen_keeps {h : HostPort} {q : RingId} {data : Bytes} {s : State} (hk : Keeps st0 s) :
    KeepsNext st0 (execFmOpen h q data s) := by
  unfold execFmOpen
  repeat' first
    | with_reducible intro _
    | with_reducible first | assumption | apply State.done_keeps | apply State.fmOpen_keeps | apply State.withDesc_keeps | apply Keeps.ite | apply KeepsNext.ite | apply KeepsNext.next
    | split
    | dsimp only

theorem State.fmFinish_keeps {s : State} {h : HostPort} {d : Desc} {data : Bytes} (hk : Keeps st0 s) :
    Keeps st0 (State.fmFinish s h d data) := by
  unfold State.fmFinish
  repeat' first
    | with_reducible first | assumption | apply State.fmRefuse_keeps | apply State.secOut_keeps | apply State.setFm_keeps | apply Keeps.ite
    | split
    | dsimp only

theorem execFmFinish_keeps {h : HostPort} {q : RingId} {data : Bytes} {s : State} (hk : Keeps st0 s) :
    KeepsNext st0 (execFmFinish h q data s) := by
  unfold execFmFinish
  repeat' first
    | with_reducible intro _
    | with_reducible first | assumption | apply State.done_keeps | apply State.fmFinish_keeps | apply State.withDesc_keeps | apply Keeps.ite | apply KeepsNext.ite | apply KeepsNext.next
    | split
    | dsimp only

theorem State.tagged_keeps {s : State} {h : HostPort} {d : Desc} {run : State → State} (hk : Keeps st0 s) (hf : ∀ t, Keeps st0 t → Keeps st0 (run t)) :
    Keeps st0 (State.tagged s h d run) := by
  unfold State.tagged
  repeat' first
    | with_reducible first | assumption | apply State.done_keeps | apply State.raiseSec_keeps | apply State.setFm_keeps | apply Keeps.ite
    | split
    | dsimp only
    | with_reducible apply hf

theorem execFmClose_keeps {h : HostPort} {q : RingId} {s : State} (hk : Keeps st0 s) :
    KeepsNext st0 (execFmClose h q s) := by
  unfold execFmClose
  repeat' first
    | with_reducible intro _
    | with_reducible first | assumption | apply State.secOut_keeps | apply State.setFm_keeps | apply State.tagged_keeps | apply State.withDesc_keeps | apply KeepsNext.next

theorem State.fmRespond_keeps {s : State} {h : HostPort} {d : Desc} {data : Bytes} (hk : Keeps st0 s) :
    Keeps st0 (State.fmRespond s h d data) := by
  unfold State.fmRespond
  repeat' first
    | with_reducible first | assumption | apply State.done_keeps | apply State.secOut_keeps | apply State.setFm_keeps | apply Keeps.ite
    | split
    | dsimp only

theorem State.fmSource_keeps {s : State} {h : HostPort} {d : Desc} (hk : Keeps st0 s) :
    Keeps st0 (State.fmSource s h d) := by
  unfold State.fmSource
  repeat' first
    | with_reducible intro _
    | with_reducible first | assumption | apply State.done_keeps | apply State.fmRespond_keeps | apply State.withSw_keeps | apply Keeps.ite
    | split
    | dsimp only

theorem execFmRead_keeps {h : HostPort} {q : RingId} {s : State} (hk : Keeps st0 s) :
    KeepsNext st0 (execFmRead h q s) := by
  unfold execFmRead
  repeat' first
    | with_reducible intro _
    | with_reducible first | assumption | apply State.done_keeps | apply State.fmSource_keeps | apply State.tagged_keeps | apply State.withDesc_keeps | apply Keeps.ite | apply KeepsNext.ite | apply KeepsNext.next
    | split
    | dsimp only

theorem execSecLock_keeps {h : HostPort} {v : Word} {s : State} (hk : Keeps st0 s) :
    KeepsNext st0 (execSecLock h v s) := by
  unfold execSecLock
  repeat' first
    | with_reducible intro _
    | with_reducible first | assumption | apply State.hostWrite_keeps | apply State.lock_keeps | apply KeepsNext.next

theorem execSecClrCounters_keeps {h : HostPort} {s : State} (hk : Keeps st0 s) :
    KeepsNext st0 (execSecClrCounters h s) := by
  unfold execSecClrCounters
  repeat' with_reducible first | assumption | apply State.clearSec_keeps | apply State.hostWrite_keeps | apply KeepsNext.next

theorem State.stopExchanges_keeps {s : State} (hk : Keeps st0 s) :
    Keeps st0 (State.stopExchanges s) := by
  unfold State.stopExchanges
  repeat' first
    | with_reducible intro _
    | with_reducible first | assumption | apply State.modKex_keeps | apply State.withHost_keeps | apply Keeps.ite
    | with_reducible (apply Keeps.foldl; rotate_left; intro s b hk)
    | split
    | dsimp only
    | with_reducible refine Keeps.snd ‹_› ?_
    | with_reducible refine Keeps.fst ‹_› ?_

theorem execEntropyFail_keeps {s : State} (hk : Keeps st0 s) :
    KeepsNext st0 (execEntropyFail s) := by
  unfold execEntropyFail
  repeat' first
    | with_reducible first | assumption | apply State.raiseSec_keeps | apply State.stopExchanges_keeps | apply State.wr_keeps | apply Keeps.ite | apply KeepsNext.ite | apply KeepsNext.next
    | split
    | dsimp only

end Sys2Proof.Machine
end

