-- ==== Sys2Proof/Laws/Reports.lean ====
section
/-!
SUPPORT. What a register write, a report to the hosts and the completion of a descriptor do: one lemma per shared operation, in
the terms of the statements (`RegsOnly`, `ChangesOnly`, `Counted`, `Completes`).
-/
namespace Sys2Proof.Machine

variable {a b c s t : State} {l m : List Nat}

/-! Registers. -/

@[simp] theorem State.rd_wr_same (s : State) (off : Nat) (v : Word) : (s.wr off v).rd off = v := by
  simp [State.rd, State.wr, Tab.get_put_same]

theorem State.rd_wr_other (s : State) {off o : Nat} (v : Word) (h : o ≠ off) : (s.wr off v).rd o = s.rd o := by
  simp [State.rd, State.wr, Tab.get_put_other _ _ _ _ h]

theorem State.rd_withHost (s : State) (h : HostPort) (x : HostSide) (off : Nat) : (s.withHost h x).rd off = s.rd off := by
  cases h <;> rfl

@[simp] theorem State.host_withHost_same (s : State) (h : HostPort) (x : HostSide) : (s.withHost h x).host h = x := by
  cases h <;> rfl

theorem State.host_withHost_other (s : State) {h g : HostPort} (x : HostSide) (ne : g ≠ h) : (s.withHost h x).host g = s.host g := by
  cases h <;> cases g <;> first | rfl | exact absurd rfl ne

theorem counted_addReg (s : State) (off n : Nat) : Counted off n s (s.addReg off n) := by
  simp only [Counted, State.addReg, State.rd_wr_same, BitVec.toNat_ofNat]
  exact Nat.mod_eq_of_lt (by omega)

theorem counted_bump (s : State) (off : Nat) : Counted off 1 s (s.bump off) := counted_addReg s off 1

/-! Frames. -/

theorem RegsOnly.refl (s : State) : RegsOnly l s s := ⟨rfl, fun _ _ => rfl⟩

theorem RegsOnly.wr {off : Nat} {v : Word} (h : off ∈ l) : RegsOnly l s (s.wr off v) :=
  ⟨rfl, fun _ ho => State.rd_wr_other _ _ (fun e => ho (e ▸ h))⟩

theorem RegsOnly.trans (h : RegsOnly l a b) (g : RegsOnly l b c) : RegsOnly l a c := by
  refine ⟨?_, fun off ho => (g.2 off ho).trans (h.2 off ho)⟩
  have e := g.1
  rw [h.1] at e
  exact e

theorem RegsOnly.mono (h : RegsOnly l a b) (sub : ∀ x ∈ l, x ∈ m) : RegsOnly m a b :=
  ⟨h.1, fun off ho => h.2 off (fun i => ho (sub off i))⟩

theorem RegsOnly.zeroRegs {offs : List Nat} (sub : ∀ x ∈ offs, x ∈ l) : RegsOnly l s (s.zeroRegs offs) := by
  unfold State.zeroRegs
  induction offs generalizing s with
  | nil => exact RegsOnly.refl s
  | cons o os ih =>
    exact (RegsOnly.wr (sub o (List.mem_cons_self ..))).trans (ih (fun x hx => sub x (List.mem_cons_of_mem _ hx)))

theorem rd_zeroRegs {offs : List Nat} {off : Nat} (h : off ∈ offs) : (s.zeroRegs offs).rd off = 0 := by
  have keep : ∀ (os : List Nat) (u : State), u.rd off = 0 → (u.zeroRegs os).rd off = 0 := by
    intro os
    induction os with
    | nil => exact fun _ h => h
    | cons o os ih =>
      intro u hu
      refine ih _ ?_
      by_cases e : off = o
      · subst e; exact State.rd_wr_same ..
      · rw [State.rd_wr_other _ _ e]; exact hu
  induction offs generalizing s with
  | nil => exact absurd h (List.not_mem_nil)
  | cons o os ih =>
    by_cases e : off = o
    · subst e; exact keep os _ (State.rd_wr_same ..)
    · exact ih (List.mem_of_ne_of_mem e h)

theorem ChangesOnly.refl (s : State) : ChangesOnly l s s := ⟨rfl, fun _ _ _ => rfl⟩

theorem ChangesOnly.trans (h : ChangesOnly l a b) (g : ChangesOnly l b c) : ChangesOnly l a c := by
  refine ⟨?_, fun off ho hr => (g.reg off ho hr).trans (h.reg off ho hr)⟩
  have e := g.rest
  rw [h.rest] at e
  exact e

theorem ChangesOnly.mono (h : ChangesOnly l a b) (sub : ∀ x ∈ l, x ∈ m) : ChangesOnly m a b :=
  ⟨h.rest, fun off ho => h.reg off (fun i => ho (sub off i))⟩

theorem RegsOnly.changes (h : RegsOnly l a b) : ChangesOnly l a b :=
  ⟨by rw [h.1]; rfl, fun off ho _ => h.2 off ho⟩

theorem ChangesOnly.wr {off : Nat} {v : Word} (h : off ∈ l ∨ reportReg off = true) : ChangesOnly l s (s.wr off v) :=
  ⟨rfl, fun o ho hr => State.rd_wr_other _ _ (fun e => by subst e; rcases h with h | h; exact ho h; simp [h] at hr)⟩

theorem ChangesOnly.bump {off : Nat} (h : off ∈ l ∨ reportReg off = true) : ChangesOnly l s (s.bump off) := ChangesOnly.wr h

theorem ChangesOnly.withHost {h : HostPort} {x : HostSide} : ChangesOnly l s (s.withHost h x) := by
  cases h <;> exact ⟨rfl, fun _ _ _ => rfl⟩

theorem ChangesOnly.emit {o : Out} : ChangesOnly l s (s.emit o) := ⟨rfl, fun _ _ _ => rfl⟩
theorem ChangesOnly.withTest {x : Test} : ChangesOnly l s (s.withTest x) := ⟨rfl, fun _ _ _ => rfl⟩

theorem ChangesOnly.foldl {β : Type} {f : State → β → State} (xs : List β) (hf : ∀ u x, x ∈ xs → ChangesOnly l u (f u x)) :
    ChangesOnly l s (xs.foldl f s) := by
  induction xs generalizing s with
  | nil => exact ChangesOnly.refl s
  | cons x xs ih =>
    exact (hf s x (List.mem_cons_self ..)).trans (ih (fun u y hy => hf u y (List.mem_cons_of_mem _ hy)))

theorem ChangesOnly.ite {p : Prop} [Decidable p] (h : ChangesOnly l s a) (g : ChangesOnly l s b) :
    ChangesOnly l s (if p then a else b) := by split <;> assumption

/-! Trace buffers. -/

theorem reportReg_trcTime {k : Nat} (h : k ∈ [0, 1, 2, 3]) :
    reportReg (Reg.trcTrigTimeLo k) = true ∧ reportReg (Reg.trcTrigTimeLo k + 4) = true := by
  revert k; decide

theorem reportReg_hostErr (h : HostPort) (i : Nat) (hi : i < 32) : reportReg (Reg.hostErr (hostNum h) + i) = true := by
  cases h <;> simp [reportReg, hostNum] <;> omega

theorem reportReg_evt (h : HostPort) : reportReg (Reg.evtTail (hostNum h)) = true ∧ reportReg (Reg.evtDrop (hostNum h)) = true := by
  cases h <;> decide

theorem traceInto_changes (src unit : Nat) (anyUnit : Bool) (data : Bytes) (k : Nat) :
    ChangesOnly l s (traceInto s src unit anyUnit data k) := by
  unfold traceInto
  exact ChangesOnly.ite ChangesOnly.withTest (ChangesOnly.refl s)

theorem traceEv_changes (src unit : Nat) (anyUnit : Bool) (data : Bytes) : ChangesOnly l s (s.traceEv src unit anyUnit data) :=
  ChangesOnly.foldl _ (fun _ _ _ => traceInto_changes ..)

theorem traceTrigger_changes (e n : Nat) {k : Nat} (h : k ∈ [0, 1, 2, 3]) : ChangesOnly l s (traceTrigger s e n k) := by
  unfold traceTrigger
  refine ChangesOnly.ite ?_ (ChangesOnly.refl s)
  exact ChangesOnly.withTest.trans ((ChangesOnly.wr (Or.inr (reportReg_trcTime h).1)).trans
    (ChangesOnly.wr (Or.inr (reportReg_trcTime h).2)))

/-! Error records and events (R512, R475). -/

/-- A raise writes its record, its captures and the report registers. -/
theorem record_changes (e n : Nat) (caps bitCaps : List (Nat × Word))
    (he : ∀ x ∈ recordRegs e, x ∈ l ∨ reportReg x = true) (hc : ∀ p ∈ caps ++ bitCaps, p.1 ∈ l ∨ reportReg p.1 = true) :
    ChangesOnly l s (s.record e n caps bitCaps) := by
  have put : ∀ (ps : List (Nat × Word)) (u : State), (∀ p ∈ ps, p.1 ∈ l ∨ reportReg p.1 = true) →
      ChangesOnly l u (ps.foldl (fun (s : State) (p : Nat × Word) => s.wr p.1 p.2) u) :=
    fun ps u h => ChangesOnly.foldl ps (fun _ p hp => ChangesOnly.wr (h p hp))
  simp only [recordRegs, List.mem_cons, List.not_mem_nil, or_false, forall_eq_or_imp, forall_eq] at he
  obtain ⟨h0, h4, h8, h12⟩ := he
  unfold State.record
  dsimp only
  refine ChangesOnly.trans ?_ (ChangesOnly.foldl _ (fun _ k hk => traceTrigger_changes e n hk))
  refine ChangesOnly.trans ?_ (traceEv_changes ..)
  refine ChangesOnly.trans ?_ (ChangesOnly.wr h0)
  have first : ChangesOnly l s (if s.rd e = 0 then caps.foldl (fun (s : State) (p : Nat × Word) => s.wr p.1 p.2)
      ((s.bump (e + 4)).wr64 (e + 8) (s.bump (e + 4)).now) else s.bump (e + 4)) := by
    refine ChangesOnly.ite ?_ (ChangesOnly.bump h4)
    exact (ChangesOnly.bump h4).trans (((ChangesOnly.wr h8).trans (ChangesOnly.wr h12)).trans
      (put _ _ (fun p hp => hc p (List.mem_append_left _ hp))))
  exact first.trans (ChangesOnly.ite (ChangesOnly.refl _) (put _ _ (fun p hp => hc p (List.mem_append_right _ hp))))

theorem signal_changes (h : HostPort) (r : Nat) : ChangesOnly l s (s.signal h r) := by
  unfold State.signal
  exact ChangesOnly.ite (ChangesOnly.withHost.trans ChangesOnly.emit) (ChangesOnly.refl s)

theorem ringWrite_changes (h : HostPort) (r : Nat) (entry : Bytes) (hr : ringTail h r ∈ l ∨ reportReg (ringTail h r) = true) :
    ChangesOnly l s (s.ringWrite h r entry) := by
  unfold State.ringWrite
  exact ((ChangesOnly.emit.trans (ChangesOnly.wr hr)).trans ChangesOnly.withHost).trans (signal_changes h r)

theorem reportReg_ringTail_evt (h : HostPort) : reportReg (ringTail h 64) = true := by cases h <;> decide

theorem evtWrite_changes (h : HostPort) (e : Bytes) : ChangesOnly l s (s.evtWrite h e) := by
  unfold State.evtWrite
  exact ChangesOnly.withHost.trans (ringWrite_changes h 64 _ (Or.inr (reportReg_ringTail_evt h)))

theorem evtDrop_changes (h : HostPort) : ChangesOnly l s (s.evtDrop h) :=
  ChangesOnly.withHost.trans (ChangesOnly.bump (Or.inr (reportReg_evt h).2))

theorem hostErr_record_changes (h : HostPort) (n : Nat) (v : Word) :
    ChangesOnly l s (s.record (Reg.hostErr (hostNum h)) n
      [(Reg.hostErrCapture (hostNum h), v), (Reg.hostErrAddrLo (hostNum h), 0), (Reg.hostErrAddrHi (hostNum h), 0)] []) := by
  apply record_changes
  · intro x hx
    simp only [recordRegs, List.mem_cons, List.not_mem_nil, or_false] at hx
    rcases hx with rfl | rfl | rfl | rfl <;> exact Or.inr (by cases h <;> decide)
  · intro p hp
    simp only [List.append_nil, List.mem_cons, List.not_mem_nil, or_false] at hp
    rcases hp with rfl | rfl | rfl <;> cases h <;> exact Or.inr rfl

/-- Posting an event touches nothing but what a report touches. -/
theorem postEventTo_changes (fuel : Nat) (h : HostPort) (e : Bytes) : ChangesOnly l s (postEventTo fuel s h e) := by
  induction fuel generalizing s h e with
  | zero => exact evtDrop_changes h
  | succ n ih =>
    simp only [postEventTo]
    refine ChangesOnly.ite (evtWrite_changes h e) (ChangesOnly.ite ?_ ?_)
    · exact (evtDrop_changes h).trans (hostErr_record_changes h 7 7)
    · exact (((evtDrop_changes h).trans (hostErr_record_changes h 7 7)).trans (ih ..)).trans (ih ..)

theorem postEvent_changes (kind n subject : Nat) (detail : Bytes) : ChangesOnly l s (s.postEvent kind n subject detail) :=
  (postEventTo_changes 4 .a _).trans (postEventTo_changes 4 .b _)

/-- Raising an error touches its record, its captures and what a report touches. -/
theorem raiseCap_changes (e n : Nat) (caps bitCaps : List (Nat × Word))
    (he : ∀ x ∈ recordRegs e, x ∈ l ∨ reportReg x = true) (hc : ∀ p ∈ caps ++ bitCaps, p.1 ∈ l ∨ reportReg p.1 = true) :
    ChangesOnly l s (s.raiseCap e n caps bitCaps) := by
  unfold State.raiseCap
  exact ChangesOnly.ite (record_changes e n caps bitCaps he hc)
    ((record_changes e n caps bitCaps he hc).trans (postEvent_changes ..))

theorem raise_changes (e n : Nat) (caps : List (Nat × Word)) (he : ∀ x ∈ recordRegs e, x ∈ l)
    (hc : ∀ p ∈ caps, p.1 ∈ l) : ChangesOnly l s (s.raise e n caps) :=
  raiseCap_changes e n caps [] (fun x hx => Or.inl (he x hx)) (fun p hp => Or.inl (hc p (by simpa using hp)))

theorem raiseHost_changes (h : HostPort) (n type status ring : Nat) (addr : Dword) :
    ChangesOnly l s (s.raiseHost h n type status ring addr) := by
  apply raiseCap_changes
  · intro x hx
    simp only [recordRegs, List.mem_cons, List.not_mem_nil, or_false] at hx
    rcases hx with rfl | rfl | rfl | rfl <;> exact Or.inr (by cases h <;> decide)
  · intro p hp
    simp only [List.append_nil, List.mem_cons, List.not_mem_nil, or_false] at hp
    rcases hp with rfl | rfl | rfl <;> cases h <;> exact Or.inr rfl

/-- A raise sets its bit: the registers that a report writes are not those of the record. -/
theorem raiseCap_sets (e n : Nat) (caps bitCaps : List (Nat × Word)) (hn : n < 32) (hr : reportReg e = false) :
    bit ((s.raiseCap e n caps bitCaps).rd e) n = true := by
  have trig : ∀ u : State, ([0, 1, 2, 3].foldl (fun s k => traceTrigger s e n k) u).rd e = u.rd e := fun u =>
    (ChangesOnly.foldl (l := []) [0, 1, 2, 3] (fun _ k hk => traceTrigger_changes e n hk)).reg e (List.not_mem_nil) hr
  have tr : ∀ (u : State) (d : Bytes), (u.traceEv 3 0 true d).rd e = u.rd e := fun u d =>
    (traceEv_changes (l := []) 3 0 true d).reg e (List.not_mem_nil) hr
  have recd : (s.record e n caps bitCaps).rd e = setBit (s.rd e) n := by
    unfold State.record
    simp only [trig, tr, State.rd_wr_same]
  have set : bit (setBit (s.rd e) n) n = true := by
    simp only [bit, setBit, BitVec.getLsbD_or, BitVec.getLsbD_shiftLeft, BitVec.getLsbD_ofNat]
    simp [hn]
  unfold State.raiseCap
  dsimp only
  split
  · rw [recd]; exact set
  · rw [(postEvent_changes (l := []) 0x01 n e []).reg e (List.not_mem_nil) hr, recd]; exact set

/-! Completions of descriptors (R463). -/

theorem cqPost_changes (h : HostPort) (r : RingId) (entry : Bytes) (keep : Nat) (hr : ringTail h r.val ∈ l) :
    ChangesOnly l s (s.cqPost h r entry keep) := by
  unfold State.cqPost
  exact ChangesOnly.ite (ringWrite_changes h r.val entry (Or.inl hr)) ChangesOnly.withHost

/-- A completion touches its own registers and what a report touches. -/
theorem finish_changes (h : HostPort) (d : Desc) (status result : Nat) (hl : ∀ x ∈ doneRegs h d, x ∈ l) :
    ChangesOnly l s (s.finish h d status result) := by
  unfold State.finish
  exact (ChangesOnly.withHost.trans (ChangesOnly.bump (Or.inl (hl _ (List.mem_cons_self ..))))).trans
    (cqPost_changes h d.cq _ 0 (hl _ (List.mem_cons_of_mem _ (List.mem_singleton.2 rfl))))

theorem setDesc_changes (h : HostPort) (d : Desc) : ChangesOnly l s (s.setDesc h d) := ChangesOnly.withHost

/-- A descriptor that starts: what its type then does with it started. -/
theorem withDesc_starts {h : HostPort} {q : RingId} {pick : Desc → Bool} {run : State → Desc → State} {d : Desc}
    (hs : s.descServed = true) (hd : s.startable h q pick = some d) :
    s.withDesc h q pick run = run (s.setDesc h (startedDesc s d)) (startedDesc s d) := by
  simp only [State.withDesc, hs, hd, startedDesc]
  rfl

/-- An access that reaches its register runs what the register does. -/
theorem hostWrite_reaches {h : HostPort} {off : Nat} {f : State → State} (hr : Reaches s h off) :
    s.hostWrite h off f = f (s.touch h) := by
  have serves : (s.touch h).serves off = s.serves off := by
    unfold State.touch
    dsimp only
    split
    · rfl
    · cases h <;> rfl
  simp only [State.hostWrite, hr.1, serves, hr.2]
  rfl

/-! What a completion leaves (R463, R474). -/

theorem withHost_flight {h : HostPort} {x : HostSide} (g : HostPort) (e : x.flight = (s.host h).flight) :
    ((s.withHost h x).host g).flight = (s.host g).flight := by
  cases h <;> cases g <;> first | exact e | rfl

theorem emit_host (s : State) (o : Out) (g : HostPort) : (s.emit o).host g = s.host g := by cases g <;> rfl

theorem wr_host (s : State) (off : Nat) (v : Word) (g : HostPort) : (s.wr off v).host g = s.host g := by cases g <;> rfl

theorem signal_flight (h g : HostPort) (r : Nat) : ((s.signal h r).host g).flight = (s.host g).flight := by
  unfold State.signal
  dsimp only
  split
  · rw [emit_host]; exact withHost_flight g rfl
  · rfl

theorem ringWrite_flight (h g : HostPort) (r : Nat) (e : Bytes) : ((s.ringWrite h r e).host g).flight = (s.host g).flight := by
  unfold State.ringWrite
  refine (signal_flight h g r).trans ((withHost_flight g ?_).trans ?_)
  · dsimp only
    split <;> rfl
  · cases g <;> rfl

theorem signal_out (h : HostPort) (r : Nat) {o : Out} (ho : o ∈ s.out) : o ∈ (s.signal h r).out := by
  unfold State.signal
  dsimp only
  split
  · cases h <;> exact List.mem_cons_of_mem _ ho
  · exact ho

theorem withHost_out (h : HostPort) (x : HostSide) : (s.withHost h x).out = s.out := by cases h <;> rfl

/-- A ring write sends its entry, its first byte marked with the phase. -/
theorem ringWrite_out (h : HostPort) (r : Nat) (g : Byte) (rest : Bytes) :
    ∃ addr g', Out.hostWrite (s.setOwner h) addr (g' :: rest) ∈ (s.ringWrite h r (g :: rest)).out := by
  unfold State.ringWrite
  exact ⟨s.rd64 (ringBase h r) + BitVec.ofNat 64 ((s.rd (ringTail h r)).toNat % 65536 * (g :: rest).length), g ||| BitVec.ofNat 8 (4 * bits (s.rd (ringTail h r)).toNat 16 16), signal_out h r (by rw [withHost_out]; exact List.mem_cons_self ..)⟩

theorem field_tail (g g' : Byte) (rest : Bytes) (o n : Nat) : field (g' :: rest) (o + 1) n = field (g :: rest) (o + 1) n := rfl

theorem leNat_leBytes (n v : Nat) : leNat (leBytes n v) = v % 256 ^ n := by
  induction n generalizing v with
  | zero => simp [leBytes, leNat, Nat.mod_one]
  | succ n ih =>
    simp only [leBytes, leNat, ih, BitVec.toNat_ofNat]
    exact Nat.mod_mul.symm.trans (by rw [Nat.mul_comm]; rfl)

theorem leNat_lt (bs : Bytes) : leNat bs < 256 ^ bs.length := by
  induction bs with
  | nil => simp [leNat]
  | cons b bs ih =>
    have := b.isLt
    simp only [leNat, List.length_cons, Nat.pow_succ]
    omega

theorem field_lt (bs : Bytes) (o n : Nat) : field bs o n < 256 ^ n :=
  (leNat_lt _).trans_le (Nat.pow_le_pow_right (by norm_num) (by simp))

theorem cqPost_flight (h g : HostPort) (r : RingId) (e : Bytes) (keep : Nat) :
    ((s.cqPost h r e keep).host g).flight = (s.host g).flight := by
  unfold State.cqPost
  split
  · exact ringWrite_flight h g r.val e
  · exact withHost_flight g rfl

theorem setOwner_finish (h : HostPort) (x : HostSide) (off : Nat) (e : x.ring = (s.host h).ring) :
    ((s.withHost h x).bump off).setOwner h = s.setOwner h := by
  have e' : (((s.withHost h x).bump off).host h).ring = (s.host h).ring := by
    rw [← e]; cases h <;> rfl
  unfold State.setOwner
  rw [e']

/-- A completion takes the descriptor out of flight and writes or holds its entry (R463, R474). -/
theorem finish_completes (s : State) (h : HostPort) (d : Desc) (status result : Nat) :
    Completes h d status result s (s.finish h d status result) := by
  unfold State.finish
  dsimp only
  refine ⟨?_, ?_⟩
  · rw [cqPost_flight]
    rw [show ∀ (u : State) (off : Nat) (x : HostSide), (((u.withHost h x).bump off).host h).flight = x.flight from
      fun _ _ _ => by cases h <;> rfl]
    intro e he
    simpa using (List.mem_filter.1 he).2
  · generalize hu : (s.withHost h _).bump _ = u
    have own : u.setOwner h = s.setOwner h := hu ▸ setOwner_finish h _ _ rfl
    have flds : ∀ (g : Byte) (now : Dword) (head : Nat),
        let e := g :: (cplEntry now true false (field d.bytes 1 1) status d.sq.val head (field d.bytes 8 8) result).tail
        field e 1 1 = dType d ∧ field e 2 1 = status % 256 ∧ field e 4 2 = d.sq.val ∧ field e 8 8 = dField d 8 8
          ∧ field e 16 8 = result % 2 ^ 64 := by
      intro g now head
      have b8 : ∀ v, leNat (leBytes 1 v) = v % 256 := fun v => by rw [leNat_leBytes, Nat.pow_one]
      refine ⟨?_, ?_, ?_, ?_, ?_⟩
      · exact (b8 _).trans (Nat.mod_eq_of_lt (field_lt d.bytes 1 1))
      · exact b8 _
      · exact (leNat_leBytes 2 _).trans (Nat.mod_eq_of_lt (by have := d.sq.isLt; omega))
      · exact (leNat_leBytes 8 _).trans (Nat.mod_eq_of_lt (field_lt d.bytes 8 8))
      · exact (leNat_leBytes 8 _).trans (by norm_num)
    unfold State.cqPost
    split
    · obtain ⟨addr, g, hg⟩ := ringWrite_out (s := u) h d.cq.val (cplEntry u.now true false (field d.bytes 1 1) status d.sq.val (u.sqHead h d.sq) (field d.bytes 8 8) result).head! (cplEntry u.now true false (field d.bytes 1 1) status d.sq.val (u.sqHead h d.sq) (field d.bytes 8 8) result).tail
      have f := flds g u.now (u.sqHead h d.sq)
      refine ⟨_, f.1, f.2.1, f.2.2.1, f.2.2.2.1, f.2.2.2.2, Or.inl ⟨addr, ?_⟩⟩
      rw [← own]; exact hg
    · have f := flds (cplEntry u.now true false (field d.bytes 1 1) status d.sq.val (u.sqHead h d.sq) (field d.bytes 8 8) result).head! u.now (u.sqHead h d.sq)
      refine ⟨_, f.1, f.2.1, f.2.2.1, f.2.2.2.1, f.2.2.2.2, Or.inr ?_⟩
      rw [State.host_withHost_same]
      exact List.mem_append_right _ (List.mem_singleton.2 rfl)


end Sys2Proof.Machine
end

