-- ==== Sys2Proof/WellFormed.lean ====
section
/-!
DEFINITION. Well-formed commands: an operand that a type leaves too wide has the size or the range that the rule of its event
gives it. The meanings are total and do not ask for it; it says which operands the device's surroundings can bring.
-/
namespace Sys2Proof

/-- A register offset is a multiple of 4 (R5). -/
def wordOffset (off : BitVec 25) : Bool := off.toNat % 4 == 0

/-- The period of an announcement lies in a term of its length (R58, R77). -/
def SoNotice.sound (a : SoNotice) : Bool := a.period ≤ a.lenM1

/-- A sweep reads six dies and eight stacks (R562). -/
def SensorSweep.sound (w : SensorSweep) : Bool := w.dies.length == 6 && w.stackDeg.length == 8

/-- A unit of a kind that activities name exists (R516, R520): 1 port, 2 stack, 3 tray, 4 bench, 5 network unit, 7 directory, 8 object,
9 basis stream. -/
def unitKind (kind unit : Nat) : Bool :=
  match kind with
  | 1 => decide (unit < 192)
  | 2 => decide (unit < 8)
  | 3 => decide (unit < 32)
  | 4 => decide (unit < 168)
  | 5 => decide (unit < 36)
  | 7 => unit == 0
  | 8 => decide (unit < 16384)
  | 9 => true
  | _ => false

/-- A kind of unit that self-test tests, and the unit exists (R544, R547). -/
def testable (kind unit : Nat) : Bool := [1, 2, 4, 5].contains kind && unitKind kind unit

/-- The operands of a command are well formed. -/
def Instr.wf : Instr → Bool
  | .regWrite _ off _ => wordOffset off
  | .bar0UnsupportedAccess _ off size _ => decide (1 ≤ size) && !(size == 4 && wordOffset off)
  | .readLoLatch _ off => wordOffset off
  | .readHi _ off => wordOffset off && decide (4 ≤ off.toNat)
  | .writeLoHold _ off _ => wordOffset off
  | .writeHiApply _ off _ => wordOffset off && decide (4 ≤ off.toNat)
  | .errW1cClear _ off _ => wordOffset off
  | .bellFrameReceive _ => true
  | .timestampSend _ => true
  | .timestampReceive _ _ parent => parent.all SoNotice.sound
  | .ttLoad _ _ _ => true
  | .ttArm _ _ => true
  | .ttCancel _ _ => true
  | .strandedDiscard _ _ _ => true
  | .bankArm _ _ => true
  | .bankSwitchOver _ => true
  | .gateEntryFire _ => true
  | .recessStart kind num => decide (num.val < [192, 168, 36].getD kind.val 0)
  | .ttLaunchFire _ => true
  | .ttStartFire _ => true
  | .portCfgWrite _ _ _ => true
  | .portRetrain _ _ => true
  | .portDisable _ _ => true
  | .portRekey _ _ => true
  | .portClrCounters _ _ => true
  | .signalDetect _ _ => true
  | .eqLowDone _ _ => true
  | .laneMapDone _ _ _ => true
  | .versionDecide _ peer => decide (peer.kind ≠ 0)
  | .eqFullDone _ _ => true
  | .configDone _ credits => credits.length == 8
  | .trainTimeout _ => true
  | .flitReceive _ f _ _ => f.payload.length == 240
  | .replayReqReceive _ => true
  | .replayWaitRetry _ => true
  | .peerDead _ => true
  | .recoveryDone _ => true
  | .linkCtlRekeyAnnounce _ => true
  | .egressFlitPosition _ _ => true
  | .laneMarginStart _ _ _ => true
  | .laneMarginDone _ _ _ => true
  | .secureHello _ => true
  | .secureKemEk _ => true
  | .secureKemCt _ => true
  | .secureFinished _ => true
  | .secureAbort _ => true
  | .secureResend _ => true
  | .rekeyEk _ => true
  | .rekeyCt _ => true
  | .ingressFirstFlit _ _ => true
  | .safFrameComplete _ _ => true
  | .mortiseCheck _ => true
  | .stackLineRead _ _ _ => true
  | .msgAcked _ => true
  | .cplReceive _ => true
  | .tagTimeout _ _ => true
  | .drainBoundExpiry _ => true
  | .drawerShred _ => true
  | .mapResetDone _ => true
  | .gwCombineWrite _ => true
  | .gwFlushTimeout _ _ => true
  | .gwFlushComplete _ => true
  | .gwOrderFrame _ => true
  | .gwOrderForward _ => true
  | .gwReadAhead _ => true
  | .gwReadaheadFill _ => true
  | .egressPortDown _ => true
  | .failback _ _ => true
  | .ageDiscard _ _ _ => true
  | .shapeBurstWrite _ _ _ => true
  | .shapeSelWrite _ _ _ _ => true
  | .polSelWrite _ _ _ _ => true
  | .polProfileWrite _ _ _ _ => true
  | .mirCfgWrite _ _ _ _ => true
  | .swRouteWrite _ _ _ => true
  | .swClrCounters _ => true
  | .poolInit _ => true
  | .poolClrCounters _ => true
  | .migrationCommit _ => true
  | .ageDemote _ => true
  | .poolMigrate _ _ => true
  | .stackRefresh _ => true
  | .stackTempHigh _ => true
  | .scrubStack _ => true
  | .scrubLate _ => true
  | .scrubNow _ _ => true
  | .stkClrCounters _ _ => true
  | .trayIdentify _ => true
  | .trayIdentifyDone _ _ _ _ => true
  | .trayIdentifyTimeout _ => true
  | .trayLost _ => true
  | .trayCompletion _ msg => decide (msg.data.length < 65536)
  | .trayCmdTimeout _ _ => true
  | .plankDiscard _ _ => true
  | .gcFlash _ => true
  | .wearLevel _ => true
  | .trayClrCounters _ => true
  | .ordClrCounters _ => true
  | .dirSnoopDeliver f => decide (f.payload.length < 65536)
  | .dirSnoopTimeout _ => true
  | .dirFillData _ => true
  | .dirRebuild _ => true
  | .dirPurge _ => true
  | .poisonClear _ _ => true
  | .dirProbe _ => true
  | .dirClrCounters _ => true
  | .benchLaunchStart _ => true
  | .benchQueueTimeout _ => true
  | .benchAcquirePoll _ => true
  | .benchGatherWaitEnd _ => true
  | .benchOperandsFetched _ => true
  | .benchComputeDone _ => true
  | .benchOutputsDone _ => true
  | .benchReleaseDone _ => true
  | .benchClearStore _ _ => true
  | .benchClrCounters _ _ => true
  | .offerDeadline _ => true
  | .rollAgentDead _ => true
  | .hbLost _ => true
  | .watchRetry _ port => decide (port.val < 192)
  | .claimDiscardsDone _ => true
  | .rollStationBind _ => true
  | .rollProbe _ => true
  | .rollClrCounters _ => true
  | .nuAcquirePoll _ => true
  | .reduceFlagPoll _ => true
  | .reduceLocalReadDone _ => true
  | .reduceMergeStart _ => true
  | .reduceMergeDone _ => true
  | .reduceDeadline _ => true
  | .gatherFetchDone _ => true
  | .gatherWalkDone _ => true
  | .filterSelectDone _ => true
  | .netClrCounters _ => true
  | .veneerCompress _ => true
  | .veneerExpand _ => true
  | .basisLoad _ _ _ => true
  | .basisSave _ _ => true
  | .basisSelect _ _ => true
  | .basisFree _ _ => true
  | .venClrCounters _ => true
  | .sqDoorbell _ _ _ => true
  | .cqDoorbell _ _ _ => true
  | .evtDoorbell _ _ => true
  | .ringCfgWrite _ off _ => wordOffset off
  | .descriptorFetch _ _ data => data.length == 64
  | .intTimeout _ _ => true
  | .hrdyReadbackDone _ _ => true
  | .nop _ _ => true
  | .takeover _ _ => true
  | .takeoverGive _ _ => true
  | .takeoverWaitTimeout _ => true
  | .mortLoad _ _ _ => true
  | .drawerLoad _ _ _ => true
  | .objLoad _ _ _ => true
  | .rollLoad _ _ _ => true
  | .ringLaunch _ _ => true
  | .fabric _ _ _ => true
  | .maintReq _ _ => true
  | .secGetChain _ _ => true
  | .secAttest _ _ _ => true
  | .secExtend _ _ _ => true
  | .fmOpen _ _ _ => true
  | .fmFinish _ _ _ => true
  | .fmClose _ _ => true
  | .fmRead _ _ => true
  | .bar4Read _ _ len _ => decide (1 ≤ len) && decide (len ≤ 4096)
  | .bar4Write _ _ data be => decide (data.length ≤ 4096) && be.length == data.length
  | .bar4Atomic _ _ _ data _ => [4, 8, 16, 32].contains data.length
  | .bar4Complete _ => true
  | .hostPortDown _ => true
  | .ringsQuiesced _ => true
  | .hostClrCounters _ => true
  | .secLock _ _ => true
  | .secClrCounters _ => true
  | .faultFenceSet _ _ => true
  | .fenceTakesEffect _ => true
  | .faultLift _ _ => true
  | .fenceLiftEffect _ => true
  | .faultOfflineWrite _ _ _ => true
  | .maintActivityAsk _ kind unit => unitKind kind.val unit
  | .maintActivityEnd _ kind unit => unitKind kind.val unit
  | .maintReqTimeout _ => true
  | .resetCold _ _ => true
  | .resetWarm _ _ => true
  | .forceRecovery _ _ => true
  | .portReset _ _ => true
  | .romStartDone _ => true
  | .spiReadDone image _ => decide (image.length ≤ 4194304)
  | .bootClaim _ => true
  | .recoverGo _ _ => true
  | .fwStartDone _ => true
  | .keygenDone _ => true
  | .bootBistDone _ _ => true
  | .proceed _ => true
  | .shutdownGo _ _ => true
  | .testLbStart _ _ _ => true
  | .testLbStop _ => true
  | .testHlbStart _ _ _ => true
  | .testHlbStop _ => true
  | .echoRequest _ => true
  | .bist kind unit _ _ _ => testable kind.val unit
  | .linkRecal _ => true
  | .trcCfgWrite _ _ _ => true
  | .jtagInstructionLoad _ => true
  | .sensorRead sweep => sweep.sound
  | .hostCompletionTimeout _ _ => true
  | .stackPhyRetrain _ => true
  | .bellSlotAdvance => true
  | .jobViewCopy => true
  | .bellFrameSend => true
  | .missingFrame => true
  | .ringOpen => true
  | .holdoverExpiry => true
  | .electionEntry => true
  | .singleCardSelfMaster => true
  | .bellReadyChange => true
  | .refLost => true
  | .refAppear => true
  | .ppsEdge => true
  | .soCommitPoint => true
  | .timetableSwitchOver => true
  | .msgDeliver => true
  | .fabricLaunch => true
  | .poolInitDone => true
  | .promoteTimeout => true
  | .pressureSweep => true
  | .reportCardRebuild => true
  | .orderFlushRange => true
  | .orderRelease => true
  | .orderReleaseRange => true
  | .orderFence => true
  | .guardSetEmpty => true
  | .guardTimeout => true
  | .dirGetS => true
  | .dirGetM => true
  | .dirUpgrade => true
  | .dirPutE => true
  | .dirPutM => true
  | .dirInvAck => true
  | .dirRecallAck => true
  | .dirRecallData => true
  | .dirAgeFreeze => true
  | .rollRead => true
  | .rollCommit => true
  | .rollOffer => true
  | .rollWithdraw => true
  | .rollTake => true
  | .rollClaim => true
  | .rollClose => true
  | .rollAttend => true
  | .rollWatch => true
  | .rollHeartbeat => true
  | .rollAgentDown => true
  | .rollForward => true
  | .rollTrim => true
  | .heartbeatSend => true
  | .contrib => true
  | .deliver => true
  | .pfxLookup => true
  | .pfxInsert => true
  | .entropyFail => true
  | .auxGood => true
  | .mainEnable => true
  | .mainResetRelease => true
  | .mainLoss => true
  | .auxLoss => true
  | .verifyDone => true
  | .recoveryVerifyDone => true
  | .bootStateTimeout => true
  | .linkTrainingDone => true
  | .bellWaitDone => true
  | .bellSlow => true
  | .shutdownDone => true
  | .mgmtHeartbeat => true
  | .watchdogExpiry => true
  | .clearTrip => true

end Sys2Proof
end

