-- ==== Sys2Proof/Tests/Slice0.lean ====
section
/-!
SUPPORT. Small states on which commands run, witnesses of the statements' hypotheses, terms that are not well formed, and one-step
checks against numbers worked out from the manual's rules.
-/
namespace Sys2Proof.Tests
open Machine

set_option maxRecDepth 20000
set_option Elab.async false

/-! Small states: the block in RUN with both host ports up, a descriptor that waits, links in a state. -/

/-- A host port whose link is up. -/
def side : HostSide := { HostSide.reset with dlUp := true, width := 8, rate := 6 }

/-- The boot has reached a state with both supplies good. -/
def inBoot (b : BootSt) : State :=
  { State.reset with boot := { Boot.reset with auxGood := true, pwrGood := true, state := b }, hostA := side, hostB := side }

/-- The block runs. -/
def run : State := inBoot .run

/-- A descriptor from its fields: offset, bytes, value. -/
def desc (fs : List (Nat × Nat × Nat)) : Desc :=
  ⟨0, 0, 0, leBytes 64 (fs.foldl (fun n f => n + f.2.2 % 256 ^ f.2.1 * 256 ^ f.1) 1), false, 0, false, 0⟩

/-- A descriptor waits at the front of SQ 0 of host A. -/
def waits (s : State) (d : Desc) : State := s.withHost .a { s.host .a with flight := [d] }

/-- Link 0 as given. -/
def linked (k : Link) : State := run.withLinks [(0, k)]

/-- A link in a training state, its PORT_CFG enabled as an A-role port of width x4 at 32 GT/s. -/
def agentCfg : Word := 0x0111

def link (t : Train) : Link := { Link.reset with train := t, cfg := agentCfg }

/-- The block has bell lock in a period, at a slot. -/
def locked (period : BitVec 16) (slot : BitVec 8) : State :=
  run.withBell { Bell.reset with lock := .locked, now := ⟨0, period, slot⟩ }

/-! Every statement that has hypotheses has states and operands that meet them: one theorem a statement, one part a clause,
at a boundary of its range where it has one. -/

theorem witness_StepRunsFrontCommand :
    (run.withPending [.bellSlotAdvance]).pending = [.bellSlotAdvance] ∧ run.pending = [] := by decide +kernel

theorem witness_StorageStaysCanonical : State.reset.regs.wf regReset = true ∧ (∃ t, step run = .next t) :=
  ⟨by decide +kernel, ⟨run, rfl⟩⟩

theorem witness_OutputStays : ∃ t, step (run.withPending [.bellReadyChange]) = .next t := ⟨_, rfl⟩

theorem witness_CommandLeavesQueue : ∃ t, exec .mainEnable run = .next t := ⟨_, rfl⟩

theorem witness_HeaderRoundTrip : (HdrFields.mk 1 0 0 65535 0 0 0 0 0 0 0 0 0 false).len < 65536 := by decide +kernel

theorem witness_SlotAdvance :
    (locked 65535 255).boot.auxGood = true ∧ (locked 65535 255).boot.pendReset = none ∧ (locked 65535 255).bell.jump = none
    ∧ (locked 65535 255).bell.now.period.toNat + 1 = (locked 65535 255).bell.len
    ∧ (locked 65534 255).bell.now.period.toNat + 1 < (locked 65534 255).bell.len ∧ (locked 0 254).bell.now.slot ≠ 255 := by
  decide +kernel

def master : State := run.withBell { Bell.reset with master := true, lock := .locked }

def timed : State :=
  ((locked 0 128).withLinks [(0, { link .active with cfg := 0x0131 })]).wr Reg.bellTimeLink 0x10000

theorem witness_BellFramesSent :
    (master.bell.master || master.bell.election) = true ∧ master.bell.sentThis = false ∧ master.bell.now.slot = 0
    ∧ (locked 0 128).bell.ready ≠ (locked 0 128).readyWanted ∧ (locked 0 128).bell.now.slot = 128
    ∧ timed.timePort = some 0 ∧ timed.timeLinkUp 0 = true ∧ (timed.timeLink 0).sent = false := by
  decide +kernel


def member (l : Lock) (n : Nat) : State := run.withBell { Bell.reset with lock := l, goodRun := n }

def elect : State := run.withBell { Bell.reset with election := true, ownRun := 3 }

def soundFrame : BitVec 272 := bellContent { bellFields 0 with term := 0, period := 3, lenM1 := 65535, masterSw := 0, fmtGen := 1 }

theorem witness_BellFrameReceived :
    run.boot.auxGood = true ∧ bellGood 0 = false ∧ bellGood soundFrame = true
    ∧ (member .unlocked 3).bell.lock = .unlocked ∧ (member .unlocked 3).bell.goodRun = 3 ∧ (member .unlocked 2).bell.goodRun < 3
    ∧ elect.bell.election = true ∧ (bellFields soundFrame).masterSw = elect.swNum ∧ 3 ≤ elect.bell.ownRun := by
  decide +kernel

def late (b : Bell) (n : Nat) : State := run.withBell { b with bounds := n }

/-- Switch 5 of a fabric, with a master priority. -/
def fabricOf (s : State) : State := s.wr Reg.swIdentity 0x10005

theorem witness_BellWatchesFire :
    (late { Bell.reset with tracked := true, missRun := 1, lock := .coarse } 9).bell.tracked = true
    ∧ (fabricOf (late { Bell.reset with master := true } 12)).isFabric = true
    ∧ max (0 + 8) 0 + 4 ≤ (late { Bell.reset with master := true } 12).bell.bounds
    ∧ (late { Bell.reset with lock := .holdover, holdAt := 5 } 1005).bell.holdAt + 1000
        = (late { Bell.reset with lock := .holdover, holdAt := 5 } 1005).bell.bounds
    ∧ (late Bell.reset 16).candidate = true ∧ (late Bell.reset 16).bell.goodAt + 16 ≤ (late Bell.reset 16).bell.bounds
    ∧ (late { Bell.reset with election := true } 16).isFabric = false
    ∧ (late { Bell.reset with election := true } 16).bell.electAt + 16 ≤ 16 := by decide +kernel

def stamped : State := linked { link .active with tsIn := some (leBytes 8 0x300 ++ [0, 2] ++ leBytes 2 0xFFFF, 0x400) }

theorem witness_BellReferences :
    (stamped.link (Port.link 0)).tsIn = some (leBytes 8 0x300 ++ [0, 2] ++ leBytes 2 0xFFFF, 0x400)
    ∧ (BellTime.ofStamp (BitVec.ofNat 64 (field (leBytes 8 0x300 ++ [0, 2] ++ leBytes 2 0xFFFF) 0 8))).period.toNat
        ≤ field (leBytes 8 0x300 ++ [0, 2] ++ leBytes 2 0xFFFF) 10 2
    ∧ (late { Bell.reset with refPresent := true } 0).bell.refPresent = true ∧ master.bell.master = true := by
  decide +kernel

def announced (period : BitVec 16) (committed : Bool) : State :=
  master.withTt { Timetable.reset with ann := some ⟨7, 65536, 0, period, committed⟩, armed := some (7, 65536) }

/-- A GATE entry of port 0 at slot 5 with mask 0x0F. -/
def gateEntry : BitVec 128 := (0x0F#128 <<< 68) ||| (5#128 <<< 16) ||| (5#128 <<< 8) ||| (3#128 <<< 4) ||| 1#128

def gated : State := (locked 0 5).withTt { Timetable.reset with bank0 := [(0, gateEntry)] }

theorem witness_TimetableCommit :
    (announced 32 false).tt.ann = some ⟨7, 65536, 0, 32, false⟩ ∧ (announced 32 false).topMaster = true
    ∧ (announced 32 false).periodsTo 0 32 ≤ 32 ∧ (announced 0 true).reached 0 0 = true
    ∧ (announced 0 true).takesOver ⟨7, 65536, 0, 0, true⟩ = true
    ∧ (announced 0 true).takesOver ⟨8, 65536, 0, 0, true⟩ = false
    ∧ (gated.firingNow 0 (0 : Port).val 3).getLast? = some (0, gateEntry) ∧ run.firingNow 0 0 3 = [] := by decide +kernel

/-- TT_LOAD of one entry into the last index of port 191's table, and the entry. -/
def ttLoadDesc : Desc := desc [(1, 1, 0x08), (18, 2, 191), (20, 4, 4095), (24, 4, 1)]

theorem witness_TimetableLoads :
    Starts (waits run ttLoadDesc) .a 0 0x08 ttLoadDesc ∧ (waits run ttLoadDesc).tt.armed = none ∧ loadTable ttLoadDesc ≤ 2
    ∧ loadNumber ttLoadDesc < ttTables (loadTable ttLoadDesc)
    ∧ loadFirst ttLoadDesc + loadCount ttLoadDesc ≤ ttEntries (loadTable ttLoadDesc) ∧ dField ttLoadDesc 32 8 % 64 = 0
    ∧ (∀ i < loadCount ttLoadDesc, entryRefusal (ttReserved 0) (ttBad 0) gateEntry = none)
    ∧ entryRefusal (ttReserved 0) (ttBad 0) (gateEntry ||| 4) = some St.rsvdSet
    ∧ entryRefusal (ttReserved 0) (ttBad 0) (2 : BitVec 128) = some St.format := by decide +kernel

def ttArmDesc : Desc := desc [(1, 1, 0x09), (16, 4, 7), (20, 4, 65536)]
def ttCancelDesc : Desc := desc [(1, 1, 0x0A)]

theorem witness_TimetableArmed :
    Starts (waits run ttArmDesc) .a 0 0x09 ttArmDesc ∧ dField ttArmDesc 20 4 ≠ 0 ∧ dField ttArmDesc 20 4 ≤ 65536
    ∧ (waits run ttArmDesc).topMaster = false ∧ (waits master ttArmDesc).topMaster = true
    ∧ Starts (waits (announced 40 true) ttCancelDesc) .a 0 0x0A ttCancelDesc
    ∧ (waits (announced 40 true) ttCancelDesc).tt.ann = some ⟨7, 65536, 0, 40, true⟩
    ∧ (waits (announced 40 false) ttCancelDesc).topMaster = true := by decide +kernel

def bankArmDesc (cancel : Nat) : Desc := desc [(1, 1, 0x14), (16, 1, 3), (17, 1, cancel), (24, 8, 0x1000)]

def armedRoll (period : BitVec 16) : State := (locked 0 0).withTt { Timetable.reset with armRoll := some ⟨0, period⟩ }

theorem witness_LocalBanksSwitch :
    Starts (waits run (bankArmDesc 0)) .a 0 0x14 (bankArmDesc 0) ∧ tableSetOf (dField (bankArmDesc 0) 16 1) = some .roll
    ∧ dField (bankArmDesc 0) 17 1 % 2 = 0 ∧ dField (bankArmDesc 1) 17 1 % 2 = 1
    ∧ Starts (waits (armedRoll 9) (bankArmDesc 1)) .a 0 0x14 (bankArmDesc 1)
    ∧ (armedRoll 9).cancelInTime ⟨0, 9⟩ = true ∧ (armedRoll 0).cancelInTime ⟨0, 0⟩ = false
    ∧ (armedRoll 0).armedPoint .roll = some ⟨0, 0⟩ ∧ (armedRoll 0).reached 0 0 = true := by decide +kernel

/-- MORT_LOAD of the last entry of each table. -/
def mortLoadDesc (table first : Nat) : Desc := desc [(1, 1, 0x10), (16, 1, table), (20, 4, first), (24, 4, 1)]

theorem witness_MortiseLoads :
    (∀ p ∈ [(0, 4095), (1, 262143), (2, 191)], Starts (waits run (mortLoadDesc p.1 p.2)) .a 0 0x10 (mortLoadDesc p.1 p.2)
      ∧ plainLoad (mortLoadDesc p.1 p.2) = true ∧ dField (mortLoadDesc p.1 p.2) 32 8 % 64 = 0)
    ∧ run.tt.armMort = none
    ∧ ((loadEntries (mortLoadDesc 0 4095) (leBytes 8 1) 8 64).all (fun e => (entryRefusal (maskBits 64 63 14 ||| maskBits 64 7 3) (fun _ => false) e) == none)) = true
    ∧ ((loadEntries (mortLoadDesc 1 262143) (leBytes 16 1) 16 128).all (fun e => (entryRefusal (maskBits 128 127 110 ||| maskBits 128 87 83
        ||| maskBits 128 77 64 ||| maskBits 128 2 2) (fun _ => false) e) == none)) = true
    ∧ ((loadEntries (mortLoadDesc 2 191) [] 64 512).all (fun e => (admRefusal e) == none)) = true := by decide +kernel

/-- A LENT drawer of one granule's size at local offset 0x1000000. -/
def lentDrawer : BitVec 128 := (0x100000#128 <<< 91) ||| (1#128 <<< 0) ||| (1#128 <<< 64)

def drawerLoadDesc : Desc := desc [(1, 1, 0x11), (20, 4, 65535), (24, 4, 1)]
def objLoadDesc : Desc := desc [(1, 1, 0x12), (20, 4, 16383), (24, 4, 1)]

theorem witness_DrawerAndObjectLoads :
    Starts (waits run drawerLoadDesc) .a 0 0x11 drawerLoadDesc ∧ run.tt.armDrawer = none ∧ plainLoad drawerLoadDesc = true
    ∧ loadFits drawerLoadDesc 65536 = true
    ∧ ((loadEntries drawerLoadDesc [] 16 128).all (fun e => (entryRefusal (maskBits 128 90 82 ||| maskBits 128 63 48 ||| maskBits 128 20 2) (fun e => drwState e == 3) e) == none)) = true
    ∧ run.drawerChangeBad 65535 (run.loadedDrawer 65535 0) = false ∧ run.drawerOverlaps [] 65535 (run.loadedDrawer 65535 0) = false
    ∧ run.pool.resets = [] ∧ run.dir.purges = []
    ∧ Starts (waits run objLoadDesc) .a 0 0x12 objLoadDesc ∧ run.tt.armObj = none ∧ loadFits objLoadDesc 16384 = true := by
  decide +kernel

def rollLoadDesc (table first : Nat) : Desc := desc [(1, 1, 0x13), (16, 1, table), (20, 4, first), (24, 4, 1)]

theorem witness_RollLoads :
    (∀ p ∈ [(0, 32767), (1, 255), (2, 1023)], Starts (waits run (rollLoadDesc p.1 p.2)) .a 0 0x13 (rollLoadDesc p.1 p.2)
      ∧ plainLoad (rollLoadDesc p.1 p.2) = true)
    ∧ run.tt.armRoll = none ∧ run.cfgRefused 32767 0 [] = false ∧ run.stationNamed 1023 = false
    ∧ ((loadEntries (rollLoadDesc 0 32767) [] 128 1024).all (fun e => (entryRefusal cfgReserved cfgBad e) == none)) = true
    ∧ ((loadEntries (rollLoadDesc 1 255) [] 16 128).all (fun e => (entryRefusal shapeReserved shapeBad e) == none)) = true
    ∧ ((loadEntries (rollLoadDesc 2 1023) [] 64 512).all (fun e => (entryRefusal stationReserved stationBad e) == none)) = true := by decide +kernel


def withCfg (s : State) (v : Word) : State := s.wr (Reg.portCfg 0) v

def fabricRun : State := fabricOf run

theorem witness_PortRegisters :
    Reaches run .a (Reg.portCfg 191) ∧ run.locked = false
    ∧ (∀ l ∈ bothLinks 191, (run.link l).train ≠ .fenced ∨ (run.link l).fencedByMismatch = false)
    ∧ run.isMember 191 = false ∧ (withCfg run 0x211).isMember 1 = true
    ∧ fabricRun.isFabric = true ∧ run.isFabric = false
    ∧ run.traysBut 0 + traySize 0x121 ≤ 32
    ∧ Reaches run .b (Reg.portCtrl 0) ∧ run.proceeded = true
    ∧ ((linked (link .active)).link (Port.link 0)).train = .active
    ∧ (withCfg run agentCfg).groupOk 0 = true ∧ bit ((withCfg run agentCfg).rd (Reg.portCfg 0)) 0 = true
    ∧ (run.wr Reg.secStatus 6).entropyOk = true
    ∧ Reaches run .a (Reg.laneMarginCtrl 191 3) ∧ (191, 3) ∈ (run.withTest { Test.reset with scans := [(191, 3)] }).test.scans := by
  decide +kernel

def agent : PeerCaps := ⟨1, 0, false, true, 1, 0, 0, 0, false, false, false⟩

theorem witness_TrainingSteps :
    ((withCfg (linked (link .detect)) agentCfg).link 0).train = .detect
    ∧ (withCfg (linked (link .detect)) agentCfg).groupOk (LinkId.port 0) = true ∧ hasLanes 0xFFFF (bits agentCfg.toNat 11 10) = true
    ∧ ((linked (link .eqLow)).link 0).train = .eqLow ∧ ((linked (link .laneMap)).link 0).train = .laneMap
    ∧ ((linked (link .version)).link 0).train = .version ∧ commonVersion agent = some false
    ∧ agent.kind.toNat = bits agentCfg.toNat 5 4 ∧ agent.partition = agentCfg.extractLsb' 16 6
    ∧ usableWidth agentCfg 0xF = some 1
    ∧ commonVersion { agent with has10 := false, has09 := true } = some true ∧ commonVersion { agent with has10 := false } = none
    ∧ ((linked (link .eqFull)).link 0).train = .eqFull ∧ ((linked (link .config)).link 0).train = .config
    ∧ (Train.eqLow).limit.isSome = true
    ∧ (run.isFenced (bits (run.rd (Reg.portCfg 0)).toNat 21 16)) = false := by decide +kernel

/-- A flit with the check word of its bytes. -/
def checked (f : Flit) : Flit := { f with check := crc64 (flitBody f) }

/-- A flit of a type with a flit number. -/
def flit (type n : Nat) : Flit :=
  checked ⟨mkHeader type 0 true true 0 0 0 36, List.replicate 240 0, BitVec.ofNat 32 n, 0⟩

theorem checked_opens (k : Link) (f : Flit) (h : k.encrypted = false) : openFlit k (checked f) = some f.payload := by
  simp [openFlit, checked, flitBody, flType, h]

theorem witness_FlitsAndReplay_sound : openFlit (link .active) (flit 1 0) = some (List.replicate 240 0) :=
  checked_opens _ _ rfl

theorem witness_FlitsAndReplay :
    ((linked (link .active)).link 0).train = .active
    ∧ flitMalformed (flit 1 0) = false ∧ sequenced (flType (flit 1 0)) = true ∧ sequenced 3 = true ∧ sequenced 4 = false
    ∧ flRoll (flit 1 0) = 0 ∧ flRoll (flit 1 32768) = 32768 ∧ flRoll (flit 1 32767) = 32767
    ∧ flType (flit 1 0) = 1 ∧ flFirst (flit 1 0) = true ∧ bits agentCfg.toNat 5 4 ≠ 2
    ∧ openFlit { link .active with encrypted := true } (flit 1 0) = none
    ∧ ({ link .active with errBound := 1 } : Link).errBound ≠ run.bell.bounds
    ∧ ({ link .active with reqIn := some 3 } : Link).reqIn = some 3
    ∧ (run.withBell { Bell.reset with ticks := 2048 }).bell.ticks = (link .active).aliveAt + 2048
    ∧ ((linked { link .active with waiting := true, reqs := 4 }).withBell { Bell.reset with ticks := 125 }).bell.ticks = 125
    ∧ ((linked (link .recovery)).link 0).train = .recovery := by decide +kernel

def exchange (t : Train) (m : BitVec 8) (x : Kex) : State :=
  (linked { link t with encrypted := true, kex := { x with inbox := [(m, [])] } }).wr Reg.secStatus 6

theorem witness_LinkKeyExchange :
    (exchange .secure 1 Kex.reset).kexRuns 0 = true ∧ ((exchange .secure 1 Kex.reset).link 0).kex.inbox = [(1, [])]
    ∧ ((exchange .secure 1 Kex.reset).link 0).kex.helloPeer = []
    ∧ ((exchange .secure 2 { Kex.reset with peerOk := true, initiator := false }).link 0).kex.peerOk = true
    ∧ ((exchange .secure 3 { Kex.reset with peerOk := true, initiator := true }).link 0).kex.finSent = false
    ∧ ((exchange .secure 4 { Kex.reset with k := some [] }).link 0).kex.k = some []
    ∧ ((exchange .secure 4 { Kex.reset with k := some [] }).link 0).kex.finGot = false
    ∧ ((exchange .secure 5 Kex.reset).link 0).train = .secure
    ∧ ((exchange .secure 1 { Kex.reset with sent := [(1, [])] }).withBell { Bell.reset with ticks := 125000 }).kexRuns 0 = true
    ∧ ((exchange .active 0x11 Kex.reset).link 0).kex.inbox = [(0x11, [])] ∧ (exchange .active 0x11 Kex.reset).entropyOk = true
    ∧ ((exchange .active 0x11 Kex.reset).link 0).nextKey = none
    ∧ ((exchange .active 0x12 { Kex.reset with rekeyOwn := true }).link 0).kex.rekeyOwn = true
    ∧ ((linked { link .active with ctlIn := some 9, nextKey := some (linkKeyOf [] true) }).link 0).ctlIn = some 9 := by
  decide +kernel

/-- The next content of a SEND window of port 0, slots 0 to 9, class 1. -/
def sendEntry : BitVec 128 := (1#128 <<< 64) ||| (9#128 <<< 16) ||| (1#128 <<< 4) ||| 1#128

/-- The request that a test sends: LINE_READ, LINE_WRITE or another of job 1 at job address 0. -/
def request (op : BitVec 8) (aux : BitVec 16) (payload : Bytes) : Frame :=
  Frame.sealed (HdrFields.pack { addr := 0, seq := 1, aux := aux, len := payload.length, dest := 0, srcSwitch := 0, srcUnit := 640,
                                 tag := 3, job := 1, opcode := op }) payload

/-- It waits in a queue. -/
def entry (i : InputId) (d : Dest) (f : Frame) : QEntry :=
  { id := 0, input := i, half1 := false, dest := d, toHalf1 := none, cls := 1, hdr := f.hdr, bytes := f.toBytes,
    flits := frameFlits f.payload.length, whole := true, short := false, saf := false, eligible := true, sent := 0, lastAt := 0,
    tick := 0, bound := 0, len := 65536, crossed := false, past := false }

def queue (s : State) (e : QEntry) : State := s.withSw { s.sw with queue := [e], nextId := 1 }

def sending : State :=
  queue (((locked 0 0).withTt { Timetable.reset with bank0 := [(0, sendEntry)] }).withLinks
    [(0, { link .active with credits := Vector.replicate 8 1 })]) (entry 192 (.port 0) (request 1 0 []))

theorem witness_EgressFlits :
    ((linked (link .config)).link 0).train = .config
    ∧ ((linked { link .active with replayPos := some 0, replay := [⟨0, [], 0, 0⟩] }).link 0).replay[0 - 0]? = some ⟨0, [], 0, 0⟩
    ∧ (run.gateway 0).combine = [] ∧ (link .active).ctlOut = [] ∧ (link .active).txNext < (link .active).keyBase + 2 ^ 32
    ∧ (link .active).replayPos = none ∧ (link .active).replay.length < (link .active).replaySize
    ∧ sending.openWindow 0 = some sendEntry ∧ bit (sending.gate 0) 1 = true ∧ sending.inRecess 0 0 = false
    ∧ (sending.link 0).emptyWindows = false
    ∧ sending.scheduledPick 0 sendEntry 1 0 = some (entry 192 (.port 0) (request 1 0 [])) := by decide +kernel


/-- Job 1 is enabled and admitted at port 0, and maps the one granule of drawer 0 with every right; the drawer lies at the
start of the direct stacked memory. -/
def pooled : State :=
  (run.withMort { Mortise.reset with job0 := [(1, 5)], jat0 := [(64, (31#128 <<< 78) ||| (1#128 <<< 3) ||| 1#128)],
                                     drw0 := [(0, (1#128 <<< 94) ||| (1#128 <<< 92) ||| (1#128 <<< 64) ||| 0x1000000000#128)],
                                     adm0 := [(0, 0x8001)] }).withPool { Pool.reset with direct := 572 * gib, initDone := true }

def arrives (f : Frame) (n : Nat) : Arriving :=
  ⟨0, f.toBytes.take 240, n, true, none, false, 0, 0⟩

/-- The frame has arrived on link 0, whose port is an A-role port. -/
def inbound (f : Frame) : State := pooled.withLinks [(0, { link .active with arriving := [arrives f 1] })]

/-- A frame of job 1 waits at the local output of cluster 0. -/
def homed (f : Frame) : State := queue pooled (entry 0 .home f)

def otherJob : Frame := Frame.sealed (request 1 0 []).hdr []

/-- The test of the mortise step on a request of this state. -/
def admits (s : State) (f : Frame) : Admitted :=
  s.admitFrame ((portOf 0).map s.portPartition) f (requestExtent f).1 (requestExtent f).2 (opRights f)

/-- Headers of the frames that tests send; `plain` is that of a LINE_READ by port 0's agent. -/
def plain : HdrFields := { addr := 0, seq := 1, dest := 0, srcSwitch := 0, srcUnit := 640, tag := 3, job := 1, opcode := 1 }

def frame (h : HdrFields) (payload : Bytes) : Frame := Frame.sealed (HdrFields.pack { h with len := payload.length }) payload

/-- A line write. -/
def lineWrite : Frame := frame { plain with opcode := 2 } (List.replicate 128 7)

/-- Port 1 is an active G-role port, and switch 5 is reached through it. -/
def routed (s : State) : State :=
  (s.withLinks [(0, { link .active with arriving := [arrives (frame { plain with dest := 5 } []) 1] }),
                (2, { link .active with cfg := 0x0131 })]).wr (Reg.swRoute 5) 0x1000101

theorem witness_FramesEnterAndAreChecked :
    ((inbound (frame plain [])).link 0).arriving.find? (fun x => x.cls == 0 && x.entry.isNone && !x.dropped) = some (arrives (frame plain []) 1)
    ∧ (⟨BitVec.ofNat 256 (leNat (byteRun (arrives (frame plain []) 1).bytes 0 32)), [], 0⟩ : Frame).isCpl = false
    ∧ bits ((inbound (frame plain [])).link 0).cfg.toNat 5 4 = 1 ∧ ((inbound (frame plain [])).link 0).v09 = false
    ∧ (inbound (frame { plain with job := 2 } [])).admitSlot (LinkId.port 0) 2 = none
    ∧ pooled.admitSlot 0 1 = some 0 ∧ pooled.polRate (pooled.polSel 0 0 0) = 0 ∧ pooled.openFrom 0 (frame plain []) < 512
    ∧ (frame plain []).dest = pooled.swNum ∧ (routed pooled).route 5 (portIn 0) 0 = some 1
    ∧ (queue pooled { entry 0 .home lineWrite with saf := true, eligible := false }).sw.queue.find? (fun e => e.input == portIn 0
        && e.half1 == false && e.cls == 1 && e.saf && e.whole && !e.eligible) = some { entry 0 .home lineWrite with saf := true, eligible := false }
    ∧ (entry 0 .home lineWrite).flits = frameFlits (⟨lineWrite.hdr, [], 0⟩ : Frame).len
    ∧ (entry 0 .home lineWrite).bytes.length = 36 + (⟨lineWrite.hdr, [], 0⟩ : Frame).len
    ∧ (homed lineWrite).homeNext 0 = some (entry 0 .home lineWrite) ∧ Answerable (homed lineWrite) lineWrite 1
    ∧ (homed { lineWrite with check := 0 }).homeNext 0 = some (entry 0 .home { lineWrite with check := 0 })
    ∧ (Frame.ofBytes { lineWrite with check := 0 }.toBytes).checkOk = false ∧ lineWrite.isCpl = false
    ∧ SoundRequest (entry 0 .home (frame { plain with addr := 0x200000 } [])) (frame { plain with addr := 0x200000 } [])
    ∧ admits (homed (frame { plain with addr := 0x200000 } [])) (frame { plain with addr := 0x200000 } []) = .mortise St.denied
    ∧ SoundRequest (entry 0 .home lineWrite) lineWrite ∧ admits (homed lineWrite) lineWrite = .ok 0 0x1000000000 false
    ∧ (homed lineWrite).region 0x1000000000 ≠ some .tiered ∧ (homed lineWrite).mort.served = [] ∧ (homed lineWrite).sw.passed = []
    ∧ SoundRequest (entry 0 .home (frame plain [])) (frame plain []) ∧ admits (homed (frame plain [])) (frame plain []) = .ok 0 0x1000000000 false
    ∧ (homed (frame plain [])).badIn 0 128 = [] ∧ (homed (frame plain [])).pool.written.get false 0x200000 = false
    ∧ ((homed (frame plain [])).withPool { pooled.pool with written := [(0x200000, true)] }).pool.written.get false 0x200000 = true := by
  decide +kernel

/-- A message for port 1. -/
def message : Frame := frame { plain with opcode := 0x30, addr := 1 } (List.replicate 16 1)

/-- Ports 0 and 1 are active A-role ports that admit job 1, port 2 an active G-role port, switch 5 behind it. -/
def peers (a b : Train) : State :=
  ((pooled.withMort { pooled.mort with adm0 := [(0, 0x8001), (16, 0x8001)] }).withLinks
    [(0, link a), (2, link b), (4, { link .active with cfg := 0x0131 })]).wr (Reg.swRoute 5) 0x1000202

def passing (f : Frame) : State := (peers .active .active).withSw { Switch.reset with passed := [⟨f, 1, 0, some 0, 0, none, 0⟩] }

def flushTag : Tag := { unit := 0, tag := 3, addr := 0, seq := 1, job := 1, ak := false, opcode := 5, dest := 5, born := 0, purpose := .gwFlush 2 1 5 0 }

def reply : Frame := frame { plain with opcode := 0x80 } []

/-- The tag is open and a completion of its TAG and SEQ waits at the local output. -/
def replied : State := queue ((peers .active .active).withMort { pooled.mort with tags := [flushTag] }) (entry 2 .home reply)

def recalling (drained : Bool) : State :=
  pooled.withMort { pooled.mort with recalls := [⟨0, 0, drained⟩], drw0 := [(0, (2#128 <<< 92) ||| (1#128 <<< 64) ||| 0x1000000000#128)] }

theorem witness_MessagesTagsAndRecalls :
    (passing message).sw.passed.find? (fun p => p.frame.opcode == 0x30) = some ⟨message, 1, 0, some 0, 0, none, 0⟩
    ∧ portOf (message.addr.toNat % 256) = some 1 ∧ (passing message).role 1 = 1 ∧ (passing message).portActive 1 = true
    ∧ ((passing message).admitSlot 1 message.job).isSome = true
    ∧ portOf ((frame { plain with opcode := 0x30, addr := 2 } []).addr.toNat % 256) = some 2 ∧ (passing message).role 2 ≠ 1
    ∧ Answerable (passing message) message 1
    ∧ ((passing message).withMort { pooled.mort with msgs := [⟨1, message, 1, 0⟩] }).msgState 1 ⟨1, message, 1, 0⟩ = some St.ok
    ∧ ((peers .active .detect).withMort { pooled.mort with msgs := [⟨1, message, 1, 0⟩] }).msgState 1 ⟨1, message, 1, 0⟩ = some St.timeout
    ∧ ((passing message).withMort { pooled.mort with msgs := [⟨1, message, 1, 0⟩] }).mort.msgs.find?
        (fun m => (((passing message).withMort { pooled.mort with msgs := [⟨1, message, 1, 0⟩] }).msgState 1 m).isSome) = some ⟨1, message, 1, 0⟩
    ∧ replied.homeNext 0 = some (entry 2 .home reply) ∧ (Frame.ofBytes (entry 2 .home reply).bytes).isCpl = true
    ∧ (replied.withMort { pooled.mort with agents := [⟨0, 0, 640, 3, 1, 5, false⟩] }).agentOf reply = some ⟨0, 0, 640, 3, 1, 5, false⟩
    ∧ (replied.withMort pooled.mort).agentOf reply = none
    ∧ replied.mort.tags.find? (fun t => t.tag == reply.tag && t.seq == reply.seq) = some flushTag
    ∧ (entry 2 .home reply).short = false ∧ cplChecks flushTag reply = true ∧ replied.mort.tagQueue = []
    ∧ replied.mort.tags.find? (fun t => t.unit == 0 && t.tag.toNat == 3) = some flushTag
    ∧ flushTag.born + replied.reqTimeout ≤ (replied.withBell { Bell.reset with bounds := replied.reqTimeout }).bell.bounds
    ∧ ((recalling false).withBell { Bell.reset with bounds := 4 }).mort.recalls.find?
        (fun r => r.drawer == 0 && !r.drained && decide (r.at_ + 4 ≤ 4)) = some ⟨0, 0, false⟩
    ∧ ((recalling true).withBell { Bell.reset with bounds := 5 }).mort.recalls.find?
        (fun r => r.drawer == 0 && r.drained && decide (r.at_ + 5 ≤ 5)) = some ⟨0, 0, true⟩
    ∧ (recalling true).mort.served = [] ∧ drwSize ((recalling true).drawer 0) = 2097152
    ∧ (pooled.withPool { pooled.pool with resets := [(0, 0, 1)] }).pool.resets.find? (fun r => r.1 == (0 : DrawerId).val) = some (0, 0, 1) := by
  decide +kernel

/-- A buffer of port 2 with line 0 of plank 0 of switch 5. -/
def buffer : Combine := ⟨5, 0, false, 1, 1, [(0, 0xFF)], [(0, 7)], 0⟩

/-- Port 2 combines class 1 writes and reads ahead, and holds what is given; a frame waits toward it. -/
def gateway (g : Gateway) (f : Frame) : State :=
  (queue ((peers .active .active).withMort { pooled.mort with gw := [(2, g)] }) (entry 0 (.port 2) f)).wr (Reg.gwCfg 2) 0x02020100

def toSwitch5 (op : BitVec 8) (payload : Bytes) : Frame := frame { plain with opcode := op, dest := 5 } payload

theorem witness_GatewayPorts :
    (gateway Gateway.reset (toSwitch5 2 (List.replicate 128 7))).gatewayHead 2
        (fun f c => (gateway Gateway.reset (toSwitch5 2 (List.replicate 128 7))).combines 2 f c)
      = some (entry 0 (.port 2) (toSwitch5 2 (List.replicate 128 7)), toSwitch5 2 (List.replicate 128 7))
    ∧ ((gateway Gateway.reset (toSwitch5 2 (List.replicate 128 7))).gatewayCheck 2 (entry 0 (.port 2) (toSwitch5 2 (List.replicate 128 7)))
        (toSwitch5 2 (List.replicate 128 7))).isNone = true
    ∧ ((gateway Gateway.reset (toSwitch5 2 [])).gateway 2).combine.length < 8 ∧ Answerable (gateway Gateway.reset (toSwitch5 2 [])) (toSwitch5 2 []) 1
    ∧ ((gateway { Gateway.reset with combine := [buffer] } (toSwitch5 1 [])).gateway 2).combine[0]? = some buffer
    ∧ buffer.at_ + (gateway Gateway.reset (toSwitch5 1 [])).flushPeriods 2 ≤ (late Bell.reset 1).bell.bounds
    ∧ (⟨.gwFlush 2 1 5 0, St.ok, 0, []⟩ : TagDone).status = St.ok ∧ (⟨.gwFlush 2 1 5 0, St.timeout, 0, []⟩ : TagDone).status ≠ St.ok
    ∧ ([⟨.gwFlush 2 1 5 0, St.ok, 0, []⟩] : List TagDone).find? (fun d => match d.purpose with
      | .gwFlush q _ _ _ => q == 2
      | _ => false) = some ⟨.gwFlush 2 1 5 0, St.ok, 0, []⟩
    ∧ (gateway { Gateway.reset with combine := [buffer] } (toSwitch5 0x50 (List.replicate 32 0))).gatewayHead 2 (fun f _ => f.opcode == 0x50)
        = some (entry 0 (.port 2) (toSwitch5 0x50 (List.replicate 32 0)), toSwitch5 0x50 (List.replicate 32 0))
    ∧ ({ Gateway.reset with held := [(toSwitch5 0x50 [], 1)] } : Gateway).held.find?
        (fun h => !(Gateway.reset).flushing.any (fun q => q.1 == h.1.job.toNat && q.2.1 == h.1.dest.toNat)) = some (toSwitch5 0x50 [], 1)
    ∧ (gateway Gateway.reset (toSwitch5 1 [])).gatewayHead 2 (fun f c => (gateway Gateway.reset (toSwitch5 1 [])).readsAhead 2 f c)
        = some (entry 0 (.port 2) (toSwitch5 1 []), toSwitch5 1 [])
    ∧ (Gateway.reset).holds (toSwitch5 1 []) = false
    ∧ ([⟨5, 0, false, 1, 1, false, [], 0, [toSwitch5 1 []]⟩] : List ReadAhead).find?
        (fun a => !a.filled && (Purpose.gwFetch 2 1 5 0) == .gwFetch 2 a.job.toNat a.dest.toNat a.plank.toNat)
        = some ⟨5, 0, false, 1, 1, false, [], 0, [toSwitch5 1 []]⟩
    ∧ (∀ f ∈ [toSwitch5 1 []], Answerable (gateway Gateway.reset (toSwitch5 1 [])) f 1)
    ∧ delivers St.ok = true ∧ delivers St.timeout = false := by decide +kernel

/-- Ports 0 and 1 are G-role ports, the best-effort port and the alternate of switch 5; a frame of a class toward port 0. -/
def failing (a : Train) (c : Cls) : State :=
  queue ((run.withLinks [(0, { link a with cfg := 0x0131 }), (2, { link .active with cfg := 0x0131 })]).wr (Reg.swRoute 5) 0x1010000)
    { entry 192 (.port 0) (toSwitch5 1 []) with cls := c }

theorem witness_SwitchCoreEvents :
    (failing .detect 4).portUp 0 = false ∧ (failing .detect 4).hasAlternate 0 = true ∧ (failing .detect 4).sw.failed = []
    ∧ (failing .detect 4).sw.queue.filter ((failing .detect 4).stuck 0) = [{ entry 192 (.port 0) (toSwitch5 1 []) with cls := 4 }]
    ∧ (failing .detect 4).alternate 0 (toSwitch5 1 []).dest = some 1 ∧ (entry 192 (.port 0) (toSwitch5 1 [])).sent = 0
    ∧ (failing .detect 3).sw.queue.filter ((failing .detect 3).stuck 0) = [{ entry 192 (.port 0) (toSwitch5 1 []) with cls := 3 }]
    ∧ (failing .detect 3).mort.msgs = [] ∧ Answerable (failing .detect 3) (toSwitch5 1 []) 3
    ∧ ((failing .active 4).withSw { Switch.reset with failed := [0] }).portActive 0 = true
    ∧ ((failing .active 4).withSw { Switch.reset with failed := [0] }).sw.queue = []
    ∧ (entry 192 (.port 0) reply).bound + max 1 (bits ((failing .active 4).rd Reg.swBeAge).toNat 15 0)
        ≤ (late Bell.reset (max 1 (bits ((failing .active 4).rd Reg.swBeAge).toNat 15 0))).bell.bounds
    ∧ (entry 192 (.port 0) reply).bound + (entry 192 (.port 0) reply).len ≤ (late Bell.reset 65536).bell.bounds
    ∧ (failing .active 3).sw.queue.find? (fun e => e.input == 192 && e.dest == .port 0 && e.cls == 3 && e.sent == 0
        && ((4 ≤ (3 : Cls).val) || !e.crossed) && e.bound + e.len ≤ 65536) = some { entry 192 (.port 0) (toSwitch5 1 []) with cls := 3 }
    ∧ ([{ entry 192 (.port 0) reply with crossed := true }] : List QEntry).find? (fun e => e.input == 192 && e.dest == .port 0 && e.cls == 1
        && e.crossed && e.sent == 0) = some { entry 192 (.port 0) reply with crossed := true }
    ∧ (late Bell.reset 65536).tt.soAt + (late Bell.reset 65536).bell.len ≤ 65536 ∧ reply.isCpl = true := by decide +kernel

theorem witness_SwitchWrites :
    Reaches run .a (Reg.shapeBurst 255) ∧ Reaches run .a (Reg.swShapeSel 191 7) ∧ Reaches run .b (Reg.swPolSel 191 15)
    ∧ bits (run.rd (Reg.swPolSel 191 15)).toNat (4 * 7 + 3) (4 * 7) ≠ bits (0xF0000000#32).toNat (4 * 7 + 3) (4 * 7)
    ∧ Reaches run .a (Reg.polRate 15) ∧ Reaches run .a (Reg.polBurst 15) ∧ run.regs.wf regReset = true
    ∧ (191, 15, 7) ∈ (run.wr (Reg.swPolSel 191 15) 0xF0000000).policersOf 15
    ∧ Reaches run .a (Reg.mirCfg 7) ∧ Reaches run .a (Reg.mirN 7) ∧ Reaches run .a (Reg.swRoute 4095) ∧ run.locked = false
    ∧ (run.wr Reg.secLock 1).locked = true ∧ 2 ≤ bits (0x02000000#32).toNat 25 24 ∧ Reaches run .b Reg.swCtrl := by
  decide +kernel

/-- The first TIERED plank; flash, two frames, and the map entry and the works given. -/
def plank0 : Nat := 2 ^ 25

def tiered (e : MapEntry) (ws : List Work) : State :=
  pooled.withPool { pooled.pool with
    frameCount := 2, flashBytes := 2 ^ 30, map := [(0, e)], works := ws, sweeping := true,
    frames := [(0, ⟨plank0, true, false, 0⟩)], obj0 := [(0, (2#192 <<< 104) ||| (1#192 <<< 152) ||| (1#192 <<< 85) ||| (1#192 <<< 40))] }

def flashEntry : MapEntry := ⟨3, .flash, false, 1, 8, false, 64⟩

def promotion : Work :=
  { id := 7, plank := plank0, goal := .promote, stage := .commit, rank := 2, old := flashEntry, cluster := none, data := [1, 2], ven := false,
    req := none, slot := none, obj := 0, place := none, tries := 0, sent := true }

/-- A read of the plank that waits for its promotion. -/
def waiting : Served :=
  { id := 3, frame := frame plain [], cls := 1, drawer := 0, offset := 2 ^ 40, cluster := 0, wait := .promotion, since := 0, shared := false,
    line := 0, acc := [], status := 0 }

def withServed (s : State) (r : Served) : State := s.withMort { s.mort with served := [r] }

def migrateDesc (obj count : Nat) : Desc := desc [(1, 1, 0x18), (16, 2, obj), (20, 4, 0), (24, 4, count)]
def discardDesc : Desc := desc [(1, 1, 0x19), (16, 2, 1), (20, 4, 1), (24, 8, 0)]

theorem witness_PoolSession :
    Reaches run .a Reg.poolCtrl ∧ (inBoot .timetable).boot.state = .timetable ∧ Reaches (inBoot .timetable) .a Reg.poolCtrl
    ∧ run.boot.state ≠ .timetable ∧ (inBoot .poolInit).boot.state = .poolInit ∧ (inBoot .poolInit).pool.trays = []
    ∧ Reaches run .b (Reg.stkCtrl 7) ∧ Reaches run .a Reg.trayCtrl := by decide +kernel

theorem witness_PlanksMove :
    (tiered promotion.expects [promotion]).nextWork 0 .commit = some promotion ∧ (tiered flashEntry []).mort.served = []
    ∧ (tiered promotion.expects [promotion]).mapEntry plank0 = promotion.expects ∧ (tiered flashEntry [promotion]).freeFrame = some 1
    ∧ (tiered MapEntry.reset [promotion]).mapEntry plank0 ≠ promotion.expects
    ∧ waiting.since + max 1 (bits (pooled.rd Reg.poolPromoteLimit).toNat 15 0) ≤ (late Bell.reset 65535).bell.bounds
    ∧ ((withServed pooled waiting).withBell { Bell.reset with bounds := 65535 }).mort.served.find? (fun r => r.wait == .promotion
        && decide (r.since + max 1 (bits (pooled.rd Reg.poolPromoteLimit).toNat 15 0) ≤ 65535)) = some waiting
    ∧ (tiered flashEntry []).pool.sweeping = true ∧ (((tiered flashEntry []).wr Reg.poolFrameHigh 1).wr Reg.poolFrameLow 1).frameHigh ≤ (((tiered flashEntry []).wr Reg.poolFrameHigh 1).wr Reg.poolFrameLow 1).framesFree
    ∧ ((tiered flashEntry []).wr Reg.poolFrameHigh 2).framesFree < ((tiered flashEntry []).wr Reg.poolFrameHigh 2).frameHigh
    ∧ (tiered flashEntry []).pool.frames.find? (fun p => p.2.valid && decide (0 ≤ p.1)) = some (0, ⟨plank0, true, false, 0⟩)
    ∧ (tiered { flashEntry with state := .stacked } []).wanted plank0 = false ∧ (tiered { flashEntry with state := .stacked } []).work plank0 = none
    ∧ objTier ((tiered { flashEntry with state := .stacked } []).objectAt (plank0 * plankBytes)) = 2
    ∧ veneerPolicy ((tiered { flashEntry with state := .stacked } []).objectAt (plank0 * plankBytes)) ≠ 2
    ∧ ((tiered { flashEntry with state := .stacked } []).mapEntry plank0).state = .stacked
    ∧ ((tiered { flashEntry with state := .stacked } []).mapEntry plank0).version ≠ 0xFFFF
    ∧ (((tiered flashEntry []).wr Reg.poolFrameLow 2).framesFree < (((tiered flashEntry []).wr Reg.poolFrameLow 2).rd Reg.poolFrameLow).toNat)
    ∧ (tiered flashEntry []).pool.frames.get FrameRec.reset 0 = ⟨plank0, true, false, 0⟩
    ∧ objAge ((tiered flashEntry []).objectAt (plank0 * plankBytes)) = 1 ∧ 0 / 1024 + 1 ≤ (late Bell.reset 1024).bell.bounds / 1024
    ∧ Starts (waits (tiered flashEntry []) (migrateDesc 0 64)) .a 0 0x18 (migrateDesc 0 64) ∧ dField (migrateDesc 16384 0) 16 2 = 16384
    ∧ objSize ((tiered flashEntry []).objTable.get 0 0) ≠ 0 ∧ objSize ((tiered flashEntry []).objTable.get 0 1) = 0
    ∧ dField (migrateDesc 0 64) 20 4 + dField (migrateDesc 0 64) 24 4 ≤ objSize ((tiered flashEntry []).objTable.get 0 0) / plankBytes
    ∧ (tiered flashEntry []).pool.inert.get false 0 = false
    ∧ Starts (waits pooled discardDesc) .a 0 0x19 discardDesc ∧ dField discardDesc 24 8 % plankBytes = 0 ∧ dField discardDesc 20 4 = 1 := by
  decide +kernel

def activity (cls : Fin 10) (kind : Fin 16) : Activity := ⟨cls, kind, 0, 0, none, 0, false, 0, none, 0⟩

def busy (cls : Fin 10) (kind : Fin 16) : State := pooled.withFault { pooled.fault with running := [activity cls kind] }

theorem witness_StackControllers :
    stackLines - 1 < stackLines ∧ pooled.lineBad (stackAddr 7 ((stackLines - 1) * 128)) = 0
    ∧ 85 ≤ ((pooled.wr (Reg.stkTemp 7) 85).rd (Reg.stkTemp 7)).toNat ∧ bit (pooled.rd (Reg.stkStatus 7)) 2 = false
    ∧ (busy 1 2).runningActivity 1 2 0 = some (activity 1 2) ∧ (activity 1 2).result = none
    ∧ pooled.runningActivity 1 2 7 = none ∧ pooled.hasActivity 1 2 7 = false ∧ pooled.pool.initDone = true ∧ pooled.scrubInterval 7 ≠ 0
    ∧ pooled.pool.scrubAt.get 0 7 = 0 ∧ pooled.pool.scrubLate.get 0 0 ≠ (activity 1 2).at_ + 1
    ∧ (activity 1 2).at_ + 2 * pooled.scrubInterval 0 ≤ (late Bell.reset (2 * pooled.scrubInterval 0)).bell.bounds
    ∧ Reaches pooled .a (Reg.stkCtrl 7) := by decide +kernel

/-- Port 0 is a T-role port whose peer is a tray bridge; tray 0 as given. -/
def withTray (x : Tray) : State :=
  (pooled.withLinks [(0, { link .active with cfg := 0x0121, peer := some { agent with kind := 2 } })]).withPool { pooled.pool with trays := [(0, x)] }

def trayOf (st : TraySt) : Tray := { Tray.reset with state := st, blocks := [(0, ⟨5, 0, .closed, 0⟩)] }

/-- A descriptor that satisfies the ranges of the tray check at their lower bounds. -/
def trayDescriptor : Bytes :=
  leBytes 256 (1 * 256 + 4096 * 256 ^ 2 + 32 * 256 ^ 4 + 8 * 256 ^ 6 + 1 * 256 ^ 7 + 1024 * 256 ^ 8 + 400 * 256 ^ 12 + 1 * 256 ^ 16
    + 64 * 256 ^ 20 + 16 * 256 ^ 21 + 32 * 256 ^ 22 + 16 * 256 ^ 23)

theorem witness_TraysComeAndGo :
    (withTray Tray.reset).role 0 = 2 ∧ ((withTray Tray.reset).linksOf 0).any (fun l => ((withTray Tray.reset).link l).train == .active
      && ((withTray Tray.reset).link l).peer.any (fun c => c.kind == 2)) = true ∧ (withTray Tray.reset).trayAt 0 = none
    ∧ (withTray Tray.reset).freeTray = some 0 ∧ ((withTray (trayOf .identifying)).tray 0).state = .identifying
    ∧ descriptorOk trayDescriptor = true ∧ descriptorOk [] = false
    ∧ ((withTray (trayOf .identifying)).tray 0).since + 1250000 ≤ (run.withBell { Bell.reset with ticks := 1250000 }).bell.ticks
    ∧ (portOf ((pooled.withPool { pooled.pool with trays := [(0, trayOf .live)] }).tray 0).port).any
        (pooled.withPool { pooled.pool with trays := [(0, trayOf .live)] }).portUp = false
    ∧ (trayOf .live).inUse = true ∧ (trayOf .ready).inUse = false ∧ (trayOf .ready).state ≠ .absent ∧ (trayOf .ready).state ≠ .lost := by
  decide +kernel

def cmd (opcode : Nat) (why : CmdFor) : TrayCmd := ⟨0, 5, opcode, 64, 1, why, [], 0, false, false⟩

/-- A completion of CMD_ID 5 of queue 0. -/
def completion (data : Bytes) : TrayMsg :=
  ⟨trayHeader 0 data.length 0 0 0x80 0 0 5, data, trayCheck (trayHeader 0 data.length 0 0 0x80 0 0 5) data⟩

def demotion : Work := { promotion with goal := .demote, stage := .media, place := some (0, 64) }

theorem witness_TrayCommandsAndCare :
    (trayOf .live).completes (completion []) = none
    ∧ { trayOf .live with cmds := [cmd 0x02 (.log 3)] }.completes (completion (List.replicate 64 1)) = some (cmd 0x02 (.log 3))
    ∧ { trayOf .live with cmds := [cmd 0x11 (.work 7)] }.completes (completion []) = some (cmd 0x11 (.work 7))
    ∧ trayStatusOf (completion []).head = 0 ∧ [demotion].find? (fun w => w.id == 7) = some demotion
    ∧ (tiered demotion.expects [demotion]).mapEntry demotion.plank = demotion.expects ∧ (tiered demotion.expects [demotion]).mort.served = []
    ∧ [cmd 0x10 (.work 7)].find? (fun c => c.queue == bits (5#16).toNat 10 9 && c.id == bits (5#16).toNat 8 0 && !c.timedOut && c.why != .event
        && decide (c.at_ + max 1 (bits (pooled.rd Reg.trayCmdTimeout).toNat 15 0) ≤ 65535)) = some (cmd 0x10 (.work 7))
    ∧ { trayOf .live with cmds := [cmd 0x10 (.work 7)] }.room 0 = true
    ∧ pooled.runningActivity 2 3 0 = none ∧ (trayOf .live).inUse = true ∧ { trayOf .live with total := 1 }.freeReaches pooled.gcLevels.1 = false
    ∧ { trayOf .live with total := 1, initialBad := 0, blocks := [] }.freeReaches pooled.gcLevels.2 = true
    ∧ pooled.hasActivity 2 3 0 = false ∧ (busy 2 3).runningActivity 2 3 0 = some (activity 2 3) ∧ (trayOf .live).victim = none
    ∧ max 1 (bits (pooled.rd Reg.trayWearCfg).toNat 15 0) < { trayOf .live with total := 2, blocks := [(0, ⟨100000, 0, .closed, 0⟩)] }.eraseMax
        - { trayOf .live with total := 2, blocks := [(0, ⟨100000, 0, .closed, 0⟩)] }.eraseMin
    ∧ 1000 ≤ { trayOf .live with erasesSince := 1000 }.erasesSince ∧ pooled.runningActivity 3 3 0 = none ∧ pooled.hasActivity 3 3 0 = false
    ∧ (withTray (trayOf .lost)).pool.trays = [(0, trayOf .lost)] ∧ (trayOf .lost).cardAt + 65536 ≤ (late Bell.reset 65536).bell.bounds := by
  decide +kernel

/-- A request that passed the mortise check at the first byte of drawer 0. -/
def pass (f : Frame) : Passed := ⟨f, 1, 0, some 0, 4, some 0, 0x1000000000⟩

def atDrawer (f : Frame) : State := pooled.withSw { Switch.reset with passed := [pass f] }

/-- An ORDER frame of a subtype with a mode and a value. -/
def order (sub mode value : Nat) : Frame := frame { plain with opcode := 0x50 } (leBytes 32 (sub + mode * 256 + value * 256 ^ 8))

/-- The request's guarded set. -/
def guarded (sub : Nat) (g : Guard) : State := (atDrawer (order sub 0 1)).withPool { pooled.pool with guards := [g], written := [(0x200000, true)] }

def guardWait : Served := { waiting with id := 4, frame := order 3 0 1, offset := 0x1000000000, wait := .guard }

def guardHeld (g : Guard) : State := withServed (pooled.withPool { pooled.pool with guards := [g] }) guardWait

theorem witness_OrderFrames :
    (atDrawer (order 4 0 0)).sw.passed.find? (fun p => isOrder p.frame 4) = some (pass (order 4 0 0))
    ∧ Answerable (atDrawer (order 4 0 0)) (order 4 0 0) 1
    ∧ (guarded 1 ⟨4, false, [1], []⟩).sw.passed.find? (fun p => isOrder p.frame 1) = some (pass (order 1 0 1))
    ∧ (guarded 1 ⟨4, false, [1], []⟩).guardOf (pass (order 1 0 1)).id = some ⟨4, false, [1], []⟩
    ∧ (guarded 1 ⟨4, false, [], []⟩).guardOf 4 = some ⟨4, false, [], []⟩ ∧ (⟨4, false, [], []⟩ : Guard).first = St.ok
    ∧ (guarded 2 ⟨0, false, [], []⟩).sw.passed = [pass (order 2 0 1)] ∧ isOrder (order 2 0 1) 2 = true ∧ (pass (order 2 0 1)).drawer = some 0
    ∧ (guarded 2 ⟨0, false, [], []⟩).mort.served = [] ∧ drwShared ((guarded 2 ⟨0, false, [], []⟩).drawer 0) = false
    ∧ (guarded 2 ⟨0, false, [], []⟩).region 0x1000000000 ≠ some .tiered ∧ (guarded 2 ⟨0, false, [], []⟩).lineBad 0 = 0
    ∧ (guarded 2 ⟨0, false, [], []⟩).pool.written.get false (0x1000000000 / plankBytes) = true
    ∧ physical (0x1000000000 / plankBytes * plankBytes) = 0 ∧ field (order 2 0 1).payload 1 1 = 0 ∧ field (order 2 1 1).payload 1 1 = 1
    ∧ (guarded 3 ⟨4, true, [], []⟩).sw.passed = [pass (order 3 0 1)] ∧ isOrder (order 3 0 1) 3 = true
    ∧ (guarded 3 ⟨4, true, [], []⟩).guardOf 4 = some ⟨4, true, [], []⟩ ∧ (guarded 3 ⟨4, true, [1], []⟩).guardOf 4 = some ⟨4, true, [1], []⟩
    ∧ (⟨4, true, [], [(1, St.media)]⟩ : Guard).first ≠ St.ok ∧ delivers (⟨4, true, [], [(1, St.media)]⟩ : Guard).first = false
    ∧ (guardHeld ⟨4, true, [], []⟩).mort.served.find? (fun r => r.wait == .guard
        && ((guardHeld ⟨4, true, [], []⟩).guardOf r.id).any (fun g => g.open_.isEmpty)) = some guardWait
    ∧ (guardHeld ⟨4, true, [], []⟩).guardOf 4 = some ⟨4, true, [], []⟩ ∧ Answerable pooled guardWait.frame guardWait.cls
    ∧ (guardHeld ⟨4, true, [1], []⟩).mort.served.find? (fun r => r.wait == .guard
        && ((guardHeld ⟨4, true, [1], []⟩).guardOf r.id).any (fun g => g.release && !g.open_.isEmpty)
        && decide (r.since + max 1 (bits (pooled.rd Reg.ordGuardLimit).toNat 15 0) ≤ 65535)) = some guardWait
    ∧ (∀ q ∈ (guardHeld ⟨4, true, [1], []⟩).mort.served, q.wait ≠ .promotion) ∧ Reaches pooled .a Reg.ordCtrl := by decide +kernel

/-- A DIR frame of a subtype and a next byte, from the agent of port 0, at the first line of drawer 0. -/
def dir (sub next : Nat) (data : Bytes) : Frame :=
  frame { plain with opcode := 0x48, srcUnit := 0, addr := 0x1000000000 } (leBytes 16 (sub + next * 256) ++ data)

def line0 : Nat := 0x20000000

/-- The entry of the line. -/
def withEntry (s : State) (e : DirEntry) : State := s.withDir { Directory.reset with entries := [(line0, e)] }

def shared (agents : List AgentId) : DirEntry := ⟨.shared, agents, none, 0⟩

/-- GET_M of port 1's agent waits for the answer of port 0's to a snoop. -/
def getM : Frame := frame { plain with opcode := 0x48, srcUnit := 1, addr := 0x1000000000 } (leBytes 16 2)

def tracker (kind : BitVec 8) (f : Frame) (ask : DirAsk) (snoops : List AgentId) : Tracker :=
  { line := line0, active := { (pooled.dirRequest (pass f) ask) with agent := agentId 0 1 }, snoops := snoops.map (fun a => ⟨a, 1, kind, 0⟩),
    wait := [], prior := DirEntry.reset, held := [] }

def tracked (s : State) (st : DirSt) (t : Tracker) : State :=
  s.withDir { Directory.reset with entries := [(line0, ⟨st, [agentId 0 0], none, 0⟩)], trackers := [(0, some t)] }

theorem witness_DirectoryTransactions :
    ([1, 2, 3].all (fun sub => (atDrawer (dir sub 0 [])).sw.passed.find? (fun p => isDir p.frame sub) == some (pass (dir sub 0 [])))) = true
    ∧ (atDrawer (dir 1 0 [])).dir = Directory.reset ∧ ((atDrawer (dir 1 0 [])).dirEntry ((pass (dir 1 0 [])).offset / 128)).state = .uncached
    ∧ ((atDrawer (dir 1 0 [])).waysOf (dirSet ((pass (dir 1 0 [])).offset / 128))).length < 16
    ∧ ((withEntry (atDrawer (dir 2 0 [])) (shared [agentId 0 0, agentId 0 1])).dirEntry ((pass (dir 2 0 [])).offset / 128)).state = .shared
    ∧ (shared [agentId 0 0, agentId 0 1]).sharers.filter (· != ((atDrawer (dir 2 0 [])).dirRequest (pass (dir 2 0 [])) .getM).agent) ≠ []
    ∧ ((withEntry (atDrawer (dir 3 0 [])) (shared [agentId 0 0])).dirEntry line0).sharers
        = [((atDrawer (dir 3 0 [])).dirRequest (pass (dir 3 0 [])) .upgrade).agent]
    ∧ (withEntry (atDrawer (dir 3 0 [])) (shared [agentId 0 0])).dir.trackers = []
    ∧ (tracked pooled .filling (tracker 0x10 (dir 1 0 []) .getS [])).dir.trackers.get none 0 = some (tracker 0x10 (dir 1 0 []) .getS [])
    ∧ ((tracked pooled .filling (tracker 0x10 (dir 1 0 []) .getS [])).dirEntry line0).state = .filling
    ∧ (tracker 0x10 (dir 1 0 []) .getS []).active.frame = some (dir 1 0 []) ∧ (tracker 0x10 (dir 1 0 []) .getS []).active.line = line0
    ∧ (tracker 0x10 (dir 1 0 []) .getS []).prior.state = .uncached ∧ field (dir 1 0 []).payload 0 1 = 1 ∧ pooled.badIn 0 128 = []
    ∧ Answerable pooled (dir 1 0 []) pooled.dirClasses.2
    ∧ (atDrawer (dir 4 0 [])).sw.passed.find? (fun p => isDir p.frame 4) = some (pass (dir 4 0 []))
    ∧ (atDrawer (dir 5 0 (List.replicate 128 7))).sw.passed.find? (fun p => isDir p.frame 5) = some (pass (dir 5 0 (List.replicate 128 7)))
    ∧ ((withEntry (atDrawer (dir 5 0 [])) ⟨.exclusive, [agentId 0 0], none, 0⟩).dirEntry line0).sharers.headD 0
        = ((atDrawer (dir 5 0 [])).dirRequest (pass (dir 5 0 [])) .getS).agent
    ∧ ((withEntry (atDrawer (dir 5 0 [])) ⟨.exclusive, [agentId 0 1], none, 0⟩).dirEntry line0).sharers.headD 0
        ≠ ((atDrawer (dir 5 0 [])).dirRequest (pass (dir 5 0 [])) .getS).agent
    ∧ answerRsvd (dir 0x20 0 []) = false ∧ answerRsvd (dir 0x21 0 []) = false ∧ answerRsvd (dir 0x22 0 (List.replicate 128 7)) = false
    ∧ (atDrawer (dir 0x20 0 [])).matchAnswer (dir 0x20 0 []) true = none ∧ (atDrawer (dir 0x21 0 [])).matchAnswer (dir 0x21 0 []) false = none
    ∧ (tracked (atDrawer (dir 0x20 0 [])) .invalidating (tracker 0x10 getM .getM [agentId 0 0])).matchAnswer (dir 0x20 0 []) true
        = some (0, tracker 0x10 getM .getM [agentId 0 0], ⟨agentId 0 0, 1, 0x10, 0⟩)
    ∧ (tracker 0x10 getM .getM [agentId 0 0]).snoops.erase ⟨agentId 0 0, 1, 0x10, 0⟩ = []
    ∧ (tracker 0x10 getM .getM [agentId 0 0, agentId 0 2]).snoops.erase ⟨agentId 0 0, 1, 0x10, 0⟩ ≠ []
    ∧ (tracked (atDrawer (dir 0x21 0 [])) .recalling (tracker 0x11 getM .getM [agentId 0 0])).matchAnswer (dir 0x21 0 []) false
        = some (0, tracker 0x11 getM .getM [agentId 0 0], ⟨agentId 0 0, 1, 0x11, 0⟩)
    ∧ (tracked (atDrawer (dir 0x22 0 (List.replicate 128 7))) .recalling (tracker 0x11 getM .getM [agentId 0 0])).matchAnswer
        (dir 0x22 0 (List.replicate 128 7)) false = some (0, tracker 0x11 getM .getM [agentId 0 0], ⟨agentId 0 0, 1, 0x11, 0⟩)
    ∧ (tracker 0x11 getM .getM [agentId 0 0]).active.ask = .getM ∧ field getM.payload 0 1 = 2
    ∧ (tracked (atDrawer (dir 0x21 0 [])) .recalling (tracker 0x11 getM .getM [agentId 0 0])).dir.hold = []
    ∧ bits (field (dir 0x21 0 []).payload 2 1) 2 2 = 0 := by decide +kernel

/-- A snoop toward the agent of a port. -/
def snoop (port : Nat) : Frame := frame { plain with opcode := 0x48, srcUnit := 768 } (leBytes 16 (0x10 + port * 256 ^ 6))

def snooping (f : Frame) (p : Option Port) : State :=
  (peers .active .active).withSw { Switch.reset with passed := [{ pass f with port := p }] }

def scan : Activity :=
  { cls := 6, kind := 7, unit := 0, arg := 0, desc := none, at_ := 0, pending := false, askedAt := 0, result := none, progress := 0 }

def scanning (s : State) : State := s.withFault { s.fault with running := [scan] }

def poisonDesc (addr : Nat) : Desc := desc [(1, 1, 0x1A), (24, 8, addr)]

theorem witness_DirectoryUpkeep :
    (snooping (snoop 1) none).sw.passed.find? (fun p => p.frame == snoop 1 && isSnoop p.frame) = some { pass (snoop 1) with port := none }
    ∧ (none : Option Port).any (fun q => (snooping (snoop 1) none).role q == 1) = false ∧ portOf (field (snoop 1).payload 6 1) = some 1
    ∧ (snooping (snoop 1) none).role 1 = 1 ∧ (snooping (snoop 1) none).portActive 1 = true
    ∧ (some (0 : Port)).any (fun q => (snooping (snoop 1) (some 0)).role q == 1) = true
    ∧ (tracker 0x11 getM .evict [agentId 0 0]).snoops.filter (fun x => decide (x.at_ + 4 ≤ (late Bell.reset 4).bell.bounds)) ≠ []
    ∧ ((tracked pooled .recalling (tracker 0x11 getM .evict [agentId 0 0])).dirEntry line0).state = .recalling
    ∧ (tracker 0x11 getM .evict [agentId 0 0]).active.ask = .evict ∧ (tracker 0x11 getM .evict [agentId 0 0]).wait = []
    ∧ ((tracked pooled .invalidating (tracker 0x10 getM .getM [agentId 0 0])).dirEntry line0).state = .invalidating
    ∧ ([⟨agentId 0 0, 1, 0x10, 0⟩, ⟨agentId 0 2, 2, 0x10, 1⟩] : List Snoop).all (fun x => decide (4 < x.at_ + 4)) = false
    ∧ ([⟨agentId 0 0, 1, 0x10, 0⟩, ⟨agentId 0 2, 2, 0x10, 1⟩] : List Snoop).any (fun x => decide (4 < x.at_ + 4)) = true
    ∧ ([pooled.dirRequest (pass getM) .getM].find? (fun q => decide (q.at_ + 8 ≤ 8) && !([] : List DirReq).contains q)
        = some (pooled.dirRequest (pass getM) .getM))
    ∧ 5 ∈ ((withEntry pooled (shared [agentId 0 5])).withSw { pooled.sw with deadDir := [5] }).sw.deadDir
    ∧ (withEntry pooled (shared [agentId 0 5])).hasActivity 6 7 0 = false ∧ scan.result = none
    ∧ (scanning (withEntry pooled (shared [agentId 0 5]))).runningActivity 6 7 0 = some scan
    ∧ (withEntry pooled (shared [agentId 0 5])).dir.entries.wf (fun _ => DirEntry.reset) = true
    ∧ (withEntry pooled (shared [agentId 0 5])).dir.entries.all (fun x => x.2.state != .exclusive) = true
    ∧ ([(0, 5, 9, 0)] : List (Nat × Nat × Nat × Nat)).find? (fun p => p.1 == (0 : DrawerId).val) = some ((0 : DrawerId).val, 5, 9, 0)
    ∧ ([(0, 5, 9, 1)] : List (Nat × Nat × Nat × Nat)).find? (fun p => p.1 == (0 : DrawerId).val) = some ((0 : DrawerId).val, 5, 9, 1)
    ∧ 1 + 3 ≤ (late Bell.reset 4).bell.bounds ∧ Starts (waits pooled (poisonDesc 0x80)) .a 0 0x1A (poisonDesc 0x80)
    ∧ (dAddr (poisonDesc 0x80) 24).extractLsb' 60 4 = 0 ∧ (dAddr (poisonDesc 0x80) 24).extractLsb' 48 12 = pooled.swNum
    ∧ (dAddr (poisonDesc 0x80) 24).extractLsb' 0 7 = 0 ∧ (dAddr (poisonDesc 0x81) 24).extractLsb' 0 7 ≠ 0
    ∧ Starts (waits pooled (poisonDesc 0x81)) .a 0 0x1A (poisonDesc 0x81) ∧ Reaches pooled .a Reg.dirProbeCtrl
    ∧ (withEntry (pooled.wr64 Reg.dirProbeAddrLo 0x1000000000) ⟨.exclusive, [agentId 0 0], none, 0⟩).dirEntry
        ((((pooled.wr64 Reg.dirProbeAddrLo 0x1000000000).rd64 Reg.dirProbeAddrLo).extractLsb' 0 40).toNat / 128)
        = ⟨.exclusive, [agentId 0 0], none, 0⟩
    ∧ Reaches pooled .b Reg.dirCtrl := by decide +kernel

theorem witness_UnsupportedAccesses :
    run.answers .a = true ∧ ¬ ((8 : Nat) = 4 ∧ (0 : BitVec 25).toNat % 4 = 0) ∧ ¬ ((4 : Nat) = 4 ∧ (2 : BitVec 25).toNat % 4 = 0)
    ∧ (0x1FFFFFF : BitVec 25).toNat % 4 ≠ 0
    ∧ Instr.readHi .a 2 ∈ [Instr.regWrite .a 2 0, .readLoLatch .a 2, .readHi .a 2, .writeLoHold .a 2 0, .writeHiApply .a 2 0, .errW1cClear .a 2 0] := by
  decide +kernel

/-- A word is latched, and one held, for host A and BOOT_STAMP and DIR_PROBE_ADDR. -/
def latched : State :=
  (run.withLatch [(holdKey .a Reg.bootStampLo, some 7)]).withHold [(holdKey .a Reg.dirProbeAddrLo, some 8)]

theorem witness_LatchedPairs :
    run.answers .b = true ∧ isLo Reg.bootStampLo = true ∧ (BitVec.ofNat 25 Reg.bootStampLo).toNat = Reg.bootStampLo
    ∧ Reg.bootStampLo % 4 = 0 ∧ isLo (Reg.bootStampHi - 4) = true
    ∧ latched.latch.get none (holdKey .a Reg.bootStampLo) = some 7 ∧ latched.latch.get none (holdKey .b Reg.bootStampLo) = none := by
  decide +kernel

theorem witness_RegisterWrites :
    Reaches run .a Reg.poolFrameLow ∧ (regRow Reg.poolFrameLow).any (fun r => r.acc == .rw) = true ∧ isLo Reg.poolFrameLow = false
    ∧ isLo (Reg.poolFrameLow - 4) = false ∧ (Reg.poolFrameLow < 0x400000 ∨ (0x800000 ≤ Reg.poolFrameLow ∧ Reg.poolFrameLow < 0x1100000))
    ∧ (regRow Reg.bootStatus).any (fun r => r.acc == .ro) = true ∧ Reaches run .a Reg.bootStatus
    ∧ (regRow (Reg.swRoute 0)).any (fun r => r.acc == .rwl) = true ∧ isTrust0 (Reg.swRoute 0) = false ∧ (run.wr Reg.secLock 1).locked = true
    ∧ Reaches (run.wr Reg.secLock 1) .a (Reg.swRoute 0) ∧ bit ((run.wr Reg.secLock 1).rd Reg.faultErr) 0 = false
    ∧ (regRow Reg.faultErr).any (fun r => r.acc == .w1c) = true ∧ Reaches run .a Reg.faultErr
    ∧ ((run.wr Reg.faultErr 3).rd Reg.faultErr) &&& ~~~(3 : Word) = 0 ∧ ((run.wr Reg.faultErr 3).rd Reg.faultErr) &&& ~~~(1 : Word) ≠ 0
    ∧ writableLo Reg.dirProbeAddrLo = true ∧ ringRegOf Reg.dirProbeAddrLo = none ∧ Reaches run .a Reg.dirProbeAddrLo
    ∧ ringRegOf (Reg.dirProbeAddrLo + 4) = none ∧ Reaches run .a (Reg.dirProbeAddrLo + 4)
    ∧ Reg.dirProbeAddrLo ≠ Reg.faultFenceSetLo ∧ Reg.dirProbeAddrLo ≠ Reg.faultLiftLo
    ∧ latched.hold.get none (holdKey .a Reg.dirProbeAddrLo) = some 8 ∧ latched.hold.get none (holdKey .b Reg.dirProbeAddrLo) = none := by
  decide +kernel

/-! Benches. -/

/-- An operator descriptor of job 1: its code, its sync byte with a wait of 16 slots, what stands at its parameter block, and
slots 0 and 4: single elements of a format in the store, linear, at 0 and at 128, or in another place. -/
def opDesc (op sync params kind : Nat) : Bytes :=
  let at_ := fun (o n v : Nat) => v % 256 ^ n * 256 ^ o
  leBytes 384 (1 + at_ 1 1 op + at_ 4 2 1 + at_ 64 1 sync + at_ 66 2 (16 * (sync % 2)) + at_ 72 8 (8 * (sync % 2)) + at_ 80 8 (sync % 2)
    + at_ 96 8 (8 * (sync / 2 % 2)) + at_ 320 16 params
    + at_ (128 + 16) 1 kind + at_ (128 + 17) 1 1 + at_ (128 + 18) 1 2 + at_ (128 + 20) 4 1 + at_ (128 + 24) 4 1
    + at_ 256 8 128 + at_ (256 + 16) 1 1 + at_ (256 + 17) 1 1 + at_ (256 + 18) 1 2 + at_ (256 + 20) 4 1 + at_ (256 + 24) 4 1)

/-- A conversion whose output is of a kind. -/
def converts (kind : Nat) : Bytes := patch (opDesc 8 0 0 1) (256 + 16) [BitVec.ofNat 8 kind]

/-- A basis fit of one tile of FP16 for stream 0, any slot, RMAX 1. -/
def fits : Bytes := patch (patch (opDesc 9 0 (0xFF * 256 + 256 ^ 2 + 256 ^ 4) 1) (128 + 17) [2, 0]) 256 (List.replicate 32 0)

/-- An entry of bench 0 fires at slot 5 with a descriptor at the start of STACK, which stands in memory. -/
def fires (action : Nat) (d : Bytes) : State :=
  ((pooled.withBell { Bell.reset with lock := .locked, now := ⟨0, 0, 5⟩, ticks := 100 }).withTt
      { Timetable.reset with bank0 := [(ttKey 1 0 0, BitVec.ofNat 128 (2 ^ 30 * 2 ^ 64 + 5 * 65536 + 5 * 256 + action * 16 + 1)),
                                       (ttKey 2 0 0, BitVec.ofNat 128 (2 ^ 30 * 2 ^ 64 + 5 * 65536 + 5 * 256 + action * 16 + 1))] }).withPool
    { pooled.pool with mem := Tab.putRun 0 [] 0 d, written := [(0x200000, true)] }

def launchFrame (aux : BitVec 16) : Frame := frame { plain with opcode := 0x38, aux := aux, ak := true } []

def launched : Launch := ⟨.fabric (launchFrame 0) 1 0, 0, 1, 0, 0⟩

/-- The bench works on a descriptor: a stage with its requests. -/
def working (st : BenchStage) (d : Bytes) (reqs : List UReq) : BenchRun := ⟨launched, d, st, 0, 0, 0, 0, false, false, reqs⟩

def benchOf (x : Bench) (n : Nat) : State := (fires 1 []).withBenches [(0, x)] |>.withBell { Bell.reset with ticks := n, bounds := n }

def answered (what : UWhat) (addr : Nat) (st : Status) (data : Bytes) : UReq := ⟨0, what, addr, 0, 0, some (st, 0, data)⟩

/-- The lines of a descriptor that have come back. -/
def headOf (d : Bytes) : List UReq := [0, 1, 2].map (fun i => answered (.desc i) (128 * i) St.ok (byteRun d (128 * i) 128))

theorem witness_BenchLaunches :
    (fires 1 (opDesc 8 1 0 1)).firingNow 1 0 1 = [(0, BitVec.ofNat 128 (2 ^ 30 * 2 ^ 64 + 5 * 65536 + 5 * 256 + 16 + 1))]
    ∧ ((fires 1 []).bench 0).firedAt ≠ (fires 1 []).bell.ticks + 1 ∧ (fires 1 []).benchFree 0 = true ∧ (fires 1 []).benchOffline 0 = false
    ∧ ((fires 1 []).withBenches [(0, { Bench.reset with run := some (working .acquire [] []) })]).benchFree 0 = false
    ∧ (fires 1 []).localBad (2 ^ 36) 384 = false
    ∧ opRefusal ((fires 1 (opDesc 8 1 0 1)).localRead (2 ^ 36) 384).1 = none ∧ odAcq ((fires 1 (opDesc 8 1 0 1)).localRead (2 ^ 36) 384).1 = true
    ∧ opRefusal ((fires 1 []).localRead (2 ^ 36) 384).1 = some St.format
    ∧ (passing (launchFrame 168)).sw.passed.find? (fun p => p.frame.opcode == 0x38) = some ⟨launchFrame 168, 1, 0, some 0, 0, none, 0⟩
    ∧ (168 ≤ (launchFrame 168).aux.toNat ∧ (launchFrame 168).aux ≠ 0xFFFF) ∧ (launchFrame 0xFFFF).aux = 0xFFFF
    ∧ Answerable (passing (launchFrame 168)) (launchFrame 168) 1 ∧ (passing (launchFrame 167)).launchBench 167 = some 167
    ∧ (passing (launchFrame 0xFFFF)).launchBench 0xFFFF = some 0
    ∧ ((passing (launchFrame 0)).withBenches [(0, { Bench.reset with queue := List.replicate 8 launched })]).launchBench 0 = none
    ∧ ((benchOf { Bench.reset with queue := [launched] } 0).bench 0).queue = launched :: [] ∧ Bench.reset.head = []
    ∧ (headOf (opDesc 8 1 0 1)) ≠ [] ∧ allBack (headOf (opDesc 8 1 0 1)) = true ∧ firstFailure (headOf (opDesc 8 1 0 1)) = none
    ∧ opRefusal (headDesc launched (headOf (opDesc 8 1 0 1))) = none ∧ odJob (headDesc launched (headOf (opDesc 8 1 0 1))) = launched.job
    ∧ odAcq (headDesc launched (headOf (opDesc 8 1 0 1))) = true ∧ opRefusal (headDesc launched (headOf [])) = some St.format
    ∧ (benchOf Bench.reset 0).benchFits 0 (opReserve (opDesc 8 1 0 1)) = true ∧ (fires 1 []).benchFits 0 (opReserve (opDesc 8 1 0 1)) = false
    ∧ launched.bound + (benchOf Bench.reset 65536).bell.len ≤ (benchOf Bench.reset 65536).bell.bounds := by decide +kernel

/-- Slot 0 of the store as given. -/
def slotZero (x : Residency) (r : BenchRun) : Bench := { Bench.reset with run := some r, slots := [(0, x)] }

def gathers : Bytes := opDesc 8 1 0 3

theorem witness_BenchOperators :
    ((benchOf { Bench.reset with run := some (working .acquire (opDesc 8 1 0 1) [answered .acquire 0 St.ok (leBytes 128 (256 ^ 8))]) } 0).bench 0).run
      = some (working .acquire (opDesc 8 1 0 1) [answered .acquire 0 St.ok (leBytes 128 (256 ^ 8))])
    ∧ allBack [answered .acquire 0 St.ok []] = true ∧ delivers (answered .acquire 0 St.timeout []).status = false
    ∧ delivers (answered .acquire 0 St.ok []).status = true ∧ flagHolds (opDesc 8 1 0 1) (leBytes 128 (256 ^ 8)) = true
    ∧ flagHolds (opDesc 8 1 0 1) (leBytes 128 0) = false
    ∧ (working .acquire (opDesc 8 1 0 1) []).started + odWait (opDesc 8 1 0 1) ≤ (benchOf Bench.reset 16).bell.ticks
    ∧ (benchOf Bench.reset 15).bell.ticks < (working .acquire (opDesc 8 1 0 1) []).started + odWait (opDesc 8 1 0 1)
    ∧ (benchOf Bench.reset 7).bell.ticks < (working .acquire [] []).lastRead + 8 ∧ (working .acquire [] []).lastRead + 8 ≤ (benchOf Bench.reset 8).bell.ticks
    ∧ (slotZero ⟨true, [], none, none⟩ (working .gather gathers [])).unready gathers = []
    ∧ (slotZero ⟨false, [], none, none⟩ (working .gather gathers [])).unready gathers = [(0, 0)]
    ∧ ((slotZero ⟨false, [], some St.media, none⟩ (working .gather gathers [])).unready gathers).find?
        (fun q => ((slotZero ⟨false, [], some St.media, none⟩ (working .gather gathers [])).slot q.2).invalid.isSome) = some (0, 0)
    ∧ inputSlots (opDesc 8 0 0 2) = [0] ∧ firstFailure (reqsFor [answered (.operand 0 0) 0 St.ok []] 0 false) = none
    ∧ (reqsFor [answered (.operand 0 0) 0 St.poison []] 0 false).map UReq.status = [St.poison]
    ∧ (inputSlots (opDesc 8 0 0 2)).findSome? (fun i => (firstFailure (reqsFor [answered (.operand 0 0) 0 St.media []] i false
        ++ reqsFor [answered (.operand 0 0) 0 St.media []] i true)).map (fun st => (i, st))) = some (0, St.media)
    ∧ (working .compute (converts 1) []).readyAt + opLatency (converts 1) ≤ (benchOf Bench.reset (opLatency (converts 1))).bell.ticks
    ∧ odOp (converts 1) ≠ 9 ∧ odOp fits = 9 ∧ (operandOf fits 0).isSome = true ∧ opRefusal fits = none ∧ odRel (converts 1) = false
    ∧ ([1, 2].all (fun k => ((opResults (converts k) (inputMat Bench.reset (working .compute (converts k) []))).filterMap (fun p =>
        (operandOf (converts k) p.1).map (fun o => (o.kind.ctorIdx, ((o.write p.2 (odRound (converts k)) (odSat (converts k)) 0 p.1).runs.map
          (fun q => q.2.length)))))) == [(k - 1, [4])])) = true
    ∧ (working .compute fits []).readyAt + opLatency fits ≤ (benchOf Bench.reset (opLatency fits)).bell.ticks
    ∧ (benchOf Bench.reset 0).slotForWrite (par fits 0 1) (par fits 1 1) = some 0
    ∧ (pooled.withPool { pooled.pool with slots := [0, 1, 2, 3].map (fun g => (g, { BasisSlot.reset with refs := 1 })) }).slotForWrite 0 0xFF = none
    ∧ firstNotOk [answered .output 0 St.media []] = some St.media ∧ firstNotOk [answered .output 0 St.ok []] = none
    ∧ odRel (opDesc 8 2 0 1) = true ∧ (working .write (opDesc 8 2 0 1) []).poison = false
    ∧ Reaches pooled .a (Reg.bnCtrl 11 13) ∧ (benchOf Bench.reset 0).inRecess 1 0 = false ∧ ((benchOf Bench.reset 0).bench 0).run = none := by
  decide +kernel

/-! The roll. -/

/-- An open entry of job 1, SEQ 9, capacity 1,024, in slot 3: a part, or a whole context with its parts. -/
def context (part parts : Nat) : BitVec 1024 :=
  BitVec.ofNat 1024 (4 + part * 8 + 1 * 2 ^ 16 + 9 * 2 ^ 32 + 4 * 2 ^ 128 + 1024 * 2 ^ 352 + parts * 2 ^ 408)

/-- A station of one bench that binds at slot 5 of every period. -/
def station : BitVec 512 := BitVec.ofNat 512 (4 + 1 * 2 ^ 8 + 5 * 2 ^ 32)

/-- A ROLL_OP of a subtype on slot 3 by the agent of port 0: its EPOCH and what follows its first four bytes. -/
def rollFrame (sub : Nat) (epoch : BitVec 16) (rest : Nat) : Frame :=
  frame { plain with opcode := 0x40, srcUnit := 0, addr := 0x300000009, aux := epoch, ak := true } (leBytes 64 (sub + 256 ^ 2 + rest * 256 ^ 4))

def rolling (l : Live) (c : BitVec 1024) (f : Frame) : State :=
  ((atDrawer f).withBell { Bell.reset with lock := .locked, now := ⟨0, 7, 5⟩ }).withRoll
    { Roll.reset with cfg0 := [(3, c)], shape0 := [(0, BitVec.ofNat 128 (2 ^ 8 + 2 ^ 16))], station0 := [(1, station)], live := [(3, l)] }

/-- The live half of a context whose holder is port 0's agent, in epoch 5. -/
def pass5 (st : PassSt) : Live := { Live.reset with live := true, state := st, epoch := 5, committed := 10, target := 1, deadline := 0x800 }

/-- What a ROLL_OP of the subtype meets: the entry found, no deadline due. -/
def rollReady (s : State) (f : Frame) (sub : Nat) : Bool :=
  s.sw.passed.find? (fun p => isRoll sub p.frame) == some (pass f) && (s.rollFind f false).isSome && !(s.rollLive (rollSlot f)).holderDead
    && decide (Answerable s f 1) && ((s.rollLive (rollSlot f)).state != .offered || decide (s.now.toNat < (s.rollLive (rollSlot f)).deadline.toNat))

theorem witness_PassTransitions :
    ([(1, PassSt.held), (2, .held), (0x10, .held), (0x11, .offered), (0x12, .offered), (0x13, .orphaned), (0x14, .held), (0x30, .held)].all
      (fun p => rollReady (rolling (pass5 p.2) (context 0 0) (rollFrame p.1 5 0)) (rollFrame p.1 5 0) p.1)) = true
    ∧ (rolling (pass5 .held) (context 0 0) (rollFrame 2 5 10)).rollFind (rollFrame 2 5 10) false = some (context 0 0)
    ∧ cfgPart (context 0 0) = false ∧ cfgCap (context 0 0) = 1024 ∧ (rollFrame 2 5 10).aux = (pass5 .held).epoch
    ∧ (pass5 .held).committed ≤ field (rollFrame 2 5 10).payload 4 4 ∧ field (rollFrame 2 5 1024).payload 4 4 ≤ cfgCap (context 0 0)
    ∧ ¬ ((pass5 .held).committed ≤ field (rollFrame 2 5 9).payload 4 4) ∧ ¬ (field (rollFrame 2 5 1025).payload 4 4 ≤ cfgCap (context 0 0))
    ∧ (rollFrame 2 4 10).aux ≠ (pass5 .held).epoch
    ∧ agentPart (BitVec.ofNat 24 (field (rollFrame 0x10 5 1).payload 4 3)) ≠ agentPart (pass5 .held).holder
    ∧ agentPart (BitVec.ofNat 24 (field (rollFrame 0x10 5 0).payload 4 3)) = agentPart (pass5 .held).holder
    ∧ sentBy (rollFrame 0x12 5 0) 0 = true ∧ sentBy (rollFrame 0x12 5 0) 1 = false
    ∧ (rollFrame 0x13 6 0).aux = (pass5 .orphaned).epoch + 1 ∧ (rolling (pass5 .orphaned) (context 0 0) (rollFrame 0x13 6 0)).roll.claims = []
    ∧ field (rollFrame 0x14 5 1).payload 4 1 = 1 ∧ cfgParts (context 0 0) = 0 ∧ cfgParts (context 0 1) ≠ 0
    ∧ (rolling (pass5 .held) (context 0 0) (rollFrame 0x30 5 (128 + 256 ^ 6))).ticketFits 3 (rollFrame 0x30 5 (128 + 256 ^ 6)).payload = true
    ∧ (rolling (pass5 .held) (context 0 0) (rollFrame 0x30 5 (1025 + 256 ^ 6))).ticketFits 3 (rollFrame 0x30 5 (1025 + 256 ^ 6)).payload = false
    ∧ (rollFrame 0x30 5 0).srcUnit.toNat < 192 ∧ tkStation (rollFrame 0x30 5 0).payload = 1
    ∧ (rolling (pass5 .held) (context 0 0) (rollFrame 0x30 5 0)).roll.tickets.get none 1 = none := by decide +kernel

def watch (w : Watched) : State := pooled.withRoll { Roll.reset with watched := [(256 * 5 + 9, some w)] }

/-- A heartbeat of switch 5 that says 1 for every port. -/
def heartbeat : Frame :=
  frame { plain with opcode := 0x40, srcSwitch := 5, srcUnit := 768 } ([0x22] ++ List.replicate 15 0 ++ List.replicate 192 1)

theorem witness_PassLiveness :
    (rolling (pass5 .offered) (context 0 0) heartbeat).rollLive 3 = pass5 .offered ∧ (pass5 .offered).live = true
    ∧ (pass5 .offered).deadline.toNat ≤ (rolling (pass5 .offered) (context 0 0) heartbeat).now.toNat + 0x800 ∧ (pass5 .offered).holderDead = false
    ∧ { pass5 .offered with deadline := 0 }.deadline.toNat ≤ (rolling (pass5 .offered) (context 0 0) heartbeat).now.toNat
    ∧ 191 ∈ (pooled.withSw { pooled.sw with deadRoll := [191] }).sw.deadRoll
    ∧ agentPart (pass5 .held).holder = agentId 0 0 ∧ agentPart (pass5 .offered).target = agentId 0 1 ∧ agentPart (pass5 .held).holder ≠ agentId 0 1
    ∧ (atDrawer (rollFrame 0x23 0 0)).sw.passed.find? (fun p => isRoll 0x23 p.frame) = some (pass (rollFrame 0x23 0 0))
    ∧ (atDrawer heartbeat).sw.passed.find? (fun p => isRoll 0x22 p.frame) = some (pass heartbeat) ∧ heartbeat.srcSwitch.toNat = 5
    ∧ ((watch ⟨some 2, false, none⟩).roll.watched.filter (fun w => w.1 / 256 == 5 && (match w.2 with
      | some x => !x.dead && (match x.count with
        | some n => field heartbeat.payload (16 + w.1 % 256) 1 != n.toNat
        | none => false)
      | none => false))) = [(256 * 5 + 9, some ⟨some 2, false, none⟩)]
    ∧ ((watch ⟨some 1, false, none⟩).roll.watched.filter (fun w => w.1 / 256 == 5 && (match w.2 with
      | some x => !x.dead && (match x.count with
        | some n => field heartbeat.payload (16 + w.1 % 256) 1 != n.toNat
        | none => false)
      | none => false))) = []
    ∧ (watch ⟨some 1, false, none⟩).roll.heardAt.get 0 5 + pooled.hbMiss * pooled.hbPeriods ≤ (late Bell.reset (pooled.hbMiss * pooled.hbPeriods)).bell.bounds
    ∧ (watch ⟨some 1, false, none⟩).roll.watched.filter (fun w => w.1 / 256 == 5 && (match w.2 with
      | some x => !x.dead
      | none => false)) = [(256 * 5 + 9, some ⟨some 1, false, none⟩)]
    ∧ (atDrawer (rollFrame 0x20 0 191)).sw.passed.find? (fun p => isRoll 0x20 p.frame) = some (pass (rollFrame 0x20 0 191))
    ∧ field (rollFrame 0x20 0 191).payload 4 1 < 192 ∧ Answerable (atDrawer (rollFrame 0x20 0 191)) (rollFrame 0x20 0 191) 1
    ∧ pooled.roll.sentAt + pooled.hbPeriods ≤ (late Bell.reset pooled.hbPeriods).bell.bounds ∧ pooled.bell.bounds < pooled.roll.sentAt + pooled.hbPeriods
    ∧ (4096 * 3, true) ∈ (pooled.withRoll { Roll.reset with watchers := [(4096 * 3, true)] }).roll.watchers ∧ (0 : BitVec 12) = pooled.swNum
    ∧ (watch ⟨none, false, some (true, 0)⟩).roll.watched.get none (256 * 5 + 9) = some ⟨none, false, some (true, 0)⟩
    ∧ 0 + 16 ≤ (late Bell.reset 16).bell.bounds ∧ (late Bell.reset 15).bell.bounds < 0 + 16 := by decide +kernel

def ticket (origin : Option (Frame × Cls × Fin 12)) : Ticket := ⟨3, 5, (rollFrame 0x30 5 128).payload, origin⟩

def binding (t : Option Ticket) (l : Live) : State :=
  let s := rolling l (context 0 0) heartbeat
  s.withRoll { s.roll with tickets := [(1, t)] }

def claim (lines : List Nat) (planks : List Dword) : Claim := ⟨3, rollFrame 0x13 6 0, 1, 0, 10, [], lines, planks, 0⟩

theorem witness_StationsAndDiscards :
    stValid ((binding none (pass5 .held)).rollStation 1) = true ∧ (binding none (pass5 .held)).bell.now.slot.toNat = stBindSlot station
    ∧ (binding none (pass5 .held)).bell.now.period.toNat % stMod station = stPhase station
    ∧ (binding none (pass5 .held)).roll.boundAt.get 0 1 ≠ (binding none (pass5 .held)).bell.bounds + 1
    ∧ (binding none (pass5 .held)).roll.tickets.get none 1 = none ∧ 0 < stBenches station
    ∧ (binding (some (ticket none)) (pass5 .held)).roll.tickets.get none 1 = some (ticket none) ∧ ((binding none (pass5 .held)).rollLive 3).state ≠ .offered
    ∧ (ticket none).origin = none ∧ ((binding none (pass5 .held)).rollLive 3).epoch = (ticket none).epoch
    ∧ ((binding none { pass5 .held with epoch := 6 }).rollLive 3).epoch ≠ (ticket (some (rollFrame 0x30 5 128, 1, 0))).epoch
    ∧ Answerable (binding none (pass5 .held)) (rollFrame 0x30 5 128) 1
    ∧ (rolling (pass5 .held) (context 1 0) (rollFrame 0x24 0 0)).sw.passed.find? (fun p => isRoll 0x24 p.frame) = some (pass (rollFrame 0x24 0 0))
    ∧ (rolling (pass5 .held) (context 1 0) (rollFrame 0x24 0 0)).rollFind (rollFrame 0x24 0 0) true = some (context 1 0) ∧ cfgPart (context 1 0) = true
    ∧ (rolling (pass5 .held) (context 1 0) (rollFrame 0x25 0 0)).sw.passed.find? (fun p => isRoll 0x25 p.frame) = some (pass (rollFrame 0x25 0 0))
    ∧ [claim [] [0x10000000000]].find? (fun k => k.slot == (3 : SlotId).val) = some (claim [] [0x10000000000]) ∧ (claim [] []).lines = [] ∧ (claim [] []).trims = 0
    ∧ (pooled.withMort { pooled.mort with
        drw0 := [(0, (1#128 <<< 94) ||| (1#128 <<< 92) ||| (1#128 <<< 64) ||| 0x10000000000#128)] }).mortise none 1 true 0x10000000000 plankBytes 2 = .pass 0 tieredBase false
    ∧ cfgJob (context 0 0) = 1 ∧ (pooled.mapEntry (tieredBase / plankBytes)).state ≠ .moving
    ∧ ((tiered { flashEntry with state := .moving } []).mapEntry (tieredBase / plankBytes)).state = .moving
    ∧ Reaches pooled .a Reg.rollProbeCtrl ∧ Reaches pooled .b Reg.rollCtrl := by decide +kernel

/-! Network units. -/

/-- A session descriptor of job 1 and session 7: FP32 single elements of one group, contributor 3 by frames, and where `loc` is
1 contributor 5 by LOCAL entry 0; KIND and sync byte given, with a wait of 16 slots. -/
def session (kind loc sync : Nat) : Bytes :=
  let at_ := fun (o n v : Nat) => v % 256 ^ n * 256 ^ o
  leBytes 1024 (1 + at_ 1 1 0x40 + at_ 4 2 1 + at_ 64 2 sync + at_ 66 2 (16 * (sync % 2)) + at_ 72 8 (8 * (sync % 2)) + at_ 80 8 (sync % 2)
    + at_ 129 1 1 + at_ 130 1 1 + at_ 131 1 kind + at_ 132 2 1 + at_ 134 2 1 + at_ 136 1 1 + at_ 144 2 7 + at_ 152 1 (if kind = 3 then 0 else 8)
    + loc * (at_ (256 + 16) 8 8 + at_ (256 + 25) 1 5 + at_ (256 + 26) 1 1 + at_ (256 + 30) 2 1))

/-- A walk over slot 3 of the roll with one target, bench 0 from its store slot 0 or the pool: one block. -/
def walk (kind sync : Nat) : Bytes :=
  let at_ := fun (o n v : Nat) => v % 256 ^ n * 256 ^ o
  leBytes 512 (1 + at_ 1 1 0x41 + at_ 4 2 1 + at_ 64 1 sync + at_ 66 2 (16 * (sync % 2)) + at_ 72 8 (8 * (sync % 2)) + at_ 80 8 (sync % 2)
    + at_ 129 1 1 + at_ 130 2 3 + at_ 132 4 9 + at_ 256 1 (4 + kind) + at_ 264 4 1)

/-- A selection among one score of one head, by VALUES. -/
def selection (heads sync : Nat) : Bytes :=
  let at_ := fun (o n v : Nat) => v % 256 ^ n * 256 ^ o
  leBytes 512 (1 + at_ 1 1 0x42 + at_ 4 2 1 + at_ 64 1 sync + at_ 128 1 1 + at_ 138 1 heads + at_ 140 4 1 + at_ 156 4 1 + at_ 176 8 0x80)

def work (d : Bytes) (st : NetStage) (reqs : List UReq) : NetWork :=
  { ctx := 0, desc := d, stage := st, seed := 0, started := 0, period := 7, lastRead := 0, scope := false, failed := none, reqs := reqs,
    target := 0, pos := 0, base := 0, sources := [], buf := [], contribs := [], held := [], endedAt := 0, mergeAt := 0 }

def unitWith (u : NetId) (w : NetWork) (s : State) : State := s.withNet { Net.reset with units := [(u.val, ⟨[w], 0, 0, 0⟩)] }

/-- The flag of an acquire has come back. -/
def flagBack (v : Nat) : UReq := answered .acquire 0 St.ok (leBytes 128 (v * 256 ^ 8))

theorem witness_NetworkUnitStarts :
    ((fires 1 []).firingNow 2 0 1).map (·.1) = [0] ∧ ((fires 1 []).netUnit 0).firedAt ≠ (fires 1 []).bell.ticks + 1
    ∧ (fires 1 []).netFree 0 = true ∧ (unitWith 12 (work (walk 0 0) .run []) (fires 1 [])).netFree 12 = false ∧ (fires 1 []).unitOffline 12 = false
    ∧ (fires 1 []).localBad (2 ^ 36) (netDescBytes 0) = false ∧ (fires 1 []).netRefusal 0 ((fires 1 []).localRead (2 ^ 36) 1024).1 = some St.format
    ∧ pooled.netRefusal 0 (session 1 1 1) = none ∧ odAcq (session 1 1 1) = true ∧ netKind 0 = 0 ∧ netKind 12 = 1 ∧ netKind 35 = 2
    ∧ pooled.netRefusal 12 (walk 0 1) = none ∧ pooled.netRefusal 24 (selection 1 1) = none
    ∧ rdSession (work (session 1 0 0) .run []).desc = 7 ∧ gdTargets (walk 0 1) = 1 ∧ (targetOf (walk 0 1) 0).kind = 0
    ∧ (rolling (pass5 .held) (context 0 0) heartbeat).targetSlots (walk 0 1) (targetOf (walk 0 1) 0) = (0, 1)
    ∧ (((unitWith 0 (work (session 1 1 1) .acquire [flagBack 1]) pooled).netUnit 0).works.find? (fun w => w.stage == .acquire && allBack w.reqs))
        = some (work (session 1 1 1) .acquire [flagBack 1])
    ∧ delivers (flagBack 1).status = true ∧ flagHolds (session 1 1 1) (flagBack 1).data = true ∧ flagHolds (session 1 1 1) (flagBack 0).data = false
    ∧ delivers (answered .acquire 0 St.media []).status = false ∧ field (session 1 1 0x101) 65 1 % 2 = 1 ∧ field (session 1 1 1) 65 1 % 2 = 0
    ∧ (work (session 1 1 1) .acquire []).started + odWait (session 1 1 1) ≤ (benchOf Bench.reset 16).bell.ticks
    ∧ ¬ ((work (session 1 1 1) .acquire []).started + odWait (session 1 1 1) ≤ (benchOf Bench.reset 15).bell.ticks)
    ∧ (benchOf Bench.reset 7).bell.ticks < (work [] .acquire []).lastRead + 8 ∧ (work [] .acquire []).lastRead + 8 ≤ (benchOf Bench.reset 8).bell.ticks := by
  decide +kernel

/-- A CONTRIB of contributor 3 with its one element. -/
def contribFrame (period : Nat) : Frame :=
  let at_ := fun (o n v : Nat) => v % 256 ^ n * 256 ^ o
  frame { plain with opcode := 0x58, addr := 7, ak := true } (leBytes 36 (1 + at_ 2 1 3 + at_ 8 2 period + at_ 16 4 4 + at_ 22 2 1 + at_ 32 4 0x3F800000))

def contributed (period : Nat) : State := unitWith 0 (work (session 1 0 0) .run []) (atDrawer (contribFrame period))

def ended (st : Status) (d : Bytes) : NetWork := { work d .run [] with contribs := [(3, { Contrib.reset with rc := 1, data := [0, 0, 0, 0], ended := some st })] }

def deliverFrame (port : Nat) : Frame := frame { plain with opcode := 0x58, addr := BitVec.ofNat 64 port, ak := true } (leBytes 32 8)

theorem witness_ReduceSessions :
    (contributed 7).sw.passed.find? (fun p => p.frame.opcode == 0x58 && field p.frame.payload 0 1 == 1) = some (pass (contribFrame 7))
    ∧ bits (contribFrame 7).addr.toNat 23 16 % 12 = 0 ∧ Answerable (contributed 7) (contribFrame 7) 1
    ∧ ((atDrawer (contribFrame 7)).netUnit 0).works = []
    ∧ ((contributed 7).netUnit 0).works.find? (fun w => w.failed.isNone && rdSession w.desc == (contribFrame 7).addr.toNat % 65536
        && odJob w.desc == (contribFrame 7).job) = some (work (session 1 0 0) .run [])
    ∧ field (contribFrame 7).payload 8 2 = (work (session 1 0 0) .run []).period.toNat ∧ field (contribFrame 6).payload 8 2 ≠ (work [] .run []).period.toNat
    ∧ field (contribFrame 7).payload 1 1 < rdGroups (session 1 0 0) ∧ rdExpects (session 1 0 0) (field (contribFrame 7).payload 2 1) = true
    ∧ ((work (session 1 0 0) .run []).contrib 3).ended = none ∧ field (contribFrame 7).payload 4 1 = 0
    ∧ field (contribFrame 7).payload 16 4 = contribSize (session 1 0 0) (field (contribFrame 7).payload 22 2)
    ∧ field (contribFrame 7).payload 12 4 = ((work (session 1 0 0) .run []).contrib 3).data.length
    ∧ ((contribFrame 7).payload.drop 32).length ≤ field (contribFrame 7).payload 16 4
    ∧ (work (session 1 1 0) .run []).unready.map (·.1) = [0] ∧ 0 + 8 ≤ (benchOf Bench.reset 8).bell.ticks
    ∧ field (answered (.flag 0) 0 St.ok (leBytes 128 (256 ^ 8))).data ((localEntry (session 1 1 0) 0).flag % 128) 8 ≠ 0
    ∧ ((locals (session 1 1 0)).find? (fun p => [0].contains p.1 && ((work (session 1 1 0) .run []).contrib (contribKey p.2.group p.2.contrib)).ended.isNone
        && allBack (entryReqs [answered (.data 0 0) 0 St.ok []] p.1))).map (·.1) = some 0
    ∧ (ended St.ok (session 1 0 0)).missing = [] ∧ (ended St.ok (session 1 0 0)).stage = .run
    ∧ (((contributors (session 1 0 0)).mergeSort (fun a b => decide (a ≤ b))).findSome? (fun k =>
        (((ended St.media (session 1 0 0)).contrib k).ended).bind (fun st => if st == St.ok then none else some st))) = some St.media
    ∧ (((contributors (session 1 0 0)).mergeSort (fun a b => decide (a ≤ b))).findSome? (fun k =>
        (((ended St.ok (session 1 0 0)).contrib k).ended).bind (fun st => if st == St.ok then none else some st))) = none
    ∧ rdKind (session 1 0 0) = 1 ∧ rdKind (session 2 0 0) = 2 ∧ rdGroups (session 2 0 0) ≠ 0 ∧ rdKind (session 3 1 0) = 3
    ∧ (pooled.relayAsks { work (session 3 1 0) .run [] with contribs := [(5, { Contrib.reset with rc := 1, data := [0, 0, 0, 0], ended := some 0 })] }).length = 1
    ∧ (work (session 1 0 0) .merge []).mergeAt + (work (session 1 0 0) .merge []).mergeSlots
        ≤ (benchOf Bench.reset (work (session 1 0 0) .merge []).mergeSlots).bell.ticks
    ∧ (pooled.sessionAsks 0 { ended St.ok (session 1 0 0) with stage := .merge }).length = 1
    ∧ (pooled.sessionAsks 0 { ended St.ok (session 0 0 0) with stage := .merge }).length = 0 ∧ odRel (session 0 0 0) = false ∧ pooled.mort.tags = []
    ∧ (work (session 1 0 0) .run []).missing = [3]
    ∧ (work (session 1 0 0) .run []).started + pooled.deadlineOf (session 1 0 0) ≤ (benchOf Bench.reset (pooled.deadlineOf (session 1 0 0))).bell.ticks
    ∧ (passing (deliverFrame 1)).sw.passed.find? (fun p => p.frame.opcode == 0x58 && field p.frame.payload 0 1 == 8)
        = some ⟨deliverFrame 1, 1, 0, some 0, 0, none, 0⟩
    ∧ portOf ((deliverFrame 1).addr.toNat % 256) = some 1 ∧ (passing (deliverFrame 1)).role 1 = 1 ∧ (passing (deliverFrame 1)).portActive 1 = true
    ∧ ((passing (deliverFrame 1)).admitSlot 1 1).isSome = true ∧ (passing (deliverFrame 2)).role 2 ≠ 1 := by decide +kernel

def walking (kind : Nat) (what : UWhat) (st : Status) (data : Bytes) : NetWork := work (walk kind 0) .run [answered what 0 st data]

def walkState (w : NetWork) : State := unitWith 12 w (rolling (pass5 .held) (BitVec.ofNat 1024 (2 ^ 128) ||| context 0 0) heartbeat)

theorem witness_WalksAndSelections :
    ([(0, UWhat.list), (0, .table), (0, .plank), (1, .plank)].all (fun p =>
      ((walkState (walking p.1 p.2 St.ok (List.replicate 128 0))).netUnit 12).works.find? (walkState (walking p.1 p.2 St.ok (List.replicate 128 0))).walkDue
        == some (walking p.1 p.2 St.ok (List.replicate 128 0)))) = true
    ∧ firstNotOk (walking 0 .list St.ok []).reqs = none ∧ firstNotOk (walking 0 .plank St.tableGen []).reqs = some St.tableGen
    ∧ expansionFailure St.tableGen = true ∧ expansionFailure St.media = false ∧ (targetOf (walk 0 0) 0).kind = 0 ∧ (targetOf (walk 1 0) 0).kind = 1
    ∧ gdKind (walk 0 0) = 0 ∧ field (leBytes 128 0xFFFFFFFF) ((field (walk 0 0) 144 8 + 4 * (field (walk 0 0) 140 4 * 0 + 0 + 0)) % 128) 4 = 0xFFFFFFFF
    ∧ (walkState (walking 0 .list St.ok [])).resolveBlock 64 (gdSlot (walk 0 0)) 0 = some (3, 0)
    ∧ (walkState (walking 0 .list St.ok [])).inShape 3 (gdLayer (walk 0 0)) (gdHead0 (walk 0 0) + (targetOf (walk 0 0) 0).head) = true
    ∧ bits (field (leBytes 128 (2 ^ 48 + 1)) 0 8) 63 48 ≠ pooled.swNum.toNat ∧ bits (field (leBytes 128 (32768 + 1)) 0 8) 63 48 = pooled.swNum.toNat
    ∧ field (leBytes 128 (32768 + 1)) 0 8 % 4 = 1 ∧ field (leBytes 128 32768) 0 8 % 4 ≠ 1
    ∧ (((unitWith 12 { work (walk 0 0) .run [] with failed := some St.media } pooled).netUnit 12).works.find? (fun w => w.stage == .run && allBack w.reqs
        && (w.failed.isSome || (w.reqs.isEmpty && decide (gdTargets w.desc ≤ w.target))))) = some { work (walk 0 0) .run [] with failed := some St.media }
    ∧ (((unitWith 12 { work (walk 0 2) .run [] with target := 1 } pooled).netUnit 12).works.find? (fun w => w.stage == .run && allBack w.reqs
        && (w.failed.isSome || (w.reqs.isEmpty && decide (gdTargets w.desc ≤ w.target))))) = some { work (walk 0 2) .run [] with target := 1 }
    ∧ odRel (walk 0 2) = true ∧ odRel (walk 0 0) = false ∧ netKind 24 = 2
    ∧ ((unitWith 24 (work (selection 1 0) .run [answered (.data 0 0) 0x80 St.ok (leBytes 128 0x3F800000)]) pooled).netUnit 24).works.find?
        (fun w => w.stage == .run && allBack w.reqs) = some (work (selection 1 0) .run [answered (.data 0 0) 0x80 St.ok (leBytes 128 0x3F800000)])
    ∧ fdHeads (selection 1 0) ≠ 0 ∧ fdKind (selection 1 0) = 1 ∧ fdHeads (selection 0 0) = 0 ∧ odRel (selection 0 0) = false := by decide +kernel

/-! The prefix index. -/

def prefixFrame (sub n : Nat) : Frame :=
  let at_ := fun (o k v : Nat) => v % 256 ^ k * 256 ^ o
  frame { plain with opcode := 0x58, ak := true } (leBytes 32 (sub + at_ 2 2 n + at_ 4 4 1 + at_ 8 2 3 + at_ 12 4 9 + at_ 16 8 0x1234))

/-- The index has buckets, and the context of slot 3 is closed and frozen with 16 tokens. -/
def indexed (f : Frame) (pfx : Tab (BitVec 128)) : State :=
  (rolling { pass5 .closed with frozen := true, committed := 16 } (context 0 0) f).withNet { Net.reset with pfxLog2 := 4, pfx := pfx }

theorem witness_PrefixIndex :
    (indexed (prefixFrame 0x10 1) []).sw.passed.find? (fun p => p.frame.opcode == 0x58 && field p.frame.payload 0 1 == 0x10) = some (pass (prefixFrame 0x10 1))
    ∧ (indexed (prefixFrame 0x11 1) []).sw.passed.find? (fun p => p.frame.opcode == 0x58 && field p.frame.payload 0 1 == 0x11) = some (pass (prefixFrame 0x11 1))
    ∧ Answerable (indexed (prefixFrame 0x10 1) []) (prefixFrame 0x10 1) 1 ∧ field (prefixFrame 0x11 1).payload 2 2 = 1
    ∧ (indexed (prefixFrame 0x11 1) []).net.pfxLog2 ≠ 0 ∧ pooled.net.pfxLog2 = 0
    ∧ (indexed (prefixFrame 0x11 1) []).contextOk (field (prefixFrame 0x11 1).payload 8 2 % 32768) (field (prefixFrame 0x11 1).payload 12 4) 1 = true
    ∧ ((indexed (prefixFrame 0x11 1) []).rollLive 3).state = .closed ∧ ((indexed (prefixFrame 0x11 1) []).rollLive 3).frozen = true
    ∧ 1 ≤ field (prefixFrame 0x11 1).payload 4 4 ∧ field (prefixFrame 0x11 1).payload 4 4 * 16 ≤ ((indexed (prefixFrame 0x11 1) []).rollLive 3).committed
    ∧ (indexed (prefixFrame 0x11 1) []).pxFind ((indexed (prefixFrame 0x11 1) []).pxBucket 0x1234 1) 0x1234 1 = none
    ∧ ((indexed (prefixFrame 0x11 1) [(16 * (indexed (prefixFrame 0x11 1) []).pxBucket 0x1234 1, pxEntry 0x1234 1 3 9 1)]).pxFind
        ((indexed (prefixFrame 0x11 1) []).pxBucket 0x1234 1) 0x1234 1) = some (pxEntry 0x1234 1 3 9 1)
    ∧ (indexed (prefixFrame 0x11 1) []).pxLive (pxEntry 0x1234 1 3 9 1) = true ∧ pxDepth (pxEntry 0x1234 1 3 9 1) = 1 ∧ pxDepth 0 = 0
    ∧ ((List.range (field (prefixFrame 0x10 1).payload 2 2)).map (pxArg (prefixFrame 0x10 1))) = [0x1234]
    ∧ Reaches pooled .a Reg.netCtrl ∧ pooled.net.units.wf (fun _ => NetUnit.reset) = true := by decide +kernel

/-- Every listed entry is live in an index without one. -/
theorem witness_PrefixIndex_live (i : Nat) : pxDepth (Tab.get 0 (indexed (prefixFrame 0x10 1) []).net.pfx i) = 0 := by
  have h : (indexed (prefixFrame 0x10 1) []).net.pfx = [] := rfl
  rw [h]
  exact (by decide : pxDepth 0 = 0)

/-! The veneer. -/

/-- Slot 0 of stream 0: FP32 with RMAX 1, all zero, with references. -/
def basis (refs : Nat) : BasisSlot :=
  { state := .resident, shape := 8, rmax := 1, cols := 128, tag := 5, refs := refs, check := 0x1234, loaded := 0, table := [], gen := true }

/-- A veneered plank of that slot: rank 1, no residue. -/
def veneered : Bytes := venBytes (basis 0) 0 0 8 1 0 #[] 1 []

/-- Work of a plank at a stage. -/
def coding (st : Stage) (goal : Goal) (data : Bytes) (slot : Option (Nat × Nat)) : Work :=
  { promotion with stage := st, goal := goal, data := data, ven := true, slot := slot, obj := 8 <<< 108,
                   old := { flashEntry with ven := true } }

def veneering (w : Work) (refs : Nat) : State :=
  let s := tiered flashEntry [w]
  s.withPool { s.pool with slots := [(slotKey 0 0, basis refs)] }

def basisDesc (type g : Nat) : Desc := desc [(1, 1, type), (17, 1, g), (18, 1, if type = 0x20 then 8 else 0), (19, 1, if type = 0x20 then 1 else 0),
  (20, 2, if type = 0x20 then 5 else 0)]

theorem witness_VeneerCommands :
    (veneering (coding .compress .demote [] none) 0).nextWork 0 .compress = some (coding .compress .demote [] none)
    ∧ (veneering (coding .compress .demote [] none) 0).pool.works = [coding .compress .demote [] none]
    ∧ (veneering (coding .compress .demote [] none) 0).venCode [] (8 <<< 108) none = .declined 1
    ∧ (veneering (coding .expand .promote veneered none) 0).nextWork 0 .expand = some (coding .expand .promote veneered none)
    ∧ (veneering (coding .expand .promote veneered none) 0).venRefusal veneered (coding .expand .promote veneered none).lenOk 8 = none
    ∧ (veneering (coding .expand .promote [] none) 0).venRefusal [] (coding .expand .promote [] none).lenOk 8 = some (St.format, 5)
    ∧ (veneering (coding .expand .promote veneered none) 0).storesCoded (coding .expand .promote veneered none) = false
    ∧ (veneering (coding .expand .store veneered none) 0).storesCoded { coding .expand .store veneered none with obj := (8 <<< 108) ||| (2 <<< 106) } = true
    ∧ pooled.mort.served = [] ∧ pooled.fault.running = []
    ∧ ([0x20, 0x21, 0x22, 0x23].all (fun t => decide (Starts (waits pooled (basisDesc t 0)) .a 0 t (basisDesc t 0))
        && ((waits pooled (basisDesc t 0)).sqInFlight .a 0).all (fun e => !e.started))) = true
    ∧ dField (basisDesc 0x20 0) 18 1 = 8 ∧ dField (basisDesc 0x20 0) 19 1 = 1 ∧ dField (basisDesc 0x20 0) 20 2 ≠ 0 ∧ veneerShape 8 = true
    ∧ ¬ (bGen (basisDesc 0x20 4) ≤ 3 ∨ bGen (basisDesc 0x20 4) = 0xFF) ∧ bGen (basisDesc 0x22 0xFF) = 0xFF
    ∧ pooled.slotForWrite 0 0 = some 0 ∧ (veneering (coding .compress .demote [] none) 1).slotForWrite 0 0 = none
    ∧ (pooled.slot 0 0).state ≠ .resident ∧ ((veneering (coding .compress .demote [] none) 0).slot 0 0).state = .resident
    ∧ ((veneering (coding .compress .demote [] none) 1).slot 0 0).refs ≠ 0 ∧ (tableCodes (0x80#8 :: 0x7F#8 :: [])).toList = [0x7F80]
    ∧ ¬ (∃ c ∈ (tableCodes []).toList, 0x7F7F < c % 32768) ∧ Reaches pooled .a Reg.venCtrl := by decide +kernel

/-! Rings. -/

/-- SQ 0 and CQ 0 of host A are enabled, 16 entries each, with the given tail of the SQ; the other set in a state. -/
def ringsUp (tail : Word) (b : RingState) : State :=
  (((run.wr (Reg.sqCfg 0 0) 0x80000004).wr (ringCfg .a 0) 0x80000004).wr (Reg.sqTail 0 0) tail).withHost .b { side with ring := b }

theorem witness_HostRings :
    (ringsUp 1 .active).answers ((ringsUp 1 .active).setOwner .a) = true ∧ run.boot.state ≠ .off
    ∧ (15 < ringSize ((ringsUp 0 .active).rd (Reg.sqCfg 0 0)) ∧ (0 + 16 - 0) % 16 + (15 + 16 - 0) % 16 < 16)
    ∧ ¬ (16 < ringSize ((ringsUp 0 .active).rd (Reg.sqCfg 0 0)))
    ∧ (0 < ringSize ((ringsUp 0 .active).rd (ringCfg .a 0)) ∧ (0 + 16 - 0) % 16 ≤ (ringsUp 0 .active).ringFill .a 0)
    ∧ ¬ ((1 + 16 - 0) % 16 ≤ (ringsUp 0 .active).ringFill .a 0)
    ∧ ringRegOf (Reg.sqCfg 0 0) = some ⟨.a, 0, 0, 2⟩ ∧ Reaches run .b (Reg.sqCfg 0 0) ∧ (run.host .a).ring ≠ .quiesced
    ∧ ringEnabled ((ringsUp 0 .active).rd ((⟨.a, 0, 0, 2⟩ : RingReg).base + 8)) = true ∧ ringEnabled (run.rd ((⟨.a, 0, 0, 2⟩ : RingReg).base + 8)) = false
    ∧ (run.host .a).held = [] ∧ ((ringsUp 0 .quiesced).host .b).ring = .quiesced
    ∧ (ringsUp 1 .active).nextSq .a = some 0 ∧ ((ringsUp 1 .active).host .a).flight = []
    ∧ descRefusal (desc [(1, 1, 0x01)]).bytes = none ∧ descRefusal (List.replicate 64 0) = some St.format
    ∧ ((run.withHost .a { side with unsig := [(64, (1, 0))] }).host .a).unsig.get (0, 0) 64 = (1, 0)
    ∧ bits ((run.wr (ringCfg .a 64) 0x40).rd (ringCfg .a 64)).toNat 13 6 = 1 ∧ 0 + 1 ≤ (late Bell.reset 1).bell.bounds
    ∧ Starts (waits run (desc [(1, 1, 0x01)])) .a 0 0x01 (desc [(1, 1, 0x01)]) ∧ Reaches run .a (Reg.hostCtrl 0) := by decide +kernel

def takeDesc (give : Nat) : Desc := desc [(1, 1, 0x02), (16, 1, give), (20, 4, 3)]

def taking (a b : RingState) (give : Nat) : State :=
  (run.withHost .a { side with ring := a, flight := [takeDesc give] }).withHost .b { side with ring := b }

/-- A TAKEOVER of host A waits. -/
def waitingTake (give : Nat) : State :=
  (run.withHost .a { side with flight := [{ takeDesc give with started := true }] }).withHost .b { side with ring := .quiescing }

def launchDesc (b : Nat) : Desc := desc [(1, 1, 0x28), (16, 2, b)]
def fabricDesc (op : Nat) : Desc := desc [(1, 1, 0x29), (16, 1, op)]

/-- Window 0 of host A is valid toward this switch. -/
def windowed : State := run.wr (Reg.hostBar4WinLo 0 0) 1

def access (k : Bar4Kind) (st : Status) : Bar4 := ⟨0, k, 0, 5, 4, 0, [some (st, [1, 2, 3, 4])]⟩

theorem witness_HostRequests :
    (taking .active .quiesced 0).descServed = true ∧ (taking .active .quiesced 0).startable .a 0 (isTakeover false) = some (takeDesc 0)
    ∧ ((taking .active .quiesced 0).host .b).ring = .quiesced ∧ ((taking .adopted .active 0).host .a).ring = .adopted
    ∧ ((taking .active .active 0).host .b).dlUp = true ∧ ((taking .active .active 0).host .b).perst = false
    ∧ ((taking .active .quiescing 0).host .b).ring = .quiescing
    ∧ (taking .active .adopted 1).startable .a 0 (isTakeover true) = some (takeDesc 1) ∧ ((taking .active .adopted 1).host .b).ring = .adopted
    ∧ ((taking .active .active 1).host .b).ring ≠ .adopted
    ∧ (waitingTake 0).waitingTakeover .a false = some { takeDesc 0 with started := true }
    ∧ (takeDesc 0).startedAt + dField (takeDesc 0) 20 4 ≤ (late Bell.reset 3).bell.bounds ∧ (late Bell.reset 2).bell.bounds < (takeDesc 0).startedAt + dField (takeDesc 0) 20 4
    ∧ ((waitingTake 0).host .b).ring = .quiescing ∧ ((waitingTake 0).host .b).flight = []
    ∧ (waitingTake 1).waitingTakeover (other .b) true = some { takeDesc 1 with started := true } ∧ (waitingTake 0).waitingTakeover (other .b) true = none
    ∧ run.powered = true ∧ (run.host .a).dlUp = true ∧ (run.host .a).ring = .active ∧ run.setOwner .a = .a
    ∧ Starts (waits run (launchDesc 167)) .a 0 0x28 (launchDesc 167) ∧ dField (launchDesc 168) 16 2 = 168 ∧ dField (launchDesc 0xFFFF) 16 2 = 0xFFFF
    ∧ BitVec.ofNat 12 (dField (launchDesc 0) 18 2) = run.swNum ∧ run.mort.tags = []
    ∧ ([0x40, 0x50, 0x58, 0x30].all (fun op => decide (Starts (waits run (fabricDesc op)) .a 0 0x29 (fabricDesc op)))) = true
    ∧ dField (fabricDesc 0x40) 22 2 ≤ 1024 ∧ dField (fabricDesc 0x40) 32 8 % 64 = 0 ∧ dField (fabricDesc 0x40) 40 8 % 64 = 0
    ∧ [0x08, 0x10, 0x11, 0x12, 0x13, 0x20, 0x29].contains (dType (fabricDesc 0x40)) = true ∧ run.tt.armed = none
    ∧ windowed.answers .a = true ∧ windowed.staging = false ∧ windowed.boot.state ≠ .off ∧ windowed.echoes .a = false
    ∧ (windowed.window .a 0).isSome = true ∧ (run.window .a 0).isNone = true ∧ (pieces 126 4).map (·.1) = [126, 128]
    ∧ (inBoot .recoveryWait).staging = true ∧ (inBoot .recoveryWait).answers .a = true ∧ (inBoot .recoveryWait).boot.claim = none
    ∧ (leBytes 8 1).length = 8 ∧ (leBytes 16 1).length = 16
    ∧ [access .read St.ok].find? (bar4Ready [access .read St.ok]) = some (access .read St.ok) ∧ (access .write St.ok).kind = .write
    ∧ delivers (bar4Status (access .read St.ok)) = true ∧ delivers (bar4Status (access .atomic St.timeout)) = false := by decide +kernel

/-! Security. -/

def secDesc (sub arg len max : Nat) : Desc := desc [(1, 1, 0x38), (16, 1, sub), (17, 1, arg), (20, 4, len), (40, 4, max)]

/-- A state in which the request is next to start. -/
def asks (d : Desc) : State := waits run d

def picks (d : Desc) (sub : Nat) : Bool := (asks d).descServed && decide ((asks d).startable .a 0 (isSec sub) = some d)

/-- A tagged request of the fabric manager whose tag verifies under a key. -/
def signedDesc (k : Bytes) (sub arg len count : Nat) : Desc :=
  let head := byteRun (secDesc sub arg len 0).bytes 0 40 ++ leBytes 8 count
  { secDesc sub arg len 0 with
    bytes := head ++ leBytes 16 (Config.gmac128 (BitVec.ofNat 256 (field k 0 32)) (byteRun k 32 4 ++ leBytes 8 count) head).toNat }

/-- Host A holds the role, and its request waits. -/
def holdsRole (d : Desc) (role : Bool) : State :=
  run.withHost .a { side with flight := [d], fm := { FmSession.reset with role := role, reqCount := 7 } }

theorem witness_SecurityRequests :
    (picks (secDesc 1 0 0 6400) 1 && picks (secDesc 1 0 0 6399) 1 && picks (secDesc 2 0 32 0) 2 && picks (secDesc 2 0 31 0) 2
      && picks (secDesc 3 5 1 0) 3 && picks (secDesc 3 7 4096 0) 3 && picks (secDesc 3 4 4097 0) 3 && picks (secDesc 0x10 0 1599 9280) 0x10
      && picks (secDesc 0x10 0 1600 9279) 0x10 && picks (secDesc 0x11 0 1312 32) 0x11 && picks (secDesc 0x12 0 0 0) 0x12
      && picks (secDesc 0x13 3 0 0) 0x13) = true
    ∧ (run.report .a []).length = 672
    ∧ (5 ≤ dField (secDesc 3 7 4096 0) 17 1 ∧ dField (secDesc 3 7 4096 0) 20 4 ≤ 4096) ∧ dField (secDesc 3 4 4097 0) 17 1 < 5
    ∧ (if run.entropyOk = true ∧ 1600 ≤ 1599 then run.checkChain [] 5 else ChainResult.bad) = .bad
    ∧ (run.wr Reg.secStatus 2).entropyOk = true ∧ (asks (secDesc 0x11 0 1312 32)).hostA.fm.opened = false
    ∧ ((asks (secDesc 0x12 0 0 0)).host .a).fm.role = false ∧ dField (secDesc 0x13 3 0 0) 17 1 = 3
    ∧ ((holdsRole (secDesc 0x12 0 0 0) true).host .a).fm.role = true ∧ ¬ (7 < dField (secDesc 0x12 0 0 0) 40 8)
    ∧ Reaches run .a Reg.secLock ∧ Reaches run .a Reg.secCtrl ∧ run.locked = false ∧ bit (1 : Word) 0 = true := by decide +kernel

theorem length_leBytes (n v : Nat) : (leBytes n v).length = n := by
  induction n generalizing v with
  | zero => rfl
  | succ n ih => simp [leBytes, ih]

theorem length_byteRun (b : Bytes) (i n : Nat) : (byteRun b i n).length = n := by
  simp [byteRun]

theorem field_at (a b c : Bytes) (n v : Nat) (ha : a.length = n) (hb : b.length = 16) (hv : leNat b = v) : field (a ++ b ++ c) n 16 = v := by
  rw [field, List.append_assoc, List.drop_append_of_le_length (by omega), show a.drop n = [] by simp [ha], List.nil_append,
    List.take_append_of_le_length (by omega), List.take_of_length_le (by omega), hv]

theorem byteRun_front (a b : Bytes) (n : Nat) (ha : a.length = n) : byteRun (a ++ b) 0 n = a := by
  simp [byteRun, ← ha]

theorem signed_tag (k : Bytes) (sub arg len count : Nat) :
    Config.gmac128 (BitVec.ofNat 256 (field k 0 32)) (byteRun k 32 4 ++ leBytes 8 count) (byteRun (signedDesc k sub arg len count).bytes 0 48)
      = BitVec.ofNat 128 (dField (signedDesc k sub arg len count) 48 16) := by
  have hl : (byteRun (secDesc sub arg len 0).bytes 0 40 ++ leBytes 8 count).length = 48 := by
    rw [List.length_append, length_leBytes, length_byteRun]
  rw [dField, signedDesc]
  simp only
  rw [byteRun_front _ _ 48 hl, ← List.append_nil (_ ++ leBytes 16 _),
    field_at _ _ [] 48 _ hl (length_leBytes _ _) (leNat_leBytes _ _), Nat.mod_eq_of_lt (by exact (BitVec.isLt _)), BitVec.ofNat_toNat]
  simp

theorem witness_SecurityRequests_fresh (k : Bytes) :
    Config.gmac128 (BitVec.ofNat 256 (field k 0 32)) (byteRun k 32 4 ++ leBytes 8 8) (byteRun (signedDesc k 0x12 0 0 8).bytes 0 48)
      = BitVec.ofNat 128 (dField (signedDesc k 0x12 0 0 8) 48 16) := signed_tag k 0x12 0 0 8

theorem witness_SecurityRequests_report :
    (run.report .a [] ++ byteRun (Config.falconSign Config.otpSeed (run.report .a []) (Config.freeValue 0)) 0 1280).length = 1952 := by
  rw [List.length_append, length_byteRun, show (run.report .a []).length = 672 by decide +kernel]

/-- The tagged request starts and its count is past the last one accepted. -/
theorem witness_SecurityRequests_count :
    ((holdsRole (signedDesc [] 0x13 1 191 8) true).startable .a 0 (isSec 0x13) = some (signedDesc [] 0x13 1 191 8))
    ∧ ((holdsRole (signedDesc [] 0x12 0 0 8) true).startable .a 0 (isSec 0x12) = some (signedDesc [] 0x12 0 0 8))
    ∧ 7 < dField (signedDesc [] 0x12 0 0 8) 40 8 ∧ dField (signedDesc [] 0x13 1 191 8) 17 1 ≤ 2
    ∧ (holdsRole (signedDesc [] 0x13 1 191 8) true).sw.samples.length = 0 ∧ ([] : List Bytes).flatten.length + 32 ≤ 191
    ∧ (dField (signedDesc [] 0x13 1 31 8) 20 4 < ([] : List Bytes).flatten.length + 32) :=
  ⟨by rfl, by rfl, by decide +kernel, by decide +kernel, by decide +kernel, by decide, by decide +kernel⟩

/-! Fences and maintenance. -/

def faulty (f : Faults) : State := run.withFault f

def maintDesc (act kind unit arg : Nat) : Desc := desc [(1, 1, 0x30), (16, 1, act), (17, 1, kind), (18, 2, unit), (24, 8, arg)]

def maintForm (d : Desc) : Bool :=
  decide (dField d 16 1 < 10) && decide (dField d 17 1 < 16) && maintFits (dField d 16 1) (dField d 17 1) (dField d 18 2) (dField d 24 8)

/-- Port 0 has a recess of a width of slots that opens at slot 0. -/
def recessed (slots : Nat) (slot : BitVec 8) (f : Faults) : State :=
  ((locked 0 slot).withTt { Timetable.reset with bank0 := [(0, BitVec.ofNat 128 ((slots - 1) * 65536 + 65))] }).withFault f

def asked (as : List Activity) (rs : List Activity) : Faults := { Faults.reset with waiting := as, running := rs }

/-- A rotation, which asks as a recess class does not. -/
def patrol : Activity := activity 1 2

theorem witness_FencesAndMaintenance :
    Reaches run .a Reg.faultFenceSetLo ∧ run.isFenced 63 = false ∧ Reaches run .b Reg.faultLiftLo
    ∧ ({ Faults.reset with fencePend := [(63, 1)] } : Faults).fencePend.get 0 63 ≤ (faulty { Faults.reset with fencePend := [(63, 1)] }).bell.bounds + 1
    ∧ (late Bell.reset 1).bell.bounds = 1 ∧ run.fault.fencePend.get 0 63 = 0
    ∧ bits ((linked (link .active)).link 0).cfg.toNat 21 16 = 0 ∧ ((linked (link .disabled)).link 0).train = .disabled
    ∧ ((linked (link .loopback)).link 0).train = .loopback ∧ ((linked { link .disabled with looped := true }).link 0).looped = true
    ∧ (faulty { Faults.reset with fenced := 1 }).isFenced 0 = true ∧ (faulty { Faults.reset with fenced := 1 }).liftBarred 0 = false
    ∧ pooled.liftBarred 0 = true ∧ ((linked (link .fenced)).link 0).train = .fenced
    ∧ bits ((withCfg (linked (link .fenced)) agentCfg).rd (Reg.portCfg (LinkId.port 0).val)).toNat 21 16 = 0
    ∧ Reaches run .a (offlineReg 0) ∧ Reaches run .b (offlineReg 6) ∧ Reaches run .b (offlineReg 7) := by decide +kernel

theorem witness_FencesAndMaintenance_activities :
    Starts (waits run (maintDesc 1 2 7 0)) .a 0 0x30 (maintDesc 1 2 7 0) ∧ maintForm (maintDesc 1 2 7 0) = true
    ∧ maintForm (maintDesc 1 2 8 0) = false ∧ maintForm (maintDesc 5 8 1 0) = false ∧ maintForm (maintDesc 3 3 31 0) = true
    ∧ (run.tray 31).state ≠ .live ∧ (run.tray 31).state ≠ .full ∧ maintForm (maintDesc 7 1 191 0x10000) = true
    ∧ maintForm (maintDesc 7 1 191 1) = true ∧ run.unitFenced (activity 7 1) = true ∧ (linked (link .active)).unitFenced (activity 7 1) = false
    ∧ (linked (link .active)).recessRefused (activity 8 1) = true ∧ run.recessRefused patrol = false
    ∧ (recessed 31 0 Faults.reset).recessRefused (activity 7 1) = false
    ∧ ((recessed 31 0 Faults.reset).withLinks [(0, link .active)]).recessRefused (activity 8 1) = true
    ∧ ((recessed 32 0 Faults.reset).withLinks [(0, link .active)]).recessRefused (activity 8 1) = false
    ∧ ((recessed 1 0 Faults.reset).withLinks [(0, link .active)]).recessOpens (activity 7 1) = true
    ∧ (faulty (asked [patrol] [])).fault.waiting = [] ++ patrol :: [] ∧ patrol.pending = false ∧ recessClass 1 = false
    ∧ (faulty (asked [patrol] [])).blocker patrol = none ∧ (faulty (asked [patrol] [activity 7 2])).blocker patrol = some (activity 7 2)
    ∧ (faulty (asked [] [{ patrol with result := some St.ok }])).fault.running.find? (fun x => x.cls == 1 && x.kind == 2 && x.unit == 0
        && ((faulty (asked [] [{ patrol with result := some St.ok }])).activityResult x).isSome) = some { patrol with result := some St.ok }
    ∧ (faulty (asked [] [])).activityResult { patrol with result := some St.ok } = some St.ok
    ∧ (faulty (asked [{ patrol with pending := true }] [])).fault.waiting = [{ patrol with pending := true }]
    ∧ ({ patrol with desc := some (.a, 0) } : Activity).desc = some (.a, (maintDesc 1 2 7 0).id)
    ∧ ((waits run (maintDesc 1 2 7 0)).host .a).flight.find? (fun e => e.id == (maintDesc 1 2 7 0).id) = some (maintDesc 1 2 7 0)
    ∧ patrol.kind.val ≠ 8 ∧ patrol.kind.val ≠ 9 ∧ patrol.at_ + (late Bell.reset 65536).bell.len ≤ (late Bell.reset 65536).bell.bounds
    ∧ ((recessed 1 0 Faults.reset).covering 0 0 4).filter (fun q => ttFirst q.2 == (recessed 1 0 Faults.reset).bell.now.slot.toNat) ≠ []
    ∧ ((recessed 2 1 Faults.reset).covering 0 0 4).filter (fun q => ttFirst q.2 == (recessed 2 1 Faults.reset).bell.now.slot.toNat) = []
    ∧ activity 7 1 ∈ (recessed 1 0 (asked [] [activity 7 1])).fault.running ∧ (activity 7 1).progress = 0
    ∧ (recessed 1 0 (asked [activity 8 1] [])).fault.waiting = [activity 8 1] := by decide +kernel

/-! Power, resets and the boot. -/

def supplied (aux pwr held : Bool) (b : BootSt) : State := State.reset.withBoot { Boot.reset with auxGood := aux, pwrGood := pwr, held := held, state := b }

def resetDue (n : Nat) : State :=
  (run.withBoot { run.boot with pendReset := some ⟨.warm, 8, false, 0⟩ }).withBell { Bell.reset with ticks := n }

theorem witness_PowerAndResets :
    State.reset.boot.auxGood = false ∧ run.boot.auxGood = true ∧ (supplied true false false .auxOnly).mod.trip = false
    ∧ (supplied true false false .auxOnly).boot.state = .auxOnly ∧ (supplied true true false .auxOnly).boot.pwrGood = true
    ∧ (supplied true true false .auxOnly).boot.held = false ∧ (supplied true true true .auxOnly).boot.held = true
    ∧ Reaches run .a Reg.resetCtrl ∧ (0xA5C30001 : Word).extractLsb' 16 16 = 0xA5C3 ∧ (0xA5C20001 : Word).extractLsb' 16 16 ≠ 0xA5C3
    ∧ bit (0xA5C30004 : Word) 0 = false ∧ bit (0xA5C30004 : Word) 1 = false ∧ run.boot.pendReset = none
    ∧ (resetDue 125).boot.pendReset = some ⟨.warm, 8, false, 0⟩ ∧ 0 + 125 ≤ (resetDue 125).bell.ticks ∧ (resetDue 124).bell.ticks < 0 + 125
    ∧ run.powered = true ∧ State.reset.powered = false
    ∧ (run.withBoot { run.boot with claim := some .a }).boot.claim = some .a := by decide +kernel

def aged (b : BootSt) (ms : Nat) : State := (inBoot b).withBell { Bell.reset with ticks := ms * 125000 }

def claimed (b : BootSt) (len : Word) : State := ((inBoot b).withBoot { (inBoot b).boot with claim := some .a }).wr Reg.bootRecoveryLen len

def guardedBy (n : Nat) (seen : Bool) : State :=
  ((late Bell.reset n).withBoot { run.boot with wdogOn := true }).wr Reg.wdogStatus (if seen then 1 else 0)

theorem witness_BootSequence :
    (inBoot .romStart).boot.state = .romStart ∧ (inBoot .spiRead).boot.state = .spiRead ∧ (List.replicate 2047 (0 : Byte)).length < 2048
    ∧ (List.replicate 2048 (0 : Byte)).length = 2048 ∧ (inBoot .verify).boot.state = .verify ∧ imageCause (inBoot .verify).boot.image none ≠ 0
    ∧ Reaches run .a Reg.bootCtrl ∧ (inBoot .recoveryWait).boot.claim = none ∧ (claimed .recoveryWait 0).boot.claim = some .a
    ∧ ((claimed .recoveryWait 4194304).rd Reg.bootRecoveryLen).toNat ≤ 4194304 ∧ 4194304 < ((claimed .recoveryWait 4194305).rd Reg.bootRecoveryLen).toNat
    ∧ (inBoot .recoveryVerify).boot.state = .recoveryVerify
    ∧ imageCause (inBoot .recoveryVerify).boot.image (some ((inBoot .recoveryVerify).rd Reg.bootRecoveryLen).toNat) ≠ 0
    ∧ (inBoot .fwStart).boot.state = .fwStart ∧ (inBoot .keygen).boot.state = .keygen ∧ (inBoot .bist).boot.state = .bist
    ∧ (inBoot .linkTraining).bootLimit = some 200 ∧ 0 + 200 * 125000 ≤ (aged .linkTraining 200).bell.ticks
    ∧ (aged .keygen 199).bell.ticks < 0 + 200 * 125000 ∧ (inBoot .keygen).bootLimit = some 200
    ∧ (inBoot .configure).boot.state = .configure ∧ Reaches (inBoot .configure) .a Reg.bootCtrl
    ∧ (∀ l ∈ bothLinks 0, ((withCfg (inBoot .configure) agentCfg).link l).train = .disabled) ∧ (withCfg (inBoot .configure) agentCfg).isMember 0 = false
    ∧ bit ((withCfg (inBoot .configure) agentCfg).rd (Reg.portCfg 0)) 0 = true ∧ bits agentCfg.toNat 5 4 ≠ 0
    ∧ (withCfg (inBoot .configure) agentCfg).groupOk 0 = true ∧ (withCfg (inBoot .configure) agentCfg).isFenced (bits agentCfg.toNat 21 16) = false
    ∧ (withCfg (inBoot .configure) 0x311).groupOk 0 = false ∧ bits (0x311 : Word).toNat 5 4 ≠ 0
    ∧ (inBoot .linkTraining).trained = true ∧ ((inBoot .linkTraining).withLinks [(0, link .detect)]).trained = false
    ∧ ((inBoot .bellWait).withBell { Bell.reset with lock := .locked }).bell.lock = .locked ∧ (inBoot .bellWait).boot.state = .bellWait
    ∧ ((inBoot .bellWait).withBell { Bell.reset with bounds := 65536 }).boot.enteredBound + 65536 ≤ 65536
    ∧ Reaches run .a Reg.shutdownCtrl ∧ (0xA5C30001 : Word).extractLsb' 16 16 = 0xA5C3 ∧ 9 ≤ run.boot.state.code ∧ run.boot.state.code ≤ 14
    ∧ (inBoot .shutdown).boot.state = .shutdown ∧ 6 ≤ run.boot.state.code ∧ ¬ (6 ≤ (inBoot .romStart).boot.state.code)
    ∧ (guardedBy 1024 false).boot.wdogAt + 1024 * max 1 (bits ((guardedBy 1024 false).rd Reg.wdogCfg).toNat 15 0) ≤ (guardedBy (1024 * 65535) false).bell.bounds
    ∧ bit ((guardedBy 1024 true).rd Reg.wdogStatus) 0 = true ∧ bit ((guardedBy 1024 false).rd Reg.wdogStatus) 0 = false := by decide +kernel

/-! Self-test and the module. -/

/-- Port 0 loops at depth 3 and its request has arrived. -/
def echoing (f : Frame) : State :=
  (pooled.withLinks [(0, { link .active with looped := true, arriving := [arrives f 1] })]).withTest
    { Test.reset with lb := ⟨0, 3, true, false, false⟩ }

def sweep (deg reg : BitVec 8) : SensorSweep := ⟨[deg], [], reg, 45, 0, 0, 0, 0, 0⟩

def swept (n : Nat) : State := (late Bell.reset n).withMod { Module.reset with sweepAt := 1 }

theorem witness_TestsAndModule :
    Reaches run .a Reg.testLbCtrl ∧ (withCfg run agentCfg).loopRefused 0 3 = false ∧ (withCfg run 0x121).loopRefused 0 3 = true
    ∧ (run.withTest { Test.reset with lb := ⟨0, 1, true, false, false⟩ }).test.lb.running = true
    ∧ Reaches run .a Reg.testHlbCtrl ∧ run.test.hlb.running = false ∧ (HostPort.a ≠ .b) ∧ (2 : BitVec 2) ≠ 3 ∧ ¬ ((2 : BitVec 2).toNat < 2)
    ∧ ((echoing (frame plain [])).link 0).looped = true ∧ (echoing (frame plain [])).test.lb.depth = 3
    ∧ ((echoing (frame plain [])).link 0).arriving.find? (·.whole) = some (arrives (frame plain []) 1)
    ∧ (Frame.ofBytes (arrives (frame plain []) 1).bytes).isCpl = false ∧ (Frame.ofBytes (arrives reply 1).bytes).isCpl = true
    ∧ (arrives (frame plain []) 1).bytes.length = 36 + (Frame.ofBytes (arrives (frame plain []) 1).bytes).len
    ∧ (Frame.ofBytes (arrives (frame plain []) 1).bytes).checkOk = true ∧ (Frame.ofBytes (arrives (frame plain []) 1).bytes).fmtGen = 1
    ∧ requestRsvd (frame plain []) = false ∧ echoServed (frame plain []) = true ∧ ((echoing (frame plain [])).link 0).v09 = false
    ∧ misaligned (frame plain []) = false
    ∧ (match (echoing (frame plain [])).mortise (some ((echoing (frame plain [])).portPartition (LinkId.port 0))) (frame plain []).job (frame plain []).ak
        (requestExtent (frame plain [])).1 (requestExtent (frame plain [])).2 (opRights (frame plain [])) with | .pass _ _ _ => true | _ => false) = true
    ∧ (faulty (asked [] [{ activity 7 4 with progress := 1 }])).fault.running.find? (fun x => x.cls == 7 && x.kind == 4 && x.unit == 0
        && x.result.isNone && (faulty (asked [] [])).bistReady x) = some { activity 7 4 with progress := 1 }
    ∧ (recessed 32 31 (asked [] [activity 8 1])).fault.running.find? (fun x => x.cls == 8 && x.kind == 1 && x.unit == 0 && x.result.isNone) = some (activity 8 1)
    ∧ (recessed 32 31 Faults.reset).recalSlot 0 = true ∧ (recessed 31 30 Faults.reset).recalSlot 0 = false
    ∧ ((recessed 32 31 Faults.reset).withLinks [(0, { link .active with width := 2 })]).unitFenced (activity 8 1) = false
    ∧ (activity 8 1).progress + 1 < ((recessed 32 31 Faults.reset).withLinks [(0, { link .active with width := 3 })]).portLanes 0
    ∧ ((recessed 32 31 Faults.reset).withLinks [(0, { link .active with width := 0 })]).portLanes 0 ≤ { activity 8 1 with progress := 1 }.progress + 1
    ∧ Reaches run .a (Reg.trcCfg 3) ∧ bit (0x80000000 : Word) 31 = true ∧ scanHolds .extest = true ∧ scanHolds .idcode = false
    ∧ (supplied true true true .auxOnly).boot.held = true ∧ run.boot.held = false ∧ run.boot.pwrGood = true
    ∧ (swept 1024).mod.sweepAt + 1024 ≤ (swept 1024).bell.bounds + 1 ∧ ¬ ((swept 1023).mod.sweepAt + 1024 ≤ (swept 1023).bell.bounds)
    ∧ hottest (sweep 114 124).dies = 114 ∧ ¬ (115 ≤ hottest (sweep 114 124).dies ∨ 125 ≤ (sweep 114 124).regulator.toNat)
    ∧ 115 ≤ hottest (sweep 115 0).dies ∧ 125 ≤ (sweep 0 125).regulator.toNat
    ∧ ((run.withMod { Module.reset with trip := true }).wr Reg.telTjMax 84).mod.trip = true
    ∧ (((run.withMod { Module.reset with trip := true }).wr Reg.telTjMax 84).rd Reg.telTjMax).toNat < 85
    ∧ run.bell.now.slot = 0 ∧ run.mort.jobCopyAt ≠ run.bell.bounds + 1 ∧ run.mort.jobPower = 0 ∧ run.mort.jobLive.rising = true
    ∧ run.mod.powerAt + 4883 ≤ (late Bell.reset 4883).bell.bounds := by decide +kernel

/-! Terms that are not well formed, one for each check. -/

theorem refused_offset_not_a_word :
    (Instr.regWrite .a 2 0).wf = false ∧ (Instr.readLoLatch .a 5).wf = false ∧ (Instr.readHi .b 7).wf = false ∧ (Instr.writeLoHold .a 1 0).wf = false
    ∧ (Instr.writeHiApply .a 6 0).wf = false ∧ (Instr.errW1cClear .a 3 0).wf = false ∧ (Instr.ringCfgWrite .b 9 0).wf = false := by decide

theorem refused_high_word_at_zero : (Instr.readHi .a 0).wf = false ∧ (Instr.writeHiApply .b 0 0).wf = false := by decide

theorem refused_supported_access : (Instr.bar0UnsupportedAccess .a 8 4 true).wf = false ∧ (Instr.bar0UnsupportedAccess .a 8 0 true).wf = false := by decide

theorem refused_point_past_term : (Instr.timestampReceive 0 0 (some ⟨7, 99, 0, 100, false⟩)).wf = false := by decide

theorem refused_unit_that_is_absent :
    (Instr.recessStart 1 168).wf = false ∧ (Instr.recessStart 2 36).wf = false ∧ (Instr.watchRetry 0 192).wf = false
    ∧ (Instr.maintActivityAsk 7 2 8).wf = false ∧ (Instr.maintActivityEnd 7 1 192).wf = false ∧ (Instr.bist 3 0 true 0 0).wf = false := by decide

theorem refused_peer_without_kind : (Instr.versionDecide (0 : LinkId) { agent with kind := 0 }).wf = false := by decide

theorem refused_length :
    (Instr.configDone (0 : LinkId) []).wf = false ∧ (Instr.flitReceive (0 : LinkId) ⟨0, [], 0, 0⟩ 0 0).wf = false
    ∧ (Instr.descriptorFetch .a 0 []).wf = false ∧ (Instr.bar4Read .a 0 0 0).wf = false ∧ (Instr.bar4Read .a 0 4097 0).wf = false
    ∧ (Instr.bar4Write .a 0 [1] []).wf = false ∧ (Instr.bar4Atomic .a 0 0 [1, 2] 0).wf = false
    ∧ (Instr.sensorRead (sweep 40 40)).wf = false := by decide

theorem refused_payload_too_long (b : Bytes) (h : b.length = 65536) :
    (Instr.dirSnoopDeliver ⟨0, b, 0⟩).wf = false ∧ (Instr.trayCompletion 0 ⟨0, b, 0⟩).wf = false := by
  constructor <;> exact decide_eq_false (by rw [h]; omega)

theorem refused_image_past_the_flash (b : Bytes) (h : b.length = 4194305) : (Instr.spiReadDone b true).wf = false :=
  decide_eq_false (by rw [h]; omega)

/-! The manual's worked examples and published check values. -/

/-- What a command leaves, or the block unpowered. -/
def after (o : Host.Outcome State Fault Refusal) : State :=
  match o with
  | .next t => t
  | _ => State.reset

/-- The check values of CRC-32C and of CRC-64 of ECMA-182 over the digits 1 to 9. -/
theorem test_check_words :
    crc32c (ascii "123456789") = 0xE3069283 ∧ crc64 (ascii "123456789") = 0x6C40DF5F0B497347 := by decide +kernel

/-- The fault record of the manual's opening: (3, 1000, 128). -/
theorem test_stamp : BellTime.ofStamp 0x303E880 = ⟨3, 1000, 128⟩ := by decide +kernel

/-- Port 17's plank window: ACTION 2, slots 64 to 134, every fourth period from 2, class 1. -/
theorem test_window_entry :
    let e : BitVec 128 := 0x00000000000000010000020003864021
    ttAction e = 2 ∧ ttFirst e = 64 ∧ ttLast e = 134 ∧ ttClass e = 1 ∧ ttFires 0 e 2 = true ∧ ttFires 0 e 10 = true ∧ ttFires 0 e 4 = false := by
  decide +kernel

/-- TT_ARM in (7, 32700) of a ring whose term is 32,768, for (8, 0) at a length of 16,384: the point is (9, 0). -/
theorem test_effective_point :
    (after (exec (.ttArm .a 0) (waits ((run.withBell { Bell.reset with lock := .locked, master := true, len := 32768, now := ⟨7, 32700, 0⟩ }).withTt
      { Timetable.reset with activeLen := 32768 }) (desc [(1, 1, 9), (16, 4, 0x5A310C07), (20, 4, 16384), (24, 8, 0x8000000)])))).tt.ann
      = some ⟨0x5A310C07, 16384, 9, 0, false⟩ := by decide +kernel

/-- The count wraps from the last slot of a term to slot 0 of the next (R35). -/
theorem test_slot_wraps : (after (exec .bellSlotAdvance (locked 65535 255))).bell.now = ⟨1, 0, 0⟩ := by decide +kernel

/-- The line at STACK offset 0x23456780 lies in stack 6 at 0x0468AC80. -/
theorem test_stack_of_line : stackOf 0x23456780 = 6 ∧ stackOffset 0x23456780 = 0x0468AC80 ∧ stackAddr 6 0x0468AC80 = 0x23456780 := by decide +kernel

/-- The drawer entry and the job address entry of the host example. -/
theorem test_lent_drawer :
    let d : BitVec 128 := 0x000000A9D00002000000001080000001
    let j : BitVec 128 := 0x000000031201C0000000004000001001
    drwJob d = 0x2A7 ∧ drwState d = 1 ∧ drwSize d = 512 * 2 ^ 21 ∧ drwBase d = 0x1080000000
    ∧ jatDrawer j = 0x312 ∧ jatRights j = 7 ∧ jatBase j = 0x4000000000 ∧ jatSize j = 512 * 2 ^ 21 := by decide +kernel

/-- Without trays, the usable stack is 572 GiB and nothing is reserved for a map. -/
theorem test_session_without_trays :
    let t := after (exec .poolInitDone (inBoot .poolInit))
    t.rd64 Reg.scStackUsableLo = 0x8F00000000 ∧ t.rd64 Reg.scMapReserveLo = 0 ∧ t.rd64 Reg.scFlashManagedLo = 0 ∧ t.boot.state = .run := by
  decide +kernel

/-- The tray of the flash example manages 4,478 GiB, and its map takes 1,119.5 MiB. -/
theorem test_session_with_a_tray :
    let s := inBoot .poolInit
    let x := { Tray.reset with
      state := .ready, port := 8, units := 64, perBlock := 4096, total := 327680, initialBad := 2000
      blocks := (List.range 2000).map (fun i => (i, ⟨0, 0, .retired, 0⟩)) }
    let t := after (exec .poolInitDone (s.withPool { s.pool with trays := [(0, x)] }))
    t.rd64 Reg.scFlashManagedLo = 0x45F80000000 ∧ t.rd64 Reg.scMapReserveLo = 0x45F80000 ∧ (t.tray 0).state = .live := by decide +kernel

/-- DIR_PROBE of the line that agent 0x0050C holds (R294). -/
theorem test_probe_of_owner :
    ((((run.withDir { Directory.reset with entries := [(0x20008025, ⟨.exclusive, [0x0050C], none, 0⟩)] }).wr64 Reg.dirProbeAddrLo 0x0005001000401280).probeDir).rd64
      Reg.dirProbeEntryLo) = 0x100111000000050C
    ∧ ((((run.withDir { Directory.reset with entries := [(0x20008025, ⟨.recalling, [0x0050C], none, 0⟩)] }).wr64 Reg.dirProbeAddrLo 0x0005001000401280).probeDir).rd64
      Reg.dirProbeEntryLo) = 0x100191000000050C := by decide +kernel

/-- A queue at 0.25 flit a slot has the tokens of a flit after 4 slots, not after 3. -/
theorem test_shaper_paces :
    let s := queue (((locked 0 100).withLinks [(80, link .active)]).wr (Reg.shapeRate 9) 0x40 |>.wr (Reg.shapeBurst 9) 32 |>.wr (Reg.swShapeSel 40 5) 9)
      { entry 5 (.port 40) (request 1 0 []) with cls := 5 }
    let next := fun (t : State) => after (exec .bellSlotAdvance t)
    (next (next (next s))).sw.tokens.get 0 (vqKey 5 40 5) = 192 ∧ (next (next (next (next s)))).sw.tokens.get 0 (vqKey 5 40 5) = 256 := by decide +kernel

/-- WEAR_LEVEL of tray 3 is deferred for the GC_FLASH that runs on it, in (7, 100): the log entry reads 0x32300003, 0x00070064. -/
theorem test_deferral_is_logged :
    let a : Activity := { activity 3 3 with unit := 3 }
    let t := after (exec (.maintActivityAsk 3 3 3) (((run.withBell { Bell.reset with now := ⟨7, 100, 40⟩ }).withFault
      (asked [a] [{ activity 2 3 with unit := 3 }]))))
    t.rd (Reg.maintLogW0 0) = 0x32300003 ∧ t.rd (Reg.maintLogW1 0) = 0x00070064 ∧ t.rd Reg.maintDeferrals = 1 := by decide +kernel

/-- A job's count of 1,000,013 reads 1,000,000. -/
theorem test_view_rounds : viewCount 1000013 = 1000000 := by decide +kernel

/-- EXP and RCP of the bench example. -/
theorem test_exp_rcp :
    fExp 0xBF000000 = 0x3F1B4598 ∧ fExp 0xBF800000 = 0x3EBC5AB2 ∧ fRcp 0x3FFCB978 = 0x3F01A8B3 ∧ fMul 0x3F400000 0x3F01A8B3 = 0x3EC27D0C := by
  decide +kernel

/-- A request of RESET_CTRL without its code changes nothing; with it, RESET_CAUSE names the host and the kind. -/
theorem test_reset_needs_code :
    (after (exec (.resetWarm .b 0) run)).boot.pendReset = none
    ∧ (after (exec (.resetWarm .b 0xA5C30000) run)).boot.pendReset = some ⟨.warm, 0x208, false, 0⟩ := by decide +kernel

/-- The LO half of a pair waits for its HI half, and the pair then changes at once (R7). -/
theorem test_pair_is_written_at_once :
    let t := after (exec (.writeLoHold .a (BitVec.ofNat 25 Reg.dirProbeAddrLo) 0x80) run)
    let u := after (exec (.writeHiApply .a (BitVec.ofNat 25 Reg.dirProbeAddrHi) 5) t)
    t.rd64 Reg.dirProbeAddrLo = 0 ∧ u.rd64 Reg.dirProbeAddrLo = 0x500000080 := by decide +kernel


end Sys2Proof.Tests
end

/-! ## What every command does

Sitting 1, the family of 00_scope: the answer of every command, and what every step keeps. -/
namespace Sys2Proof.Machine

/-- The outcome is a next state. -/
def Answers (o : Host.Outcome State Fault Refusal) : Prop := ∃ t, o = .next t

theorem Answers.next (t : State) : Answers (.next t) := ⟨t, rfl⟩

theorem Answers.ite {p : Prop} [Decidable p] {a b : Host.Outcome State Fault Refusal} (ha : Answers a) (hb : Answers b) :
    Answers (if p then a else b) := by split <;> assumption

/-- Each meaning is a tree of tests on its operands and on the state, with a next state at every leaf. -/
theorem exec_answers (c : Instr) (s : State) : Answers (exec c s) := by
  cases c
  all_goals dsimp only [exec]
  all_goals
    delta
      execRegWrite execBar0UnsupportedAccess execReadLoLatch execReadHi execWriteLoHold execWriteHiApply execErrW1cClear
      execBellFrameReceive execTimestampSend execTimestampReceive execTtLoad execTtArm execTtCancel execStrandedDiscard
      execBankArm execBankSwitchOver execGateEntryFire execRecessStart execTtLaunchFire execTtStartFire execPortCfgWrite
      execPortRetrain execPortDisable execPortRekey execPortClrCounters execSignalDetect execEqLowDone execLaneMapDone
      execVersionDecide execEqFullDone execConfigDone execTrainTimeout execFlitReceive execReplayReqReceive
      execReplayWaitRetry execPeerDead execRecoveryDone execLinkCtlRekeyAnnounce execEgressFlitPosition execLaneMarginStart
      execLaneMarginDone execSecureHello execSecureKemEk execSecureKemCt execSecureFinished execSecureAbort execSecureResend
      execRekeyEk execRekeyCt execIngressFirstFlit execSafFrameComplete execMortiseCheck execStackLineRead execMsgAcked
      execCplReceive execTagTimeout execDrainBoundExpiry execDrawerShred execMapResetDone execGwCombineWrite
      execGwFlushTimeout execGwFlushComplete execGwOrderFrame execGwOrderForward execGwReadAhead execGwReadaheadFill
      execEgressPortDown execFailback execAgeDiscard execShapeBurstWrite execShapeSelWrite execPolSelWrite
      execPolProfileWrite execMirCfgWrite execSwRouteWrite execSwClrCounters execPoolInit execPoolClrCounters
      execMigrationCommit execAgeDemote execPoolMigrate execStackRefresh execStackTempHigh execScrubStack execScrubLate
      execScrubNow execStkClrCounters execTrayIdentify execTrayIdentifyDone execTrayIdentifyTimeout execTrayLost
      execTrayCompletion execTrayCmdTimeout execPlankDiscard execGcFlash execWearLevel execTrayClrCounters
      execOrdClrCounters execDirSnoopDeliver execDirSnoopTimeout execDirFillData execDirRebuild execDirPurge execPoisonClear
      execDirProbe execDirClrCounters execBenchLaunchStart execBenchQueueTimeout execBenchAcquirePoll execBenchGatherWaitEnd
      execBenchOperandsFetched execBenchComputeDone execBenchOutputsDone execBenchReleaseDone execBenchClearStore
      execBenchClrCounters execOfferDeadline execRollAgentDead execHbLost execWatchRetry execClaimDiscardsDone
      execRollStationBind execRollProbe execRollClrCounters execNuAcquirePoll execReduceFlagPoll execReduceLocalReadDone
      execReduceMergeStart execReduceMergeDone execReduceDeadline execGatherFetchDone execGatherWalkDone
      execFilterSelectDone execNetClrCounters execVeneerCompress execVeneerExpand execBasisLoad execBasisSave
      execBasisSelect execBasisFree execVenClrCounters execSqDoorbell execCqDoorbell execEvtDoorbell execRingCfgWrite
      execDescriptorFetch execIntTimeout execHrdyReadbackDone execNop execTakeover execTakeoverGive execTakeoverWaitTimeout
      execMortLoad execDrawerLoad execObjLoad execRollLoad execRingLaunch execFabric execMaintReq execSecGetChain
      execSecAttest execSecExtend execFmOpen execFmFinish execFmClose execFmRead execBar4Read execBar4Write execBar4Atomic
      execBar4Complete execHostPortDown execRingsQuiesced execHostClrCounters execSecLock execSecClrCounters
      execFaultFenceSet execFenceTakesEffect execFaultLift execFenceLiftEffect execFaultOfflineWrite execMaintActivityAsk
      execMaintActivityEnd execMaintReqTimeout execResetCold execResetWarm execForceRecovery execPortReset execRomStartDone
      execSpiReadDone execBootClaim execRecoverGo execFwStartDone execKeygenDone execBootBistDone execProceed execShutdownGo
      execTestLbStart execTestLbStop execTestHlbStart execTestHlbStop execEchoRequest execBist execLinkRecal execTrcCfgWrite
      execJtagInstructionLoad execSensorRead execHostCompletionTimeout execStackPhyRetrain execBellSlotAdvance
      execJobViewCopy execBellFrameSend execMissingFrame execRingOpen execHoldoverExpiry execElectionEntry
      execSingleCardSelfMaster execBellReadyChange execRefLost execRefAppear execPpsEdge execSoCommitPoint
      execTimetableSwitchOver execMsgDeliver execFabricLaunch execPoolInitDone execPromoteTimeout execPressureSweep
      execReportCardRebuild execOrderFlushRange execOrderRelease execOrderReleaseRange execOrderFence execGuardSetEmpty
      execGuardTimeout execDirGetS execDirGetM execDirUpgrade execDirPutE execDirPutM execDirInvAck execDirRecallAck
      execDirRecallData execDirAgeFreeze execRollRead execRollCommit execRollOffer execRollWithdraw execRollTake
      execRollClaim execRollClose execRollAttend execRollWatch execRollHeartbeat execRollAgentDown execRollForward
      execRollTrim execHeartbeatSend execContrib execDeliver execPfxLookup execPfxInsert execEntropyFail execAuxGood
      execMainEnable execMainResetRelease execMainLoss execAuxLoss execVerifyDone execRecoveryVerifyDone
      execBootStateTimeout execLinkTrainingDone execBellWaitDone execBellSlow execShutdownDone execMgmtHeartbeat
      execWatchdogExpiry execClearTrip
  all_goals
    repeat' first
      | with_reducible exact Answers.next _
      | with_reducible apply Answers.ite
      | split
      | dsimp only

/-- Every command keeps what `Keeps` names: the law of its meaning says so. -/
theorem exec_keeps {a s : State} (c : Instr) (h : Keeps a s) : KeepsNext a (exec c s) := by
  cases c
  all_goals dsimp only [exec]
  case regWrite => exact execRegWrite_keeps h
  case bar0UnsupportedAccess _ _ _ w => exact execBar0UnsupportedAccess_keeps (_write := w) h
  case readLoLatch => exact execReadLoLatch_keeps h
  case readHi => exact execReadHi_keeps h
  case writeLoHold => exact execWriteLoHold_keeps h
  case writeHiApply => exact execWriteHiApply_keeps h
  case errW1cClear => exact execErrW1cClear_keeps h
  case bellFrameReceive => exact execBellFrameReceive_keeps h
  case timestampSend => exact execTimestampSend_keeps h
  case timestampReceive => exact execTimestampReceive_keeps h
  case ttLoad => exact execTtLoad_keeps h
  case ttArm => exact execTtArm_keeps h
  case ttCancel => exact execTtCancel_keeps h
  case strandedDiscard => exact execStrandedDiscard_keeps h
  case bankArm => exact execBankArm_keeps h
  case bankSwitchOver => exact execBankSwitchOver_keeps h
  case gateEntryFire => exact execGateEntryFire_keeps h
  case recessStart => exact execRecessStart_keeps h
  case ttLaunchFire => exact execTtLaunchFire_keeps h
  case ttStartFire => exact execTtStartFire_keeps h
  case portCfgWrite => exact execPortCfgWrite_keeps h
  case portRetrain => exact execPortRetrain_keeps h
  case portDisable => exact execPortDisable_keeps h
  case portRekey => exact execPortRekey_keeps h
  case portClrCounters => exact execPortClrCounters_keeps h
  case signalDetect => exact execSignalDetect_keeps h
  case eqLowDone => exact execEqLowDone_keeps h
  case laneMapDone => exact execLaneMapDone_keeps h
  case versionDecide => exact execVersionDecide_keeps h
  case eqFullDone => exact execEqFullDone_keeps h
  case configDone => exact execConfigDone_keeps h
  case trainTimeout => exact execTrainTimeout_keeps h
  case flitReceive => exact execFlitReceive_keeps h
  case replayReqReceive => exact execReplayReqReceive_keeps h
  case replayWaitRetry => exact execReplayWaitRetry_keeps h
  case peerDead => exact execPeerDead_keeps h
  case recoveryDone => exact execRecoveryDone_keeps h
  case linkCtlRekeyAnnounce => exact execLinkCtlRekeyAnnounce_keeps h
  case egressFlitPosition => exact execEgressFlitPosition_keeps h
  case laneMarginStart => exact execLaneMarginStart_keeps h
  case laneMarginDone => exact execLaneMarginDone_keeps h
  case secureHello => exact execSecureHello_keeps h
  case secureKemEk => exact execSecureKemEk_keeps h
  case secureKemCt => exact execSecureKemCt_keeps h
  case secureFinished => exact execSecureFinished_keeps h
  case secureAbort => exact execSecureAbort_keeps h
  case secureResend => exact execSecureResend_keeps h
  case rekeyEk => exact execRekeyEk_keeps h
  case rekeyCt => exact execRekeyCt_keeps h
  case ingressFirstFlit => exact execIngressFirstFlit_keeps h
  case safFrameComplete => exact execSafFrameComplete_keeps h
  case mortiseCheck => exact execMortiseCheck_keeps h
  case stackLineRead => exact execStackLineRead_keeps h
  case msgAcked => exact execMsgAcked_keeps h
  case cplReceive => exact execCplReceive_keeps h
  case tagTimeout => exact execTagTimeout_keeps h
  case drainBoundExpiry => exact execDrainBoundExpiry_keeps h
  case drawerShred => exact execDrawerShred_keeps h
  case mapResetDone => exact execMapResetDone_keeps h
  case gwCombineWrite => exact execGwCombineWrite_keeps h
  case gwFlushTimeout => exact execGwFlushTimeout_keeps h
  case gwFlushComplete => exact execGwFlushComplete_keeps h
  case gwOrderFrame => exact execGwOrderFrame_keeps h
  case gwOrderForward => exact execGwOrderForward_keeps h
  case gwReadAhead => exact execGwReadAhead_keeps h
  case gwReadaheadFill => exact execGwReadaheadFill_keeps h
  case egressPortDown => exact execEgressPortDown_keeps h
  case failback => exact execFailback_keeps h
  case ageDiscard => exact execAgeDiscard_keeps h
  case shapeBurstWrite => exact execShapeBurstWrite_keeps h
  case shapeSelWrite => exact execShapeSelWrite_keeps h
  case polSelWrite => exact execPolSelWrite_keeps h
  case polProfileWrite => exact execPolProfileWrite_keeps h
  case mirCfgWrite => exact execMirCfgWrite_keeps h
  case swRouteWrite => exact execSwRouteWrite_keeps h
  case swClrCounters => exact execSwClrCounters_keeps h
  case poolInit => exact execPoolInit_keeps h
  case poolClrCounters => exact execPoolClrCounters_keeps h
  case migrationCommit => exact execMigrationCommit_keeps h
  case ageDemote => exact execAgeDemote_keeps h
  case poolMigrate => exact execPoolMigrate_keeps h
  case stackRefresh => exact execStackRefresh_keeps h
  case stackTempHigh => exact execStackTempHigh_keeps h
  case scrubStack => exact execScrubStack_keeps h
  case scrubLate => exact execScrubLate_keeps h
  case scrubNow => exact execScrubNow_keeps h
  case stkClrCounters => exact execStkClrCounters_keeps h
  case trayIdentify => exact execTrayIdentify_keeps h
  case trayIdentifyDone => exact execTrayIdentifyDone_keeps h
  case trayIdentifyTimeout => exact execTrayIdentifyTimeout_keeps h
  case trayLost => exact execTrayLost_keeps h
  case trayCompletion => exact execTrayCompletion_keeps h
  case trayCmdTimeout => exact execTrayCmdTimeout_keeps h
  case plankDiscard => exact execPlankDiscard_keeps h
  case gcFlash => exact execGcFlash_keeps h
  case wearLevel => exact execWearLevel_keeps h
  case trayClrCounters => exact execTrayClrCounters_keeps h
  case ordClrCounters => exact execOrdClrCounters_keeps h
  case dirSnoopDeliver => exact execDirSnoopDeliver_keeps h
  case dirSnoopTimeout => exact execDirSnoopTimeout_keeps h
  case dirFillData => exact execDirFillData_keeps h
  case dirRebuild => exact execDirRebuild_keeps h
  case dirPurge => exact execDirPurge_keeps h
  case poisonClear => exact execPoisonClear_keeps h
  case dirProbe => exact execDirProbe_keeps h
  case dirClrCounters => exact execDirClrCounters_keeps h
  case benchLaunchStart => exact execBenchLaunchStart_keeps h
  case benchQueueTimeout => exact execBenchQueueTimeout_keeps h
  case benchAcquirePoll => exact execBenchAcquirePoll_keeps h
  case benchGatherWaitEnd => exact execBenchGatherWaitEnd_keeps h
  case benchOperandsFetched => exact execBenchOperandsFetched_keeps h
  case benchComputeDone => exact execBenchComputeDone_keeps h
  case benchOutputsDone => exact execBenchOutputsDone_keeps h
  case benchReleaseDone => exact execBenchReleaseDone_keeps h
  case benchClearStore => exact execBenchClearStore_keeps h
  case benchClrCounters => exact execBenchClrCounters_keeps h
  case offerDeadline => exact execOfferDeadline_keeps h
  case rollAgentDead => exact execRollAgentDead_keeps h
  case hbLost => exact execHbLost_keeps h
  case watchRetry => exact execWatchRetry_keeps h
  case claimDiscardsDone => exact execClaimDiscardsDone_keeps h
  case rollStationBind => exact execRollStationBind_keeps h
  case rollProbe => exact execRollProbe_keeps h
  case rollClrCounters => exact execRollClrCounters_keeps h
  case nuAcquirePoll => exact execNuAcquirePoll_keeps h
  case reduceFlagPoll => exact execReduceFlagPoll_keeps h
  case reduceLocalReadDone => exact execReduceLocalReadDone_keeps h
  case reduceMergeStart => exact execReduceMergeStart_keeps h
  case reduceMergeDone => exact execReduceMergeDone_keeps h
  case reduceDeadline => exact execReduceDeadline_keeps h
  case gatherFetchDone => exact execGatherFetchDone_keeps h
  case gatherWalkDone => exact execGatherWalkDone_keeps h
  case filterSelectDone => exact execFilterSelectDone_keeps h
  case netClrCounters => exact execNetClrCounters_keeps h
  case veneerCompress => exact execVeneerCompress_keeps h
  case veneerExpand => exact execVeneerExpand_keeps h
  case basisLoad => exact execBasisLoad_keeps h
  case basisSave => exact execBasisSave_keeps h
  case basisSelect => exact execBasisSelect_keeps h
  case basisFree => exact execBasisFree_keeps h
  case venClrCounters => exact execVenClrCounters_keeps h
  case sqDoorbell => exact execSqDoorbell_keeps h
  case cqDoorbell => exact execCqDoorbell_keeps h
  case evtDoorbell => exact execEvtDoorbell_keeps h
  case ringCfgWrite => exact execRingCfgWrite_keeps h
  case descriptorFetch => exact execDescriptorFetch_keeps h
  case intTimeout => exact execIntTimeout_keeps h
  case hrdyReadbackDone => exact execHrdyReadbackDone_keeps h
  case nop => exact execNop_keeps h
  case takeover => exact execTakeover_keeps h
  case takeoverGive => exact execTakeoverGive_keeps h
  case takeoverWaitTimeout => exact execTakeoverWaitTimeout_keeps h
  case mortLoad => exact execMortLoad_keeps h
  case drawerLoad => exact execDrawerLoad_keeps h
  case objLoad => exact execObjLoad_keeps h
  case rollLoad => exact execRollLoad_keeps h
  case ringLaunch => exact execRingLaunch_keeps h
  case fabric => exact execFabric_keeps h
  case maintReq => exact execMaintReq_keeps h
  case secGetChain => exact execSecGetChain_keeps h
  case secAttest => exact execSecAttest_keeps h
  case secExtend => exact execSecExtend_keeps h
  case fmOpen => exact execFmOpen_keeps h
  case fmFinish => exact execFmFinish_keeps h
  case fmClose => exact execFmClose_keeps h
  case fmRead => exact execFmRead_keeps h
  case bar4Read => exact execBar4Read_keeps h
  case bar4Write => exact execBar4Write_keeps h
  case bar4Atomic => exact execBar4Atomic_keeps h
  case bar4Complete => exact execBar4Complete_keeps h
  case hostPortDown => exact execHostPortDown_keeps h
  case ringsQuiesced => exact execRingsQuiesced_keeps h
  case hostClrCounters => exact execHostClrCounters_keeps h
  case secLock => exact execSecLock_keeps h
  case secClrCounters => exact execSecClrCounters_keeps h
  case faultFenceSet => exact execFaultFenceSet_keeps h
  case fenceTakesEffect => exact execFenceTakesEffect_keeps h
  case faultLift => exact execFaultLift_keeps h
  case fenceLiftEffect => exact execFenceLiftEffect_keeps h
  case faultOfflineWrite => exact execFaultOfflineWrite_keeps h
  case maintActivityAsk => exact execMaintActivityAsk_keeps h
  case maintActivityEnd => exact execMaintActivityEnd_keeps h
  case maintReqTimeout => exact execMaintReqTimeout_keeps h
  case resetCold => exact execResetCold_keeps h
  case resetWarm => exact execResetWarm_keeps h
  case forceRecovery => exact execForceRecovery_keeps h
  case portReset => exact execPortReset_keeps h
  case romStartDone => exact execRomStartDone_keeps h
  case spiReadDone => exact execSpiReadDone_keeps h
  case bootClaim => exact execBootClaim_keeps h
  case recoverGo => exact execRecoverGo_keeps h
  case fwStartDone => exact execFwStartDone_keeps h
  case keygenDone => exact execKeygenDone_keeps h
  case bootBistDone => exact execBootBistDone_keeps h
  case proceed => exact execProceed_keeps h
  case shutdownGo => exact execShutdownGo_keeps h
  case testLbStart => exact execTestLbStart_keeps h
  case testLbStop => exact execTestLbStop_keeps h
  case testHlbStart => exact execTestHlbStart_keeps h
  case testHlbStop => exact execTestHlbStop_keeps h
  case echoRequest => exact execEchoRequest_keeps h
  case bist => exact execBist_keeps h
  case linkRecal => exact execLinkRecal_keeps h
  case trcCfgWrite => exact execTrcCfgWrite_keeps h
  case jtagInstructionLoad => exact execJtagInstructionLoad_keeps h
  case sensorRead => exact execSensorRead_keeps h
  case hostCompletionTimeout => exact execHostCompletionTimeout_keeps h
  case stackPhyRetrain => exact execStackPhyRetrain_keeps h
  case bellSlotAdvance => exact execBellSlotAdvance_keeps h
  case jobViewCopy => exact execJobViewCopy_keeps h
  case bellFrameSend => exact execBellFrameSend_keeps h
  case missingFrame => exact execMissingFrame_keeps h
  case ringOpen => exact execRingOpen_keeps h
  case holdoverExpiry => exact execHoldoverExpiry_keeps h
  case electionEntry => exact execElectionEntry_keeps h
  case singleCardSelfMaster => exact execSingleCardSelfMaster_keeps h
  case bellReadyChange => exact execBellReadyChange_keeps h
  case refLost => exact execRefLost_keeps h
  case refAppear => exact execRefAppear_keeps h
  case ppsEdge => exact execPpsEdge_keeps h
  case soCommitPoint => exact execSoCommitPoint_keeps h
  case timetableSwitchOver => exact execTimetableSwitchOver_keeps h
  case msgDeliver => exact execMsgDeliver_keeps h
  case fabricLaunch => exact execFabricLaunch_keeps h
  case poolInitDone => exact execPoolInitDone_keeps h
  case promoteTimeout => exact execPromoteTimeout_keeps h
  case pressureSweep => exact execPressureSweep_keeps h
  case reportCardRebuild => exact execReportCardRebuild_keeps h
  case orderFlushRange => exact execOrderFlushRange_keeps h
  case orderRelease => exact execOrderRelease_keeps h
  case orderReleaseRange => exact execOrderReleaseRange_keeps h
  case orderFence => exact execOrderFence_keeps h
  case guardSetEmpty => exact execGuardSetEmpty_keeps h
  case guardTimeout => exact execGuardTimeout_keeps h
  case dirGetS => exact execDirGetS_keeps h
  case dirGetM => exact execDirGetM_keeps h
  case dirUpgrade => exact execDirUpgrade_keeps h
  case dirPutE => exact execDirPutE_keeps h
  case dirPutM => exact execDirPutM_keeps h
  case dirInvAck => exact execDirInvAck_keeps h
  case dirRecallAck => exact execDirRecallAck_keeps h
  case dirRecallData => exact execDirRecallData_keeps h
  case dirAgeFreeze => exact execDirAgeFreeze_keeps h
  case rollRead => exact execRollRead_keeps h
  case rollCommit => exact execRollCommit_keeps h
  case rollOffer => exact execRollOffer_keeps h
  case rollWithdraw => exact execRollWithdraw_keeps h
  case rollTake => exact execRollTake_keeps h
  case rollClaim => exact execRollClaim_keeps h
  case rollClose => exact execRollClose_keeps h
  case rollAttend => exact execRollAttend_keeps h
  case rollWatch => exact execRollWatch_keeps h
  case rollHeartbeat => exact execRollHeartbeat_keeps h
  case rollAgentDown => exact execRollAgentDown_keeps h
  case rollForward => exact execRollForward_keeps h
  case rollTrim => exact execRollTrim_keeps h
  case heartbeatSend => exact execHeartbeatSend_keeps h
  case contrib => exact execContrib_keeps h
  case deliver => exact execDeliver_keeps h
  case pfxLookup => exact execPfxLookup_keeps h
  case pfxInsert => exact execPfxInsert_keeps h
  case entropyFail => exact execEntropyFail_keeps h
  case auxGood => exact execAuxGood_keeps h
  case mainEnable => exact execMainEnable_keeps h
  case mainResetRelease => exact execMainResetRelease_keeps h
  case mainLoss => exact execMainLoss_keeps h
  case auxLoss => exact execAuxLoss_keeps h
  case verifyDone => exact execVerifyDone_keeps h
  case recoveryVerifyDone => exact execRecoveryVerifyDone_keeps h
  case bootStateTimeout => exact execBootStateTimeout_keeps h
  case linkTrainingDone => exact execLinkTrainingDone_keeps h
  case bellWaitDone => exact execBellWaitDone_keeps h
  case bellSlow => exact execBellSlow_keeps h
  case shutdownDone => exact execShutdownDone_keeps h
  case mgmtHeartbeat => exact execMgmtHeartbeat_keeps h
  case watchdogExpiry => exact execWatchdogExpiry_keeps h
  case clearTrip => exact execClearTrip_keeps h

/-- The queue's front is taken before its command runs: no other part of the state changes then. -/
theorem step_cases {s t : State} (h : step s = .next t) :
    t = s ∨ ∃ c rest, s.pending = c :: rest ∧ exec c (s.withPending rest) = .next t := by
  unfold step at h
  split at h
  · exact .inl (Host.Outcome.next.inj h).symm
  · next c rest e => exact .inr ⟨c, rest, e, h⟩

theorem withPending_canonical {s : State} (q : List Instr) (h : s.canonical) : (s.withPending q).canonical :=
  ⟨h.regs, h.latch, h.hold, h.mem⟩

/-- Settles O2. -/
theorem everyCommandAnswers : Obligations.EveryCommandAnswers := exec_answers

/-- Settles O3: a step runs one command, and every command keeps the canonical form. -/
theorem storageStaysCanonical : Obligations.StorageStaysCanonical := by
  intro s t hs h
  obtain rfl | ⟨c, rest, -, h⟩ := step_cases h
  · exact hs
  · exact (exec_keeps c (Keeps.refl _) t h).canonical (withPending_canonical rest hs)

/-- Settles O5: a step runs one command, and no command takes back output. -/
theorem outputStays : Obligations.OutputStays := by
  intro s t h
  obtain rfl | ⟨c, rest, -, h⟩ := step_cases h
  · exact List.suffix_refl _
  · exact (exec_keeps c (Keeps.refl _) t h).out

/-- Settles O8: the three comparisons of R11, each deciding where the one before it ties. -/
theorem bellTimeOrder : Obligations.BellTimeOrder := by
  intro a b
  simp only [BellTime.earlier, Bool.or_eq_true, Bool.and_eq_true, decide_eq_true_eq, beq_iff_eq]

end Sys2Proof.Machine

/-! ## Reads of BAR0 and accesses it does not support (R5, R6) -/
namespace Sys2Proof.Machine

theorem holdKey_inj {h g : HostPort} {i j : Nat} (ne : (h, i) ≠ (g, j)) : holdKey h i ≠ holdKey g j := by
  intro e
  unfold holdKey at e
  cases h <;> cases g <;> simp only [hostNum] at e <;> first | omega | exact ne (by rw [show i = j by omega])

/-- A port's access notes its link at most: nothing but that host's side and a free draw changes. -/
theorem touch_rest (s : State) (h : HostPort) :
    s.touch h = { s with hostA := (s.touch h).hostA, hostB := (s.touch h).hostB, free := (s.touch h).free } := by
  unfold State.touch
  dsimp only
  split
  · rfl
  · cases h <;> rfl

@[simp] theorem touch_regs (s : State) (h : HostPort) : (s.touch h).regs = s.regs := by rw [touch_rest]
@[simp] theorem touch_rd (s : State) (h : HostPort) (off : Nat) : (s.touch h).rd off = s.rd off := by simp only [State.rd, touch_regs]
@[simp] theorem touch_latch (s : State) (h : HostPort) : (s.touch h).latch = s.latch := by rw [touch_rest]
@[simp] theorem touch_hold (s : State) (h : HostPort) : (s.touch h).hold = s.hold := by rw [touch_rest]
@[simp] theorem touch_out (s : State) (h : HostPort) : (s.touch h).out = s.out := by rw [touch_rest]
@[simp] theorem touch_sw (s : State) (h : HostPort) : (s.touch h).sw = s.sw := by rw [touch_rest]
@[simp] theorem touch_locked (s : State) (h : HostPort) : (s.touch h).locked = s.locked := by simp only [State.locked, touch_rd]

@[simp] theorem emit_out (s : State) (o : Out) : (s.emit o).out = o :: s.out := rfl
@[simp] theorem emit_latch (s : State) (o : Out) : (s.emit o).latch = s.latch := rfl

/-- An aligned access runs what it is for. -/
theorem aligned_of_mod {s : State} {h : HostPort} {off : Nat} {f : State → State} (ha : off % 4 = 0) : s.aligned h off f = f s := if_pos ha

/-- An access that is not aligned meets Unsupported Request. -/
theorem aligned_unsupported {s : State} {h : HostPort} {off : Nat} {f : State → State} (hs : s.answers h = true) (ha : off % 4 ≠ 0) :
    s.aligned h off f = s.emit (.unsupported h) := by
  rw [State.aligned, if_neg ha, if_pos hs]

/-- Settles O41. -/
theorem unsupportedAccesses : Obligations.UnsupportedAccesses := by
  intro h off s hs
  refine ⟨fun size w ha => ?_, fun ha v c hc => ?_⟩
  · dsimp only [exec]
    unfold execBar0UnsupportedAccess
    rw [if_neg (by simpa [hs] using ha)]
  · simp only [List.mem_cons, List.not_mem_nil, or_false] at hc
    rcases hc with rfl | rfl | rfl | rfl | rfl | rfl <;> dsimp only [exec]
    case inr.inl => unfold execReadLoLatch; rw [hs, aligned_unsupported hs ha]; rfl
    case inr.inr.inl => unfold execReadHi; rw [hs, aligned_unsupported hs ha]; rfl
    all_goals exact congrArg _ (aligned_unsupported hs ha)

/-- The word latched or held for a port at one offset is that port's and offset's alone. -/
theorem get_put_holdKey_other {t : Tab (Option Word)} {h g : HostPort} {i j : Nat} {v : Option Word} (ne : (g, j) ≠ (h, i)) :
    (t.put none (holdKey h i) v).get none (holdKey g j) = t.get none (holdKey g j) :=
  Tab.get_put_other _ _ _ _ (holdKey_inj ne)

/-- Settles O42. -/
theorem latchedPairs : Obligations.LatchedPairs := by
  intro h off s hs ha
  refine ⟨fun lo => ?_, fun lo => ?_⟩
  · have run : exec (.readLoLatch h off) s = .next ((s.touch h).readLo h off.toNat) := by
      dsimp only [exec]
      unfold execReadLoLatch
      rw [hs, aligned_of_mod ha]
      rfl
    refine ⟨_, run, ?_, ?_, fun g j ne => ?_, ?_⟩ <;> simp only [State.readLo, lo, if_true]
    · simp
    · simp
    · simpa using get_put_holdKey_other ne
    · rfl
  · have run : exec (.readHi h off) s = .next ((s.touch h).readHi h off.toNat) := by
      dsimp only [exec]
      unfold execReadHi
      rw [hs, aligned_of_mod ha]
      rfl
    refine ⟨_, run, fun v hv => ?_, fun hv => ?_, ?_, fun g j ne => ?_, ?_⟩ <;> simp only [State.readHi, lo, if_true]
    · simp [hv]
    · simp [hv]
    · simp
    · simpa using get_put_holdKey_other ne
    · rfl

end Sys2Proof.Machine

/-! ## Writes of BAR0 by access code, pairs and error records (R7 to R9, R512) -/
namespace Sys2Proof.Machine

variable {a s t : State} {h : HostPort} {off o : Nat} {v : Word}

theorem regMask_of_row {row : RegRow} (e : regRow off = some row) : regMask off = row.mask := by rw [regMask, e]

theorem rd_wrMasked_same (s : State) (off : Nat) (v : Word) : (s.wrMasked off v).rd off = v &&& regMask off := State.rd_wr_same ..

theorem rd_wrMasked_other (s : State) (v : Word) (ne : o ≠ off) : (s.wrMasked off v).rd o = s.rd o := State.rd_wr_other _ _ ne

theorem regsOnly_wrMasked {l : List Nat} (m : off ∈ l) : RegsOnly l s (s.wrMasked off v) := RegsOnly.wr m

/-- An offset outside the run of a repeated register indexes none of it. -/
theorem regIndex_eq_none {base stride n : Nat} (pos : 0 < stride) (out : off < base ∨ base + n * stride ≤ off) :
    regIndex base stride n off = none := by
  unfold regIndex
  rw [dif_neg]
  rintro ⟨le, -, lt⟩
  have := (Nat.div_lt_iff_lt_mul pos).1 lt
  omega

/-- Outside the SWITCH and TEST blocks a read-write register just takes its defined bits. -/
theorem writeRw_plain (block : off < 0x700000 ∨ (0x800000 ≤ off ∧ off < 0x1400000)) : s.writeRw off v = s.wrMasked off v := by
  have none_of : ∀ base stride n, 0 < stride → 0x700000 ≤ base → (base + n * stride ≤ 0x800000 ∨ 0x1400000 ≤ base) →
      regIndex base stride n off = none := fun base stride n pos lo hi => regIndex_eq_none pos (by omega)
  unfold State.writeRw
  rw [if_neg (by simp only [beq_iff_eq, Reg.shapeRate]; omega)]
  rw [none_of _ 8 256 (by decide) (by decide) (by decide), none_of _ 4 (192 * 8) (by decide) (by decide) (by decide),
    none_of _ 4 (192 * 16) (by decide) (by decide) (by decide), none_of _ 8 16 (by decide) (by decide) (by decide),
    none_of (Reg.polBurst 0) 8 16 (by decide) (by decide) (by decide), none_of _ 16 8 (by decide) (by decide) (by decide),
    none_of (Reg.mirN 0) 16 8 (by decide) (by decide) (by decide), none_of _ 32 4 (by decide) (by decide) (by decide)]
  rfl

theorem ringRegOf_below (lt : off < 0x1100000) : ringRegOf off = none := by
  rw [ringRegOf, if_pos (by simp [lt])]

/-- REG_WRITE of a register that the access reaches. -/
theorem exec_regWrite {off : BitVec 25} (ha : off.toNat % 4 = 0) (hr : Reaches s h off.toNat) :
    exec (.regWrite h off v) s = .next ((s.touch h).writeReg h off.toNat v) :=
  congrArg Host.Outcome.next ((aligned_of_mod ha).trans (hostWrite_reaches hr))

/-! Clearing an error record (R512). -/

theorem rd_clearErr_same (s : State) (off : Nat) (v : Word) : (s.clearErr off v).rd off = s.rd off &&& ~~~v := by
  unfold State.clearErr
  dsimp only
  split
  · rw [State.rd_wr_other _ _ (by omega), State.rd_wr_same]
  · rw [State.rd_wr_same]

theorem rd_clearErr_count (s : State) (off : Nat) (v : Word) :
    (s.clearErr off v).rd (off + 4) = if s.rd off &&& ~~~v = 0 then 0 else s.rd (off + 4) := by
  unfold State.clearErr
  dsimp only
  split
  · exact State.rd_wr_same ..
  · exact State.rd_wr_other _ _ (by omega)

theorem regsOnly_clearErr (s : State) (off : Nat) (v : Word) : RegsOnly [off, off + 4] s (s.clearErr off v) := by
  unfold State.clearErr
  dsimp only
  split
  · exact (RegsOnly.wr (by simp)).trans (RegsOnly.wr (by simp))
  · exact RegsOnly.wr (by simp)

/-! A write that the session lock discards (R8, R489, R524). -/

/-- A first raise of a bit leaves in the last capture of the bit what that capture says. -/
theorem record_bitCap (e n : Nat) (caps : List (Nat × Word)) (c : Nat) (w : Word) (new : bit (s.rd e) n = false)
    (ne : c ≠ e) (hr : reportReg c = false) : (s.record e n caps [(c, w)]).rd c = w := by
  unfold State.record
  dsimp only
  rw [(ChangesOnly.foldl (l := []) [0, 1, 2, 3] (fun _ k hk => traceTrigger_changes e n hk)).reg c List.not_mem_nil hr,
    (traceEv_changes (l := []) ..).reg c List.not_mem_nil hr, State.rd_wr_other _ _ ne, new]
  exact State.rd_wr_same ..

theorem raiseCap_bitCap (e n : Nat) (caps : List (Nat × Word)) (c : Nat) (w : Word) (new : bit (s.rd e) n = false)
    (ne : c ≠ e) (hr : reportReg c = false) : (s.raiseCap e n caps [(c, w)]).rd c = w := by
  unfold State.raiseCap
  dsimp only
  rw [new, if_neg Bool.false_ne_true, (postEvent_changes (l := []) ..).reg c List.not_mem_nil hr]
  exact record_bitCap e n caps c w new ne hr

theorem lockedWrite_sets (s : State) (off : Nat) : bit ((s.lockedWrite off).rd Reg.faultErr) 0 = true :=
  raiseCap_sets _ 0 _ _ (by decide) (by decide)

theorem lockedWrite_addr (new : bit (s.rd Reg.faultErr) 0 = false) :
    (s.lockedWrite off).rd Reg.faultLockedAddr = BitVec.ofNat 32 off :=
  raiseCap_bitCap _ 0 _ _ _ new (by decide) (by decide)

theorem lockedWrite_changes (s : State) (off : Nat) :
    ChangesOnly (recordRegs Reg.faultErr ++ [Reg.faultErrCapture, Reg.faultLockedAddr]) s (s.lockedWrite off) :=
  raiseCap_changes _ 0 _ _ (fun _ hx => .inl (List.mem_append_left _ hx)) (by simp)

/-! Pairs (R7). -/

theorem writableLo_zero : writableLo 0 = false := by decide +kernel

theorem joinHi_lo (s : State) (h : HostPort) (off : Nat) (v : Word) :
    (s.joinHi h off v).extractLsb' 0 32 = (s.hold.get none (holdKey h off)).getD (s.rd off) := by
  unfold State.joinHi
  exact BitVec.extractLsb'_append_eq_right

theorem joinHi_hi (s : State) (h : HostPort) (off : Nat) (v : Word) : (s.joinHi h off v).extractLsb' 32 32 = v := by
  unfold State.joinHi
  exact BitVec.extractLsb'_append_eq_left

/-- Settles O43: one case of the access codes for each clause. -/
theorem registerWrites : Obligations.RegisterWrites := by
  intro h off v s ha hr
  refine ⟨fun row e acc lo hi block => ?_, fun e => ?_, fun row e acc trust lock => ?_, fun row e acc c hc => ?_, fun wr ring => ?_,
    fun wr ring fence lift => ?_⟩
  · have run : (s.touch h).writeReg h off.toNat v = (s.touch h).wrMasked off.toNat v := by
      simp only [State.writeReg, e, acc, ringRegOf_below (show off.toNat < 0x1100000 by omega), lo, hi, Option.isSome_none,
        Bool.false_eq_true, if_false]
      exact writeRw_plain (by omega)
    refine ⟨_, exec_regWrite ha hr, ?_, ?_⟩ <;> rw [run]
    · rw [rd_wrMasked_same, regMask_of_row e]
    · exact regsOnly_wrMasked (by simp)
  · rw [exec_regWrite ha hr]
    rcases e with e | ⟨row, e, acc⟩
    · simp only [State.writeReg, e]
    · simp only [State.writeReg, e, acc]
  · have run : (s.touch h).writeReg h off.toNat v = (s.touch h).lockedWrite off.toNat := by
      simp only [State.writeReg, e, acc, trust, touch_locked, lock, Bool.false_eq_true, if_false, if_true]
    refine ⟨_, exec_regWrite ha hr, ?_, fun new => ?_, ?_⟩ <;> rw [run]
    · exact lockedWrite_sets ..
    · exact lockedWrite_addr (by rwa [touch_rd])
    · exact lockedWrite_changes ..
  · have run : exec c s = .next ((s.touch h).clearErr off.toNat v) := by
      simp only [List.mem_cons, List.not_mem_nil, or_false] at hc
      rcases hc with rfl | rfl
      · rw [exec_regWrite ha hr]
        simp only [State.writeReg, e, acc]
      · refine congrArg Host.Outcome.next ((aligned_of_mod ha).trans ((hostWrite_reaches hr).trans (if_pos ?_)))
        simp [e, acc]
    have count := rd_clearErr_count (s.touch h) off.toNat v
    rw [touch_rd, touch_rd] at count
    refine ⟨_, run, ?_, fun z => ?_, fun z => ?_, regsOnly_clearErr ..⟩
    · rw [rd_clearErr_same, touch_rd]
    · rw [count, if_pos z]
    · rw [count, if_neg z]
  · have run : exec (.writeLoHold h off v) s = .next ((s.touch h).holdLo h off.toNat v) := by
      refine congrArg Host.Outcome.next ((aligned_of_mod ha).trans ((hostWrite_reaches hr).trans ((if_pos wr).trans ?_)))
      rw [State.writeLoWord, ring]
      rfl
    refine ⟨_, run, ?_, fun g j ne => ?_, ?_⟩
    · simp [State.holdLo]
    · simpa [State.holdLo] using get_put_holdKey_other ne
    · rfl
  · have run : exec (.writeHiApply h off v) s = .next (((s.touch h).dropHeld h (off.toNat - 4)).writePair (off.toNat - 4)
        ((s.touch h).joinHi h (off.toNat - 4) v)) := by
      refine congrArg Host.Outcome.next ((aligned_of_mod ha).trans ((hostWrite_reaches hr).trans ((if_pos wr).trans ?_)))
      rw [State.writeHiWord, ring]
      rfl
    have pos : off.toNat - 4 + 4 = off.toNat := by
      have : off.toNat ≠ 0 := fun z => by rw [z] at wr; exact absurd writableLo_zero (by simp [wr])
      omega
    simp only [State.writePair, beq_iff_eq, fence, lift, if_false, joinHi_lo, joinHi_hi, pos, touch_hold, touch_rd] at run
    refine ⟨_, run, ?_, ?_, ?_, fun g j ne => ?_, ?_⟩
    · rw [rd_wrMasked_other _ _ (by omega), rd_wrMasked_same]
    · exact rd_wrMasked_same ..
    · simp [State.wrMasked, State.wr, State.dropHeld]
    · simpa [State.wrMasked, State.wr, State.dropHeld] using get_put_holdKey_other ne
    · exact (regsOnly_wrMasked (s := (s.touch h).dropHeld h (off.toNat - 4)) (by simp)).trans (regsOnly_wrMasked (by simp))

end Sys2Proof.Machine

/-! ## Host writes of the SWITCH block (R179) -/
namespace Sys2Proof.Machine

/-- The block runs, and its register file holds a word at 0x708001, which is no register's offset: policer (0, 0, 0) reads its
profile at 0x708000, where nothing is listed and the profile is 0. -/
def oddPolicer : State :=
  { State.reset with boot := { Boot.reset with state := .run }, regs := [(0x708001, 5)] }

/-- The write of BURST 1 to policer profile 5 in `oddPolicer`. -/
def oddPolicerWritten : State := ((oddPolicer.touch .a).writePolProfile 5 true 1)

theorem oddPolicer_lists : (0, 0, 0) ∈ oddPolicer.policersOf 5 := by decide +kernel

theorem oddPolicer_exec : exec (.polProfileWrite .a 5 true 1) oddPolicer = .next oddPolicerWritten :=
  congrArg Host.Outcome.next (hostWrite_reaches (by decide +kernel))

/-- The policer is filled to the burst of profile 0, its own, and profile 5 now has burst 1. -/
theorem oddPolicer_filled :
    oddPolicerWritten.sw.police.get 0 (polKey 0 0 0) = 256 * 4096 ∧ oddPolicerWritten.polBurst 5 = 1 := by decide +kernel

/-- Refutes O32: a canonical register file may list a word between the SW_POL_SEL registers. `policersOf` rounds its offset down
to a register's and counts it as a policer of profile 5, but the policer itself uses profile 0 and is filled to that one's
burst. -/
theorem not_switchWrites : ¬ Obligations.SwitchWrites := by
  intro ⟨_, _, _, profile, _⟩
  obtain ⟨t, run, -, written⟩ := profile .a 5 true 1 oddPolicer (by decide +kernel) (by decide +kernel)
  rw [oddPolicer_exec] at run
  obtain rfl := Host.Outcome.next.inj run
  have filled := (written (by decide)).2.1 0 0 0 oddPolicer_lists
  obtain ⟨own, burst⟩ := oddPolicer_filled
  exact absurd (own.symm.trans (filled.trans (congrArg (256 * ·) burst))) (by decide)

end Sys2Proof.Machine

/-! ## Runs of table entries, and TT_LOAD (R73, R74, R463, R471) -/
namespace Sys2Proof.Machine

theorem Tab.find_append {α : Type} (t u : Tab α) (j : Nat) : Tab.find (t ++ u) j = (t.find j).or (u.find j) := by
  induction t with
  | nil => rfl
  | cons p t ih =>
    simp only [List.cons_append, Tab.find]
    split
    · rfl
    · exact ih

/-- The values that a run lists, at its keys. -/
theorem Tab.find_run {α : Type} [DecidableEq α] (d : α) (vs : List α) (i j : Nat) :
    Tab.find (((List.range' i vs.length).zip vs).filter (fun p => decide (p.2 ≠ d))) j
      = if i ≤ j then vs[j - i]?.filter (fun v => decide (v ≠ d)) else none := by
  induction vs generalizing i with
  | nil => simp [Tab.find]
  | cons v vs ih =>
    have rest := ih (i + 1)
    rw [List.length_cons, List.range'_succ, List.zip_cons_cons]
    rcases Nat.lt_trichotomy j i with lt | rfl | gt
    · rw [if_neg (by omega)] at rest ⊢
      by_cases hv : v = d
      · simpa [hv] using rest
      · simpa [hv, Tab.find, show j ≠ i by omega] using rest
    · rw [if_neg (by omega)] at rest
      by_cases hv : v = d
      · subst hv
        simpa [Option.filter] using rest
      · simp [hv, Tab.find, Option.filter]
    · rw [if_pos (by omega)] at rest ⊢
      rw [show j - i = (j - (i + 1)) + 1 by omega, List.getElem?_cons_succ]
      by_cases hv : v = d
      · simpa [hv] using rest
      · simpa [hv, Tab.find, show j ≠ i by omega] using rest

/-- A run of writes puts its values at its keys and leaves every other key alone. -/
theorem Tab.get_putRun {α : Type} [DecidableEq α] (d : α) (t : Tab α) (i j : Nat) (vs : List α) :
    (t.putRun d i vs).get d j = if i ≤ j ∧ j < i + vs.length then vs.getD (j - i) d else t.get d j := by
  have below := Tab.find_filter_keep t (fun k => decide (k < i)) j
  have notBelow := Tab.find_filter_drop t (fun k => decide (k < i)) j
  have above := Tab.find_filter_keep t (fun k => decide (i + vs.length ≤ k)) j
  have notAbove := Tab.find_filter_drop t (fun k => decide (i + vs.length ≤ k)) j
  simp only [decide_eq_true_eq, decide_eq_false_iff_not] at below notBelow above notAbove
  unfold Tab.putRun Tab.get
  rw [Tab.find_append, Tab.find_append, Tab.find_run]
  rcases Nat.lt_or_ge j i with lt | ge
  · rw [below lt, notAbove (by omega), if_neg (by omega), if_neg (by omega), Option.or_none, Option.or_none]
  · rw [notBelow (by omega), Option.none_or, if_pos ge]
    by_cases hi : j < i + vs.length
    · rw [notAbove (by omega), if_pos ⟨ge, hi⟩, Option.or_none, List.getD_eq_getElem?_getD,
        List.getElem?_eq_getElem (by omega)]
      by_cases same : vs[j - i] = d <;> simp [Option.filter_some, same]
    · rw [above (by omega), if_neg (by omega), List.getElem?_eq_none (by omega)]
      rfl

/-! Descriptors. -/

theorem ChangesOnly.tt {l : List Nat} {a b : State} (h : ChangesOnly l a b) : b.tt = a.tt := by rw [h.rest]

theorem setOwner_setDesc (s : State) (h : HostPort) (d : Desc) : (s.setDesc h d).setOwner h = s.setOwner h := by
  cases h <;> rfl

/-- A completion looks at the state it starts from for the owner of the ring set alone. -/
theorem Completes.of_setOwner {h : HostPort} {d : Desc} {st r : Nat} {a a' b : State} (c : Completes h d st r a b)
    (own : a.setOwner h = a'.setOwner h) : Completes h d st r a' b := by
  obtain ⟨flight, entry⟩ := c
  exact ⟨flight, own ▸ entry⟩

/-- A started descriptor that completes at once. -/
theorem setDesc_done_changes {s : State} {h : HostPort} {d : Desc} {st : Status} {r : Nat} :
    ChangesOnly (doneRegs h d) s ((s.setDesc h d).done h d st r) :=
  (setDesc_changes h d).trans (finish_changes h d st.toNat r (fun _ m => m))

theorem setDesc_done_completes {s : State} {h : HostPort} {d : Desc} {st : Status} {r : Nat} :
    Completes h d st.toNat r s ((s.setDesc h d).done h d st r) :=
  (finish_completes _ h d st.toNat r).of_setOwner (setOwner_setDesc s h d)

/-! The refusal of a load (R16, R74). -/

section Refusal
variable {w : Nat} {reserved : BitVec w} {bad : BitVec w → Bool} {f : Nat → BitVec w} {n : Nat}

theorem entriesRefusal_none (pass : ∀ i < n, entryRefusal reserved bad (f i) = none) :
    entriesRefusal reserved bad ((List.range n).map f) = none := by
  have empty : ((List.range n).map f).filterMap (entryRefusal reserved bad) = [] := by
    simpa [List.filterMap_eq_nil_iff] using pass
  simp [entriesRefusal, empty]

theorem entriesRefusal_format {i : Nat} (lt : i < n) (fails : entryRefusal reserved bad (f i) = some St.format) :
    entriesRefusal reserved bad ((List.range n).map f) = some St.format := by
  unfold entriesRefusal
  refine if_pos ?_
  simp only [List.contains_iff_mem, List.mem_filterMap, List.mem_map, List.mem_range]
  exact ⟨f i, ⟨i, lt, rfl⟩, fails⟩

theorem entriesRefusal_first {i : Nat} {st : Status} (lt : i < n) (fails : entryRefusal reserved bad (f i) = some st)
    (noFormat : ∀ j < n, entryRefusal reserved bad (f j) ≠ some St.format)
    (before : ∀ j < i, entryRefusal reserved bad (f j) = none) :
    entriesRefusal reserved bad ((List.range n).map f) = some st := by
  unfold entriesRefusal
  rw [if_neg]
  · rw [show n = i + ((n - i - 1) + 1) by omega, List.range_add, List.map_append, List.filterMap_append,
      List.filterMap_eq_nil_iff.2 (by simpa using before), List.range_succ_eq_map]
    simp [fails]
  · simpa [List.contains_iff_mem] using noFormat

end Refusal

/-! TT_LOAD. -/

/-- The bank that TT_LOAD leaves: the table cleared where CLEAR asks for it, then the run of entries. -/
def ttLoaded (t : Tab (BitVec 128)) (kind num first : Nat) (clear : Bool) (es : List (BitVec 128)) : Tab (BitVec 128) :=
  Tab.putRun 0 (if clear then t.clearRange (ttKey kind num 0) (ttKey kind num 0 + 8192) else t) (ttKey kind num first) es

theorem ttWrite_inactive (s : State) (kind num first : Nat) (clear : Bool) (es : List (BitVec 128)) :
    (s.ttWrite kind num first clear es).inactiveTt = ttLoaded s.inactiveTt kind num first clear es := by
  cases hb : s.tt.active <;> simp [State.ttWrite, State.inactiveTt, ttLoaded, hb]

theorem ttWrite_active (s : State) (kind num first : Nat) (clear : Bool) (es : List (BitVec 128)) :
    (s.ttWrite kind num first clear es).activeTt = s.activeTt := by
  cases hb : s.tt.active <;> simp [State.ttWrite, State.activeTt, hb]

theorem ttWrite_eq (s : State) (kind num first : Nat) (clear : Bool) (es : List (BitVec 128)) :
    s.ttWrite kind num first clear es = s.withTt (s.ttWrite kind num first clear es).tt := by
  cases hb : s.tt.active <;> simp [State.ttWrite, hb]

theorem setDesc_ttWrite (s : State) (h : HostPort) (d : Desc) (kind num first : Nat) (clear : Bool) (es : List (BitVec 128)) :
    (s.setDesc h d).ttWrite kind num first clear es = (s.ttWrite kind num first clear es).setDesc h d := by
  cases hb : s.tt.active <;> cases h <;> simp [State.ttWrite, State.setDesc, hb] <;> rfl

theorem ttWrite_setOwner (s : State) (h : HostPort) (kind num first : Nat) (clear : Bool) (es : List (BitVec 128)) :
    (s.ttWrite kind num first clear es).setOwner h = s.setOwner h := by
  rw [ttWrite_eq]
  cases h <;> rfl

theorem activeTt_of_tt {a b : State} (e : b.tt = a.tt) : b.activeTt = a.activeTt ∧ b.inactiveTt = a.inactiveTt := by
  simp only [State.activeTt, State.inactiveTt, e, and_self]

theorem ttLoaded_entry {t : Tab (BitVec 128)} {kind num first i : Nat} {clear : Bool} {es : List (BitVec 128)} (lt : i < es.length) :
    (ttLoaded t kind num first clear es).get 0 (ttKey kind num (first + i)) = es[i] := by
  unfold ttLoaded
  rw [Tab.get_putRun, if_pos (by unfold ttKey; omega), show ttKey kind num (first + i) - ttKey kind num first = i by unfold ttKey; omega,
    List.getD_eq_getElem _ _ lt]

theorem ttLoaded_elsewhere {t : Tab (BitVec 128)} {kind num first k : Nat} {clear : Bool} {es : List (BitVec 128)}
    (fits : first + es.length ≤ 8192) (out : k < ttKey kind num 0 ∨ ttKey kind num 0 + 8192 ≤ k) :
    (ttLoaded t kind num first clear es).get 0 k = t.get 0 k := by
  unfold ttLoaded
  rw [Tab.get_putRun, if_neg (by unfold ttKey at *; omega)]
  cases clear with
  | false => rfl
  | true => exact (Tab.get_clearRange 0 t _ _ k).trans (if_neg (by omega))

theorem ttEntries_le (kind : Nat) : ttEntries kind ≤ 8192 := by
  unfold ttEntries
  split
  · decide
  · split <;> decide

/-- A TT_LOAD within its limits that starts with no bank armed. -/
theorem exec_ttLoad {h : HostPort} {q : RingId} {data : Bytes} {s : State} {d : Desc} (start : Starts s h q 0x08 d)
    (armed : s.tt.armed = none) (kind : loadTable d ≤ 2) (num : loadNumber d < ttTables (loadTable d))
    (fits : loadFirst d + loadCount d ≤ ttEntries (loadTable d)) (src : dField d 32 8 % 64 = 0) :
    let e := startedDesc s d
    exec (.ttLoad h q data) s = .next (match entriesRefusal (ttReserved (loadTable d)) (ttBad (loadTable d)) (loadEntries d data 16 128) with
      | some st => (s.setDesc h e).done h e st 0
      | none => ((s.setDesc h e).ttWrite (loadTable d) (loadNumber d) (loadFirst d) (loadClear d) (loadEntries d data 16 128)).done h e
          St.ok (loadCount d)) := by
  refine congrArg Host.Outcome.next ((withDesc_starts start.1 start.2).trans ?_)
  have disarms : (s.setDesc h (startedDesc s d)).loadDisarms = s.setDesc h (startedDesc s d) := by
    have : (s.setDesc h (startedDesc s d)).tt.armed = none := by rw [(setDesc_changes (l := []) h _).tt, armed]
    rw [State.loadDisarms, this]
  have passes : ¬ (decide (2 < loadTable d) || decide (ttTables (loadTable d) ≤ loadNumber d)
      || !loadFits d (ttEntries (loadTable d))) = true := by
    simp [loadFits, fits, src, kind, num]
  dsimp only
  rw [disarms]
  exact if_neg passes

/-- Settles O17. -/
theorem timetableLoads : Obligations.TimetableLoads := by
  intro h q data s d start armed kind num fits src
  have run := exec_ttLoad (data := data) start armed kind num fits src
  refine ⟨fun pass => ?_, fun i lt st fails first => ?_⟩
  · rw [show entriesRefusal _ _ (loadEntries d data 16 128) = none from entriesRefusal_none pass] at run
    dsimp only at run
    rw [setDesc_ttWrite] at run
    generalize hu : s.ttWrite (loadTable d) (loadNumber d) (loadFirst d) (loadClear d) (loadEntries d data 16 128) = u at run
    have changes : ChangesOnly (doneRegs h d) u ((u.setDesc h (startedDesc s d)).done h (startedDesc s d) St.ok (loadCount d)) :=
      setDesc_done_changes (d := startedDesc s d)
    have only : u = s.withTt u.tt := hu ▸ ttWrite_eq ..
    have len : (loadEntries d data 16 128).length = loadCount d := by simp [loadEntries]
    have done : Completes h (startedDesc s d) St.ok.toNat (loadCount d) s _ :=
      setDesc_done_completes.of_setOwner (a := u) (hu ▸ ttWrite_setOwner ..)
    obtain ⟨active, inactive⟩ := activeTt_of_tt changes.tt
    refine ⟨_, run, ?_, done, ?_, fun i lt => ?_, fun k out => ?_⟩
    · rw [changes.tt, ← only]
      exact changes
    · rw [active, ← hu, ttWrite_active]
    · rw [inactive, ← hu, ttWrite_inactive, ttLoaded_entry (by omega)]
      simp [loadEntries]
    · rw [inactive, ← hu, ttWrite_inactive, ttLoaded_elsewhere _ out]
      have := ttEntries_le (loadTable d)
      omega
  · have refused : entriesRefusal (ttReserved (loadTable d)) (ttBad (loadTable d)) (loadEntries d data 16 128) = some st := by
      rcases first with rfl | ⟨noFormat, before⟩
      · exact entriesRefusal_format lt fails
      · exact entriesRefusal_first lt fails noFormat before
    rw [refused] at run
    exact ⟨_, run, setDesc_done_changes (d := startedDesc s d), setDesc_done_completes⟩

end Sys2Proof.Machine

/-! ## The reset of a recalled drawer's map (R193, R253) -/
namespace Sys2Proof.Machine

/-- A tray whose block 0 has met an error, with one sector in use: it is retired as soon as that sector is invalid. -/
def suspectTray : Tray :=
  { Tray.reset with state := .live, perBlock := 4096, total := 64, blocks := [(0, ⟨5, 1, .suspect, 1⟩)] }

/-- Drawer 0's first TIERED plank lies in flash, in the sector of `suspectTray`, and its map is about to be reset. -/
def suspectReset : State :=
  { State.reset with
    boot := { Boot.reset with state := .run }
    pool := { Pool.reset with
      map := [(0, { MapEntry.reset with state := .flash, size := 1 })], trays := [(0, suspectTray)], resets := [(0, 0, 1)] } }

/-- Where the reset of the map leaves `suspectReset`. -/
def suspectFreed : State :=
  let s := suspectReset.resetPlank (tieredBase / plankBytes)
  (s.withPool { s.pool with resets := [] }).retryWaiting

theorem suspectReset_exec : exec (.mapResetDone 0) suspectReset = .next suspectFreed := by rfl

/-- The block is retired, and TRAY_T_RETIRED counts it. -/
theorem suspectFreed_counts : suspectReset.rd (Reg.trayTRetired 0) = 0 ∧ suspectFreed.rd (Reg.trayTRetired 0) = 1 := by
  decide +kernel

/-- Refutes O29: the reset of a map frees flash sectors, and a suspect block that loses its last valid sector is retired and
counted (R253), so that more than the pool changes. -/
theorem not_messagesTagsAndRecalls : ¬ Obligations.MessagesTagsAndRecalls := by
  intro ⟨_, _, _, _, _, _, mapReset⟩
  obtain ⟨t, run, -, -, -, pool⟩ := mapReset 0 suspectReset (0, 0, 1) (by decide +kernel) (fun q mem => nomatch mem)
  rw [suspectReset_exec] at run
  obtain rfl := Host.Outcome.next.inj run
  obtain ⟨before, after⟩ := suspectFreed_counts
  have kept : suspectFreed.rd (Reg.trayTRetired 0) = suspectReset.rd (Reg.trayTRetired 0) :=
    congrArg (·.rd (Reg.trayTRetired 0)) pool
  exact absurd (after.symm.trans (kept.trans before)) (by decide)

end Sys2Proof.Machine

/-! ## What moves frames between queues: the switch core and the transaction layer (R140, R147, R156, R160, R163, R183) -/
namespace Sys2Proof.Machine

/-! The header of a frame that is built (R129): below a field lie the pieces of the header that `pack` appends after it. -/

section Header
variable (h : HdrFields) (p : Bytes) (c : Word)

@[simp] theorem pack_addr : (Frame.mk h.pack p c).addr = h.addr := by
  iterate 21 refine (BitVec.extractLsb'_append_eq_of_le (by omega)).trans ?_
  exact BitVec.extractLsb'_eq_self

@[simp] theorem pack_seq : (Frame.mk h.pack p c).seq = h.seq := by
  iterate 20 refine (BitVec.extractLsb'_append_eq_of_le (by omega)).trans ?_
  exact BitVec.extractLsb'_append_eq_right

@[simp] theorem pack_dest : (Frame.mk h.pack p c).dest = h.dest := by
  iterate 16 refine (BitVec.extractLsb'_append_eq_of_le (by omega)).trans ?_
  exact BitVec.extractLsb'_append_eq_right

@[simp] theorem pack_tag : (Frame.mk h.pack p c).tag = h.tag := by
  iterate 10 refine (BitVec.extractLsb'_append_eq_of_le (by omega)).trans ?_
  exact BitVec.extractLsb'_append_eq_right

@[simp] theorem pack_status : (Frame.mk h.pack p c).status = h.status := by
  iterate 9 refine (BitVec.extractLsb'_append_eq_of_le (by omega)).trans ?_
  exact BitVec.extractLsb'_append_eq_right

@[simp] theorem pack_job : (Frame.mk h.pack p c).job = h.job := by
  iterate 8 refine (BitVec.extractLsb'_append_eq_of_le (by omega)).trans ?_
  exact BitVec.extractLsb'_append_eq_right

@[simp] theorem pack_opcode : (Frame.mk h.pack p c).opcode = h.opcode := by
  iterate 3 refine (BitVec.extractLsb'_append_eq_of_le (by omega)).trans ?_
  exact BitVec.extractLsb'_append_eq_right

@[simp] theorem pack_ak : (Frame.mk h.pack p c).ak = h.ak := by
  have skip : h.pack.getLsbD 2 = (BitVec.ofBool h.ak).getLsbD 0 := by
    refine BitVec.getLsbD_append.trans ((if_neg (by omega)).trans ?_)
    exact BitVec.getLsbD_append.trans (if_pos (by omega))
  exact skip.trans (by simp)

end Header

/-! The frame of an operation that moves frames. -/

variable {a b c s : State} {l m : List Nat}

theorem TablesSame.of_mort (e : b.mort = a.mort) : TablesSame a b := by
  constructor <;> rw [e] <;> exact ⟨rfl, rfl⟩

theorem TablesSame.trans (h : TablesSame a b) (g : TablesSame b c) : TablesSame a c where
  jobs := ⟨g.jobs.1.trans h.jobs.1, g.jobs.2.trans h.jobs.2⟩
  addresses := ⟨g.addresses.1.trans h.addresses.1, g.addresses.2.trans h.addresses.2⟩
  admission := ⟨g.admission.1.trans h.admission.1, g.admission.2.trans h.admission.2⟩
  drawers := ⟨g.drawers.1.trans h.drawers.1, g.drawers.2.trans h.drawers.2⟩
  banks := ⟨g.banks.1.trans h.banks.1, g.banks.2.trans h.banks.2⟩

/-- What moves frames keeps the frame of `FabricEffect` and, beside it, all that a route is chosen by (R161 to R165): loopbacks and
failovers. Numbers of queue entries only grow. -/
structure Moves (regs : List Nat) (a b : State) : Prop where
  effect : FabricEffect regs a b
  looped : ∀ l, (b.link l).looped = (a.link l).looped
  failover : b.sw.failed = a.sw.failed ∧ b.sw.backOn = a.sw.backOn
  nextId : a.sw.nextId ≤ b.sw.nextId

theorem Moves.refl (s : State) : Moves l s s :=
  ⟨⟨rfl, TablesSame.of_mort rfl, fun _ => ⟨rfl, rfl⟩, fun _ _ _ => rfl⟩, fun _ => rfl, ⟨rfl, rfl⟩, Nat.le_refl _⟩

theorem Moves.trans (h : Moves l a b) (g : Moves l b c) : Moves l a c where
  effect.rest := by
    have e := g.effect.rest
    rw [h.effect.rest] at e
    exact e
  effect.tables := h.effect.tables.trans g.effect.tables
  effect.train := fun k =>
    ⟨(g.effect.train k).1.trans (h.effect.train k).1, (g.effect.train k).2.trans (h.effect.train k).2⟩
  effect.reg := fun off n r => (g.effect.reg off n r).trans (h.effect.reg off n r)
  looped := fun k => (g.looped k).trans (h.looped k)
  failover := ⟨g.failover.1.trans h.failover.1, g.failover.2.trans h.failover.2⟩
  nextId := h.nextId.trans g.nextId

theorem Moves.mono (h : Moves l a b) (sub : l ⊆ m) : Moves m a b :=
  { h with effect := { h.effect with reg := fun off n => h.effect.reg off (fun i => n (sub i)) } }

theorem Moves.rd (h : Moves l a b) {off : Nat} (out : off ∉ l) (report : reportReg off = false) : b.rd off = a.rd off :=
  h.effect.reg off out report

/-- A report of the switch core or the transaction layer moves nothing. -/
theorem ChangesOnly.moves (h : ChangesOnly l a b) : Moves l a b where
  effect.rest := by rw [h.rest]
  effect.tables := TablesSame.of_mort (by rw [h.rest])
  effect.train := fun k => by rw [h.rest]; exact ⟨rfl, rfl⟩
  effect.reg := h.reg
  looped := fun k => by rw [h.rest]; rfl
  failover := by rw [h.rest]; exact ⟨rfl, rfl⟩
  nextId := by rw [h.rest]

theorem Moves.withSw {x : Switch} (failover : x.failed = s.sw.failed ∧ x.backOn = s.sw.backOn) (nextId : s.sw.nextId ≤ x.nextId) :
    Moves l s (s.withSw x) :=
  ⟨⟨rfl, TablesSame.of_mort rfl, fun _ => ⟨rfl, rfl⟩, fun _ _ _ => rfl⟩, fun _ => rfl, failover, nextId⟩

theorem Moves.withMort {x : Mortise} (tables : TablesSame s (s.withMort x) := by constructor <;> exact ⟨rfl, rfl⟩) :
    Moves l s (s.withMort x) :=
  ⟨⟨rfl, tables, fun _ => ⟨rfl, rfl⟩, fun _ _ _ => rfl⟩, fun _ => rfl, ⟨rfl, rfl⟩, Nat.le_refl _⟩

theorem Moves.withFree {n : Nat} : Moves l s (s.withFree n) :=
  ⟨⟨rfl, TablesSame.of_mort rfl, fun _ => ⟨rfl, rfl⟩, fun _ _ _ => rfl⟩, fun _ => rfl, ⟨rfl, rfl⟩, Nat.le_refl _⟩

theorem link_modLink (s : State) (l k : LinkId) (f : Link → Link) :
    (s.modLink l f).link k = if k = l then f (s.link l) else s.link k := by
  split
  · next e => subst e; exact Tab.get_put_same ..
  · next ne => exact Tab.get_put_other _ _ _ _ (fun e => ne (Fin.ext e))

theorem Moves.modLink {k : LinkId} {f : Link → Link}
    (same : ∀ x, (f x).train = x.train ∧ (f x).cfg = x.cfg ∧ (f x).looped = x.looped) : Moves l s (s.modLink k f) where
  effect.rest := rfl
  effect.tables := TablesSame.of_mort rfl
  effect.train := fun j => by
    rw [link_modLink]
    split
    · next e => subst e; exact ⟨(same _).1, (same _).2.1⟩
    · exact ⟨rfl, rfl⟩
  effect.reg := fun _ _ _ => rfl
  looped := fun j => by
    rw [link_modLink]
    split
    · next e => subst e; exact (same _).2.2
    · rfl
  failover := ⟨rfl, rfl⟩
  nextId := Nat.le_refl _

/-- Pool memory is no part of what moves frames. -/
theorem Moves.withPool (h : Moves l a b) (p : Pool) : Moves l (a.withPool p) (b.withPool p) where
  effect.rest := by
    have e := h.effect.rest
    rw [e]
    rfl
  effect.tables := ⟨h.effect.tables.jobs, h.effect.tables.addresses, h.effect.tables.admission, h.effect.tables.drawers,
    h.effect.tables.banks⟩
  effect.train := h.effect.train
  effect.reg := h.effect.reg
  looped := h.looped
  failover := h.failover
  nextId := h.nextId

/-! What it leaves alone. -/

theorem Moves.pool (h : Moves l a b) : b.pool = a.pool := by rw [h.effect.rest]
theorem Moves.fault (h : Moves l a b) : b.fault = a.fault := by rw [h.effect.rest]
theorem Moves.boot (h : Moves l a b) : b.boot = a.boot := by rw [h.effect.rest]

theorem fabricRegs_below {off : Nat} (i : off ∈ fabricRegs) : (off < 0x700200 ∨ 0x800000 ≤ off) ∧ off ≠ Reg.swIdentity := by
  have all : ∀ x ∈ fabricRegs, (x < 0x700200 ∨ 0x800000 ≤ x) ∧ x ≠ Reg.swIdentity := by decide
  exact all off i

theorem reportReg_below {off : Nat} (lt : off < 0x1100000) : reportReg off = false := by
  simp [reportReg, Reg.hostErr, Reg.evtTail, Reg.evtDrop, Reg.trcTrigTimeLo, Reg.trcTrigTimeHi]
  omega

/-- The port, route and policer registers are the hosts' alone. -/
theorem Moves.rd_switch (h : Moves fabricRegs a b) {off : Nat} (lo : 0x700200 ≤ off) (hi : off < 0x800000) : b.rd off = a.rd off :=
  h.rd (fun i => by have := (fabricRegs_below i).1; omega) (reportReg_below (by omega))

theorem Moves.swNum (h : Moves fabricRegs a b) : b.swNum = a.swNum := by
  have same : b.rd Reg.swIdentity = a.rd Reg.swIdentity := h.rd (fun i => (fabricRegs_below i).2 rfl) (by decide)
  unfold State.swNum State.isFabric State.identity
  rw [h.boot, same]

theorem Moves.linksOf (h : Moves l a b) (p : Port) : b.linksOf p = a.linksOf p := by
  unfold State.linksOf State.isSplit
  rw [(h.effect.train p.link).2]

theorem Moves.egressOf (h : Moves l a b) (n : Nat) : b.egressOf n = a.egressOf n := by
  have up : ∀ p, b.portUp p = a.portUp p := fun p => by
    simp only [State.portUp, h.linksOf, (h.effect.train _).1, h.looped]
  unfold State.egressOf State.role
  split
  · next p _ => rw [(h.effect.train p.link).2, up]
  · rfl

theorem Moves.rd_route (h : Moves fabricRegs a b) (dest : BitVec 12) :
    b.rd (Reg.swRoute dest.toNat) = a.rd (Reg.swRoute dest.toNat) :=
  h.rd_switch (by simp only [Reg.swRoute]; omega) (by have := dest.isLt; simp only [Reg.swRoute]; omega)

theorem Moves.route (h : Moves fabricRegs a b) (dest : BitVec 12) (i : InputId) (c : Cls) : b.route dest i c = a.route dest i c := by
  unfold State.route State.onAlternate
  rw [h.rd_route, h.failover.1, h.failover.2]
  simp only [h.egressOf]

theorem Moves.routeOut (h : Moves fabricRegs a b) (dest : BitVec 12) (c : Cls) : b.routeOut dest c = a.routeOut dest c := by
  unfold State.routeOut
  simp only [h.rd_route, h.route]

theorem Moves.answerable (h : Moves fabricRegs a b) {f : Frame} {c : Cls} (able : Answerable a f c) : Answerable b f c := by
  rw [Answerable, h.swNum, h.routeOut]
  exact able

end Sys2Proof.Machine

/-! ## One rule per operation that moves frames (R140, R156, R160, R163, R183) -/
namespace Sys2Proof.Machine

variable {s t : State} {l : List Nat}

/-- Registers that a raise of SW_ERR, a raise of MORT_ERR, and a frame without a route write. -/
def swErrRegs : List Nat := Reg.swErrCapture :: recordRegs Reg.swErr
def mortErrRegs : List Nat := Reg.mortErrCapture :: Reg.mortErrCaptureSw :: recordRegs Reg.mortErr
def routeRegs : List Nat := Reg.swNoroute :: swErrRegs

theorem swErrRegs_fabric : swErrRegs ⊆ fabricRegs := by decide
theorem mortErrRegs_fabric : mortErrRegs ⊆ fabricRegs := by decide
theorem routeRegs_fabric : routeRegs ⊆ fabricRegs := by decide
theorem mirCount_fabric {m : Nat} (lt : m < 8) : Reg.mirCount m ∈ fabricRegs :=
  List.mem_append_right _ (List.mem_map_of_mem (List.mem_range.2 lt))

theorem bump_moves {off : Nat} (m : off ∈ l) : Moves l s (s.bump off) := (ChangesOnly.bump (Or.inl m)).moves

theorem raiseSw_changes {n i o c : Nat} (sub : swErrRegs ⊆ l) : ChangesOnly l s (s.raiseSw n i o c) := by
  refine raise_changes _ _ _ (fun x m => sub (List.mem_cons_of_mem _ m)) (fun p m => sub ?_)
  rw [List.mem_singleton.1 m]
  exact List.mem_cons_self ..

theorem raiseSw_moves {n i o c : Nat} (sub : swErrRegs ⊆ l) : Moves l s (s.raiseSw n i o c) := (raiseSw_changes sub).moves

theorem raiseMort_moves {n : Nat} {f : Frame} {st : Status} (sub : mortErrRegs ⊆ l) : Moves l s (s.raiseMort n f st) := by
  refine (raise_changes _ _ _ (fun x m => sub (List.mem_cons_of_mem _ (List.mem_cons_of_mem _ m))) (fun p m => sub ?_)).moves
  simp only [List.mem_cons, List.not_mem_nil, or_false] at m
  rcases m with rfl | rfl
  · exact List.mem_cons_self ..
  · exact List.mem_cons_of_mem _ (List.mem_cons_self ..)

theorem raiseMort_sets {n : Nat} {f : Frame} {st : Status} (lt : n < 32) : bit ((s.raiseMort n f st).rd Reg.mortErr) n = true :=
  raiseCap_sets _ _ _ _ lt (by decide)

theorem raiseSw_sets {n i o c : Nat} (lt : n < 32) : bit ((s.raiseSw n i o c).rd Reg.swErr) n = true :=
  raiseCap_sets _ _ _ _ lt (by decide)

theorem countRefusal_moves {f : Frame} {st : Status} (denied : Reg.mortDenied ∈ l) (fenced : Reg.mortFenced ∈ l) (sub : mortErrRegs ⊆ l) :
    Moves l s (s.countRefusal f st) := by
  unfold State.countRefusal
  split
  · exact (bump_moves fenced).trans (raiseMort_moves sub)
  · exact (bump_moves denied).trans (raiseMort_moves sub)

theorem enqueue_moves {i : InputId} {d : Dest} {half : Option Bool} {c : Cls} {f : Frame} : Moves l s (s.enqueue i d half c f) :=
  Moves.withSw ⟨rfl, rfl⟩ (Nat.le_succ _)

theorem addJob_moves {job : BitVec 12} {word n : Nat} : Moves l s (s.addJob job word n) := Moves.withMort

theorem cplToAgent_moves {a : AgentTag} {c : Cls} {f : Frame} : Moves l s (s.cplToAgent a c f) :=
  (Moves.withMort).trans enqueue_moves

theorem oweCredit_moves {k : LinkId} {c : Cls} {n : Nat} : Moves l s (s.oweCredit k c n) :=
  Moves.modLink (fun _ => ⟨rfl, rfl, rfl⟩)

theorem dropEntry_moves {e : QEntry} : Moves l s (s.dropEntry e) := by
  have kept : Moves l s (s.withSw { s.sw with queue := s.sw.queue.filter (fun x => x.id != e.id) }) :=
    Moves.withSw ⟨rfl, rfl⟩ (Nat.le_refl _)
  unfold State.dropEntry
  dsimp only
  split
  · exact kept.trans oweCredit_moves
  · exact kept

theorem dropArriving_moves {k : LinkId} {a : Arriving} : Moves l s (s.dropArriving k a) := by
  unfold State.dropArriving
  exact oweCredit_moves.trans (Moves.modLink (fun _ => ⟨rfl, rfl, rfl⟩))

/-! A completion, or a refusal, is sent or finds no route (R140, R163, R567). -/

theorem noRoute_moves {i : InputId} {d : BitVec 12} {c : Cls} (sub : routeRegs ⊆ l) : Moves l s (s.noRoute i d c) := by
  unfold State.noRoute
  exact (bump_moves (sub (List.mem_cons_self ..))).trans (raiseSw_moves (fun _ m => sub (List.mem_cons_of_mem _ m)))

/-- On the way from `s` to `t` what is to be sent is sent, or counted and reported as without a route. -/
def Routes (s t : State) : Prop := ∃ u, Moves [] s u ∧ (t = u ∨ ∃ i d c, t = u.noRoute i d c)

theorem Moves.routes (h : Moves [] s t) : Routes s t := ⟨t, h, Or.inl rfl⟩

theorem Routes.after {u : State} (r : Routes u t) (h : Moves [] s u) : Routes s t := by
  obtain ⟨v, moved, last⟩ := r
  exact ⟨v, h.trans moved, last⟩

theorem Routes.moves (r : Routes s t) (sub : routeRegs ⊆ l) : Moves l s t := by
  obtain ⟨u, moved, rfl | ⟨i, d, c, rfl⟩⟩ := r
  · exact moved.mono (List.nil_subset _)
  · exact (moved.mono (List.nil_subset _)).trans (noRoute_moves sub)

theorem record_rd (e n : Nat) (caps bitCaps : List (Nat × Word)) (hr : reportReg e = false) :
    (s.record e n caps bitCaps).rd e = setBit (s.rd e) n := by
  have trig : ∀ u : State, ([0, 1, 2, 3].foldl (fun s k => traceTrigger s e n k) u).rd e = u.rd e := fun u =>
    (ChangesOnly.foldl (l := []) [0, 1, 2, 3] (fun _ k hk => traceTrigger_changes e n hk)).reg e (List.not_mem_nil) hr
  have traced : ∀ (u : State) (d : Bytes), (u.traceEv 3 0 true d).rd e = u.rd e := fun u d =>
    (traceEv_changes (l := []) 3 0 true d).reg e (List.not_mem_nil) hr
  unfold State.record
  simp only [trig, traced, State.rd_wr_same]

/-- A raise takes no bit back. -/
theorem raiseCap_keeps (e n k : Nat) (caps bitCaps : List (Nat × Word)) (hr : reportReg e = false) (set : bit (s.rd e) k = true) :
    bit ((s.raiseCap e n caps bitCaps).rd e) k = true := by
  have kept : bit ((s.record e n caps bitCaps).rd e) k = true := by
    rw [record_rd _ _ _ _ hr]
    simp only [bit, setBit, BitVec.getLsbD_or] at set ⊢
    rw [set, Bool.true_or]
  unfold State.raiseCap
  dsimp only
  split
  · exact kept
  · rw [(postEvent_changes (l := []) 0x01 n e []).reg e (List.not_mem_nil) hr]
    exact kept

theorem Routes.swErr (r : Routes s t) {n : Nat} (set : bit (s.rd Reg.swErr) n = true) : bit (t.rd Reg.swErr) n = true := by
  obtain ⟨u, moved, last⟩ := r
  rw [← moved.rd List.not_mem_nil (by decide)] at set
  rcases last with rfl | ⟨i, d, c, rfl⟩
  · exact set
  · refine raiseCap_keeps _ _ _ _ _ (by decide) ?_
    rw [State.bump, State.addReg, State.rd_wr_other _ _ (by decide)]
    exact set

theorem sendFrameOut_routes {k : Fin 12} {c : Cls} {f : Frame} : Routes s (s.sendFrameOut k c f) := by
  unfold State.sendFrameOut
  split
  · split
    · split
      · exact cplToAgent_moves.routes
      · exact enqueue_moves.routes
    · exact enqueue_moves.routes
  · split
    · exact enqueue_moves.routes
    · exact ⟨s, Moves.refl s, Or.inr ⟨_, _, _, rfl⟩⟩

theorem complete_routes {k : Fin 12} {c : Cls} {req : Frame} {st : Status} {data : Bool} {payload : Bytes} {flags : BitVec 8}
    {unit : BitVec 10} : Routes s (s.complete k c req st data payload flags unit) := by
  unfold State.complete
  dsimp only
  split
  · exact enqueue_moves.routes
  · exact sendFrameOut_routes

theorem refuse_routes {k : Fin 12} {c : Cls} {req : Frame} {st : Status} : Routes s (s.refuse k c req st) := by
  unfold State.refuse
  dsimp only
  split
  · exact complete_routes.after addJob_moves
  · exact complete_routes

/-! What a completion puts into a queue (R140). -/

/-- The data that a completion carries (R19). -/
def cplData (st : Status) (payload : Bytes) : Bytes := if delivers st then payload else []

@[simp] theorem cplData_nil (st : Status) : cplData st [] = [] := ite_self _

/-- The completion that is sent for a request. -/
def cplFrame (s : State) (req : Frame) (st : Status) (data : Bool) (payload : Bytes) (flags : BitVec 8) (unit : BitVec 10) : Frame :=
  Frame.sealed (cplHdr s req st data (cplData st payload).length flags unit) (cplData st payload)

/-- A completion that enters a queue answers its request. -/
theorem completed_of_enqueue {u : State} {i : InputId} {d : Dest} {half : Option Bool} {c : Cls} {req : Frame} {st : Status}
    {data : Bool} {payload : Bytes} {flags : BitVec 8} {unit : BitVec 10} (next : s.sw.nextId ≤ u.sw.nextId) :
    Completed req st (cplData st payload) s (u.enqueue i d half c (cplFrame s req st data payload flags unit)) := by
  have answers : (cplFrame s req st data payload flags unit).isCpl = true := by
    cases data <;> simp [cplFrame, Frame.isCpl, Frame.sealed, cplHdr]
  refine ⟨_, List.mem_append_right _ (List.mem_singleton_self _), cplFrame s req st data payload flags unit, next, rfl, rfl, answers, ?_⟩
  simp [cplFrame, Frame.sealed, cplHdr]

theorem complete_completed {k : Fin 12} {c : Cls} {req : Frame} {st : Status} {data : Bool} {payload : Bytes} {flags : BitVec 8}
    {unit : BitVec 10} (able : Answerable s req c) :
    Completed req st (cplData st payload) s (s.complete k c req st data payload flags unit) := by
  have dest : (cplFrame s req st data payload flags unit).dest = req.srcSwitch := by simp [cplFrame, Frame.sealed, cplHdr]
  change Completed _ _ _ _ (if _ then s.enqueue _ _ _ _ (cplFrame s req st data payload flags unit)
    else s.sendFrameOut k c (cplFrame s req st data payload flags unit))
  unfold State.sendFrameOut
  rw [dest]
  split
  · exact completed_of_enqueue (Nat.le_refl _)
  · split
    · split
      · split
        · exact completed_of_enqueue (Nat.le_refl _)
        · exact completed_of_enqueue (Nat.le_refl _)
      · exact completed_of_enqueue (Nat.le_refl _)
    · next elsewhere =>
      split
      · exact completed_of_enqueue (Nat.le_refl _)
      · next noRoute =>
        rcases able with here | route
        · exact absurd (beq_iff_eq.2 here) elsewhere
        · rw [noRoute] at route
          exact absurd route (by decide)

theorem Completed.before {u : State} {f : Frame} {st : Status} {data : Bytes} (h : Completed f st data u t)
    (next : s.sw.nextId ≤ u.sw.nextId) : Completed f st data s t := by
  obtain ⟨e, queued, c, id, rest⟩ := h
  exact ⟨e, queued, c, next.trans id, rest⟩

theorem refuse_completed {k : Fin 12} {c : Cls} {req : Frame} {st : Status} (able : Answerable s req c) :
    Completed req st [] s (s.refuse k c req st) := by
  have done : ∀ u, Answerable u req c → Completed req st [] u (u.complete k c req st (cplHasData req) [] 0 Config.memoryUnit) := by
    intro u ok
    simpa using complete_completed (payload := []) ok
  unfold State.refuse
  dsimp only
  split
  · exact (done _ (addJob_moves.answerable able)).before (Nat.le_refl _)
  · exact done s able

end Sys2Proof.Machine

/-! ## The local output: what is taken from it, and the mortise check (R16, R147) -/
namespace Sys2Proof.Machine

variable {a b s t : State} {l : List Nat}

/-! The tables of the mortise check, while frames move. -/

theorem Moves.portPartition (h : Moves l a b) : b.portPartition = a.portPartition := by
  funext p
  unfold State.portPartition
  rw [(h.effect.train p.link).2]

theorem Moves.isFenced (h : Moves l a b) (part : Nat) : b.isFenced part = a.isFenced part := by
  unfold State.isFenced
  rw [h.fault]

theorem Moves.jobEntry (h : Moves l a b) (j : Nat) : b.jobEntry j = a.jobEntry j := by
  unfold State.jobEntry
  rw [h.effect.tables.jobs.1, h.effect.tables.jobs.2, h.effect.tables.banks.1]

theorem Moves.jatOf (h : Moves l a b) (j : Nat) : b.jatOf j = a.jatOf j := by
  unfold State.jatOf State.jatTable
  rw [h.effect.tables.addresses.1, h.effect.tables.addresses.2, h.effect.tables.banks.1]

theorem Moves.drawerTable (h : Moves l a b) : b.drawerTable = a.drawerTable := by
  unfold State.drawerTable
  rw [h.effect.tables.drawers.1, h.effect.tables.drawers.2, h.effect.tables.banks.2]

theorem Moves.drawer (h : Moves l a b) (d : Nat) : b.drawer d = a.drawer d := by
  unfold State.drawer
  rw [h.drawerTable]

theorem Moves.mortise12 (h : Moves l a b) (part : Option Nat) (j : BitVec 12) : b.mortise12 part j = a.mortise12 part j := by
  unfold State.mortise12
  simp only [h.jobEntry, h.isFenced]

theorem Moves.mortise (h : Moves fabricRegs a b) (part : Option Nat) (j : BitVec 12) (ak : Bool) (addr : Dword) (ext rights : Nat) :
    b.mortise part j ak addr ext rights = a.mortise part j ak addr ext rights := by
  unfold State.mortise State.mortiseTail
  simp only [h.jobEntry, h.isFenced, h.jatOf, h.drawer, h.drawerTable, h.swNum]

theorem Moves.region (h : Moves l a b) (o : Nat) : b.region o = a.region o := by
  unfold State.region
  rw [h.pool]

theorem Moves.admitFrame (h : Moves fabricRegs a b) (part : Option Nat) (f : Frame) (addr : Dword) (ext rights : Nat) :
    b.admitFrame part f addr ext rights = a.admitFrame part f addr ext rights := by
  unfold State.admitFrame State.lendable
  simp only [h.mortise, h.region]

/-! A frame taken from a local output. -/

theorem takeHome_moves {k : Fin 12} {e : QEntry} : Moves l s (s.takeHome k e) := by
  unfold State.takeHome
  dsimp only
  split
  · exact dropEntry_moves
  · exact dropEntry_moves.trans Moves.withMort

theorem dropEntry_passed (s : State) (e : QEntry) : (s.dropEntry e).sw.passed = s.sw.passed := by
  unfold State.dropEntry
  dsimp only
  split <;> rfl

theorem dropEntry_served (s : State) (e : QEntry) : (s.dropEntry e).mort.served = s.mort.served := by
  unfold State.dropEntry
  dsimp only
  split <;> rfl

theorem takeHome_passed (s : State) (k : Fin 12) (e : QEntry) : (s.takeHome k e).sw.passed = s.sw.passed := by
  unfold State.takeHome
  dsimp only
  split <;> exact dropEntry_passed ..

theorem takeHome_served (s : State) (k : Fin 12) (e : QEntry) : (s.takeHome k e).mort.served = s.mort.served := by
  unfold State.takeHome
  dsimp only
  split <;> exact dropEntry_served ..

theorem exec_mortiseCheck {k : Fin 12} {e : QEntry} (next : s.homeNext k = some e) (request : (Frame.ofBytes e.bytes).isCpl = false) :
    exec (.mortiseCheck k) s = .next ((s.takeHome k e).checkRequest k e (Frame.ofBytes e.bytes)) := by
  change execMortiseCheck k s = _
  unfold execMortiseCheck
  rw [next]
  simp [request]

/-! What the check does with a request (R16, R147). -/

theorem not_snoop {f : Frame} (dir : f.opcode ≠ 0x48) : isSnoop f = false ∧ isAnswer f = false := by
  rw [isSnoop, isAnswer, beq_eq_false_iff_ne.2 dir]
  exact ⟨rfl, rfl⟩

theorem not_rollNote {f : Frame} (roll : f.opcode ≠ 0x40) : isRollNote f = false := by
  rw [isRollNote, beq_eq_false_iff_ne.2 roll]
  rfl

/-- A frame whose check fails, of a kind that is completed. -/
theorem checkRequest_broken {k : Fin 12} {e : QEntry} {f : Frame}
    (broken : e.short = true ∨ f.payload.length ≠ f.len ∨ f.checkOk = false) (dir : f.opcode ≠ 0x48) (roll : f.opcode ≠ 0x40) :
    s.checkRequest k e f = ((s.bump Reg.mortCheck).raiseMort 0 f St.check).refuse k e.cls f St.check := by
  have fails : (e.short || f.payload.length != f.len || !f.checkOk) = true := by
    rcases broken with h | h | h <;> simp [h]
  unfold State.checkRequest
  simp [fails, not_snoop dir, not_rollNote roll]

section Sound
variable {k : Fin 12} {e : QEntry} {f : Frame} (sound : SoundRequest e f)
include sound

/-- A sound request of memory that the mortise check refuses. -/
theorem checkRequest_refused {st : Status} (op : f.opcode ∉ ([0x30, 0x40, 0x48, 0x50, 0x58] : List (BitVec 8)))
    (refused : s.admitFrame ((portOf e.input.val).map s.portPartition) f (requestExtent f).1 (requestExtent f).2 (opRights f)
      = .mortise st) : s.checkRequest k e f = s.refuseMort k e.cls f st := by
  obtain ⟨-, -, long, len, check, gen, rsvd, aligned⟩ := sound
  simp only [List.mem_cons, List.not_mem_nil, or_false, not_or, ← ne_eq] at op
  obtain ⟨msg, roll, dir, order, net⟩ := op
  unfold State.checkRequest State.fromRoll
  simp only [long, len, check, gen, rsvd, aligned, not_snoop dir, not_rollNote roll, beq_eq_false_iff_ne.2 msg,
    beq_eq_false_iff_ne.2 roll, beq_eq_false_iff_ne.2 order, beq_eq_false_iff_ne.2 net, refused]
  simp

/-- A sound request of memory that nobody else shares, and that passes. -/
theorem checkRequest_accepted {d : DrawerId} {o : Nat} (op : f.opcode ∉ ([0x30, 0x40, 0x48, 0x50, 0x58] : List (BitVec 8)))
    (pass : s.admitFrame ((portOf e.input.val).map s.portPartition) f (requestExtent f).1 (requestExtent f).2 (opRights f)
      = .ok d o false) : s.checkRequest k e f = s.accept k e f d o false := by
  obtain ⟨-, -, long, len, check, gen, rsvd, aligned⟩ := sound
  simp only [List.mem_cons, List.not_mem_nil, or_false, not_or, ← ne_eq] at op
  obtain ⟨msg, roll, dir, order, net⟩ := op
  unfold State.checkRequest State.fromRoll
  simp only [long, len, check, gen, rsvd, aligned, not_snoop dir, not_rollNote roll, beq_eq_false_iff_ne.2 msg,
    beq_eq_false_iff_ne.2 roll, beq_eq_false_iff_ne.2 dir, beq_eq_false_iff_ne.2 order, beq_eq_false_iff_ne.2 net, pass]
  simp

/-- A sound message stops after the steps that name no memory. -/
theorem checkRequest_message (op : f.opcode = 0x30) (pass : s.mortise12 ((portOf e.input.val).map s.portPartition) f.job = none) :
    s.checkRequest k e f = s.passOn k e f none 0 := by
  obtain ⟨-, -, long, len, check, gen, rsvd, aligned⟩ := sound
  have dir : f.opcode ≠ 0x48 := by simp [op]
  have roll : f.opcode ≠ 0x40 := by simp [op]
  unfold State.checkRequest State.fromRoll
  simp [long, len, check, gen, rsvd, aligned, not_snoop dir, not_rollNote roll, op, pass]

end Sound

end Sys2Proof.Machine

/-! ## Frames that are discarded, refused or passed on (R133, R138, R147, R168) -/
namespace Sys2Proof.Machine

variable {s t u v : State} {l m : List Nat} {off n : Nat}

/-- A count stands when what comes before it and after it leaves the counter alone. -/
theorem Counted.within (count : Counted off n u v) (before : Moves l s u) (after : Moves m v t) (outBefore : off ∉ l)
    (outAfter : off ∉ m) (report : reportReg off = false) : Counted off n s t := by
  rw [Counted, after.rd outAfter report, ← before.rd outBefore report]
  exact count

theorem refuse_moves {k : Fin 12} {c : Cls} {req : Frame} {st : Status} : Moves fabricRegs s (s.refuse k c req st) :=
  refuse_routes.moves routeRegs_fabric

/-! MORTISE_CHECK of a frame whose check fails (R138). -/

theorem mortiseCheck_broken {k : Fin 12} {e : QEntry} (next : s.homeNext k = some e) (request : (Frame.ofBytes e.bytes).isCpl = false)
    (broken : e.short = true ∨ (Frame.ofBytes e.bytes).payload.length ≠ (Frame.ofBytes e.bytes).len
      ∨ (Frame.ofBytes e.bytes).checkOk = false)
    (dir : (Frame.ofBytes e.bytes).opcode ≠ 0x48) (roll : (Frame.ofBytes e.bytes).opcode ≠ 0x40)
    (able : Answerable s (Frame.ofBytes e.bytes) e.cls) :
    ∃ t, exec (.mortiseCheck k) s = .next t ∧ FabricEffect fabricRegs s t ∧ Counted Reg.mortCheck 1 s t
      ∧ bit (t.rd Reg.mortErr) 0 = true ∧ Completed (Frame.ofBytes e.bytes) St.check [] s t := by
  have run := exec_mortiseCheck next request
  rw [checkRequest_broken broken dir roll] at run
  have taken : Moves [] s (s.takeHome k e) := takeHome_moves
  have raised : Moves mortErrRegs ((s.takeHome k e).bump Reg.mortCheck)
      (((s.takeHome k e).bump Reg.mortCheck).raiseMort 0 (Frame.ofBytes e.bytes) St.check) := raiseMort_moves (List.Subset.refl _)
  have bumped : Moves fabricRegs (s.takeHome k e) ((s.takeHome k e).bump Reg.mortCheck) := bump_moves (by decide)
  have before := ((taken.mono (List.nil_subset _)).trans bumped).trans (raised.mono mortErrRegs_fabric)
  generalize hv : ((s.takeHome k e).bump Reg.mortCheck).raiseMort 0 (Frame.ofBytes e.bytes) St.check = v at run raised before
  have ends : Routes v (v.refuse k e.cls (Frame.ofBytes e.bytes) St.check) := refuse_routes
  have count : Counted Reg.mortCheck 1 (s.takeHome k e) v :=
    (counted_bump _ _).within (Moves.refl (l := []) _) raised (by decide) (by decide) (by decide)
  refine ⟨_, run, (before.trans refuse_moves).effect,
    count.within taken (ends.moves (List.Subset.refl _)) (by decide) (by decide) (by decide), ?_,
    (refuse_completed (before.answerable able)).before before.nextId⟩
  rw [(ends.moves (List.Subset.refl _)).rd (by decide) (by decide), ← hv]
  exact raiseMort_sets (by decide)

/-! MORTISE_CHECK of a request that the mortise check refuses (R147). -/

/-- What a refusal counts, and the bit that it raises. -/
theorem countRefusal_counts {f : Frame} {st : Status} :
    (st = St.fenced → Counted Reg.mortFenced 1 s (s.countRefusal f st) ∧ bit ((s.countRefusal f st).rd Reg.mortErr) 4 = true)
    ∧ (st ≠ St.fenced → Counted Reg.mortDenied 1 s (s.countRefusal f st) ∧ bit ((s.countRefusal f st).rd Reg.mortErr) 3 = true) := by
  have raised : ∀ (w : State) (b : Nat), Moves mortErrRegs w (w.raiseMort b f st) := fun _ _ => raiseMort_moves (List.Subset.refl _)
  unfold State.countRefusal
  constructor
  · intro fenced
    rw [if_pos (beq_iff_eq.2 fenced)]
    exact ⟨(counted_bump s _).within (Moves.refl (l := []) s) (raised _ 4) (by decide) (by decide) (by decide),
      raiseMort_sets (by decide)⟩
  · intro denied
    rw [if_neg (fun h => denied (beq_iff_eq.1 h))]
    exact ⟨(counted_bump s _).within (Moves.refl (l := []) s) (raised _ 3) (by decide) (by decide) (by decide),
      raiseMort_sets (by decide)⟩

theorem mortiseCheck_refused {k : Fin 12} {e : QEntry} {f : Frame} {st : Status} (next : s.homeNext k = some e)
    (sound : SoundRequest e f) (op : f.opcode ∉ ([0x30, 0x40, 0x48, 0x50, 0x58] : List (BitVec 8)))
    (refused : s.admitFrame ((portOf e.input.val).map s.portPartition) f (requestExtent f).1 (requestExtent f).2 (opRights f)
      = .mortise st) (able : Answerable s f e.cls) :
    ∃ t, exec (.mortiseCheck k) s = .next t ∧ FabricEffect fabricRegs s t ∧ Completed f st [] s t
      ∧ (st = St.fenced → Counted Reg.mortFenced 1 s t ∧ bit (t.rd Reg.mortErr) 4 = true)
      ∧ (st ≠ St.fenced → Counted Reg.mortDenied 1 s t ∧ bit (t.rd Reg.mortErr) 3 = true) := by
  obtain rfl := sound.1
  have taken : Moves [] s (s.takeHome k e) := takeHome_moves
  have run := exec_mortiseCheck next sound.2.1
  rw [checkRequest_refused sound op (by rw [(taken.mono (List.nil_subset _)).admitFrame, taken.portPartition]; exact refused)] at run
  have before : Moves fabricRegs s ((s.takeHome k e).countRefusal (Frame.ofBytes e.bytes) st) :=
    (taken.mono (List.nil_subset _)).trans (countRefusal_moves (by decide) (by decide) mortErrRegs_fabric)
  have ends : Moves routeRegs _ ((s.takeHome k e).refuseMort k e.cls (Frame.ofBytes e.bytes) st) :=
    refuse_routes.moves (List.Subset.refl _)
  have bits : ((s.takeHome k e).refuseMort k e.cls (Frame.ofBytes e.bytes) st).rd Reg.mortErr = _ := ends.rd (by decide) (by decide)
  obtain ⟨fenced, denied⟩ := countRefusal_counts (s := s.takeHome k e) (f := Frame.ofBytes e.bytes) (st := st)
  refine ⟨_, run, (before.trans refuse_moves).effect, (refuse_completed (before.answerable able)).before before.nextId, ?_, ?_⟩
  · intro h
    rw [bits]
    exact ⟨(fenced h).1.within taken ends (by decide) (by decide) (by decide), (fenced h).2⟩
  · intro h
    rw [bits]
    exact ⟨(denied h).1.within taken ends (by decide) (by decide) (by decide), (denied h).2⟩

/-! MORTISE_CHECK of a message that passes (R133). -/

theorem passOn_moves {k : Fin 12} {e : QEntry} {f : Frame} {d : Option Nat} {o : Nat} : Moves l s (s.passOn k e f d o) := by
  unfold State.passOn State.acceptId
  dsimp only
  split
  · exact (Moves.withMort).trans (Moves.withSw ⟨rfl, rfl⟩ (Nat.le_refl _))
  · exact ((Moves.withMort).trans addJob_moves).trans (Moves.withSw ⟨rfl, rfl⟩ (Nat.le_refl _))

theorem passOn_passed {k : Fin 12} {e : QEntry} {f : Frame} {d : Option Nat} {o : Nat} :
    (s.passOn k e f d o).sw.passed = s.sw.passed ++ [⟨f, e.cls, k, portOf e.input.val, s.mort.nextServed, d, o⟩] := by
  unfold State.passOn State.acceptId
  dsimp only
  split <;> rfl

theorem mortiseCheck_message {k : Fin 12} {e : QEntry} {f : Frame} (next : s.homeNext k = some e) (sound : SoundRequest e f)
    (op : f.opcode = 0x30) (pass : s.mortise12 ((portOf e.input.val).map s.portPartition) f.job = none) :
    ∃ t, exec (.mortiseCheck k) s = .next t ∧ FabricEffect [] s t
      ∧ ∃ p, t.sw.passed = s.sw.passed ++ [p] ∧ p.frame = f ∧ p.cls = e.cls ∧ p.cluster = k ∧ p.drawer = none := by
  obtain rfl := sound.1
  have taken : Moves [] s (s.takeHome k e) := takeHome_moves
  have run := exec_mortiseCheck next sound.2.1
  rw [checkRequest_message sound op (by rw [taken.mortise12, taken.portPartition]; exact pass)] at run
  exact ⟨_, run, (taken.trans passOn_moves).effect, _, passOn_passed.trans (by rw [takeHome_passed]), rfl, rfl, rfl, rfl⟩

/-! SAF_FRAME_COMPLETE (R168). -/

/-- The whole store-and-forward frames of a class of a link, which are not yet eligible. -/
def safWaits (l : LinkId) (c : Cls) (e : QEntry) : Bool :=
  e.input == portIn l.port && e.half1 == (l.val % 2 == 1) && e.cls == c && e.saf && e.whole && !e.eligible

/-- The number of the output that a queued frame is bound for. -/
def outputOf (e : QEntry) : Nat :=
  match e.dest with
  | .port p => p.val
  | .home => 192 + (inputCluster e.input).val

/-- A store-and-forward frame whose counts do not agree: counted, reported and out of its queue. -/
def safDropped (s : State) (c : Cls) (e : QEntry) : State :=
  ((s.bump Reg.swLenDrop).raiseSw 0 e.input.val (outputOf e) c.val).dropEntry e

/-- The frame that a queue entry holds. -/
def entryFrame (e : QEntry) : Frame := ⟨e.hdr, e.bytes.drop 32, 0⟩

theorem exec_safFrameComplete {k : LinkId} {c : Cls} {e : QEntry} (found : s.sw.queue.find? (safWaits k c) = some e) :
    exec (.safFrameComplete k c) s = .next
      (if e.flits == frameFlits (entryFrame e).len && e.bytes.length == 36 + (entryFrame e).len then
        s.withSw { s.sw with queue := s.sw.queue.map (fun x => if x.id == e.id then { x with eligible := true } else x) }
      else if (entryFrame e).isCpl then safDropped s c e
      else (safDropped s c e).refuse (inputCluster e.input) c (entryFrame e) St.check) := by
  change execSafFrameComplete k c s = _
  unfold execSafFrameComplete
  change (match s.sw.queue.find? (safWaits k c) with | none => _ | some e => _) = _
  rw [found]
  exact (apply_ite Host.Outcome.next _ _ _).symm

theorem safDropped_before {c : Cls} {e : QEntry} : Moves (Reg.swLenDrop :: swErrRegs) s (safDropped s c e) :=
  ((bump_moves (List.mem_cons_self ..)).trans (raiseSw_moves (List.subset_cons_self _ _))).trans dropEntry_moves

theorem safDropped_counts {c : Cls} {e : QEntry} :
    Counted Reg.swLenDrop 1 s (safDropped s c e) ∧ bit ((safDropped s c e).rd Reg.swErr) 0 = true := by
  have raised : Moves swErrRegs (s.bump Reg.swLenDrop) (safDropped s c e) :=
    (raiseSw_moves (List.Subset.refl _)).trans dropEntry_moves
  refine ⟨(counted_bump s _).within (Moves.refl (l := []) s) raised (by decide) (by decide) (by decide), ?_⟩
  have dropped : Moves [] ((s.bump Reg.swLenDrop).raiseSw 0 e.input.val (outputOf e) c.val) (safDropped s c e) := dropEntry_moves
  rw [dropped.rd (by decide) (by decide)]
  exact raiseSw_sets (by decide)

theorem safFrameComplete_frame {k : LinkId} {c : Cls} {e : QEntry} (found : s.sw.queue.find? (safWaits k c) = some e) :
    ∃ t, exec (.safFrameComplete k c) s = .next t ∧ FabricEffect fabricRegs s t
      ∧ (e.flits = frameFlits (entryFrame e).len → e.bytes.length = 36 + (entryFrame e).len →
          t = s.withSw { s.sw with queue := s.sw.queue.map (fun x => if x.id == e.id then { x with eligible := true } else x) })
      ∧ (e.flits ≠ frameFlits (entryFrame e).len → Counted Reg.swLenDrop 1 s t ∧ bit (t.rd Reg.swErr) 0 = true
          ∧ ((entryFrame e).isCpl = false → Answerable s (entryFrame e) c → Completed (entryFrame e) St.check [] s t)) := by
  have run := exec_safFrameComplete found
  have dropped : Moves fabricRegs s (safDropped s c e) := safDropped_before.mono (by decide)
  obtain ⟨count, set⟩ := safDropped_counts (s := s) (c := c) (e := e)
  refine ⟨_, run, ?_⟩
  split
  · next agree =>
    simp only [Bool.and_eq_true, beq_iff_eq] at agree
    refine ⟨Moves.effect (Moves.withSw ?_ ?_), fun _ _ => rfl, fun ne => absurd agree.1 ne⟩
    · exact ⟨rfl, rfl⟩
    · exact Nat.le_refl _
  · next differ =>
    have never : e.flits = frameFlits (entryFrame e).len → e.bytes.length ≠ 36 + (entryFrame e).len := fun flits bytes =>
      differ (by simp [flits, bytes])
    split
    · next cpl =>
      exact ⟨dropped.effect, fun flits bytes => absurd bytes (never flits), fun _ => ⟨count, set, fun no => by simp [cpl] at no⟩⟩
    · have ends : Routes (safDropped s c e) _ := refuse_routes (k := inputCluster e.input) (c := c) (req := entryFrame e) (st := St.check)
      exact ⟨(dropped.trans refuse_moves).effect, fun flits bytes => absurd bytes (never flits), fun _ =>
        ⟨count.within (Moves.refl (l := []) s) (ends.moves (List.Subset.refl _)) (by decide) (by decide) (by decide), ends.swErr set,
          fun _ able => (refuse_completed (dropped.answerable able)).before dropped.nextId⟩⟩

end Sys2Proof.Machine

/-! ## Lines of WINDOW and STACK that are read and written (R136, R191, R192) -/
namespace Sys2Proof.Machine

variable {s t u : State} {l : List Nat} {k : Fin 12} {c : Cls} {f : Frame} {o : Nat}

/-! One line of a write. -/

theorem get_putLine (n b : Nat) (mask : BitVec 128) (bs : Bytes) (t : Tab Byte) (whole : ∀ i < n, bit mask i = true) (x : Nat) :
    Tab.get 0 ((List.range n).foldl (fun t i => if bit mask i then t.put 0 (b + i) (bs.getD i 0) else t) t) x
      = if b ≤ x ∧ x < b + n then bs.getD (x - b) 0 else t.get 0 x := by
  induction n with
  | zero => rw [if_neg (by omega)]; rfl
  | succ n ih =>
    have last : bit mask n = true := whole n (Nat.lt_succ_self n)
    rw [List.range_succ, List.foldl_append, List.foldl_cons, List.foldl_nil, if_pos last]
    by_cases here : x = b + n
    · subst here
      rw [Tab.get_put_same, if_pos (by omega), Nat.add_sub_cancel_left]
    · rw [Tab.get_put_other _ _ _ _ here, ih (fun i lt => whole i (Nat.lt_succ_of_lt lt))]
      by_cases within : b ≤ x ∧ x < b + n
      · rw [if_pos within, if_pos (by omega)]
      · rw [if_neg within, if_neg (by omega)]

/-- A whole line stored at an offset from a physical base. -/
theorem get_putMasked_full (t : Tab Byte) (a line : Nat) (bs : Bytes) (x : Nat) :
    (putMasked t a ⟨line, fullMask, bs⟩).get 0 x
      = if a + line ≤ x ∧ x < a + line + 128 then bs.getD (x - (a + line)) 0 else t.get 0 x :=
  get_putLine 128 (a + line) fullMask bs t (fun i lt => by rw [bit, fullMask, BitVec.getLsbD_allOnes]; simpa using lt) x

theorem lineOfAddr_aligned {a : Dword} (aligned : a.toNat % 128 = 0) : lineOfAddr a = a := by
  refine BitVec.eq_of_getLsbD_eq fun i lt => ?_
  rw [lineOfAddr, BitVec.getLsbD_and, BitVec.getLsbD_not]
  by_cases low : i < 7
  · have zero : a.getLsbD i = false := by
      have bit := Nat.testBit_mod_two_pow a.toNat 7 i
      rw [show a.toNat % 2 ^ 7 = 0 from aligned] at bit
      simpa [low, BitVec.getLsbD] using bit.symm
    rw [zero, Bool.false_and]
  · have clear : (127 : Dword).getLsbD i = false := by
      rw [BitVec.getLsbD, show (127 : Dword).toNat = 2 ^ 7 - 1 by decide, Nat.testBit_two_pow_sub_one]
      simpa using low
    rw [clear, decide_eq_true lt, Bool.not_false, Bool.and_true, Bool.and_true]

/-! The answer to a request (R140, R504). -/

theorem answer_moves {a : Answer} : Moves fabricRegs s (s.answer k c f a) := by
  unfold State.answer
  dsimp only
  by_cases ok : delivers a.status = true
  · rw [if_pos ok, if_pos ok]
    split <;> exact addJob_moves.trans (complete_routes.moves routeRegs_fabric)
  · rw [if_neg ok, if_neg ok]
    exact refuse_moves

theorem answer_completed {a : Answer} (able : Answerable s f c) (ok : delivers a.status = true) :
    Completed f a.status a.data s (s.answer k c f a) := by
  have done : ∀ u, Moves fabricRegs s u → Completed f a.status a.data s
      (u.complete k c f a.status (cplHasData f) a.data a.flags Config.memoryUnit) := by
    intro u before
    have sent := (complete_completed (k := k) (st := a.status) (data := cplHasData f) (payload := a.data) (flags := a.flags)
      (unit := Config.memoryUnit) (before.answerable able)).before before.nextId
    rwa [cplData, if_pos ok] at sent
  unfold State.answer
  dsimp only
  rw [if_pos ok, if_pos ok]
  split <;> exact done _ addJob_moves

/-! A request in an owned region that is served at once. -/

/-- Nothing waits before a request where nothing is served and nothing has passed. -/
theorem blocked_none {r : Served} (served : s.mort.served = []) (passed : s.sw.passed = []) : s.blocked r = false := by
  simp [State.blocked, served, passed]

/-- What a request to WINDOW or STACK that need not wait is answered. -/
theorem serveOwned_direct {r : Served} {a b : Answer} (frame : r.frame = f) (offset : r.offset = o) (served : s.mort.served = [])
    (passed : s.sw.passed = []) (region : s.region o ≠ some .tiered) (op : f.opcode ≠ 0x21) (direct : s.directOp f o = (a, t))
    (access : t.afterAccess f o a = (b, u)) : s.serveOwned r = u.answer r.cluster r.cls f b := by
  have attempt : s.attempt r = (some b, u) := by
    unfold State.attempt
    rw [blocked_none served passed, if_neg (by decide), frame, offset, beq_eq_false_iff_ne.2 op, direct]
    rcases at_ : s.region o with _ | cluster | _ | _
    · simp [access]
    · simp [access]
    · simp [access]
    · exact absurd at_ region
  unfold State.serveOwned
  rw [attempt, frame]

/-! A line read (R191, R192). -/

/-- The data of a line read: what is stored, zeros in an unwritten plank. -/
def lineData (s : State) (o : Nat) : Bytes :=
  if s.pool.written.get false (o / plankBytes) then
    s.memRead (physical (o / plankBytes * plankBytes) + o % plankBytes / 128 * 128) 128
  else List.replicate 128 0

theorem memOp_lineRead {rel base : Nat} (op : f.opcode = 0x01) (good : s.badIn (base + rel / 128 * 128) 128 = []) :
    s.memOp f rel base = (⟨St.ok, s.memRead (base + rel / 128 * 128) 128, 0⟩, s) := by
  have other : (isAtomic f.opcode || isFlagOp f.opcode) = false := by rw [op]; rfl
  have read : isRead f.opcode = true := by rw [op]; rfl
  have plank : (f.opcode == 0x20) = false := by rw [op]; rfl
  have extent : opExtent f.opcode = 128 := by rw [op]; rfl
  unfold State.memOp
  simp only [other, read, plank, extent, good, Bool.false_eq_true, if_false, if_true]

theorem directOp_read (op : f.opcode = 0x01)
    (good : s.badIn (physical (o / plankBytes * plankBytes) + o % plankBytes / 128 * 128) 128 = []) :
    s.directOp f o = (⟨St.ok, lineData s o, 0⟩, s) := by
  have read : isRead f.opcode = true := by rw [op]; rfl
  have plank : (f.opcode == 0x20) = false := by rw [op]; rfl
  unfold State.directOp lineData
  dsimp only
  split
  · exact memOp_lineRead op good
  · simp only [zeroAnswer, plank, Bool.false_eq_true, if_false]

theorem afterAccess_read {a : Answer} (op : f.opcode = 0x01) (scope : f.scope = 0) : s.afterAccess f o a = (a, s) := by
  have read : isRead f.opcode = true := by rw [op]; rfl
  unfold State.afterAccess State.acquireCheck
  simp [read, scope]

/-! A line write (R191, R202, R278). -/

/-- The bytes of memory once a plank that is not written yet holds zeros. -/
def filledMem (s : State) (plank : Nat) : Tab Byte :=
  if s.pool.written.get false plank then s.pool.mem
  else s.pool.mem.clearRange (physical (plank * plankBytes)) (physical (plank * plankBytes) + plankBytes)

/-- What a line write leaves in the pool: its line stored over a plank that reads as it did, and the plank written. -/
structure LineStored (s : State) (f : Frame) (o : Nat) (p : Pool) : Prop where
  mem : p.mem = putMasked (filledMem s (o / plankBytes)) (physical (o / plankBytes * plankBytes))
    ⟨o % plankBytes / 128 * 128, fullMask, f.payload⟩
  map : p.map = s.pool.map
  written : p.written.get false (o / plankBytes) = true

/-- A whole line needs no read before it. -/
theorem writeLines_whole (base at_ : Nat) (bs : Bytes) :
    ∃ bad, let u := s.withPool { s.pool with mem := putMasked s.pool.mem base ⟨at_, fullMask, bs⟩, badLines := bad }
      s.writeLines base [⟨at_, fullMask, bs⟩] = (some u, u) :=
  ⟨s.pool.badLines.filter (fun p => !decide (p.1 = (base + at_) / 128)), by simp [State.writeLines]⟩

theorem memOp_lineWrite {rel base : Nat} (op : f.opcode = 0x02) :
    ∃ bad, s.memOp f rel base = (⟨St.ok, [], 0⟩, s.withPool { s.pool with
      mem := putMasked s.pool.mem base ⟨rel / 128 * 128, fullMask, f.payload⟩, badLines := bad }) := by
  have other : (isAtomic f.opcode || isFlagOp f.opcode) = false := by rw [op]; rfl
  have read : isRead f.opcode = false := by rw [op]; rfl
  have lines : linesOf f (rel / 128 * 128) = [⟨rel / 128 * 128, fullMask, f.payload⟩] := by
    unfold linesOf
    rw [op]
    rfl
  obtain ⟨bad, stored⟩ := writeLines_whole (s := s) base (rel / 128 * 128) f.payload
  refine ⟨bad, ?_⟩
  unfold State.memOp
  simp only [other, read, lines, stored, Bool.false_eq_true, if_false]

/-- The first write of a plank fills it with zeros (R191). -/
def zeroFilled (s : State) (plank base : Nat) : State :=
  (s.zeroPlank base).withPool { (s.zeroPlank base).pool with written := (s.zeroPlank base).pool.written.put false plank true }

theorem zeroFilled_written (s : State) (plank base : Nat) : (zeroFilled s plank base).pool.written.get false plank = true := by
  unfold zeroFilled
  exact Tab.get_put_same false _ plank true

theorem directOp_unwritten (new : s.pool.written.get false (o / plankBytes) = false) (write : isRead f.opcode = false) :
    s.directOp f o = (zeroFilled s (o / plankBytes) (physical (o / plankBytes * plankBytes))).memOp f (o % plankBytes)
      (physical (o / plankBytes * plankBytes)) := by
  unfold State.directOp
  dsimp only
  rw [if_neg (by rw [new]; decide), if_neg (by rw [write]; decide)]
  rfl

theorem directOp_lineWrite (op : f.opcode = 0x02) : ∃ p, s.directOp f o = (⟨St.ok, [], 0⟩, s.withPool p) ∧ LineStored s f o p := by
  have read : isRead f.opcode = false := by rw [op]; rfl
  by_cases old : s.pool.written.get false (o / plankBytes) = true
  · unfold State.directOp
    dsimp only
    rw [if_pos old]
    obtain ⟨bad, stored⟩ := memOp_lineWrite (s := s) (rel := o % plankBytes) (base := physical (o / plankBytes * plankBytes)) op
    exact ⟨_, stored, by rw [filledMem, if_pos old], rfl, old⟩
  · rw [directOp_unwritten (Bool.eq_false_iff.2 old) read]
    have written := zeroFilled_written s (o / plankBytes) (physical (o / plankBytes * plankBytes))
    have mem : (zeroFilled s (o / plankBytes) (physical (o / plankBytes * plankBytes))).pool.mem = filledMem s (o / plankBytes) :=
      (if_neg old).symm
    have map : (zeroFilled s (o / plankBytes) (physical (o / plankBytes * plankBytes))).pool.map = s.pool.map := rfl
    have rest : ∀ p, (zeroFilled s (o / plankBytes) (physical (o / plankBytes * plankBytes))).withPool p = s.withPool p := fun _ => rfl
    obtain ⟨bad, stored⟩ := memOp_lineWrite (s := zeroFilled s (o / plankBytes) (physical (o / plankBytes * plankBytes)))
      (rel := o % plankBytes) (base := physical (o / plankBytes * plankBytes)) op
    rw [stored, rest]
    exact ⟨_, rfl, by rw [mem], map, written⟩

/-- A line write that has stored its line touches tags and caches alone. -/
theorem afterAccess_lineWrite {a : Answer} {p : Pool} (op : f.opcode = 0x02) (ok : delivers a.status = true)
    (stored : LineStored s f o p) : ∃ q, (s.withPool p).afterAccess f o a = (a, s.withPool q) ∧ LineStored s f o q := by
  have read : isRead f.opcode = false := by rw [op]; rfl
  have atomic : (f.opcode == 0x01 || isAtomic f.opcode) = false := by rw [op]; rfl
  have flag : isFlagOp f.opcode = false := by rw [op]; rfl
  have plank : (f.opcode == 0x22) = false ∧ (f.opcode == 0x21) = false := by rw [op]; decide
  unfold State.afterAccess State.acquireCheck
  simp only [ok, read, atomic, flag, plank.1, plank.2, Bool.not_true, Bool.not_false, Bool.true_or, Bool.false_eq_true, if_false, if_true,
    List.foldl_cons, List.foldl_nil]
  exact ⟨_, rfl, stored.mem, stored.map, stored.written⟩

/-! MORTISE_CHECK of a line read or write that passes. -/

/-- The state in which an accepted request is served: it has its number and counts in its job's view. -/
def accepted (s : State) (f : Frame) : State := s.acceptId.2.addJob f.job 0 1

/-- The record of a request of memory that nobody shares. -/
def servedAs (s : State) (k : Fin 12) (e : QEntry) (f : Frame) (d : DrawerId) (o : Nat) : Served :=
  { id := s.acceptId.1, frame := f, cls := e.cls, drawer := d, offset := o + (f.addr.toNat - (requestExtent f).1.toNat), cluster := k,
    wait := .promotion, since := (accepted s f).bell.bounds, shared := false, line := 0, acc := [], status := St.ok }

theorem accept_owned {e : QEntry} {d : DrawerId} (launch : f.opcode ≠ 0x38) :
    s.accept k e f d o false = (accepted s f).serveOwned (servedAs s k e f d o) := by
  unfold State.accept
  rw [beq_eq_false_iff_ne.2 launch]
  rfl

theorem accepted_moves : Moves l s (accepted s f) := (Moves.withMort).trans addJob_moves

theorem accepted_served (s : State) (f : Frame) : (accepted s f).mort.served = s.mort.served := rfl
theorem accepted_passed (s : State) (f : Frame) : (accepted s f).sw.passed = s.sw.passed := rfl

/-- A line's address begins its own extent. -/
theorem requestExtent_line (op : f.opcode = 0x01 ∨ f.opcode = 0x02) (aligned : misaligned f = false) : (requestExtent f).1 = f.addr := by
  have kind : isAtomic f.opcode = false ∧ isPlankOp f.opcode = false ∧ (f.opcode == 0x38) = false ∧ (f.opcode == 0x50) = false
      ∧ (f.opcode == 0x48 || (decide (1 ≤ f.opcode.toNat) && decide (f.opcode.toNat ≤ 5))) = true := by
    rcases op with op | op <;> rw [op] <;> decide
  obtain ⟨atomic, plank, launch, order, line⟩ := kind
  have low : f.addr.toNat % 128 = 0 := by
    unfold misaligned at aligned
    simp only [atomic, plank, launch, order, line] at aligned
    simpa using aligned
  unfold requestExtent
  rw [launch, plank]
  exact lineOfAddr_aligned low

/-- A line request that passes is served at once where nothing waits before it. -/
theorem exec_lineRequest {e : QEntry} {d : DrawerId} {a b : Answer} (next : s.homeNext k = some e) (sound : SoundRequest e f)
    (op : f.opcode = 0x01 ∨ f.opcode = 0x02)
    (pass : s.admitFrame ((portOf e.input.val).map s.portPartition) f (requestExtent f).1 (requestExtent f).2 (opRights f)
      = .ok d o false) (region : s.region o ≠ some .tiered) (served : s.mort.served = []) (passed : s.sw.passed = [])
    (direct : (accepted (s.takeHome k e) f).directOp f o = (a, t)) (access : t.afterAccess f o a = (b, u)) :
    exec (.mortiseCheck k) s = .next (u.answer k e.cls f b) := by
  have taken : Moves fabricRegs s (s.takeHome k e) := takeHome_moves
  have ready : Moves fabricRegs s (accepted (s.takeHome k e) f) := taken.trans accepted_moves
  have kinds : f.opcode ∉ ([0x30, 0x40, 0x48, 0x50, 0x58] : List (BitVec 8)) ∧ f.opcode ≠ 0x38 ∧ f.opcode ≠ 0x21 := by
    rcases op with op | op <;> rw [op] <;> decide
  obtain ⟨memory, launch, plank⟩ := kinds
  have offset : (servedAs (s.takeHome k e) k e f d o).offset = o := by
    change o + (f.addr.toNat - (requestExtent f).1.toNat) = o
    rw [requestExtent_line op sound.2.2.2.2.2.2.2, Nat.sub_self, Nat.add_zero]
  have run := exec_mortiseCheck next (sound.1 ▸ sound.2.1)
  rw [← sound.1] at run
  rw [checkRequest_accepted sound memory (by rw [taken.admitFrame, taken.portPartition]; exact pass), accept_owned launch] at run
  have answer := serveOwned_direct (r := servedAs (s.takeHome k e) k e f d o) rfl offset
    (by rw [accepted_served, takeHome_served]; exact served) (by rw [accepted_passed, takeHome_passed]; exact passed)
    (by rw [ready.region]; exact region) plank direct access
  rw [answer] at run
  exact run

/-- What a line write leaves depends on pool memory alone. -/
theorem LineStored.of_pool {a b : State} {p : Pool} (h : LineStored b f o p) (same : b.pool = a.pool) : LineStored a f o p := by
  obtain ⟨mem, map, written⟩ := h
  refine ⟨?_, map.trans (congrArg Pool.map same), written⟩
  rw [mem]
  unfold filledMem
  rw [same]

theorem LineStored.get_line {p : Pool} (h : LineStored s f o p) {i : Nat} (lt : i < 128) :
    p.mem.get 0 (physical (o / plankBytes * plankBytes) + o % plankBytes / 128 * 128 + i) = f.payload.getD i 0 := by
  rw [h.mem, get_putMasked_full, if_pos (by omega), Nat.add_sub_cancel_left]

theorem LineStored.get_plank {p : Pool} (h : LineStored s f o p) {x : Nat} (lo : physical (o / plankBytes * plankBytes) ≤ x)
    (hi : x < physical (o / plankBytes * plankBytes) + plankBytes)
    (off : x < physical (o / plankBytes * plankBytes) + o % plankBytes / 128 * 128
      ∨ physical (o / plankBytes * plankBytes) + o % plankBytes / 128 * 128 + 128 ≤ x) :
    p.mem.get 0 x = if s.pool.written.get false (o / plankBytes) then s.pool.mem.get 0 x else 0 := by
  rw [h.mem, get_putMasked_full, if_neg (by omega)]
  unfold filledMem
  split
  · rfl
  · rw [Tab.get_clearRange, if_pos ⟨lo, hi⟩]

theorem LineStored.get_outside {p : Pool} (h : LineStored s f o p) {x : Nat}
    (out : x < physical (o / plankBytes * plankBytes) ∨ physical (o / plankBytes * plankBytes) + plankBytes ≤ x) :
    p.mem.get 0 x = s.pool.mem.get 0 x := by
  have within : o % plankBytes / 128 * 128 + 128 ≤ plankBytes := by
    have lt : o % plankBytes < plankBytes := Nat.mod_lt _ (by decide)
    simp only [plankBytes] at lt ⊢
    omega
  rw [h.mem, get_putMasked_full, if_neg (by omega)]
  unfold filledMem
  split
  · rfl
  · rw [Tab.get_clearRange, if_neg (by omega)]

section Passed
variable {e : QEntry} {d : DrawerId} (next : s.homeNext k = some e) (sound : SoundRequest e f)
  (pass : s.admitFrame ((portOf e.input.val).map s.portPartition) f (requestExtent f).1 (requestExtent f).2 (opRights f) = .ok d o false)
  (region : s.region o ≠ some .tiered) (served : s.mort.served = []) (passed : s.sw.passed = []) (able : Answerable s f e.cls)
include next sound pass region served passed able

theorem mortiseCheck_lineRead (op : f.opcode = 0x01) (scope : f.scope = 0)
    (good : s.badIn (physical (o / plankBytes * plankBytes) + o % plankBytes / 128 * 128) 128 = []) :
    ∃ t, exec (.mortiseCheck k) s = .next t ∧ FabricEffect fabricRegs s t ∧ Completed f St.ok (lineData s o) s t := by
  have ready : Moves fabricRegs s (accepted (s.takeHome k e) f) := takeHome_moves.trans accepted_moves
  have data : lineData (accepted (s.takeHome k e) f) o = lineData s o := by
    unfold lineData State.memRead
    rw [ready.pool]
  have direct := directOp_read (s := accepted (s.takeHome k e) f) op (by unfold State.badIn at good ⊢; rw [ready.pool]; exact good)
  rw [data] at direct
  have run := exec_lineRequest next sound (Or.inl op) pass region served passed direct (afterAccess_read op scope)
  exact ⟨_, run, (ready.trans answer_moves).effect, (answer_completed (ready.answerable able) rfl).before ready.nextId⟩

theorem mortiseCheck_lineWrite (op : f.opcode = 0x02) :
    ∃ t, exec (.mortiseCheck k) s = .next t ∧ FabricEffect fabricRegs (s.withPool t.pool) t ∧ Completed f St.ok [] s t
      ∧ LineStored s f o t.pool := by
  have ready : Moves fabricRegs s (accepted (s.takeHome k e) f) := takeHome_moves.trans accepted_moves
  obtain ⟨p, direct, stored⟩ := directOp_lineWrite (s := accepted (s.takeHome k e) f) (o := o) op
  obtain ⟨q, access, kept⟩ := afterAccess_lineWrite (a := ⟨St.ok, [], 0⟩) op rfl stored
  have run := exec_lineRequest next sound (Or.inr op) pass region served passed direct access
  have answered : Moves fabricRegs ((accepted (s.takeHome k e) f).withPool q) _ :=
    answer_moves (k := k) (c := e.cls) (f := f) (a := ⟨St.ok, [], 0⟩)
  have before := ready.withPool q
  have able' : Answerable (s.withPool q) f e.cls := able
  refine ⟨_, run, ?_, (answer_completed (before.answerable able') rfl).before ready.nextId, ?_⟩
  · rw [answered.pool]
    exact (before.trans answered).effect
  · rw [answered.pool]
    exact kept.of_pool ready.pool

end Passed

end Sys2Proof.Machine

/-! ## A frame enters at a port (R16, R143, R160, R180 to R182) -/
namespace Sys2Proof.Machine

variable {a b c s t : State} {l : List Nat} {k : LinkId} {f : Frame}

/-! What only watches and counts frames: no queue and no record of the transaction layer changes. -/

/-- On the way from `a` to `b` frames are counted, mirrored and traced, and none moves. -/
structure Watches (a b : State) : Prop where
  moves : Moves fabricRegs a b
  queue : b.sw.queue = a.sw.queue
  number : b.sw.nextId = a.sw.nextId
  mort : b.mort = a.mort

theorem Watches.refl (s : State) : Watches s s := ⟨Moves.refl s, rfl, rfl, rfl⟩

theorem Watches.trans (h : Watches a b) (g : Watches b c) : Watches a c :=
  ⟨h.moves.trans g.moves, g.queue.trans h.queue, g.number.trans h.number, g.mort.trans h.mort⟩

theorem ChangesOnly.watches (h : ChangesOnly fabricRegs a b) : Watches a b :=
  ⟨h.moves, by rw [h.rest], by rw [h.rest], by rw [h.rest]⟩

theorem Watches.withFree {n : Nat} : Watches s (s.withFree n) := ⟨Moves.withFree, rfl, rfl, rfl⟩

theorem sampleBusy_watches : Watches s s.sampleBusy.2 := by
  unfold State.sampleBusy
  dsimp only
  split
  · exact Watches.refl s
  · split
    · exact Watches.refl s
    · exact Watches.withFree

theorem mirrorOne_watches {at_ : Dword} {p : Port} {egress : Bool} {cls : Nat} {job : BitVec 12} {dropped : Bool} {bytes : Bytes}
    {len m : Nat} (lt : m < 8) : Watches s (s.mirrorOne at_ p egress cls job dropped bytes len m) := by
  have seen : ∀ x, Watches s (s.withSw { s.sw with mirSeen := x }) := fun x => ⟨Moves.withSw ⟨rfl, rfl⟩ (Nat.le_refl _), rfl, rfl, rfl⟩
  have sampled : ∀ (u : State) (x : List Bytes) (y : Nat), Watches u (u.withSw { u.sw with samples := x, sampleTick := y }) :=
    fun u x y => ⟨Moves.withSw ⟨rfl, rfl⟩ (Nat.le_refl _), rfl, rfl, rfl⟩
  have counted : ∀ u : State, Watches u (u.bump (Reg.mirCount m)) := fun u =>
    (ChangesOnly.bump (Or.inl (mirCount_fabric lt))).watches
  have refused : ∀ (u : State), Watches u ((u.bump Reg.swSampleDrop).raiseSw 7 p.val p.val cls) := fun u =>
    ((ChangesOnly.bump (Or.inl (by decide))).trans (raiseSw_changes swErrRegs_fabric)).watches
  unfold State.mirrorOne
  dsimp only
  split
  · exact Watches.refl s
  · split
    · exact seen _
    · split
      · exact (((seen _).trans (counted _)).trans sampleBusy_watches).trans (refused _)
      · exact (((seen _).trans (counted _)).trans sampleBusy_watches).trans (sampled _ _ _)

theorem mirror_watches {at_ : Dword} {p : Port} {egress : Bool} {cls : Nat} {job : BitVec 12} {dropped : Bool} {bytes : Bytes}
    {len : Nat} : Watches s (s.mirror at_ p egress cls job dropped bytes len) := by
  have each : ∀ (ms : List Nat) (u : State), (∀ m ∈ ms, m < 8) →
      Watches u (ms.foldl (fun s m => s.mirrorOne at_ p egress cls job dropped bytes len m) u) := by
    intro ms
    induction ms with
    | nil => exact fun u _ => Watches.refl u
    | cons m ms ih =>
      intro u lt
      exact (mirrorOne_watches (lt m (List.mem_cons_self ..))).trans (ih _ (fun n mem => lt n (List.mem_cons_of_mem _ mem)))
  exact each _ s (fun _ mem => List.mem_range.1 mem)

/-- The trace sees a header: only the trace buffers change. -/
theorem traceFrame_eq (s : State) (src : Nat) (p : Port) (hdr : BitVec 256) : ∃ x, s.traceFrame src p hdr = s.withTest x := by
  have into : ∀ (u : State) (unit : Nat) (any : Bool) (data : Bytes) (b : Nat), ∃ x, traceInto u src unit any data b = u.withTest x := by
    intro u unit any data b
    unfold traceInto
    dsimp only
    split
    · exact ⟨_, rfl⟩
    · exact ⟨u.test, rfl⟩
  have fold : ∀ (unit : Nat) (any : Bool) (data : Bytes) (bs : List Nat) (u : State),
      ∃ x, bs.foldl (fun u b => traceInto u src unit any data b) u = u.withTest x := by
    intro unit any data bs
    induction bs with
    | nil => exact fun u => ⟨u.test, rfl⟩
    | cons b bs ih =>
      intro u
      obtain ⟨x, first⟩ := into u unit any data b
      obtain ⟨y, rest⟩ := ih (u.withTest x)
      exact ⟨y, by rw [List.foldl_cons, first]; exact rest⟩
  exact fold ..

/-! A frame that is not queued (R16, R163). -/

theorem refuseIngress_moves {a : Arriving} {st : Status} : Moves l s (s.refuseIngress k a f st) := by
  unfold State.refuseIngress
  exact (addJob_moves.trans dropArriving_moves).trans enqueue_moves

/-- The completion of a refusal goes back to the port. -/
theorem refuseIngress_completes {a : Arriving} {st : Status} :
    ∃ e ∈ (s.refuseIngress k a f st).sw.queue, e.dest = .port k.port ∧ (⟨e.hdr, [], 0⟩ : Frame).isCpl = true
      ∧ (⟨e.hdr, [], 0⟩ : Frame).tag = f.tag ∧ (⟨e.hdr, [], 0⟩ : Frame).status = st := by
  refine ⟨_, List.mem_append_right _ (List.mem_singleton_self _), rfl, ?_⟩
  cases cplHasData f <;> simp [Frame.isCpl, Frame.sealed, cplHdr]

theorem dropNoRoute_moves {i : InputId} {c : Cls} : Moves fabricRegs s (s.dropNoRoute i c f) := by
  unfold State.dropNoRoute
  dsimp only
  split
  · exact noRoute_moves routeRegs_fabric
  · exact (noRoute_moves routeRegs_fabric).trans refuse_moves

/-! A frame that is queued (R160). -/

/-- Where a frame goes: home, or to the port of its route. -/
def frameDest (s : State) (k : LinkId) (c : Cls) (f : Frame) : Option Dest :=
  if f.dest == s.swNum then some .home else (s.route f.dest (portIn k.port) c).map .port

theorem frameDest_home {c : Cls} (home : f.dest = s.swNum) : frameDest s k c f = some .home := if_pos (beq_iff_eq.2 home)

theorem frameDest_port {c : Cls} {q : Port} (away : f.dest ≠ s.swNum) (route : s.route f.dest (portIn k.port) c = some q) :
    frameDest s k c f = some (.port q) := by
  unfold frameDest
  rw [if_neg (fun h => away (beq_iff_eq.1 h)), route]
  rfl

/-- Entry number `n` of the queues holds the frame that arrives, on its way to a destination. -/
structure Enters (n : Nat) (k : LinkId) (a : Arriving) (f : Frame) (d : Dest) (e : QEntry) : Prop where
  id : e.id = n
  input : e.input = portIn k.port
  cls : e.cls = a.cls
  hdr : e.hdr = f.hdr
  bytes : e.bytes = a.bytes
  whole : e.whole = a.whole
  tick : e.tick = a.tick
  dest : e.dest = d

/-- A frame whose first flit is accepted is watched, then queued toward its destination or dropped. -/
theorem queueFrame_cases (s : State) (k : LinkId) (a : Arriving) (f : Frame) :
    ∃ u, Watches s u ∧ ((frameDest s k a.cls f = none ∧ s.queueFrame k a f = (u.dropArriving k a).dropNoRoute (portIn k.port) a.cls f)
      ∨ ∃ d e, ∃ as : Link → List Arriving, frameDest s k a.cls f = some d ∧ Enters s.sw.nextId k a f d e
        ∧ s.queueFrame k a f = (u.withSw { u.sw with queue := u.sw.queue ++ [e], nextId := u.sw.nextId + 1 }).modLink k
            (fun x => { x with arriving := as x })) := by
  have watched : Watches s (s.mirror a.stamp k.port false a.cls.val f.job false a.bytes (36 + f.len)) := mirror_watches
  have same : frameDest (s.mirror a.stamp k.port false a.cls.val f.job false a.bytes (36 + f.len)) k a.cls f = frameDest s k a.cls f := by
    unfold frameDest
    rw [watched.moves.swNum, watched.moves.route]
  unfold State.queueFrame
  dsimp only
  generalize s.mirror a.stamp k.port false a.cls.val f.job false a.bytes (36 + f.len) = u at watched same ⊢
  unfold frameDest at same
  generalize (if f.dest == u.swNum then some Dest.home else (u.route f.dest (portIn k.port) a.cls).map Dest.port) = bound at same ⊢
  cases bound with
  | none => exact ⟨u, watched, Or.inl ⟨same.symm, rfl⟩⟩
  | some d =>
    dsimp only
    have demoted : ∀ (p : Bool), Watches u (if p then u.bump Reg.swCtDemote else u) := by
      intro p
      split
      · exact (ChangesOnly.bump (Or.inl (by decide))).watches
      · exact Watches.refl u
    exact ⟨_, watched.trans (demoted _), Or.inr ⟨d, _, _, same.symm,
      ⟨(watched.trans (demoted _)).number, rfl, rfl, rfl, rfl, rfl, rfl, rfl⟩, rfl⟩⟩

theorem queueFrame_moves {a : Arriving} : Moves fabricRegs s (s.queueFrame k a f) := by
  obtain ⟨u, watched, ⟨-, dropped⟩ | ⟨d, e, as, -, -, queued⟩⟩ := queueFrame_cases s k a f
  · rw [dropped]
    exact (watched.moves.trans dropArriving_moves).trans dropNoRoute_moves
  · rw [queued]
    refine watched.moves.trans (Moves.trans (Moves.withSw ?_ ?_) (Moves.modLink fun _ => ⟨rfl, rfl, rfl⟩))
    · exact ⟨rfl, rfl⟩
    · exact Nat.le_succ _

/-- A frame with a destination enters one queue, behind all that wait. -/
theorem queueFrame_queued {a : Arriving} {d : Dest} (to_ : frameDest s k a.cls f = some d) :
    (s.queueFrame k a f).mort = s.mort ∧ ∃ e, (s.queueFrame k a f).sw.queue = s.sw.queue ++ [e] ∧ Enters s.sw.nextId k a f d e := by
  obtain ⟨u, watched, ⟨none, -⟩ | ⟨d', e, as, some', enters, queued⟩⟩ := queueFrame_cases s k a f
  · rw [to_] at none
    exact absurd none (by simp)
  · obtain rfl : d' = d := Option.some.inj (some'.symm.trans to_)
    rw [queued]
    exact ⟨watched.mort, e, congrArg (· ++ [e]) watched.queue, enters⟩

/-! The tests of an A-role port (R16, R140, R143, R179). -/

/-- The record of the request that an agent has open (R140). -/
def agentTag (k : LinkId) (f : Frame) : AgentTag :=
  { port := k.port, srcSwitch := f.srcSwitch, srcUnit := f.srcUnit, tag := f.tag, seq := f.seq, dest := f.dest,
    half1 := k.val % 2 == 1 }

/-- The agent's record is open. -/
def agentOpened (s : State) (k : LinkId) (f : Frame) : State :=
  s.withMort { s.mort with agents := s.mort.agents ++ [agentTag k f] }

theorem setPolicer_moves {p slot c n : Nat} : Moves l s (s.setPolicer p slot c n) := Moves.withSw ⟨rfl, rfl⟩ (Nat.le_refl _)

theorem admitRequest_none {a : Arriving} (none : s.admitSlot k.port f.job = none) : s.admitRequest k a f
    = ((s.bump Reg.mortAdmitDrop).raiseMort 2 f St.denied).refuseIngress k a f St.denied := by
  unfold State.admitRequest
  dsimp only
  rw [none]

theorem admitRequest_unpoliced {a : Arriving} {slot : Nat} (admitted : s.admitSlot k.port f.job = some slot)
    (free : s.polRate (s.polSel k.port.val slot a.cls.val) = 0) (open_ : s.openFrom k.port f < 512) :
    s.admitRequest k a f = (agentOpened s k f).queueFrame k a f := by
  unfold State.admitRequest
  dsimp only
  rw [admitted]
  dsimp only
  rw [free]
  simp only [bne_self_eq_false, Bool.false_and, Bool.false_eq_true, if_false]
  rw [if_neg (Nat.not_le.2 open_)]
  rfl

theorem admitRequest_moves {a : Arriving} : Moves fabricRegs s (s.admitRequest k a f) := by
  have denied : ∀ (u : State) (n : Nat), Moves fabricRegs u ((u.raiseMort n f St.denied).refuseIngress k a f St.denied) := fun u n =>
    (raiseMort_moves mortErrRegs_fabric).trans refuseIngress_moves
  have policed : ∀ (p : Bool) (i slot c n : Nat), Moves fabricRegs s (if p then s.setPolicer i slot c n else s) := by
    intro p i slot c n
    split
    · exact setPolicer_moves
    · exact Moves.refl s
  have opens : ∀ u : State, Moves fabricRegs u (if 512 ≤ u.openFrom k.port f then
      (u.raiseMort 9 f St.denied).refuseIngress k a f St.denied else (agentOpened u k f).queueFrame k a f) := by
    intro u
    split
    · exact denied u 9
    · exact (Moves.withMort).trans queueFrame_moves
  unfold State.admitRequest
  dsimp only
  split
  · exact (bump_moves (by decide)).trans (denied _ 2)
  · split
    · exact (((bump_moves (by decide)).trans (raiseSw_moves swErrRegs_fabric)).trans mirror_watches.moves).trans refuseIngress_moves
    · exact (policed ..).trans (opens _)

/-! INGRESS_FIRST_FLIT at an A-role port (R16). -/

theorem exec_ingressFirstFlit {c : Cls} {a : Arriving}
    (first : (s.link k).arriving.find? (fun x => x.cls == c && x.entry.isNone && !x.dropped) = some a)
    (role : bits (s.link k).cfg.toNat 5 4 = 1) (v10 : (s.link k).v09 = false) (request : (frameSoFar a.bytes).isCpl = false) :
    exec (.ingressFirstFlit k c) s
      = .next ((s.traceFrame 1 k.port (frameSoFar a.bytes).hdr).admitRequest k a (frameSoFar a.bytes)) := by
  change execIngressFirstFlit k c s = _
  unfold execIngressFirstFlit
  dsimp only
  rw [first]
  simp [role, v10, request]

/-- What INGRESS_FIRST_FLIT does with a request that the port does not admit (R143). -/
theorem ingressFirstFlit_denied {a : Arriving} (none : s.admitSlot k.port f.job = none) :
    Counted Reg.mortAdmitDrop 1 s (s.admitRequest k a f) ∧ bit ((s.admitRequest k a f).rd Reg.mortErr) 2 = true
    ∧ ∃ e ∈ (s.admitRequest k a f).sw.queue, e.dest = .port k.port ∧ (⟨e.hdr, [], 0⟩ : Frame).isCpl = true
      ∧ (⟨e.hdr, [], 0⟩ : Frame).tag = f.tag ∧ (⟨e.hdr, [], 0⟩ : Frame).status = St.denied := by
  rw [admitRequest_none none]
  have raised : Moves mortErrRegs (s.bump Reg.mortAdmitDrop) ((s.bump Reg.mortAdmitDrop).raiseMort 2 f St.denied) :=
    raiseMort_moves (List.Subset.refl _)
  have refused : Moves [] ((s.bump Reg.mortAdmitDrop).raiseMort 2 f St.denied)
    (((s.bump Reg.mortAdmitDrop).raiseMort 2 f St.denied).refuseIngress k a f St.denied) := refuseIngress_moves
  refine ⟨(counted_bump s _).within (Moves.refl (l := []) s) (raised.trans (refused.mono (List.nil_subset _))) (by decide) (by decide)
    (by decide), ?_, refuseIngress_completes⟩
  rw [refused.rd (by decide) (by decide)]
  exact raiseMort_sets (by decide)

/-- A request that the port admits, that no policer meets, and whose agent may open one more, is queued and its record opened. -/
theorem ingressFirstFlit_admitted {a : Arriving} {slot : Nat} {d : Dest} (admitted : s.admitSlot k.port f.job = some slot)
    (free : s.polRate (s.polSel k.port.val slot a.cls.val) = 0) (open_ : s.openFrom k.port f < 512)
    (to_ : frameDest s k a.cls f = some d) :
    (s.admitRequest k a f).mort.agents = s.mort.agents ++ [agentTag k f]
    ∧ ∃ e, (s.admitRequest k a f).sw.queue = s.sw.queue ++ [e] ∧ Enters s.sw.nextId k a f d e := by
  rw [admitRequest_unpoliced admitted free open_]
  obtain ⟨mort, e, queue, enters⟩ := queueFrame_queued (s := agentOpened s k f) (k := k) (a := a) (f := f) (d := d) to_
  exact ⟨congrArg Mortise.agents mort, e, queue, enters⟩

/-- The trace leaves a request's way as it is: of the state only the trace buffers are new. -/
theorem ingressFirstFlit_traced {c : Cls} {a : Arriving}
    (first : (s.link k).arriving.find? (fun x => x.cls == c && x.entry.isNone && !x.dropped) = some a)
    (role : bits (s.link k).cfg.toNat 5 4 = 1) (v10 : (s.link k).v09 = false) (request : (frameSoFar a.bytes).isCpl = false) :
    ∃ x, exec (.ingressFirstFlit k c) s = .next ((s.withTest x).admitRequest k a (frameSoFar a.bytes)) := by
  obtain ⟨x, traced⟩ := traceFrame_eq s 1 k.port (frameSoFar a.bytes).hdr
  exact ⟨x, by rw [exec_ingressFirstFlit first role v10 request, traced]⟩

/-! The obligation. -/

/-- Settles O28: each command's part is a lemma above; a frame's header alone names its fields, so that the frames of the statement,
which carry no payload, stand for those of the model. -/
theorem framesEnterAndAreChecked : Obligations.FramesEnterAndAreChecked := by
  refine ⟨?ingress, ?saf, ?broken, ?refused, ?line, ?message⟩
  case ingress =>
    intro k c s a
    dsimp only
    intro first role v10 request
    obtain ⟨x, run⟩ := ingressFirstFlit_traced first role v10 request
    obtain rfl : a.cls = c := by
      have found := List.find?_some first
      simp only [Bool.and_eq_true, beq_iff_eq] at found
      exact found.1.1
    have traced : Moves fabricRegs s (s.withTest x) := (ChangesOnly.withTest).moves
    refine ⟨_, run, (traced.trans admitRequest_moves).effect, fun none => ingressFirstFlit_denied (s := s.withTest x) none, ?_⟩
    intro slot admitted free open_ routed
    have enter : ∀ {d}, frameDest (s.withTest x) k a.cls (frameSoFar a.bytes) = some d → _ := fun to_ =>
      ingressFirstFlit_admitted (s := s.withTest x) (f := frameSoFar a.bytes) admitted free open_ to_
    by_cases home : (frameSoFar a.bytes).dest = s.swNum
    · obtain ⟨agents, e, queue, id, input, cls, hdr, bytes, whole, tick, dest⟩ := enter (frameDest_home home)
      exact ⟨agents, e, queue, id, input, cls, hdr, bytes, whole, tick, fun _ => dest, fun q away => absurd home away⟩
    · obtain ⟨q, route⟩ := Option.isSome_iff_exists.1 (routed.resolve_left home)
      obtain ⟨agents, e, queue, id, input, cls, hdr, bytes, whole, tick, dest⟩ := enter (frameDest_port home route)
      exact ⟨agents, e, queue, id, input, cls, hdr, bytes, whole, tick, fun here => absurd here home, fun r _ other =>
        dest.trans (congrArg Dest.port (Option.some.inj (route.symm.trans other)))⟩
  case saf =>
    intro k c s e found
    exact safFrameComplete_frame found
  case broken =>
    intro k s e
    dsimp only
    intro next request broken dir roll able
    exact mortiseCheck_broken next request broken dir roll able
  case refused =>
    intro k s e f st next sound op refused _ able
    exact mortiseCheck_refused next sound op refused able
  case line =>
    intro k s e f d o
    dsimp only
    intro next sound pass region served passed able
    refine ⟨fun op scope good => ?_, fun op => ?_⟩
    · obtain ⟨t, run, effect, done⟩ := mortiseCheck_lineRead next sound pass region served passed able op scope good
      exact ⟨t, run, effect, fun written => by rwa [lineData, if_pos written] at done,
        fun unwritten => by rwa [lineData, if_neg (by rw [unwritten]; decide)] at done⟩
    · obtain ⟨t, run, effect, done, stored⟩ := mortiseCheck_lineWrite next sound pass region served passed able op
      exact ⟨t, run, effect, done, fun i lt => stored.get_line lt, fun x lo hi off => stored.get_plank lo hi off,
        fun x out => stored.get_outside out, stored.map, stored.written⟩
  case message =>
    intro k s e f next sound op pass
    exact mortiseCheck_message next sound op pass

end Sys2Proof.Machine

/-! ## The watches of the bell (R27, R43, R44, R48) -/
namespace Sys2Proof.Machine

variable {a b s : State} {l : List Nat}

theorem ChangesOnly.bell (h : ChangesOnly l a b) : b.bell = a.bell := by rw [h.rest]

theorem raiseBell_changes (s : State) (n : Nat) : ChangesOnly (recordRegs Reg.bellErr) s (s.raise Reg.bellErr n) :=
  raise_changes _ _ _ (fun _ m => m) (fun _ m => absurd m List.not_mem_nil)

theorem raiseBell_sets (s : State) {n : Nat} (lt : n < 32) : bit ((s.raise Reg.bellErr n).rd Reg.bellErr) n = true :=
  raiseCap_sets _ _ _ _ lt (by decide)

/-! A change of the lock state (R44, R87). -/

/-- The bell logic in a new lock state. -/
def Bell.locking (b : Bell) (new : Lock) : Bell :=
  let b := { b with lock := new, fineRun := 0 }
  let b := if new == .holdover then { b with holdAt := b.bounds } else b
  if new == .unlocked then { b with lastGood := none, goodRun := 0, parentKnown := false } else b

/-- The changes of the lock state that LOCK_LOST reports. -/
def losesLock (old new : Lock) : Bool := (old == .locked && new != .locked) || (old == .coarse && new == .unlocked)

theorem setLock_reports {new : Lock} (lost : losesLock s.bell.lock new = true) :
    s.setLock new = (s.withBell (s.bell.locking new)).raise Reg.bellErr 1 := if_pos lost

theorem setLock_silent {new : Lock} (kept : losesLock s.bell.lock new = false) : s.setLock new = s.withBell (s.bell.locking new) :=
  if_neg (by rw [losesLock] at kept; simp [kept])

theorem setLock_changes (s : State) (new : Lock) :
    ChangesOnly (recordRegs Reg.bellErr) (s.withBell (s.bell.locking new)) (s.setLock new) := by
  cases lost : losesLock s.bell.lock new
  · rw [setLock_silent lost]
    exact ChangesOnly.refl _
  · rw [setLock_reports lost]
    exact raiseBell_changes ..

theorem setLock_bell (s : State) (new : Lock) : (s.setLock new).bell = s.bell.locking new := (setLock_changes s new).bell

@[simp] theorem locking_lock (b : Bell) (new : Lock) : (b.locking new).lock = new := by cases new <;> rfl
@[simp] theorem locking_now (b : Bell) (new : Lock) : (b.locking new).now = b.now := by cases new <;> rfl
@[simp] theorem locking_len (b : Bell) (new : Lock) : (b.locking new).len = b.len := by cases new <;> rfl
@[simp] theorem locking_missRun (b : Bell) (new : Lock) : (b.locking new).missRun = b.missRun := by cases new <;> rfl

/-- A change to LOCKED loses no lock. -/
theorem setLock_locked (s : State) : s.setLock .locked = s.withBell (s.bell.locking .locked) :=
  setLock_silent (by unfold losesLock; cases s.bell.lock <;> rfl)

/-! MISSING_FRAME. -/


/-- The bell logic after a member's missing frame; the backup `takes` mastership at the next boundary (R44, R50). -/
def Bell.missed (b : Bell) (takes : Bool) : Bell :=
  { b with missRun := b.missRun + 1, goodRun := 0, ownRun := 0, takeMaster := takes || b.takeMaster }

theorem exec_missingFrame (tracked : s.bell.tracked = true) (member : s.bell.master = false) (elects : s.bell.election = false) :
    ∃ takes, let b := s.bell.missed takes
      exec .missingFrame s = .next (if 2 ≤ b.missRun && b.lock == .coarse then (s.withBell b).setLock .unlocked
        else if 2 ≤ b.missRun && b.lock == .locked then (s.withBell b).setLock .holdover else s.withBell b) := by
  have counts (b : Bell) : (if 2 ≤ s.bell.missRun + 1 && b.lock == .coarse then Host.Outcome.next ((s.withBell b).setLock .unlocked)
      else if 2 ≤ s.bell.missRun + 1 && b.lock == .locked then .next ((s.withBell b).setLock .holdover) else .next (s.withBell b))
      = (.next (if 2 ≤ s.bell.missRun + 1 && b.lock == .coarse then (s.withBell b).setLock .unlocked
        else if 2 ≤ s.bell.missRun + 1 && b.lock == .locked then (s.withBell b).setLock .holdover else s.withBell b)
          : Host.Outcome State Fault Refusal) := by
    split
    · rfl
    · split <;> rfl
  change ∃ takes, execMissingFrame s = _
  unfold execMissingFrame
  rw [if_neg (by simp [tracked])]
  dsimp only
  rw [if_neg (by simp [member, elects])]
  split
  · exact ⟨true, counts (s.bell.missed true)⟩
  · exact ⟨false, counts (s.bell.missed false)⟩

/-- A change of lock state that is reported, from a bell state on. -/
theorem setLock_withBell_lost {b : Bell} {new : Lock} (lost : losesLock b.lock new = true) :
    ChangesOnly (recordRegs Reg.bellErr) (s.withBell (b.locking new)) ((s.withBell b).setLock new)
    ∧ ((s.withBell b).setLock new).bell = b.locking new ∧ bit (((s.withBell b).setLock new).rd Reg.bellErr) 1 = true := by
  refine ⟨setLock_changes (s.withBell b) new, setLock_bell .., ?_⟩
  rw [setLock_reports lost]
  exact raiseBell_sets _ (by decide)

/-- Winning election touches nothing but the bell, which becomes a LOCKED master's. -/
theorem winElection_bell (s : State) : s.winElection = s.withBell s.winElection.bell ∧ s.winElection.bell.master = true
    ∧ s.winElection.bell.election = false ∧ s.winElection.bell.lock = .locked ∧ s.winElection.bell.now = s.bell.now := by
  unfold State.winElection State.becomeMaster
  dsimp only
  rw [setLock_locked]
  split <;> exact ⟨rfl, rfl, rfl, rfl, rfl⟩

/-- Settles O14: one clause for each watch. -/
theorem bellWatchesFire : Obligations.BellWatchesFire := by
  refine ⟨fun s tracked member elects => ?_, fun s master fabric due => ?_, fun s holds due => ?_,
    fun s candidate member elects lock due => ?_, fun s single elects own due => ?_⟩
  · obtain ⟨takes, next⟩ := exec_missingFrame tracked member elects
    have run : (s.bell.missed takes).missRun = s.bell.missRun + 1 := rfl
    have lock : (s.bell.missed takes).lock = s.bell.lock := rfl
    have now : (s.bell.missed takes).now = s.bell.now := rfl
    generalize s.bell.missed takes = b at run lock now next
    have first : s.bell.missRun = 0 → ¬ 2 ≤ b.missRun := fun z => by omega
    rw [← lock, ← now, ← run]
    refine ⟨_, next, ?_⟩
    split
    · next fires =>
      obtain ⟨second, coarse⟩ := (Bool.and_eq_true_iff).1 fires
      have coarse : b.lock = .coarse := beq_iff_eq.1 coarse
      obtain ⟨changes, bell, set⟩ := setLock_withBell_lost (s := s) (b := b) (new := .unlocked) (by rw [coarse]; rfl)
      rw [bell]
      exact ⟨locking_missRun .., fun _ _ => ⟨locking_lock .., set⟩, fun _ e => absurd (coarse.symm.trans e) (by decide),
        fun z => absurd (of_decide_eq_true second) (first z), changes, locking_now ..⟩
    · split
      · next fires =>
        obtain ⟨second, locked⟩ := (Bool.and_eq_true_iff).1 fires
        have locked : b.lock = .locked := beq_iff_eq.1 locked
        obtain ⟨changes, bell, set⟩ := setLock_withBell_lost (s := s) (b := b) (new := .holdover) (by rw [locked]; rfl)
        rw [bell]
        exact ⟨locking_missRun .., fun _ e => absurd (locked.symm.trans e) (by decide), fun _ _ => ⟨locking_lock .., set⟩,
          fun z => absurd (of_decide_eq_true second) (first z), changes, locking_now ..⟩
      · next notCoarse notLocked =>
        have stays : ∀ old : Lock, ¬ (decide (2 ≤ b.missRun) && b.lock == old) = true → 1 ≤ s.bell.missRun → b.lock ≠ old :=
          fun old no second e => no (by simp [e]; omega)
        exact ⟨rfl, fun second e => absurd e (stays _ notCoarse second), fun second e => absurd e (stays _ notLocked second),
          fun _ => rfl, ChangesOnly.refl _, rfl⟩
  · have fires : (s.bell.master && s.isFabric && decide (max (s.bell.masterAt + 6) s.bell.returnAt + 5 ≤ s.bell.bounds)) = true := by
      rw [master, fabric, decide_eq_true due]; rfl
    exact ⟨_, if_pos fires, raiseBell_sets _ (by decide), raiseBell_changes ..⟩
  · have fires : (s.bell.lock == .holdover && decide (s.bell.holdAt + 1000 ≤ s.bell.bounds)) = true := by
      rw [holds, decide_eq_true due]; rfl
    have silent : s.setLock .unlocked = s.withBell (s.bell.locking .unlocked) := setLock_silent (by rw [holds]; rfl)
    have changes := raiseBell_changes (s.withBell (s.bell.locking .unlocked)) 2
    refine ⟨_, if_pos fires, ?_⟩
    rw [silent, changes.bell]
    exact ⟨rfl, raiseBell_sets _ (by decide), changes, rfl⟩
  · have fires : (s.candidate && !s.bell.master && !s.bell.election && (s.bell.lock == .unlocked || s.bell.lock == .holdover)
        && decide (s.bell.goodAt + 16 ≤ s.bell.bounds)) = true := by
      rcases lock with lock | lock <;> rw [candidate, member, elects, lock, decide_eq_true due] <;> rfl
    exact ⟨_, if_pos fires, raiseBell_sets _ (by decide), raiseBell_changes ..⟩
  · have fires : (!s.isFabric && s.bell.election && s.bell.ownRun == 0 && decide (s.bell.electAt + 16 ≤ s.bell.bounds)) = true := by
      rw [single, elects, own, decide_eq_true due]; rfl
    exact ⟨_, if_pos fires, winElection_bell s⟩

end Sys2Proof.Machine

/-! ## The local banks: BANK_ARM and BANK_SWITCH_OVER (R82, R472) -/
namespace Sys2Proof.Machine

variable {a b c s : State} {l : List Nat} {set : TableSet}

/-! The armed points of the sets. -/

theorem setArmed_eq (s : State) (set : TableSet) (p : Option Point) : s.setArmed set p = s.withTt (s.setArmed set p).tt := by
  cases set <;> rfl

@[simp] theorem armedPoint_setArmed_same (s : State) (set : TableSet) (p : Option Point) : (s.setArmed set p).armedPoint set = p := by
  cases set <;> rfl

theorem armedPoint_setArmed_other (s : State) {set other : TableSet} (p : Option Point) (ne : other ≠ set) :
    (s.setArmed set p).armedPoint other = s.armedPoint other := by
  revert ne
  cases set <;> cases other <;> simp [State.setArmed, State.armedPoint]

theorem armedPoint_of_tt (e : b.tt = a.tt) (set : TableSet) : b.armedPoint set = a.armedPoint set := by
  unfold State.armedPoint
  rw [e]

/-! BANK_ARM. -/

/-- What a BANK_ARM of a set makes of the timetable's armed points, its status and its result (R82, R472). -/
def bankArmed (s : State) (set : TableSet) (d : Desc) : State × Status × Nat :=
  if dField d 17 1 % 2 == 1 then
    match s.armedPoint set with
    | none => (s, St.ok, 0)
    | some p => if s.cancelInTime p then (s.setArmed set none, St.ok, 0) else (s, St.denied, 0)
  else
    let p := s.armPoint (dPoint d 24).term (dPoint d 24).period
    (s.setArmed set (some ⟨p.1, p.2⟩), St.ok, (BellTime.at0 p.1 p.2).stamp.toNat)

theorem bankArmed_eq (s : State) (set : TableSet) (d : Desc) : (bankArmed s set d).1 = s.withTt (bankArmed s set d).1.tt := by
  unfold bankArmed
  split
  · split
    · rfl
    · split
      · exact setArmed_eq ..
      · rfl
  · exact setArmed_eq ..

theorem setArmed_setDesc (s : State) (h : HostPort) (e : Desc) (set : TableSet) (p : Option Point) :
    (s.setDesc h e).setArmed set p = (s.setArmed set p).setDesc h e := by
  cases h <;> cases set <;> rfl

theorem exec_bankArm {h : HostPort} {q : RingId} {d : Desc} (start : Starts s h q 0x14 d) (names : tableSetOf (dField d 16 1) = some set) :
    exec (.bankArm h q) s = .next (((bankArmed s set d).1.setDesc h (startedDesc s d)).done h (startedDesc s d)
      (bankArmed s set d).2.1 (bankArmed s set d).2.2) := by
  refine congrArg Host.Outcome.next ((withDesc_starts start.1 start.2).trans ?_)
  have armed : (s.setDesc h (startedDesc s d)).armedPoint set = s.armedPoint set :=
    armedPoint_of_tt (setDesc_changes (l := []) h _).tt set
  have inTime : (s.setDesc h (startedDesc s d)).cancelInTime = s.cancelInTime := by cases h <;> rfl
  have point : (s.setDesc h (startedDesc s d)).armPoint = s.armPoint := by cases h <;> rfl
  have named : tableSetOf (dField (startedDesc s d) 16 1) = some set := names
  have flag : dField (startedDesc s d) 17 1 = dField d 17 1 := rfl
  unfold bankArmed
  dsimp only
  rw [named]
  simp only [armed, inTime, point, flag, setArmed_setDesc]
  split
  · cases s.armedPoint set with
    | none => rfl
    | some p =>
      dsimp only
      split <;> rfl
  · rfl

theorem bankArmed_arms {d : Desc} (arm : dField d 17 1 % 2 = 0) :
    let p := s.armPoint (dPoint d 24).term (dPoint d 24).period
    bankArmed s set d = (s.setArmed set (some ⟨p.1, p.2⟩), St.ok, (BellTime.at0 p.1 p.2).stamp.toNat) :=
  if_neg (by simp [arm])

theorem bankArmed_cancels {d : Desc} {p : Point} (cancel : dField d 17 1 % 2 = 1) (armed : s.armedPoint set = some p) :
    bankArmed s set d = if s.cancelInTime p then (s.setArmed set none, St.ok, 0) else (s, St.denied, 0) := by
  refine (if_pos (by simp [cancel])).trans ?_
  rw [armed]

/-! What a switch-over leaves alone. -/

/-- On the way from `a` to `b` the banks of the local sets stay as they are, with which is active; so do armed points, bell time and
every byte of pool memory. -/
structure BanksStay (a b : State) : Prop where
  tt : b.tt = a.tt
  bell : b.bell = a.bell
  mem : b.pool.mem = a.pool.mem
  tables : TablesSame a b
  objects : b.pool.objBank = a.pool.objBank ∧ b.pool.obj0 = a.pool.obj0 ∧ b.pool.obj1 = a.pool.obj1
  roll : b.roll.bank = a.roll.bank ∧ b.roll.cfg0 = a.roll.cfg0 ∧ b.roll.cfg1 = a.roll.cfg1

theorem BanksStay.refl (s : State) : BanksStay s s := ⟨rfl, rfl, rfl, TablesSame.of_mort rfl, ⟨rfl, rfl, rfl⟩, ⟨rfl, rfl, rfl⟩⟩

theorem BanksStay.trans (h : BanksStay a b) (g : BanksStay b c) : BanksStay a c where
  tt := g.tt.trans h.tt
  bell := g.bell.trans h.bell
  mem := g.mem.trans h.mem
  tables := h.tables.trans g.tables
  objects := ⟨g.objects.1.trans h.objects.1, g.objects.2.1.trans h.objects.2.1, g.objects.2.2.trans h.objects.2.2⟩
  roll := ⟨g.roll.1.trans h.roll.1, g.roll.2.1.trans h.roll.2.1, g.roll.2.2.trans h.roll.2.2⟩

theorem BanksStay.foldl {β : Type} {f : State → β → State} (each : ∀ u x, BanksStay u (f u x)) (xs : List β) (s : State) :
    BanksStay s (xs.foldl f s) := by
  induction xs generalizing s with
  | nil => exact BanksStay.refl s
  | cons x xs ih => exact (each s x).trans (ih _)

/-- What moves frames switches no bank. -/
theorem Moves.banks (h : Moves l a b) : BanksStay a b where
  tt := by rw [h.effect.rest]
  bell := by rw [h.effect.rest]
  mem := by rw [h.pool]
  tables := h.effect.tables
  objects := by rw [h.pool]; exact ⟨rfl, rfl, rfl⟩
  roll := by rw [h.effect.rest]; exact ⟨rfl, rfl, rfl⟩

theorem BanksStay.withPool {x : Pool} (same : x.mem = s.pool.mem ∧ x.objBank = s.pool.objBank ∧ x.obj0 = s.pool.obj0
    ∧ x.obj1 = s.pool.obj1 := by exact ⟨rfl, rfl, rfl, rfl⟩) : BanksStay s (s.withPool x) :=
  ⟨rfl, rfl, same.1, TablesSame.of_mort rfl, same.2, ⟨rfl, rfl, rfl⟩⟩

theorem BanksStay.withRoll {x : Roll} (same : x.bank = s.roll.bank ∧ x.cfg0 = s.roll.cfg0 ∧ x.cfg1 = s.roll.cfg1
    := by exact ⟨rfl, rfl, rfl⟩) : BanksStay s (s.withRoll x) :=
  ⟨rfl, rfl, rfl, TablesSame.of_mort rfl, ⟨rfl, rfl, rfl⟩, same⟩

/-! The mortise, drawer and object sets (R149, R179, R191, R198). -/

theorem fillPolicer_banks (p slot c : Nat) : BanksStay s (s.fillPolicer p slot c) := by
  have moves : Moves [] s (s.fillPolicer p slot c) := Moves.withSw ⟨rfl, rfl⟩ (Nat.le_refl _)
  exact moves.banks

theorem switchMort_banks (s : State) : BanksStay (s.withMort { s.mort with mortBank := !s.mort.mortBank }) s.switchMort := by
  unfold State.switchMort
  exact BanksStay.foldl (fun _ _ => BanksStay.foldl (fun _ _ => fillPolicer_banks _ _ _) _ _) _ _

theorem clearWritten_banks (e : BitVec 128) : BanksStay s (s.clearWritten e) := BanksStay.withPool

theorem switchDrawers_banks (s : State) : BanksStay (s.withMort { s.mort with drawerBank := !s.mort.drawerBank }) s.switchDrawers := by
  unfold State.switchDrawers
  dsimp only
  refine BanksStay.trans ?_ (BanksStay.foldl (fun u p => ?_) _ _)
  · exact BanksStay.foldl (fun _ _ => clearWritten_banks _) _ _
  split
  · exact (Moves.withMort (l := [])).banks
  · exact BanksStay.refl u

theorem raisePool_banks {n : Nat} {f : Option Frame} : BanksStay s (s.raisePool n f) :=
  (raiseCap_changes (l := Reg.poolErrCapture :: recordRegs Reg.poolErr) _ n _ _ (fun _ m => Or.inl (List.mem_cons_of_mem _ m))
    (by simp)).moves.banks

theorem switchObjects_banks (s : State) :
    BanksStay (s.withPool { s.pool with objBank := !s.pool.objBank, inert := [] }) s.switchObjects := by
  unfold State.switchObjects
  exact BanksStay.foldl (fun u _ => BanksStay.trans BanksStay.withPool raisePool_banks) _ _

/-! The roll (R373): slots that close end their tickets, slots that open are watched. -/

theorem injectReq_moves {k : Fin 12} {c : Cls} {f : Frame} : Moves fabricRegs s (s.injectReq k c f) := by
  unfold State.injectReq
  split
  · exact enqueue_moves
  · split
    · exact enqueue_moves
    · exact dropNoRoute_moves

theorem originate_moves {unit : BitVec 10} {k : Fin 12} {c : Cls} {hdr : BitVec 256} {payload : Bytes} {why : Purpose} :
    Moves fabricRegs s (s.originate unit k c hdr payload why) := by
  unfold State.originate
  split
  · exact Moves.withMort
  · exact Moves.trans Moves.withMort injectReq_moves

theorem rollSend_banks {msg : RollMsg} {slot : Nat} {c : Cls} {h : HdrFields} {payload : Bytes} :
    BanksStay s (s.rollSend msg slot c h payload) := by
  unfold State.rollSend
  exact BanksStay.trans BanksStay.withRoll originate_moves.banks

theorem sendWatch_banks {agent : AgentId} {on : Bool} : BanksStay s (s.sendWatch agent on) := by
  unfold State.sendWatch
  exact rollSend_banks

theorem watchAgent_banks {agent : AgentId} : BanksStay s (s.watchAgent agent) := by
  unfold State.watchAgent
  split
  · exact BanksStay.refl s
  · refine BanksStay.trans ?_ sendWatch_banks
    exact BanksStay.withRoll

theorem dropWatches_banks : BanksStay s s.dropWatches := by
  unfold State.dropWatches
  refine BanksStay.foldl (fun _ _ => BanksStay.trans ?_ sendWatch_banks) _ _
  exact BanksStay.withRoll

theorem setRollLive_banks {slot : Nat} {live : Live} : BanksStay s (s.setRollLive slot live) := BanksStay.withRoll

theorem addRefs_banks {parent : Option Nat} {up : Bool} : BanksStay s (s.addRefs parent up) := by
  cases parent with
  | none => exact BanksStay.refl s
  | some p => exact setRollLive_banks

theorem ticketEnd_banks {t : Ticket} {st : Status} : BanksStay s (s.ticketEnd t st) := by
  unfold State.ticketEnd
  split
  · exact BanksStay.refl s
  · exact (complete_routes.moves (List.Subset.refl _)).banks

theorem closeSlot_banks {slot : Nat} {old : BitVec 1024} : BanksStay s (s.closeSlot slot old) := by
  unfold State.closeSlot
  refine BanksStay.trans ?_ (BanksStay.foldl (fun u p => ?_) _ _)
  · refine BanksStay.trans ?_ addRefs_banks
    exact BanksStay.withRoll
  split
  · refine BanksStay.trans ?_ ticketEnd_banks
    exact BanksStay.withRoll
  · exact BanksStay.refl u

theorem openSlot_banks {slot : Nat} {c : BitVec 1024} : BanksStay s (s.openSlot slot c) := by
  unfold State.openSlot
  split
  · exact BanksStay.withRoll
  · exact (setRollLive_banks.trans addRefs_banks).trans watchAgent_banks

theorem switchRoll_banks (s : State) : BanksStay (s.withRoll { s.roll with bank := !s.roll.bank }) s.switchRoll := by
  unfold State.switchRoll
  exact ((BanksStay.foldl (fun _ _ => closeSlot_banks) _ _).trans (BanksStay.foldl (fun _ _ => openSlot_banks) _ _)).trans
    dropWatches_banks

/-! BANK_SWITCH_OVER. -/

/-- The state with the active bank of a set changed. -/
def flipped (s : State) (set : TableSet) : State :=
  match set with
  | .mortise => s.withMort { s.mort with mortBank := !s.mort.mortBank }
  | .drawer => s.withMort { s.mort with drawerBank := !s.mort.drawerBank }
  | .object => s.withPool { s.pool with objBank := !s.pool.objBank, inert := [] }
  | .roll => s.withRoll { s.roll with bank := !s.roll.bank }

theorem flipped_rest (s : State) (set : TableSet) :
    (flipped s set).tt = s.tt ∧ (flipped s set).bell = s.bell ∧ (flipped s set).pool.mem = s.pool.mem := by
  cases set <;> exact ⟨rfl, rfl, rfl⟩

theorem exec_bankSwitchOver {p : Point} (armed : s.armedPoint set = some p) (due : s.reached p.term p.period = true) :
    ∃ t, exec (.bankSwitchOver set) s = .next t ∧ BanksStay (flipped (s.setArmed set none) set) t := by
  have run : exec (.bankSwitchOver set) s = execBankSwitchOver set s := rfl
  rw [run]
  unfold execBankSwitchOver
  rw [armed]
  dsimp only
  rw [if_neg (by simp [due])]
  cases set with
  | mortise => exact ⟨_, rfl, switchMort_banks _⟩
  | drawer => exact ⟨_, rfl, switchDrawers_banks _⟩
  | object => exact ⟨_, rfl, switchObjects_banks _⟩
  | roll => exact ⟨_, rfl, switchRoll_banks _⟩

/-- Settles O19. -/
theorem localBanksSwitch : Obligations.LocalBanksSwitch := by
  refine ⟨fun h q s d set start names => ?_, fun set s p armed due => ?_⟩
  · have changes : ChangesOnly (doneRegs h d) (bankArmed s set d).1
        (((bankArmed s set d).1.setDesc h (startedDesc s d)).done h (startedDesc s d) (bankArmed s set d).2.1 (bankArmed s set d).2.2) :=
      setDesc_done_changes (d := startedDesc s d)
    have owner : (bankArmed s set d).1.setOwner h = s.setOwner h := by rw [bankArmed_eq]; cases h <;> rfl
    have done : Completes h (startedDesc s d) (bankArmed s set d).2.1.toNat (bankArmed s set d).2.2 s
        (((bankArmed s set d).1.setDesc h (startedDesc s d)).done h (startedDesc s d) (bankArmed s set d).2.1 (bankArmed s set d).2.2) :=
      setDesc_done_completes.of_setOwner owner
    have points := armedPoint_of_tt changes.tt
    refine ⟨_, exec_bankArm start names, ?_, fun arm => ?_, fun cancel p armed inTime => ?_, fun cancel p armed late => ?_⟩
    · rw [changes.tt, ← bankArmed_eq]
      exact changes
    · dsimp only
      simp only [points]
      rw [bankArmed_arms arm] at done ⊢
      exact ⟨armedPoint_setArmed_same .., done, fun other ne => armedPoint_setArmed_other _ _ ne⟩
    · simp only [points]
      rw [bankArmed_cancels cancel armed, if_pos inTime] at done ⊢
      exact ⟨armedPoint_setArmed_same .., done⟩
    · rw [changes.tt]
      rw [bankArmed_cancels cancel armed, if_neg (by simp [late])] at done ⊢
      exact ⟨rfl, done⟩
  · obtain ⟨t, run, stay⟩ := exec_bankSwitchOver armed due
    obtain ⟨tt, bell, mem, tables, objects, roll⟩ := stay
    obtain ⟨flipTt, flipBell, flipMem⟩ := flipped_rest (s.setArmed set none) set
    refine ⟨t, run, ?_, ?_, ?_, ?_, ?_, ?_, ?_⟩
    · rw [armedPoint_of_tt (tt.trans flipTt), armedPoint_setArmed_same]
    · rw [mem, flipMem, setArmed_eq, State.withTt_pool]
    · rw [bell, flipBell, setArmed_eq, State.withTt_bell]
    · rintro rfl
      exact ⟨tables.banks.1, tables.jobs.1, tables.jobs.2, tables.addresses.1, tables.addresses.2, tables.admission.1,
        tables.admission.2⟩
    · rintro rfl
      exact ⟨tables.banks.2, tables.drawers⟩
    · rintro rfl
      exact objects
    · rintro rfl
      exact roll

end Sys2Proof.Machine

/-! ## Entering a boot state (R529) -/
namespace Sys2Proof.Machine

variable {a b s t : State} {l : List Nat} {off : Nat}

theorem bit_setBit {w : Nat} (v : BitVec w) {n : Nat} (lt : n < w) : bit (setBit v n) n = true := by
  simp only [bit, setBit, BitVec.getLsbD_or, BitVec.getLsbD_shiftLeft, BitVec.getLsbD_ofNat]
  simp [lt, Nat.zero_lt_of_lt lt]

@[simp] theorem rd64_wr64 (s : State) (lo : Nat) (v : Dword) : (s.wr64 lo v).rd64 lo = v := by
  unfold State.wr64 State.rd64
  rw [State.rd_wr_same, State.rd_wr_other _ _ (by omega), State.rd_wr_same]
  exact BitVec.extractLsb'_append_extractLsb'_eq_extractLsb' rfl |>.trans BitVec.extractLsb'_eq_self

theorem rd_wr64_other (s : State) {lo : Nat} (v : Dword) (low : off ≠ lo) (high : off ≠ lo + 4) : (s.wr64 lo v).rd off = s.rd off := by
  unfold State.wr64
  rw [State.rd_wr_other _ _ high, State.rd_wr_other _ _ low]

theorem wr64_regsOnly {lo : Nat} {v : Dword} (low : lo ∈ l) (high : lo + 4 ∈ l) : RegsOnly l s (s.wr64 lo v) :=
  (RegsOnly.wr low).trans (RegsOnly.wr high)

/-- The boot's record of entering a state. -/
def State.entering (s : State) (b : BootSt) : Boot :=
  { s.boot with state := b, enteredAt := s.bell.ticks, enteredBound := s.bell.bounds }

@[simp] theorem enterBoot_boot (s : State) (b : BootSt) : (s.enterBoot b).boot = s.entering b := rfl

/-- Entering a boot state records it and stamps the time. -/
theorem enterBoot_stamps (s : State) (b : BootSt) :
    RegsOnly [Reg.bootStampLo, Reg.bootStampHi] (s.withBoot (s.entering b)) (s.enterBoot b) :=
  wr64_regsOnly (by decide) (by decide)

theorem rd_enterBoot (s : State) (b : BootSt) (low : off ≠ Reg.bootStampLo) (high : off ≠ Reg.bootStampHi) :
    (s.enterBoot b).rd off = s.rd off :=
  (enterBoot_stamps s b).2 off (by simp [low, high])

@[simp] theorem rd64_enterBoot (s : State) (b : BootSt) : (s.enterBoot b).rd64 Reg.bootStampLo = s.now := rd64_wr64 ..

@[simp] theorem touch_boot (s : State) (h : HostPort) : (s.touch h).boot = s.boot := by rw [touch_rest]
@[simp] theorem touch_pool (s : State) (h : HostPort) : (s.touch h).pool = s.pool := by rw [touch_rest]

end Sys2Proof.Machine

/-! ## Pool initialization, and the counters of the pool (R189, R221, R223, R257) -/
namespace Sys2Proof.Machine

variable {a b c s t : State} {l : List Nat} {h : HostPort}

/-! POOL_INIT. -/

theorem poolInit_starts (ready : s.boot.state = .timetable) :
    s.poolInit = (s.withPool { s.pool with initBusy := true, initDone := false }).enterBoot .poolInit :=
  if_pos (by rw [ready]; rfl)

theorem poolInit_ignored (other : s.boot.state ≠ .timetable) : s.poolInit = s.bump Reg.bootOrderIgnored :=
  if_neg (fun e => other (beq_iff_eq.1 e))

theorem exec_poolInit (hr : Reaches s h Reg.poolCtrl) : exec (.poolInit h) s = .next (s.touch h).poolInit :=
  congrArg Host.Outcome.next (hostWrite_reaches hr)

/-! The GET_EVENT commands that pool initialization leaves with the trays (R237). -/

/-- On the way from `a` to `b` commands are sent to trays: nothing changes but the trays' records and the switch core. -/
def SendsToTrays (a b : State) : Prop := b = (a.withPool { a.pool with trays := b.pool.trays }).withSw b.sw

theorem SendsToTrays.refl (s : State) : SendsToTrays s s := rfl

theorem SendsToTrays.trans (h : SendsToTrays a b) (g : SendsToTrays b c) : SendsToTrays a c := by
  unfold SendsToTrays at *
  rw [h] at g
  exact g

theorem SendsToTrays.foldl {β : Type} {f : State → β → State} (each : ∀ u x, SendsToTrays u (f u x)) (xs : List β) (s : State) :
    SendsToTrays s (xs.foldl f s) := by
  induction xs generalizing s with
  | nil => exact SendsToTrays.refl s
  | cons x xs ih => exact (each s x).trans (ih _)

theorem SendsToTrays.rd (h : SendsToTrays a b) (off : Nat) : b.rd off = a.rd off := by
  rw [h]
  rfl

theorem sendCmd_sends (t q opcode param addr sectors : Nat) (payload : Bytes) (why : CmdFor) (again : Bool) :
    SendsToTrays s (s.sendCmd t q opcode param addr sectors payload why again) := by
  unfold State.sendCmd
  dsimp only
  split <;> rfl

theorem openEvents_sends (s : State) : SendsToTrays s s.openEvents := by
  unfold State.openEvents
  exact SendsToTrays.foldl (fun _ _ => SendsToTrays.foldl (fun _ _ => sendCmd_sends ..) _ _) _ _

/-! POOL_INIT_DONE. -/

/-- The pool as initialization leaves it, before the trays are sent their commands. -/
def initialized (s : State) : State :=
  let s := s.zeroPool.sizePool
  let s := s.withPool { s.pool with initBusy := false, initDone := true }
  s.wr Reg.scaleStatus (setBit (s.rd Reg.scaleStatus) 0)

theorem exec_poolInitDone (busy : s.boot.state = .poolInit) :
    exec .poolInitDone s = .next (((initialized s).openEvents.enterBoot .run).postEvent 0x06 0 0 []) := by
  change execPoolInitDone s = _
  unfold execPoolInitDone
  rw [if_neg (by rw [busy]; decide)]
  rfl

/-- Registers that show the session's sizes (R189). -/
def sizeRegs : List Nat := [Reg.scFlashManagedLo, Reg.scFlashManagedLo + 4, Reg.scMapReserveLo, Reg.scMapReserveLo + 4,
  Reg.scStackUsableLo, Reg.scStackUsableLo + 4, Reg.scTermLength, Reg.scSwitchNumber]

theorem sizePool_regsOnly (s : State) : ∃ p, RegsOnly sizeRegs (s.withPool p) s.sizePool := by
  unfold State.sizePool
  dsimp only
  apply Exists.intro
  refine RegsOnly.trans ?_ (RegsOnly.wr (by decide))
  refine RegsOnly.trans ?_ (RegsOnly.wr (by decide))
  refine RegsOnly.trans ?_ (wr64_regsOnly (by decide) (by decide))
  refine RegsOnly.trans ?_ (wr64_regsOnly (by decide) (by decide))
  exact wr64_regsOnly (by decide) (by decide)

theorem initialized_rest (s : State) : ∃ p r, initialized s = (s.zeroPool.withPool p).withRegs r := by
  obtain ⟨p, sized⟩ := sizePool_regsOnly s.zeroPool
  unfold initialized
  dsimp only
  rw [sized.1]
  exact ⟨_, _, rfl⟩

theorem numberTrays_none (none : s.pool.trays = []) : s.numberTrays = [] := by
  unfold State.numberTrays
  simp [none]

/-- Bytes of flash that the session manages (R240). -/
def sessionFlash (s : State) : Nat :=
  min (((s.numberTrays.filter (fun x => x.state == .live)).map (·.share)).sum * gib) (128 * 1024 * gib)

theorem sizePool_pool (s : State) :
    let flash := sessionFlash s
    let usable := 576 * gib - flash / 32768 * 8 - 4 * gib
    let direct := if flash = 0 then usable else min (bits (s.rd Reg.poolCfg).toNat 15 0 * gib) (usable - 16 * gib)
    s.sizePool.pool = { s.pool with
      trays := Tab.putRun Tray.reset [] 0 s.numberTrays, direct := direct
      frameCount := if flash = 0 then 0 else (usable - direct) / 32768
      flashBytes := flash, lendable := s.sizePool.pool.lendable } := rfl

theorem sessionFlash_none (none : s.numberTrays = []) : sessionFlash s = 0 := by simp [sessionFlash, none]

theorem initialized_pool (s : State) :
    (initialized s).pool = { s.zeroPool.sizePool.pool with initBusy := false, initDone := true } := rfl

/-- Without a tray all stacked memory is direct, but for what is kept back (R189). -/
theorem initialized_noTrays (none : s.pool.trays = []) : (initialized s).pool.trays = [] ∧ (initialized s).pool.flashBytes = 0
    ∧ (initialized s).pool.frameCount = 0 ∧ (initialized s).pool.direct = 572 * gib := by
  have numbered : s.zeroPool.numberTrays = [] := numberTrays_none none
  rw [initialized_pool, sizePool_pool, sessionFlash_none numbered, numbered]
  refine ⟨rfl, rfl, ?_, ?_⟩
  · dsimp only
    rw [if_pos rfl]
  · dsimp only
    rw [if_pos rfl]
    norm_num [gib]

/-- Initialization clears memory, the map and the object table. -/
theorem initialized_cleared (s : State) : let p := (initialized s).pool
    p.initDone = true ∧ p.initBusy = false ∧ p.mem = [] ∧ p.map = [] ∧ p.frames = [] ∧ p.written = [] ∧ p.obj0 = [] ∧ p.obj1 = [] := by
  dsimp only
  rw [initialized_pool, sizePool_pool]
  exact ⟨rfl, rfl, rfl, rfl, rfl, rfl, rfl, rfl⟩

/-- Commands to trays, an entry into RUN and an event leave the state as it was but for the trays' records, the switch core, the
boot, registers and reports. -/
theorem enterRun_rest {u v w : State} (sent : SendsToTrays u v) (stamp : RegsOnly l (v.withBoot (v.entering .run)) w)
    (event : ChangesOnly [] w t) :
    t = { u with pool := { u.pool with trays := t.pool.trays }, boot := u.entering .run, sw := t.sw, regs := t.regs, test := t.test,
                 hostA := t.hostA, hostB := t.hostB, out := t.out } := by
  unfold SendsToTrays at sent
  rw [event.rest, stamp.1, sent]
  rfl

/-- The end of pool initialization. -/
theorem poolInitDone_state (s : State) : ∃ t, ((initialized s).openEvents.enterBoot .run).postEvent 0x06 0 0 [] = t
    ∧ (let u := initialized s
      t = { u with pool := { u.pool with trays := t.pool.trays }, boot := u.entering .run, sw := t.sw, regs := t.regs, test := t.test,
                   hostA := t.hostA, hostB := t.hostB, out := t.out })
    ∧ bit (t.rd Reg.scaleStatus) 0 = true := by
  have event := postEvent_changes (l := []) (s := (initialized s).openEvents.enterBoot .run) 0x06 0 0 []
  have sent := openEvents_sends (initialized s)
  refine ⟨_, rfl, enterRun_rest sent (enterBoot_stamps (initialized s).openEvents .run) event, ?_⟩
  rw [event.reg _ List.not_mem_nil (by decide), rd_enterBoot _ _ (by decide) (by decide), sent.rd, initialized, State.rd_wr_same]
  exact bit_setBit _ (by decide)

/-! CLR_COUNTERS of the pool, of a stack and of the trays. -/

theorem counters_zeroed (zeros : List Nat) (s : State) :
    (∀ off ∈ zeros, (s.zeroRegs zeros).rd off = 0) ∧ RegsOnly zeros s (s.zeroRegs zeros) :=
  ⟨fun _ m => rd_zeroRegs m, RegsOnly.zeroRegs (fun _ m => m)⟩

/-- The counters that the tray records hold. -/
theorem clearTrays_counters {p : Nat × Tray} (m : p ∈ s.clearTrays.pool.trays) :
    p.2.sectDemote = 0 ∧ p.2.sectGc = 0 ∧ p.2.sectWear = 0 := by
  obtain ⟨q, -, rfl⟩ := List.mem_map.1 m
  exact ⟨rfl, rfl, rfl⟩

/-- Settles O33. -/
theorem poolSession : Obligations.PoolSession := by
  refine ⟨fun h s hr => ?_, fun s busy => ?_, fun h s hr => ?_, fun h k s hr => ?_, fun h s hr => ?_⟩
  · refine ⟨_, exec_poolInit hr, fun ready => ?_, fun other => ?_⟩
    · rw [poolInit_starts (by rw [touch_boot]; exact ready), touch_pool]
      exact ⟨rfl, rfl, rfl, rfl, enterBoot_stamps ..⟩
    · rw [poolInit_ignored (by rw [touch_boot]; exact other)]
      refine ⟨?_, RegsOnly.wr (by decide)⟩
      have counted := counted_bump (s.touch h) Reg.bootOrderIgnored
      rwa [Counted, touch_rd] at counted
  · obtain ⟨t, run, rest, status⟩ := poolInitDone_state s
    refine ⟨t, (exec_poolInitDone busy).trans (congrArg _ run), ?_⟩
    obtain ⟨p, r, zeroed⟩ := initialized_rest s
    obtain ⟨initDone, initBusy, mem, map, frames, written, obj0, obj1⟩ := initialized_cleared s
    have alone := initialized_noTrays (s := s)
    generalize initialized s = u at rest zeroed initDone initBusy mem map frames written obj0 obj1 alone
    have boot : t.boot = u.entering .run := by rw [rest]
    have roll : t.roll = s.zeroPool.roll := by rw [rest, zeroed]; rfl
    have tPool : t.pool = { u.pool with trays := t.pool.trays } := by rw [rest]
    have kept : t.bell = s.bell ∧ t.tt = s.tt ∧ t.links = s.links ∧ t.mort = s.mort ∧ t.dir = s.dir ∧ t.fault = s.fault
        ∧ t.mod = s.mod := by rw [rest, zeroed]; exact ⟨rfl, rfl, rfl, rfl, rfl, rfl, rfl⟩
    rw [boot, roll, tPool]
    exact ⟨rfl, initDone, initBusy, mem, map, frames, written, obj0, obj1, rfl, rfl, rfl, rfl, status, fun none => (alone none).2, kept⟩
  · exact ⟨_, congrArg Host.Outcome.next (hostWrite_reaches hr), counters_zeroed _ _⟩
  · exact ⟨_, congrArg Host.Outcome.next (hostWrite_reaches hr), counters_zeroed _ _⟩
  · obtain ⟨zero, only⟩ := counters_zeroed [Reg.trayDiscards, Reg.trayMacFail, Reg.trayVersionFail, Reg.trayVersionPinned, Reg.trayDemoteFail]
      (s.touch h)
    have pool : ((s.touch h).zeroRegs [Reg.trayDiscards, Reg.trayMacFail, Reg.trayVersionFail, Reg.trayVersionPinned,
        Reg.trayDemoteFail]).pool = s.pool := by rw [only.1, State.withRegs_pool, touch_pool]
    refine ⟨(s.touch h).clearTrays, congrArg Host.Outcome.next (hostWrite_reaches hr), zero, fun _ => clearTrays_counters, ?_, ?_, only.2⟩
    · rw [State.clearTrays, State.withPool_pool, pool]
    · unfold State.clearTrays
      dsimp only
      rw [pool, only.1]
      rfl

end Sys2Proof.Machine

/-! ## The end of a link session, and links that begin to train (R91, R94, R98, R114, R125, R540) -/
namespace Sys2Proof.Machine

variable {a b c s t : State} {ls ms : List LinkId} {l m : List Nat} {k : LinkId} {p q : Port}

/-- What links do to the state keeps the frame of `LinkEffect` and, beside it, descriptors in flight and the fault unit. -/
structure LinkMoves (ls : List LinkId) (regs : List Nat) (a b : State) : Prop where
  effect : LinkEffect ls regs a b
  flight : ∀ g, (b.host g).flight = (a.host g).flight
  fault : b.fault = a.fault

theorem LinkMoves.refl (s : State) : LinkMoves ls l s s :=
  ⟨⟨rfl, ⟨rfl, rfl⟩, fun _ _ => rfl, fun _ _ _ => rfl⟩, fun _ => rfl, rfl⟩

theorem LinkMoves.trans (h : LinkMoves ls l a b) (g : LinkMoves ls l b c) : LinkMoves ls l a c where
  effect.rest := by
    have e := g.effect.rest
    rw [h.effect.rest] at e
    exact e
  effect.time := ⟨g.effect.time.1.trans h.effect.time.1, g.effect.time.2.trans h.effect.time.2⟩
  effect.link := fun k n => (g.effect.link k n).trans (h.effect.link k n)
  effect.reg := fun off n r => (g.effect.reg off n r).trans (h.effect.reg off n r)
  flight := fun x => (g.flight x).trans (h.flight x)
  fault := g.fault.trans h.fault

theorem LinkMoves.mono (h : LinkMoves ls l a b) (links : ls ⊆ ms) (regs : l ⊆ m) : LinkMoves ms m a b :=
  { h with
    effect := { h.effect with
      link := fun k n => h.effect.link k (fun i => n (links i))
      reg := fun off n => h.effect.reg off (fun i => n (regs i)) } }

theorem LinkMoves.foldl {β : Type} {f : State → β → State} (xs : List β) (each : ∀ u x, x ∈ xs → LinkMoves ls l u (f u x)) (s : State) :
    LinkMoves ls l s (xs.foldl f s) := by
  induction xs generalizing s with
  | nil => exact LinkMoves.refl s
  | cons x xs ih =>
    exact (each s x (List.mem_cons_self ..)).trans (ih (fun u y m => each u y (List.mem_cons_of_mem _ m)) _)

theorem LinkMoves.link (h : LinkMoves ls l a b) {k : LinkId} (out : k ∉ ls) : b.link k = a.link k := h.effect.link k out

/-! Reports and descriptors in flight. -/

theorem foldl_keeps {α β : Type} {φ : State → α} {f : State → β → State} (each : ∀ u x, φ (f u x) = φ u) (xs : List β) (s : State) :
    φ (xs.foldl f s) = φ s := by
  induction xs generalizing s with
  | nil => rfl
  | cons x xs ih => exact (ih _).trans (each s x)

theorem withTest_host (s : State) (x : Test) (g : HostPort) : (s.withTest x).host g = s.host g := by cases g <;> rfl

/-- An error record is no part of a host's side. -/
theorem record_host (e n : Nat) (caps bitCaps : List (Nat × Word)) (g : HostPort) :
    (s.record e n caps bitCaps).host g = s.host g := by
  have traced : ∀ (u : State) (d : Bytes), (u.traceEv 3 0 true d).host g = u.host g := fun u d =>
    foldl_keeps (φ := fun s => s.host g) (fun v b => by unfold traceInto; dsimp only; split <;> simp [withTest_host]) _ u
  have triggered : ∀ u : State, ([0, 1, 2, 3].foldl (fun s k => traceTrigger s e n k) u).host g = u.host g :=
    foldl_keeps (φ := fun s => s.host g)
      (fun v b => by unfold traceTrigger; dsimp only; split <;> simp [State.wr64, wr_host, withTest_host]) _
  have put : ∀ (ps : List (Nat × Word)) (u : State), (ps.foldl (fun s p => s.wr p.1 p.2) u).host g = u.host g :=
    foldl_keeps (φ := fun s => s.host g) (fun v x => wr_host ..)
  have counted : ∀ u : State, (u.bump (e + 4)).host g = u.host g := fun u => wr_host ..
  unfold State.record
  dsimp only
  rw [triggered, traced, wr_host]
  split <;> split <;> simp only [put, counted, State.wr64, wr_host]

theorem evtWrite_flight (h g : HostPort) (e : Bytes) : ((s.evtWrite h e).host g).flight = (s.host g).flight := by
  unfold State.evtWrite
  exact (ringWrite_flight ..).trans (withHost_flight g rfl)

theorem evtDrop_flight (h g : HostPort) : ((s.evtDrop h).host g).flight = (s.host g).flight := by
  unfold State.evtDrop State.bump State.addReg
  rw [wr_host]
  exact withHost_flight g rfl

theorem postEventTo_flight (fuel : Nat) (h g : HostPort) (e : Bytes) :
    ((postEventTo fuel s h e).host g).flight = (s.host g).flight := by
  induction fuel generalizing s h e with
  | zero => exact evtDrop_flight h g
  | succ n ih =>
    simp only [postEventTo]
    split
    · exact evtWrite_flight h g e
    · split
      · rw [record_host, evtDrop_flight]
      · rw [ih, ih, record_host, evtDrop_flight]

theorem raiseCap_flight (e n : Nat) (caps bitCaps : List (Nat × Word)) (g : HostPort) :
    ((s.raiseCap e n caps bitCaps).host g).flight = (s.host g).flight := by
  unfold State.raiseCap State.postEvent
  dsimp only
  split
  · rw [record_host]
  · rw [postEventTo_flight, postEventTo_flight, record_host]

/-- A raise is a report: it moves no link. -/
theorem raise_linkMoves {e n : Nat} {caps : List (Nat × Word)} (record : ∀ x ∈ recordRegs e, x ∈ l) (caps' : ∀ x ∈ caps, x.1 ∈ l) :
    LinkMoves ls l s (s.raise e n caps) where
  effect.rest := by
    have rest := (raise_changes (s := s) e n caps record caps').rest
    rw [rest]
  effect.time := by rw [(raise_changes (s := s) e n caps record caps').bell]; exact ⟨rfl, rfl⟩
  effect.link := fun k _ => by rw [(raise_changes (s := s) e n caps record caps').rest]; rfl
  effect.reg := (raise_changes (s := s) e n caps record caps').reg
  flight := raiseCap_flight _ _ _ _
  fault := by rw [(raise_changes (s := s) e n caps record caps').rest]

/-! What a link's session is made of. -/

theorem LinkMoves.withSw {x : Switch} : LinkMoves ls l s (s.withSw x) :=
  ⟨⟨rfl, ⟨rfl, rfl⟩, fun _ _ => rfl, fun _ _ _ => rfl⟩, fun g => by cases g <;> rfl, rfl⟩

theorem LinkMoves.withTest {x : Test} : LinkMoves ls l s (s.withTest x) :=
  ⟨⟨rfl, ⟨rfl, rfl⟩, fun _ _ => rfl, fun _ _ _ => rfl⟩, fun g => by cases g <;> rfl, rfl⟩

theorem LinkMoves.withMort {gw : Tab Gateway} {agents : List AgentTag} :
    LinkMoves ls l s (s.withMort { s.mort with gw := gw, agents := agents }) :=
  ⟨⟨rfl, ⟨rfl, rfl⟩, fun _ _ => rfl, fun _ _ _ => rfl⟩, fun g => by cases g <;> rfl, rfl⟩

theorem LinkMoves.withBell {x : Bell} (now : x.now = s.bell.now) (len : x.len = s.bell.len) : LinkMoves ls l s (s.withBell x) :=
  ⟨⟨rfl, ⟨now, len⟩, fun _ _ => rfl, fun _ _ _ => rfl⟩, fun g => by cases g <;> rfl, rfl⟩

theorem link_setLink (s : State) (k j : LinkId) (x : Link) : (s.setLink k x).link j = if j = k then x else s.link j :=
  link_modLink s k j (fun _ => x)

@[simp] theorem link_setLink_same (s : State) (k : LinkId) (x : Link) : (s.setLink k x).link k = x := by
  rw [link_setLink, if_pos rfl]

@[simp] theorem link_modLink_same (s : State) (k : LinkId) (f : Link → Link) : (s.modLink k f).link k = f (s.link k) :=
  link_setLink_same ..

theorem LinkMoves.setLink {x : Link} (mem : k ∈ ls) : LinkMoves ls l s (s.setLink k x) :=
  ⟨⟨rfl, ⟨rfl, rfl⟩, fun j n => by rw [link_setLink, if_neg (fun e : j = k => n (e ▸ mem))], fun _ _ _ => rfl⟩,
    fun g => by cases g <;> rfl, rfl⟩

theorem LinkMoves.enter {to_ : Train} (mem : k ∈ ls) : LinkMoves ls l s (s.enter k to_) := LinkMoves.setLink mem

theorem swErrRegs_session (p : Port) : swErrRegs ⊆ sessionRegs p ∧ Reg.swPartialDrop ∈ sessionRegs p := by
  simp [swErrRegs, sessionRegs, recordRegs]

theorem raiseSw_linkMoves {n i o c : Nat} (sub : swErrRegs ⊆ l) : LinkMoves ls l s (s.raiseSw n i o c) := by
  refine raise_linkMoves (fun x m => sub (List.mem_cons_of_mem _ m)) (fun x m => sub ?_)
  rw [List.mem_singleton.1 m]
  exact List.mem_cons_self ..

theorem bump_linkMoves {off : Nat} (mem : off ∈ l) : LinkMoves ls l s (s.bump off) :=
  ⟨⟨rfl, ⟨rfl, rfl⟩, fun _ _ => rfl, (ChangesOnly.bump (Or.inl mem)).reg⟩, fun g => by rw [State.bump, State.addReg, wr_host], rfl⟩

theorem losePartial_moves {arr : Arriving} : LinkMoves ls (sessionRegs p) s (s.losePartial arr) := by
  have counted {i o c : Nat} : LinkMoves ls (sessionRegs p) s ((s.bump Reg.swPartialDrop).raiseSw 1 i o c) :=
    (bump_linkMoves (swErrRegs_session p).2).trans (raiseSw_linkMoves (swErrRegs_session p).1)
  unfold State.losePartial
  split
  · exact LinkMoves.refl s
  · split
    · exact LinkMoves.refl s
    · dsimp only
      split
      · exact counted.trans LinkMoves.withSw
      · exact counted.trans LinkMoves.withSw

theorem gatewayDown_moves : LinkMoves ls l s (s.gatewayDown q) := LinkMoves.withMort

/-- What the end of a live session does beside the link: the port's agent, gateway buffers, the egress. -/
theorem endSession_steps (s : State) (k : LinkId) :
    ∃ u, LinkMoves [] (sessionRegs k.port) s u ∧ LinkMoves [] [] (u.setLink k (s.link k).ended) (s.endSession k) := by
  have partials : LinkMoves [] (sessionRegs k.port) s ((s.link k).arriving.foldl (fun s a => s.losePartial a) s) :=
    LinkMoves.foldl _ (fun _ _ _ => losePartial_moves) _
  refine ⟨_, partials, ?_⟩
  unfold State.endSession
  dsimp only
  split
  · exact LinkMoves.refl _
  · refine LinkMoves.trans ?_ LinkMoves.withMort
    refine LinkMoves.trans ?_ LinkMoves.withSw
    split
    · refine LinkMoves.trans ?_ gatewayDown_moves
      split
      · exact LinkMoves.withSw
      · exact LinkMoves.refl _
    · split
      · exact LinkMoves.withSw
      · exact LinkMoves.refl _

theorem endSession_moves : LinkMoves [k] (sessionRegs k.port) s (s.endSession k) := by
  obtain ⟨u, before, after⟩ := endSession_steps s k
  refine ((before.mono (List.nil_subset _) (List.Subset.refl _)).trans ?_).trans (after.mono (List.nil_subset _) (List.nil_subset _))
  exact LinkMoves.setLink (List.mem_singleton_self k)

/-- A link whose session has ended has forgotten it. -/
@[simp] theorem link_endSession (s : State) (k : LinkId) : (s.endSession k).link k = (s.link k).ended := by
  obtain ⟨u, -, after⟩ := endSession_steps s k
  rw [after.link List.not_mem_nil, link_setLink_same]

theorem endLoop_moves : LinkMoves [k] l s (s.endLoop k) := by
  unfold State.endLoop
  dsimp only
  split
  · refine LinkMoves.trans ?_ LinkMoves.withTest
    exact LinkMoves.setLink (List.mem_singleton_self k)
  · exact LinkMoves.setLink (List.mem_singleton_self k)

theorem link_withTest (s : State) (x : Test) (k : LinkId) : (s.withTest x).link k = s.link k := rfl

theorem link_endLoop (s : State) (k : LinkId) : (s.endLoop k).link k = { s.link k with looped := false } := by
  unfold State.endLoop
  dsimp only
  split
  · rw [link_withTest, link_modLink_same]
  · rw [link_modLink_same]

theorem setLock_moves {lock : Lock} : LinkMoves ls (recordRegs Reg.bellErr) s (s.setLock lock) := by
  have changed : LinkMoves ls (recordRegs Reg.bellErr) s (s.withBell (s.bell.locking lock)) :=
    LinkMoves.withBell (locking_now ..) (locking_len ..)
  cases lost : losesLock s.bell.lock lock
  · rw [setLock_silent lost]
    exact changed
  · rw [setLock_reports lost]
    exact changed.trans (raise_linkMoves (fun _ m => m) (fun _ m => absurd m List.not_mem_nil))

theorem timeLinkCheck_moves : LinkMoves [] (recordRegs Reg.bellErr) s s.timeLinkCheck := by
  unfold State.timeLinkCheck
  split
  · exact setLock_moves
  · exact LinkMoves.refl s

theorem bellErr_session (p : Port) : recordRegs Reg.bellErr ⊆ sessionRegs p := List.subset_append_right _ _

/-! Links that are disabled. -/

theorem toDisabled_moves : LinkMoves [k] (sessionRegs k.port) s (s.toDisabled k) := by
  unfold State.toDisabled
  refine LinkMoves.trans ?_ (timeLinkCheck_moves.mono (List.nil_subset _) (bellErr_session _))
  refine LinkMoves.trans ?_ (LinkMoves.enter (List.mem_singleton_self k))
  exact endSession_moves.trans endLoop_moves

theorem link_toDisabled (s : State) (k : LinkId) :
    ((s.toDisabled k).link k).train = .disabled ∧ ((s.toDisabled k).link k).looped = false := by
  unfold State.toDisabled
  rw [timeLinkCheck_moves.link List.not_mem_nil, State.enter, link_modLink_same, link_endLoop]
  exact ⟨rfl, rfl⟩

/-! Links that begin to train. -/

theorem LinkMoves.rd_portCfg (h : LinkMoves ls (sessionRegs q) a b) {n : Nat} (lt : n < 192) :
    b.rd (Reg.portCfg n) = a.rd (Reg.portCfg n) := by
  refine h.effect.reg _ ?_ (reportReg_below (by simp only [Reg.portCfg]; omega))
  have := q.isLt
  simp only [sessionRegs, recordRegs, List.mem_append, List.mem_cons, List.not_mem_nil, or_false, Reg.portErr, Reg.portCfg, Reg.swErr,
    Reg.swErrCapture, Reg.swPartialDrop, Reg.bellErr]
  omega

theorem toDetect_moves : LinkMoves [k] (sessionRegs k.port) s (s.toDetect k) := by
  unfold State.toDetect
  dsimp only
  split
  · exact endSession_moves.trans (LinkMoves.enter (List.mem_singleton_self k))
  · refine LinkMoves.trans ?_ (LinkMoves.enter (List.mem_singleton_self k))
    exact endSession_moves.trans (LinkMoves.setLink (List.mem_singleton_self k))

/-- While its partition is not fenced a link enters DETECT with the configuration that it has. -/
theorem link_toDetect (s : State) (k : LinkId)
    (open_ : s.isFenced (bits (s.rd (Reg.portCfg k.port.val)).toNat 21 16) = false) :
    ((s.toDetect k).link k).train = .detect ∧ ((s.toDetect k).link k).cfg = (s.link k).cfg := by
  have fenced : (s.endSession k).isFenced (bits ((s.endSession k).rd (Reg.portCfg k.port.val)).toNat 21 16) = false := by
    rw [endSession_moves.rd_portCfg k.port.isLt, State.isFenced, endSession_moves.fault]
    exact open_
  unfold State.toDetect
  dsimp only
  rw [fenced, if_neg Bool.false_ne_true, State.enter, link_modLink_same, link_modLink_same, link_endSession]
  exact ⟨rfl, rfl⟩

end Sys2Proof.Machine

/-! ## The links of ports that start and of ports that stop (R91, R94, R532, R537) -/
namespace Sys2Proof.Machine

variable {a b s t : State} {ls : List LinkId} {l : List Nat} {k : LinkId} {p q : Port}

theorem link_port (p : Port) : p.link.port = p := Fin.ext (by simp only [LinkId.port, Port.link]; omega)

theorem port_of_bothLinks (mem : k ∈ bothLinks p) : k.port = p := by
  simp only [bothLinks, List.mem_cons, List.not_mem_nil, or_false] at mem
  rcases mem with rfl | rfl <;> exact Fin.ext (by simp only [LinkId.port, Port.link]; omega)

theorem link_mem_bothLinks (p : Port) : p.link ∈ bothLinks p := List.mem_cons_self ..

theorem cfgLinks_bothLinks (p : Port) (cfg : Word) : cfgLinks p cfg ⊆ bothLinks p := by
  unfold cfgLinks
  split
  · exact List.Subset.refl _
  · simp [bothLinks]

theorem portErr_session (p : Port) : recordRegs (Reg.portErr p.val) ⊆ sessionRegs p := fun x m => by
  simp only [sessionRegs, List.mem_append]
  exact Or.inl (Or.inl (Or.inl m))

/-- A raise for a port as a whole: HALF1 stays. -/
theorem raisePort_eq (s : State) (p : Port) (n : Nat) : s.raisePort p.link n = s.raise (Reg.portErr p.val) n := by
  unfold State.raisePort
  rw [link_port]
  exact if_neg (by simp [Port.link])

/-! A port that starts. -/

/-- A link that is disabled takes up a configuration and enters DETECT. -/
def State.startLink (s : State) (cfg : Word) (k : LinkId) : State :=
  if (s.link k).train == .disabled then (s.modLink k (fun x => { x with cfg := cfg })).toDetect k else s

theorem startTraining_refused (member : s.isMember p = false) (on : bit (s.rd (Reg.portCfg p.val)) 0 = true)
    (role : bits (s.rd (Reg.portCfg p.val)).toNat 5 4 ≠ 0) (bad : s.groupOk p = false) :
    s.startTraining p = s.raise (Reg.portErr p.val) 6 := by
  unfold State.startTraining
  dsimp only
  rw [if_neg (by simp [member, on, role]), if_pos (by simp [bad]), raisePort_eq]

theorem startTraining_starts (member : s.isMember p = false) (on : bit (s.rd (Reg.portCfg p.val)) 0 = true)
    (role : bits (s.rd (Reg.portCfg p.val)).toNat 5 4 ≠ 0) (good : s.groupOk p = true) :
    let cfg := s.rd (Reg.portCfg p.val)
    s.startTraining p = (cfgLinks p cfg).foldl (fun s k => s.startLink cfg k) s := by
  unfold State.startTraining
  dsimp only
  rw [if_neg (by simp [member, on, role]), if_neg (by simp [good])]
  rfl

theorem startLink_moves {cfg : Word} : LinkMoves [k] (sessionRegs k.port) s (s.startLink cfg k) := by
  unfold State.startLink
  split
  · refine LinkMoves.trans ?_ toDetect_moves
    exact LinkMoves.setLink (List.mem_singleton_self k)
  · exact LinkMoves.refl s

theorem startLink_moves_port {cfg : Word} (mem : k ∈ bothLinks p) : LinkMoves (bothLinks p) (sessionRegs p) s (s.startLink cfg k) := by
  have moves := startLink_moves (s := s) (k := k) (cfg := cfg)
  rw [port_of_bothLinks mem] at moves
  exact moves.mono (by simpa using mem) (List.Subset.refl _)

theorem startTraining_moves : LinkMoves (bothLinks p) (sessionRegs p) s (s.startTraining p) := by
  unfold State.startTraining
  dsimp only
  split
  · exact LinkMoves.refl s
  · split
    · rw [raisePort_eq]
      exact raise_linkMoves (fun _ m => portErr_session p m) (fun _ m => absurd m List.not_mem_nil)
    · exact LinkMoves.foldl _ (fun _ _ m => startLink_moves_port (cfgLinks_bothLinks _ _ m)) s

theorem link_startLink {cfg : Word} (off : (s.link k).train = .disabled)
    (open_ : s.isFenced (bits (s.rd (Reg.portCfg k.port.val)).toNat 21 16) = false) :
    ((s.startLink cfg k).link k).train = .detect ∧ ((s.startLink cfg k).link k).cfg = cfg := by
  have started : s.startLink cfg k = (s.modLink k (fun x => { x with cfg := cfg })).toDetect k := if_pos (by simp [off])
  rw [started]
  obtain ⟨train, taken⟩ := link_toDetect (s.modLink k (fun x => { x with cfg := cfg })) k open_
  rw [link_modLink_same] at taken
  exact ⟨train, taken⟩

/-- A sound port that starts: its first link enters DETECT with the configuration that the hosts wrote. -/
theorem startTraining_link (member : s.isMember p = false) (on : bit (s.rd (Reg.portCfg p.val)) 0 = true)
    (role : bits (s.rd (Reg.portCfg p.val)).toNat 5 4 ≠ 0) (good : s.groupOk p = true) (off : (s.link p.link).train = .disabled)
    (open_ : s.isFenced (bits (s.rd (Reg.portCfg p.val)).toNat 21 16) = false) :
    ((s.startTraining p).link p.link).train = .detect ∧ ((s.startTraining p).link p.link).cfg = s.rd (Reg.portCfg p.val) := by
  have first := link_startLink (cfg := s.rd (Reg.portCfg p.val)) off (by rw [link_port]; exact open_)
  rw [startTraining_starts member on role good]
  unfold cfgLinks
  split
  · rw [List.foldl_cons, List.foldl_cons, List.foldl_nil, startLink_moves.link]
    · exact first
    · simp [Port.link]
  · exact first

/-! The ports one after another. -/

theorem sessionRegs_below {off : Nat} (mem : off ∈ sessionRegs q) : off < 0x800000 := by
  have := q.isLt
  simp only [sessionRegs, recordRegs, List.mem_append, List.mem_cons, List.not_mem_nil, or_false, Reg.portErr, Reg.swErr,
    Reg.swErrCapture, Reg.swPartialDrop, Reg.bellErr] at mem
  omega

theorem portErr_apart (ne : p ≠ q) {off : Nat} (mem : off ∈ recordRegs (Reg.portErr p.val)) : off ∉ sessionRegs q := by
  have apart : p.val ≠ q.val := fun e => ne (Fin.ext e)
  have := p.isLt
  simp only [sessionRegs, recordRegs, List.mem_append, List.mem_cons, List.not_mem_nil, or_false, Reg.portErr, Reg.swErr,
    Reg.swErrCapture, Reg.swPartialDrop, Reg.bellErr] at mem ⊢
  omega

/-- On the way from `a` to `b` nothing of port `p` changes, and nothing that a port starts by. -/
structure Elsewhere (p : Port) (a b : State) : Prop where
  link : ∀ k ∈ bothLinks p, b.link k = a.link k
  err : ∀ off ∈ recordRegs (Reg.portErr p.val), b.rd off = a.rd off
  cfg : ∀ n < 192, b.rd (Reg.portCfg n) = a.rd (Reg.portCfg n)
  fault : b.fault = a.fault

theorem Elsewhere.trans (h : Elsewhere p a b) (g : Elsewhere p b t) : Elsewhere p a t :=
  ⟨fun k m => (g.link k m).trans (h.link k m), fun x m => (g.err x m).trans (h.err x m), fun n lt => (g.cfg n lt).trans (h.cfg n lt),
    g.fault.trans h.fault⟩

theorem LinkMoves.elsewhere (h : LinkMoves (bothLinks q) (sessionRegs q) a b) (ne : p ≠ q) : Elsewhere p a b where
  link := fun _ mine => h.link (fun yours => ne ((port_of_bothLinks mine).symm.trans (port_of_bothLinks yours)))
  err := fun off mem => by
    refine h.effect.reg off (portErr_apart ne mem) (reportReg_below ?_)
    have := sessionRegs_below (portErr_session p mem)
    omega
  cfg := fun _ lt => h.rd_portCfg lt
  fault := h.fault

/-- Where each step concerns one port, what the whole does to a port is what its own step does. -/
theorem ports_step {f : State → Port → State} (each : ∀ u q, LinkMoves (bothLinks q) (sessionRegs q) u (f u q)) {ps : List Port}
    (nodup : ps.Nodup) (mem : p ∈ ps) (s : State) : ∃ u, Elsewhere p s u ∧ Elsewhere p (f u p) (ps.foldl f s) := by
  have others : ∀ (qs : List Port) (u : State), p ∉ qs → Elsewhere p u (qs.foldl f u) := by
    intro qs
    induction qs with
    | nil => exact fun u _ => ⟨fun _ _ => rfl, fun _ _ => rfl, fun _ _ => rfl, rfl⟩
    | cons q qs ih =>
      intro u out
      rw [List.mem_cons, not_or] at out
      obtain ⟨ne, out⟩ := out
      exact ((each u q).elsewhere ne).trans (ih _ out)
  obtain ⟨xs, ys, rfl⟩ := List.append_of_mem mem
  have once := (List.nodup_cons.1 (List.nodup_middle.1 nodup)).1
  rw [List.mem_append, not_or] at once
  obtain ⟨first, last⟩ := once
  rw [List.foldl_append, List.foldl_cons]
  exact ⟨_, others xs s first, others ys _ last⟩

theorem ports_moves {f : State → Port → State} (each : ∀ u q, LinkMoves (bothLinks q) (sessionRegs q) u (f u q)) (ps : List Port)
    (s : State) : LinkMoves (ps.flatMap bothLinks) (ps.flatMap sessionRegs) s (ps.foldl f s) :=
  LinkMoves.foldl ps (fun u q m => (each u q).mono (fun _ x => List.mem_flatMap.2 ⟨q, m, x⟩) (fun _ x => List.mem_flatMap.2 ⟨q, m, x⟩)) s

/-! PROCEED (R532). -/

/-- All ports, in order. -/
def allPorts : List Port := (List.range 192).filterMap portOf

theorem mem_allPorts (p : Port) : p ∈ allPorts :=
  List.mem_filterMap.2 ⟨p.val, List.mem_range.2 p.isLt, dif_pos p.isLt⟩

theorem allPorts_nodup : allPorts.Nodup := by
  refine List.Nodup.filterMap (fun m n p mp np => ?_) List.nodup_range
  simp only [portOf, Option.mem_def] at mp np
  split at mp
  · split at np
    · exact congrArg Fin.val (Option.some.inj (mp.trans np.symm))
    · exact absurd np (by simp)
  · exact absurd mp (by simp)

/-- PROCEED's step for a port: one with both links disabled starts. -/
def State.startPort (s : State) (p : Port) : State :=
  if (bothLinks p).all (fun k => (s.link k).train == .disabled) then s.startTraining p else s

theorem startPort_moves (s : State) (p : Port) : LinkMoves (bothLinks p) (sessionRegs p) s (s.startPort p) := by
  unfold State.startPort
  split
  · exact startTraining_moves
  · exact LinkMoves.refl s

theorem startPort_off (off : ∀ k ∈ bothLinks p, (s.link k).train = .disabled) : s.startPort p = s.startTraining p :=
  if_pos (List.all_eq_true.2 (fun k m => beq_iff_eq.2 (off k m)))

theorem Elsewhere.isMember (h : Elsewhere p a b) (q : Port) : b.isMember q = a.isMember q := by
  unfold State.isMember
  rw [h.cfg _ (by omega), h.cfg _ (by omega)]

theorem Elsewhere.groupOk (h : Elsewhere p a b) (q : Port) : b.groupOk q = a.groupOk q := by
  unfold State.groupOk
  simp only [fun x : Port => h.cfg x.val x.isLt]

/-- What PROCEED's walk over the ports does to a port that is off, enabled and has a role. -/
theorem startPorts_port (off : ∀ k ∈ bothLinks p, (s.link k).train = .disabled) (member : s.isMember p = false)
    (on : bit (s.rd (Reg.portCfg p.val)) 0 = true) (role : bits (s.rd (Reg.portCfg p.val)).toNat 5 4 ≠ 0) :
    let t := allPorts.foldl State.startPort s
    (s.groupOk p = true → s.isFenced (bits (s.rd (Reg.portCfg p.val)).toNat 21 16) = false →
      (t.link p.link).train = .detect ∧ (t.link p.link).cfg = s.rd (Reg.portCfg p.val))
    ∧ (s.groupOk p = false → (t.link p.link).train = .disabled ∧ bit (t.rd (Reg.portErr p.val)) 6 = true) := by
  obtain ⟨u, before, after⟩ := ports_step startPort_moves allPorts_nodup (mem_allPorts p) s
  have mine := link_mem_bothLinks p
  have offU : ∀ k ∈ bothLinks p, (u.link k).train = .disabled := fun k m => by rw [before.link k m]; exact off k m
  have cfg := before.cfg p.val p.isLt
  rw [startPort_off offU] at after
  rw [← cfg] at on role
  rw [← before.isMember] at member
  refine ⟨fun good open_ => ?_, fun bad => ?_⟩
  · rw [after.link _ mine, ← cfg]
    refine startTraining_link member on role (by rw [before.groupOk]; exact good) (offU _ mine) ?_
    rw [cfg, State.isFenced, before.fault]
    exact open_
  · rw [after.link _ mine, after.err _ (List.mem_cons_self ..),
      startTraining_refused member on role (by rw [before.groupOk]; exact bad)]
    refine ⟨?_, raiseCap_sets _ _ _ _ (by decide) (reportReg_below ?_)⟩
    · rw [(raise_linkMoves (ls := []) (l := recordRegs (Reg.portErr p.val)) (fun _ m => m)
        (fun _ m => absurd m List.not_mem_nil)).link List.not_mem_nil]
      exact offU _ mine
    · have := sessionRegs_below (portErr_session p (List.mem_cons_self ..))
      omega

/-! SHUTDOWN's walk over the links (R537). -/

/-- The links that hold anything but their reset state. -/
def listedLinks (s : State) : List LinkId := s.links.filterMap (fun p => if h : p.1 < 384 then some (⟨p.1, h⟩ : LinkId) else none)

theorem tab_find_none {α : Type} {t : Tab α} {i : Nat} (out : ∀ x ∈ t, x.1 ≠ i) : t.find i = none := by
  induction t with
  | nil => rfl
  | cons x t ih =>
    rw [Tab.find, if_neg (fun e => out x (List.mem_cons_self ..) e.symm)]
    exact ih (fun y m => out y (List.mem_cons_of_mem _ m))

theorem link_unlisted (out : k ∉ listedLinks s) : s.link k = Link.reset := by
  have unfound : s.links.find k.val = none := by
    refine tab_find_none (fun x mem key => out (List.mem_filterMap.2 ⟨x, mem, ?_⟩))
    rw [dif_pos (by rw [key]; exact k.isLt)]
    exact congrArg some (Fin.ext key)
  unfold State.link Tab.get
  rw [unfound]
  rfl

theorem disableLinks_moves (ks : List LinkId) (s : State) :
    LinkMoves ks (ks.flatMap (fun k => sessionRegs k.port)) s (ks.foldl State.toDisabled s) :=
  LinkMoves.foldl ks (fun u k m => by
    have moves : LinkMoves [k] (sessionRegs k.port) u (u.toDisabled k) := toDisabled_moves
    exact moves.mono (by simpa using m) (fun _ x => List.mem_flatMap.2 ⟨k, m, x⟩)) s

theorem disableLinks_link {ks : List LinkId} (mem : k ∈ ks) (s : State) :
    ((ks.foldl State.toDisabled s).link k).train = .disabled ∧ ((ks.foldl State.toDisabled s).link k).looped = false := by
  induction ks using List.reverseRecOn generalizing s with
  | nil => exact absurd mem List.not_mem_nil
  | append_singleton ks j ih =>
    rw [List.foldl_append, List.foldl_cons, List.foldl_nil]
    by_cases same : k = j
    · subst same
      exact link_toDisabled ..
    · rw [toDisabled_moves.link (by simpa using same)]
      exact ih (by simpa [same] using mem) s

end Sys2Proof.Machine

/-! ## Registers that hold bytes, and a step of the boot (R488, R529, R535) -/
namespace Sys2Proof.Machine

variable {a b s t u v : State} {l m regs : List Nat} {off : Nat → Nat} {words : Nat} {bs : Bytes} {next : BootSt}

/-! Bytes and words (R4). -/

theorem leBytes_leNat (bs : Bytes) : leBytes bs.length (leNat bs) = bs := by
  induction bs with
  | nil => rfl
  | cons x bs ih =>
    have low := x.isLt
    have head : BitVec.ofNat 8 (leNat (x :: bs)) = x := BitVec.eq_of_toNat_eq (by simp only [BitVec.toNat_ofNat, leNat]; omega)
    have tail : leNat (x :: bs) / 256 = leNat bs := by simp only [leNat]; omega
    rw [List.length_cons, leBytes, head, tail, ih]

/-- Every run of bytes is its successive words. -/
theorem flatMap_words (bs : Bytes) (n : Nat) : (List.range n).flatMap (fun i => (bs.drop (4 * i)).take 4) = bs.take (4 * n) := by
  induction n with
  | zero => rfl
  | succ n ih => rw [List.range_succ, List.flatMap_append, ih, List.flatMap_singleton, Nat.mul_succ, List.take_add]

theorem byteRun_size (bs : Bytes) (i n : Nat) : (byteRun bs i n).length = n := by
  unfold byteRun
  simp only [List.length_append, List.length_take, List.length_drop, List.length_replicate]
  omega

/-! Steps that write registers, one after another. -/

theorem RegsOnly.foldl {f : State → Nat → State} (is : List Nat) (each : ∀ u, ∀ i ∈ is, RegsOnly l u (f u i)) (s : State) :
    RegsOnly l s (is.foldl f s) := by
  induction is generalizing s with
  | nil => exact RegsOnly.refl s
  | cons i is ih =>
    exact (each s i (List.mem_cons_self ..)).trans (ih (fun u j m => each u j (List.mem_cons_of_mem _ m)) _)

/-- Where each step has registers of its own, what the whole leaves in them is what their step leaves. -/
theorem regs_step {own : Nat → List Nat} {f : State → Nat → State} (each : ∀ u i, RegsOnly (own i) u (f u i)) {i n : Nat}
    (apart : ∀ i < n, ∀ j < n, i ≠ j → ∀ o ∈ own i, o ∉ own j) (lt : i < n) (s : State) :
    ∃ u, ∀ o ∈ own i, u.rd o = s.rd o ∧ ((List.range n).foldl f s).rd o = (f u i).rd o := by
  induction n with
  | zero => exact absurd lt (Nat.not_lt_zero i)
  | succ n ih =>
    rw [List.range_succ, List.foldl_append, List.foldl_cons, List.foldl_nil]
    by_cases last : i = n
    · subst last
      have before : RegsOnly ((List.range i).flatMap own) s ((List.range i).foldl f s) :=
        RegsOnly.foldl _ (fun u j m => (each u j).mono (fun _ x => List.mem_flatMap.2 ⟨j, m, x⟩)) s
      refine ⟨_, fun o mem => ⟨before.2 o (fun x => ?_), rfl⟩⟩
      obtain ⟨j, m, x⟩ := List.mem_flatMap.1 x
      have earlier := List.mem_range.1 m
      exact apart i lt j (by omega) (by omega) o mem x
    · obtain ⟨u, own_u⟩ := ih (fun j jl k kl => apart j (by omega) k (by omega)) (by omega)
      refine ⟨u, fun o mem => ⟨(own_u o mem).1, ?_⟩⟩
      rw [(each _ n).2 o (apart i lt n (by omega) last o mem)]
      exact (own_u o mem).2

/-! Groups of registers as bytes. -/

/-- The registers of a group. -/
def regGroup (off : Nat → Nat) (words : Nat) : List Nat := (List.range words).map off

theorem wrBytes_regsOnly (sub : regGroup off words ⊆ l) : RegsOnly l s (s.wrBytes off words bs) :=
  RegsOnly.foldl _ (fun _ _ m => RegsOnly.wr (sub (List.mem_map_of_mem m))) s

theorem rdBytes_congr (same : ∀ i < words, b.rd (off i) = a.rd (off i)) : b.rdBytes off words = a.rdBytes off words :=
  List.flatMap_congr (fun i m => by rw [same i (List.mem_range.1 m)])

theorem rd_wrBytes (inj : Function.Injective off) {i : Nat} (lt : i < words) :
    (s.wrBytes off words bs).rd (off i) = BitVec.ofNat 32 (field bs (4 * i) 4) := by
  obtain ⟨u, own⟩ := regs_step (own := fun i => [off i]) (f := fun s i => s.wr (off i) (BitVec.ofNat 32 (field bs (4 * i) 4)))
    (fun _ _ => RegsOnly.wr (List.mem_singleton_self _))
    (fun i _ j _ ne o mi mj => ne (inj ((List.mem_singleton.1 mi).symm.trans (List.mem_singleton.1 mj)))) lt s
  exact (own _ (List.mem_singleton_self _)).2.trans (State.rd_wr_same ..)

/-- A group reads as the bytes that were written. -/
theorem rdBytes_wrBytes (inj : Function.Injective off) (size : bs.length = 4 * words) : (s.wrBytes off words bs).rdBytes off words = bs := by
  calc (s.wrBytes off words bs).rdBytes off words
    _ = (List.range words).flatMap (fun i => (bs.drop (4 * i)).take 4) := List.flatMap_congr (fun i m => by
        have lt := List.mem_range.1 m
        have full : ((bs.drop (4 * i)).take 4).length = 4 := by rw [List.length_take, List.length_drop]; omega
        have word := leBytes_leNat ((bs.drop (4 * i)).take 4)
        rw [full] at word
        have small : field bs (4 * i) 4 < 2 ^ 32 := field_lt bs (4 * i) 4
        rw [rd_wrBytes inj lt, BitVec.toNat_ofNat, Nat.mod_eq_of_lt small]
        exact word)
    _ = bs := by rw [flatMap_words, ← size, List.take_length]

/-! A step of the boot. -/

theorem rd_withBoot (s : State) (x : Boot) (off : Nat) : (s.withBoot x).rd off = s.rd off := rfl

/-- On the way from `a` to `u` the boot prepares its next state: bell time stays, and of the state nothing changes but `regs`,
the boot, the rest of the bell, free draws and what leaves the device. -/
structure Prepares (regs : List Nat) (a u : State) : Prop where
  rest : u = { a with regs := u.regs, boot := u.boot, bell := u.bell, free := u.free, out := u.out }
  clock : u.bell.now = a.bell.now ∧ u.bell.ticks = a.bell.ticks ∧ u.bell.bounds = a.bell.bounds
  reg : ∀ off, off ∉ regs → u.rd off = a.rd off

theorem Prepares.refl (s : State) : Prepares regs s s := ⟨rfl, ⟨rfl, rfl, rfl⟩, fun _ _ => rfl⟩

theorem Prepares.trans (h : Prepares regs a b) (g : Prepares regs b u) : Prepares regs a u where
  rest := by
    have e := g.rest
    rw [h.rest] at e
    exact e
  clock := ⟨g.clock.1.trans h.clock.1, g.clock.2.1.trans h.clock.2.1, g.clock.2.2.trans h.clock.2.2⟩
  reg := fun off n => (g.reg off n).trans (h.reg off n)

theorem Prepares.wrs (h : RegsOnly regs a u) : Prepares regs a u where
  rest := by rw [h.1]; rfl
  clock := by rw [h.1]; exact ⟨rfl, rfl, rfl⟩
  reg := h.2

theorem Prepares.withBoot {x : Boot} : Prepares regs s (s.withBoot x) := ⟨rfl, ⟨rfl, rfl, rfl⟩, fun _ _ => rfl⟩
theorem Prepares.withFree {n : Nat} : Prepares regs s (s.withFree n) := ⟨rfl, ⟨rfl, rfl, rfl⟩, fun _ _ => rfl⟩
theorem Prepares.emit {o : Out} : Prepares regs s (s.emit o) := ⟨rfl, ⟨rfl, rfl, rfl⟩, fun _ _ => rfl⟩
theorem Prepares.goodAt {n : Nat} : Prepares regs s (s.withBell { s.bell with goodAt := n }) := ⟨rfl, ⟨rfl, rfl, rfl⟩, fun _ _ => rfl⟩

/-- The boot moves on once the next state is prepared. -/
theorem enterBoot_boots (h : Prepares regs a u) : Boots next regs a (u.enterBoot next) where
  entered := ⟨rfl, h.clock.2.1, h.clock.2.2, by rw [rd64_enterBoot, State.now, h.clock.1]; rfl⟩
  rest := by
    rw [(enterBoot_stamps u next).1, h.rest]
    rfl
  reg := fun off out => by
    obtain ⟨low, out⟩ := List.ne_and_not_mem_of_not_mem_cons out
    obtain ⟨high, out⟩ := List.ne_and_not_mem_of_not_mem_cons out
    rw [rd_enterBoot _ _ low high, h.reg off out]

/-- FAILED, with its cause and the watchdog stopped. -/
theorem bootFail_boots (h : Prepares regs a u) (cause : BitVec 8) :
    Boots .failed regs a (u.bootFail cause) ∧ (u.bootFail cause).boot.failCause = cause ∧ (u.bootFail cause).boot.wdogOn = false :=
  ⟨enterBoot_boots (h.trans Prepares.withBoot), rfl, rfl⟩

/-- RECOVERY_WAIT, with its cause and nobody's claim. -/
theorem imageRefused_boots (s : State) (cause : BitVec 8) :
    Boots .recoveryWait [] s (s.imageRefused cause) ∧ (s.imageRefused cause).boot.failCause = cause
    ∧ (s.imageRefused cause).boot.claim = none :=
  ⟨enterBoot_boots Prepares.withBoot, rfl, rfl⟩

theorem rdBytes_enterBoot (low : ∀ i < words, off i ≠ Reg.bootStampLo) (high : ∀ i < words, off i ≠ Reg.bootStampHi) :
    (s.enterBoot next).rdBytes off words = s.rdBytes off words :=
  rdBytes_congr (fun i lt => rd_enterBoot _ _ (low i lt) (high i lt))

/-! Measurements (R488). -/

/-- The bytes that extending a measurement register by an event leaves in it. -/
def extension (s : State) (i : Nat) (event : Bytes) : Bytes :=
  byteRun (Config.shake256 (s.rdBytes (Reg.secMeas i) 16 ++ byteRun (Config.shake256 event 64) 0 64) 64) 0 64

theorem secMeas_injective (i : Nat) : Function.Injective (Reg.secMeas i) := fun j k e => by
  simp only [Reg.secMeas] at e
  omega

theorem extendMeas_regsOnly {i : Nat} {event : Bytes} (sub : regGroup (Reg.secMeas i) 16 ⊆ l) : RegsOnly l s (s.extendMeas i event) :=
  wrBytes_regsOnly sub

theorem rdBytes_extendMeas (s : State) (i : Nat) (event : Bytes) :
    (s.extendMeas i event).rdBytes (Reg.secMeas i) 16 = extension s i event :=
  rdBytes_wrBytes (secMeas_injective i) (byteRun_size ..)

theorem secMeas_below {i j : Nat} (first : i < 4) (word : j < 16) : Reg.secMeas i j < Reg.fwVersionLo := by
  simp only [Reg.secMeas, Reg.fwVersionLo]
  omega

/-- Entering a boot state leaves measurements. -/
theorem rdBytes_secMeas_enterBoot {i : Nat} (first : i < 4) :
    (s.enterBoot next).rdBytes (Reg.secMeas i) 16 = s.rdBytes (Reg.secMeas i) 16 := by
  have apart : ∀ j < 16, Reg.secMeas i j < Reg.bootStampLo := fun j lt => by simp only [Reg.secMeas, Reg.bootStampLo]; omega
  exact rdBytes_enterBoot (fun j lt => (apart j lt).ne) (fun j lt => ((apart j lt).trans (by decide)).ne)

/-! Firmware that starts (R529, R535). -/

/-- The registers that firmware's start writes. -/
def firmwareRegs : List Nat := Reg.fwVersionLo :: Reg.fwVersionHi :: regGroup (Reg.secMeas 1) 16

/-- The device with its firmware's image measured and its version shown. -/
def State.measured (s : State) : State :=
  (s.extendMeas 1 s.boot.image).wr64 Reg.fwVersionLo (BitVec.ofNat 64 (field s.boot.image 8 8))

theorem measured_regsOnly (s : State) : RegsOnly firmwareRegs s s.measured :=
  (extendMeas_regsOnly (fun _ m => List.mem_cons_of_mem _ (List.mem_cons_of_mem _ m))).trans
    (wr64_regsOnly (List.mem_cons_self ..) (List.mem_cons_of_mem _ (List.mem_cons_self ..)))

theorem rdBytes_measured (s : State) : s.measured.rdBytes (Reg.secMeas 1) 16 = extension s 1 s.boot.image := by
  refine Eq.trans (rdBytes_congr (fun i lt => ?_)) (rdBytes_extendMeas s 1 s.boot.image)
  have below := secMeas_below (i := 1) (by decide) lt
  exact rd_wr64_other _ _ below.ne (below.trans_le (Nat.le_add_right ..)).ne

theorem rd64_measured (s : State) : (s.measured.rd64 Reg.fwVersionLo).toNat = field s.boot.image 8 8 := by
  have small : field s.boot.image 8 8 < 2 ^ 64 := field_lt ..
  rw [State.measured, rd64_wr64, BitVec.toNat_ofNat, Nat.mod_eq_of_lt small]

/-- The boot with the firmware running and watched. -/
def State.watched (s : State) : Boot := { s.boot with wdogOn := true, wdogAt := s.bell.bounds, failCause := 0 }

theorem startFirmware_eq (s : State) : s.startFirmware = (s.measured.withBoot s.measured.watched).enterBoot .fwStart := rfl

/-- The boot enters FW_START from a measured state. -/
theorem watched_enterBoot (s : State) :
    let t := (s.withBoot s.watched).enterBoot .fwStart
    t.rdBytes (Reg.secMeas 1) 16 = s.rdBytes (Reg.secMeas 1) 16 ∧ t.rd64 Reg.fwVersionLo = s.rd64 Reg.fwVersionLo
    ∧ t.boot.wdogOn = true ∧ t.boot.wdogAt = s.bell.bounds := by
  refine ⟨rdBytes_secMeas_enterBoot (by decide), ?_, rfl, rfl⟩
  rw [State.rd64, rd_enterBoot _ _ (by decide) (by decide), rd_enterBoot _ _ (by decide) (by decide)]
  rfl

/-- A sound image runs: it is measured, its version shows and the watchdog starts. -/
theorem startFirmware_runs (h : Prepares [] s u) (boot : u.boot = s.boot) :
    let t := u.startFirmware
    Boots .fwStart firmwareRegs s t ∧ t.rdBytes (Reg.secMeas 1) 16 = extension s 1 s.boot.image
    ∧ (t.rd64 Reg.fwVersionLo).toNat = field s.boot.image 8 8 ∧ t.boot.wdogOn = true ∧ t.boot.wdogAt = s.bell.bounds := by
  have measured : Prepares firmwareRegs u u.measured := Prepares.wrs (measured_regsOnly u)
  have ready : Prepares firmwareRegs s u := ⟨h.rest, h.clock, fun off _ => h.reg off List.not_mem_nil⟩
  have same : u.rdBytes (Reg.secMeas 1) 16 = s.rdBytes (Reg.secMeas 1) 16 := rdBytes_congr (fun _ _ => h.reg _ List.not_mem_nil)
  obtain ⟨bytes, version, on, since⟩ := watched_enterBoot u.measured
  rw [startFirmware_eq]
  refine ⟨enterBoot_boots ((ready.trans measured).trans Prepares.withBoot), ?_, ?_, on, ?_⟩
  · rw [bytes, rdBytes_measured, extension, extension, same, boot]
  · rw [version, rd64_measured, boot]
  · exact since.trans (measured.clock.2.2.trans h.clock.2.2)

end Sys2Proof.Machine

/-! ## The states of the boot (R484, R488, R491, R529, R531, R533) -/
namespace Sys2Proof.Machine

variable {s t u : State} {h : HostPort}

/-! The ROM and the image. -/

theorem exec_romStartDone_other {pass : Bool} (other : s.boot.state ≠ .romStart) : exec (.romStartDone pass) s = .next s :=
  if_neg (fun e => other (beq_iff_eq.1 e))

theorem exec_romStartDone {pass : Bool} (here : s.boot.state = .romStart) :
    exec (.romStartDone pass) s = .next (let u := s.extendMeas 0 Config.romMeasurement
      if pass then u.enterBoot (if u.boot.force then .recoveryWait else .spiRead) else u.bootFail 0) :=
  if_pos (beq_iff_eq.2 here)

theorem romStartDone_moves (pass : Bool) (s : State) (here : s.boot.state = .romStart) :
    ∃ t, exec (.romStartDone pass) s = .next t ∧ t.rdBytes (Reg.secMeas 0) 16 = extension s 0 Config.romMeasurement
    ∧ (pass = true → Boots (if s.boot.force = true then .recoveryWait else .spiRead) (regGroup (Reg.secMeas 0) 16) s t)
    ∧ (pass = false → Boots .failed (regGroup (Reg.secMeas 0) 16) s t ∧ t.boot.failCause = 0 ∧ t.boot.wdogOn = false) := by
  have measured : RegsOnly (regGroup (Reg.secMeas 0) 16) s (s.extendMeas 0 Config.romMeasurement) :=
    extendMeas_regsOnly (List.Subset.refl _)
  have bytes := rdBytes_extendMeas s 0 Config.romMeasurement
  have force : (s.extendMeas 0 Config.romMeasurement).boot.force = s.boot.force := by rw [measured.1]; rfl
  rw [exec_romStartDone here]
  generalize s.extendMeas 0 Config.romMeasurement = u at measured bytes force
  refine ⟨_, rfl, ?_⟩
  cases pass with
  | true =>
    refine ⟨(rdBytes_secMeas_enterBoot (by decide)).trans bytes, fun _ => ?_, nofun⟩
    rw [← force]
    exact enterBoot_boots (Prepares.wrs measured)
  | false =>
    exact ⟨(rdBytes_secMeas_enterBoot (by decide)).trans bytes, nofun, fun _ => bootFail_boots (Prepares.wrs measured) 0⟩

theorem exec_spiReadDone {image : Bytes} {answered : Bool} (here : s.boot.state = .spiRead) :
    exec (.spiReadDone image answered) s = if !answered then .next (s.imageRefused 1)
      else if image.length < 2048 then .next (s.imageRefused 2)
      else .next ((s.withBoot { s.boot with image := image }).enterBoot .verify) :=
  if_neg (by simp [here])

theorem exec_verifyDone_sound (here : s.boot.state = .verify) (sound : imageCause s.boot.image none = 0) :
    exec .verifyDone s = .next s.startFirmware := by
  change execVerifyDone s = _
  unfold execVerifyDone
  rw [if_neg (by simp [here])]
  split
  · rfl
  · contradiction

theorem exec_verifyDone_refused (here : s.boot.state = .verify) (bad : imageCause s.boot.image none ≠ 0) :
    exec .verifyDone s = .next (s.imageRefused (BitVec.ofNat 8 (imageCause s.boot.image none))) := by
  change execVerifyDone s = _
  unfold execVerifyDone
  rw [if_neg (by simp [here])]
  split
  · contradiction
  · rfl

theorem enterBoot_out (s : State) (next : BootSt) : (s.enterBoot next).out = s.out := rfl

theorem startFirmware_out (s : State) : s.startFirmware.out = s.out := by
  rw [startFirmware_eq, enterBoot_out, State.withBoot_out, (measured_regsOnly s).1, State.withRegs_out]

/-! Recovery. -/

theorem exec_bootClaim (hr : Reaches s h Reg.bootCtrl) : exec (.bootClaim h) s = .next ((s.touch h).claimBoot h) :=
  congrArg Host.Outcome.next (hostWrite_reaches hr)

theorem claimBoot_first (here : s.boot.state = .recoveryWait) (free : s.boot.claim = none) :
    s.claimBoot h = s.withBoot { s.boot with claim := some h } :=
  if_pos (by simp [here, free])

theorem claimBoot_late (late : s.boot.state ≠ .recoveryWait ∨ s.boot.claim ≠ none) : s.claimBoot h = s :=
  if_neg (by simpa using fun here free => late.elim (absurd here) (absurd free))

theorem exec_recoverGo {program : Bool} (hr : Reaches s h Reg.bootCtrl) :
    exec (.recoverGo h program) s = .next ((s.touch h).recover h program) :=
  congrArg Host.Outcome.next (hostWrite_reaches hr)

theorem recover_ignored {program : Bool} (bad : s.boot.claim ≠ some h ∨ 4194304 < (s.rd Reg.bootRecoveryLen).toNat) :
    s.recover h program = s.withBoot { s.boot with recoveryIgnored := true } :=
  if_pos (by simpa using bad)

theorem recover_starts {program : Bool} (mine : s.boot.claim = some h) (fits : (s.rd Reg.bootRecoveryLen).toNat ≤ 4194304)
    (here : s.boot.state = .recoveryWait) :
    s.recover h program = (s.withBoot { s.boot with
      program := program, image := s.boot.staging.getRun 0 0 (s.rd Reg.bootRecoveryLen).toNat }).enterBoot .recoveryVerify := by
  unfold State.recover
  dsimp only
  rw [if_neg (by simp [mine, fits]), if_neg (by simp [here])]

/-- What RECOVERY_VERIFY runs: with PROGRAM the flash is programmed before. -/
def State.programmed (s : State) : State := if s.boot.program then s.emit (.spiProgram s.boot.image) else s

theorem programmed_prepares (s : State) : Prepares [] s s.programmed := by
  unfold State.programmed
  split
  · exact Prepares.emit
  · exact Prepares.refl s

theorem programmed_boot (s : State) : s.programmed.boot = s.boot := by
  unfold State.programmed
  split <;> rfl

theorem programmed_out (s : State) :
    s.programmed.out = if s.boot.program = true then .spiProgram s.boot.image :: s.out else s.out := by
  unfold State.programmed
  split <;> rfl

/-- The first check that the staged image fails. -/
def stagedCause (s : State) : Nat := imageCause s.boot.image (some (s.rd Reg.bootRecoveryLen).toNat)

theorem exec_recoveryVerifyDone_sound (here : s.boot.state = .recoveryVerify) (sound : stagedCause s = 0) :
    exec .recoveryVerifyDone s = .next s.programmed.startFirmware := by
  change execRecoveryVerifyDone s = _
  unfold execRecoveryVerifyDone
  rw [if_neg (by simp [here])]
  unfold stagedCause at sound
  split
  · rfl
  · contradiction

theorem exec_recoveryVerifyDone_refused (here : s.boot.state = .recoveryVerify) (bad : stagedCause s ≠ 0) :
    exec .recoveryVerifyDone s = .next (s.imageRefused (BitVec.ofNat 8 (stagedCause s))) := by
  change execRecoveryVerifyDone s = _
  unfold execRecoveryVerifyDone
  rw [if_neg (by simp [here])]
  unfold stagedCause at bad ⊢
  split
  · contradiction
  · rfl

/-! Stacks. -/

/-- STK_STATUS with the state of a stack's interface in its low bits. -/
def stackWord (v : Word) (ready : Bool) : Word := (v &&& ~~~(3 : Word)) ||| (if ready then 3 else 1)

theorem stackWord_low (v : Word) (ready : Bool) : (stackWord v ready).toNat % 4 = if ready then 3 else 1 := by
  have low : (stackWord v ready).extractLsb' 0 2 = if ready then 3 else 1 := by
    ext i lt
    have : i = 0 ∨ i = 1 := by omega
    cases ready <;> rcases this with rfl | rfl <;> simp [stackWord]
  have nat := congrArg BitVec.toNat low
  rw [BitVec.extractLsb'_toNat] at nat
  cases ready <;> simpa using nat

theorem stackWord_high (v : Word) (ready : Bool) : (stackWord v ready).toNat / 4 = v.toNat / 4 := by
  have high : (stackWord v ready).extractLsb' 2 30 = v.extractLsb' 2 30 := by
    ext i lt
    have above : 2 ^ 2 ≤ 2 ^ (2 + i) := Nat.pow_le_pow_right (by omega) (Nat.le_add_right 2 i)
    have within : 2 + i < 32 := by omega
    have three : (3#32)[2 + i] = false := Nat.testBit_lt_two_pow (by simp only [BitVec.toNat_ofNat]; omega)
    have one : (1#32)[2 + i] = false := Nat.testBit_lt_two_pow (by simp only [BitVec.toNat_ofNat]; omega)
    cases ready <;> simp [stackWord, three, one, within, -BitVec.reduceNot]
  have nat := congrArg BitVec.toNat high
  rw [BitVec.extractLsb'_toNat, BitVec.extractLsb'_toNat, Nat.shiftRight_eq_div_pow, Nat.shiftRight_eq_div_pow] at nat
  have a := (stackWord v ready).isLt
  have b := v.isLt
  omega

/-- The stack interfaces that the firmware has trained show so. -/
def State.showStacks (s : State) (ready : BitVec 8) : State :=
  (List.range 8).foldl (fun s k => s.wr (Reg.stkStatus k) (stackWord (s.rd (Reg.stkStatus k)) (bit ready k))) s

theorem exec_fwStartDone {ready : BitVec 8} (here : s.boot.state = .fwStart) :
    exec (.fwStartDone ready) s
      = .next (if ready == 0xFF then (s.showStacks ready).enterBoot .keygen else (s.showStacks ready).bootFail 6) :=
  if_neg (by simp [here])

theorem showStacks_regsOnly (s : State) (ready : BitVec 8) : RegsOnly (regGroup Reg.stkStatus 8) s (s.showStacks ready) :=
  RegsOnly.foldl _ (fun _ _ m => RegsOnly.wr (List.mem_map_of_mem m)) s

theorem rd_showStacks (s : State) (ready : BitVec 8) {k : Nat} (lt : k < 8) :
    (s.showStacks ready).rd (Reg.stkStatus k) = stackWord (s.rd (Reg.stkStatus k)) (bit ready k) := by
  obtain ⟨u, own⟩ := regs_step (own := fun k => [Reg.stkStatus k])
    (f := fun s k => s.wr (Reg.stkStatus k) (stackWord (s.rd (Reg.stkStatus k)) (bit ready k)))
    (fun _ _ => RegsOnly.wr (List.mem_singleton_self _))
    (fun i _ j _ ne o mi mj => by
      simp only [List.mem_singleton, Reg.stkStatus] at mi mj
      omega) lt s
  obtain ⟨before, after⟩ := own _ (List.mem_singleton_self _)
  exact after.trans (by rw [State.rd_wr_same, before])

/-! Keys. -/

/-- The device with its identity's hash. -/
def State.identified (s : State) : State :=
  s.wrBytes Reg.secIdentityHash 16 (byteRun (Config.shake256 (Config.falconPublic Config.otpSeed) 64) 0 64)

/-- The device with two draws made, the second of them its session's number. -/
def State.keyed (s : State) : State :=
  let id := (s.randomBytes 64).2.randomBytes 32
  (id.2.wrBytes Reg.secSessionId 8 (byteRun id.1 0 32)).wr Reg.secStatus 6

/-- The boot with the session root drawn. -/
def State.rooted (s : State) (root : Bytes) : Boot := { s.boot with root := root }

theorem exec_keygenDone_fails (here : s.boot.state = .keygen) : exec (.keygenDone false) s = .next (s.bootFail 7) :=
  if_neg (by simp [here])

theorem exec_keygenDone (here : s.boot.state = .keygen) :
    exec (.keygenDone true) s = .next ((s.identified.keyed.withBoot
      (s.identified.keyed.rooted (byteRun (Config.random s.identified.free 64) 0 64))).enterBoot .bist) := by
  change execKeygenDone true s = _
  unfold execKeygenDone
  rw [if_neg (by simp [here]), if_neg (by decide)]
  rfl

/-- The registers that the boot's keys write. -/
def keyRegs : List Nat := Reg.secStatus :: regGroup Reg.secIdentityHash 16 ++ regGroup Reg.secSessionId 8

theorem identified_regsOnly (s : State) : RegsOnly keyRegs s s.identified :=
  wrBytes_regsOnly (fun _ m => List.mem_append_left _ (List.mem_cons_of_mem _ m))

theorem identified_free (s : State) : s.identified.free = s.free := by
  rw [(identified_regsOnly s).1, State.withRegs_free]

theorem secIdentityHash_injective : Function.Injective Reg.secIdentityHash := fun i j e => by
  simp only [Reg.secIdentityHash] at e
  omega

theorem secSessionId_injective : Function.Injective Reg.secSessionId := fun i j e => by
  simp only [Reg.secSessionId] at e
  omega

theorem keyed_prepares (s : State) : Prepares (Reg.secStatus :: regGroup Reg.secSessionId 8) s s.keyed :=
  (Prepares.withFree.trans Prepares.withFree).trans (Prepares.wrs
    ((wrBytes_regsOnly (fun _ m => List.mem_cons_of_mem _ m)).trans (RegsOnly.wr (List.mem_cons_self ..))))

theorem rdBytes_keyed (s : State) : s.keyed.rdBytes Reg.secSessionId 8 = byteRun (Config.random (s.free + 1) 32) 0 32 := by
  have drawn := rdBytes_wrBytes (s := ((s.randomBytes 64).2.randomBytes 32).2) (words := 8)
    (bs := byteRun (Config.random (s.free + 1) 32) 0 32)
    secSessionId_injective (byteRun_size ..)
  refine Eq.trans (rdBytes_congr (fun i _ => ?_)) drawn
  exact State.rd_wr_other _ _ (by simp only [Reg.secSessionId, Reg.secStatus]; omega)

theorem rdBytes_keyed_identity (s : State) : s.keyed.rdBytes Reg.secIdentityHash 16 = s.rdBytes Reg.secIdentityHash 16 := by
  refine rdBytes_congr (fun i lt => (keyed_prepares s).reg _ (fun m => ?_))
  simp only [regGroup, List.mem_cons, List.mem_map, List.mem_range, Reg.secStatus, Reg.secIdentityHash, Reg.secSessionId] at m
  omega

theorem keygenDone_boots (s : State) (here : s.boot.state = .keygen) : ∃ t, exec (.keygenDone true) s = .next t
    ∧ Boots .bist keyRegs s t
    ∧ t.rdBytes Reg.secIdentityHash 16 = byteRun (Config.shake256 (Config.falconPublic Config.otpSeed) 64) 0 64
    ∧ t.boot.root = byteRun (Config.random s.free 64) 0 64
    ∧ t.rdBytes Reg.secSessionId 8 = byteRun (Config.random (s.free + 1) 32) 0 32 ∧ t.entropyOk = true := by
  have identity : s.identified.rdBytes Reg.secIdentityHash 16 = _ := rdBytes_wrBytes secIdentityHash_injective (byteRun_size ..)
  have session := rdBytes_keyed s.identified
  have status : s.identified.keyed.rd Reg.secStatus = 6 := State.rd_wr_same ..
  have prepared : Prepares keyRegs s s.identified.keyed := by
    refine (Prepares.wrs (identified_regsOnly s)).trans ?_
    have last := keyed_prepares s.identified
    refine ⟨last.rest, last.clock, fun off out => last.reg off (fun m => out ?_)⟩
    rcases List.mem_cons.1 m with rfl | m
    · exact List.mem_cons_self ..
    · exact List.mem_append_right _ m
  rw [exec_keygenDone here]
  rw [← rdBytes_keyed_identity] at identity
  rw [identified_free] at session ⊢
  generalize s.identified.keyed = v at *
  refine ⟨_, rfl, enterBoot_boots (prepared.trans Prepares.withBoot), ?_, rfl, ?_, ?_⟩
  · exact (rdBytes_enterBoot (fun i lt => by simp only [Reg.secIdentityHash, Reg.bootStampLo]; omega)
      (fun i lt => by simp only [Reg.secIdentityHash, Reg.bootStampHi]; omega)).trans identity
  · exact (rdBytes_enterBoot (fun i lt => by simp only [Reg.secSessionId, Reg.bootStampLo]; omega)
      (fun i lt => by simp only [Reg.secSessionId, Reg.bootStampHi]; omega)).trans session
  · unfold State.entropyOk
    rw [rd_enterBoot _ _ (by decide) (by decide)]
    rw [rd_withBoot, status]
    decide

/-! Benches. -/

/-- The word of a bench mask for register `i`. -/
def benchWord (bad : BitVec 168) (i : Nat) : Word := bad.extractLsb' (32 * i) 32

/-- The step of the self-test for register `i`: benches that fail go offline and show. -/
def State.benchStep (bad : BitVec 168) (s : State) (i : Nat) : State :=
  (s.wr (Reg.faultOffline i) (s.rd (Reg.faultOffline i) ||| benchWord bad i)).wr (Reg.bootBenchFail i) (benchWord bad i)

/-- The device with its benches tested. -/
def State.benchTested (s : State) (bad : BitVec 168) : State := (List.range 6).foldl (State.benchStep bad) s

theorem exec_bootBistDone {bad : BitVec 168} {ok : Bool} (here : s.boot.state = .bist) :
    exec (.bootBistDone bad ok) s = (let u := s.benchTested bad
      if ok then .next ((u.withBell { u.bell with goodAt := u.bell.bounds }).enterBoot .configure) else .next (u.bootFail 8)) :=
  if_neg (by simp [here])

theorem benchStep_regsOnly (bad : BitVec 168) (u : State) (i : Nat) :
    RegsOnly [Reg.faultOffline i, Reg.bootBenchFail i] u (u.benchStep bad i) :=
  (RegsOnly.wr (List.mem_cons_self ..)).trans (RegsOnly.wr (by simp))

/-- The registers that the self-test writes. -/
def testRegs : List Nat := regGroup Reg.faultOffline 6 ++ regGroup Reg.bootBenchFail 6

theorem benchTested_regsOnly (s : State) (bad : BitVec 168) : RegsOnly testRegs s (s.benchTested bad) := by
  refine RegsOnly.foldl _ (fun u i m => (benchStep_regsOnly bad u i).mono (fun x xm => ?_)) s
  simp only [List.mem_cons, List.not_mem_nil, or_false] at xm
  rcases xm with rfl | rfl
  · exact List.mem_append_left _ (List.mem_map_of_mem m)
  · exact List.mem_append_right _ (List.mem_map_of_mem m)

theorem rd_benchTested (s : State) (bad : BitVec 168) {i : Nat} (lt : i < 6) :
    (s.benchTested bad).rd (Reg.faultOffline i) = s.rd (Reg.faultOffline i) ||| benchWord bad i
    ∧ (s.benchTested bad).rd (Reg.bootBenchFail i) = benchWord bad i := by
  obtain ⟨u, own⟩ := regs_step (benchStep_regsOnly bad)
    (fun i il j jl ne o mi mj => by
      simp only [List.mem_cons, List.not_mem_nil, or_false, Reg.faultOffline, Reg.bootBenchFail] at mi mj
      omega) lt s
  obtain ⟨before, offline⟩ := own (Reg.faultOffline i) (List.mem_cons_self ..)
  obtain ⟨-, shown⟩ := own (Reg.bootBenchFail i) (by simp)
  refine ⟨offline.trans ?_, shown.trans (State.rd_wr_same ..)⟩
  rw [State.benchStep, State.rd_wr_other _ _ (by simp only [Reg.faultOffline, Reg.bootBenchFail]; omega), State.rd_wr_same, before]

theorem bit_benchWord (bad : BitVec 168) (b : Nat) : bit (benchWord bad (b / 32)) (b % 32) = bit bad b := by
  simp only [bit, benchWord, BitVec.getLsbD_extractLsb', Nat.mod_lt b (show 32 > 0 by decide), Nat.div_add_mod, decide_true, Bool.true_and]

end Sys2Proof.Machine

/-! ## Time limits, PROCEED, shutdown and the watchdog (R27, R527, R529, R532, R535, R537) -/
namespace Sys2Proof.Machine

variable {a b s t u : State} {h g : HostPort} {ls : List LinkId} {l : List Nat}

/-! States that end by time or by the bell. -/

theorem exec_bootStateTimeout {ms : Nat} (limit : s.bootLimit = some ms) :
    exec .bootStateTimeout s = if s.bell.ticks < s.boot.enteredAt + ms * slotsPerMs then .next s
      else if s.boot.state == .linkTraining then .next (s.enterBoot .bellWait) else .next (s.bootFail s.boot.failCause) := by
  change execBootStateTimeout s = _
  unfold execBootStateTimeout
  rw [limit]

theorem bootStateTimeout_moves (s : State) (ms : Nat) (limit : s.bootLimit = some ms) : ∃ t, exec .bootStateTimeout s = .next t
    ∧ (s.bell.ticks < s.boot.enteredAt + ms * 125000 → t = s)
    ∧ (s.boot.enteredAt + ms * 125000 ≤ s.bell.ticks → (s.boot.state = .linkTraining → Boots .bellWait [] s t)
        ∧ (s.boot.state ≠ .linkTraining → Boots .failed [] s t ∧ t.boot.failCause = s.boot.failCause ∧ t.boot.wdogOn = false)) := by
  rw [exec_bootStateTimeout limit]
  unfold slotsPerMs
  split
  · next early => exact ⟨s, rfl, fun _ => rfl, fun late => absurd early (by omega)⟩
  · next late =>
    split
    · next training =>
      exact ⟨_, rfl, fun early => absurd early late, fun _ => ⟨fun _ => enterBoot_boots (Prepares.refl s),
        fun other => absurd (beq_iff_eq.1 training) other⟩⟩
    · next other =>
      exact ⟨_, rfl, fun early => absurd early late, fun _ => ⟨fun training => absurd (beq_iff_eq.2 training) other,
        fun _ => bootFail_boots (Prepares.refl s) _⟩⟩

theorem exec_linkTrainingDone (here : s.boot.state = .linkTraining) :
    exec .linkTrainingDone s = if s.trained then .next (s.enterBoot .bellWait) else .next s := by
  change execLinkTrainingDone s = _
  unfold execLinkTrainingDone
  rw [here]
  rfl

theorem exec_bellWaitDone (here : s.boot.state = .bellWait) :
    exec .bellWaitDone s = if s.bell.lock == .locked || s.bell.lock == .holdover then .next (s.enterBoot .timetable) else .next s := by
  change execBellWaitDone s = _
  unfold execBellWaitDone
  rw [here]
  rfl

theorem exec_bellSlow (here : s.boot.state = .bellWait) :
    exec .bellSlow s = if s.boot.enteredBound + 65536 ≤ s.bell.bounds then .next (s.withBoot { s.boot with bellSlow := true }) else .next s := by
  change execBellSlow s = _
  unfold execBellSlow
  rw [here]
  simp

/-! What links leave alone. -/

theorem LinkMoves.pool (h : LinkMoves ls l a b) : b.pool = a.pool := by rw [h.effect.rest]
theorem LinkMoves.boot (h : LinkMoves ls l a b) : b.boot = a.boot := by rw [h.effect.rest]
theorem LinkMoves.now (h : LinkMoves ls l a b) : b.bell.now = a.bell.now := h.effect.time.1

theorem LinkMoves.tables (h : LinkMoves ls l a b) : TablesSame a b := by
  have same : b.mort = { a.mort with gw := b.mort.gw, agents := b.mort.agents } := congrArg State.mort h.effect.rest
  generalize b.mort.gw = gw at same
  generalize b.mort.agents = agents at same
  constructor <;> rw [same] <;> exact ⟨rfl, rfl⟩

/-! PROCEED. -/

/-- The boot with the identity that the switch has. -/
def State.identifying (s : State) : Boot := { s.boot with identity := some (s.rd Reg.swIdentity) }

/-- The device as PROCEED leaves it before its ports start. -/
def State.proceeding (s : State) : State := (s.withBoot s.identifying).enterBoot .linkTraining

theorem exec_proceed (hr : Reaches s h Reg.bootCtrl) : exec (.proceed h) s = .next (s.touch h).proceed :=
  congrArg Host.Outcome.next (hostWrite_reaches hr)

theorem proceed_ignored (other : s.boot.state ≠ .configure) : s.proceed = s := if_pos (by simpa using other)

theorem proceed_starts (here : s.boot.state = .configure) : s.proceed = allPorts.foldl State.startPort s.proceeding :=
  if_neg (by simp [here])

theorem startPorts_moves (s : State) :
    LinkMoves (allPorts.flatMap bothLinks) (allPorts.flatMap sessionRegs) s (allPorts.foldl State.startPort s) :=
  ports_moves startPort_moves allPorts s

theorem startPorts_stamp (s : State) : (allPorts.foldl State.startPort s).rd64 Reg.bootStampLo = s.rd64 Reg.bootStampLo := by
  have kept : ∀ off, 0x800000 ≤ off → reportReg off = false → (allPorts.foldl State.startPort s).rd off = s.rd off := fun off high =>
    (startPorts_moves s).effect.reg off (fun m => by
      obtain ⟨q, -, m⟩ := List.mem_flatMap.1 m
      exact absurd (sessionRegs_below m) (by omega))
  unfold State.rd64
  rw [kept _ (by decide) (by decide), kept _ (by decide) (by decide)]

theorem proceeding_rd {off : Nat} (low : off ≠ Reg.bootStampLo) (high : off ≠ Reg.bootStampHi) : s.proceeding.rd off = s.rd off :=
  rd_enterBoot _ _ low high

theorem touch_proceeding_elsewhere (p : Port) (s : State) (h : HostPort) : Elsewhere p s (s.touch h).proceeding where
  link := fun k _ => by
    change (s.touch h).link k = s.link k
    rw [touch_rest]
    rfl
  err := fun off m => by
    have below := sessionRegs_below (portErr_session p m)
    rw [proceeding_rd (by simp only [Reg.bootStampLo]; omega) (by simp only [Reg.bootStampHi]; omega), touch_rd]
  cfg := fun n lt => by
    rw [proceeding_rd (by simp only [Reg.portCfg, Reg.bootStampLo]; omega) (by simp only [Reg.portCfg, Reg.bootStampHi]; omega), touch_rd]
  fault := by
    change (s.touch h).fault = s.fault
    rw [touch_rest]

/-- What PROCEED does to a port that is off, enabled and has a role. -/
theorem proceed_port {p : Port} (off : ∀ k ∈ bothLinks p, (s.link k).train = .disabled) (member : s.isMember p = false)
    (on : bit (s.rd (Reg.portCfg p.val)) 0 = true) (role : bits (s.rd (Reg.portCfg p.val)).toNat 5 4 ≠ 0) :
    let t := allPorts.foldl State.startPort (s.touch h).proceeding
    (s.groupOk p = true → s.isFenced (bits (s.rd (Reg.portCfg p.val)).toNat 21 16) = false →
      (t.link p.link).train = .detect ∧ (t.link p.link).cfg = s.rd (Reg.portCfg p.val))
    ∧ (s.groupOk p = false → (t.link p.link).train = .disabled ∧ bit (t.rd (Reg.portErr p.val)) 6 = true) := by
  have same := touch_proceeding_elsewhere p s h
  have cfg := same.cfg p.val p.isLt
  have port := startPorts_port (p := p) (s := (s.touch h).proceeding) (fun k m => by rw [same.link k m]; exact off k m)
    (by rw [same.isMember]; exact member) (by rw [cfg]; exact on) (by rw [cfg]; exact role)
  rw [cfg, same.groupOk, State.isFenced, same.fault] at port
  exact port

/-! Shutdown. -/

theorem finish_flight_mem {d e : Desc} {status result : Nat} (mem : e ∈ ((s.finish h d status result).host g).flight) :
    e ∈ (s.host g).flight := by
  unfold State.finish at mem
  dsimp only at mem
  rw [cqPost_flight, State.bump, State.addReg, wr_host] at mem
  cases h <;> cases g
  · exact (List.mem_filter.1 mem).1
  · exact mem
  · exact mem
  · exact (List.mem_filter.1 mem).1

/-- Every descriptor of a host in flight ends with TIMEOUT. -/
def State.endFlight (s : State) (h : HostPort) : State := (s.host h).flight.foldl (fun s d => s.finish h d 0x0B 0) s

theorem finishAll_flight_mem (ds : List Desc) {e : Desc} (mem : e ∈ ((ds.foldl (fun s d => s.finish h d 0x0B 0) s).host g).flight) :
    e ∈ (s.host g).flight ∧ (g = h → e ∉ ds) := by
  induction ds generalizing s with
  | nil => exact ⟨mem, fun _ => List.not_mem_nil⟩
  | cons d ds ih =>
    obtain ⟨before, out⟩ := ih mem
    refine ⟨finish_flight_mem before, fun own => ?_⟩
    subst own
    rw [List.mem_cons, not_or]
    exact ⟨fun same => (finish_completes s g d 0x0B 0).flight e before (congrArg Desc.id same), out rfl⟩

theorem endFlight_own (s : State) (h : HostPort) : ((s.endFlight h).host h).flight = [] :=
  List.eq_nil_iff_forall_not_mem.2 (fun _ mem => (finishAll_flight_mem _ mem).2 rfl (finishAll_flight_mem _ mem).1)

theorem endFlight_kept (none : (s.host g).flight = []) : ((s.endFlight h).host g).flight = [] :=
  List.eq_nil_iff_forall_not_mem.2 (fun e mem => by
    have before := (finishAll_flight_mem _ mem).1
    rw [none] at before
    exact List.not_mem_nil before)

theorem endFlight_changes (s : State) (h : HostPort) : ChangesOnly ((s.host h).flight.flatMap (doneRegs h)) s (s.endFlight h) :=
  ChangesOnly.foldl _ (fun _ d m => finish_changes h d 0x0B 0 (fun _ x => List.mem_flatMap.2 ⟨d, m, x⟩))

/-- No descriptor is left in flight, and no maintenance activity. -/
def State.quiesced (s : State) : State :=
  let u := (s.endFlight .a).endFlight .b
  u.withFault { u.fault with running := [], waiting := [] }

theorem quiesced_flight (s : State) (g : HostPort) : (s.quiesced.host g).flight = [] := by
  cases g
  · exact endFlight_kept (g := .a) (endFlight_own s .a)
  · exact endFlight_own _ .b

/-- The boot with the session root overwritten and the watchdog stopped. -/
def State.closing (s : State) : Boot := { s.boot with root := [], wdogOn := false }

/-- The device with every link disabled, all descriptors ended. -/
def State.silenced (s : State) : State := (listedLinks s.quiesced).foldl State.toDisabled s.quiesced

theorem exec_shutdownGo {v : Word} (hr : Reaches s h Reg.shutdownCtrl) : exec (.shutdownGo h v) s = .next ((s.touch h).shutDown v) :=
  congrArg Host.Outcome.next (hostWrite_reaches hr)

/-- A write of SHUTDOWN_CTRL that carries its code, in a state that shuts down (R536). -/
def Closes (v : Word) (s : State) : Prop :=
  v.extractLsb' 16 16 = 0xA5C3 ∧ bit v 0 = true ∧ 9 ≤ s.boot.state.code ∧ s.boot.state.code ≤ 14

theorem shutDown_ignored {v : Word} (bad : ¬ Closes v s) : s.shutDown v = s :=
  if_pos (by simpa [Closes, imp_iff_not_or, or_assoc] using bad)

theorem shutDown_closes {v : Word} (good : Closes v s) : s.shutDown v = (s.silenced.withBoot s.silenced.closing).enterBoot .shutdown := by
  obtain ⟨code, go, low, high⟩ := good
  exact if_neg (by simp [code, go, low, high])

theorem silenced_moves (s : State) : ∃ ls l, LinkMoves ls l s.quiesced s.silenced := ⟨_, _, disableLinks_moves _ _⟩

theorem silenced_link (s : State) (k : LinkId) : (s.silenced.link k).train = .disabled ∧ (s.silenced.link k).looped = false := by
  by_cases listed : k ∈ listedLinks s.quiesced
  · exact disableLinks_link listed _
  · rw [State.silenced, (disableLinks_moves _ _).link listed, link_unlisted listed]
    exact ⟨rfl, rfl⟩

/-- Until its links are disabled, a device that shuts down keeps its time, its pool and its tables. -/
theorem quiesced_keeps (s : State) : s.quiesced.bell = s.bell ∧ s.quiesced.pool = s.pool ∧ s.quiesced.mort = s.mort := by
  have first := endFlight_changes s .a
  have second := endFlight_changes (s.endFlight .a) .b
  have both := (first.mono (fun _ => List.mem_append_left _)).trans (second.mono (fun _ => List.mem_append_right _))
  refine ⟨both.bell, ?_, ?_⟩
  · change ((s.endFlight .a).endFlight .b).pool = s.pool
    rw [both.rest]
  · change ((s.endFlight .a).endFlight .b).mort = s.mort
    rw [both.rest]

/-- A shutdown of a device: everything ends, and bell time, tables and pool memory stay. -/
theorem shutDown_ends {v : Word} (good : Closes v s) :
    let t := s.shutDown v
    t.boot.state = .shutdown ∧ t.boot.root = [] ∧ t.boot.wdogOn = false ∧ t.rd64 Reg.bootStampLo = s.now
    ∧ (∀ g, (t.host g).flight = []) ∧ t.fault.running = [] ∧ t.fault.waiting = []
    ∧ (∀ k, (t.link k).train = .disabled ∧ (t.link k).looped = false) ∧ t.pool = s.pool ∧ TablesSame s t ∧ t.bell.now = s.bell.now := by
  obtain ⟨ls, l, moves⟩ := silenced_moves s
  obtain ⟨bell, pool, mort⟩ := quiesced_keeps s
  have time : s.silenced.bell.now = s.bell.now := moves.now.trans (by rw [bell])
  have flight : ∀ g, (s.silenced.host g).flight = [] := fun g => (moves.flight g).trans (quiesced_flight s g)
  have fault : s.silenced.fault.running = [] ∧ s.silenced.fault.waiting = [] := by
    rw [moves.fault]
    exact ⟨rfl, rfl⟩
  have tables : TablesSame s s.silenced := (TablesSame.of_mort mort).trans moves.tables
  have pool := moves.pool.trans pool
  have links := silenced_link s
  rw [shutDown_closes good]
  generalize s.silenced = w at *
  refine ⟨rfl, rfl, rfl, ?_, ?_, fault.1, fault.2, links, pool, tables.trans (TablesSame.of_mort rfl), time⟩
  · rw [rd64_enterBoot]
    exact congrArg BellTime.stamp time
  · intro g
    cases g
    · exact flight .a
    · exact flight .b

/-! The watchdog (R535). -/

/-- A reset of the main domain, whatever asks for it (R527). -/
theorem resetMain_restarted (s : State) (kind : ResetKind) (next : BootSt) (cause : Word) (force : Bool) :
    Restarted (kind == .warm) next cause s (s.resetMain kind next cause force) where
  boot := ⟨rfl, rfl, rfl, rfl, rfl, rfl, rfl, rfl, rfl⟩
  cause := by
    refine ⟨?_, rd64_enterBoot ..⟩
    unfold State.resetMain
    rw [rd_enterBoot _ _ (by decide) (by decide), State.rd_wr_same]
  reg := fun off out => by
    simp only [List.mem_cons, List.not_mem_nil, or_false, not_or] at out
    obtain ⟨notCause, low, high⟩ := out
    unfold State.resetMain
    rw [rd_enterBoot _ _ low high, State.rd_wr_other _ _ notCause]
    change Tab.get (regReset off) (s.regs.filter (fun r => keptReg (kind == .warm) r.1)) off = _
    unfold Tab.get
    cases kept : keptReg (kind == .warm) off
    · rw [Tab.find_filter_drop s.regs _ off kept]
      rfl
    · rw [Tab.find_filter_keep s.regs _ off kept]
      rfl
  main := ⟨rfl, rfl, rfl, rfl, rfl, rfl, rfl, rfl, rfl, rfl, rfl, rfl⟩
  hosts := ⟨rfl, rfl⟩
  bell := ⟨rfl, rfl, rfl, rfl⟩
  island := by
    cases kind <;> exact ⟨rfl, rfl, rfl⟩
  kept := ⟨rfl, rfl, rfl⟩

/-- The bell periods that the watchdog allows between heartbeats. -/
def watchdogLimit (s : State) : Nat := 1024 * max 1 (bits (s.rd Reg.wdogCfg).toNat 15 0)

theorem exec_watchdogExpiry (s : State) : exec .watchdogExpiry s =
    if !s.boot.wdogOn || s.bell.bounds < s.boot.wdogAt + watchdogLimit s then .next s
    else if bit (s.rd Reg.wdogStatus) 0 then .next (s.resetMain .warm .romStart 0x10 false)
    else .next ((s.withBoot { s.boot with wdogAt := s.bell.bounds, wdogSeen := true }).wr Reg.wdogStatus 1) := rfl

theorem watchdogExpiry_early (early : s.boot.wdogOn = false ∨ s.bell.bounds < s.boot.wdogAt + watchdogLimit s) :
    exec .watchdogExpiry s = .next s := by
  rw [exec_watchdogExpiry, if_pos (by simpa using early)]

theorem watchdogExpiry_due (on : s.boot.wdogOn = true) (late : s.boot.wdogAt + watchdogLimit s ≤ s.bell.bounds) :
    exec .watchdogExpiry s = if bit (s.rd Reg.wdogStatus) 0 then .next (s.resetMain .warm .romStart 0x10 false)
      else .next ((s.withBoot { s.boot with wdogAt := s.bell.bounds, wdogSeen := true }).wr Reg.wdogStatus 1) := by
  rw [exec_watchdogExpiry, if_neg (by simp [on, late])]

theorem exec_mgmtHeartbeat (s : State) : exec .mgmtHeartbeat s =
    if decide (6 ≤ s.boot.state.code) && decide (s.boot.state.code ≤ 14) then
      .next (((s.wr Reg.mgmtHeartbeat (s.rd Reg.mgmtHeartbeat + 1)).wr Reg.wdogStatus 0).withBoot { s.boot with wdogAt := s.bell.bounds })
    else .next s := rfl

end Sys2Proof.Machine

/-! ## The boot sequence (R27, R484, R488, R491, R529, R531, R532, R533, R535, R536, R537) -/
namespace Sys2Proof.Machine

variable {s : State} {h : HostPort}

theorem touch_bell (s : State) (h : HostPort) : (s.touch h).bell = s.bell := by rw [touch_rest]

theorem spiReadDone_moves (image : Bytes) (answered : Bool) (s : State) (here : s.boot.state = .spiRead) :
    ∃ t, exec (.spiReadDone image answered) s = .next t
    ∧ (answered = false → Boots .recoveryWait [] s t ∧ t.boot.failCause = 1 ∧ t.boot.claim = none)
    ∧ (answered = true → image.length < 2048 → Boots .recoveryWait [] s t ∧ t.boot.failCause = 2 ∧ t.boot.claim = none)
    ∧ (answered = true → 2048 ≤ image.length → Boots .verify [] s t ∧ t.boot.image = image) := by
  rw [exec_spiReadDone here]
  cases answered with
  | false => exact ⟨_, rfl, fun _ => imageRefused_boots s 1, nofun, nofun⟩
  | true =>
    by_cases short : image.length < 2048
    · exact ⟨_, if_pos short, nofun, fun _ _ => imageRefused_boots s 2, fun _ full => absurd short (by omega)⟩
    · exact ⟨_, if_neg short, nofun, fun _ less => absurd less short, fun _ _ => ⟨enterBoot_boots Prepares.withBoot, rfl⟩⟩

theorem bootClaim_moves (h : HostPort) (s : State) (hr : Reaches s h Reg.bootCtrl) : ∃ t, exec (.bootClaim h) s = .next t
    ∧ (s.boot.state = .recoveryWait → s.boot.claim = none → t = (s.touch h).withBoot { s.boot with claim := some h })
    ∧ (s.boot.state ≠ .recoveryWait ∨ s.boot.claim ≠ none → t = s.touch h) := by
  refine ⟨_, exec_bootClaim hr, ?_, ?_⟩
  · rw [← touch_boot s h]
    exact claimBoot_first
  · rw [← touch_boot s h]
    exact claimBoot_late

theorem recoverGo_moves (h : HostPort) (program : Bool) (s : State) (hr : Reaches s h Reg.bootCtrl) :
    let n := (s.rd Reg.bootRecoveryLen).toNat
    ∃ t, exec (.recoverGo h program) s = .next t
    ∧ (s.boot.claim ≠ some h ∨ 4194304 < n → t = (s.touch h).withBoot { s.boot with recoveryIgnored := true })
    ∧ (s.boot.claim = some h → n ≤ 4194304 → s.boot.state = .recoveryWait → Boots .recoveryVerify [] (s.touch h) t
        ∧ t.boot.program = program ∧ t.boot.image = s.boot.staging.getRun 0 0 n ∧ t.boot.claim = some h) := by
  refine ⟨_, exec_recoverGo hr, ?_, ?_⟩
  · rw [← touch_boot s h, ← touch_rd s h]
    exact recover_ignored
  · rw [← touch_boot s h, ← touch_rd s h]
    intro mine fits here
    rw [recover_starts mine fits here]
    exact ⟨enterBoot_boots Prepares.withBoot, rfl, rfl, mine⟩

theorem fwStartDone_moves (ready : BitVec 8) (s : State) (here : s.boot.state = .fwStart) :
    ∃ t, exec (.fwStartDone ready) s = .next t
    ∧ (∀ k, k < 8 → (t.rd (Reg.stkStatus k)).toNat % 4 = (if bit ready k = true then 3 else 1)
        ∧ (t.rd (Reg.stkStatus k)).toNat / 4 = (s.rd (Reg.stkStatus k)).toNat / 4)
    ∧ (ready = 0xFF → Boots .keygen (regGroup Reg.stkStatus 8) s t)
    ∧ (ready ≠ 0xFF → Boots .failed (regGroup Reg.stkStatus 8) s t ∧ t.boot.failCause = 6 ∧ t.boot.wdogOn = false) := by
  have shown := showStacks_regsOnly s ready
  have word : ∀ k < 8, ((s.showStacks ready).rd (Reg.stkStatus k)).toNat % 4 = (if bit ready k = true then 3 else 1)
      ∧ ((s.showStacks ready).rd (Reg.stkStatus k)).toNat / 4 = (s.rd (Reg.stkStatus k)).toNat / 4 := fun k lt => by
    rw [rd_showStacks s ready lt]
    exact ⟨stackWord_low .., stackWord_high ..⟩
  have kept : ∀ (u : State) (next : BootSt), ∀ k < 8, (u.enterBoot next).rd (Reg.stkStatus k) = u.rd (Reg.stkStatus k) := fun u next k lt =>
    rd_enterBoot _ _ (by simp only [Reg.stkStatus, Reg.bootStampLo]; omega) (by simp only [Reg.stkStatus, Reg.bootStampHi]; omega)
  rw [exec_fwStartDone here]
  generalize s.showStacks ready = u at shown word
  refine ⟨_, rfl, ?_⟩
  split
  · next all =>
    refine ⟨fun k lt => ?_, fun _ => enterBoot_boots (Prepares.wrs shown), fun no => absurd (beq_iff_eq.1 all) no⟩
    rw [kept u _ k lt]
    exact word k lt
  · next no =>
    refine ⟨fun k lt => ?_, fun all => absurd (beq_iff_eq.2 all) no, fun _ => bootFail_boots (Prepares.wrs shown) 6⟩
    rw [State.bootFail, kept _ _ k lt, rd_withBoot]
    exact word k lt

theorem bootBistDone_moves (bad : BitVec 168) (ok : Bool) (s : State) (here : s.boot.state = .bist) :
    ∃ t, exec (.bootBistDone bad ok) s = .next t
    ∧ (∀ b, b < 168 → t.benchOffline b = (s.benchOffline b || bit bad b) ∧ bit (t.rd (Reg.bootBenchFail (b / 32))) (b % 32) = bit bad b)
    ∧ (ok = true → Boots .configure testRegs s t)
    ∧ (ok = false → Boots .failed testRegs s t ∧ t.boot.failCause = 8 ∧ t.boot.wdogOn = false) := by
  have tested := benchTested_regsOnly s bad
  have word : ∀ b < 168, (s.benchTested bad).benchOffline b = (s.benchOffline b || bit bad b)
      ∧ bit ((s.benchTested bad).rd (Reg.bootBenchFail (b / 32))) (b % 32) = bit bad b := fun b lt => by
    obtain ⟨offline, shown⟩ := rd_benchTested s bad (i := b / 32) (by omega)
    rw [State.benchOffline, offline, shown, State.benchOffline, bit_benchWord, ← bit_benchWord bad b]
    exact ⟨BitVec.getLsbD_or .., rfl⟩
  have kept : ∀ (u : State) (next : BootSt), ∀ b < 168, (u.enterBoot next).benchOffline b = u.benchOffline b
      ∧ (u.enterBoot next).rd (Reg.bootBenchFail (b / 32)) = u.rd (Reg.bootBenchFail (b / 32)) := fun u next b lt => by
    refine ⟨congrArg (bit · (b % 32)) (rd_enterBoot _ _ ?_ ?_), rd_enterBoot _ _ ?_ ?_⟩ <;>
      simp only [Reg.faultOffline, Reg.bootBenchFail, Reg.bootStampLo, Reg.bootStampHi] <;> omega
  rw [exec_bootBistDone here]
  generalize s.benchTested bad = u at tested word
  cases ok with
  | true =>
    refine ⟨_, rfl, fun b lt => ?_, fun _ => enterBoot_boots ((Prepares.wrs tested).trans Prepares.goodAt), nofun⟩
    rw [(kept _ _ b lt).1, (kept _ _ b lt).2]
    exact word b lt
  | false =>
    refine ⟨_, rfl, fun b lt => ?_, nofun, fun _ => bootFail_boots (Prepares.wrs tested) 8⟩
    rw [State.bootFail, (kept _ _ b lt).1, (kept _ _ b lt).2]
    exact word b lt

theorem proceed_moves (h : HostPort) (s : State) (hr : Reaches s h Reg.bootCtrl) : ∃ t, exec (.proceed h) s = .next t
    ∧ (s.boot.state ≠ .configure → t = s.touch h)
    ∧ (s.boot.state = .configure → t.boot.state = .linkTraining ∧ t.boot.identity = some (s.rd Reg.swIdentity)
        ∧ t.rd64 Reg.bootStampLo = s.now
        ∧ (∀ p : Port, let cfg := s.rd (Reg.portCfg p.val)
            (∀ l ∈ bothLinks p, (s.link l).train = .disabled) → s.isMember p = false → bit cfg 0 = true → bits cfg.toNat 5 4 ≠ 0 →
            (s.groupOk p = true → s.isFenced (bits cfg.toNat 21 16) = false → (t.link p.link).train = .detect ∧ (t.link p.link).cfg = cfg)
            ∧ (s.groupOk p = false → (t.link p.link).train = .disabled ∧ bit (t.rd (Reg.portErr p.val)) 6 = true))
        ∧ t.pool = s.pool ∧ TablesSame s t ∧ t.bell.now = s.bell.now ∧ t.fault.fenced = s.fault.fenced) := by
  refine ⟨_, exec_proceed hr, fun other => proceed_ignored (by rw [touch_boot]; exact other), fun here => ?_⟩
  have ports := fun p => proceed_port (s := s) (h := h) (p := p)
  have moves := startPorts_moves (s.touch h).proceeding
  have stamp := startPorts_stamp (s.touch h).proceeding
  rw [proceed_starts (by rw [touch_boot]; exact here)]
  refine ⟨by rw [moves.boot]; rfl, ?_, ?_, ports, ?_, ?_, ?_, ?_⟩
  · rw [moves.boot, ← touch_rd s h]
    rfl
  · rw [stamp, State.proceeding, rd64_enterBoot]
    change (s.touch h).now = s.now
    rw [State.now, touch_bell]
    rfl
  · rw [moves.pool]
    exact touch_pool s h
  · refine TablesSame.trans (TablesSame.of_mort ?_) moves.tables
    change (s.touch h).mort = s.mort
    rw [touch_rest]
  · rw [moves.now]
    exact congrArg Bell.now (touch_bell s h)
  · rw [moves.fault]
    change (s.touch h).fault.fenced = s.fault.fenced
    rw [touch_rest]

theorem shutdownGo_moves (h : HostPort) (v : Word) (s : State) (hr : Reaches s h Reg.shutdownCtrl) :
    ∃ t, exec (.shutdownGo h v) s = .next t ∧ (¬ Closes v s → t = s.touch h)
    ∧ (Closes v s → t.boot.state = .shutdown ∧ t.boot.root = [] ∧ t.boot.wdogOn = false ∧ t.rd64 Reg.bootStampLo = s.now
        ∧ (∀ g, (t.host g).flight = []) ∧ t.fault.running = [] ∧ t.fault.waiting = []
        ∧ (∀ l, (t.link l).train = .disabled ∧ (t.link l).looped = false)
        ∧ t.pool = s.pool ∧ TablesSame s t ∧ t.bell.now = s.bell.now) := by
  have touched : Closes v (s.touch h) ↔ Closes v s := by rw [Closes, Closes, touch_boot]
  have now : (s.touch h).now = s.now := by rw [State.now, touch_bell]; rfl
  have mort : (s.touch h).mort = s.mort := by rw [touch_rest]
  refine ⟨_, exec_shutdownGo hr, fun bad => shutDown_ignored (fun good => bad (touched.1 good)), fun good => ?_⟩
  obtain ⟨state, root, stopped, stamp, flight, running, waiting, links, pool, tables, time⟩ := shutDown_ends (touched.2 good)
  exact ⟨state, root, stopped, stamp.trans now, flight, running, waiting, links, pool.trans (touch_pool s h),
    (TablesSame.of_mort mort).trans tables, time.trans (congrArg Bell.now (touch_bell s h))⟩

theorem bellWaitDone_moves (s : State) (here : s.boot.state = .bellWait) : ∃ t, exec .bellWaitDone s = .next t
    ∧ (s.bell.lock = .locked ∨ s.bell.lock = .holdover → Boots .timetable [] s t)
    ∧ (s.bell.lock ≠ .locked → s.bell.lock ≠ .holdover → t = s) := by
  rw [exec_bellWaitDone here]
  by_cases held : s.bell.lock = .locked ∨ s.bell.lock = .holdover
  · exact ⟨_, if_pos (by simpa using held), fun _ => enterBoot_boots (Prepares.refl s), fun a b => absurd held (not_or.2 ⟨a, b⟩)⟩
  · exact ⟨_, if_neg (by simpa using held), fun yes => absurd yes held, fun _ _ => rfl⟩

theorem mgmtHeartbeat_moves (s : State) : let up := 6 ≤ s.boot.state.code ∧ s.boot.state.code ≤ 14
    ∃ t, exec .mgmtHeartbeat s = .next t ∧ (¬ up → t = s)
    ∧ (up → t.rd Reg.mgmtHeartbeat = s.rd Reg.mgmtHeartbeat + 1 ∧ t.rd Reg.wdogStatus = 0
        ∧ RegsOnly [Reg.mgmtHeartbeat, Reg.wdogStatus] (s.withBoot { s.boot with wdogAt := s.bell.bounds }) t) := by
  intro up
  rw [exec_mgmtHeartbeat]
  by_cases is : up
  · refine ⟨_, if_pos (by simpa using is), fun no => absurd is no, fun _ => ⟨?_, ?_, ?_⟩⟩
    · rw [rd_withBoot, State.rd_wr_other _ _ (by decide), State.rd_wr_same]
    · rw [rd_withBoot, State.rd_wr_same]
    · have written : RegsOnly [Reg.mgmtHeartbeat, Reg.wdogStatus] (s.withBoot { s.boot with wdogAt := s.bell.bounds })
          (((s.withBoot { s.boot with wdogAt := s.bell.bounds }).wr Reg.mgmtHeartbeat (s.rd Reg.mgmtHeartbeat + 1)).wr Reg.wdogStatus 0) :=
        (RegsOnly.wr (List.mem_cons_self ..)).trans (RegsOnly.wr (by simp))
      exact written
  · exact ⟨_, if_neg (by simpa [up] using is), fun _ => rfl, fun yes => absurd yes is⟩

theorem watchdogExpiry_moves (s : State) :
    ∃ t, exec .watchdogExpiry s = .next t ∧ (s.boot.wdogOn = false ∨ s.bell.bounds < s.boot.wdogAt + watchdogLimit s → t = s)
    ∧ (s.boot.wdogOn = true → s.boot.wdogAt + watchdogLimit s ≤ s.bell.bounds → bit (s.rd Reg.wdogStatus) 0 = false →
        t.rd Reg.wdogStatus = 1 ∧ RegsOnly [Reg.wdogStatus] (s.withBoot { s.boot with wdogAt := s.bell.bounds, wdogSeen := true }) t)
    ∧ (s.boot.wdogOn = true → s.boot.wdogAt + watchdogLimit s ≤ s.bell.bounds → bit (s.rd Reg.wdogStatus) 0 = true →
        Restarted true .romStart 0x10 s t) := by
  by_cases early : s.boot.wdogOn = false ∨ s.bell.bounds < s.boot.wdogAt + watchdogLimit s
  · refine ⟨s, watchdogExpiry_early early, fun _ => rfl, fun on late => ?_, fun on late => ?_⟩ <;>
      exact absurd early (by simp only [on, Bool.true_eq_false, false_or]; omega)
  · have due := early
    rw [not_or, Bool.not_eq_false, Nat.not_lt] at due
    rw [watchdogExpiry_due due.1 due.2]
    cases second : bit (s.rd Reg.wdogStatus) 0
    · exact ⟨_, rfl, fun e => absurd e early, fun _ _ _ => ⟨State.rd_wr_same .., RegsOnly.wr (List.mem_singleton_self _)⟩, nofun⟩
    · exact ⟨_, rfl, fun e => absurd e early, nofun, fun _ _ _ => resetMain_restarted s .warm .romStart 0x10 false⟩

/-- Settles O59: each step of the boot ends in `Boots` of a prepared state, or in what its own lemma says of links and hosts. -/
theorem bootSequence : Obligations.BootSequence := by
  unfold Obligations.BootSequence
  intro extended meas fw refused runs fails
  refine ⟨fun pass s => ?_, spiReadDone_moves, fun s here => ?_, bootClaim_moves, recoverGo_moves, fun s here => ?_, fwStartDone_moves,
    fun pass s here => ?_, bootBistDone_moves, bootStateTimeout_moves, proceed_moves, fun s here => ?_, bellWaitDone_moves,
    fun s here => ?_, shutdownGo_moves, fun s here => ?_, mgmtHeartbeat_moves, watchdogExpiry_moves⟩
  · by_cases here : s.boot.state = .romStart
    · obtain ⟨t, run, moves⟩ := romStartDone_moves pass s here
      exact ⟨t, run, fun other => absurd here other, fun _ => moves⟩
    · exact ⟨s, exec_romStartDone_other here, fun _ => rfl, fun e => absurd e here⟩
  · by_cases sound : imageCause s.boot.image none = 0
    · exact ⟨_, exec_verifyDone_sound here sound,
        fun _ => ⟨startFirmware_runs (Prepares.refl s) rfl, startFirmware_out s⟩, fun bad => absurd sound bad⟩
    · exact ⟨_, exec_verifyDone_refused here sound, fun e => absurd e sound, fun _ => imageRefused_boots ..⟩
  · by_cases sound : stagedCause s = 0
    · exact ⟨_, exec_recoveryVerifyDone_sound here sound, fun bad => absurd sound bad,
        fun _ => ⟨startFirmware_runs (programmed_prepares s) (programmed_boot s), (startFirmware_out _).trans (programmed_out s)⟩⟩
    · exact ⟨_, exec_recoveryVerifyDone_refused here sound, fun _ => ⟨imageRefused_boots .., rfl⟩, fun e => absurd e sound⟩
  · cases pass with
    | false => exact ⟨_, exec_keygenDone_fails here, fun _ => bootFail_boots (Prepares.refl s) 7, nofun⟩
    | true =>
      obtain ⟨t, run, moves⟩ := keygenDone_boots s here
      exact ⟨t, run, nofun, fun _ => moves⟩
  · rw [exec_linkTrainingDone here]
    cases s.trained
    · exact ⟨s, rfl, nofun, fun _ => rfl⟩
    · exact ⟨_, rfl, fun _ => enterBoot_boots (Prepares.refl s), nofun⟩
  · rw [exec_bellSlow here]
    by_cases slow : s.boot.enteredBound + 65536 ≤ s.bell.bounds
    · exact ⟨_, if_pos slow, fun _ => rfl, fun e => absurd slow (by omega)⟩
    · exact ⟨_, if_neg slow, fun e => absurd e slow, fun _ => rfl⟩
  · exact ⟨_, if_pos (beq_iff_eq.2 here), enterBoot_boots Prepares.withBoot, rfl⟩

end Sys2Proof.Machine

/-! ## The bell frame, the front of the queue, and reset (R8, R13, R35 to R39) -/
namespace Sys2Proof.Machine

theorem getLsbD_append_low {v w i : Nat} {hi : BitVec v} {lo : BitVec w} (lt : i < w) : (hi ++ lo).getLsbD i = lo.getLsbD i := by
  rw [BitVec.getLsbD_append, if_pos lt]

theorem getLsbD_append_high {v w i : Nat} {hi : BitVec v} {lo : BitVec w} (le : w ≤ i) :
    (hi ++ lo).getLsbD i = hi.getLsbD (i - w) := by
  rw [BitVec.getLsbD_append, if_neg (Nat.not_lt.2 le)]

theorem getLsbD_ofBool_zero (b : Bool) : (BitVec.ofBool b).getLsbD 0 = b := by cases b <;> rfl

theorem bellContent_body (f : BellFrame) : (bellContent f).extractLsb' 0 256 = bellBody f := BitVec.extractLsb'_append_eq_right

theorem bellContent_crc (f : BellFrame) : (bellContent f).extractLsb' 256 16 = bellCrc (bellBody f) :=
  BitVec.extractLsb'_append_eq_left

/-- Bits of the content below the check are those of the body. -/
theorem bellContent_field (f : BellFrame) {at_ n : Nat} (fits : at_ + n ≤ 256) :
    (bellContent f).extractLsb' at_ n = (bellBody f).extractLsb' at_ n :=
  BitVec.extractLsb'_append_eq_of_add_le fits

theorem bellContent_bit (f : BellFrame) {n : Nat} (lt : n < 256) : bit (bellContent f) n = (bellBody f).getLsbD n :=
  getLsbD_append_low lt

/-- The content spells the fields that it was built of: below a field lie the pieces that `bellBody` appends after it, and each piece
is passed over by its width. -/
theorem bellFields_bellContent (f : BellFrame) : bellFields (bellContent f) = f := by
  simp (disch := omega) only [bellFields, bellContent_field, bellContent_bit, bellBody, BitVec.extractLsb'_append_eq_of_le,
    BitVec.extractLsb'_append_eq_of_add_le, BitVec.extractLsb'_eq_self, getLsbD_append_high, getLsbD_append_low,
    getLsbD_ofBool_zero, Nat.reduceSub]

/-- Settles O9: the fields are read back, and the check is that of the body. -/
theorem bellFrameRoundTrip : Obligations.BellFrameRoundTrip := by
  intro f
  refine ⟨bellFields_bellContent f, ?_⟩
  rw [bellGood, bellFields_bellContent, bellContent_body, bellContent_crc]
  simp

/-- Settles O1. -/
theorem stepRunsFrontCommand : Obligations.StepRunsFrontCommand := by
  refine ⟨fun c rest s front => ?_, fun s empty => ?_⟩
  · rw [step, front]
  · rw [step, empty]

/-- Settles O7: the reset state lists nothing, and an unlisted register or gate reads its reset value. -/
theorem resetValues : Obligations.ResetValues :=
  ⟨rfl, rfl, rfl, rfl, rfl, rfl, rfl, fun _ => rfl, rfl, rfl, rfl, fun _ => rfl⟩

end Sys2Proof.Machine

/-! ## What a report leaves of a host's side (R475, R476) -/
namespace Sys2Proof.Machine

variable {a b c s : State} {g h : HostPort}

/-- What of a host's side its port and its ring set are: the link, the function's state and the state of the rings. -/
def HostSide.port (x : HostSide) : Bool × Bool × Bool × BitVec 4 × BitVec 4 × RingState :=
  (x.dlUp, x.perst, x.d3hot, x.width, x.rate, x.ring)

/-- Both hosts' ports and ring sets are as they were. -/
structure PortsSame (a b : State) : Prop where
  port : ∀ g, (b.host g).port = (a.host g).port

theorem PortsSame.refl (s : State) : PortsSame s s := ⟨fun _ => rfl⟩

theorem PortsSame.trans (h : PortsSame a b) (g : PortsSame b c) : PortsSame a c := ⟨fun x => (g.port x).trans (h.port x)⟩

theorem PortsSame.of_host (e : ∀ g, b.host g = a.host g) : PortsSame a b := ⟨fun g => congrArg HostSide.port (e g)⟩

theorem PortsSame.of_hosts (hostA : b.hostA = a.hostA) (hostB : b.hostB = a.hostB) : PortsSame a b :=
  .of_host fun g => by cases g <;> assumption

theorem PortsSame.withHost {x : HostSide} (e : x.port = (s.host h).port) : PortsSame s (s.withHost h x) := ⟨fun g => by
  by_cases same : g = h
  · rw [same, State.host_withHost_same, e]
  · rw [State.host_withHost_other _ _ same]⟩

theorem PortsSame.wr {off : Nat} {v : Word} : PortsSame s (s.wr off v) := .of_hosts rfl rfl

theorem PortsSame.setOwner (p : PortsSame a b) (h : HostPort) : b.setOwner h = a.setOwner h := by
  have ring : (b.host h).ring = (a.host h).ring := congrArg (·.2.2.2.2.2) (p.port h)
  rw [State.setOwner, ring]
  rfl

/-- A reset keeps of a host's side what its port is, if anything. -/
theorem PortsSame.restart (p : PortsSame a b) (warm : Bool) (g : HostPort) : (b.host g).restart warm = (a.host g).restart warm := by
  have line := p.port g
  simp only [HostSide.port, Prod.mk.injEq] at line
  obtain ⟨up, perst, hot, width, rate, -⟩ := line
  rw [HostSide.restart, HostSide.restart, up, perst, hot, width, rate]

theorem signal_ports (h : HostPort) (r : Nat) : PortsSame s (s.signal h r) := by
  unfold State.signal
  dsimp only
  split
  · refine PortsSame.trans ?_ (.of_host (fun g => emit_host ..))
    exact PortsSame.withHost rfl
  · exact .refl s

theorem ringWrite_ports (h : HostPort) (r : Nat) (e : Bytes) : PortsSame s (s.ringWrite h r e) := by
  unfold State.ringWrite
  refine PortsSame.trans ?_ (signal_ports h r)
  refine PortsSame.trans (b := (s.emit _).wr _ _) (.of_host fun g => ?_) (PortsSame.withHost ?_)
  · rw [wr_host, emit_host]
  · split <;> rfl

theorem evtWrite_ports (h : HostPort) (e : Bytes) : PortsSame s (s.evtWrite h e) := by
  unfold State.evtWrite
  refine PortsSame.trans ?_ (ringWrite_ports ..)
  exact PortsSame.withHost rfl

theorem evtDrop_ports (h : HostPort) : PortsSame s (s.evtDrop h) := by
  unfold State.evtDrop
  refine PortsSame.trans ?_ .wr
  exact PortsSame.withHost rfl

theorem record_ports (e n : Nat) (caps bitCaps : List (Nat × Word)) : PortsSame s (s.record e n caps bitCaps) :=
  .of_host (record_host e n caps bitCaps)

theorem postEventTo_ports (fuel : Nat) (h : HostPort) (e : Bytes) : PortsSame s (postEventTo fuel s h e) := by
  induction fuel generalizing s h e with
  | zero => exact evtDrop_ports h
  | succ n ih =>
    simp only [postEventTo]
    split
    · exact evtWrite_ports h e
    · split
      · exact (evtDrop_ports h).trans (record_ports ..)
      · exact (((evtDrop_ports h).trans (record_ports ..)).trans (ih ..)).trans (ih ..)

theorem postEvent_ports (kind n subject : Nat) (detail : Bytes) : PortsSame s (s.postEvent kind n subject detail) :=
  (postEventTo_ports 4 .a _).trans (postEventTo_ports 4 .b _)

theorem raiseCap_ports (e n : Nat) (caps bitCaps : List (Nat × Word)) : PortsSame s (s.raiseCap e n caps bitCaps) := by
  unfold State.raiseCap
  dsimp only
  split
  · exact record_ports ..
  · exact (record_ports ..).trans (postEvent_ports ..)

end Sys2Proof.Machine

/-! ## A slot (R35, R36, R177) -/
namespace Sys2Proof.Machine

variable {a b c s : State}

/-- The frame of what a slot brings besides the count: of the state nothing changes but registers, the timetable, benches, network
units, the switch core, test and trace, free draws and reports. The hosts' ports and ring sets stay. -/
structure SlotMoves (a b : State) : Prop where
  rest : b = { a with regs := b.regs, tt := b.tt, benches := b.benches, net := b.net, sw := b.sw, test := b.test, hostA := b.hostA,
                      hostB := b.hostB, out := b.out, free := b.free }
  ports : PortsSame a b

theorem SlotMoves.refl (s : State) : SlotMoves s s := ⟨rfl, .refl s⟩

theorem SlotMoves.trans (h : SlotMoves a b) (g : SlotMoves b c) : SlotMoves a c := by
  refine ⟨?_, h.ports.trans g.ports⟩
  have e := g.rest
  rw [h.rest] at e
  exact e

theorem SlotMoves.foldl {β : Type} {f : State → β → State} (each : ∀ u x, SlotMoves u (f u x)) (xs : List β) (s : State) :
    SlotMoves s (xs.foldl f s) := by
  induction xs generalizing s with
  | nil => exact .refl s
  | cons x xs ih => exact (each s x).trans (ih _)

theorem SlotMoves.withRegs {x : Tab Word} : SlotMoves s (s.withRegs x) := ⟨rfl, .of_hosts rfl rfl⟩
theorem SlotMoves.withTt {x : Timetable} : SlotMoves s (s.withTt x) := ⟨rfl, .of_hosts rfl rfl⟩
theorem SlotMoves.withBenches {x : Tab Bench} : SlotMoves s (s.withBenches x) := ⟨rfl, .of_hosts rfl rfl⟩
theorem SlotMoves.withNet {x : Net} : SlotMoves s (s.withNet x) := ⟨rfl, .of_hosts rfl rfl⟩
theorem SlotMoves.withSw {x : Switch} : SlotMoves s (s.withSw x) := ⟨rfl, .of_hosts rfl rfl⟩
theorem SlotMoves.withTest {x : Test} : SlotMoves s (s.withTest x) := ⟨rfl, .of_hosts rfl rfl⟩
theorem SlotMoves.withFree {n : Nat} : SlotMoves s (s.withFree n) := ⟨rfl, .of_hosts rfl rfl⟩

theorem SlotMoves.addReg {off n : Nat} : SlotMoves s (s.addReg off n) := .withRegs
theorem SlotMoves.add64 {lo n : Nat} : SlotMoves s (s.add64 lo n) := .trans .withRegs .withRegs

theorem SlotMoves.raise {e n : Nat} : SlotMoves s (s.raise e n) := by
  refine ⟨?_, raiseCap_ports ..⟩
  have rest := (raise_changes (s := s) (l := recordRegs e) e n [] (fun _ m => m) (fun _ m => absurd m List.not_mem_nil)).rest
  rw [rest]

theorem SlotMoves.bell (h : SlotMoves a b) : b.bell = a.bell := by rw [h.rest]
theorem SlotMoves.boot (h : SlotMoves a b) : b.boot = a.boot := by rw [h.rest]

/-- The bell is no part of what a slot brings besides the count. -/
theorem SlotMoves.withBell (h : SlotMoves a b) (x : Bell) : SlotMoves (a.withBell x) (b.withBell x) := by
  refine ⟨?_, ⟨fun g => ?_⟩⟩
  · have e := h.rest
    rw [e]
    rfl
  · have same := h.ports.port g
    cases g <;> exact same

/-! What every slot brings (R69, R177, R363, R541, R543). -/

theorem unitTick_moves : SlotMoves s s.unitTick := by
  unfold State.unitTick
  exact .trans .withBenches .withNet

/-- Errors that a checker counts on each lane. -/
theorem laneErrors_moves (m : SlotMoves a b) (reg : Nat → Nat) (lanes : List Nat) :
    SlotMoves a (lanes.foldl (fun s i => s.draw.2.addReg (reg i) (s.draw.1.toNat % 1025)) b) :=
  m.trans (.foldl (fun _ _ => .trans .withFree .withRegs) _ _)

theorem prbsPort_moves : SlotMoves s s.prbsPort := by
  unfold State.prbsPort
  dsimp only
  split
  · exact .refl s
  · refine SlotMoves.trans (b := s.draw.2) .withFree ?_
    split
    · exact .withTest
    · split
      · exact laneErrors_moves .add64 Reg.testLbErr _
      · refine .trans (.trans (.trans ?_ .add64) .addReg) .addReg
        exact laneErrors_moves .add64 Reg.testLbErr _

theorem prbsHost_moves : SlotMoves s s.prbsHost := by
  unfold State.prbsHost
  dsimp only
  split
  · exact .refl s
  · refine SlotMoves.trans (b := s.draw.2) .withFree ?_
    split
    · exact .withTest
    · exact laneErrors_moves .add64 Reg.testHlbErr _

theorem slotBefore_moves : SlotMoves s s.slotBefore := by
  unfold State.slotBefore State.shaperTick
  exact ((unitTick_moves.trans prbsPort_moves).trans prbsHost_moves).trans .withSw

theorem traceEv_moves {src unit : Nat} {anyUnit : Bool} {data : Bytes} : SlotMoves s (s.traceEv src unit anyUnit data) := by
  unfold State.traceEv
  refine .foldl (fun u k => ?_) _ _
  unfold traceInto
  dsimp only
  split
  · exact .withTest
  · exact .refl u

theorem sendSlot_moves : SlotMoves s s.sendSlot := by
  unfold State.sendSlot
  refine SlotMoves.trans ?_ (.foldl (fun _ _ => traceEv_moves) _ _)
  generalize (if s.tt.active then s.tt.overlap1 else s.tt.overlap0) = seen
  split
  · refine SlotMoves.trans ?_ .raise
    exact .withTt
  · exact .refl s

/-- The first slot of a period changes the bell and the gates. -/
theorem periodStart_moves (s : State) : ∃ x : Bell, SlotMoves (s.withBell x) s.periodStart ∧ x.now = s.nextPeriod.1
    ∧ x.len = s.nextPeriod.2 ∧ x.ticks = s.bell.ticks + 1 := by
  unfold State.periodStart State.becomeMaster
  dsimp only
  split
  · rw [setLock_locked]
    exact ⟨_, ⟨rfl, .of_hosts rfl rfl⟩, rfl, rfl, rfl⟩
  · exact ⟨_, ⟨rfl, .of_hosts rfl rfl⟩, rfl, rfl, rfl⟩

/-- BELL_SLOT_ADVANCE moves the bell on by a slot; then a reset that is due is performed (R35, R36, R528). -/
theorem exec_bellSlotAdvance (good : s.boot.auxGood = true) : ∃ (x : Bell) (u : State), exec .bellSlotAdvance s = .next u.resetDue
    ∧ SlotMoves (s.withBell x) u ∧ x.ticks = s.bell.ticks + 1
    ∧ (s.bell.now.slot ≠ 255 → x.now = { s.bell.now with slot := s.bell.now.slot + 1 } ∧ x.len = s.bell.len)
    ∧ (s.bell.now.slot = 255 → x.now = s.nextPeriod.1 ∧ x.len = s.nextPeriod.2) := by
  have before := slotBefore_moves (s := s)
  have run : exec .bellSlotAdvance s = if s.slotBefore.bell.now.slot == 255 then .next s.slotBefore.periodStart.slotAfter
      else .next (s.slotBefore.withBell { s.slotBefore.bell with
        now := { s.slotBefore.bell.now with slot := s.slotBefore.bell.now.slot + 1 }
        ticks := s.slotBefore.bell.ticks + 1 }).slotAfter := if_neg (by simp [good])
  rw [run, before.bell]
  by_cases last : s.bell.now.slot = 255
  · obtain ⟨x, moves, now, len, ticks⟩ := periodStart_moves s.slotBefore
    have next : s.slotBefore.nextPeriod = s.nextPeriod := by rw [State.nextPeriod, before.bell]; rfl
    rw [next] at now len
    rw [before.bell] at ticks
    exact ⟨x, _, if_pos (by simp [last]), ((before.withBell x).trans moves).trans sendSlot_moves, ticks,
      fun e => absurd last e, fun _ => ⟨now, len⟩⟩
  · exact ⟨_, _, if_neg (by simpa using last), (before.withBell _).trans sendSlot_moves, rfl, fun _ => ⟨rfl, rfl⟩,
      fun e => absurd e last⟩

theorem resetDue_none (none : s.boot.pendReset = none) : s.resetDue = s := by rw [State.resetDue, none]

/-- The period after one within the term, and after the last (R35). -/
theorem addPeriods_one {len : Nat} {term : BitVec 40} {period : BitVec 16} :
    (period.toNat + 1 < len → addPeriods len term period 1 = (term, period + 1))
    ∧ (period.toNat + 1 = len → addPeriods len term period 1 = (term + 1, 0)) := by
  refine ⟨fun within => ?_, fun last => ?_⟩
  · simp only [addPeriods, Nat.div_eq_of_lt within, Nat.mod_eq_of_lt within, Nat.add_zero, BitVec.ofNat_toNat, BitVec.setWidth_eq,
      Prod.mk.injEq, true_and]
    exact BitVec.eq_of_toNat_eq (by simp)
  · subst last
    simp only [addPeriods, Nat.div_self (Nat.succ_pos _), Nat.mod_self, Prod.mk.injEq]
    exact ⟨BitVec.eq_of_toNat_eq (by simp), rfl⟩

/-- Settles O11. -/
theorem slotAdvance : Obligations.SlotAdvance := by
  intro s good noReset noJump
  obtain ⟨x, u, run, moves, ticks, within, boundary⟩ := exec_bellSlotAdvance good
  have next : s.nextPeriod = (⟨(addPeriods s.bell.len s.bell.now.term s.bell.now.period 1).1,
      (addPeriods s.bell.len s.bell.now.term s.bell.now.period 1).2, 0⟩, s.bell.len) := by rw [State.nextPeriod, noJump]
  rw [next] at boundary
  have boot : u.boot = s.boot := moves.boot
  have bell : u.bell = x := moves.bell
  rw [resetDue_none (by rw [boot]; exact noReset)] at run
  have len : x.len = s.bell.len := by
    by_cases last : s.bell.now.slot = 255
    · exact (boundary last).2
    · exact (within last).2
  refine ⟨u, run, fun more => ?_, fun last more => ?_, fun last full => ?_, ?_⟩
  · rw [bell, (within more).1]
  · rw [bell, (boundary last).1, (addPeriods_one).1 more]
  · rw [bell, (boundary last).1, (addPeriods_one).2 full]
  · rw [bell, moves.rest]
    exact ⟨len, ticks, rfl, rfl, rfl, rfl, rfl, rfl, rfl, rfl, rfl, rfl⟩

end Sys2Proof.Machine

/-! ## What the bell sends (R38, R39, R45, R51) -/
namespace Sys2Proof.Machine

variable {s : State}

theorem timeLink_setTimeLink_same (s : State) (p : Port) (t : TimeLink) : (s.setTimeLink p t).timeLink p = t :=
  Tab.get_put_same ..

/-- TIMESTAMP_SEND when a timestamp is due (R51). -/
theorem exec_timestampSend {p : Port} (mine : s.timePort = some p ∨ (s.timeLink p).received = true) (up : s.timeLinkUp p = true)
    (due : (s.timeLink p).sent = false ∨ (s.timeLink p).lastSend + 16 ≤ s.bell.bounds) :
    exec (.timestampSend p) s = .next ((s.setTimeLink p { s.timeLink p with lastSend := s.bell.bounds }).setLink p.link
      { s.link p.link with tsDue := true }) := by
  have mine : (s.timePort == some p || (s.timeLink p).received) = true := by rcases mine with e | e <;> simp [e]
  have due : (!(s.timeLink p).sent || decide ((s.timeLink p).lastSend + 16 ≤ s.bell.bounds)) = true := by
    rcases due with e | e <;> simp [e]
  exact if_pos (by rw [mine, up, due]; rfl)

/-- Settles O12: the frame sent is the content built for the own frame, which reads back and verifies. -/
theorem bellFramesSent : Obligations.BellFramesSent := by
  refine ⟨fun s sends unsent start => ?_, fun s changes marker => ?_, fun p s mine up due => ?_⟩
  · have fires : ((s.bell.master || s.bell.election) && !s.bell.sentThis && s.bell.now.slot == 0) = true := by
      rw [sends, unsent, start]; rfl
    refine ⟨bellContent s.ownFrame, if_pos fires, ?_⟩
    rw [bellFields_bellContent, bellContent_crc, bellContent_body]
    exact ⟨rfl, rfl, rfl, rfl, rfl, rfl, rfl, rfl⟩
  · exact if_pos (by rw [marker, bne_iff_ne.2 changes]; rfl)
  · refine ⟨_, exec_timestampSend mine up due, rfl, ?_, ?_, fun l other => ?_, rfl⟩
    · rw [link_setLink_same]
    · exact congrArg TimeLink.lastSend (timeLink_setTimeLink_same ..)
    · rw [link_setLink, if_neg other]
      rfl

end Sys2Proof.Machine

/-! ## What reaches the bell by its ring (R36, R40, R41, R44, R48) -/
namespace Sys2Proof.Machine

variable {a b c s : State}

/-- A frame sent on: nothing changes but what leaves the device, and of the bell whether the frame to come is reported bad. -/
structure SendsOn (a b : State) : Prop where
  rest : b = { a with bell := b.bell, out := b.out }
  bell : b.bell = { a.bell with crcNext := b.bell.crcNext }

theorem SendsOn.rd (h : SendsOn a b) (off : Nat) : b.rd off = a.rd off := by rw [h.rest]; rfl

theorem forwardBell_sendsOn (s : State) (f : BellFrame) (health : BitVec 16) : SendsOn s (s.forwardBell f health) := by
  unfold State.forwardBell
  split <;> exact ⟨rfl, rfl⟩

/-- The bell logic after a bad frame (R41). -/
def Bell.heardBad (b : Bell) : Bell := { b with crcThis := true, goodRun := 0, ownRun := 0, missRun := 0 }

theorem bellBad_sendsOn (s : State) : SendsOn ((s.withBell s.bell.heardBad).raise Reg.bellErr 0) s.bellBad := by
  unfold State.bellBad
  dsimp only
  split
  · exact ⟨rfl, rfl⟩
  · split
    · exact forwardBell_sendsOn ..
    · split <;> exact ⟨rfl, rfl⟩

/-- Following an announcement changes the timetable alone (R75, R78). -/
theorem followAnn_tt (s : State) (x : Option Announce) : s.followAnn x = s.withTt (s.followAnn x).tt := by
  unfold State.followAnn
  split
  · rfl
  · split <;> rfl

/-- The bell logic after a good frame at a member (R41). -/
def Bell.heardGood (b : Bell) (c : BitVec 272) (backup : Bool) : Bell :=
  { b with goodRun := b.goodRun + 1, goodAt := b.bounds, lastGood := some c, health := (bellFields c).health, backup := backup }

/-- The count that a member takes from a frame for the next boundary (R36). -/
def jumpOf (f : BellFrame) : Jump :=
  let next := addPeriods (f.lenM1.toNat + 1) f.term f.period 1
  ⟨next.1, next.2, f.lenM1.toNat + 1⟩

/-- What a good frame brings a member's bell logic (R36, R41, R44): it is heard, and it may give the next count and the lock. -/
def Bell.member (b : Bell) (c : BitVec 272) (backup : Bool) : Bell :=
  let h := b.heardGood c backup
  let f := bellFields c
  if b.lock == .unlocked && 4 ≤ h.goodRun then Bell.locking { h with jump := some (jumpOf f) } .coarse
  else if b.lock == .coarse && !(f.term == b.now.term && f.period == b.now.period) then { h with jump := some (jumpOf f) }
  else h

/-- The registers that show the master's frame (R87). -/
def State.showMaster (s : State) (f : BellFrame) : State :=
  (s.wr Reg.bellMaster ((0 : BitVec 8) ++ f.masterPrio ++ (0 : BitVec 4) ++ f.masterSw)).wr Reg.bellHops (f.hops.setWidth 32)

/-- A member's own number stands as the backup's in a frame that names one (R49). -/
def State.namedBackup (s : State) (f : BellFrame) : Bool := f.backupSw == s.swNum && f.backupPrio != 0xFF

section Member
variable {b : Bell} {c : BitVec 272} {backup : Bool}

/-- The fourth good frame in a row in UNLOCKED (R44). -/
theorem member_takes (fires : (b.lock == .unlocked && decide (4 ≤ b.goodRun + 1)) = true) :
    b.member c backup = Bell.locking { b.heardGood c backup with jump := some (jumpOf (bellFields c)) } .coarse := if_pos fires

/-- In COARSE a frame with another count than the own one (R36). -/
theorem member_follows (stays : ¬ (b.lock == .unlocked && decide (4 ≤ b.goodRun + 1)) = true)
    (moved : (b.lock == .coarse && !((bellFields c).term == b.now.term && (bellFields c).period == b.now.period)) = true) :
    b.member c backup = { b.heardGood c backup with jump := some (jumpOf (bellFields c)) } := (if_neg stays).trans (if_pos moved)

theorem member_keeps (stays : ¬ (b.lock == .unlocked && decide (4 ≤ b.goodRun + 1)) = true)
    (same : ¬ (b.lock == .coarse && !((bellFields c).term == b.now.term && (bellFields c).period == b.now.period)) = true) :
    b.member c backup = b.heardGood c backup := (if_neg stays).trans (if_neg same)

theorem member_fields (b : Bell) (c : BitVec 272) (backup : Bool) : (b.member c backup).goodRun = b.goodRun + 1
    ∧ (b.member c backup).goodAt = b.bounds ∧ (b.member c backup).health = (bellFields c).health
    ∧ (b.member c backup).now = b.now := by
  unfold Bell.member
  dsimp only
  split
  · exact ⟨rfl, rfl, rfl, rfl⟩
  · split <;> exact ⟨rfl, rfl, rfl, rfl⟩

theorem member_coarse (unlocked : b.lock = .unlocked) (run : 3 ≤ b.goodRun) :
    b.member c backup = Bell.locking { b.heardGood c backup with jump := some (jumpOf (bellFields c)) } .coarse :=
  member_takes (Bool.and_eq_true_iff.2 ⟨beq_iff_eq.2 unlocked, decide_eq_true (Nat.succ_le_succ run)⟩)

theorem member_unlocked (unlocked : b.lock = .unlocked) (run : b.goodRun < 3) : b.member c backup = b.heardGood c backup :=
  member_keeps (by simp; omega) (by simp [unlocked])

end Member

theorem bellMember_eq (s : State) (c : BitVec 272) : s.bellMember c = (((s.withBell (s.bell.member c (s.namedBackup
    (bellFields c)))).showMaster (bellFields c)).followAnn (annOf (bellFields c))).forwardBell (bellFields c)
      (bellFields c).health := by
  refine congrArg (fun u : State => (u.followAnn (annOf (bellFields c))).forwardBell (bellFields c) (bellFields c).health) ?_
  by_cases fires : (s.bell.lock == .unlocked && decide (4 ≤ s.bell.goodRun + 1)) = true
  · have unlocked : s.bell.lock = .unlocked := beq_iff_eq.1 (Bool.and_eq_true_iff.1 fires).1
    rw [member_takes fires]
    exact (if_pos fires).trans (setLock_silent (congrArg (losesLock · .coarse) unlocked))
  · by_cases moved : (s.bell.lock == .coarse && !((bellFields c).term == s.bell.now.term && (bellFields c).period ==
        s.bell.now.period)) = true
    · rw [member_follows fires moved]
      exact (if_neg fires).trans (if_pos moved)
    · rw [member_keeps fires moved]
      exact (if_neg fires).trans (if_neg moved)

/-- A good frame at a member changes the bell, the timetable, registers and what leaves the device. -/
theorem bellMember_bell (s : State) (c : BitVec 272) : ∃ backup next,
    (s.bellMember c).bell = { s.bell.member c backup with crcNext := next }
    ∧ s.bellMember c = { s with bell := (s.bellMember c).bell, tt := (s.bellMember c).tt, regs := (s.bellMember c).regs,
                                out := (s.bellMember c).out } := by
  have sends := forwardBell_sendsOn (((s.withBell (s.bell.member c (s.namedBackup (bellFields c)))).showMaster
    (bellFields c)).followAnn (annOf (bellFields c))) (bellFields c) (bellFields c).health
  rw [← bellMember_eq] at sends
  have rest := sends.rest
  have bell := sends.bell
  rw [followAnn_tt] at rest bell
  refine ⟨_, _, bell, ?_⟩
  rw [rest]
  rfl

/-- A good frame once heard: the marker is tracked (R41, R45). -/
def Bell.tracking (b : Bell) : Bell := { b with tracked := true, missRun := 0 }

theorem exec_bellFrameReceive {c : BitVec 272} (good : s.boot.auxGood = true) : 
    (bellGood c = false → exec (.bellFrameReceive c) s = .next s.bellBad)
    ∧ (bellGood c = true → s.bell.master = false → s.bell.election = false →
        exec (.bellFrameReceive c) s = .next ((s.withBell s.bell.tracking).bellMember c))
    ∧ (bellGood c = true → s.bell.election = true → (bellFields c).masterSw = s.swNum →
        exec (.bellFrameReceive c) s = .next ((s.withBell s.bell.tracking).bellOwn c)) := by
  have on : ¬ (!s.boot.auxGood) = true := by simp [good]
  refine ⟨fun bad => (if_neg on).trans (if_pos (by simp [bad])), fun sound member elects => ?_, fun sound elects own => ?_⟩
  · have receives : ∀ x, ¬ ((s.bell.master || s.bell.election) && x) = true := fun x => by simp [member, elects]
    refine (if_neg on).trans ((if_neg (by simp [sound])).trans ((if_neg (receives _)).trans ((if_neg (receives _)).trans ?_)))
    exact (if_neg (show ¬ s.bell.election = true by simp [elects])).trans (if_neg (show ¬ s.bell.master = true by simp [member]))
  · have sends : ((s.bell.master || s.bell.election) && (bellFields c).masterSw == s.swNum) = true := by simp [elects, own]
    exact (if_neg on).trans ((if_neg (by simp [sound])).trans (if_pos sends))

/-- The bell logic of a candidate whose own frame has returned (R48). -/
def Bell.heardOwn (b : Bell) (c : BitVec 272) : Bell :=
  { b with ownRun := b.ownRun + 1, goodAt := b.bounds, health := (bellFields c).health }

/-- The fourth own frame that returns to a candidate (R48): nothing changes but the bell and BELL_HOPS. -/
theorem bellOwn_wins {c : BitVec 272} (elects : s.bell.election = true) (run : 3 ≤ s.bell.ownRun) :
    (s.bellOwn c).bell.master = true ∧ (s.bellOwn c).bell.election = false ∧ (s.bellOwn c).bell.lock = .locked
    ∧ RegsOnly [Reg.bellHops] (s.withBell (s.bellOwn c).bell) (s.bellOwn c) := by
  have own : s.bellOwn c = ((s.withBell (s.bell.heardOwn c)).wr Reg.bellHops ((bellFields c).hops.setWidth 32)).winElection :=
    (if_pos elects).trans (if_pos (Nat.succ_le_succ run))
  obtain ⟨rest, master, election, lock, -⟩ :=
    winElection_bell ((s.withBell (s.bell.heardOwn c)).wr Reg.bellHops ((bellFields c).hops.setWidth 32))
  rw [← own] at rest master election lock
  refine ⟨master, election, lock, ?_⟩
  have wrote := RegsOnly.wr (s := s.withBell (s.bellOwn c).bell) (v := (bellFields c).hops.setWidth 32)
    (List.mem_singleton_self Reg.bellHops)
  exact rest ▸ wrote

/-- Settles O13. -/
theorem bellFrameReceived : Obligations.BellFrameReceived := by
  refine ⟨fun c s good bad => ?_, fun c s good sound member elects => ?_, fun c s good sound elects own run => ?_⟩
  · have sends := bellBad_sendsOn s
    have raised := raiseBell_changes (s.withBell s.bell.heardBad) 0
    refine ⟨_, (exec_bellFrameReceive good).1 bad, ?_⟩
    rw [sends.rd, sends.bell, sends.rest, raised.bell, raised.rest]
    exact ⟨raiseBell_sets _ (by decide), rfl, rfl, rfl, rfl, rfl, rfl⟩
  · obtain ⟨backup, next, bell, rest⟩ := bellMember_bell (s.withBell s.bell.tracking) c
    obtain ⟨goodRun, goodAt, health, now⟩ := member_fields s.bell.tracking c backup
    refine ⟨_, (exec_bellFrameReceive good).2.1 sound member elects, ?_⟩
    have pool := congrArg State.pool rest
    have links := congrArg State.links rest
    rw [pool, links, bell]
    refine ⟨goodRun, goodAt, health, fun unlocked more => ?_, fun unlocked few => ?_, now, rfl, rfl⟩
    · have coarse := member_coarse (b := s.bell.tracking) (c := c) (backup := backup) unlocked more
      exact ⟨congrArg Bell.lock coarse, congrArg Bell.jump coarse⟩
    · have stays := member_unlocked (b := s.bell.tracking) (c := c) (backup := backup) unlocked few
      have jump := congrArg Bell.jump stays
      exact ⟨(congrArg Bell.lock stays).trans unlocked, jump⟩
  · exact ⟨_, (exec_bellFrameReceive good).2.2 sound elects own, bellOwn_wins (s := s.withBell s.bell.tracking) elects run⟩

end Sys2Proof.Machine

/-! ## What reaches the bell from its references (R51, R52, R55 to R57) -/
namespace Sys2Proof.Machine

variable {a b c s : State}

/-- The frame of what a reference brings: nothing changes but registers, the timetable, the bell and reports; the count and what the
ports remember of their timestamp exchange stay. -/
structure Disciplines (a b : State) : Prop where
  rest : b = { a with regs := b.regs, tt := b.tt, bell := b.bell, test := b.test, hostA := b.hostA, hostB := b.hostB, out := b.out }
  now : b.bell.now = a.bell.now
  timeLinks : b.bell.timeLinks = a.bell.timeLinks

theorem Disciplines.refl (s : State) : Disciplines s s := ⟨rfl, rfl, rfl⟩

theorem Disciplines.trans (h : Disciplines a b) (g : Disciplines b c) : Disciplines a c := by
  refine ⟨?_, g.now.trans h.now, g.timeLinks.trans h.timeLinks⟩
  have e := g.rest
  rw [h.rest] at e
  exact e

theorem Disciplines.pool (h : Disciplines a b) : b.pool = a.pool := by rw [h.rest]

theorem Disciplines.link (h : Disciplines a b) (l : LinkId) : b.link l = a.link l := by
  have links : b.links = a.links := by rw [h.rest]
  rw [State.link, links]
  rfl

theorem Disciplines.withBell {x : Bell} (now : x.now = s.bell.now) (timeLinks : x.timeLinks = s.bell.timeLinks) :
    Disciplines s (s.withBell x) := ⟨rfl, now, timeLinks⟩

theorem Disciplines.withTt {x : Timetable} : Disciplines s (s.withTt x) := ⟨rfl, rfl, rfl⟩
theorem Disciplines.wr {off : Nat} {v : Word} : Disciplines s (s.wr off v) := ⟨rfl, rfl, rfl⟩

theorem ChangesOnly.disciplines {l : List Nat} (h : ChangesOnly l a b) : Disciplines a b := by
  refine ⟨?_, by rw [h.bell], by rw [h.bell]⟩
  rw [h.rest]

theorem Disciplines.raise {e n : Nat} : Disciplines s (s.raise e n) :=
  (raise_changes (l := recordRegs e) e n [] (fun _ m => m) (fun _ m => absurd m List.not_mem_nil)).disciplines

theorem locking_timeLinks (b : Bell) (new : Lock) : (b.locking new).timeLinks = b.timeLinks := by cases new <;> rfl

theorem Disciplines.setLock {new : Lock} : Disciplines s (s.setLock new) :=
  (Disciplines.withBell (locking_now ..) (locking_timeLinks ..)).trans (setLock_changes s new).disciplines

theorem withdrawAnn_disciplines (s : State) : Disciplines s s.withdrawAnn := Disciplines.withTt.trans .raise

theorem followAnn_disciplines (s : State) (x : Option Announce) : Disciplines s (s.followAnn x) := by
  rw [followAnn_tt]
  exact .withTt

theorem useOffset_disciplines (s : State) (off : Int) : Disciplines s (s.useOffset off) := by
  unfold State.useOffset
  refine Disciplines.trans (b := s.wr Reg.bellOffset (BitVec.ofInt 32 off)) .wr ?_
  generalize s.wr Reg.bellOffset (BitVec.ofInt 32 off) = u
  dsimp only
  split
  · refine Disciplines.trans (b := u.withBell { u.bell with fineRun := u.bell.fineRun + 1 }) (.withBell rfl rfl) ?_
    split
    · exact .setLock
    · split
      · exact .setLock
      · exact .refl _
  · refine Disciplines.trans (b := u.withBell { u.bell with fineRun := 0 }) (.withBell rfl rfl) ?_
    split
    · exact .raise
    · exact .refl _

/-- The master of a ring takes its parent's announcement, and its count when it does not know it or is far off (R36, R77). -/
theorem takesParent_disciplines (p : Prop) [Decidable p] (j : Jump) (x : Option Announce) :
    Disciplines s ((if p then s.withBell { s.bell with jump := some j, parentKnown := true } else s).followAnn x) := by
  refine Disciplines.trans ?_ (followAnn_disciplines ..)
  split
  · exact .withBell rfl rfl
  · exact .refl s

/-- An announcement that a child ring refuses in its sender state is withdrawn (R78). -/
def State.nacked (s : State) (st : BitVec 8) : State :=
  match s.tt.ann with
  | some a => if s.topMaster && !a.committed && bit st 2 then s.withdrawAnn else s
  | none => s

theorem nacked_disciplines (s : State) (st : BitVec 8) : Disciplines s (s.nacked st) := by
  unfold State.nacked
  split
  · split
    · exact withdrawAnn_disciplines s
    · exact .refl s
  · exact .refl s

theorem echo_disciplines (s : State) (echoed : Bool) (off : Int) : Disciplines s (if echoed then s.useOffset off else s) := by
  split
  · exact useOffset_disciplines s off
  · exact .refl s

/-- What holds of each branch's next state holds of the next state. -/
theorem next_ite {p : Prop} [Decidable p] {x y : Host.Outcome State Fault Refusal} {P : State → Prop}
    (yes : p → ∃ t, x = .next t ∧ P t) (no : ¬ p → ∃ t, y = .next t ∧ P t) : ∃ t, (if p then x else y) = .next t ∧ P t := by
  split
  · next h => exact yes h
  · next h => exact no h

/-- What a port keeps of a timestamp that it takes (R51, R52). -/
def TimeLink.heard (t : TimeLink) (pl : Bytes) (rx : Dword) (sub : BitVec 6) : TimeLink :=
  { t with peerTx := BitVec.ofNat 64 (field pl 0 8), peerSub := BitVec.ofNat 8 (field pl 8 1 % 64), rxTime := rx, rxSub := sub,
           received := true, peerState := BitVec.ofNat 8 (field pl 9 1) }

/-- A timestamp whose count is well formed is taken from its link and kept for its port; then it may discipline the bell. -/
theorem exec_timestampReceive {p : Port} {x : BitVec 6} {n : Option SoNotice} {pl : Bytes} {rx : Dword}
    (flit : (s.link p.link).tsIn = some (pl, rx))
    (sound : (BellTime.ofStamp (BitVec.ofNat 64 (field pl 0 8))).period.toNat ≤ field pl 10 2) :
    ∃ t, exec (.timestampReceive p x n) s = .next t
    ∧ Disciplines ((s.setLink p.link { s.link p.link with tsIn := none }).setTimeLink p ((s.timeLink p).heard pl rx x)) t := by
  have formed : ¬ field pl 10 2 + 1 ≤ (BellTime.ofStamp (BitVec.ofNat 64 (field pl 0 8))).period.toNat :=
    Nat.not_le.2 (Nat.lt_succ_of_le sound)
  change ∃ t, execTimestampReceive p x n s = .next t ∧ _
  unfold execTimestampReceive
  rw [flit]
  refine next_ite (fun early => absurd early formed) fun _ => ?_
  have nacked := nacked_disciplines ((s.setLink p.link { s.link p.link with tsIn := none }).setTimeLink p
      ((s.timeLink p).heard pl rx x)) (BitVec.ofNat 8 (field pl 9 1))
  refine next_ite (fun _ => ⟨_, rfl, nacked⟩) fun _ => ?_
  refine next_ite (fun _ => ⟨_, rfl, nacked.trans ((echo_disciplines ..).trans (takesParent_disciplines ..))⟩) fun _ => ?_
  exact ⟨_, rfl, nacked.trans (echo_disciplines ..)⟩

/-- Settles O15. -/
theorem bellReferences : Obligations.BellReferences := by
  refine ⟨fun p x n s pl rx flit sound => ?_, fun s present => ?_, fun _ => rfl, fun s master => ?_⟩
  · obtain ⟨t, run, moves⟩ := exec_timestampReceive (x := x) (n := n) flit sound
    have link : ∀ l, t.link l = (s.setLink p.link { s.link p.link with tsIn := none }).link l := moves.link
    have heard : t.timeLink p = (s.timeLink p).heard pl rx x := by
      rw [State.timeLink, moves.timeLinks]
      exact timeLink_setTimeLink_same ..
    refine ⟨t, run, ?_⟩
    rw [heard, link, link_setLink_same]
    refine ⟨rfl, rfl, rfl, rfl, rfl, rfl, fun l other => ?_, moves.now, moves.pool⟩
    rw [link, link_setLink, if_neg other]
  · by_cases master : s.bell.master = true
    · rw [if_pos master]
      exact ⟨_, (if_pos present).trans (congrArg _ (if_pos master)), fun _ => raiseBell_sets _ (by decide), raiseBell_changes ..⟩
    · rw [if_neg master]
      exact ⟨_, (if_pos present).trans (congrArg _ (if_neg master)), fun yes => absurd yes master, ChangesOnly.refl _⟩
  · exact ⟨_, if_pos master, rd64_wr64 .., wr64_regsOnly (by decide) (by decide)⟩

end Sys2Proof.Machine

/-! ## TT_ARM and TT_CANCEL (R75 to R79) -/
namespace Sys2Proof.Machine

variable {a b c s : State} {h : HostPort} {d : Desc} {off : Nat}

/-- The registers that a completion changes lie in the host blocks. -/
theorem doneRegs_hostBlock {x : Nat} (mem : x ∈ doneRegs h d) : 0x1100000 ≤ x := by
  rcases List.mem_cons.1 mem with rfl | mem
  · exact Nat.le_add_right_of_le (by decide)
  · rw [List.mem_singleton.1 mem, ringTail, ringBase]
    split
    · exact Nat.le_add_right_of_le (Nat.le_add_right_of_le (by decide))
    · simp only [Reg.cqBaseLo]
      omega

/-- A completion leaves every register below the host blocks. -/
theorem done_rd_below (below : off < 0x1100000) {st : Status} {r : Nat} : (s.done h d st r).rd off = s.rd off :=
  (finish_changes h d st.toNat r (fun _ m => m)).reg off (fun mem => absurd (doneRegs_hostBlock mem) (Nat.not_le.2 below))
    (reportReg_below below)

theorem done_tt {st : Status} {r : Nat} : (s.done h d st r).tt = s.tt := (finish_changes h d st.toNat r (fun _ m => m)).tt

theorem setDesc_withTt (s : State) (h : HostPort) (d : Desc) (x : Timetable) :
    (s.setDesc h d).withTt x = (s.withTt x).setDesc h d := by
  cases h <;> rfl

theorem setOwner_withTt (s : State) (x : Timetable) (h : HostPort) : (s.withTt x).setOwner h = s.setOwner h := by
  cases h <;> rfl

/-- Readiness (R75): TT_ARM arms the inactive bank, and away from the master of the top ring it does no more. -/
theorem armTt_member {tag : Word} {len : Nat} {at_ : BellTime} (member : s.topMaster = false) :
    s.armTt tag len at_ = (s.withTt { s.tt with armed := some (tag, len) }, 0) :=
  if_pos (show (!s.topMaster) = true by rw [member]; rfl)

/-- The master of the top ring announces at the effective point, unless an announcement is committed (R76). -/
theorem armTt_announces {tag : Word} {len : Nat} {at_ : BellTime} (top : s.topMaster = true)
    (none : ∀ x, s.tt.ann = some x → x.committed = false) :
    s.armTt tag len at_ =
      (s.withTt { s.tt with armed := some (tag, len), ann := some ⟨tag, len, (s.effectivePoint len at_.term at_.period).1,
        (s.effectivePoint len at_.term at_.period).2, false⟩ },
       (BellTime.at0 (s.effectivePoint len at_.term at_.period).1 (s.effectivePoint len at_.term at_.period).2).stamp.toNat) := by
  refine (if_neg (show ¬ (!s.topMaster) = true by rw [top]; nofun)).trans ?_
  cases ann : s.tt.ann with
  | none =>
    simp only [State.withTt_tt, ann]
    rfl
  | some x =>
    simp only [State.withTt_tt, ann, none x ann]
    rfl

/-- Past the commit point the announcement stands (R76). -/
theorem armTt_committed {tag : Word} {len : Nat} {at_ : BellTime} {x : Announce} (top : s.topMaster = true)
    (ann : s.tt.ann = some x) (committed : x.committed = true) :
    s.armTt tag len at_ = (s.withTt { s.tt with armed := some (tag, len) }, pointStamp x.term x.period) := by
  refine (if_neg (show ¬ (!s.topMaster) = true by rw [top]; nofun)).trans ?_
  simp only [State.withTt_tt, ann, committed]
  rfl

/-- TT_ARM changes the timetable alone: of it, what is armed and announced. -/
theorem armTt_tt (s : State) (tag : Word) (len : Nat) (at_ : BellTime) : ∃ ann r, s.armTt tag len at_ =
    (s.withTt { s.tt with armed := some (tag, len), ann := ann }, r) := by
  unfold State.armTt
  dsimp only
  split
  · exact ⟨_, _, rfl⟩
  · split
    · split <;> exact ⟨_, _, rfl⟩
    · exact ⟨_, _, rfl⟩

theorem setDesc_armTt (s : State) (h : HostPort) (d : Desc) (tag : Word) (len : Nat) (at_ : BellTime) :
    (s.setDesc h d).armTt tag len at_ = ((s.armTt tag len at_).1.setDesc h d, (s.armTt tag len at_).2) := by
  have top : (s.setDesc h d).topMaster = s.topMaster := by cases h <;> rfl
  have ann : (s.setDesc h d).tt.ann = s.tt.ann := by cases h <;> rfl
  by_cases master : s.topMaster = true
  · by_cases free : ∀ x, s.tt.ann = some x → x.committed = false
    · rw [armTt_announces master free, armTt_announces (top.trans master) (by rw [ann]; exact free)]
      cases h <;> rfl
    · obtain ⟨x, named, late⟩ := not_forall₂.1 free
      have committed : x.committed = true := by simpa using late
      rw [armTt_committed master named committed, armTt_committed (top.trans master) (ann.trans named) committed]
      cases h <;> rfl
  · rw [armTt_member (Bool.eq_false_iff.2 master), armTt_member (Bool.eq_false_iff.2 (top ▸ master))]
    cases h <;> rfl

/-- TT_ARM with a term length in range (R75, R76). -/
theorem exec_ttArm {q : RingId} (starts : Starts s h q 0x09 d) (some : dField d 20 4 ≠ 0) (fits : dField d 20 4 ≤ 65536) :
    exec (.ttArm h q) s = .next ((((s.armTt (BitVec.ofNat 32 (dField d 16 4)) (dField d 20 4) (dPoint d 24)).1.setDesc h
      (startedDesc s d)).done h (startedDesc s d) St.ok
      (s.armTt (BitVec.ofNat 32 (dField d 16 4)) (dField d 20 4) (dPoint d 24)).2) ) := by
  have ok : ¬ (decide (dField d 20 4 = 0) || decide (65536 < dField d 20 4)) = true := by simp [some, fits]
  refine congrArg _ ((withDesc_starts starts.1 starts.2).trans ((if_neg ok).trans ?_))
  simp only [setDesc_armTt]
  rfl

/-- TT_CANCEL with no announcement of its own that is committed disarms; an own announcement it withdraws (R79). -/
theorem cancelTt_cases (s : State) :
    (s.cancelTt = s.disarm ∧ (s.topMaster = true → s.tt.ann = none))
    ∨ (s.cancelTt = s.withdrawAnn ∧ s.topMaster = true ∧ ∃ x, s.tt.ann = some x ∧ x.committed = false)
    ∨ (s.cancelTt = s.raise Reg.ttErr 6 ∧ s.topMaster = true ∧ ∃ x, s.tt.ann = some x ∧ x.committed = true) := by
  unfold State.cancelTt
  split
  · next x ann =>
    split
    · next top =>
      split
      · next committed => exact .inr (.inr ⟨rfl, top, x, ann, committed⟩)
      · next open_ => exact .inr (.inl ⟨rfl, top, x, ann, Bool.eq_false_iff.2 open_⟩)
    · next member => exact .inl ⟨rfl, fun top => absurd top member⟩
  · next ann => exact .inl ⟨rfl, fun _ => ann⟩

theorem raise_ports (s : State) (e n : Nat) : PortsSame s (s.raise e n) := raiseCap_ports ..

theorem raiseTt_changes (s : State) (n : Nat) : ChangesOnly (recordRegs Reg.ttErr) s (s.raise Reg.ttErr n) :=
  raise_changes _ _ _ (fun _ m => m) (fun _ m => absurd m List.not_mem_nil)

theorem raiseTt_sets (s : State) {n : Nat} (lt : n < 32) : bit ((s.raise Reg.ttErr n).rd Reg.ttErr) n = true :=
  raiseCap_sets _ _ _ _ lt (by decide)

/-- TT_CANCEL changes the timetable, and with a report the record of TT_ERR (R79). -/
theorem cancelTt_changes (s : State) : ChangesOnly (recordRegs Reg.ttErr) (s.withTt s.cancelTt.tt) s.cancelTt := by
  rcases cancelTt_cases s with ⟨e, -⟩ | ⟨e, -⟩ | ⟨e, -⟩ <;> rw [e]
  · exact .refl _
  · have changes := raiseTt_changes (s.withTt { s.tt with ann := none, armed := none }) 0
    have tt : s.withdrawAnn.tt = { s.tt with ann := none, armed := none } := changes.tt
    rw [tt]
    exact changes
  · rw [(raiseTt_changes s 6).tt]
    exact raiseTt_changes s 6

/-- What TT_CANCEL leaves (R79): disarmed, the own announcement withdrawn with SO_ABORTED, or past its commit point kept. -/
theorem cancelTt_outcome (s : State) :
    ((∀ x, s.tt.ann = some x → s.topMaster = true → x.committed = false) → s.cancelTt.tt.armed = none)
    ∧ (s.topMaster = true → ∀ x, s.tt.ann = some x → x.committed = false →
        s.cancelTt.tt.ann = none ∧ bit (s.cancelTt.rd Reg.ttErr) 0 = true)
    ∧ (s.topMaster = true → ∀ x, s.tt.ann = some x → x.committed = true →
        s.cancelTt.tt = s.tt ∧ bit (s.cancelTt.rd Reg.ttErr) 6 = true) := by
  rcases cancelTt_cases s with ⟨e, unannounced⟩ | ⟨e, top, x, ann, open_⟩ | ⟨e, top, x, ann, committed⟩ <;> rw [e]
  · refine ⟨fun _ => rfl, fun top x ann => ?_, fun top x ann => ?_⟩ <;> exact nomatch (unannounced top).symm.trans ann
  · have tt : s.withdrawAnn.tt = { s.tt with ann := none, armed := none } := (raiseTt_changes ..).tt
    rw [tt]
    refine ⟨fun _ => rfl, fun _ _ _ _ => ⟨rfl, raiseTt_sets _ (by decide)⟩, fun _ y other late => ?_⟩
    rw [Option.some.inj (ann.symm.trans other), late] at open_
    exact nomatch open_
  · refine ⟨fun stays => ?_, fun _ y other early => ?_, fun _ _ _ _ => ⟨(raiseTt_changes ..).tt, raiseTt_sets _ (by decide)⟩⟩
    · exact nomatch committed.symm.trans (stays x ann top)
    · rw [Option.some.inj (ann.symm.trans other), early] at committed
      exact nomatch committed

theorem cancelTt_ports (s : State) : PortsSame s s.cancelTt := by
  rcases cancelTt_cases s with ⟨e, -⟩ | ⟨e, -⟩ | ⟨e, -⟩ <;> rw [e]
  · exact .of_hosts rfl rfl
  · exact PortsSame.trans (b := s.withTt { s.tt with ann := none, armed := none }) (.of_hosts rfl rfl) (raise_ports ..)
  · exact raise_ports ..

/-- A started descriptor that changes the timetable and completes at once. -/
theorem withTt_done (s : State) (h : HostPort) (d : Desc) (x : Timetable) (st : Status) (r : Nat) :
    (((s.withTt x).setDesc h d).done h d st r).tt = x
    ∧ ChangesOnly (doneRegs h d) (s.withTt x) (((s.withTt x).setDesc h d).done h d st r)
    ∧ Completes h d st.toNat r s (((s.withTt x).setDesc h d).done h d st r) :=
  ⟨setDesc_done_changes.tt, setDesc_done_changes, setDesc_done_completes.of_setOwner (setOwner_withTt s x h)⟩

/-- TT_CANCEL (R79): the cancel, then the completion. -/
theorem exec_ttCancel {q : RingId} (starts : Starts s h q 0x0A d) :
    exec (.ttCancel h q) s = .next ((s.setDesc h (startedDesc s d)).cancelTt.done h (startedDesc s d) St.ok 0) :=
  congrArg _ (withDesc_starts starts.1 starts.2)

/-- Settles O18. -/
theorem timetableArmed : Obligations.TimetableArmed := by
  refine ⟨fun h q s d starts some fits => ?_, fun h q s d starts => ?_⟩
  · have run := exec_ttArm starts some fits
    obtain ⟨ann, r, arms⟩ := armTt_tt s (BitVec.ofNat 32 (dField d 16 4)) (dField d 20 4) (dPoint d 24)
    rw [arms] at run
    obtain ⟨tt, changes, completes⟩ := withTt_done s h (startedDesc s d) { s.tt with armed := _, ann := ann } St.ok r
    refine ⟨_, run, ?_⟩
    rw [tt]
    refine ⟨changes, rfl, rfl, rfl, rfl, fun member => ?_, fun top open_ => ?_⟩
    · obtain ⟨armed, rfl⟩ := Prod.mk.inj (arms.symm.trans (armTt_member member))
      exact ⟨congrArg (·.tt.ann) armed, completes⟩
    · obtain ⟨armed, rfl⟩ := Prod.mk.inj (arms.symm.trans (armTt_announces top open_))
      exact ⟨congrArg (·.tt.ann) armed, completes⟩
  · have run := exec_ttCancel starts
    have flight := setDesc_changes (s := s) (l := []) h (startedDesc s d)
    have ttErr : ∀ {u : State}, (u.done h (startedDesc s d) St.ok 0).rd Reg.ttErr = u.rd Reg.ttErr := done_rd_below (by decide)
    have top : (s.setDesc h (startedDesc s d)).topMaster = s.topMaster := by cases h <;> rfl
    have own := setOwner_setDesc s h (startedDesc s d)
    have tt := flight.tt
    have cancels := (cancelTt_changes (s.setDesc h (startedDesc s d))).mono
      (fun _ mem => List.mem_append_right (doneRegs h d) mem)
    have started : ChangesOnly (doneRegs h d ++ recordRegs Reg.ttErr) (s.withTt (s.setDesc h (startedDesc s d)).cancelTt.tt)
        ((s.setDesc h (startedDesc s d)).withTt (s.setDesc h (startedDesc s d)).cancelTt.tt) := by
      rw [setDesc_withTt]
      exact setDesc_changes ..
    have outcome := cancelTt_outcome (s.setDesc h (startedDesc s d))
    have ports := (cancelTt_ports (s.setDesc h (startedDesc s d))).setOwner h
    generalize s.setDesc h (startedDesc s d) = u at *
    refine ⟨_, run, (finish_completes ..).of_setOwner (ports.trans own), ?_, ?_⟩
    · rw [done_tt]
      exact (started.trans cancels).trans (finish_changes h _ _ _ (fun _ mem => List.mem_append_left _ mem))
    · rw [done_tt, ttErr, ← tt, ← top]
      exact outcome

end Sys2Proof.Machine

/-! ## The timetable's own events (R69, R78, R80, R81, R83) -/
namespace Sys2Proof.Machine

variable {a b c s : State}

/-! The switch-over. -/

/-- The frame of what refusing waiting requests changes (R71): registers, the waiting activities, and reports. -/
def RefusesWaiting (a b : State) : Prop :=
  b = { a with regs := b.regs, fault := b.fault, test := b.test, hostA := b.hostA, hostB := b.hostB, out := b.out }

theorem RefusesWaiting.refl (s : State) : RefusesWaiting s s := rfl

theorem RefusesWaiting.trans (h : RefusesWaiting a b) (g : RefusesWaiting b c) : RefusesWaiting a c := by
  have e : c = _ := g
  rw [show b = _ from h] at e
  exact e

theorem RefusesWaiting.withFault {x : Faults} : RefusesWaiting s (s.withFault x) := rfl

theorem ChangesOnly.pool {l : List Nat} (h : ChangesOnly l a b) : b.pool = a.pool := by rw [h.rest]
theorem ChangesOnly.links {l : List Nat} (h : ChangesOnly l a b) : b.links = a.links := by rw [h.rest]

theorem ChangesOnly.refusesWaiting {l : List Nat} (h : ChangesOnly l a b) : RefusesWaiting a b := by
  have e := h.rest
  unfold RefusesWaiting
  rw [e]

theorem finishFor_refusesWaiting (s : State) (desc : Option (HostPort × Nat)) (st : BitVec 8) (r : Nat) :
    RefusesWaiting s (s.finishFor desc st r) := by
  unfold State.finishFor
  split
  · exact .refl s
  · next h id =>
    split
    · next d _ =>
      have changes : ChangesOnly (doneRegs h d) s (s.finish h d st.toNat r) := finish_changes h d st.toNat r (fun _ m => m)
      exact changes.refusesWaiting
    · exact .refl s

theorem RefusesWaiting.foldl {β : Type} {f : State → β → State} (each : ∀ u x, RefusesWaiting u (f u x)) (xs : List β) (s : State) :
    RefusesWaiting s (xs.foldl f s) := by
  induction xs generalizing s with
  | nil => exact .refl s
  | cons x xs ih => exact (each s x).trans (ih _)

theorem dropNoRecess_refusesWaiting (s : State) : RefusesWaiting s s.dropNoRecess := by
  unfold State.dropNoRecess
  refine .foldl (fun u x => ?_) _ _
  exact (RefusesWaiting.withFault.trans (raiseTt_changes ..).refusesWaiting).trans (finishFor_refusesWaiting ..)

/-- A switch-over that is taken makes the armed bank the active one (R80). -/
theorem activateTt_tt (s : State) (x : Announce) : (s.activateTt x).bell = { s.bell with len := x.len }
    ∧ (s.activateTt x).pool = s.pool ∧ (s.activateTt x).links = s.links
    ∧ ∃ first second, (s.activateTt x).tt = 
      { s.tt with active := !s.tt.active, activeTag := x.tag, activeLen := x.len, armed := none, ann := none, missed := false,
                  overlap0 := first, overlap1 := second, soAt := s.bell.bounds } := by
  unfold State.activateTt
  dsimp only
  rw [dropNoRecess_refusesWaiting]
  exact ⟨rfl, rfl, rfl, _, _, rfl⟩

/-- One that is missed raises SO_MISSED and its bit of the bell's record, and runs at the announced length (R80, R83). -/
def State.missTt (s : State) (x : Announce) : State :=
  ((((s.withTt { s.tt with missed := true, ann := none }).withBell { s.bell with len := x.len }).wr Reg.scTermLength
    (BitVec.ofNat 32 x.len)).raise Reg.ttErr 1).raise Reg.bellErr 6

theorem missTt_sets (s : State) (x : Announce) : bit ((s.missTt x).rd Reg.ttErr) 1 = true ∧ bit ((s.missTt x).rd Reg.bellErr) 6 = true := by
  refine ⟨?_, raiseBell_sets _ (by decide)⟩
  rw [State.missTt, (raiseBell_changes ..).reg Reg.ttErr (by decide) (by decide)]
  exact raiseTt_sets _ (by decide)

/-- The registers that a missed switch-over writes. -/
def missRegs : List Nat := Reg.scTermLength :: recordRegs Reg.ttErr ++ recordRegs Reg.bellErr

theorem missTt_changes (s : State) (x : Announce) : ChangesOnly missRegs
    ((s.withTt { s.tt with missed := true, ann := none }).withBell { s.bell with len := x.len }) (s.missTt x) := by
  have wrote : ChangesOnly missRegs ((s.withTt { s.tt with missed := true, ann := none }).withBell { s.bell with len := x.len }) _ :=
    .wr (off := Reg.scTermLength) (v := BitVec.ofNat 32 x.len) (.inl (by decide))
  refine (wrote.trans ?_).trans ((raiseBell_changes _ 6).mono (by decide))
  exact (raiseTt_changes _ 1).mono (by decide)

theorem exec_timetableSwitchOver {x : Announce} (ann : s.tt.ann = some x) (committed : x.committed = true)
    (due : s.reached x.term x.period = true) :
    (s.takesOver x = true → exec .timetableSwitchOver s = .next (s.activateTt x))
    ∧ (s.takesOver x = false → exec .timetableSwitchOver s = .next (s.missTt x)) := by
  have now : ¬ (!x.committed || !s.reached x.term x.period) = true := by simp [committed, due]
  have run : exec .timetableSwitchOver s = if s.takesOver x then .next (s.activateTt x) else .next (s.missTt x) := by
    change execTimetableSwitchOver s = _
    unfold execTimetableSwitchOver
    rw [ann]
    exact if_neg now
  exact ⟨fun yes => run.trans (if_pos yes), fun no => run.trans (if_neg (by simp [no]))⟩

/-! The GATE entries. -/

/-- A GATE entry sets its port's gates (R69). -/
def State.setGate (s : State) (p : Port) (q : Nat × BitVec 128) : State :=
  let s := s.withTt { s.tt with gates := s.tt.gates.put 0xFF p.val (ttGateMask q.2) }
  s.traceEv 0 p.val false (leBytes 4 q.1 ++ leBytes 4 3 ++ leBytes 4 0)

/-- The frame of what the GATE entries of port `p` change: the gates of `p`, and what is traced. -/
structure GatesOf (p : Port) (a b : State) : Prop where
  rest : b = (a.withTt b.tt).withTest b.test
  tt : b.tt = { a.tt with gates := b.tt.gates }
  other : ∀ r, r ≠ p → b.gate r = a.gate r

theorem GatesOf.refl (p : Port) (s : State) : GatesOf p s s := ⟨rfl, rfl, fun _ _ => rfl⟩

theorem GatesOf.trans {p : Port} (h : GatesOf p a b) (g : GatesOf p b c) : GatesOf p a c := by
  refine ⟨?_, ?_, fun r ne => (g.other r ne).trans (h.other r ne)⟩
  · have e := g.rest
    rw [h.rest] at e
    exact e
  · have e := g.tt
    rw [h.tt] at e
    exact e

/-- What only the trace buffers show. -/
theorem traceEv_test (s : State) (src unit : Nat) (anyUnit : Bool) (data : Bytes) :
    ∃ x, s.traceEv src unit anyUnit data = s.withTest x := by
  have into : ∀ (u : State) (k : Nat), ∃ x, traceInto u src unit anyUnit data k = u.withTest x := fun u k => by
    unfold traceInto
    dsimp only
    split
    · exact ⟨_, rfl⟩
    · exact ⟨u.test, rfl⟩
  unfold State.traceEv
  generalize [0, 1, 2, 3] = ks
  induction ks generalizing s with
  | nil => exact ⟨s.test, rfl⟩
  | cons k ks ih =>
    obtain ⟨x, e⟩ := into s k
    obtain ⟨y, all⟩ := ih (s.withTest x)
    rw [List.foldl_cons, e, all]
    exact ⟨y, rfl⟩

theorem setGate_eq (s : State) (p : Port) (q : Nat × BitVec 128) : ∃ x, s.setGate p q =
    (s.withTt { s.tt with gates := s.tt.gates.put 0xFF p.val (ttGateMask q.2) }).withTest x := traceEv_test ..

theorem setGate_gate (s : State) (p : Port) (q : Nat × BitVec 128) : (s.setGate p q).gate p = ttGateMask q.2 := by
  obtain ⟨x, e⟩ := setGate_eq s p q
  rw [e]
  exact Tab.get_put_same ..

theorem setGate_gates (s : State) (p : Port) (q : Nat × BitVec 128) : GatesOf p s (s.setGate p q) := by
  obtain ⟨x, e⟩ := setGate_eq s p q
  rw [e]
  exact ⟨rfl, rfl, fun r ne => Tab.get_put_other _ _ _ _ (fun e => ne (Fin.ext e))⟩

theorem setGates_gates (p : Port) (es : List (Nat × BitVec 128)) (s : State) : GatesOf p s (es.foldl (·.setGate p ·) s) := by
  induction es generalizing s with
  | nil => exact .refl p s
  | cons e es ih =>
    rw [List.foldl_cons]
    exact (setGate_gates s p e).trans (ih _)

/-- The last entry stands. -/
theorem setGates_last (p : Port) (es : List (Nat × BitVec 128)) (s : State) (q : Nat × BitVec 128) (last : es.getLast? = some q) :
    (es.foldl (·.setGate p ·) s).gate p = ttGateMask q.2 := by
  obtain ⟨before, rfl⟩ := List.getLast?_eq_some_iff.1 last
  rw [List.foldl_append, List.foldl_cons, List.foldl_nil]
  exact setGate_gate ..

/-- Settles O16. -/
theorem timetableCommit : Obligations.TimetableCommit := by
  refine ⟨fun s x ann top lock open_ near => ?_, fun s x ann committed due => ?_, fun p s => ?_⟩
  · have locked : (s.bell.lock == .locked || s.bell.lock == .holdover) = true := by rcases lock with e | e <;> rw [e] <;> rfl
    change execSoCommitPoint s = _
    unfold execSoCommitPoint
    rw [ann]
    exact if_pos (by rw [top, locked, open_, decide_eq_true near]; rfl)
  · obtain ⟨taken, missed⟩ := exec_timetableSwitchOver ann committed due
    cases takes : s.takesOver x
    · have changes := missTt_changes s x
      refine ⟨_, missed takes, ?_⟩
      rw [changes.tt, changes.bell]
      exact ⟨rfl, rfl, nofun, fun _ => ⟨rfl, rfl, missTt_sets s x⟩, rfl, changes.pool, changes.links⟩
    · obtain ⟨bell, pool, links, first, second, tt⟩ := activateTt_tt s x
      refine ⟨_, taken takes, ?_⟩
      rw [tt, bell]
      exact ⟨rfl, rfl, fun _ => ⟨rfl, rfl, rfl, rfl, rfl, rfl, rfl⟩, nofun, rfl, pool, links⟩
  · have gates := setGates_gates p (s.firingNow 0 p.val 3) s
    refine ⟨_, rfl, fun q last => setGates_last p _ s q last, fun none => ?_, gates.other, gates.rest, ?_, ?_⟩
    · rw [none]; rfl
    · exact congrArg (·.bank0) gates.tt
    · exact congrArg (·.bank1) gates.tt

end Sys2Proof.Machine

/-! ## A port that goes down, failback, and the discards (R81, R163 to R166) -/
namespace Sys2Proof.Machine

variable {a b c s t u : State} {l m : List Nat} {e : QEntry} {st : Status}

/-! The frame of what moves frames, where a failover is among it. -/

theorem FabricEffect.trans (h : FabricEffect l a b) (g : FabricEffect l b c) : FabricEffect l a c where
  rest := by
    have e := g.rest
    rw [h.rest] at e
    exact e
  tables := h.tables.trans g.tables
  train := fun k => ⟨(g.train k).1.trans (h.train k).1, (g.train k).2.trans (h.train k).2⟩
  reg := fun off n r => (g.reg off n r).trans (h.reg off n r)

theorem FabricEffect.withSw {x : Switch} : FabricEffect l s (s.withSw x) :=
  ⟨rfl, TablesSame.of_mort rfl, fun _ => ⟨rfl, rfl⟩, fun _ _ _ => rfl⟩

/-! What an answer is routed by. -/

/-- Registers that a completion's way does not look at. -/
def Unrouted (l : List Nat) : Prop := ∀ x ∈ l, (x < 0x700200 ∨ 0x800000 ≤ x) ∧ x ≠ Reg.swIdentity

theorem Unrouted.route (unrouted : Unrouted l) (dest : BitVec 12) :
    Reg.swRoute dest.toNat ∉ l ∧ reportReg (Reg.swRoute dest.toNat) = false := by
  have below : Reg.swRoute dest.toNat < 0x800000 := by have := dest.isLt; simp only [Reg.swRoute]; omega
  have above : 0x700200 ≤ Reg.swRoute dest.toNat := by simp only [Reg.swRoute]; omega
  exact ⟨fun i => by have := (unrouted _ i).1; omega, reportReg_below (by omega)⟩

/-- What moves frames moves none, seen from a state with the same registers. -/
theorem Moves.besides (h : Moves l a b) : Moves [] (a.withRegs b.regs) b :=
  { h with effect := { h.effect with rest := h.effect.rest, tables := ⟨h.effect.tables.jobs, h.effect.tables.addresses,
      h.effect.tables.admission, h.effect.tables.drawers, h.effect.tables.banks⟩, reg := fun _ _ _ => rfl } }

theorem answerable_withRegs {f : Frame} {k : Cls} {r : Tab Word} (identity : (s.withRegs r).rd Reg.swIdentity = s.rd Reg.swIdentity)
    (route : ∀ dest : BitVec 12, (s.withRegs r).rd (Reg.swRoute dest.toNat) = s.rd (Reg.swRoute dest.toNat))
    (able : Answerable s f k) : Answerable (s.withRegs r) f k := by
  have num : (s.withRegs r).swNum = s.swNum := by
    simp only [State.swNum, State.isFabric, State.identity, identity]
    rfl
  have out : (s.withRegs r).routeOut f.srcSwitch k = s.routeOut f.srcSwitch k := by
    unfold State.routeOut State.route
    simp only [route]
    rfl
  rw [Answerable, num, out]
  exact able

theorem Moves.answerable_of (h : Moves l a b) (unrouted : Unrouted l) {f : Frame} {k : Cls} (able : Answerable a f k) :
    Answerable b f k := by
  have kept : ∀ off, off ∉ l → reportReg off = false → (a.withRegs b.regs).rd off = a.rd off := h.effect.reg
  refine (h.besides.mono (List.nil_subset _)).answerable (answerable_withRegs ?_ (fun dest => ?_) able)
  · exact kept _ (fun i => (unrouted _ i).2 rfl) (by decide)
  · exact kept _ (unrouted.route dest).1 (unrouted.route dest).2

/-- Scheduled traffic does not fail over. -/
theorem answerable_withSw {x : Switch} {f : Frame} {k : Cls} (scheduled : k.val < 4) (able : Answerable s f k) :
    Answerable (s.withSw x) f k := by
  have out : (s.withSw x).routeOut f.srcSwitch k = s.routeOut f.srcSwitch k := by
    unfold State.routeOut State.route
    simp only [if_pos scheduled]
    rfl
  rw [Answerable, out]
  exact able

/-- A completion that can be sent is sent, and nothing is counted. -/
theorem complete_answered {k : Fin 12} {cls : Cls} {req : Frame} {data : Bool} {payload : Bytes} {flags : BitVec 8} {unit : BitVec 10}
    (able : Answerable s req cls) : Moves [] s (s.complete k cls req st data payload flags unit) := by
  have dest : (cplFrame s req st data payload flags unit).dest = req.srcSwitch := by simp [cplFrame, Frame.sealed, cplHdr]
  change Moves _ _ (if _ then s.enqueue _ _ _ _ (cplFrame s req st data payload flags unit)
    else s.sendFrameOut k cls (cplFrame s req st data payload flags unit))
  unfold State.sendFrameOut
  rw [dest]
  split
  · exact enqueue_moves
  · split
    · split
      · split
        · exact cplToAgent_moves
        · exact enqueue_moves
      · exact enqueue_moves
    · next elsewhere =>
      split
      · exact enqueue_moves
      · next noRoute =>
        rcases able with here | route
        · exact absurd (beq_iff_eq.2 here) elsewhere
        · rw [noRoute] at route
          exact absurd route (by decide)

theorem refuse_answered {k : Fin 12} {cls : Cls} {req : Frame} (able : Answerable s req cls) :
    Moves [] s (s.refuse k cls req st) := by
  unfold State.refuse
  dsimp only
  split
  · exact addJob_moves.trans (complete_answered (addJob_moves.answerable able))
  · exact complete_answered able

/-! A frame that is discarded. -/

/-- The header of a queued frame, as a frame. -/
def QEntry.head (e : QEntry) : Frame := ⟨e.hdr, [], 0⟩

theorem dropEntry_mort (s : State) (e : QEntry) : (s.dropEntry e).mort = s.mort := by
  unfold State.dropEntry
  dsimp only
  split <;> rfl

theorem dropEntry_queue (s : State) (e : QEntry) : (s.dropEntry e).sw.queue = s.sw.queue.filter (fun x => x.id != e.id) := by
  unfold State.dropEntry
  dsimp only
  split <;> rfl

/-- A completion is only dropped. -/
theorem discardEntry_cpl (cpl : e.head.isCpl = true) : s.discardEntry e st = s.dropEntry e := by
  have cpl : (Frame.mk e.hdr (e.bytes.drop 32) 0).isCpl = true := cpl
  exact if_pos (by rw [cpl]; rfl)

/-- A request that is no message's is refused (R133). -/
theorem discardEntry_request (request : e.head.isCpl = false) (none : ∀ m ∈ s.mort.msgs, m.entry ≠ e.id) :
    s.discardEntry e st = (s.dropEntry e).refuse (inputCluster e.input) e.cls ⟨e.hdr, e.bytes.drop 32, 0⟩ st := by
  have request : (Frame.mk e.hdr (e.bytes.drop 32) 0).isCpl = false := request
  have none : (s.dropEntry e).mort.msgs.any (fun m => m.entry == e.id) = false := by
    rw [dropEntry_mort]
    simpa using none
  exact if_neg (by rw [request, none]; nofun)

theorem discardEntry_routes : Routes s (s.discardEntry e st) := by
  unfold State.discardEntry
  dsimp only
  split
  · exact dropEntry_moves.routes
  · exact refuse_routes.after dropEntry_moves

section Request
variable (request : e.head.isCpl = false) (none : ∀ m ∈ s.mort.msgs, m.entry ≠ e.id) (able : Answerable s e.head e.cls)
include request none able

theorem discardEntry_completed : Completed e.head st [] s (s.discardEntry e st) := by
  have dropped : Moves fabricRegs s (s.dropEntry e) := dropEntry_moves
  rw [discardEntry_request request none]
  exact (refuse_completed (req := ⟨e.hdr, e.bytes.drop 32, 0⟩) (dropped.answerable able)).before dropped.nextId

theorem discardEntry_answered : Moves [] s (s.discardEntry e st) := by
  have dropped : Moves fabricRegs s (s.dropEntry e) := dropEntry_moves
  rw [discardEntry_request request none]
  exact dropEntry_moves.trans (refuse_answered (req := ⟨e.hdr, e.bytes.drop 32, 0⟩) (dropped.answerable able))

end Request

/-- A discard after a report. -/
theorem discard_reported (report : ChangesOnly l s u) (unrouted : Unrouted l) :
    (e.head.isCpl = true → (u.discardEntry e st).sw.queue = s.sw.queue.filter (fun x => x.id != e.id))
    ∧ (e.head.isCpl = false → (∀ m ∈ s.mort.msgs, m.entry ≠ e.id) → Answerable s e.head e.cls →
        Completed e.head st [] s (u.discardEntry e st)) := by
  have mort : u.mort = s.mort := by rw [report.rest]
  have sw : u.sw = s.sw := by rw [report.rest]
  refine ⟨fun cpl => ?_, fun request none able => ?_⟩
  · rw [discardEntry_cpl cpl, dropEntry_queue, sw]
  · refine (discardEntry_completed request (by rw [mort]; exact none) (report.moves.answerable_of unrouted able)).before ?_
    rw [sw]

end Sys2Proof.Machine

/-! ## What the switch core does by itself (R81, R164 to R166) -/
namespace Sys2Proof.Machine

variable {a b s t u : State} {l m : List Nat} {e : QEntry} {p : Port}

/-- A count and its report in SW_ERR. -/
theorem bump_raiseSw_changes {off n i o k : Nat} : ChangesOnly (off :: swErrRegs) s ((s.bump off).raiseSw n i o k) :=
  (ChangesOnly.bump (.inl (List.mem_cons_self ..))).trans (raiseSw_changes (fun _ x => List.mem_cons_of_mem _ x))

theorem bump_raiseSw_counts {off n i o k : Nat} (out : off ∉ swErrRegs) (report : reportReg off = false) :
    Counted off 1 s ((s.bump off).raiseSw n i o k) :=
  (counted_bump s off).within (.refl (l := []) s) (raiseSw_moves (List.Subset.refl _)) List.not_mem_nil out report

/-! Discards (R81, R166). -/

/-- AGE_DISCARD of a frame past its limit (R166). -/
theorem ageDiscard_effect {i : InputId} {o : Port} {k : Cls}
    (run : exec (.ageDiscard i o k) s = .next (((s.bump Reg.swAgeDrop).raiseSw 2 i.val o.val k.val).discardEntry e St.timeout)) :
    ∃ t, exec (.ageDiscard i o k) s = .next t ∧ FabricEffect fabricRegs s t ∧ Counted Reg.swAgeDrop 1 s t
    ∧ bit (t.rd Reg.swErr) 2 = true
    ∧ (e.head.isCpl = true → t.sw.queue = s.sw.queue.filter (fun x => x.id != e.id))
    ∧ (e.head.isCpl = false → (∀ m ∈ s.mort.msgs, m.entry ≠ e.id) → Answerable s e.head e.cls →
        Completed e.head St.timeout [] s t) := by
  have report : ChangesOnly (Reg.swAgeDrop :: swErrRegs) s ((s.bump Reg.swAgeDrop).raiseSw 2 i.val o.val k.val) :=
    bump_raiseSw_changes
  have count : Counted Reg.swAgeDrop 1 s ((s.bump Reg.swAgeDrop).raiseSw 2 i.val o.val k.val) :=
    bump_raiseSw_counts (by decide) (by decide)
  have set : bit (((s.bump Reg.swAgeDrop).raiseSw 2 i.val o.val k.val).rd Reg.swErr) 2 = true := raiseSw_sets (by decide)
  generalize (s.bump Reg.swAgeDrop).raiseSw 2 i.val o.val k.val = u at *
  have routes : Routes u (u.discardEntry e St.timeout) := discardEntry_routes
  have ends : Moves routeRegs u (u.discardEntry e St.timeout) := routes.moves (List.Subset.refl _)
  obtain ⟨dropped, completed⟩ := discard_reported (e := e) (st := St.timeout) report (by unfold Unrouted; decide)
  exact ⟨_, run, ((report.moves.mono (by decide)).trans (ends.mono routeRegs_fabric)).effect,
    count.within (.refl (l := []) s) ends List.not_mem_nil (by decide) (by decide), routes.swErr set, dropped, completed⟩

/-- STRANDED_DISCARD of a frame left for a term (R81). -/
theorem strandedDiscard_effect {i : InputId} {o : Port} {k : Cls}
    (run : exec (.strandedDiscard i o k) s = .next ((s.raise Reg.ttErr 3).discardEntry e St.timeout)) :
    ∃ t, exec (.strandedDiscard i o k) s = .next t ∧ FabricEffect (recordRegs Reg.ttErr ++ fabricRegs) s t
    ∧ bit (t.rd Reg.ttErr) 3 = true
    ∧ (e.head.isCpl = true → t.sw.queue = s.sw.queue.filter (fun x => x.id != e.id))
    ∧ (e.head.isCpl = false → (∀ m ∈ s.mort.msgs, m.entry ≠ e.id) → Answerable s e.head e.cls →
        Completed e.head St.timeout [] s t) := by
  have report := raiseTt_changes s 3
  have ends : Moves routeRegs (s.raise Reg.ttErr 3) _ := (discardEntry_routes (e := e) (st := St.timeout)).moves (List.Subset.refl _)
  obtain ⟨dropped, completed⟩ := discard_reported (e := e) (st := St.timeout) report (by unfold Unrouted; decide)
  refine ⟨_, run, ((report.moves.mono (List.subset_append_left ..)).trans (ends.mono ?_)).effect, ?_, dropped, completed⟩
  · exact List.Subset.trans routeRegs_fabric (List.subset_append_right ..)
  · rw [ends.rd (by decide) (by decide)]
    exact raiseTt_sets _ (by decide)

/-! A port that goes down (R164, R165). -/

/-- A port that is down fails over where a destination has an alternate. -/
def State.failedOver (s : State) (p : Port) : State :=
  if !s.portUp p && s.hasAlternate p && (!s.sw.failed.contains p || s.sw.backOn.any (fun b => b.1 == p)) then
    ((s.withSw { s.sw with failed := if s.sw.failed.contains p then s.sw.failed else s.sw.failed ++ [p],
                           backOn := s.sw.backOn.filter (fun b => b.1 != p) }).bump Reg.swFailover).raiseSw 4 0 p.val 4
  else s

theorem exec_egressPortDown (p : Port) (s : State) : exec (.egressPortDown p) s =
    .next (((s.failedOver p).sw.queue.filter ((s.failedOver p).stuck p)).foldl (fun s e => s.rerouteEntry p e) (s.failedOver p)) :=
  rfl

/-- A failover changes which ports and inputs have failed over, and is reported. -/
theorem failedOver_changes (s : State) (p : Port) : ∃ failed backOn, ChangesOnly (Reg.swFailover :: swErrRegs)
    (s.withSw { s.sw with failed := failed, backOn := backOn }) (s.failedOver p) := by
  unfold State.failedOver
  split
  · exact ⟨_, _, bump_raiseSw_changes⟩
  · exact ⟨s.sw.failed, s.sw.backOn, ChangesOnly.refl s⟩

theorem failedOver_first (down : s.portUp p = false) (alternate : s.hasAlternate p = true) (first : s.sw.failed.contains p = false) :
    ∃ backOn, s.failedOver p = ((s.withSw { s.sw with failed := s.sw.failed ++ [p], backOn := backOn }).bump
      Reg.swFailover).raiseSw 4 0 p.val 4 := by
  refine ⟨s.sw.backOn.filter (fun b => b.1 != p), (if_pos (by rw [down, alternate, first]; rfl)).trans ?_⟩
  rw [first]
  rfl

/-- A stuck frame moves to the alternate's queue. -/
theorem rerouteEntry_alternate {q : Port} (waits : 4 ≤ e.cls.val) (unsent : e.sent = 0) (alternate : s.alternate p e.head.dest = some q) :
    s.rerouteEntry p e = s.withSw { s.sw with
      queue := s.sw.queue.filter (fun x => x.id != e.id) ++ [{ e with dest := .port q, toHalf1 := none }] } := by
  have named : s.alternate p (Frame.mk e.hdr [] 0).dest = some q := alternate
  unfold State.rerouteEntry
  dsimp only
  rw [if_pos (by simp [waits, unsent]), named]

/-- One that moves nowhere is counted as without a route and discarded. -/
def State.strand (s : State) (p : Port) (e : QEntry) : State :=
  ((s.bump Reg.swNoroute).raiseSw 3 e.input.val p.val e.cls.val).discardEntry e St.timeout

theorem rerouteEntry_cases (s : State) (p : Port) (e : QEntry) :
    (∃ queue, s.rerouteEntry p e = s.withSw { s.sw with queue := queue }) ∨ s.rerouteEntry p e = s.strand p e := by
  unfold State.rerouteEntry
  dsimp only
  split
  · exact .inl ⟨_, rfl⟩
  · exact .inr rfl

theorem rerouteEntry_scheduled (scheduled : e.cls.val < 4) : s.rerouteEntry p e = s.strand p e := by
  unfold State.rerouteEntry
  dsimp only
  rw [if_neg (by simp; omega)]
  rfl

theorem rerouteEntry_moves : Moves routeRegs s (s.rerouteEntry p e) := by
  rcases rerouteEntry_cases s p e with ⟨queue, moved⟩ | stranded
  · rw [moved]
    exact .withSw ⟨rfl, rfl⟩ (Nat.le_refl _)
  · rw [stranded]
    exact bump_raiseSw_changes.moves.trans (discardEntry_routes.moves (List.Subset.refl _))

theorem rerouteEntry_swErr {n : Nat} (set : bit (s.rd Reg.swErr) n = true) : bit ((s.rerouteEntry p e).rd Reg.swErr) n = true := by
  rcases rerouteEntry_cases s p e with ⟨queue, moved⟩ | stranded
  · rw [moved]
    exact set
  · rw [stranded]
    refine discardEntry_routes.swErr (raiseCap_keeps _ _ _ _ _ (by decide) ?_)
    rw [State.bump, State.addReg, State.rd_wr_other _ _ (by decide)]
    exact set

theorem rerouteEntries_moves (es : List QEntry) (s : State) : Moves routeRegs s (es.foldl (fun s e => s.rerouteEntry p e) s) := by
  induction es generalizing s with
  | nil => exact .refl s
  | cons e es ih => exact rerouteEntry_moves.trans (ih _)

theorem rerouteEntries_swErr (es : List QEntry) (s : State) {n : Nat} (set : bit (s.rd Reg.swErr) n = true) :
    bit ((es.foldl (fun s e => s.rerouteEntry p e) s).rd Reg.swErr) n = true := by
  induction es generalizing s with
  | nil => exact set
  | cons e es ih => exact ih _ (rerouteEntry_swErr set)

/-- A frame left on a port that is down, of a class that does not fail over, is answered with TIMEOUT and counted once. -/
theorem strand_effect (request : e.head.isCpl = false) (none : ∀ m ∈ s.mort.msgs, m.entry ≠ e.id) (able : Answerable s e.head e.cls) :
    Completed e.head St.timeout [] s (s.strand p e) ∧ Counted Reg.swNoroute 1 s (s.strand p e) := by
  have report : ChangesOnly (Reg.swNoroute :: swErrRegs) s ((s.bump Reg.swNoroute).raiseSw 3 e.input.val p.val e.cls.val) :=
    bump_raiseSw_changes
  have count : Counted Reg.swNoroute 1 s ((s.bump Reg.swNoroute).raiseSw 3 e.input.val p.val e.cls.val) :=
    bump_raiseSw_counts (by decide) (by decide)
  have unrouted : Unrouted (Reg.swNoroute :: swErrRegs) := by unfold Unrouted; decide
  refine ⟨(discard_reported report unrouted).2 request none able, ?_⟩
  have mort : ((s.bump Reg.swNoroute).raiseSw 3 e.input.val p.val e.cls.val).mort = s.mort := by rw [report.rest]
  refine count.within (.refl (l := []) s) (discardEntry_answered request ?_ (report.moves.answerable_of unrouted able))
    List.not_mem_nil List.not_mem_nil (by decide)
  rw [mort]
  exact none

/-- A failover leaves queues and links, and so what is stuck and the alternates. -/
theorem failedOver_keeps (s : State) (p : Port) : (s.failedOver p).sw.queue = s.sw.queue ∧ (s.failedOver p).stuck p = s.stuck p
    ∧ (s.failedOver p).sw.nextId = s.sw.nextId ∧ (s.failedOver p).mort = s.mort
    ∧ ∀ dest, (s.failedOver p).alternate p dest = s.alternate p dest := by
  obtain ⟨failed, backOn, changes⟩ := failedOver_changes s p
  have route : ∀ dest : BitVec 12, (s.failedOver p).rd (Reg.swRoute dest.toNat) = s.rd (Reg.swRoute dest.toNat) := fun dest => by
    have unrouted : Unrouted (Reg.swFailover :: swErrRegs) := by unfold Unrouted; decide
    exact changes.reg _ (unrouted.route dest).1 (unrouted.route dest).2
  refine ⟨by rw [changes.rest]; rfl, by rw [changes.rest]; rfl, by rw [changes.rest]; rfl, by rw [changes.rest]; rfl, fun dest => ?_⟩
  unfold State.alternate
  rw [route, changes.rest]
  rfl

/-- The effect of a port that goes down (R164, R165). -/
theorem egressPortDown_effect (p : Port) (s : State) (es : List QEntry) :
    FabricEffect fabricRegs s (es.foldl (fun s e => s.rerouteEntry p e) (s.failedOver p)) := by
  obtain ⟨failed, backOn, changes⟩ := failedOver_changes s p
  refine (FabricEffect.withSw.trans (changes.moves.mono ?_).effect).trans ((rerouteEntries_moves es _).mono routeRegs_fabric).effect
  decide

/-- Settles O31. -/
theorem switchCoreEvents : Obligations.SwitchCoreEvents := by
  refine ⟨fun p s down alternate first => ?_, fun p s e down stuck => ?_, fun p i s failed active none idle => ?_,
    fun i o k s e found => ?_, fun i o k s e found late => ?_⟩
  · obtain ⟨backOn, report⟩ := failedOver_first down alternate first
    refine ⟨_, exec_egressPortDown p s, egressPortDown_effect .., ?_⟩
    generalize (s.failedOver p).sw.queue.filter ((s.failedOver p).stuck p) = es
    have moves := rerouteEntries_moves (p := p) es (s.failedOver p)
    rw [moves.failover.1, moves.rd (off := Reg.swFailover) (by decide) (by decide)]
    have changes : ChangesOnly (Reg.swFailover :: swErrRegs) (s.withSw { s.sw with failed := s.sw.failed ++ [p], backOn := backOn })
      (s.failedOver p) := report ▸ bump_raiseSw_changes
    have count : Counted Reg.swFailover 1 (s.withSw { s.sw with failed := s.sw.failed ++ [p], backOn := backOn })
      (s.failedOver p) := report ▸ bump_raiseSw_counts (by decide) (by decide)
    have set : bit ((s.failedOver p).rd Reg.swErr) 4 = true := report ▸ raiseSw_sets (by decide)
    refine ⟨?_, count, rerouteEntries_swErr es _ set⟩
    rw [changes.rest]
    rfl
  · obtain ⟨queue, same, id, mort, alternates⟩ := failedOver_keeps s p
    have run := exec_egressPortDown p s
    rw [queue, same, stuck] at run
    refine ⟨_, run, egressPortDown_effect .., fun q waits unsent alternate => ?_, fun scheduled request none able => ?_⟩
    · rw [List.foldl_cons, List.foldl_nil, rerouteEntry_alternate waits unsent ((alternates _).trans alternate), ← queue]
      rfl
    · obtain ⟨failed, backOn, changes⟩ := failedOver_changes s p
      have unrouted : Unrouted (Reg.swFailover :: swErrRegs) := by unfold Unrouted; decide
      have able : Answerable (s.failedOver p) e.head e.cls :=
        changes.moves.answerable_of unrouted (answerable_withSw scheduled able)
      obtain ⟨completed, count⟩ := strand_effect (p := p) request (by rw [mort]; exact none) able
      rw [List.foldl_cons, List.foldl_nil, rerouteEntry_scheduled scheduled]
      refine ⟨completed.before (Nat.le_of_eq id.symm), ?_⟩
      have before : (s.failedOver p).rd Reg.swNoroute = s.rd Reg.swNoroute := changes.reg _ (by decide) (by decide)
      rw [Counted, ← before]
      exact count
  · have fails : (s.sw.failed.contains p && s.portActive p) = true := by rw [active, List.contains_iff_mem.2 failed]; rfl
    refine (if_pos fails).trans ?_
    rw [none, idle]
    simp
  · refine ageDiscard_effect ?_
    change execAgeDiscard i o k s = _
    unfold execAgeDiscard
    dsimp only
    rw [found]
  · refine strandedDiscard_effect ?_
    change execStrandedDiscard i o k s = _
    unfold execStrandedDiscard
    rw [found]
    exact if_pos late

end Sys2Proof.Machine

/-! ## The frame of the units' work (R334, R352, R400) -/
namespace Sys2Proof.Machine

variable {a b c s t u : State} {l m : List Nat}

/-- The units' work moves frames and changes the records of benches and network units; no link changes. -/
structure Works (l : List Nat) (a b : State) : Prop where
  moves : Moves l ((a.withBenches b.benches).withNet b.net) b
  links : b.links = a.links

theorem Works.of_moves (h : Moves l a b) (links : b.links = a.links) : Works l a b := by
  have benches : b.benches = a.benches := by rw [h.effect.rest]
  have net : b.net = a.net := by rw [h.effect.rest]
  refine ⟨?_, links⟩
  rw [benches, net]
  exact h

theorem ChangesOnly.works (h : ChangesOnly l a b) : Works l a b := .of_moves h.moves h.links

theorem Works.refl (s : State) : Works l s s := .of_moves (.refl s) rfl

theorem Works.withBenches {x : Tab Bench} : Works l s (s.withBenches x) := ⟨.refl _, rfl⟩
theorem Works.withNet {x : Net} : Works l s (s.withNet x) := ⟨.refl _, rfl⟩
theorem Works.withFree {n : Nat} : Works l s (s.withFree n) := .of_moves .withFree rfl

/-- The units' records are no part of what moves frames. -/
theorem Moves.withUnits (h : Moves l a b) (x : Tab Bench) (y : Net) :
    Moves l ((a.withBenches x).withNet y) ((b.withBenches x).withNet y) where
  effect.rest := by
    have e := h.effect.rest
    rw [e]
    rfl
  effect.tables := ⟨h.effect.tables.jobs, h.effect.tables.addresses, h.effect.tables.admission, h.effect.tables.drawers,
    h.effect.tables.banks⟩
  effect.train := h.effect.train
  effect.reg := h.effect.reg
  looped := h.looped
  failover := h.failover
  nextId := h.nextId

theorem Works.trans (h : Works l a b) (g : Works l b c) : Works l a c :=
  ⟨(h.moves.withUnits c.benches c.net).trans g.moves, g.links.trans h.links⟩

theorem Works.mono (h : Works l a b) (sub : l ⊆ m) : Works m a b := ⟨h.moves.mono sub, h.links⟩

theorem Works.effect (h : Works l a b) : WorkEffect l a b := by
  have rest := h.moves.effect.rest
  refine ⟨?_, ⟨h.moves.effect.tables.jobs, h.moves.effect.tables.addresses, h.moves.effect.tables.admission,
    h.moves.effect.tables.drawers, h.moves.effect.tables.banks⟩, h.moves.effect.reg⟩
  rw [h.links] at rest
  exact rest

theorem Works.rd (h : Works l a b) {off : Nat} (out : off ∉ l) (report : reportReg off = false) : b.rd off = a.rd off :=
  h.moves.rd out report

theorem Works.bell (h : Works l a b) : b.bell = a.bell := by rw [h.moves.effect.rest]; rfl
theorem Works.tt (h : Works l a b) : b.tt = a.tt := by rw [h.moves.effect.rest]; rfl
theorem Works.nextId (h : Works l a b) : a.sw.nextId ≤ b.sw.nextId := h.moves.nextId

theorem Works.answerable (h : Works l a b) (unrouted : Unrouted l) {f : Frame} {k : Cls} (able : Answerable a f k) :
    Answerable b f k :=
  h.moves.answerable_of unrouted able

/-! What the units do to the switch core and the hosts. -/

theorem noRoute_links {i : InputId} {d : BitVec 12} {k : Cls} : (s.noRoute i d k).links = s.links := by
  have changes : ChangesOnly routeRegs s (s.noRoute i d k) := bump_raiseSw_changes
  exact changes.links

theorem sendFrameOut_links {k : Fin 12} {cls : Cls} {f : Frame} : (s.sendFrameOut k cls f).links = s.links := by
  unfold State.sendFrameOut
  split
  · split
    · split <;> rfl
    · rfl
  · split
    · rfl
    · exact noRoute_links

theorem complete_links {k : Fin 12} {cls : Cls} {req : Frame} {st : Status} {data : Bool} {payload : Bytes} {flags : BitVec 8}
    {unit : BitVec 10} : (s.complete k cls req st data payload flags unit).links = s.links := by
  unfold State.complete
  dsimp only
  split
  · rfl
  · exact sendFrameOut_links

theorem refuse_links {k : Fin 12} {cls : Cls} {req : Frame} {st : Status} : (s.refuse k cls req st).links = s.links := by
  unfold State.refuse
  dsimp only
  split <;> exact complete_links

theorem injectReq_links {k : Fin 12} {cls : Cls} {f : Frame} : (s.injectReq k cls f).links = s.links := by
  unfold State.injectReq
  split
  · rfl
  · split
    · rfl
    · unfold State.dropNoRoute
      dsimp only
      split
      · exact noRoute_links
      · exact refuse_links.trans noRoute_links

theorem originate_links {unit : BitVec 10} {k : Fin 12} {cls : Cls} {hdr : BitVec 256} {payload : Bytes} {why : Purpose} :
    (s.originate unit k cls hdr payload why).links = s.links := by
  unfold State.originate
  split
  · rfl
  · exact injectReq_links

theorem originate_works {unit : BitVec 10} {k : Fin 12} {cls : Cls} {hdr : BitVec 256} {payload : Bytes} {why : Purpose} :
    Works fabricRegs s (s.originate unit k cls hdr payload why) := .of_moves originate_moves originate_links

theorem complete_works {k : Fin 12} {cls : Cls} {req : Frame} {st : Status} {data : Bool} {payload : Bytes} {flags : BitVec 8}
    {unit : BitVec 10} : Works fabricRegs s (s.complete k cls req st data payload flags unit) :=
  .of_moves (complete_routes.moves routeRegs_fabric) complete_links

theorem addJob_works {job : BitVec 12} {word n : Nat} : Works l s (s.addJob job word n) := .of_moves addJob_moves rfl

theorem traceEv_works {src unit : Nat} {anyUnit : Bool} {data : Bytes} : Works l s (s.traceEv src unit anyUnit data) :=
  (traceEv_changes ..).works

theorem traceState_works {unit old new op : Nat} : Works l s (s.traceState unit old new op) := by
  unfold State.traceState
  split
  · exact .refl s
  · exact traceEv_works

/-- A completion of an operator's or a network unit's own is written, held, or dropped with its report (R357). -/
theorem operatorCpl_changes {h : HostPort} {r : RingId} {op status arg unit : Nat} (tail : ringTail h r.val ∈ l) :
    ChangesOnly l s (s.operatorCpl h r op status arg unit).1 := by
  unfold State.operatorCpl
  dsimp only
  split
  · exact ringWrite_changes h r.val _ (.inl tail)
  · split
    · exact .withHost
    · exact raiseHost_changes ..

theorem ringTail_unit (h : HostPort) (r : RingId) : ringTail h r.val ∈ unitRegs := by
  refine List.mem_append_right _ (List.mem_flatMap.2 ⟨r.val, List.mem_range.2 r.isLt, ?_⟩)
  cases h
  · exact List.mem_cons_self ..
  · exact List.mem_cons_of_mem _ (List.mem_cons_self ..)

theorem fabric_unit : fabricRegs ⊆ unitRegs := List.subset_append_left ..

/-- Where the registers lie that the requests and completions of any unit write: below the benches', and in the host blocks. -/
theorem unitRegs_zone {x : Nat} (mem : x ∈ unitRegs) :
    (x < 0xD00000 ∧ ((x < 0x700200 ∨ 0x800000 ≤ x) ∧ x ≠ Reg.swIdentity) ∧ x ≠ Reg.ttErr ∧ x ≠ Reg.ttOverrunUnit)
    ∨ (0x1100000 ≤ x ∧ x < 0x1110000) := by
  rcases List.mem_append.1 mem with fabric | tail
  · have all : ∀ x ∈ fabricRegs, x < 0xD00000 ∧ ((x < 0x700200 ∨ 0x800000 ≤ x) ∧ x ≠ Reg.swIdentity) ∧ x ≠ Reg.ttErr
        ∧ x ≠ Reg.ttOverrunUnit := by decide
    exact .inl (all x fabric)
  · obtain ⟨r, lt, tail⟩ := List.mem_flatMap.1 tail
    have lt := List.mem_range.1 lt
    simp only [List.mem_cons, List.not_mem_nil, or_false, ringTail, ringBase, hostNum, Reg.cqBaseLo, Reg.evtBaseLo] at tail
    rw [if_neg (by omega), if_neg (by omega)] at tail
    exact .inr (by omega)

end Sys2Proof.Machine

/-! ## The work of one bench (R334, R352 to R363) -/
namespace Sys2Proof.Machine

variable {a b c s t u : State} {l m : List Nat} {k : BenchId}

/-- BN_ERR of a bench. -/
abbrev benchErr (k : BenchId) : Nat := Reg.bnErr (k.val / 14) (benchIn k)

/-- Registers that a report of a bench writes (R363, R364), and those that the end of its operator and its start may. -/
def benchReportRegs (k : BenchId) : List Nat :=
  recordRegs (benchErr k) ++ [Reg.bnErrCapture, Reg.bnErrDescLo, Reg.bnErrDescHi].map (fun reg => reg (k.val / 14) (benchIn k))
def benchEndRegs (k : BenchId) : List Nat := benchReportRegs k ++ unitRegs
def benchRunRegs (k : BenchId) : List Nat := Reg.bnAborts (k.val / 14) (benchIn k) :: benchEndRegs k

/-- What an operator's work changes of its bench: the operator, the numbers of requests, and the posts. -/
def Bench.working (x : Bench) (run : Option BenchRun) (nextReq : Nat) (posts : List (Nat × Nat × Nat)) : Bench :=
  { x with run := run, nextReq := nextReq, posts := posts }

/-- The work of bench `k`: of the benches it changes its own, no bit of BN_ERR is taken back. -/
structure BenchWorks (k : BenchId) (l : List Nat) (a b : State) : Prop where
  works : Works l a b
  others : ∀ j, j ≠ k → b.bench j = a.bench j
  errs : ∀ n, bit (a.rd (benchErr k)) n = true → bit (b.rd (benchErr k)) n = true

theorem benchErr_report (k : BenchId) : reportReg (benchErr k) = false :=
  reportReg_below (by have := k.isLt; simp only [benchErr, Reg.bnErr, benchIn]; omega)

theorem unitRegs_benchErr (k : BenchId) : benchErr k ∉ unitRegs := fun mem => by
  have := k.isLt
  have zone := unitRegs_zone mem
  simp only [benchErr, Reg.bnErr, benchIn] at zone
  omega

theorem BenchWorks.refl (k : BenchId) (s : State) : BenchWorks k l s s := ⟨.refl s, fun _ _ => rfl, fun _ set => set⟩

theorem BenchWorks.trans (h : BenchWorks k l a b) (g : BenchWorks k l b c) : BenchWorks k l a c :=
  ⟨h.works.trans g.works, fun j ne => (g.others j ne).trans (h.others j ne), fun n set => g.errs n (h.errs n set)⟩

theorem BenchWorks.mono (h : BenchWorks k l a b) (sub : l ⊆ m) : BenchWorks k m a b := ⟨h.works.mono sub, h.others, h.errs⟩

theorem BenchWorks.foldl {β : Type} {f : State → β → State} (each : ∀ u x, BenchWorks k l u (f u x)) (xs : List β) (s : State) :
    BenchWorks k l s (xs.foldl f s) := by
  induction xs generalizing s with
  | nil => exact .refl k s
  | cons x xs ih => exact (each s x).trans (ih _)

theorem Moves.benches (h : Moves l a b) : b.benches = a.benches := by rw [h.effect.rest]
theorem ChangesOnly.benches (h : ChangesOnly l a b) : b.benches = a.benches := by rw [h.rest]

theorem bench_of_benches (same : b.benches = a.benches) (j : BenchId) : b.bench j = a.bench j := by
  rw [State.bench, same]
  rfl

/-- What no bench's record shows, and no register of BN_ERR. -/
theorem BenchWorks.of_works (h : Works l a b) (same : b.benches = a.benches) (out : benchErr k ∉ l) : BenchWorks k l a b :=
  ⟨h, fun j _ => bench_of_benches same j, fun n set => by rw [h.rd out (benchErr_report k)]; exact set⟩

theorem setBench_eq (s : State) (j : BenchId) (x : Bench) :
    ∃ y, s.setBench j x = (s.withBenches (s.benches.put Bench.reset j.val x)).withTest y := by
  unfold State.setBench State.traceState
  dsimp only
  split
  · exact ⟨s.test, rfl⟩
  · exact traceEv_test ..

@[simp] theorem bench_setBench_same (s : State) (j : BenchId) (x : Bench) : (s.setBench j x).bench j = x := by
  obtain ⟨y, e⟩ := setBench_eq s j x
  rw [e]
  exact Tab.get_put_same ..

theorem bench_setBench_other (s : State) {i j : BenchId} (x : Bench) (ne : i ≠ j) : (s.setBench j x).bench i = s.bench i := by
  obtain ⟨y, e⟩ := setBench_eq s j x
  rw [e]
  exact Tab.get_put_other _ _ _ _ (fun e => ne (Fin.ext e))

theorem setBench_rd (s : State) (j : BenchId) (x : Bench) (off : Nat) : (s.setBench j x).rd off = s.rd off := by
  obtain ⟨y, e⟩ := setBench_eq s j x
  rw [e]
  rfl

theorem setBench_works (s : State) (k : BenchId) (x : Bench) : BenchWorks k l s (s.setBench k x) := by
  refine ⟨Works.withBenches.trans traceState_works, fun j ne => bench_setBench_other s x ne, fun n set => ?_⟩
  rw [setBench_rd]
  exact set

/-! Counts, reports and requests. -/

theorem countBench_works {reg : Nat → Nat → Nat} {n : Nat} (out : reg (k.val / 14) (benchIn k) ≠ benchErr k) :
    BenchWorks k [reg (k.val / 14) (benchIn k)] s (s.countBench k reg n) :=
  .of_works (ChangesOnly.wr (.inl (List.mem_singleton_self _))).works rfl (fun mem => out (List.mem_singleton.1 mem).symm)

theorem raiseBench_changes {n op : Nat} {st : BitVec 8} {operand desc : Nat} :
    ChangesOnly (benchReportRegs k) s (s.raiseBench k n op st operand desc) := by
  refine raise_changes _ _ _ (fun x mem => List.mem_append_left _ mem) (fun p mem => List.mem_append_right _ ?_)
  simp only [List.mem_cons, List.not_mem_nil, or_false] at mem
  rcases mem with rfl | rfl | rfl <;> simp

theorem raiseBench_works {n op : Nat} {st : BitVec 8} {operand desc : Nat} :
    BenchWorks k (benchReportRegs k) s (s.raiseBench k n op st operand desc) := by
  have changes := raiseBench_changes (s := s) (k := k) (n := n) (op := op) (st := st) (operand := operand) (desc := desc)
  refine ⟨changes.works, fun j _ => bench_of_benches (by rw [changes.rest]) j, fun i set => ?_⟩
  exact raiseCap_keeps _ _ _ _ _ (benchErr_report k) set

theorem raiseBench_sets {n op : Nat} {st : BitVec 8} {operand desc : Nat} (lt : n < 32) :
    bit ((s.raiseBench k n op st operand desc).rd (benchErr k)) n = true :=
  raiseCap_sets _ _ _ _ lt (benchErr_report k)

theorem raiseBench_benches {n op : Nat} {st : BitVec 8} {operand desc : Nat} :
    (s.raiseBench k n op st operand desc).benches = s.benches := by
  rw [(raiseBench_changes (k := k)).rest]

section Send
variable {job : BitVec 12} {cls : Cls} {n addr : Nat} {ak : Bool} {op : BitVec 8} {scope : BitVec 2} {payload : Bytes}

theorem benchSend_fabric : Works fabricRegs s (s.benchSend k job cls n addr ak op scope payload) := by
  unfold State.benchSend
  dsimp only
  apply originate_works

theorem benchSend_benches : (s.benchSend k job cls n addr ak op scope payload).benches = s.benches := by
  unfold State.benchSend
  dsimp only
  apply originate_moves.benches

theorem benchSend_works : BenchWorks k unitRegs s (s.benchSend k job cls n addr ak op scope payload) :=
  .of_works (benchSend_fabric.mono fabric_unit) benchSend_benches (unitRegs_benchErr k)

end Send

/-- Requests that are sent one after another. -/
theorem benchSends_works {β : Type} {f : State → β → State} (each : ∀ u x, ∃ job cls n addr ak op scope payload,
    f u x = u.benchSend k job cls n addr ak op scope payload) (xs : List β) (s : State) :
    BenchWorks k unitRegs s (xs.foldl f s) ∧ (xs.foldl f s).benches = s.benches := by
  induction xs generalizing s with
  | nil => exact ⟨.refl k s, rfl⟩
  | cons x xs ih =>
    obtain ⟨job, cls, n, addr, ak, op, scope, payload, e⟩ := each s x
    rw [List.foldl_cons, e]
    obtain ⟨works, same⟩ := ih (s.benchSend k job cls n addr ak op scope payload)
    exact ⟨benchSend_works.trans works, same.trans benchSend_benches⟩

theorem bench_of_working {x : Bench} (same : t.benches = (s.setBench k x).benches) : t.bench k = x :=
  (bench_of_benches same k).trans (bench_setBench_same ..)

/-- Requests asked for go out, and the operator that runs holds their records. -/
theorem benchAsk_works {r : BenchRun} {asks : List Ask} : BenchWorks k unitRegs s (s.benchAsk k r asks)
    ∧ (s.benchAsk k r asks).bench k = (s.bench k).working (some { r with reqs := reqsOf (s.bench k).nextReq s.bell.ticks asks })
        ((s.bench k).nextReq + asks.length) (s.bench k).posts := by
  unfold State.benchAsk
  dsimp only
  refine ⟨(setBench_works ..).trans (benchSends_works (fun _ _ => ?_) _ _).1,
    bench_of_working (benchSends_works (k := k) (fun _ _ => ?_) _ _).2⟩
  <;> exact ⟨_, _, _, _, _, _, _, _, rfl⟩

/-! The status of an operator is posted, and its LAUNCH completed (R134, R357). -/

theorem benchPost_works {d : Bytes} {desc : Nat} {st : BitVec 8} : BenchWorks k (benchEndRegs k) s (s.benchPost k d desc st)
    ∧ ∃ n p, (s.benchPost k d desc st).bench k = (s.bench k).working (s.bench k).run n p := by
  unfold State.benchPost
  split
  · exact ⟨.refl k s, _, _, rfl⟩
  · split
    · have tail : ringTail (odHost d) (odRing d).val ∈ unitRegs := ringTail_unit ..
      have written := operatorCpl_changes (s := s) (op := odOp d) (status := st.toNat) (arg := odArg d) (unit := 256 + k.val) tail
      generalize s.operatorCpl (odHost d) (odRing d) (odOp d) st.toNat (odArg d) (256 + k.val) = p at written
      obtain ⟨u, kept⟩ := p
      have cpl : BenchWorks k (benchEndRegs k) s u :=
        (BenchWorks.of_works written.works written.benches (unitRegs_benchErr k)).mono (List.subset_append_right ..)
      have own : u.bench k = s.bench k := bench_of_benches written.benches k
      dsimp only
      split
      · exact ⟨cpl, _, _, own⟩
      · refine ⟨cpl.trans (raiseBench_works.mono (List.subset_append_left ..)), (s.bench k).nextReq, (s.bench k).posts, ?_⟩
        exact (bench_of_benches raiseBench_benches k).trans own
    · exact ⟨((setBench_works ..).trans benchSend_works).mono (List.subset_append_right ..), _, _, bench_of_working benchSend_benches⟩

theorem complete_benches {cluster : Fin 12} {cls : Cls} {req : Frame} {st : Status} {data : Bool} {payload : Bytes} {flags : BitVec 8}
    {unit : BitVec 10} : (s.complete cluster cls req st data payload flags unit).benches = s.benches :=
  (complete_routes.moves routeRegs_fabric).benches

theorem launchCpl_works {launch : Launch} {st : BitVec 8} : BenchWorks k unitRegs s (s.launchCpl k launch st)
    ∧ (s.launchCpl k launch st).benches = s.benches := by
  unfold State.launchCpl
  split
  · exact ⟨.refl k s, rfl⟩
  · exact ⟨.of_works (complete_works.mono fabric_unit) complete_benches (unitRegs_benchErr k), complete_benches⟩

/-- A LAUNCH frame is answered. -/
theorem launchCpl_completed {launch : Launch} {st : BitVec 8} {f : Frame} {cls : Cls} {cluster : Fin 12}
    (src : launch.src = .fabric f cls cluster) (able : Answerable s f cls) : Completed f st [] s (s.launchCpl k launch st) := by
  unfold State.launchCpl
  rw [src]
  have done := complete_completed (k := cluster) (st := st) (data := false) (payload := []) (flags := 0) (unit := benchUnit k) able
  rwa [cplData_nil] at done

/-- The status of an operator is posted where its descriptor's generation is known (R357). -/
def State.benchPosted (s : State) (k : BenchId) (r : BenchRun) (st : BitVec 8) : State :=
  if field r.desc 0 1 % 4 == 1 then s.benchPost k r.desc r.launch.addr st else s

theorem benchPosted_works {r : BenchRun} {st : BitVec 8} : BenchWorks k (benchEndRegs k) s (s.benchPosted k r st)
    ∧ ∃ n p, (s.benchPosted k r st).bench k = (s.bench k).working (s.bench k).run n p := by
  unfold State.benchPosted
  split
  · exact benchPost_works
  · exact ⟨.refl k s, _, _, rfl⟩

/-- The benches' registers lie apart from what routes an answer. -/
theorem benchReportRegs_zone {x : Nat} (mem : x ∈ benchReportRegs k) :
    Reg.bnErr (k.val / 14) (benchIn k) ≤ x ∧ x ≤ Reg.bnErrDescHi (k.val / 14) (benchIn k) := by
  simp only [benchReportRegs, recordRegs, benchErr, List.map_cons, List.map_nil, List.cons_append, List.nil_append, List.mem_cons,
    List.not_mem_nil, or_false, Reg.bnErr, Reg.bnErrCapture, Reg.bnErrDescLo, Reg.bnErrDescHi] at mem ⊢
  omega

theorem unitRegs_unrouted : Unrouted unitRegs := fun x mem => by
  have zone := unitRegs_zone mem
  simp only [Reg.swIdentity] at zone ⊢
  omega

theorem benchEndRegs_unrouted (k : BenchId) : Unrouted (benchEndRegs k) := fun x mem => by
  rcases List.mem_append.1 mem with own | unit
  · have zone := benchReportRegs_zone own
    simp only [Reg.bnErr, Reg.bnErrDescHi, Reg.swIdentity] at zone ⊢
    omega
  · exact unitRegs_unrouted x unit

/-- The end of an operator: its bench is free, and what launched it is answered (R134, R358). -/
theorem benchEnd_works {r : BenchRun} {st : BitVec 8} : BenchWorks k (benchEndRegs k) s (s.benchEnd k r st)
    ∧ (∃ n p, (s.benchEnd k r st).bench k = (s.bench k).working none n p)
    ∧ ∀ f cls cluster, r.launch.src = .fabric f cls cluster → Answerable s f cls → Completed f st [] s (s.benchEnd k r st) := by
  have idle : BenchWorks k (benchEndRegs k) s ((s.setBench k { s.bench k with run := none }).addJob (odJob r.desc) 4
      (56 * (s.bell.ticks - r.started) / 5)) :=
    (setBench_works ..).trans (BenchWorks.mono (.of_works (l := []) addJob_works rfl List.not_mem_nil) (List.nil_subset _))
  have own := bench_of_working (k := k) (s := s) (x := { s.bench k with run := none })
    (t := (s.setBench k { s.bench k with run := none }).addJob (odJob r.desc) 4 (56 * (s.bell.ticks - r.started) / 5)) rfl
  have end_ : s.benchEnd k r st = (State.benchPosted ((s.setBench k { s.bench k with run := none }).addJob (odJob r.desc) 4
      (56 * (s.bell.ticks - r.started) / 5)) k r st).launchCpl k r.launch st := by
    have ticks : (s.setBench k { s.bench k with run := none }).bell = s.bell := idle.works.bell
    unfold State.benchEnd
    dsimp only
    rw [ticks]
    rfl
  rw [end_]
  generalize (s.setBench k { s.bench k with run := none }).addJob (odJob r.desc) 4 (56 * (s.bell.ticks - r.started) / 5) = u at idle own ⊢
  obtain ⟨posted, n, p, kept⟩ := benchPosted_works (s := u) (k := k) (r := r) (st := st)
  obtain ⟨answered, same⟩ := launchCpl_works (s := u.benchPosted k r st) (k := k) (launch := r.launch) (st := st)
  refine ⟨(idle.trans posted).trans (answered.mono (List.subset_append_right ..)), ⟨n, p, ?_⟩, fun f cls cluster src able => ?_⟩
  · rw [bench_of_benches same, kept, own]
    rfl
  · have before := idle.trans posted
    exact (launchCpl_completed src (before.works.answerable (benchEndRegs_unrouted k) able)).before before.works.nextId

end Sys2Proof.Machine

/-! ## Operators that start, are refused, aborted or skipped (R339, R352 to R359, R515) -/
namespace Sys2Proof.Machine

variable {a b c s t u v : State} {l m : List Nat} {k : BenchId} {off n : Nat}

/-! Counts. -/

theorem Counted.amid (count : Counted off n u v) (before : Works l s u) (after : Works m v t) (outBefore : off ∉ l)
    (outAfter : off ∉ m) (report : reportReg off = false) : Counted off n s t := by
  rw [Counted, after.rd outAfter report, ← before.rd outBefore report]
  exact count

theorem Counted.add {i : Nat} (h : Counted off n a b) (g : Counted off i b c) : Counted off (n + i) a c := by
  unfold Counted at *
  omega

/-- A counter of a bench is none of the registers that reports, requests and completions write. -/
theorem benchCount_apart {x : Nat} (low : 0xD00000 + 0x10000 * (k.val / 14) + 0x1000 * benchIn k ≤ x)
    (high : x < Reg.bnErr (k.val / 14) (benchIn k)) : x ∉ benchEndRegs k ∧ reportReg x = false := by
  have lt := k.isLt
  simp only [Reg.bnErr, benchIn] at low high
  refine ⟨fun mem => ?_, reportReg_below (by omega)⟩
  rcases List.mem_append.1 mem with own | unit
  · have zone := benchReportRegs_zone own
    simp only [Reg.bnErr, benchIn] at zone
    omega
  · have zone := unitRegs_zone unit
    omega

theorem countBench_counts (s : State) (k : BenchId) (reg : Nat → Nat → Nat) (n : Nat) :
    Counted (reg (k.val / 14) (benchIn k)) n s (s.countBench k reg n) := counted_addReg ..

theorem countBench_benches {reg : Nat → Nat → Nat} : (s.countBench k reg n).benches = s.benches := rfl

theorem singleton_sub {x : Nat} (mem : x ∈ l) : [x] ⊆ l := fun _ one => by rwa [List.mem_singleton.1 one]

theorem benchReport_end (k : BenchId) : benchReportRegs k ⊆ benchEndRegs k := List.subset_append_left ..
theorem unit_benchEnd (k : BenchId) : unitRegs ⊆ benchEndRegs k := List.subset_append_right ..
theorem benchEnd_run (k : BenchId) : benchEndRegs k ⊆ benchRunRegs k := List.subset_cons_self ..
theorem benchAborts_run (k : BenchId) : Reg.bnAborts (k.val / 14) (benchIn k) ∈ benchRunRegs k := List.mem_cons_self ..

/-! Refused and aborted (R339, R353, R359). -/

section End
variable {r : BenchRun} {st : BitVec 8}

theorem benchRefused_works : BenchWorks k (benchEndRegs k) s (s.benchRefused k r st)
    ∧ (∃ n p, (s.benchRefused k r st).bench k = (s.bench k).working none n p)
    ∧ (∀ f cls cluster, r.launch.src = .fabric f cls cluster → Answerable s f cls → Completed f st [] s (s.benchRefused k r st))
    ∧ bit ((s.benchRefused k r st).rd (benchErr k)) 1 = true := by
  have raised : BenchWorks k (benchEndRegs k) s (s.raiseBench k 1 (odOp r.desc) st 15 r.launch.addr) :=
    raiseBench_works.mono (benchReport_end k)
  have set := raiseBench_sets (s := s) (k := k) (n := 1) (op := odOp r.desc) (st := st) (operand := 15) (desc := r.launch.addr)
    (by decide)
  have own := bench_of_benches (raiseBench_benches (s := s) (k := k) (n := 1) (op := odOp r.desc) (st := st) (operand := 15)
    (desc := r.launch.addr)) k
  unfold State.benchRefused
  generalize s.raiseBench k 1 (odOp r.desc) st 15 r.launch.addr = u at *
  obtain ⟨ended, ⟨n, p, idle⟩, answered⟩ := benchEnd_works (s := u) (k := k) (r := r) (st := st)
  refine ⟨raised.trans ended, ⟨n, p, by rw [idle, own]⟩, fun f cls cluster src able => ?_, ended.errs 1 set⟩
  exact (answered f cls cluster src (raised.works.answerable (benchEndRegs_unrouted k) able)).before raised.works.nextId

theorem benchAbort_works {operand : Nat} {bits : List Nat} : BenchWorks k (benchRunRegs k) s (s.benchAbort k r st operand bits)
    ∧ ∃ n p, (s.benchAbort k r st operand bits).bench k = (s.bench k).working none n p := by
  have raised : ∀ (ns : List Nat) (u : State), BenchWorks k (benchReportRegs k) u
      (ns.foldl (fun s n => s.raiseBench k n (odOp r.desc) st operand r.launch.addr) u)
      ∧ (ns.foldl (fun s n => s.raiseBench k n (odOp r.desc) st operand r.launch.addr) u).benches = u.benches := fun ns => by
    induction ns with
    | nil => exact fun u => ⟨.refl k u, rfl⟩
    | cons n ns ih => exact fun u => ⟨raiseBench_works.trans (ih _).1, (ih _).2.trans raiseBench_benches⟩
  obtain ⟨reports, same⟩ := raised (bits ++ [0]) s
  unfold State.benchAbort
  dsimp only
  generalize (bits ++ [0]).foldl (fun (s : State) n => s.raiseBench k n (odOp r.desc) st operand r.launch.addr) s = u at *
  have counted : BenchWorks k [Reg.bnAborts (k.val / 14) (benchIn k)] u (u.countBench k Reg.bnAborts 1) :=
    countBench_works (by simp [benchErr, Reg.bnErr, Reg.bnAborts])
  obtain ⟨ended, ⟨n, p, idle⟩, -⟩ := benchEnd_works (s := u.countBench k Reg.bnAborts 1) (k := k) (r := r) (st := st)
  refine ⟨((reports.mono ?_).trans (counted.mono ?_)).trans (ended.mono ?_), n, p, ?_⟩
  · exact List.Subset.trans (benchReport_end k) (benchEnd_run k)
  · exact singleton_sub (benchAborts_run k)
  · exact benchEnd_run k
  · rw [idle, bench_of_benches countBench_benches, bench_of_benches same]

end End

/-! Started (R355, R356). -/

theorem benchGo_works {r : BenchRun} : BenchWorks k (benchEndRegs k) s (s.benchGo k r)
    ∧ (∃ run n p, (s.benchGo k r).bench k = (s.bench k).working run n p)
    ∧ (odAcq r.desc = true → ((s.benchGo k r).bench k).run = some { r with
        stage := .acquire, lastRead := s.bell.ticks, reqs := reqsOf (s.bench k).nextReq s.bell.ticks [acquireAsk r.desc] }) := by
  unfold State.benchGo
  split
  · next acq =>
    obtain ⟨works, own⟩ := benchAsk_works (s := s) (k := k) (r := { r with stage := .acquire, lastRead := s.bell.ticks })
      (asks := [acquireAsk r.desc])
    exact ⟨works.mono (unit_benchEnd k), ⟨_, _, _, own⟩, fun _ => congrArg Bench.run own⟩
  · next acq =>
    have go : ∀ run, BenchWorks k (benchEndRegs k) s (s.setBench k { s.bench k with run := run })
        ∧ ∃ run' n p, (s.setBench k { s.bench k with run := run }).bench k = (s.bench k).working run' n p :=
      fun run => ⟨setBench_works .., run, _, _, bench_setBench_same ..⟩
    suffices h : BenchWorks k (benchEndRegs k) s (s.benchGather k r) ∧ ∃ run n p, (s.benchGather k r).bench k = (s.bench k).working run n p by
      exact ⟨h.1, h.2, fun yes => absurd yes acq⟩
    unfold State.benchGather State.benchFetch State.benchCompute
    dsimp only
    split
    · split
      · exact go _
      · obtain ⟨works, own⟩ := benchAsk_works (s := s) (k := k) (r := { r with stage := .fetch })
          (asks := (inputSlots r.desc).flatMap (poolAsks r.desc))
        exact ⟨works.mono (unit_benchEnd k), _, _, _, own⟩
    · exact go _

/-! Skipped (R72, R88, R352, R515). -/

/-- Registers that note a skip. -/
def noteRegs : List Nat := recordRegs Reg.ttErr ++ [Reg.ttOverrunUnit] ++ recordRegs Reg.faultErr ++ [Reg.faultErrCapture]

theorem noteSkip_changes {kind num : Nat} {offline : Bool} : ChangesOnly noteRegs s (s.noteSkip kind num offline) := by
  unfold State.noteSkip
  split
  · exact raise_changes _ _ _ (by decide) (by simp [noteRegs])
  · dsimp only
    split
    · exact (raiseTt_changes s 2).mono (by decide)
    · exact (ChangesOnly.wr (.inl (by decide))).trans ((raiseTt_changes _ 2).mono (by decide))

theorem noteSkip_sets {kind num : Nat} : bit ((s.noteSkip kind num false).rd Reg.ttErr) 2 = true := raiseTt_sets _ (by decide)

theorem localRead_state (s : State) (o n : Nat) : ∃ x, (s.localRead o n).2 = s.withFree x := by
  unfold State.localRead
  split
  · exact ⟨s.free, rfl⟩
  · split
    · exact ⟨s.free, rfl⟩
    · exact ⟨_, rfl⟩

/-- Registers that a skip at a bench writes. -/
def benchSkipRegs (k : BenchId) : List Nat := Reg.bnSkipped (k.val / 14) (benchIn k) :: (noteRegs ++ benchEndRegs k)

theorem noteRegs_zone {x : Nat} (mem : x ∈ noteRegs) : (0x200000 ≤ x ∧ x < 0x200030) ∨ (0x1300070 ≤ x ∧ x ≤ 0x1300080) := by
  have all : ∀ x ∈ noteRegs, (0x200000 ≤ x ∧ x < 0x200030) ∨ (0x1300070 ≤ x ∧ x ≤ 0x1300080) := by decide
  exact all x mem

/-- Whether a bench is offline is read of a register that no work of a unit writes. -/
theorem Works.benchOffline (h : Works l a b) (out : ∀ i < 6, Reg.faultOffline i ∉ l) (k : BenchId) :
    b.benchOffline k.val = a.benchOffline k.val := by
  have report : ∀ i < 6, reportReg (Reg.faultOffline i) = false := by decide
  have lt : k.val / 32 < 6 := by have := k.isLt; omega
  rw [State.benchOffline, h.rd (out _ lt) (report _ lt)]
  rfl

/-- The report of a skip, and the post of its status: what follows the count. -/
def State.benchSkipNote (s : State) (k : BenchId) (d : Bytes) (desc : Nat) : State :=
  let s := s.raiseBench k 6 (odOp d) St.timeout 15 desc
  (s.noteSkip 1 k.val (s.benchOffline k.val)).benchPost k d desc St.timeout

theorem benchSkipNote_works {d : Bytes} {desc : Nat} : BenchWorks k (noteRegs ++ benchEndRegs k) s (s.benchSkipNote k d desc)
    ∧ (∃ n p, (s.benchSkipNote k d desc).bench k = (s.bench k).working (s.bench k).run n p)
    ∧ (s.benchOffline k.val = false → bit ((s.benchSkipNote k d desc).rd Reg.ttErr) 2 = true) := by
  have raised : BenchWorks k (benchReportRegs k) s (s.raiseBench k 6 (odOp d) St.timeout 15 desc) := raiseBench_works
  have same : (s.raiseBench k 6 (odOp d) St.timeout 15 desc).benches = s.benches := raiseBench_benches
  have offline := raised.works.benchOffline (fun i lt mem => by
    have zone := benchReportRegs_zone mem
    have := k.isLt
    simp only [Reg.faultOffline, Reg.bnErrDescHi, benchIn] at zone
    omega) k
  unfold State.benchSkipNote
  dsimp only
  generalize s.raiseBench k 6 (odOp d) St.timeout 15 desc = u at *
  rw [offline]
  have noted : ChangesOnly noteRegs u (u.noteSkip 1 k.val (s.benchOffline k.val)) := noteSkip_changes
  have set : s.benchOffline k.val = false → bit ((u.noteSkip 1 k.val (s.benchOffline k.val)).rd Reg.ttErr) 2 = true :=
    fun on => by rw [on]; exact noteSkip_sets
  generalize u.noteSkip 1 k.val (s.benchOffline k.val) = v at *
  obtain ⟨posted, n, p, own⟩ := benchPost_works (s := v) (k := k) (d := d) (desc := desc) (st := St.timeout)
  have note : BenchWorks k noteRegs u v := .of_works noted.works noted.benches (fun mem => by
    have zone := noteRegs_zone mem
    have := k.isLt
    simp only [benchErr, Reg.bnErr, benchIn] at zone
    omega)
  refine ⟨((raised.mono ?_).trans (note.mono (List.subset_append_left ..))).trans (posted.mono (List.subset_append_right ..)), ⟨n, p, ?_⟩,
    fun on => ?_⟩
  · exact List.Subset.trans (benchReport_end k) (List.subset_append_right ..)
  · rw [own, bench_of_benches noted.benches, bench_of_benches same]
  · rw [posted.works.rd (fun mem => ?_) (by decide)]
    · exact set on
    · rcases List.mem_append.1 mem with own | unit
      · have zone := benchReportRegs_zone own
        simp only [Reg.ttErr, Reg.bnErr] at zone
        omega
      · have zone := unitRegs_zone unit
        simp only [Reg.ttErr] at zone
        omega

/-- The counters of a bench lie apart from what notes a skip. -/
theorem benchCount_note {x : Nat} (low : 0xD00000 + 0x10000 * (k.val / 14) + 0x1000 * benchIn k ≤ x)
    (high : x < Reg.bnErr (k.val / 14) (benchIn k)) : x ∉ noteRegs ++ benchEndRegs k ∧ reportReg x = false := by
  obtain ⟨end_, report⟩ := benchCount_apart low high
  refine ⟨fun mem => (List.mem_append.1 mem).elim (fun note => ?_) end_, report⟩
  have zone := noteRegs_zone note
  have lt := k.isLt
  simp only [Reg.bnErr, benchIn] at low high
  omega

theorem benchSkipped_apart (k : BenchId) : Reg.bnSkipped (k.val / 14) (benchIn k) ∉ noteRegs ++ benchEndRegs k
    ∧ reportReg (Reg.bnSkipped (k.val / 14) (benchIn k)) = false :=
  benchCount_note (by simp only [Reg.bnSkipped]; omega) (by simp only [Reg.bnSkipped, Reg.bnErr]; omega)

/-- No work of a bench takes a bench offline. -/
theorem benchSkipRegs_online (k : BenchId) : ∀ i < 6, Reg.faultOffline i ∉ benchSkipRegs k := fun i lt mem => by
  have bound := k.isLt
  rcases List.mem_cons.1 mem with own | mem
  · simp only [Reg.faultOffline, Reg.bnSkipped, benchIn] at own
    omega
  · rcases List.mem_append.1 mem with note | mem
    · have zone := noteRegs_zone note
      simp only [Reg.faultOffline] at zone
      omega
    · rcases List.mem_append.1 mem with own | unit
      · have zone := benchReportRegs_zone own
        simp only [Reg.faultOffline, Reg.bnErrDescHi, benchIn] at zone
        omega
      · have zone := unitRegs_zone unit
        simp only [Reg.faultOffline] at zone
        omega

theorem benchSkip_works {e : BitVec 128} : BenchWorks k (benchSkipRegs k) s (s.benchSkip k e)
    ∧ (∃ n p, (s.benchSkip k e).bench k = (s.bench k).working (s.bench k).run n p)
    ∧ Counted (Reg.bnSkipped (k.val / 14) (benchIn k)) 1 s (s.benchSkip k e)
    ∧ (s.benchOffline k.val = false → bit ((s.benchSkip k e).rd Reg.ttErr) 2 = true) := by
  obtain ⟨x, read⟩ := localRead_state s (ttDescOffset e) 384
  have skip : s.benchSkip k e = ((s.withFree x).countBench k Reg.bnSkipped 1).benchSkipNote k (s.localRead (ttDescOffset e) 384).1
      (ttDescOffset e) := by
    rw [← read]
    rfl
  rw [skip]
  have drawn : BenchWorks k [] s (s.withFree x) := .of_works .withFree rfl List.not_mem_nil
  have counted : BenchWorks k [Reg.bnSkipped (k.val / 14) (benchIn k)] (s.withFree x) ((s.withFree x).countBench k Reg.bnSkipped 1) :=
    countBench_works (by simp [benchErr, Reg.bnErr, Reg.bnSkipped])
  have count := countBench_counts (s.withFree x) k Reg.bnSkipped 1
  have own : ((s.withFree x).countBench k Reg.bnSkipped 1).bench k = s.bench k := bench_of_benches (by rfl) k
  have offline : ((s.withFree x).countBench k Reg.bnSkipped 1).benchOffline k.val = s.benchOffline k.val :=
    counted.works.benchOffline (fun i lt mem => by
      have e := List.mem_singleton.1 mem
      have := k.isLt
      simp only [Reg.faultOffline, Reg.bnSkipped, benchIn] at e
      omega) k
  generalize (s.withFree x).countBench k Reg.bnSkipped 1 = u at *
  obtain ⟨noted, ⟨n, p, kept⟩, set⟩ := benchSkipNote_works (s := u) (k := k) (d := (s.localRead (ttDescOffset e) 384).1)
    (desc := ttDescOffset e)
  refine ⟨((drawn.mono (List.nil_subset _)).trans (counted.mono (singleton_sub (List.mem_cons_self ..)))).trans
    (noted.mono (List.subset_cons_self ..)), ⟨n, p, by rw [kept, own]⟩, ?_, fun on => set (offline.trans on)⟩
  exact count.amid drawn.works noted.works List.not_mem_nil (benchSkipped_apart k).1 (benchSkipped_apart k).2

/-! The LAUNCH entries that fire (R72, R352). -/

/-- A later LAUNCH entry of a firing is skipped. -/
def State.skipLaunch (s : State) (k : BenchId) (q : Nat × BitVec 128) : State := (s.traceFiring 1 k.val q.1 q.2 true).benchSkip k q.2

theorem skipLaunch_works {q : Nat × BitVec 128} : BenchWorks k (benchSkipRegs k) s (s.skipLaunch k q)
    ∧ (∃ n p, (s.skipLaunch k q).bench k = (s.bench k).working (s.bench k).run n p)
    ∧ Counted (Reg.bnSkipped (k.val / 14) (benchIn k)) 1 s (s.skipLaunch k q)
    ∧ (s.benchOffline k.val = false → bit ((s.skipLaunch k q).rd Reg.ttErr) 2 = true) := by
  obtain ⟨x, traced⟩ := traceEv_test s 0 (256 * 1 + k.val) false (leBytes 4 q.1 ++ leBytes 4 (ttAction q.2) ++ leBytes 4 (b2n true))
  have skip : s.skipLaunch k q = (s.withTest x).benchSkip k q.2 := congrArg (·.benchSkip k q.2) traced
  rw [skip]
  obtain ⟨works, own, count, set⟩ := benchSkip_works (s := s.withTest x) (k := k) (e := q.2)
  have traced : BenchWorks k (benchSkipRegs k) s (s.withTest x) :=
    ⟨ChangesOnly.withTest.works, fun _ _ => rfl, fun _ set => set⟩
  exact ⟨traced.trans works, own, count, set⟩

theorem skipLaunches_works (es : List (Nat × BitVec 128)) (s : State) :
    BenchWorks k (benchSkipRegs k) s (es.foldl (·.skipLaunch k ·) s)
    ∧ (∃ n p, (es.foldl (·.skipLaunch k ·) s).bench k = (s.bench k).working (s.bench k).run n p)
    ∧ Counted (Reg.bnSkipped (k.val / 14) (benchIn k)) es.length s (es.foldl (·.skipLaunch k ·) s)
    ∧ (s.benchOffline k.val = false → (es ≠ [] ∨ bit (s.rd Reg.ttErr) 2 = true) →
        bit ((es.foldl (·.skipLaunch k ·) s).rd Reg.ttErr) 2 = true) := by
  induction es generalizing s with
  | nil =>
    refine ⟨.refl k s, ⟨_, _, rfl⟩, ?_, fun _ set => set.resolve_left (· rfl)⟩
    have := (s.rd (Reg.bnSkipped (k.val / 14) (benchIn k))).isLt
    simp only [Counted, List.length_nil, List.foldl_nil]
    omega
  | cons e es ih =>
    obtain ⟨works, ⟨n, p, own⟩, count, set⟩ := skipLaunch_works (s := s) (k := k) (q := e)
    obtain ⟨worksRest, ⟨n', p', ownRest⟩, countRest, setRest⟩ := ih (s.skipLaunch k e)
    have offline := works.works.benchOffline (benchSkipRegs_online k) k
    refine ⟨works.trans worksRest, ⟨n', p', ?_⟩, ?_, fun on _ => setRest (offline.trans on) (.inr (set on))⟩
    · rw [List.foldl_cons, ownRest, own]
      rfl
    · rw [List.length_cons, Nat.add_comm]
      exact count.add countRest

end Sys2Proof.Machine

/-! ## Operators launched by the timetable (R72, R352, R515) -/
namespace Sys2Proof.Machine

variable {a b c s t u v : State} {l m : List Nat} {k : BenchId}

/-! The registers of a bench's work are among those of the statement. -/

theorem benchReport_regs (k : BenchId) : benchReportRegs k ⊆ benchRegs k := fun x mem => by
  simp only [benchReportRegs, benchRegs, List.map_cons, List.map_nil, List.mem_append, List.mem_cons, List.not_mem_nil,
    or_false] at mem ⊢
  tauto

theorem benchEnd_regs (k : BenchId) : benchEndRegs k ⊆ benchRegs k ++ unitRegs := fun _ mem =>
  (List.mem_append.1 mem).elim (fun own => List.mem_append_left _ (benchReport_regs k own)) (List.mem_append_right _)

theorem benchCounter_regs (k : BenchId) {reg : Nat → Nat → Nat}
    (mem : reg ∈ [Reg.bnErrCapture, Reg.bnErrDescLo, Reg.bnErrDescHi, Reg.bnLaunchTt, Reg.bnLaunchQ, Reg.bnSkipped, Reg.bnAborts,
      Reg.bnSat, Reg.bnNan]) : reg (k.val / 14) (benchIn k) ∈ benchRegs k ++ unitRegs :=
  List.mem_append_left _ (List.mem_append_right _ (List.mem_map_of_mem (f := fun reg => reg (k.val / 14) (benchIn k)) mem))

theorem benchRun_regs (k : BenchId) : benchRunRegs k ⊆ benchRegs k ++ unitRegs :=
  List.cons_subset.2 ⟨benchCounter_regs k (by simp), benchEnd_regs k⟩

theorem benchSkip_regs (k : BenchId) : benchSkipRegs k ⊆ benchRegs k ++ unitRegs ++ noteRegs := by
  refine List.cons_subset.2 ⟨List.mem_append_left _ (benchCounter_regs k (by simp)), fun _ mem => ?_⟩
  rcases List.mem_append.1 mem with note | end_
  · exact List.mem_append_right _ note
  · exact List.mem_append_left _ (benchEnd_regs k end_)

/-! A descriptor of the local memory. -/

/-- What a direct read returns depends on pool memory, the bound areas and the bytes left open alone. -/
theorem localRead_of (pool : b.pool = a.pool) (roll : b.roll = a.roll) (free : b.free = a.free) (o n : Nat) :
    (b.localRead o n).1 = (a.localRead o n).1 := by
  unfold State.localRead State.isDirect State.drawBytes
  rw [pool, roll, free]
  split_ifs <;> rfl

/-- The operator that a timetable entry starts (R352). -/
def State.ttRun (s : State) (k : BenchId) (index : Nat) (e : BitVec 128) : BenchRun :=
  let d := (s.localRead (ttDescOffset e) 384).1
  s.newRun ⟨.timetable index, ttDescOffset e, odJob d, s.bell.ticks, s.bell.bounds⟩ d
    (ttSeed s.tt.activeTag k.val index s.bell.now.period)

/-- Registers that the start by a timetable entry writes. -/
def benchTtRegs (k : BenchId) : List Nat := Reg.bnLaunchTt (k.val / 14) (benchIn k) :: benchRunRegs k

theorem benchLaunchTt_apart (k : BenchId) : Reg.bnLaunchTt (k.val / 14) (benchIn k) ∉ benchRunRegs k
    ∧ reportReg (Reg.bnLaunchTt (k.val / 14) (benchIn k)) = false := by
  have apart := benchCount_apart (k := k) (x := Reg.bnLaunchTt (k.val / 14) (benchIn k)) (by simp only [Reg.bnLaunchTt]; omega)
    (by simp only [Reg.bnLaunchTt, Reg.bnErr]; omega)
  exact ⟨fun mem => (List.mem_cons.1 mem).elim (by simp [Reg.bnLaunchTt, Reg.bnAborts]) apart.1, apart.2⟩

/-- The descriptor is read and the start counted. -/
theorem benchTimetable_eq (s : State) (k : BenchId) (i : Nat) (e : BitVec 128) : ∃ x, s.benchTimetable k i e =
    if s.localBad (ttDescOffset e) 384 then
      ((s.withFree x).countBench k Reg.bnLaunchTt 1).benchAbort k { s.ttRun k i e with desc := [] } St.media 15 []
    else
      match opRefusal (s.ttRun k i e).desc with
      | some st => ((s.withFree x).countBench k Reg.bnLaunchTt 1).benchRefused k (s.ttRun k i e) st
      | none => ((s.withFree x).countBench k Reg.bnLaunchTt 1).benchGo k (s.ttRun k i e) := by
  obtain ⟨x, read⟩ := localRead_state s (ttDescOffset e) 384
  refine ⟨x, ?_⟩
  unfold State.benchTimetable State.ttRun
  dsimp only
  rw [read]
  rfl

theorem benchTimetable_works {i : Nat} {e : BitVec 128} : BenchWorks k (benchTtRegs k) s (s.benchTimetable k i e)
    ∧ (∃ run n p, (s.benchTimetable k i e).bench k = (s.bench k).working run n p)
    ∧ Counted (Reg.bnLaunchTt (k.val / 14) (benchIn k)) 1 s (s.benchTimetable k i e)
    ∧ (s.localBad (ttDescOffset e) 384 = false →
        (opRefusal (s.ttRun k i e).desc = none → odAcq (s.ttRun k i e).desc = true →
          ((s.benchTimetable k i e).bench k).run = some { s.ttRun k i e with
            lastRead := s.bell.ticks
            reqs := reqsOf (s.bench k).nextReq s.bell.ticks [acquireAsk (s.ttRun k i e).desc] })
        ∧ ∀ st, opRefusal (s.ttRun k i e).desc = some st → ((s.benchTimetable k i e).bench k).run = none
            ∧ bit ((s.benchTimetable k i e).rd (benchErr k)) 1 = true) := by
  obtain ⟨x, start⟩ := benchTimetable_eq s k i e
  rw [start]
  have drawn : BenchWorks k [] s (s.withFree x) := .of_works .withFree rfl List.not_mem_nil
  have counted : BenchWorks k [Reg.bnLaunchTt (k.val / 14) (benchIn k)] (s.withFree x) ((s.withFree x).countBench k Reg.bnLaunchTt 1) :=
    countBench_works (by simp [benchErr, Reg.bnErr, Reg.bnLaunchTt])
  have before : BenchWorks k (benchTtRegs k) s ((s.withFree x).countBench k Reg.bnLaunchTt 1) :=
    (drawn.mono (List.nil_subset _)).trans (counted.mono (singleton_sub (List.mem_cons_self ..)))
  have count := countBench_counts (s.withFree x) k Reg.bnLaunchTt 1
  have own : ((s.withFree x).countBench k Reg.bnLaunchTt 1).bench k = s.bench k := bench_of_benches (by rfl) k
  have ticks : ((s.withFree x).countBench k Reg.bnLaunchTt 1).bell.ticks = s.bell.ticks := rfl
  generalize (s.withFree x).countBench k Reg.bnLaunchTt 1 = u at *
  have counts : ∀ {v}, BenchWorks k (benchRunRegs k) u v → Counted (Reg.bnLaunchTt (k.val / 14) (benchIn k)) 1 s v := fun after =>
    count.amid drawn.works after.works List.not_mem_nil (benchLaunchTt_apart k).1 (benchLaunchTt_apart k).2
  have rest := List.subset_cons_self (Reg.bnLaunchTt (k.val / 14) (benchIn k)) (benchRunRegs k)
  split
  · next bad =>
    obtain ⟨works, n, p, idle⟩ := benchAbort_works (s := u) (k := k) (r := { s.ttRun k i e with desc := [] }) (st := St.media)
      (operand := 15) (bits := [])
    exact ⟨before.trans (works.mono rest), ⟨none, n, p, by rw [idle, own]⟩, counts works, fun no => absurd bad (by simp [no])⟩
  · split
    · next st refused =>
      obtain ⟨works, ⟨n, p, idle⟩, -, set⟩ := benchRefused_works (s := u) (k := k) (r := s.ttRun k i e) (st := st)
      have works := works.mono (benchEnd_run k)
      refine ⟨before.trans (works.mono rest), ⟨none, n, p, by rw [idle, own]⟩, counts works, fun _ => ⟨fun pass => ?_, fun _ _ => ⟨?_, set⟩⟩⟩
      · exact nomatch refused.symm.trans pass
      · rw [idle]
        rfl
    · next pass =>
      obtain ⟨works, ⟨run, n, p, goes⟩, asks⟩ := benchGo_works (s := u) (k := k) (r := s.ttRun k i e)
      have works := works.mono (benchEnd_run k)
      refine ⟨before.trans (works.mono rest), ⟨run, n, p, by rw [goes, own]⟩, counts works, fun _ => ⟨fun _ acq => ?_, fun st refused => ?_⟩⟩
      · rw [asks acq, own, ticks]
        rfl
      · exact nomatch pass.symm.trans refused

/-! TT_LAUNCH_FIRE. -/

/-- A bench on which timetable entries fire. -/
def State.benchFired (s : State) (k : BenchId) : State := s.setBench k { s.bench k with firedAt := s.bell.ticks + 1 }

theorem benchFired_eq (s : State) (k : BenchId) : ∃ x y, s.benchFired k = (s.withBenches x).withTest y := by
  obtain ⟨y, e⟩ := setBench_eq s k { s.bench k with firedAt := s.bell.ticks + 1 }
  exact ⟨_, y, e⟩

theorem benchFired_bench (s : State) (k : BenchId) :
    (s.benchFired k).bench k = { s.bench k with firedAt := s.bell.ticks + 1 } := bench_setBench_same ..

theorem benchFired_free (s : State) (k : BenchId) : (s.benchFired k).benchFree k = s.benchFree k := by
  have run : ((s.benchFired k).bench k).run = (s.bench k).run := by rw [benchFired_bench]
  obtain ⟨x, y, e⟩ := benchFired_eq s k
  unfold State.benchFree
  rw [run, e]
  rfl

theorem exec_ttLaunchFire {e : Nat × BitVec 128} {es : List (Nat × BitVec 128)} (fires : s.firingNow 1 k.val 1 = e :: es)
    (first : (s.bench k).firedAt ≠ s.bell.ticks + 1) : exec (.ttLaunchFire k) s = .next (if s.benchFree k then
      es.foldl (·.skipLaunch k ·) (((s.benchFired k).traceFiring 1 k.val e.1 e.2 false).benchTimetable k e.1 e.2)
    else (e :: es).foldl (·.skipLaunch k ·) (s.benchFired k)) := by
  change execTtLaunchFire k s = _
  unfold execTtLaunchFire
  dsimp only
  rw [fires, if_neg (by simpa using first), ← benchFired_free s k]
  split
  · next free => rw [if_pos (show (s.benchFired k).benchFree k = true from free)]; rfl
  · next busy => rw [if_neg (show ¬ (s.benchFired k).benchFree k = true from busy)]; rfl

theorem benchTt_regs (k : BenchId) : benchTtRegs k ⊆ benchRegs k ++ unitRegs :=
  List.cons_subset.2 ⟨benchCounter_regs k (by simp), benchRun_regs k⟩

theorem benchLaunchTt_skip (k : BenchId) : Reg.bnLaunchTt (k.val / 14) (benchIn k) ∉ benchSkipRegs k := fun mem => by
  rcases List.mem_cons.1 mem with own | rest
  · simp [Reg.bnLaunchTt, Reg.bnSkipped] at own
  · exact (benchCount_note (by simp only [Reg.bnLaunchTt]; omega) (by simp only [Reg.bnLaunchTt, Reg.bnErr]; omega)).1 rest

theorem benchSkipped_tt (k : BenchId) : Reg.bnSkipped (k.val / 14) (benchIn k) ∉ benchTtRegs k := fun mem => by
  rcases List.mem_cons.1 mem with own | mem
  · simp [Reg.bnLaunchTt, Reg.bnSkipped] at own
  · rcases List.mem_cons.1 mem with own | rest
    · simp [Reg.bnAborts, Reg.bnSkipped] at own
    · exact (benchCount_apart (by simp only [Reg.bnSkipped]; omega) (by simp only [Reg.bnSkipped, Reg.bnErr]; omega)).1 rest

/-- LAUNCH entries that fire on a bench that takes no operator are skipped (R72, R352). -/
theorem ttLaunchFire_busy {es : List (Nat × BitVec 128)} (some : es ≠ []) (done : t = es.foldl (·.skipLaunch k ·) (s.benchFired k)) :
    BenchWorks k (benchRegs k ++ unitRegs ++ noteRegs) s t
    ∧ (t.bench k).firedAt = s.bell.ticks + 1 ∧ (t.bench k).queue = (s.bench k).queue ∧ (t.bench k).run = (s.bench k).run
    ∧ Counted (Reg.bnSkipped (k.val / 14) (benchIn k)) es.length s t
    ∧ (s.benchOffline k.val = false → bit (t.rd Reg.ttErr) 2 = true) := by
  obtain ⟨works, ⟨n, p, own⟩, count, set⟩ := skipLaunches_works (k := k) es (s.benchFired k)
  have fired : BenchWorks k [] s (s.benchFired k) := setBench_works ..
  rw [← done] at works own count set
  rw [own, benchFired_bench]
  refine ⟨(fired.mono (List.nil_subset _)).trans (works.mono (benchSkip_regs k)), rfl, rfl, rfl, ?_, fun on => set ?_ (.inl some)⟩
  · exact count.amid fired.works (.refl (l := []) _) List.not_mem_nil List.not_mem_nil (benchSkipped_apart k).2
  · exact (fired.works.benchOffline (fun _ _ => List.not_mem_nil) k).trans on

/-- The first of the LAUNCH entries that fire on a free bench starts its operator; the others are skipped (R72, R352). -/
theorem ttLaunchFire_free {e : Nat × BitVec 128} {es : List (Nat × BitVec 128)} (done : t = es.foldl (·.skipLaunch k ·)
      (((s.benchFired k).traceFiring 1 k.val e.1 e.2 false).benchTimetable k e.1 e.2)) :
    BenchWorks k (benchRegs k ++ unitRegs ++ noteRegs) s t
    ∧ (t.bench k).firedAt = s.bell.ticks + 1 ∧ (t.bench k).queue = (s.bench k).queue
    ∧ Counted (Reg.bnLaunchTt (k.val / 14) (benchIn k)) 1 s t ∧ Counted (Reg.bnSkipped (k.val / 14) (benchIn k)) es.length s t
    ∧ (s.localBad (ttDescOffset e.2) 384 = false →
        (opRefusal (s.localRead (ttDescOffset e.2) 384).1 = none → odAcq (s.localRead (ttDescOffset e.2) 384).1 = true →
          ∃ r, (t.bench k).run = some r ∧ r.desc = (s.localRead (ttDescOffset e.2) 384).1 ∧ r.stage = .acquire
            ∧ r.seed = ttSeed s.tt.activeTag k.val e.1 s.bell.now.period ∧ r.started = s.bell.ticks
            ∧ r.reqs.map UReq.addr = [odAcqFlag (s.localRead (ttDescOffset e.2) 384).1 / 128 * 128])
        ∧ ∀ st, opRefusal (s.localRead (ttDescOffset e.2) 384).1 = some st →
            (t.bench k).run = none ∧ bit (t.rd (benchErr k)) 1 = true) := by
  obtain ⟨z, traced⟩ := traceEv_test (s.benchFired k) 0 (256 * 1 + k.val) false
    (leBytes 4 e.1 ++ leBytes 4 (ttAction e.2) ++ leBytes 4 (b2n false))
  have traced : (s.benchFired k).traceFiring 1 k.val e.1 e.2 false = (s.benchFired k).withTest z := traced
  have before : BenchWorks k [] s ((s.benchFired k).withTest z) :=
    (setBench_works ..).trans ⟨ChangesOnly.withTest.works, fun _ _ => rfl, fun _ set => set⟩
  have own : ((s.benchFired k).withTest z).bench k = { s.bench k with firedAt := s.bell.ticks + 1 } := benchFired_bench s k
  obtain ⟨bad, read, seed, ticks⟩ : ((s.benchFired k).withTest z).localBad (ttDescOffset e.2) 384 = s.localBad (ttDescOffset e.2) 384
      ∧ (((s.benchFired k).withTest z).ttRun k e.1 e.2).desc = (s.localRead (ttDescOffset e.2) 384).1
      ∧ (((s.benchFired k).withTest z).ttRun k e.1 e.2).seed = ttSeed s.tt.activeTag k.val e.1 s.bell.now.period
      ∧ (((s.benchFired k).withTest z).ttRun k e.1 e.2).started = s.bell.ticks := by
    obtain ⟨x, y, fired⟩ := benchFired_eq s k
    rw [fired]
    exact ⟨rfl, localRead_of (a := s) (b := ((s.withBenches x).withTest y).withTest z) rfl rfl rfl .., rfl, rfl⟩
  rw [traced] at done
  obtain ⟨started, ⟨run, n, p, runs⟩, launched, outcome⟩ := benchTimetable_works (s := (s.benchFired k).withTest z) (k := k) (i := e.1)
    (e := e.2)
  rw [bad, read] at outcome
  generalize ((s.benchFired k).withTest z).benchTimetable k e.1 e.2 = u at *
  obtain ⟨skipped, ⟨n', p', kept⟩, count, -⟩ := skipLaunches_works (k := k) es u
  rw [← done] at skipped kept count
  refine ⟨((before.mono (List.nil_subset _)).trans (started.mono ?_)).trans (skipped.mono (benchSkip_regs k)), ?_, ?_, ?_, ?_,
    fun sound => ⟨fun pass acq => ?_, fun st refused => ?_⟩⟩
  · exact List.Subset.trans (benchTt_regs k) (List.subset_append_left ..)
  · rw [kept, runs, own]
    rfl
  · rw [kept, runs, own]
    rfl
  · exact launched.amid before.works skipped.works List.not_mem_nil (benchLaunchTt_skip k) (benchLaunchTt_apart k).2
  · exact count.amid (before.mono (List.nil_subset (benchTtRegs k)) |>.trans started).works (.refl (l := []) _) (benchSkipped_tt k)
      List.not_mem_nil (benchSkipped_apart k).2
  · rw [kept]
    refine ⟨_, (outcome sound).1 pass acq, read, rfl, seed, ticks, rfl⟩
  · rw [kept]
    exact ⟨((outcome sound).2 st refused).1, skipped.errs 1 ((outcome sound).2 st refused).2⟩

end Sys2Proof.Machine

/-! ## LAUNCH frames (R134, R353, R354) -/
namespace Sys2Proof.Machine

variable {a b c s t u v : State} {l m : List Nat} {k : BenchId}

/-- FABRIC_LAUNCH of a frame that has passed the check. -/
theorem exec_fabricLaunch {p : Passed} (passed : s.sw.passed.find? (fun p => p.frame.opcode == 0x38) = some p) :
    exec .fabricLaunch s =
      if 168 ≤ p.frame.aux.toNat && p.frame.aux.toNat != 0xFFFF then
        .next ((s.withSw { s.sw with passed := s.sw.passed.filter (fun q => q.id != p.id) }).complete p.cluster p.cls p.frame
          St.rsvdSet false [] 0 Config.memoryUnit)
      else
        match s.launchBench p.frame.aux.toNat with
        | none => .next ((s.withSw { s.sw with passed := s.sw.passed.filter (fun q => q.id != p.id) }).complete p.cluster p.cls p.frame
            St.timeout false [] 0 Config.memoryUnit)
        | some b => .next ((s.withSw { s.sw with passed := s.sw.passed.filter (fun q => q.id != p.id) }).setBench b
            { s.bench b with queue := (s.bench b).queue ++
              [⟨.fabric p.frame p.cls p.cluster, p.frame.addr.toNat, p.frame.job, s.bell.ticks, s.bell.bounds⟩] }) := by
  change execFabricLaunch s = _
  unfold execFabricLaunch State.takePassed
  rw [passed]
  rfl

/-- A LAUNCH that no bench takes is answered. -/
theorem launchAnswered {p : Passed} {st : BitVec 8} (taken : Works fabricRegs s u) (same : u.benches = s.benches) :
    WorkEffect fabricRegs s (u.complete p.cluster p.cls p.frame st false [] 0 Config.memoryUnit)
    ∧ (Answerable s p.frame p.cls →
        Completed p.frame st [] s (u.complete p.cluster p.cls p.frame st false [] 0 Config.memoryUnit)
        ∧ (u.complete p.cluster p.cls p.frame st false [] 0 Config.memoryUnit).benches = s.benches) := by
  refine ⟨(taken.trans complete_works).effect, fun able => ⟨?_, complete_benches.trans same⟩⟩
  have done := complete_completed (k := p.cluster) (st := st) (data := false) (payload := []) (flags := 0)
    (unit := Config.memoryUnit) (taken.answerable (fun x mem => unitRegs_unrouted x (fabric_unit mem)) able)
  rw [cplData_nil] at done
  exact done.before taken.nextId

theorem fabricLaunch_effect {p : Passed} (passed : s.sw.passed.find? (fun p => p.frame.opcode == 0x38) = some p) :
    let f := p.frame
    let bad := 168 ≤ f.aux.toNat ∧ f.aux ≠ 0xFFFF
    ∃ t, exec .fabricLaunch s = .next t ∧ WorkEffect fabricRegs s t
    ∧ (bad → Answerable s f p.cls → Completed f St.rsvdSet [] s t ∧ t.benches = s.benches)
    ∧ (¬ bad → s.launchBench f.aux.toNat = none → Answerable s f p.cls → Completed f St.timeout [] s t ∧ t.benches = s.benches)
    ∧ (∀ b, ¬ bad → s.launchBench f.aux.toNat = some b →
        t.bench b = { s.bench b with queue := (s.bench b).queue ++ [⟨.fabric f p.cls p.cluster, f.addr.toNat, f.job, s.bell.ticks, s.bell.bounds⟩] }
        ∧ (∀ b', b' ≠ b → t.bench b' = s.bench b') ∧ t.sw.queue = s.sw.queue) := by
  intro f bad
  have run := exec_fabricLaunch passed
  have taken : Works fabricRegs s (s.withSw { s.sw with passed := s.sw.passed.filter (fun q => q.id != p.id) }) :=
    .of_moves (.withSw ⟨rfl, rfl⟩ (Nat.le_refl _)) rfl
  have same : (s.withSw { s.sw with passed := s.sw.passed.filter (fun q => q.id != p.id) }).benches = s.benches := rfl
  have queue : (s.withSw { s.sw with passed := s.sw.passed.filter (fun q => q.id != p.id) }).sw.queue = s.sw.queue := rfl
  generalize s.withSw { s.sw with passed := s.sw.passed.filter (fun q => q.id != p.id) } = u at *
  have spells : (168 ≤ p.frame.aux.toNat && p.frame.aux.toNat != 0xFFFF) = true ↔ bad := by
    change _ ↔ 168 ≤ p.frame.aux.toNat ∧ p.frame.aux ≠ 0xFFFF
    simp [BitVec.toNat_eq]
  by_cases no : bad
  · rw [if_pos (spells.2 no)] at run
    obtain ⟨effect, answered⟩ := launchAnswered (p := p) (st := St.rsvdSet) taken same
    exact ⟨_, run, effect, fun _ => answered, fun ok => absurd no ok, fun _ ok => absurd no ok⟩
  · rw [if_neg (fun h => no (spells.1 h))] at run
    cases takes : s.launchBench p.frame.aux.toNat with
    | none =>
      rw [takes] at run
      obtain ⟨effect, answered⟩ := launchAnswered (p := p) (st := St.timeout) taken same
      exact ⟨_, run, effect, fun yes => absurd yes no, fun _ _ => answered, fun b _ e => nomatch e⟩
    | some b =>
      rw [takes] at run
      obtain ⟨y, set⟩ := setBench_eq u b { s.bench b with queue := (s.bench b).queue ++
        [⟨.fabric p.frame p.cls p.cluster, p.frame.addr.toNat, p.frame.job, s.bell.ticks, s.bell.bounds⟩] }
      refine ⟨_, run, (taken.trans (setBench_works ..).works).effect, fun yes => absurd yes no, nofun, fun b' _ e => ?_⟩
      cases e
      refine ⟨bench_setBench_same .., fun j ne => (bench_setBench_other _ _ ne).trans (bench_of_benches same j), ?_⟩
      rw [set]
      exact queue

/-! BENCH_QUEUE_TIMEOUT (R354). -/

theorem benchPost_if {d : Bytes} {desc : Nat} {st : BitVec 8} (posts : Bool) :
    BenchWorks k (benchEndRegs k) s (if posts then s.benchPost k d desc st else s)
    ∧ ∃ n p, (if posts then s.benchPost k d desc st else s).bench k = (s.bench k).working (s.bench k).run n p := by
  split
  · exact benchPost_works
  · exact ⟨.refl k s, _, _, rfl⟩

section Timeout
variable {f : Frame} {cls : Cls} {cluster : Fin 12} {launch : Launch} {rest : List Launch}

/-- A launch that leaves the queue of its bench unstarted. -/
def State.benchDequeued (s : State) (k : BenchId) (rest : List Launch) : State := s.setBench k { s.bench k with queue := rest, head := [] }

/-- The descriptor of the launch at the head of the queue has come whole. -/
def headKnown (x : Bench) : Bool := !x.head.isEmpty && allBack x.head && (firstFailure x.head).isNone

/-- A launch that waited a term: its report, its post where its descriptor is known and sound, its answer. -/
def State.launchLate (s : State) (k : BenchId) (launch : Launch) (known : Bool) (d : Bytes) : State :=
  let s := s.raiseBench k 5 (odOp d) St.timeout 15 launch.addr
  (if known && (opRefusal d).isNone && odJob d == launch.job then s.benchPost k d launch.addr St.timeout else s).launchCpl k launch
    St.timeout

theorem exec_benchQueueTimeout (waits : (s.bench k).queue = launch :: rest) (late : launch.bound + s.bell.len ≤ s.bell.bounds) :
    exec (.benchQueueTimeout k) s = .next ((s.benchDequeued k rest).launchLate k launch (headKnown (s.bench k))
      (if headKnown (s.bench k) then headDesc launch (s.bench k).head else [])) := by
  change execBenchQueueTimeout k s = _
  unfold execBenchQueueTimeout
  dsimp only
  rw [waits]
  exact if_neg (Nat.not_lt.2 late)

theorem launchLate_works {known : Bool} {d : Bytes} (src : launch.src = .fabric f cls cluster) :
    BenchWorks k (benchEndRegs k) s (s.launchLate k launch known d)
    ∧ (∃ n p, (s.launchLate k launch known d).bench k = (s.bench k).working (s.bench k).run n p)
    ∧ bit ((s.launchLate k launch known d).rd (benchErr k)) 5 = true
    ∧ (Answerable s f cls → Completed f St.timeout [] s (s.launchLate k launch known d)) := by
  unfold State.launchLate
  dsimp only
  have raised : BenchWorks k (benchEndRegs k) s (s.raiseBench k 5 (odOp d) St.timeout 15 launch.addr) :=
    raiseBench_works.mono (benchReport_end k)
  have same : (s.raiseBench k 5 (odOp d) St.timeout 15 launch.addr).benches = s.benches := raiseBench_benches
  have set := raiseBench_sets (s := s) (k := k) (n := 5) (op := odOp d) (st := St.timeout) (operand := 15) (desc := launch.addr)
    (by decide)
  generalize s.raiseBench k 5 (odOp d) St.timeout 15 launch.addr = u at *
  obtain ⟨posted, n, p, own⟩ := benchPost_if (s := u) (k := k) (d := d) (desc := launch.addr) (st := St.timeout)
    (known && (opRefusal d).isNone && odJob d == launch.job)
  generalize (if known && (opRefusal d).isNone && odJob d == launch.job then u.benchPost k d launch.addr St.timeout else u) = v at *
  obtain ⟨answered, kept⟩ := launchCpl_works (s := v) (k := k) (launch := launch) (st := St.timeout)
  have before := raised.trans posted
  have after := answered.mono (unit_benchEnd k)
  refine ⟨before.trans after, ⟨n, p, by rw [bench_of_benches kept, own, bench_of_benches same]⟩, (posted.trans after).errs 5 set,
    fun able => ?_⟩
  exact (launchCpl_completed src (before.works.answerable (benchEndRegs_unrouted k) able)).before before.works.nextId

/-- A launch that has waited a term leaves the queue with TIMEOUT (R354). -/
theorem benchQueueTimeout_effect (waits : (s.bench k).queue = launch :: rest) (src : launch.src = .fabric f cls cluster)
    (late : launch.bound + s.bell.len ≤ s.bell.bounds) :
    ∃ t, exec (.benchQueueTimeout k) s = .next t ∧ BenchWorks k (benchRegs k ++ unitRegs) s t ∧ (t.bench k).queue = rest
    ∧ (t.bench k).head = [] ∧ (t.bench k).run = (s.bench k).run ∧ bit (t.rd (benchErr k)) 5 = true
    ∧ (Answerable s f cls → Completed f St.timeout [] s t) := by
  have left : BenchWorks k (benchEndRegs k) s (s.benchDequeued k rest) := setBench_works ..
  have own : (s.benchDequeued k rest).bench k = { s.bench k with queue := rest, head := [] } := bench_setBench_same ..
  obtain ⟨works, ⟨n, p, kept⟩, set, answered⟩ := launchLate_works (s := s.benchDequeued k rest) (k := k) (launch := launch)
    (known := headKnown (s.bench k)) (d := if headKnown (s.bench k) then headDesc launch (s.bench k).head else []) src
  refine ⟨_, exec_benchQueueTimeout waits late, (left.trans works).mono (benchEnd_regs k), ?_⟩
  rw [kept, own]
  exact ⟨rfl, rfl, rfl, set, fun able => (answered (left.works.answerable (benchEndRegs_unrouted k) able)).before left.works.nextId⟩

end Timeout

end Sys2Proof.Machine

/-! ## The launch at the head of a bench's queue (R353, R354) -/
namespace Sys2Proof.Machine

variable {a b c s t u v : State} {l m : List Nat} {k : BenchId} {f : Frame} {cls : Cls} {cluster : Fin 12} {launch : Launch}
  {rest : List Launch}

/-! The reads of its descriptor. -/

theorem reqsOf_addr (i tick : Nat) (asks : List Ask) : (reqsOf i tick asks).map UReq.addr = asks.map Ask.addr := by
  have second : ((List.range asks.length).zip asks).map Prod.snd = asks := List.map_snd_zip (by simp)
  rw [reqsOf, List.map_map]
  conv_rhs => rw [← second, List.map_map]
  rfl

theorem reqsOf_got {i tick : Nat} {asks : List Ask} {r : UReq} (mem : r ∈ reqsOf i tick asks) : r.got = none := by
  obtain ⟨p, -, rfl⟩ := List.mem_map.1 mem
  rfl

/-- The reads of a descriptor go out, and wait at the head of the queue (R353). -/
theorem benchReadHead_works (src : launch.src = .fabric f cls cluster) :
    BenchWorks k unitRegs s (s.benchReadHead k launch)
    ∧ ∃ reads n, (s.benchReadHead k launch).bench k = { s.bench k with head := reads, nextReq := n }
        ∧ reads.map UReq.addr = lineAddrs launch.addr 384 ∧ ∀ r ∈ reads, r.got = none := by
  unfold State.benchReadHead
  rw [src]
  dsimp only
  refine ⟨(setBench_works ..).trans (benchSends_works (fun _ _ => ?_) _ _).1, _, _,
    bench_of_working (benchSends_works (k := k) (fun _ _ => ?_) _ _).2, ?_, fun r mem => reqsOf_got mem⟩
  · exact ⟨_, _, _, _, _, _, _, _, rfl⟩
  · exact ⟨_, _, _, _, _, _, _, _, rfl⟩
  · rw [reqsOf_addr, List.map_map]
    exact List.map_id _

/-! BENCH_LAUNCH_START. -/

/-- The launch at the head of the queue starts, as far as the count of its start. -/
def State.launchTaken (s : State) (k : BenchId) (rest : List Launch) : State := (s.benchDequeued k rest).countBench k Reg.bnLaunchQ 1

/-- The operator of a launch. -/
def State.launchRun (s : State) (k : BenchId) (launch : Launch) (rest : List Launch) (d : Bytes) : BenchRun :=
  (s.benchDequeued k rest).newRun launch d (odSeed d)

section Start
variable (waits : (s.bench k).queue = launch :: rest)
include waits

theorem exec_benchLaunchStart_read (unread : (s.bench k).head = []) :
    exec (.benchLaunchStart k) s = .next (if s.benchOffline k.val then s else s.benchReadHead k launch) := by
  change execBenchLaunchStart k s = _
  unfold execBenchLaunchStart
  dsimp only
  rw [waits, unread, apply_ite Host.Outcome.next]
  rfl

theorem exec_benchLaunchStart_waits (read : (s.bench k).head ≠ []) (no : (allBack (s.bench k).head && s.benchFree k) = false) :
    exec (.benchLaunchStart k) s = .next s := by
  have waiting : (!allBack (s.bench k).head || !s.benchFree k) = true := by rw [← Bool.not_and, no]; rfl
  change execBenchLaunchStart k s = _
  unfold execBenchLaunchStart
  dsimp only
  rw [waits]
  exact (if_neg (by simpa using read)).trans (if_pos waiting)

section Came
variable (read : (s.bench k).head ≠ []) (came : (allBack (s.bench k).head && s.benchFree k) = true)
include read came

theorem exec_benchLaunchStart_fails {st : Status} (fails : firstFailure (s.bench k).head = some st) :
    exec (.benchLaunchStart k) s = .next ((s.launchTaken k rest).benchAbort k
      { s.launchRun k launch rest (headDesc launch (s.bench k).head) with desc := [] } st 15 []) := by
  have ready : ¬ (!allBack (s.bench k).head || !s.benchFree k) = true := by rw [← Bool.not_and, came]; nofun
  change execBenchLaunchStart k s = _
  unfold execBenchLaunchStart
  dsimp only
  rw [waits]
  refine (if_neg (by simpa using read)).trans ((if_neg ready).trans ?_)
  rw [fails]
  rfl

theorem exec_benchLaunchStart_came (sound : firstFailure (s.bench k).head = none) :
    let d := headDesc launch (s.bench k).head
    let r := s.launchRun k launch rest d
    (∀ st, opRefusal d = some st → exec (.benchLaunchStart k) s = .next ((s.launchTaken k rest).benchRefused k r st))
    ∧ (opRefusal d = none → odJob d ≠ launch.job → exec (.benchLaunchStart k) s =
        .next ((s.launchTaken k rest).benchRefused k r St.denied))
    ∧ (opRefusal d = none → odJob d = launch.job → exec (.benchLaunchStart k) s =
        .next (if s.benchFits k (opReserve d) then (s.launchTaken k rest).benchGo k r else s)) := by
  have ready : ¬ (!allBack (s.bench k).head || !s.benchFree k) = true := by rw [← Bool.not_and, came]; nofun
  have run : exec (.benchLaunchStart k) s = match opRefusal (headDesc launch (s.bench k).head) with
      | some st => .next ((s.launchTaken k rest).benchRefused k (s.launchRun k launch rest (headDesc launch (s.bench k).head)) st)
      | none =>
        if odJob (headDesc launch (s.bench k).head) != launch.job then
          .next ((s.launchTaken k rest).benchRefused k (s.launchRun k launch rest (headDesc launch (s.bench k).head)) St.denied)
        else if s.benchFits k (opReserve (headDesc launch (s.bench k).head)) then
          .next ((s.launchTaken k rest).benchGo k (s.launchRun k launch rest (headDesc launch (s.bench k).head)))
        else .next s := by
    change execBenchLaunchStart k s = _
    unfold execBenchLaunchStart
    dsimp only
    rw [waits]
    refine (if_neg (by simpa using read)).trans ((if_neg ready).trans ?_)
    rw [sound]
    rfl
  refine ⟨fun st refused => ?_, fun pass other => ?_, fun pass same => ?_⟩
  · rw [run, refused]
  · rw [run, pass]
    exact if_pos (bne_iff_ne.2 other)
  · rw [run, pass, apply_ite Host.Outcome.next]
    exact if_neg (by simp [same])

end Came

end Start

/-! What a start leaves. -/

theorem benchLaunchQ_apart (k : BenchId) : Reg.bnLaunchQ (k.val / 14) (benchIn k) ∉ benchRunRegs k
    ∧ reportReg (Reg.bnLaunchQ (k.val / 14) (benchIn k)) = false := by
  have apart := benchCount_apart (k := k) (x := Reg.bnLaunchQ (k.val / 14) (benchIn k)) (by simp only [Reg.bnLaunchQ]; omega)
    (by simp only [Reg.bnLaunchQ, Reg.bnErr]; omega)
  exact ⟨fun mem => (List.mem_cons.1 mem).elim (by simp [Reg.bnLaunchQ, Reg.bnAborts]) apart.1, apart.2⟩

/-- The start of a launch is counted, and it leaves the queue (R353). -/
theorem launchTaken_works (s : State) (k : BenchId) (rest : List Launch) :
    BenchWorks k [Reg.bnLaunchQ (k.val / 14) (benchIn k)] s (s.launchTaken k rest)
    ∧ (s.launchTaken k rest).bench k = { s.bench k with queue := rest, head := [] }
    ∧ Counted (Reg.bnLaunchQ (k.val / 14) (benchIn k)) 1 s (s.launchTaken k rest) := by
  have left : BenchWorks k [] s (s.benchDequeued k rest) := setBench_works ..
  have counted : BenchWorks k [Reg.bnLaunchQ (k.val / 14) (benchIn k)] (s.benchDequeued k rest) (s.launchTaken k rest) :=
    countBench_works (by simp [benchErr, Reg.bnErr, Reg.bnLaunchQ])
  refine ⟨(left.mono (List.nil_subset _)).trans counted, bench_setBench_same .., ?_⟩
  exact (countBench_counts (s.benchDequeued k rest) k Reg.bnLaunchQ 1).amid left.works (.refl (l := []) _) List.not_mem_nil
    List.not_mem_nil (benchLaunchQ_apart k).2

theorem launchTaken_regs (k : BenchId) : [Reg.bnLaunchQ (k.val / 14) (benchIn k)] ⊆ benchRegs k ++ unitRegs :=
  singleton_sub (benchCounter_regs k (by simp))

/-- What follows the start keeps its count, and the queue as the launch left it. -/
theorem launchTaken_then {run : Option BenchRun} {n : Nat} {p : List (Nat × Nat × Nat)}
    (after : BenchWorks k (benchRunRegs k) (s.launchTaken k rest) t)
    (own : t.bench k = ((s.launchTaken k rest).bench k).working run n p) :
    BenchWorks k (benchRegs k ++ unitRegs) s t ∧ (t.bench k).store = (s.bench k).store ∧ (t.bench k).queue = rest
    ∧ (t.bench k).head = [] ∧ (t.bench k).run = run ∧ Counted (Reg.bnLaunchQ (k.val / 14) (benchIn k)) 1 s t := by
  obtain ⟨taken, left, count⟩ := launchTaken_works s k rest
  refine ⟨(taken.mono (launchTaken_regs k)).trans (after.mono (benchRun_regs k)), ?_, ?_, ?_, ?_, ?_⟩
  · rw [own, left]; rfl
  · rw [own, left]; rfl
  · rw [own, left]; rfl
  · rw [own]; rfl
  · exact count.amid (.refl (l := []) s) after.works List.not_mem_nil (benchLaunchQ_apart k).1 (benchLaunchQ_apart k).2

/-- A refused launch: the bench stays free, and what launched it is answered (R339, R353). -/
theorem launchTaken_refused {r : BenchRun} {st : Status} (src : r.launch.src = .fabric f cls cluster)
    (done : t = (s.launchTaken k rest).benchRefused k r st) :
    BenchWorks k (benchRegs k ++ unitRegs) s t ∧ (t.bench k).store = (s.bench k).store ∧ (t.bench k).run = none
    ∧ (t.bench k).queue = rest ∧ (t.bench k).head = [] ∧ bit (t.rd (benchErr k)) 1 = true
    ∧ Counted (Reg.bnLaunchQ (k.val / 14) (benchIn k)) 1 s t ∧ (Answerable s f cls → Completed f st [] s t) := by
  obtain ⟨works, ⟨n, p, own⟩, answered, set⟩ := benchRefused_works (s := s.launchTaken k rest) (k := k) (r := r) (st := st)
  rw [← done] at works own answered set
  obtain ⟨all, store, queue, head, idle, count⟩ := launchTaken_then (works.mono (benchEnd_run k)) own
  have taken := (launchTaken_works s k rest).1.works
  have unrouted : Unrouted [Reg.bnLaunchQ (k.val / 14) (benchIn k)] := fun x mem => by
    rw [List.mem_singleton.1 mem]
    simp only [Reg.bnLaunchQ, Reg.swIdentity]
    omega
  exact ⟨all, store, idle, queue, head, set, count, fun able =>
    (answered f cls cluster src (taken.answerable unrouted able)).before taken.nextId⟩

theorem benchLaunchStart_effect (waits : (s.bench k).queue = launch :: rest) (src : launch.src = .fabric f cls cluster) :
    let x := s.bench k
    let d := headDesc launch x.head
    ∃ t, exec (.benchLaunchStart k) s = .next t ∧ BenchWorks k (benchRegs k ++ unitRegs) s t ∧ (t.bench k).store = x.store
    ∧ (x.head = [] → s.benchOffline k.val = false →
        (t.bench k).head.map UReq.addr = lineAddrs launch.addr 384 ∧ (∀ r ∈ (t.bench k).head, r.got = none) ∧ (t.bench k).queue = x.queue
        ∧ (t.bench k).run = x.run)
    ∧ (x.head ≠ [] → allBack x.head = true → s.benchFree k = true → firstFailure x.head = none →
        (∀ st, opRefusal d = some st → (t.bench k).run = none ∧ (t.bench k).queue = rest ∧ (t.bench k).head = []
            ∧ bit (t.rd (benchErr k)) 1 = true ∧ Counted (Reg.bnLaunchQ (k.val / 14) (benchIn k)) 1 s t
            ∧ (Answerable s f cls → Completed f st [] s t))
        ∧ (opRefusal d = none → odJob d = launch.job → s.benchFits k (opReserve d) = false → t = s)
        ∧ (opRefusal d = none → odJob d = launch.job → s.benchFits k (opReserve d) = true → odAcq d = true →
            (t.bench k).queue = rest ∧ (t.bench k).head = [] ∧ Counted (Reg.bnLaunchQ (k.val / 14) (benchIn k)) 1 s t
            ∧ ∃ r, (t.bench k).run = some r ∧ r.desc = d ∧ r.launch = launch ∧ r.stage = .acquire ∧ r.seed = odSeed d
                ∧ r.started = s.bell.ticks)) := by
  intro x d
  by_cases unread : x.head = []
  · have run := exec_benchLaunchStart_read waits unread
    cases offline : s.benchOffline k.val
    · obtain ⟨works, reads, n, own, addrs, got⟩ := benchReadHead_works (s := s) (k := k) src
      refine ⟨_, run.trans (congrArg _ (if_neg (by simp [offline]))), works.mono (List.subset_append_right ..), ?_⟩
      rw [own]
      exact ⟨rfl, fun _ _ => ⟨addrs, got, rfl, rfl⟩, fun some => absurd unread some⟩
    · exact ⟨s, run.trans (congrArg _ (if_pos offline)), .refl k s, rfl, fun _ => nofun, fun some => absurd unread some⟩
  · cases came : allBack x.head && s.benchFree k
    · exact ⟨s, exec_benchLaunchStart_waits waits unread came, .refl k s, rfl, fun no => absurd no unread, fun _ back free =>
        absurd came (by rw [back, free]; nofun)⟩
    · cases failure : firstFailure x.head with
      | some st =>
        obtain ⟨works, n, p, own⟩ := benchAbort_works (s := s.launchTaken k rest) (k := k)
          (r := { s.launchRun k launch rest d with desc := [] }) (st := st) (operand := 15) (bits := [])
        obtain ⟨all, store, -⟩ := launchTaken_then works own
        exact ⟨_, exec_benchLaunchStart_fails waits unread came failure, all, store, fun no => absurd no unread, fun _ _ _ => nofun⟩
      | none =>
        obtain ⟨refused, denied, goes⟩ := exec_benchLaunchStart_came waits unread came failure
        have src : (s.launchRun k launch rest d).launch.src = .fabric f cls cluster := src
        cases refusal : opRefusal d with
        | some st =>
          obtain ⟨all, store, idle, queue, head, set, count, answered⟩ := launchTaken_refused (s := s) (k := k) (rest := rest) (st := st) src rfl
          refine ⟨_, refused st refusal, all, store, fun no => absurd no unread, fun _ _ _ _ => ⟨fun st' same => ?_, nofun, nofun⟩⟩
          cases same
          exact ⟨idle, queue, head, set, count, answered⟩
        | none =>
          by_cases job : odJob d = launch.job
          · cases fits : s.benchFits k (opReserve d)
            · exact ⟨s, (goes refusal job).trans (congrArg _ (if_neg (by rw [fits]; nofun))), .refl k s, rfl, fun no => absurd no unread,
                fun _ _ _ _ => ⟨nofun, fun _ _ _ => rfl, fun _ _ => nofun⟩⟩
            · obtain ⟨works, ⟨run, n, p, own⟩, asks⟩ := benchGo_works (s := s.launchTaken k rest) (k := k) (r := s.launchRun k launch rest d)
              obtain ⟨all, store, queue, head, -, count⟩ := launchTaken_then (works.mono (benchEnd_run k)) own
              have bell : (s.benchDequeued k rest).bell = s.bell := (setBench_works (l := []) s k _).works.bell
              exact ⟨_, (goes refusal job).trans (congrArg _ (if_pos fits)), all, store, fun no => absurd no unread,
                fun _ _ _ _ => ⟨nofun, fun _ _ => nofun, fun _ _ _ acq =>
                  ⟨queue, head, count, _, asks acq, rfl, rfl, rfl, rfl, congrArg Bell.ticks bell⟩⟩⟩
          · obtain ⟨all, store, -⟩ := launchTaken_refused (s := s) (k := k) (rest := rest) (st := St.denied) src rfl
            exact ⟨_, denied refusal job, all, store, fun no => absurd no unread,
              fun _ _ _ _ => ⟨nofun, fun _ same => absurd same job, fun _ same => absurd same job⟩⟩

/-- What a bench's work leaves of the others and of the rest. -/
theorem BenchWorks.alone (h : BenchWorks k l a b) : WorkEffect l a b ∧ ∀ j, j ≠ k → b.bench j = a.bench j := ⟨h.works.effect, h.others⟩

/-- Settles O44: one clause for each command. -/
theorem benchLaunches : Obligations.BenchLaunches := by
  refine ⟨fun k s e es fires first => ?_, fun s p passed => fabricLaunch_effect passed, fun k s f cls cluster launch rest waits src => ?_,
    fun k s f cls cluster launch rest waits src late => ?_⟩
  · have run := exec_ttLaunchFire fires first
    cases free : s.benchFree k
    · rw [if_neg (by rw [free]; nofun)] at run
      obtain ⟨works, fired, queue, same, count, set⟩ := ttLaunchFire_busy (s := s) (k := k) (List.cons_ne_nil e es) rfl
      exact ⟨_, run, works.alone, fired, queue, fun _ on => ⟨set on, same, count⟩, nofun⟩
    · rw [if_pos free] at run
      obtain ⟨works, fired, queue, launched, count, outcome⟩ := ttLaunchFire_free (s := s) (k := k) (e := e) (es := es) rfl
      exact ⟨_, run, works.alone, fired, queue, nofun, fun _ sound => ⟨launched, count, outcome sound⟩⟩
  · obtain ⟨t, run, works, effect⟩ := benchLaunchStart_effect waits src
    rw [← List.append_nil (benchRegs k ++ unitRegs)] at works
    exact ⟨t, run, works.alone, effect⟩
  · obtain ⟨t, run, works, effect⟩ := benchQueueTimeout_effect waits src late
    rw [← List.append_nil (benchRegs k ++ unitRegs)] at works
    exact ⟨t, run, works.alone, effect⟩

end Sys2Proof.Machine

/-! ## The work of one network unit (R398 to R401) -/
namespace Sys2Proof.Machine

variable {a b c s t u v : State} {l m : List Nat} {k : NetId} {w : NetWork} {st : BitVec 8}

/-- Registers that a report of the network units writes (R429). -/
def netReportRegs : List Nat := recordRegs Reg.netErr ++ [Reg.netErrCapture, Reg.netErrCaptureSw]

/-- The work of network unit `k`: of the units it changes its own, whose note of its last firing stays, and no bit of NET_ERR is
taken back. -/
structure NetWorks (k : NetId) (l : List Nat) (a b : State) : Prop where
  works : Works l a b
  others : ∀ j, j ≠ k → b.netUnit j = a.netUnit j
  fired : (b.netUnit k).firedAt = (a.netUnit k).firedAt
  errs : ∀ n, bit (a.rd Reg.netErr) n = true → bit (b.rd Reg.netErr) n = true

theorem NetWorks.refl (k : NetId) (s : State) : NetWorks k l s s := ⟨.refl s, fun _ _ => rfl, rfl, fun _ set => set⟩

theorem NetWorks.trans (h : NetWorks k l a b) (g : NetWorks k l b c) : NetWorks k l a c :=
  ⟨h.works.trans g.works, fun j ne => (g.others j ne).trans (h.others j ne), g.fired.trans h.fired, fun n set => g.errs n (h.errs n set)⟩

theorem NetWorks.mono (h : NetWorks k l a b) (sub : l ⊆ m) : NetWorks k m a b := ⟨h.works.mono sub, h.others, h.fired, h.errs⟩

theorem Moves.net (h : Moves l a b) : b.net = a.net := by rw [h.effect.rest]
theorem ChangesOnly.net (h : ChangesOnly l a b) : b.net = a.net := by rw [h.rest]

theorem netUnit_of_net (same : b.net = a.net) (j : NetId) : b.netUnit j = a.netUnit j := by
  rw [State.netUnit, same]
  rfl

/-- What no unit's record shows, and no register of NET_ERR. -/
theorem NetWorks.of_works (h : Works l a b) (same : b.net = a.net) (out : Reg.netErr ∉ l) : NetWorks k l a b :=
  ⟨h, fun j _ => netUnit_of_net same j, congrArg NetUnit.firedAt (netUnit_of_net same k), fun n set => by rw [h.rd out (by decide)]; exact set⟩

theorem unitRegs_net {x : Nat} (low : 0xD00000 ≤ x) (high : x < 0x1100000) : x ∉ unitRegs := fun mem => by
  have zone := unitRegs_zone mem
  omega

theorem setNetUnit_eq (s : State) (j : NetId) (x : NetUnit) :
    ∃ y, s.setNetUnit j x = (s.withNet { s.net with units := s.net.units.put NetUnit.reset j.val x }).withTest y := by
  unfold State.setNetUnit State.traceState
  dsimp only
  split
  · exact ⟨s.test, rfl⟩
  · exact traceEv_test ..

@[simp] theorem netUnit_setNetUnit_same (s : State) (j : NetId) (x : NetUnit) : (s.setNetUnit j x).netUnit j = x := by
  obtain ⟨y, e⟩ := setNetUnit_eq s j x
  rw [e]
  exact Tab.get_put_same ..

theorem netUnit_setNetUnit_other (s : State) {i j : NetId} (x : NetUnit) (ne : i ≠ j) : (s.setNetUnit j x).netUnit i = s.netUnit i := by
  obtain ⟨y, e⟩ := setNetUnit_eq s j x
  rw [e]
  exact Tab.get_put_other _ _ _ _ (fun e => ne (Fin.ext e))

theorem setNetUnit_benches (s : State) (j : NetId) (x : NetUnit) : (s.setNetUnit j x).benches = s.benches := by
  obtain ⟨y, e⟩ := setNetUnit_eq s j x
  rw [e]
  rfl

theorem setNetUnit_works {x : NetUnit} (fired : x.firedAt = (s.netUnit k).firedAt) : NetWorks k l s (s.setNetUnit k x) := by
  refine ⟨Works.withNet.trans traceState_works, fun j ne => netUnit_setNetUnit_other s x ne, ?_, fun n set => ?_⟩
  · rw [netUnit_setNetUnit_same, fired]
  obtain ⟨y, e⟩ := setNetUnit_eq s k x
  rw [e]
  exact set

theorem netUnit_of_set {x : NetUnit} (same : t.net = (s.setNetUnit k x).net) : t.netUnit k = x :=
  (netUnit_of_net same k).trans (netUnit_setNetUnit_same ..)

/-! Reports and requests. -/

theorem raiseNet_changes {n unit : Nat} {f : Option Frame} : ChangesOnly netReportRegs s (s.raiseNet n unit st f) := by
  refine raise_changes _ _ _ (fun x mem => List.mem_append_left _ mem) (fun p mem => List.mem_append_right _ ?_)
  simp only [List.mem_cons, List.not_mem_nil, or_false] at mem
  rcases mem with rfl | rfl <;> simp

theorem raiseNet_works {n unit : Nat} {f : Option Frame} : NetWorks k netReportRegs s (s.raiseNet n unit st f) :=
  ⟨raiseNet_changes.works, fun j _ => netUnit_of_net raiseNet_changes.net j,
    congrArg NetUnit.firedAt (netUnit_of_net raiseNet_changes.net k), fun _ set => raiseCap_keeps _ _ _ _ _ (by decide) set⟩

theorem raiseNet_sets {n unit : Nat} {f : Option Frame} (lt : n < 32) : bit ((s.raiseNet n unit st f).rd Reg.netErr) n = true :=
  raiseCap_sets _ _ _ _ lt (by decide)

theorem originate_unit {unit : BitVec 10} {cluster : Fin 12} {cls : Cls} {hdr : BitVec 256} {payload : Bytes} {why : Purpose} :
    NetWorks k unitRegs s (s.originate unit cluster cls hdr payload why) :=
  .of_works (originate_works.mono fabric_unit) originate_moves.net (unitRegs_net (by decide) (by decide))

/-- Requests that are sent one after another. -/
theorem originates_works {β : Type} {f : State → β → State} (each : ∀ u x, ∃ unit cluster cls hdr payload why,
    f u x = u.originate unit cluster cls hdr payload why) (xs : List β) (s : State) :
    NetWorks k unitRegs s (xs.foldl f s) ∧ (xs.foldl f s).net = s.net ∧ (xs.foldl f s).benches = s.benches := by
  induction xs generalizing s with
  | nil => exact ⟨.refl k s, rfl, rfl⟩
  | cons x xs ih =>
    obtain ⟨unit, cluster, cls, hdr, payload, why, e⟩ := each s x
    rw [List.foldl_cons, e]
    obtain ⟨works, net, benches⟩ := ih (s.originate unit cluster cls hdr payload why)
    exact ⟨originate_unit.trans works, net.trans originate_moves.net, benches.trans originate_moves.benches⟩

/-- A unit's record with a piece of work in place of those of its context. -/
def NetUnit.put (x : NetUnit) (w : NetWork) : List NetWork := x.works.map (fun v => if v.ctx == w.ctx then w else v)

theorem setWorkOf_netUnit (s : State) (k : NetId) (w : NetWork) :
    (s.setWorkOf k w).netUnit k = { s.netUnit k with works := (s.netUnit k).put w } := netUnit_setNetUnit_same ..

theorem setWorkOf_works : NetWorks k l s (s.setWorkOf k w) := setNetUnit_works (by rfl)

theorem put_mem {x : NetUnit} {v w : NetWork} (mem : v ∈ x.works) (ctx : v.ctx = w.ctx) : w ∈ x.put w :=
  List.mem_map.2 ⟨v, mem, if_pos (beq_iff_eq.2 ctx)⟩

/-- The records of requests that a unit sends. -/
def State.netRecords (s : State) (k : NetId) (asks : List NetAsk) : List UReq :=
  ((List.range asks.length).zip asks).map (fun p => ⟨(s.netUnit k).nextReq + p.1, p.2.what, p.2.addr, s.bell.ticks, 0, none⟩)

theorem netRecords_addr (s : State) (k : NetId) (asks : List NetAsk) : (s.netRecords k asks).map UReq.addr = asks.map NetAsk.addr := by
  have second : ((List.range asks.length).zip asks).map Prod.snd = asks := List.map_snd_zip (by simp)
  rw [State.netRecords, List.map_map]
  conv_rhs => rw [← second, List.map_map]
  rfl

theorem netAsk_works {asks : List NetAsk} : NetWorks k unitRegs s (s.netAsk k w asks) ∧ (s.netAsk k w asks).benches = s.benches
    ∧ ∃ n, (s.netAsk k w asks).netUnit k =
      { s.netUnit k with works := (s.netUnit k).put { w with reqs := w.reqs ++ s.netRecords k asks }, nextReq := n } := by
  unfold State.netAsk
  dsimp only
  refine ⟨((setNetUnit_works (by rfl)).trans setWorkOf_works).trans (originates_works (fun _ _ => ?_) _ _).1,
    (originates_works (k := k) (fun _ _ => ?_) _ _).2.2.trans ((setNetUnit_benches ..).trans (setNetUnit_benches ..)),
    (s.netUnit k).nextReq + asks.length,
    (netUnit_of_net (originates_works (k := k) (fun _ _ => ?_) _ _).2.1 k).trans ((setWorkOf_netUnit ..).trans ?_)⟩
  pick_goal 4
  · rw [netUnit_setNetUnit_same]
    rfl
  all_goals exact ⟨_, _, _, _, _, _, rfl⟩

/-! The end of a piece of work (R401). -/

/-- Registers that the end of a unit's work writes, and those that its work writes altogether. -/
def netEndRegs (k : NetId) : List Nat := Reg.nuFailed k.val :: unitRegs
def netWorkRegs (k : NetId) : List Nat := netReportRegs ++ netEndRegs k

theorem unit_netEnd (k : NetId) : unitRegs ⊆ netEndRegs k := List.subset_cons_self ..
theorem netEnd_work (k : NetId) : netEndRegs k ⊆ netWorkRegs k := List.subset_append_right ..
theorem netReport_work (k : NetId) : netReportRegs ⊆ netWorkRegs k := List.subset_append_left ..

theorem netPost_works {d : Bytes} : NetWorks k unitRegs s (s.netPost k d st) ∧ (s.netPost k d st).benches = s.benches
    ∧ ∃ n, (s.netPost k d st).netUnit k = { s.netUnit k with nextReq := n } := by
  unfold State.netPost
  split
  · exact ⟨.refl k s, rfl, _, rfl⟩
  · split
    · have tail : ringTail (odHost d) (odRing d).val ∈ unitRegs := ringTail_unit ..
      have written := operatorCpl_changes (s := s) (op := odOp d) (status := st.toNat) (arg := odArg d) (unit := 512 + k.val) tail
      exact ⟨.of_works written.works written.net (unitRegs_net (by decide) (by decide)), written.benches, _,
        netUnit_of_net written.net k⟩
    · exact ⟨(setNetUnit_works (by rfl)).trans originate_unit, originate_moves.benches.trans (setNetUnit_benches ..), _,
        netUnit_of_set originate_moves.net⟩

theorem netPost_if {d : Bytes} (posts : Bool) :
    NetWorks k unitRegs s (if posts then s.netPost k d st else s) ∧ (if posts then s.netPost k d st else s).benches = s.benches
    ∧ ∃ n, (if posts then s.netPost k d st else s).netUnit k = { s.netUnit k with nextReq := n } := by
  split
  · exact netPost_works
  · exact ⟨.refl k s, rfl, _, rfl⟩

/-- A failed piece of work is counted. -/
def State.netFailed (s : State) (k : NetId) (st : BitVec 8) : State :=
  if st == St.ok || st == St.scope then s else s.bump (Reg.nuFailed k.val)

theorem netBump_works {off : Nat} (out : off ≠ Reg.netErr) : NetWorks k [off] s (s.bump off) :=
  .of_works (ChangesOnly.bump (.inl (List.mem_singleton_self _))).works rfl (fun mem => out (List.mem_singleton.1 mem).symm)

theorem nuFailed_apart (k : NetId) : Reg.nuFailed k.val ≠ Reg.netErr ∧ Reg.nuFailed k.val ∉ unitRegs
    ∧ reportReg (Reg.nuFailed k.val) = false := by
  have := k.isLt
  exact ⟨by simp only [Reg.nuFailed, Reg.netErr]; omega, unitRegs_net (by simp only [Reg.nuFailed]; omega)
    (by simp only [Reg.nuFailed]; omega), reportReg_below (by simp only [Reg.nuFailed]; omega)⟩

theorem netFailed_works : NetWorks k (netEndRegs k) s (s.netFailed k st) ∧ (s.netFailed k st).benches = s.benches
    ∧ (s.netFailed k st).net = s.net ∧ (st ≠ St.ok → st ≠ St.scope → Counted (Reg.nuFailed k.val) 1 s (s.netFailed k st)) := by
  unfold State.netFailed
  split
  · next fine => exact ⟨.refl k s, rfl, rfl, fun a b =>
      ((Bool.or_eq_true ..).mp fine).elim (fun is => absurd (beq_iff_eq.1 is) a) (fun is => absurd (beq_iff_eq.1 is) b)⟩
  · exact ⟨(netBump_works (nuFailed_apart k).1).mono (singleton_sub (List.mem_cons_self ..)), rfl, rfl, fun _ _ => counted_bump ..⟩

theorem netEnd_works : NetWorks k (netEndRegs k) s (s.netEnd k w st) ∧ (s.netEnd k w st).benches = s.benches
    ∧ (∃ n, (s.netEnd k w st).netUnit k =
        { s.netUnit k with works := (s.netUnit k).works.filter (fun v => v.ctx != w.ctx), nextReq := n })
    ∧ (st ≠ St.ok → st ≠ St.scope → Counted (Reg.nuFailed k.val) 1 s (s.netEnd k w st)) := by
  let left := (s.setNetUnit k { s.netUnit k with works := (s.netUnit k).works.filter (fun v => v.ctx != w.ctx) }).addJob
    (odJob w.desc) 5 (56 * ((s.setNetUnit k { s.netUnit k with works := (s.netUnit k).works.filter (fun v => v.ctx != w.ctx) }).bell.ticks
      - w.started) / 5)
  have ends : s.netEnd k w st = if field w.desc 0 1 % 4 == 1 then (left.netFailed k st).netPost k w.desc st else left.netFailed k st := rfl
  have leaves : NetWorks k [] s left := (setNetUnit_works (by rfl)).trans (.of_works addJob_works rfl List.not_mem_nil)
  have own : left.netUnit k = { s.netUnit k with works := (s.netUnit k).works.filter (fun v => v.ctx != w.ctx) } := netUnit_of_set rfl
  have benches : left.benches = s.benches := setNetUnit_benches ..
  rw [ends]
  clear ends
  generalize left = u at *
  obtain ⟨failed, same, net, count⟩ := netFailed_works (s := u) (k := k) (st := st)
  obtain ⟨posted, kept, n, unit⟩ := netPost_if (s := u.netFailed k st) (k := k) (st := st) (d := w.desc) (field w.desc 0 1 % 4 == 1)
  refine ⟨((leaves.mono (List.nil_subset _)).trans failed).trans (posted.mono (unit_netEnd k)), kept.trans (same.trans benches),
    ⟨n, ?_⟩, fun a b => ?_⟩
  · rw [unit, netUnit_of_net net, own]
  · exact (count a b).amid leaves.works posted.works List.not_mem_nil (nuFailed_apart k).2.1 (nuFailed_apart k).2.2

end Sys2Proof.Machine

/-! ## The course of a network unit's work (R400, R401, R407, R417, R420) -/
namespace Sys2Proof.Machine

variable {a b c s t u : State} {l m : List Nat} {k : NetId} {w w' : NetWork} {st : BitVec 8}

/-- One piece of work at two times of one stage. -/
structure SameWork (w' w : NetWork) : Prop where
  ctx : w'.ctx = w.ctx
  desc : w'.desc = w.desc
  stage : w'.stage = w.stage

/-- The work of unit `k` that carries a piece of work on within its stage. -/
structure NetCarries (k : NetId) (w : NetWork) (a b : State) : Prop where
  works : NetWorks k unitRegs a b
  held : ∀ v ∈ (a.netUnit k).works, v.ctx = w.ctx → ∃ x ∈ (b.netUnit k).works, SameWork x w

theorem NetCarries.after (h : NetCarries k w b c) (before : NetWorks k unitRegs a b) (same : b.net = a.net) : NetCarries k w a c :=
  ⟨before.trans h.works, fun v mem => h.held v (by rwa [netUnit_of_net same])⟩

theorem netAsk_carries {asks : List NetAsk} (same : SameWork w' w) : NetCarries k w s (s.netAsk k w' asks) := by
  obtain ⟨works, -, n, unit⟩ := netAsk_works (s := s) (k := k) (w := w') (asks := asks)
  refine ⟨works, fun v mem ctx => ⟨{ w' with reqs := w'.reqs ++ s.netRecords k asks }, ?_, ⟨same.ctx, same.desc, same.stage⟩⟩⟩
  rw [unit]
  exact put_mem mem (ctx.trans same.ctx.symm)

theorem setWorkOf_carries (same : SameWork w' w) : NetCarries k w s (s.setWorkOf k w') := by
  refine ⟨setWorkOf_works, fun v mem ctx => ⟨w', ?_, same⟩⟩
  rw [setWorkOf_netUnit]
  exact put_mem mem (ctx.trans same.ctx.symm)

theorem setBench_net (s : State) (j : BenchId) (x : Bench) : (s.setBench j x).net = s.net := by
  obtain ⟨y, e⟩ := setBench_eq s j x
  rw [e]
  rfl

theorem setBench_netWorks (s : State) (j : BenchId) (x : Bench) : NetWorks k l s (s.setBench j x) :=
  (NetWorks.of_works (l := []) (setBench_works s j x).works (setBench_net ..) List.not_mem_nil).mono (List.nil_subset _)

/-- The slot of a bench at which the expansion of a walk fails (R417, R447). -/
def State.walkSpoiled (s : State) (w : NetWork) (st : BitVec 8) : State :=
  let t := targetOf w.desc w.target
  if t.kind = 0 && expansionFailure st then
    let x := s.bench (targetBench t)
    let i := w.destSlot
    s.setBench (targetBench t) { x with
      store := x.store.clearRange (32768 * i) (32768 * (i + 1))
      slots := x.slots.put Residency.reset i { (x.slot i) with ready := false, sources := [], invalid := some st } }
  else s

theorem walkSpoiled_works (s : State) (w : NetWork) (st : BitVec 8) :
    NetWorks k l s (s.walkSpoiled w st) ∧ (s.walkSpoiled w st).net = s.net := by
  unfold State.walkSpoiled
  dsimp only
  split
  · exact ⟨setBench_netWorks .., setBench_net ..⟩
  · exact ⟨.refl k s, rfl⟩

/-- A walk that fails stays until its requests are settled (R417, R447). -/
theorem walkFails_carries (same : SameWork w' w) : NetCarries k w s (s.walkFails k w' st) := by
  obtain ⟨works, net⟩ := walkSpoiled_works (k := k) (l := unitRegs) s w' st
  have fails : ∃ asks, s.walkFails k w' st = if (targetOf w'.desc w'.target).kind = 2 && expansionFailure st then
      (s.walkSpoiled w' st).netAsk k { w' with failed := some st, reqs := [] } asks
    else (s.walkSpoiled w' st).setWorkOf k { w' with failed := some st, reqs := [] } := ⟨_, rfl⟩
  obtain ⟨asks, fails⟩ := fails
  rw [fails]
  refine .after (b := s.walkSpoiled w' st) ?_ works net
  split
  · exact netAsk_carries ⟨same.ctx, same.desc, same.stage⟩
  · exact setWorkOf_carries ⟨same.ctx, same.desc, same.stage⟩

theorem walkAsk_carries {t : Target} (same : SameWork w' w) : NetCarries k w s (s.walkAsk k w' t) := by
  unfold State.walkAsk
  dsimp only
  have same : ∀ {x : NetWork}, x = { w' with reqs := [], sources := x.sources, base := x.base } → SameWork x w := by
    rintro x e
    exact ⟨by rw [e]; exact same.ctx, by rw [e]; exact same.desc, by rw [e]; exact same.stage⟩
  split
  · split
    · exact netAsk_carries (same rfl)
    · split
      · exact netAsk_carries (same rfl)
      · split
        · exact walkFails_carries (same rfl)
        · split
          · exact walkFails_carries (same rfl)
          · exact netAsk_carries (same rfl)
  · split <;> exact netAsk_carries (same rfl)

theorem walkNext_carries (fuel : Nat) {w' : NetWork} (same : SameWork w' w) : NetCarries k w s (s.walkNext fuel k w') := by
  induction fuel generalizing w' with
  | zero => exact setWorkOf_carries ⟨same.ctx, same.desc, same.stage⟩
  | succ fuel ih =>
    unfold State.walkNext
    dsimp only
    split
    · exact setWorkOf_carries ⟨same.ctx, same.desc, same.stage⟩
    · split
      · exact walkAsk_carries ⟨same.ctx, same.desc, same.stage⟩
      · split
        · exact netAsk_carries ⟨same.ctx, same.desc, same.stage⟩
        · exact ih ⟨same.ctx, same.desc, same.stage⟩

/-! Work begins on its own steps (R407, R417, R420). -/

/-- Of a piece of work that asks anew, the requests that it waits for. -/
theorem netAsk_at {v : NetWork} {asks : List NetAsk} (mem : v ∈ (s.netUnit k).works) (ctx : v.ctx = w.ctx) (none : w.reqs = []) :
    ∃ x ∈ ((s.netAsk k w asks).netUnit k).works, x.ctx = w.ctx ∧ x.desc = w.desc ∧ x.stage = w.stage
      ∧ x.reqs.map UReq.addr = asks.map NetAsk.addr := by
  obtain ⟨-, -, n, unit⟩ := netAsk_works (s := s) (k := k) (w := w) (asks := asks)
  refine ⟨{ w with reqs := w.reqs ++ s.netRecords k asks }, ?_, rfl, rfl, rfl, ?_⟩
  · rw [unit]
    exact put_mem mem ctx
  · rw [none]
    exact netRecords_addr s k asks

theorem netAsk_end {asks : List NetAsk} : NetWorks k (netEndRegs k) s (s.netAsk k w asks) := netAsk_works.1.mono (unit_netEnd k)

theorem netBegin_walk (walk : netKind k = 1) : NetCarries k { w with stage := .run } s (s.netBegin k w) := by
  unfold State.netBegin
  dsimp only
  rw [if_neg (by omega), if_pos walk]
  split
  · exact walkFails_carries ⟨rfl, rfl, rfl⟩
  · exact walkNext_carries _ ⟨rfl, rfl, rfl⟩

theorem netBegin_session (reduce : netKind k = 0) : s.netBegin k w = s.readFlags k { w with stage := .run, reqs := [] } := if_pos reduce

theorem netBegin_works : NetWorks k (netEndRegs k) s (s.netBegin k w) := by
  by_cases walk : netKind k = 1
  · exact (netBegin_walk walk).works.mono (unit_netEnd k)
  · unfold State.netBegin
    dsimp only
    rw [if_neg walk]
    split
    · exact netAsk_end
    · split
      · exact setWorkOf_works
      · split
        · exact netEnd_works.1
        · split
          · exact netEnd_works.1
          · exact netAsk_end

/-! NU_ACQUIRE_POLL (R400, R401). -/

theorem netAcquired_works : NetWorks k (netEndRegs k) s (s.netAcquired k w) := by
  unfold State.netAcquired
  split
  · exact netAsk_end
  · exact netBegin_works

/-- What the flag that holds leads to: CONSUME, the flags of the LOCAL entries, a walk (R400, R407, R417). -/
theorem netAcquired_at {v : NetWork} (mem : v ∈ (s.netUnit k).works) (ctx : v.ctx = w.ctx) :
    (field w.desc 65 1 % 2 = 1 → ∃ x ∈ ((s.netAcquired k w).netUnit k).works, x.ctx = w.ctx ∧ x.desc = w.desc ∧ x.stage = .consume
      ∧ x.reqs.map UReq.addr = [odAcqFlag w.desc / 128 * 128])
    ∧ (field w.desc 65 1 % 2 = 0 → netKind k = 0 → ∃ x ∈ ((s.netAcquired k w).netUnit k).works, x.ctx = w.ctx ∧ x.desc = w.desc
      ∧ x.stage = .run ∧ x.reqs.map UReq.addr = w.unready.map (fun p => p.2.flag / 128 * 128))
    ∧ (field w.desc 65 1 % 2 = 0 → netKind k = 1 → ∃ x ∈ ((s.netAcquired k w).netUnit k).works, x.ctx = w.ctx ∧ x.desc = w.desc
      ∧ x.stage = .run) := by
  unfold State.netAcquired
  refine ⟨fun clears => ?_, fun plain reduce => ?_, fun plain walk => ?_⟩
  · rw [if_pos clears]
    exact netAsk_at (w := { w with stage := .consume, reqs := [] }) mem ctx rfl
  · rw [if_neg (by omega), netBegin_session reduce]
    obtain ⟨x, in_, same, desc, stage, addrs⟩ := netAsk_at (s := s) (k := k) (w := { w with stage := .run, reqs := [], lastRead := s.bell.ticks })
      (asks := w.unready.map (fun p => s.ownAsk ⟨.flag p.1, p.2.flag / 128 * 128, 0x01, odAcqScope w.desc, []⟩)) mem ctx rfl
    refine ⟨x, in_, same, desc, stage, addrs.trans ?_⟩
    rw [List.map_map]
    rfl
  · rw [if_neg (by omega)]
    obtain ⟨x, in_, same⟩ := (netBegin_walk (s := s) (w := w) walk).held v mem ctx
    exact ⟨x, in_, same.ctx, same.desc, same.stage⟩

section Poll
variable {q : UReq} {qs : List UReq} (found : (s.netUnit k).works.find? (fun w => w.stage == .acquire && allBack w.reqs) = some w)
  (reqs : w.reqs = q :: qs)
include found reqs

theorem exec_nuAcquirePoll : exec (.nuAcquirePoll k) s = .next (if !delivers q.status then s.netEnd k w q.status
    else if flagHolds w.desc q.data then s.netAcquired k { w with scope := q.status == St.scope }
    else if w.started + odWait w.desc ≤ s.bell.ticks then (s.raiseNet 2 k.val St.timeout none).netEnd k w St.timeout
    else if w.lastRead + 8 ≤ s.bell.ticks then
      s.netAsk k { w with lastRead := s.bell.ticks, reqs := [] } [s.ownAsk (acquireAsk w.desc)]
    else s) := by
  change execNuAcquirePoll k s = _
  unfold execNuAcquirePoll
  rw [found]
  dsimp only
  rw [reqs]
  simp only [← apply_ite Host.Outcome.next]

end Poll

/-- The end of failed work: it is gone from its unit, and counted (R401). -/
theorem netEnd_gone (bad : st ≠ St.ok) (narrow : st ≠ St.scope) :
    (∀ v ∈ ((s.netEnd k w st).netUnit k).works, v.ctx ≠ w.ctx) ∧ Counted (Reg.nuFailed k.val) 1 s (s.netEnd k w st) := by
  obtain ⟨-, -, ⟨n, unit⟩, count⟩ := netEnd_works (s := s) (k := k) (w := w) (st := st)
  rw [unit]
  exact ⟨fun v mem => bne_iff_ne.1 (List.mem_filter.1 mem).2, count bad narrow⟩

theorem nuFailed_report (k : NetId) : Reg.nuFailed k.val ∉ netReportRegs := fun mem => by
  have all : ∀ x ∈ netReportRegs, x < 0xF00088 := by decide
  have := all _ mem
  simp only [Reg.nuFailed] at this
  omega

/-- The end of work with a report (R401, R429). -/
theorem netReported_works {n : Nat} (lt : n < 32) (done : t = (s.raiseNet n k.val st none).netEnd k w st) :
    NetWorks k (netWorkRegs k) s t ∧ (t.netUnit k).works = (s.netUnit k).works.filter (fun v => v.ctx != w.ctx)
    ∧ bit (t.rd Reg.netErr) n = true ∧ (st ≠ St.ok → st ≠ St.scope → Counted (Reg.nuFailed k.val) 1 s t) := by
  have raised : NetWorks k netReportRegs s (s.raiseNet n k.val st none) := raiseNet_works
  have set : bit ((s.raiseNet n k.val st none).rd Reg.netErr) n = true := raiseNet_sets lt
  have own : (s.raiseNet n k.val st none).netUnit k = s.netUnit k := netUnit_of_net raiseNet_changes.net k
  generalize s.raiseNet n k.val st none = u at *
  obtain ⟨ended, -, ⟨i, unit⟩, count⟩ := netEnd_works (s := u) (k := k) (w := w) (st := st)
  rw [← done] at ended unit count
  refine ⟨(raised.mono (netReport_work k)).trans (ended.mono (netEnd_work k)), by rw [unit, own], ended.errs n set, fun bad narrow => ?_⟩
  exact (count bad narrow).amid raised.works (.refl (l := []) _) (nuFailed_report k) List.not_mem_nil (nuFailed_apart k).2.2

theorem delivers_false (no : delivers st = false) : st ≠ St.ok ∧ st ≠ St.scope := by
  constructor <;> rintro rfl <;> exact absurd no (by decide)

/-- What a unit whose acquire read has come back does, flag by flag. -/
theorem nuAcquirePoll_effect {q : UReq} {qs : List UReq}
    (found : (s.netUnit k).works.find? (fun w => w.stage == .acquire && allBack w.reqs) = some w) (reqs : w.reqs = q :: qs) :
    let d := w.desc
    let holds := delivers q.status = true ∧ flagHolds d q.data = true
    let waitOver := w.started + odWait d ≤ s.bell.ticks
    let flag := odAcqFlag d / 128 * 128
    let gone := fun (s t : State) => (∀ v ∈ (t.netUnit k).works, v.ctx ≠ w.ctx) ∧ Counted (Reg.nuFailed k.val) 1 s t
    let at_ := fun (stage : NetStage) (addrs : List Nat) (t : State) =>
      ∃ w' ∈ (t.netUnit k).works, w'.ctx = w.ctx ∧ w'.desc = w.desc ∧ w'.stage = stage ∧ w'.reqs.map UReq.addr = addrs
    ∃ t, exec (.nuAcquirePoll k) s = .next t ∧ NetWorks k (netWorkRegs k) s t
    ∧ (delivers q.status = false → gone s t)
    ∧ (holds → field d 65 1 % 2 = 1 → at_ .consume [flag] t)
    ∧ (holds → field d 65 1 % 2 = 0 → netKind k = 0 → at_ .run (w.unready.map (fun p => p.2.flag / 128 * 128)) t)
    ∧ (holds → field d 65 1 % 2 = 0 → netKind k = 1 → ∃ w' ∈ (t.netUnit k).works, w'.ctx = w.ctx ∧ w'.desc = d ∧ w'.stage = .run)
    ∧ (delivers q.status = true → flagHolds d q.data = false → waitOver → gone s t ∧ bit (t.rd Reg.netErr) 2 = true)
    ∧ (delivers q.status = true → flagHolds d q.data = false → ¬ waitOver → s.bell.ticks < w.lastRead + 8 → t = s)
    ∧ (delivers q.status = true → flagHolds d q.data = false → ¬ waitOver → w.lastRead + 8 ≤ s.bell.ticks → at_ .acquire [flag] t) := by
  intro d holds waitOver flag gone at_
  have run := exec_nuAcquirePoll found reqs
  have mem := List.mem_of_find?_eq_some found
  have stage : w.stage = .acquire := by
    have waits := List.find?_some (p := fun w : NetWork => w.stage == .acquire && allBack w.reqs) found
    exact beq_iff_eq.1 (Bool.and_eq_true_iff.1 waits).1
  refine ⟨_, run, ?_⟩
  cases came : delivers q.status
  · obtain ⟨bad, narrow⟩ := delivers_false came
    simp only [Bool.not_false, if_true]
    exact ⟨netEnd_works.1.mono (netEnd_work k), fun _ => netEnd_gone bad narrow, fun h => absurd h.1 (by simp [came]),
      fun h => absurd h.1 (by simp [came]), fun h => absurd h.1 (by simp [came]), nofun, nofun, nofun⟩
  · simp only [Bool.not_true, Bool.false_eq_true, if_false]
    cases flagged : flagHolds w.desc q.data
    · simp only [Bool.false_eq_true, if_false]
      have no : ¬ holds := fun h => absurd h.2 (by simp [d, flagged])
      by_cases late : waitOver
      · rw [if_pos late]
        obtain ⟨works, left, set, count⟩ := netReported_works (s := s) (k := k) (w := w) (st := St.timeout) (n := 2) (by decide) rfl
        have count := count (by decide) (by decide)
        have gone : ∀ v ∈ (((s.raiseNet 2 k.val St.timeout none).netEnd k w St.timeout).netUnit k).works, v.ctx ≠ w.ctx := by
          rw [left]
          exact fun v mem => bne_iff_ne.1 (List.mem_filter.1 mem).2
        exact ⟨works, nofun, fun h => absurd h no, fun h => absurd h no, fun h => absurd h no, fun _ _ _ => ⟨⟨gone, count⟩, set⟩,
          fun _ _ h => absurd late h, fun _ _ h => absurd late h⟩
      · rw [if_neg late]
        by_cases again : w.lastRead + 8 ≤ s.bell.ticks
        · rw [if_pos again]
          obtain ⟨x, in_, ctx, desc, keeps, addrs⟩ := netAsk_at (s := s) (k := k)
            (w := { w with lastRead := s.bell.ticks, reqs := [] }) (asks := [s.ownAsk (acquireAsk w.desc)]) mem rfl rfl
          exact ⟨netAsk_end.mono (netEnd_work k), nofun, fun h => absurd h no, fun h => absurd h no, fun h => absurd h no,
            fun _ _ h => absurd h late, fun _ _ _ h => absurd again (Nat.not_le.2 h),
            fun _ _ _ _ => ⟨x, in_, ctx, desc, keeps.trans stage, addrs⟩⟩
        · rw [if_neg again]
          exact ⟨.refl k s, nofun, fun h => absurd h no, fun h => absurd h no, fun h => absurd h no, fun _ _ h => absurd h late,
            fun _ _ _ _ => rfl, fun _ _ _ h => absurd h again⟩
    · simp only [if_true]
      obtain ⟨clears, flags, walks⟩ := netAcquired_at (s := s) (k := k) (w := { w with scope := q.status == St.scope }) mem rfl
      exact ⟨netAcquired_works.mono (netEnd_work k), nofun, fun _ => clears, fun _ => flags, fun _ => walks, fun _ => nofun, fun _ => nofun,
        fun _ => nofun⟩

end Sys2Proof.Machine

/-! ## START entries of a network unit (R72, R399, R400, R417) -/
namespace Sys2Proof.Machine

variable {a b c s t u v : State} {l m : List Nat} {k : NetId} {w : NetWork} {st : BitVec 8}

/-! A free context. -/

theorem freeCtx_fresh {x : NetUnit} (room : x.works.length < 16) {v : NetWork} (mem : v ∈ x.works) : v.ctx ≠ x.freeCtx := by
  unfold NetUnit.freeCtx
  cases found : (List.range 16).find? (fun c => !x.works.any (fun w => w.ctx == c)) with
  | some c =>
    have free := List.find?_some (p := fun c => !x.works.any (fun w => w.ctx == c)) found
    simp only [Bool.not_eq_true', List.any_eq_false, beq_iff_eq] at free
    exact free v mem
  | none =>
    have all : List.range 16 ⊆ x.works.map NetWork.ctx := fun c lt => by
      have held := List.find?_eq_none.1 found c lt
      simp only [Bool.not_eq_true', Bool.not_eq_false, List.any_eq_true, beq_iff_eq] at held
      exact List.mem_map.2 held
    have long := (List.subperm_of_subset List.nodup_range all).length_le
    simp only [List.length_range, List.length_map] at long
    omega

theorem netFree_room (free : s.netFree k = true) : (s.netUnit k).works.length < 16 := by
  unfold State.netFree at free
  simp only [Bool.and_eq_true, decide_eq_true_eq] at free
  have := free.1.1
  split at this <;> omega

theorem filter_fresh {x : NetUnit} (fresh : ∀ v ∈ x.works, v.ctx ≠ w.ctx) : x.works.filter (fun v => v.ctx != w.ctx) = x.works :=
  List.filter_eq_self.2 (fun v mem => bne_iff_ne.2 (fresh v mem))

theorem put_fresh {x : NetUnit} {v : NetWork} (fresh : ∀ v ∈ x.works, v.ctx ≠ w.ctx) (same : v.ctx = w.ctx) :
    NetUnit.put { x with works := x.works ++ [v] } w = x.works ++ [w] := by
  have others : x.works.map (fun v => if v.ctx == w.ctx then w else v) = x.works := by
    refine (List.map_congr_left (fun v mem => ?_)).trans (List.map_id _)
    exact if_neg (by simpa using fresh v mem)
  rw [NetUnit.put, List.map_append, others, List.map_singleton, if_pos (beq_iff_eq.2 same)]

/-! A walk's target slots (R417). -/

theorem foldl_put_get {α : Type} [DecidableEq α] (d : α) (f : Nat → α) (is : List Nat) (q : Tab α) (i : Nat) :
    (is.foldl (fun q i => q.put d i (f i)) q).get d i = if i ∈ is then f i else q.get d i := by
  induction is generalizing q with
  | nil => rfl
  | cons j js ih =>
    rw [List.foldl_cons, ih]
    by_cases own : i = j
    · subst own
      simp
    · rw [Tab.get_put_other _ _ _ _ own]
      simp [own]

/-- The slots of a BENCH target of a walk are not ready. -/
def State.unreadyTarget (s : State) (d : Bytes) (t : Target) : State :=
  if t.kind = 0 then
    let x := s.bench (targetBench t)
    let r := s.targetSlots d t
    s.setBench (targetBench t) { x with slots := (List.range' r.1 (r.2 - r.1)).foldl (fun (q : Tab Residency) i =>
      q.put Residency.reset i { (x.slot i) with ready := false, sources := [], invalid := none }) x.slots }
  else s

theorem unreadyTargets_eq (s : State) (d : Bytes) :
    s.unreadyTargets d = ((List.range (gdTargets d)).map (targetOf d)).foldl (·.unreadyTarget d ·) s := rfl

/-- A slot of a bench that is not ready. -/
def State.unready (s : State) (j : BenchId) (i : Nat) : Prop := ((s.bench j).slot i).ready = false

section Target
variable {d : Bytes} {x : Target}

theorem unreadyTarget_works : NetWorks k l s (s.unreadyTarget d x) ∧ (s.unreadyTarget d x).net = s.net
    ∧ (s.unreadyTarget d x).roll = s.roll := by
  unfold State.unreadyTarget
  dsimp only
  split
  · refine ⟨setBench_netWorks .., setBench_net .., ?_⟩
    obtain ⟨y, e⟩ := setBench_eq s (targetBench x) { s.bench (targetBench x) with
      slots := (List.range' (s.targetSlots d x).1 ((s.targetSlots d x).2 - (s.targetSlots d x).1)).foldl (fun (q : Tab Residency) i =>
        q.put Residency.reset i { ((s.bench (targetBench x)).slot i) with ready := false, sources := [], invalid := none })
        (s.bench (targetBench x)).slots }
    rw [e]
    rfl
  · exact ⟨.refl k s, rfl, rfl⟩

theorem unreadyTarget_slot (kind : x.kind = 0) (i : Nat) :
    ((s.unreadyTarget d x).bench (targetBench x)).slot i =
      if i ∈ List.range' (s.targetSlots d x).1 ((s.targetSlots d x).2 - (s.targetSlots d x).1) then
        { ((s.bench (targetBench x)).slot i) with ready := false, sources := [], invalid := none }
      else (s.bench (targetBench x)).slot i := by
  unfold State.unreadyTarget
  rw [if_pos kind]
  dsimp only
  rw [bench_setBench_same]
  exact foldl_put_get ..

theorem unreadyTarget_keeps {j : BenchId} {i : Nat} (set : s.unready j i) : (s.unreadyTarget d x).unready j i := by
  by_cases kind : x.kind = 0
  · by_cases own : j = targetBench x
    · subst own
      rw [State.unready, unreadyTarget_slot kind]
      split
      · rfl
      · exact set
    · unfold State.unreadyTarget
      rw [if_pos kind, State.unready, bench_setBench_other _ _ own]
      exact set
  · unfold State.unreadyTarget
    rwa [if_neg kind]

theorem unreadyTarget_clears (kind : x.kind = 0) {i : Nat} (low : (s.targetSlots d x).1 ≤ i) (high : i < (s.targetSlots d x).2) :
    (s.unreadyTarget d x).unready (targetBench x) i := by
  have mem : i ∈ List.range' (s.targetSlots d x).1 ((s.targetSlots d x).2 - (s.targetSlots d x).1) :=
    List.mem_range'_1.2 (by omega)
  rw [State.unready, unreadyTarget_slot kind, if_pos mem]

theorem targetSlots_of (same : b.roll = a.roll) (d : Bytes) (x : Target) : b.targetSlots d x = a.targetSlots d x := by
  unfold State.targetSlots State.targetPlanks State.planksPer State.slotShape State.rollShape State.rollCfg
  rw [same]

theorem unreadyFold_works (d : Bytes) (xs : List Target) (s : State) :
    NetWorks k l s (xs.foldl (·.unreadyTarget d ·) s) ∧ (xs.foldl (·.unreadyTarget d ·) s).net = s.net
    ∧ (∀ j i, s.unready j i → (xs.foldl (·.unreadyTarget d ·) s).unready j i)
    ∧ ∀ x ∈ xs, x.kind = 0 → ∀ i, (s.targetSlots d x).1 ≤ i → i < (s.targetSlots d x).2 →
        (xs.foldl (·.unreadyTarget d ·) s).unready (targetBench x) i := by
  induction xs generalizing s with
  | nil => exact ⟨.refl k s, rfl, fun _ _ set => set, fun _ => nofun⟩
  | cons x xs ih =>
    obtain ⟨works, net, roll⟩ := unreadyTarget_works (s := s) (k := k) (l := l) (d := d) (x := x)
    obtain ⟨worksRest, netRest, keeps, clears⟩ := ih (s.unreadyTarget d x)
    refine ⟨works.trans worksRest, netRest.trans net, fun j i set => keeps j i (unreadyTarget_keeps set), fun y mem kind i low high => ?_⟩
    rcases List.mem_cons.1 mem with rfl | mem
    · exact keeps _ _ (unreadyTarget_clears kind low high)
    · exact clears y mem kind i (by rwa [targetSlots_of roll]) (by rwa [targetSlots_of roll])

end Target

end Sys2Proof.Machine

/-! ## START entries that fire (R72, R399, R400, R515) -/
namespace Sys2Proof.Machine

variable {a b c s t u v : State} {l m : List Nat} {k : NetId} {w : NetWork} {st : BitVec 8}

/-- A sound descriptor becomes work of its unit: a walk's target slots are no longer ready, and its acquire is read. -/
def State.netAccept (s : State) (k : NetId) (w : NetWork) : State :=
  let s := s.setNetUnit k { s.netUnit k with works := (s.netUnit k).works ++ [w] }
  let s := if netKind k = 1 then s.unreadyTargets w.desc else s
  if odAcq w.desc then s.netAsk k w [s.ownAsk (acquireAsk w.desc)] else s.netBegin k w

theorem unready_of_benches (same : b.benches = a.benches) {j : BenchId} {i : Nat} (set : a.unready j i) : b.unready j i := by
  rw [State.unready, bench_of_benches same]
  exact set

theorem unreadyTargets_if (s : State) (d : Bytes) :
    NetWorks k l s (if netKind k = 1 then s.unreadyTargets d else s) ∧ (if netKind k = 1 then s.unreadyTargets d else s).net = s.net
    ∧ (netKind k = 1 → ∀ i < gdTargets d, (targetOf d i).kind = 0 → ∀ n, (s.targetSlots d (targetOf d i)).1 ≤ n →
        n < (s.targetSlots d (targetOf d i)).2 → (if netKind k = 1 then s.unreadyTargets d else s).unready (targetBench (targetOf d i)) n) := by
  rw [unreadyTargets_eq]
  obtain ⟨works, net, -, clears⟩ := unreadyFold_works (k := k) (l := l) d ((List.range (gdTargets d)).map (targetOf d)) s
  split
  · exact ⟨works, net, fun _ i lt => clears _ (List.mem_map_of_mem (List.mem_range.2 lt))⟩
  · next other => exact ⟨.refl k s, rfl, fun walk => absurd walk other⟩

theorem netAccept_works : NetWorks k (netEndRegs k) s (s.netAccept k w)
    ∧ (odAcq w.desc = true → w.reqs = [] → (∀ v ∈ (s.netUnit k).works, v.ctx ≠ w.ctx) →
        (∃ reqs, ((s.netAccept k w).netUnit k).works = (s.netUnit k).works ++ [{ w with reqs := reqs }]
          ∧ reqs.map UReq.addr = [odAcqFlag w.desc / 128 * 128])
        ∧ (netKind k = 1 → ∀ i < gdTargets w.desc, (targetOf w.desc i).kind = 0 → ∀ n, (s.targetSlots w.desc (targetOf w.desc i)).1 ≤ n →
            n < (s.targetSlots w.desc (targetOf w.desc i)).2 → (s.netAccept k w).unready (targetBench (targetOf w.desc i)) n)) := by
  unfold State.netAccept
  dsimp only
  have joined : NetWorks k (netEndRegs k) s (s.setNetUnit k { s.netUnit k with works := (s.netUnit k).works ++ [w] }) :=
    setNetUnit_works (by rfl)
  have own := netUnit_setNetUnit_same s k { s.netUnit k with works := (s.netUnit k).works ++ [w] }
  have roll : (s.setNetUnit k { s.netUnit k with works := (s.netUnit k).works ++ [w] }).roll = s.roll := by
    obtain ⟨y, e⟩ := setNetUnit_eq s k { s.netUnit k with works := (s.netUnit k).works ++ [w] }
    rw [e]
    rfl
  generalize s.setNetUnit k { s.netUnit k with works := (s.netUnit k).works ++ [w] } = u at *
  obtain ⟨cleared, net, clears⟩ := unreadyTargets_if (k := k) (l := netEndRegs k) u w.desc
  generalize (if netKind k = 1 then u.unreadyTargets w.desc else u) = v at *
  have same : v.netUnit k = { s.netUnit k with works := (s.netUnit k).works ++ [w] } := (netUnit_of_net net k).trans own
  have before := joined.trans cleared
  split
  · obtain ⟨asks, benches, n, unit⟩ := netAsk_works (s := v) (k := k) (w := w) (asks := [v.ownAsk (acquireAsk w.desc)])
    refine ⟨before.trans (asks.mono (unit_netEnd k)), fun _ none fresh => ⟨⟨_, ?_, netRecords_addr v k [v.ownAsk (acquireAsk w.desc)]⟩, ?_⟩⟩
    · rw [unit, same, none]
      exact put_fresh fresh rfl
    · intro walk i lt kind n low high
      exact unready_of_benches benches (clears walk i lt kind n (by rwa [targetSlots_of roll]) (by rwa [targetSlots_of roll]))
  · next no => exact ⟨before.trans netBegin_works, fun acq => absurd acq no⟩

/-- The work that a START entry makes (R399). -/
def State.netNew (s : State) (k : NetId) (i : Nat) (e : BitVec 128) : NetWork :=
  { ctx := (s.netUnit k).freeCtx, desc := (s.localRead (ttDescOffset e) (netDescBytes k)).1, stage := .acquire,
    seed := ttSeed s.tt.activeTag (168 + k.val) i s.bell.now.period, started := s.bell.ticks, period := s.bell.now.period,
    lastRead := s.bell.ticks, scope := false, failed := none, reqs := [], target := 0, pos := 0, base := 0, sources := [], buf := [],
    contribs := [], held := [], endedAt := s.bell.ticks, mergeAt := 0 }

/-- A session whose number a running session bears (R404). -/
def State.sessionTaken (s : State) (k : NetId) (d : Bytes) : Bool :=
  netKind k = 0 && (s.netUnit k).works.any (fun v => v.failed.isNone && rdSession v.desc == rdSession d)

/-- What a unit refuses depends on the rolls alone. -/
theorem netRefusal_of (same : b.roll = a.roll) (d : Bytes) : b.netRefusal k d = a.netRefusal k d := by
  unfold State.netRefusal State.walkReserved
  simp only [targetSlots_of same]

/-- The descriptor is read and the start counted. -/
theorem netStart_eq (s : State) (k : NetId) (i : Nat) (e : BitVec 128) : ∃ x, s.netStart k i e =
    if s.localBad (ttDescOffset e) (netDescBytes k) then
      ((s.withFree x).bump (Reg.nuStarts k.val)).netEnd k { s.netNew k i e with desc := [] } St.media
    else
      match s.netRefusal k (s.netNew k i e).desc with
      | some st => (((s.withFree x).bump (Reg.nuStarts k.val)).raiseNet 0 k.val st none).netEnd k (s.netNew k i e) st
      | none =>
        if s.sessionTaken k (s.netNew k i e).desc then
          ((((s.withFree x).bump (Reg.nuStarts k.val)).raiseNet 9 k.val St.denied none).raiseNet 0 k.val St.denied none).netEnd k
            (s.netNew k i e) St.denied
        else ((s.withFree x).bump (Reg.nuStarts k.val)).netAccept k (s.netNew k i e) := by
  obtain ⟨x, read⟩ := localRead_state s (ttDescOffset e) (netDescBytes k)
  refine ⟨x, ?_⟩
  have refusal (d : Bytes) : ((s.withFree x).bump (Reg.nuStarts k.val)).netRefusal k d = s.netRefusal k d := netRefusal_of rfl d
  unfold State.netStart
  dsimp only
  rw [read, refusal]
  rfl

/-- Registers that a START entry's start writes. -/
def netStartRegs (k : NetId) : List Nat := Reg.nuStarts k.val :: netWorkRegs k

theorem netWork_zone {x : Nat} (mem : x ∈ netWorkRegs k) : x < 0xF00088 ∨ x = Reg.nuFailed k.val ∨ 0x1100000 ≤ x := by
  rcases List.mem_append.1 mem with report | mem
  · have all : ∀ x ∈ netReportRegs, x < 0xF00088 := by decide
    exact .inl (all x report)
  · rcases List.mem_cons.1 mem with own | unit
    · exact .inr (.inl own)
    · have := unitRegs_zone unit
      omega

theorem nuStarts_apart (k : NetId) : Reg.nuStarts k.val ≠ Reg.netErr ∧ Reg.nuStarts k.val ∉ netWorkRegs k
    ∧ reportReg (Reg.nuStarts k.val) = false := by
  have := k.isLt
  refine ⟨by simp only [Reg.nuStarts, Reg.netErr]; omega, fun mem => ?_, reportReg_below (by simp only [Reg.nuStarts]; omega)⟩
  have := netWork_zone mem
  simp only [Reg.nuStarts, Reg.nuFailed] at this
  omega

theorem netRefusal_bad {d : Bytes} (refused : s.netRefusal k d = some st) : st ≠ St.ok ∧ st ≠ St.scope := by
  unfold State.netRefusal at refused
  split_ifs at refused <;> cases refused <;> decide

/-- The state in which a START entry's descriptor is checked: its start is counted. -/
theorem netCounted_works (s : State) (k : NetId) (x : Nat) :
    NetWorks k [Reg.nuStarts k.val] s ((s.withFree x).bump (Reg.nuStarts k.val))
    ∧ Counted (Reg.nuStarts k.val) 1 s ((s.withFree x).bump (Reg.nuStarts k.val)) := by
  have drawn : NetWorks k [] s (s.withFree x) := .of_works .withFree rfl List.not_mem_nil
  refine ⟨(drawn.mono (List.nil_subset _)).trans (netBump_works (nuStarts_apart k).1), ?_⟩
  exact (counted_bump ..).amid drawn.works (.refl (l := []) _) List.not_mem_nil List.not_mem_nil (nuStarts_apart k).2.2

theorem netStart_works {i : Nat} {e : BitVec 128} : NetWorks k (netStartRegs k) s (s.netStart k i e)
    ∧ Counted (Reg.nuStarts k.val) 1 s (s.netStart k i e)
    ∧ (s.localBad (ttDescOffset e) (netDescBytes k) = false → (s.netUnit k).works.length < 16 →
        (∀ st, s.netRefusal k (s.netNew k i e).desc = some st → ((s.netStart k i e).netUnit k).works = (s.netUnit k).works
          ∧ bit ((s.netStart k i e).rd Reg.netErr) 0 = true ∧ Counted (Reg.nuFailed k.val) 1 s (s.netStart k i e))
        ∧ (s.netRefusal k (s.netNew k i e).desc = none → odAcq (s.netNew k i e).desc = true →
            s.sessionTaken k (s.netNew k i e).desc = false →
            (∃ reqs, ((s.netStart k i e).netUnit k).works = (s.netUnit k).works ++ [{ s.netNew k i e with reqs := reqs }]
              ∧ reqs.map UReq.addr = [odAcqFlag (s.netNew k i e).desc / 128 * 128])
            ∧ (netKind k = 1 → ∀ j < gdTargets (s.netNew k i e).desc, (targetOf (s.netNew k i e).desc j).kind = 0 →
                ∀ n, (s.targetSlots (s.netNew k i e).desc (targetOf (s.netNew k i e).desc j)).1 ≤ n →
                n < (s.targetSlots (s.netNew k i e).desc (targetOf (s.netNew k i e).desc j)).2 →
                (s.netStart k i e).unready (targetBench (targetOf (s.netNew k i e).desc j)) n))) := by
  obtain ⟨x, start⟩ := netStart_eq s k i e
  obtain ⟨counted, count⟩ := netCounted_works s k x
  have own : ((s.withFree x).bump (Reg.nuStarts k.val)).netUnit k = s.netUnit k := netUnit_of_net rfl k
  have roll : ((s.withFree x).bump (Reg.nuStarts k.val)).roll = s.roll := rfl
  rw [start]
  generalize (s.withFree x).bump (Reg.nuStarts k.val) = u at *
  have all : ∀ {t}, NetWorks k (netWorkRegs k) u t → NetWorks k (netStartRegs k) s t ∧ Counted (Reg.nuStarts k.val) 1 s t := fun after =>
    ⟨(counted.mono (singleton_sub (List.mem_cons_self ..))).trans (after.mono (List.subset_cons_self ..)),
      count.amid (.refl (l := []) s) after.works List.not_mem_nil (nuStarts_apart k).2.1 (nuStarts_apart k).2.2⟩
  split
  · next bad =>
    obtain ⟨works, counts⟩ := all ((netEnd_works (s := u) (k := k) (w := { s.netNew k i e with desc := [] }) (st := St.media)).1.mono
      (netEnd_work k))
    exact ⟨works, counts, fun no => absurd bad (by simp [no])⟩
  · split
    · next st refused =>
      obtain ⟨after, left, set, fails⟩ := netReported_works (s := u) (k := k) (w := s.netNew k i e) (st := st) (n := 0) (by decide) rfl
      obtain ⟨works, counts⟩ := all after
      obtain ⟨bad, narrow⟩ := netRefusal_bad refused
      refine ⟨works, counts, fun _ room => ⟨fun st' same => ?_, fun pass => nomatch refused.symm.trans pass⟩⟩
      cases refused.symm.trans same
      refine ⟨?_, set, (fails bad narrow).amid counted.works (.refl (l := []) _) ?_ List.not_mem_nil (nuFailed_apart k).2.2⟩
      · rw [left, own]
        exact filter_fresh (fun v mem => freeCtx_fresh room mem)
      · simp [Reg.nuFailed, Reg.nuStarts]
    · next pass =>
      split
      · next taken =>
        have reported : NetWorks k netReportRegs u (u.raiseNet 9 k.val St.denied none) := raiseNet_works
        have after := (netReported_works (s := u.raiseNet 9 k.val St.denied none) (k := k) (w := s.netNew k i e) (st := St.denied)
          (n := 0) (by decide) rfl).1
        obtain ⟨works, counts⟩ := all ((reported.mono (netReport_work k)).trans after)
        exact ⟨works, counts, fun _ _ => ⟨fun st refused => (nomatch pass.symm.trans refused), fun _ _ free => absurd taken (by simp [free])⟩⟩
      · obtain ⟨after, accepted⟩ := netAccept_works (s := u) (k := k) (w := s.netNew k i e)
        obtain ⟨works, counts⟩ := all (after.mono (netEnd_work k))
        refine ⟨works, counts, fun _ room => ⟨fun st refused => (nomatch pass.symm.trans refused), fun _ acq _ => ?_⟩⟩
        obtain ⟨joins, clears⟩ := accepted acq rfl (fun v mem => freeCtx_fresh room (own ▸ mem))
        rw [own] at joins
        exact ⟨joins, fun walk j lt kind n low high =>
          clears walk j lt kind n (by rwa [targetSlots_of roll]) (by rwa [targetSlots_of roll])⟩

end Sys2Proof.Machine

/-! ## The START entries of a slot: one starts, the others are skipped (R72, R399, R515) -/
namespace Sys2Proof.Machine

variable {a b c s t u v : State} {l m : List Nat} {k : NetId} {w : NetWork} {st : BitVec 8}

/-- Registers that a skip at a network unit writes. -/
def netNoteRegs : List Nat := noteRegs ++ (netReportRegs ++ unitRegs)
def netSkipRegs (k : NetId) : List Nat := Reg.nuSkipped k.val :: netNoteRegs

theorem netNote_zone {x : Nat} (mem : x ∈ netNoteRegs) :
    x < 0xF00088 ∨ (0x1100000 ≤ x ∧ x < 0x1110000) ∨ (0x1300070 ≤ x ∧ x ≤ 0x1300080) := by
  rcases List.mem_append.1 mem with note | mem
  · have := noteRegs_zone note
    omega
  · rcases List.mem_append.1 mem with report | unit
    · have all : ∀ x ∈ netReportRegs, x < 0xF00088 := by decide
      exact .inl (all x report)
    · have := unitRegs_zone unit
      omega

/-- The registers of one unit lie apart from those that note a skip. -/
theorem netNote_apart {x : Nat} (low : 0xF01000 ≤ x) (high : x < 0x1100000) : x ∉ netNoteRegs := fun mem => by
  have := netNote_zone mem
  omega

theorem nuSkipped_apart (k : NetId) : Reg.nuSkipped k.val ≠ Reg.netErr ∧ Reg.nuSkipped k.val ∉ netNoteRegs
    ∧ reportReg (Reg.nuSkipped k.val) = false := by
  have := k.isLt
  exact ⟨by simp only [Reg.nuSkipped, Reg.netErr]; omega, netNote_apart (by simp only [Reg.nuSkipped]; omega)
    (by simp only [Reg.nuSkipped]; omega), reportReg_below (by simp only [Reg.nuSkipped]; omega)⟩

/-- Whether a network unit is offline is read of registers that no work of a unit writes. -/
theorem Works.unitOffline (h : Works l a b) (outLo : Reg.faultOfflineNuLo ∉ l) (outHi : Reg.faultOfflineNuHi ∉ l) (n : Nat) :
    b.unitOffline n = a.unitOffline n := by
  rw [State.unitOffline, h.rd outLo (by decide), h.rd outHi (by decide)]
  rfl

/-- No skip at a unit takes a unit offline. -/
theorem netSkip_low {x : Nat} (mem : x ∈ netSkipRegs k) : x < 0x1300180 := by
  have := k.isLt
  rcases List.mem_cons.1 mem with rfl | note
  · simp only [Reg.nuSkipped]
    omega
  · have := netNote_zone note
    omega

theorem netSkip_online (h : Works (netSkipRegs k) a b) (n : Nat) : b.unitOffline n = a.unitOffline n :=
  h.unitOffline (fun mem => absurd (netSkip_low mem) (by decide)) (fun mem => absurd (netSkip_low mem) (by decide)) n

/-- The report of a skip and the post of its status: what follows the count. -/
def State.netSkipNote (s : State) (k : NetId) (d : Bytes) : State :=
  let s := s.raiseNet 1 k.val St.timeout none
  (s.noteSkip 2 k.val (s.unitOffline k.val)).netPost k d St.timeout

theorem note_netNote : noteRegs ⊆ netNoteRegs := List.subset_append_left ..
theorem report_netNote : netReportRegs ⊆ netNoteRegs :=
  List.Subset.trans (List.subset_append_left ..) (List.subset_append_right ..)
theorem unit_netNote : unitRegs ⊆ netNoteRegs := List.Subset.trans (List.subset_append_right ..) (List.subset_append_right ..)

theorem netSkipNote_works {d : Bytes} : NetWorks k netNoteRegs s (s.netSkipNote k d) ∧ (s.netSkipNote k d).benches = s.benches
    ∧ ((s.netSkipNote k d).netUnit k).works = (s.netUnit k).works
    ∧ (s.unitOffline k.val = false → bit ((s.netSkipNote k d).rd Reg.ttErr) 2 = true) := by
  have raised : NetWorks k netReportRegs s (s.raiseNet 1 k.val St.timeout none) := raiseNet_works
  have changes : ChangesOnly netReportRegs s (s.raiseNet 1 k.val St.timeout none) := raiseNet_changes
  have offline := raised.works.unitOffline (by decide) (by decide) k.val
  unfold State.netSkipNote
  dsimp only
  generalize s.raiseNet 1 k.val St.timeout none = u at *
  rw [offline]
  have noted : ChangesOnly noteRegs u (u.noteSkip 2 k.val (s.unitOffline k.val)) := noteSkip_changes
  have set : s.unitOffline k.val = false → bit ((u.noteSkip 2 k.val (s.unitOffline k.val)).rd Reg.ttErr) 2 = true :=
    fun on => by rw [on]; exact noteSkip_sets
  generalize u.noteSkip 2 k.val (s.unitOffline k.val) = v at *
  obtain ⟨posted, benches, n, own⟩ := netPost_works (s := v) (k := k) (d := d) (st := St.timeout)
  have note : NetWorks k noteRegs u v := .of_works noted.works noted.net (by decide)
  refine ⟨((raised.mono report_netNote).trans (note.mono note_netNote)).trans (posted.mono unit_netNote), ?_, ?_, fun on => ?_⟩
  · exact benches.trans (noted.benches.trans changes.benches)
  · rw [own, netUnit_of_net noted.net, netUnit_of_net changes.net]
  · rw [posted.works.rd (fun mem => ?_) (by decide)]
    · exact set on
    · have := unitRegs_zone mem
      simp only [Reg.ttErr] at this
      omega

theorem netSkip_works {e : BitVec 128} : NetWorks k (netSkipRegs k) s (s.netSkip k e) ∧ (s.netSkip k e).benches = s.benches
    ∧ ((s.netSkip k e).netUnit k).works = (s.netUnit k).works ∧ Counted (Reg.nuSkipped k.val) 1 s (s.netSkip k e)
    ∧ (s.unitOffline k.val = false → bit ((s.netSkip k e).rd Reg.ttErr) 2 = true) := by
  obtain ⟨x, read⟩ := localRead_state s (ttDescOffset e) (netDescBytes k)
  have skip : s.netSkip k e = ((s.withFree x).bump (Reg.nuSkipped k.val)).netSkipNote k (s.localRead (ttDescOffset e) (netDescBytes k)).1 := by
    rw [← read]
    rfl
  rw [skip]
  have drawn : NetWorks k [] s (s.withFree x) := .of_works .withFree rfl List.not_mem_nil
  have counted : NetWorks k [Reg.nuSkipped k.val] (s.withFree x) ((s.withFree x).bump (Reg.nuSkipped k.val)) :=
    netBump_works (nuSkipped_apart k).1
  have before : NetWorks k (netSkipRegs k) s ((s.withFree x).bump (Reg.nuSkipped k.val)) :=
    (drawn.mono (List.nil_subset _)).trans (counted.mono (singleton_sub (List.mem_cons_self ..)))
  have count := counted_bump (s.withFree x) (Reg.nuSkipped k.val)
  have own : ((s.withFree x).bump (Reg.nuSkipped k.val)).netUnit k = s.netUnit k := netUnit_of_net rfl k
  have same : ((s.withFree x).bump (Reg.nuSkipped k.val)).benches = s.benches := rfl
  generalize (s.withFree x).bump (Reg.nuSkipped k.val) = u at *
  obtain ⟨noted, benches, works, set⟩ := netSkipNote_works (s := u) (k := k) (d := (s.localRead (ttDescOffset e) (netDescBytes k)).1)
  refine ⟨before.trans (noted.mono (List.subset_cons_self ..)), benches.trans same, works.trans (congrArg _ own), ?_, fun on => set ?_⟩
  · exact count.amid drawn.works noted.works List.not_mem_nil (nuSkipped_apart k).2.1 (nuSkipped_apart k).2.2
  · exact (netSkip_online before.works k.val).trans on

/-- A START entry of a firing is skipped. -/
def State.skipStart (s : State) (k : NetId) (q : Nat × BitVec 128) : State := (s.traceFiring 2 k.val q.1 q.2 true).netSkip k q.2

theorem traceFiring_net (s : State) (k : NetId) (q : Nat × BitVec 128) (skipped : Bool) :
    ∃ x, s.traceFiring 2 k.val q.1 q.2 skipped = s.withTest x := traceEv_test ..

theorem withTest_net {x : Test} : NetWorks k l s (s.withTest x) := ⟨ChangesOnly.withTest.works, fun _ _ => rfl, rfl, fun _ set => set⟩

theorem skipStart_works {q : Nat × BitVec 128} : NetWorks k (netSkipRegs k) s (s.skipStart k q)
    ∧ (s.skipStart k q).benches = s.benches ∧ ((s.skipStart k q).netUnit k).works = (s.netUnit k).works
    ∧ Counted (Reg.nuSkipped k.val) 1 s (s.skipStart k q)
    ∧ (s.unitOffline k.val = false → bit ((s.skipStart k q).rd Reg.ttErr) 2 = true) := by
  obtain ⟨x, traced⟩ := traceFiring_net s k q true
  have skip : s.skipStart k q = (s.withTest x).netSkip k q.2 := congrArg (·.netSkip k q.2) traced
  rw [skip]
  obtain ⟨works, rest⟩ := netSkip_works (s := s.withTest x) (k := k) (e := q.2)
  exact ⟨withTest_net.trans works, rest⟩

theorem skipStarts_works (es : List (Nat × BitVec 128)) (s : State) : NetWorks k (netSkipRegs k) s (es.foldl (·.skipStart k ·) s)
    ∧ (es.foldl (·.skipStart k ·) s).benches = s.benches ∧ ((es.foldl (·.skipStart k ·) s).netUnit k).works = (s.netUnit k).works
    ∧ Counted (Reg.nuSkipped k.val) es.length s (es.foldl (·.skipStart k ·) s)
    ∧ (s.unitOffline k.val = false → (es ≠ [] ∨ bit (s.rd Reg.ttErr) 2 = true) →
        bit ((es.foldl (·.skipStart k ·) s).rd Reg.ttErr) 2 = true) := by
  induction es generalizing s with
  | nil =>
    refine ⟨.refl k s, rfl, rfl, ?_, fun _ set => set.resolve_left (· rfl)⟩
    have := (s.rd (Reg.nuSkipped k.val)).isLt
    simp only [Counted, List.length_nil, List.foldl_nil]
    omega
  | cons e es ih =>
    obtain ⟨works, benches, own, count, set⟩ := skipStart_works (s := s) (k := k) (q := e)
    obtain ⟨worksRest, benchesRest, ownRest, countRest, setRest⟩ := ih (s.skipStart k e)
    have offline := netSkip_online works.works k.val
    refine ⟨works.trans worksRest, benchesRest.trans benches, ownRest.trans own, ?_, fun on _ =>
      setRest (offline.trans on) (.inr (set on))⟩
    rw [List.length_cons, Nat.add_comm]
    exact count.add countRest

/-! TT_START_FIRE. -/

/-- A unit on which timetable entries fire. -/
def State.netFired (s : State) (k : NetId) : State := s.setNetUnit k { s.netUnit k with firedAt := s.bell.ticks + 1 }

theorem netFired_eq (s : State) (k : NetId) : ∃ x y, s.netFired k = (s.withNet x).withTest y := by
  obtain ⟨y, e⟩ := setNetUnit_eq s k { s.netUnit k with firedAt := s.bell.ticks + 1 }
  exact ⟨_, y, e⟩

theorem netFired_unit (s : State) (k : NetId) : (s.netFired k).netUnit k = { s.netUnit k with firedAt := s.bell.ticks + 1 } :=
  netUnit_setNetUnit_same ..

theorem netFired_free (s : State) (k : NetId) : (s.netFired k).netFree k = s.netFree k := by
  have works : ((s.netFired k).netUnit k).works = (s.netUnit k).works := by rw [netFired_unit]
  obtain ⟨x, y, e⟩ := netFired_eq s k
  unfold State.netFree
  rw [works, e]
  rfl

theorem exec_ttStartFire {e : Nat × BitVec 128} {es : List (Nat × BitVec 128)} (fires : s.firingNow 2 k.val 1 = e :: es)
    (first : (s.netUnit k).firedAt ≠ s.bell.ticks + 1) : exec (.ttStartFire k) s = .next (if s.netFree k then
      es.foldl (·.skipStart k ·) (((s.netFired k).traceFiring 2 k.val e.1 e.2 false).netStart k e.1 e.2)
    else (e :: es).foldl (·.skipStart k ·) (s.netFired k)) := by
  change execTtStartFire k s = _
  unfold execTtStartFire
  dsimp only
  rw [fires, if_neg (by simpa using first), ← netFired_free s k]
  split
  · next free => rw [if_pos (show (s.netFired k).netFree k = true from free)]; rfl
  · next busy => rw [if_neg (show ¬ (s.netFired k).netFree k = true from busy)]; rfl

/-- A unit that takes note of a firing: its works, and all other units, stay. -/
theorem netFired_works (s : State) (k : NetId) : Works [] s (s.netFired k) ∧ (∀ j, j ≠ k → (s.netFired k).netUnit j = s.netUnit j)
    ∧ (s.netFired k).roll = s.roll ∧ (s.netFired k).pool = s.pool ∧ (s.netFired k).free = s.free := by
  refine ⟨Works.withNet.trans traceState_works, fun j ne => netUnit_setNetUnit_other s _ ne, ?_⟩
  obtain ⟨x, y, e⟩ := netFired_eq s k
  rw [e]
  exact ⟨rfl, rfl, rfl⟩

theorem netRegs_work (k : NetId) : netWorkRegs k ⊆ netRegs k.val := fun x mem => by
  simp only [netWorkRegs, netReportRegs, netEndRegs, netRegs, List.mem_append, List.mem_cons, List.not_mem_nil, or_false] at mem ⊢
  tauto

theorem netRegs_counter {k : NetId} : Reg.nuStarts k.val ∈ netRegs k.val ∧ Reg.nuSkipped k.val ∈ netRegs k.val := by
  simp only [netRegs, List.mem_append, List.mem_cons, true_or, or_true, and_self]

theorem netRegs_start (k : NetId) : netStartRegs k ⊆ netRegs k.val := List.cons_subset.2 ⟨netRegs_counter.1, netRegs_work k⟩

theorem netRegs_skip (k : NetId) : netSkipRegs k ⊆ netRegs k.val ++ noteRegs := by
  refine List.cons_subset.2 ⟨List.mem_append_left _ netRegs_counter.2, fun _ mem => ?_⟩
  rcases List.mem_append.1 mem with note | work
  · exact List.mem_append_right _ note
  · refine List.mem_append_left _ (netRegs_work k ?_)
    rcases List.mem_append.1 work with report | unit
    · exact netReport_work k report
    · exact netEnd_work k (unit_netEnd k unit)

/-- What the firing of START entries leaves of the other units and of the rest. -/
theorem netFired_alone (after : NetWorks k (netRegs k.val ++ noteRegs) (s.netFired k) t) :
    (WorkEffect (netRegs k.val ++ noteRegs) s t ∧ ∀ j, j ≠ k → t.netUnit j = s.netUnit j)
    ∧ (t.netUnit k).firedAt = s.bell.ticks + 1 := by
  obtain ⟨works, others, -⟩ := netFired_works s k
  refine ⟨⟨((works.mono (List.nil_subset _)).trans after.works).effect, fun j ne => (after.others j ne).trans (others j ne)⟩, ?_⟩
  rw [after.fired, netFired_unit]

/-- START entries that fire on a unit that takes no work are skipped (R72, R399). -/
theorem ttStartFire_busy {es : List (Nat × BitVec 128)} (some : es ≠ []) (done : t = es.foldl (·.skipStart k ·) (s.netFired k)) :
    NetWorks k (netRegs k.val ++ noteRegs) (s.netFired k) t ∧ (t.netUnit k).works = (s.netUnit k).works
    ∧ Counted (Reg.nuSkipped k.val) es.length s t ∧ (s.unitOffline k.val = false → bit (t.rd Reg.ttErr) 2 = true) := by
  obtain ⟨works, -, own, count, set⟩ := skipStarts_works (k := k) es (s.netFired k)
  rw [← done] at works own count set
  have fired := (netFired_works s k).1
  refine ⟨works.mono (netRegs_skip k), by rw [own, netFired_unit], ?_, fun on => set ?_ (.inl some)⟩
  · exact count.amid fired (.refl (l := []) _) List.not_mem_nil List.not_mem_nil (nuSkipped_apart k).2.2
  · exact (fired.unitOffline List.not_mem_nil List.not_mem_nil k.val).trans on

theorem netCounter_skip (k : NetId) : Reg.nuStarts k.val ∉ netSkipRegs k ∧ Reg.nuFailed k.val ∉ netSkipRegs k := by
  have := k.isLt
  constructor <;> intro mem
  · refine (List.mem_cons.1 mem).elim (by simp [Reg.nuStarts, Reg.nuSkipped]) (netNote_apart ?_ ?_) <;> simp only [Reg.nuStarts] <;> omega
  · refine (List.mem_cons.1 mem).elim (by simp [Reg.nuFailed, Reg.nuSkipped]) (netNote_apart ?_ ?_) <;> simp only [Reg.nuFailed] <;> omega

theorem nuSkipped_start (k : NetId) : Reg.nuSkipped k.val ∉ netStartRegs k := fun mem => by
  have := k.isLt
  rcases List.mem_cons.1 mem with own | work
  · simp [Reg.nuStarts, Reg.nuSkipped] at own
  · have := netWork_zone work
    simp only [Reg.nuSkipped, Reg.nuFailed] at this
    omega

/-- The state in which the first START entry starts, and how it reads the timetable and the descriptor as `s` does. -/
theorem netFired_traced (s : State) (k : NetId) (e : Nat × BitVec 128) : ∃ v,
    (s.netFired k).traceFiring 2 k.val e.1 e.2 false = v ∧ NetWorks k [] (s.netFired k) v
    ∧ v.netUnit k = { s.netUnit k with firedAt := s.bell.ticks + 1 } ∧ v.roll = s.roll
    ∧ v.localBad (ttDescOffset e.2) (netDescBytes k) = s.localBad (ttDescOffset e.2) (netDescBytes k)
    ∧ (v.netNew k e.1 e.2).desc = (s.localRead (ttDescOffset e.2) (netDescBytes k)).1
    ∧ (v.netNew k e.1 e.2).seed = ttSeed s.tt.activeTag (168 + k.val) e.1 s.bell.now.period
    ∧ (v.netNew k e.1 e.2).started = s.bell.ticks ∧ (v.netNew k e.1 e.2).period = s.bell.now.period := by
  obtain ⟨z, traced⟩ := traceFiring_net (s.netFired k) k e false
  refine ⟨_, rfl, ?_⟩
  rw [traced]
  refine ⟨withTest_net, netFired_unit s k, ?_⟩
  obtain ⟨x, y, fired⟩ := netFired_eq s k
  rw [fired]
  exact ⟨rfl, rfl, localRead_of (a := s) (b := ((s.withNet x).withTest y).withTest z) rfl rfl rfl .., rfl, rfl, rfl⟩

/-- The first of the START entries that fire on a free unit starts its work; the others are skipped (R72, R399). -/
theorem ttStartFire_free {e : Nat × BitVec 128} {es : List (Nat × BitVec 128)} (room : (s.netUnit k).works.length < 16)
    (done : t = es.foldl (·.skipStart k ·) (((s.netFired k).traceFiring 2 k.val e.1 e.2 false).netStart k e.1 e.2)) :
    let d := (s.localRead (ttDescOffset e.2) (netDescBytes k)).1
    let works := (s.netUnit k).works
    NetWorks k (netRegs k.val ++ noteRegs) (s.netFired k) t
    ∧ (s.localBad (ttDescOffset e.2) (netDescBytes k) = false →
        Counted (Reg.nuStarts k.val) 1 s t ∧ Counted (Reg.nuSkipped k.val) es.length s t
        ∧ (∀ st, s.netRefusal k d = some st → (t.netUnit k).works = works ∧ bit (t.rd Reg.netErr) 0 = true
            ∧ Counted (Reg.nuFailed k.val) 1 s t)
        ∧ (s.netRefusal k d = none → odAcq d = true → (netKind k = 0 → ∀ v ∈ works, rdSession v.desc ≠ rdSession d) →
            (∃ w, (t.netUnit k).works = works ++ [w] ∧ w.desc = d ∧ w.stage = .acquire ∧ w.started = s.bell.ticks
              ∧ w.seed = ttSeed s.tt.activeTag (168 + k.val) e.1 s.bell.now.period ∧ w.period = s.bell.now.period
              ∧ w.reqs.map UReq.addr = [odAcqFlag d / 128 * 128])
            ∧ (netKind k = 1 → ∀ i n, i < gdTargets d → (targetOf d i).kind = 0 → (s.targetSlots d (targetOf d i)).1 ≤ n →
                n < (s.targetSlots d (targetOf d i)).2 → ((t.bench (targetBench (targetOf d i))).slot n).ready = false))) := by
  intro d works
  obtain ⟨v, traced, tracedWorks, unit, roll, bad, desc, seed, started, period⟩ := netFired_traced s k e
  rw [traced] at done
  have fired : Works [] s v := (netFired_works s k).1.trans tracedWorks.works
  obtain ⟨startWorks, starts, outcome⟩ := netStart_works (s := v) (k := k) (i := e.1) (e := e.2)
  rw [bad, desc, unit] at outcome
  generalize v.netStart k e.1 e.2 = u at *
  obtain ⟨skipped, benches, kept, count, -⟩ := skipStarts_works (k := k) es u
  rw [← done] at skipped benches kept count
  refine ⟨((tracedWorks.mono (List.nil_subset _)).trans (startWorks.mono ?_)).trans (skipped.mono (netRegs_skip k)), fun sound => ?_⟩
  · exact List.Subset.trans (netRegs_start k) (List.subset_append_left ..)
  obtain ⟨refuses, accepts⟩ := outcome sound room
  rw [netRefusal_of roll] at accepts
  refine ⟨?_, ?_, fun st refused => ?_, fun pass acq distinct => ?_⟩
  · exact starts.amid fired skipped.works List.not_mem_nil (netCounter_skip k).1 (nuStarts_apart k).2.2
  · exact count.amid ((fired.mono (List.nil_subset _)).trans startWorks.works) (.refl (l := []) _) (nuSkipped_start k) List.not_mem_nil
      (nuSkipped_apart k).2.2
  · obtain ⟨same, set, fails⟩ := refuses st ((netRefusal_of roll d).trans refused)
    exact ⟨kept.trans same, skipped.errs 0 set, fails.amid fired skipped.works List.not_mem_nil (netCounter_skip k).2 (nuFailed_apart k).2.2⟩
  · have free : v.sessionTaken k d = false := by
      rw [State.sessionTaken, unit, Bool.and_eq_false_imp]
      refine fun reduce => List.any_eq_false.2 (fun x mem both => ?_)
      exact distinct (of_decide_eq_true reduce) x mem (beq_iff_eq.1 (Bool.and_eq_true_iff.1 both).2)
    obtain ⟨⟨reqs, joins, addrs⟩, clears⟩ := accepts pass acq free
    refine ⟨⟨{ v.netNew k e.1 e.2 with reqs := reqs }, kept.trans joins, desc, rfl, started, seed, period, addrs⟩, fun walk i n lt kind low high => ?_⟩
    exact unready_of_benches benches (clears walk i lt kind n (by rwa [targetSlots_of roll]) (by rwa [targetSlots_of roll]))

/-- Settles O49: one clause for each command. -/
theorem networkUnitStarts : Obligations.NetworkUnitStarts := by
  refine ⟨fun k s e es fires first => ?_, fun k s w q qs found reqs => ?_⟩
  · have run := exec_ttStartFire fires first
    cases free : s.netFree k
    · rw [if_neg (by rw [free]; nofun)] at run
      obtain ⟨works, own, count, set⟩ := ttStartFire_busy (s := s) (k := k) (List.cons_ne_nil e es) rfl
      obtain ⟨alone, fired⟩ := netFired_alone works
      exact ⟨_, run, alone, fired, fun _ on => ⟨own, set on, count⟩, nofun⟩
    · rw [if_pos free] at run
      obtain ⟨works, outcome⟩ := ttStartFire_free (s := s) (k := k) (e := e) (es := es) (netFree_room free) rfl
      obtain ⟨alone, fired⟩ := netFired_alone works
      exact ⟨_, run, alone, fired, nofun, fun _ => outcome⟩
  · obtain ⟨t, run, works, effect⟩ := nuAcquirePoll_effect found reqs
    have all : netWorkRegs k ⊆ netRegs k.val ++ [] := List.Subset.trans (netRegs_work k) (List.subset_append_left ..)
    exact ⟨t, run, ⟨(works.mono all).works.effect, works.others⟩, effect⟩

end Sys2Proof.Machine

/-! ## HOST_ERR: no report takes a bit back (R475, R482, R512) -/
namespace Sys2Proof.Machine

variable {a b c s t u : State} {g h : HostPort}

/-- HOST_ERR of a host. -/
abbrev errOf (h : HostPort) : Nat := Reg.hostErr (hostNum h)

/-- No bit of either HOST_ERR is taken back. -/
structure ErrsKept (a b : State) : Prop where
  kept : ∀ g n, bit (a.rd (errOf g)) n = true → bit (b.rd (errOf g)) n = true

theorem ErrsKept.of_rd (same : ∀ g, b.rd (errOf g) = a.rd (errOf g)) : ErrsKept a b := ⟨fun g _ set => by rw [same g]; exact set⟩
theorem ErrsKept.refl (s : State) : ErrsKept s s := .of_rd fun _ => rfl
theorem ErrsKept.trans (h : ErrsKept a b) (g : ErrsKept b c) : ErrsKept a c := ⟨fun x n set => g.kept x n (h.kept x n set)⟩
theorem ErrsKept.withHost {x : HostSide} : ErrsKept s (s.withHost h x) := .of_rd fun _ => by cases h <;> rfl
theorem ErrsKept.wr {off : Nat} {v : Word} (apart : ∀ g, errOf g ≠ off) : ErrsKept s (s.wr off v) :=
  .of_rd fun g => State.rd_wr_other _ _ (apart g)

theorem errOf_zone (g : HostPort) : errOf g = 0x1100070 ∨ errOf g = 0x1108070 := by cases g <;> decide

theorem errOf_other (ne : g ≠ h) : errOf g ≠ errOf h := by
  cases g <;> cases h
  · exact absurd rfl ne
  · decide
  · decide
  · exact absurd rfl ne

theorem errOf_tail {r : Nat} (ring : r ≤ 64) : errOf g ≠ ringTail h r := by
  have host : hostNum h ≤ 1 := by cases h <;> decide
  have err := errOf_zone g
  unfold ringTail ringBase
  split <;> simp only [Reg.cqBaseLo, Reg.evtBaseLo] <;> omega

theorem signal_rd {r off : Nat} : (s.signal h r).rd off = s.rd off := by
  unfold State.signal
  dsimp only
  split
  · cases h <;> rfl
  · rfl

theorem ringWrite_errs {r : Nat} {e : Bytes} (ring : r ≤ 64) : ErrsKept s (s.ringWrite h r e) := by
  unfold State.ringWrite
  dsimp only
  refine ErrsKept.trans ?_ (.of_rd fun _ => signal_rd)
  refine ErrsKept.trans ?_ .withHost
  exact .of_rd fun g => State.rd_wr_other _ _ (errOf_tail ring)

theorem evtWrite_errs {e : Bytes} : ErrsKept s (s.evtWrite h e) := by
  unfold State.evtWrite
  exact ErrsKept.withHost.trans (ringWrite_errs (Nat.le_refl 64))

theorem evtDrop_errs : ErrsKept s (s.evtDrop h) :=
  ErrsKept.withHost.trans (.wr (fun g => by cases g <;> cases h <;> decide))

theorem puts_rd {off : Nat} (ps : List (Nat × Word)) (s : State) (apart : ∀ p ∈ ps, off ≠ p.1) :
    (ps.foldl (fun s p => s.wr p.1 p.2) s).rd off = s.rd off := by
  induction ps generalizing s with
  | nil => rfl
  | cons p ps ih =>
    rw [List.foldl_cons, ih _ fun q mem => apart q (List.mem_cons_of_mem _ mem)]
    exact State.rd_wr_other _ _ (apart p (List.mem_cons_self ..))

/-- What an error record of a host leaves in the HOST_ERR of each. -/
theorem record_errOf {n : Nat} {caps : List (Nat × Word)} (apart : ∀ p ∈ caps, errOf g ≠ p.1) :
    (s.record (errOf h) n caps []).rd (errOf g) = if g = h then setBit (s.rd (errOf h)) n else s.rd (errOf g) := by
  have high := errOf_zone g
  have triggered : ∀ u : State, ([0, 1, 2, 3].foldl (fun s k => traceTrigger s (errOf h) n k) u).rd (errOf g) = u.rd (errOf g) :=
    foldl_keeps (φ := fun s => s.rd (errOf g)) (fun u k => by
      unfold traceTrigger
      dsimp only
      split
      · rw [State.wr64, State.rd_wr_other _ _ (by simp only [Reg.trcTrigTimeLo]; omega),
          State.rd_wr_other _ _ (by simp only [Reg.trcTrigTimeLo]; omega)]
        rfl
      · rfl) _
  have traced : ∀ (u : State) (d : Bytes), (u.traceEv 3 0 true d).rd (errOf g) = u.rd (errOf g) := fun u d => by
    obtain ⟨x, e⟩ := traceEv_test u 3 0 true d
    rw [e]
    rfl
  have near := errOf_zone h
  unfold State.record
  dsimp only
  rw [triggered, traced]
  by_cases own : g = h
  · rw [if_pos own, own, State.rd_wr_same]
  · have ne : errOf g ≠ errOf h := errOf_other own
    have counted : ∀ u : State, (u.bump (errOf h + 4)).rd (errOf g) = u.rd (errOf g) := fun u => State.rd_wr_other _ _ (by omega)
    rw [if_neg own, State.rd_wr_other _ _ ne, List.foldl_nil, ite_self]
    split
    · rw [puts_rd _ _ apart, State.wr64, State.rd_wr_other _ _ (by omega), State.rd_wr_other _ _ (by omega), counted]
    · exact counted s

theorem bit_setBit_keeps {w : Word} {n m : Nat} (set : bit w m = true) : bit (setBit w n) m = true := by
  simp only [bit, setBit, BitVec.getLsbD_or] at set ⊢
  rw [set, Bool.true_or]

theorem record_errs {n : Nat} {caps : List (Nat × Word)} (apart : ∀ g, ∀ p ∈ caps, errOf g ≠ p.1) :
    ErrsKept s (s.record (errOf h) n caps []) := ⟨fun g m set => by
  rw [record_errOf (apart g)]
  split
  · next own =>
    subst own
    exact bit_setBit_keeps set
  · exact set⟩

/-- The captures of HOST_ERR are no HOST_ERR. -/
theorem errOf_captures (g h : HostPort) {x y z : Word} :
    ∀ p ∈ [(Reg.hostErrCapture (hostNum h), x), (Reg.hostErrAddrLo (hostNum h), y), (Reg.hostErrAddrHi (hostNum h), z)],
      errOf g ≠ p.1 := by
  have host : hostNum h ≤ 1 := by cases h <;> decide
  have err := errOf_zone g
  simp only [List.mem_cons, List.not_mem_nil, or_false, forall_eq_or_imp, forall_eq, Reg.hostErrCapture, Reg.hostErrAddrLo,
    Reg.hostErrAddrHi]
  omega

theorem postEventTo_errs (fuel : Nat) (h : HostPort) (e : Bytes) : ErrsKept s (postEventTo fuel s h e) := by
  induction fuel generalizing s h e with
  | zero => exact evtDrop_errs
  | succ n ih =>
    simp only [postEventTo]
    split
    · exact evtWrite_errs
    · split
      · exact evtDrop_errs.trans (record_errs fun g => errOf_captures g h)
      · exact ((evtDrop_errs.trans (record_errs fun g => errOf_captures g h)).trans (ih ..)).trans (ih ..)

/-- A report of a host takes no bit back, and sets its own. -/
theorem raiseHost_errs {n type status ring : Nat} {addr : Dword} : ErrsKept s (s.raiseHost h n type status ring addr) := by
  unfold State.raiseHost State.raise State.raiseCap State.postEvent
  dsimp only
  split
  · exact record_errs fun g => errOf_captures g h
  · exact ((record_errs fun g => errOf_captures g h).trans (postEventTo_errs ..)).trans (postEventTo_errs ..)

theorem raiseHost_set {n type status ring : Nat} {addr : Dword} (lt : n < 32) :
    bit ((s.raiseHost h n type status ring addr).rd (errOf h)) n = true := by
  unfold State.raiseHost State.raise State.raiseCap State.postEvent
  dsimp only
  have recorded (x y z : Word) : bit ((s.record (errOf h) n [(Reg.hostErrCapture (hostNum h), x), (Reg.hostErrAddrLo (hostNum h), y),
      (Reg.hostErrAddrHi (hostNum h), z)] []).rd (errOf h)) n = true := by
    rw [record_errOf (errOf_captures h h), if_pos rfl]
    exact bit_setBit _ lt
  split
  · exact recorded ..
  · exact ((postEventTo_errs ..).trans (postEventTo_errs ..)).kept h n (recorded ..)

theorem finish_errs {d : Desc} {status result : Nat} : ErrsKept s (s.finish h d status result) := by
  have counted : ∀ u : State, ErrsKept u (u.bump (Reg.hostDescDone (hostNum h))) := fun u =>
    .wr fun g => by cases g <;> cases h <;> decide
  unfold State.finish State.cqPost
  dsimp only
  split
  · exact (ErrsKept.withHost.trans (counted _)).trans (ringWrite_errs (by omega))
  · exact (ErrsKept.withHost.trans (counted _)).trans .withHost

end Sys2Proof.Machine

/-! ## A host port that goes down, and its reset (R476, R527, R538) -/
namespace Sys2Proof.Machine

variable {a b c s t u : State} {l : List Nat} {g h : HostPort}

/-- What a host port that falls changes: reports, the hosts' sides, what leaves the device, and the activities of its set. -/
structure PortFalls (a b : State) : Prop where
  rest : b = { a with regs := b.regs, test := b.test, hostA := b.hostA, hostB := b.hostB, out := b.out, fault := b.fault }
  cause : b.rd Reg.resetCause = a.rd Reg.resetCause
  errs : ErrsKept a b

theorem PortFalls.refl (s : State) : PortFalls s s := ⟨rfl, rfl, .refl s⟩

theorem PortFalls.trans (h : PortFalls a b) (g : PortFalls b c) : PortFalls a c := by
  refine ⟨?_, g.cause.trans h.cause, h.errs.trans g.errs⟩
  have e := g.rest
  rw [h.rest] at e
  exact e

theorem PortFalls.of_changes (h : ChangesOnly l a b) (out : Reg.resetCause ∉ l) (errs : ErrsKept a b) : PortFalls a b := by
  refine ⟨?_, h.reg _ out (by decide), errs⟩
  have e := h.rest
  rw [e]

theorem PortFalls.withHost {x : HostSide} : PortFalls s (s.withHost h x) := .of_changes (l := []) .withHost List.not_mem_nil .withHost
theorem PortFalls.withFault {x : Faults} : PortFalls s (s.withFault x) := ⟨rfl, rfl, .of_rd fun _ => rfl⟩

theorem PortFalls.foldl {β : Type} {f : State → β → State} (each : ∀ u x, PortFalls u (f u x)) (xs : List β) (s : State) :
    PortFalls s (xs.foldl f s) := by
  induction xs generalizing s with
  | nil => exact .refl s
  | cons x xs ih => exact (each s x).trans (ih _)

/-- A descriptor's completion writes its own registers, none of them RESET_CAUSE. -/
theorem done_falls {d : Desc} {st : Status} {n : Nat} : PortFalls s (s.done h d st n) := by
  refine .of_changes (finish_changes h d st.toNat n (fun _ mem => mem)) ?_ finish_errs
  have host : hostNum h ≤ 1 := by cases h <;> decide
  have ring := d.cq.isLt
  simp only [doneRegs, ringTail, ringBase, List.mem_cons, List.not_mem_nil, or_false]
  rw [if_neg (by omega)]
  simp only [Reg.resetCause, Reg.hostDescDone, Reg.cqBaseLo]
  omega

theorem quiesce_falls : PortFalls s (s.quiesce h) := by
  unfold State.quiesce State.stopMoves
  exact PortFalls.withHost.trans (.foldl (fun _ _ => PortFalls.withFault.trans done_falls) _ _)

theorem refreshHrdy_falls : PortFalls s s.refreshHrdy := by
  unfold State.refreshHrdy
  exact PortFalls.withHost.trans .withHost

/-- The report of a port that goes down, its event, and the quiescing of the sets that its host owns. -/
def State.portQuiets (s : State) (h : HostPort) : State :=
  let s := s.raiseHost h 11 0 0 0 0
  let s := postEventTo 4 s (other h) (eventEntry s.now 0x04 0 (hostNum h) [])
  (bothSets.filter (fun g => ((s.host g).ring == .active || (s.host g).ring == .adopted) && s.setOwner g == h)).foldl (fun s g => s.quiesce g) s

theorem portDown_eq (s : State) (h : HostPort) : s.portDown h =
    ((s.portQuiets h).withHost h { (s.portQuiets h).host h with dlUp := false, bar4 := [], fm := FmSession.reset }).refreshHrdy := rfl

theorem portQuiets_falls : PortFalls s (s.portQuiets h) ∧ bit ((s.portQuiets h).rd (errOf h)) 11 = true := by
  have raised : PortFalls s (s.raiseHost h 11 0 0 0 0) :=
    .of_changes (l := []) (raiseHost_changes ..) List.not_mem_nil raiseHost_errs
  have set : bit ((s.raiseHost h 11 0 0 0 0).rd (errOf h)) 11 = true := raiseHost_set (by decide)
  unfold State.portQuiets
  dsimp only
  generalize s.raiseHost h 11 0 0 0 0 = u at *
  have posted : PortFalls u (postEventTo 4 u (other h) (eventEntry u.now 0x04 0 (hostNum h) [])) :=
    .of_changes (l := []) (postEventTo_changes ..) List.not_mem_nil (postEventTo_errs ..)
  generalize postEventTo 4 u (other h) (eventEntry u.now 0x04 0 (hostNum h) []) = v at *
  have quiets := PortFalls.foldl (fun (s : State) g => quiesce_falls (s := s) (h := g))
    (bothSets.filter (fun g => ((v.host g).ring == .active || (v.host g).ring == .adopted) && v.setOwner g == h)) v
  exact ⟨(raised.trans posted).trans quiets, (posted.trans quiets).errs.kept h 11 set⟩

/-- A port that has gone down: its link, its BAR4 accesses and its manager's session are gone (R476, R501). -/
theorem portDown_falls : PortFalls s (s.portDown h) ∧ bit ((s.portDown h).rd (errOf h)) 11 = true
    ∧ ((s.portDown h).host h).dlUp = false ∧ ((s.portDown h).host h).bar4 = [] ∧ ((s.portDown h).host h).fm = FmSession.reset := by
  obtain ⟨quiets, set⟩ := portQuiets_falls (s := s) (h := h)
  rw [portDown_eq]
  generalize s.portQuiets h = u at *
  have downs : PortFalls u (u.withHost h { u.host h with dlUp := false, bar4 := [], fm := FmSession.reset }).refreshHrdy :=
    PortFalls.withHost.trans refreshHrdy_falls
  refine ⟨quiets.trans downs, downs.errs.kept h 11 set, ?_⟩
  cases h <;> exact ⟨rfl, rfl, rfl⟩

/-! PORT_RESET. -/

/-- What follows the fall of the port in its reset: the state of its pins, its loopback, a claim by it, the words held for it. -/
def State.portCleared (s : State) (h : HostPort) (kind : PortResetKind) : State :=
  let s := s.withHost h { s.host h with perst := kind == .perst, d3hot := false }
  let s := if kind == .perst && s.test.hlb.port == h then s.withTest { s.test with hlb := { s.test.hlb with running := false } } else s
  let s := if s.boot.claim == some h then s.withBoot { s.boot with claim := none } else s
  let mine := fun (p : Nat × Option Word) => p.1 % 2 != hostNum h
  let s := (s.withHold (s.hold.filter mine)).withLatch (s.latch.filter mine)
  s.wr Reg.resetCause (setBit (s.rd Reg.resetCause) 5)

theorem exec_portReset {kind : PortResetKind} (h : HostPort) (s : State) :
    exec (.portReset h kind) s = if !s.powered then .next s else .next ((s.portDown h).portCleared h kind) := rfl

theorem holdKey_own (h : HostPort) (off : Nat) : (holdKey h off % 2 != hostNum h) = false := by
  have host : hostNum h ≤ 1 := by cases h <;> decide
  simp only [holdKey, bne_eq_false_iff_eq]
  omega

theorem holdKey_other (h : HostPort) (off : Nat) : (holdKey (other h) off % 2 != hostNum h) = true := by
  have apart : hostNum (other h) ≤ 1 ∧ hostNum (other h) ≠ hostNum h := by cases h <;> decide
  simp only [holdKey, bne_iff_ne]
  omega

/-- Words held or latched for a host are dropped; those for the other stay. -/
theorem heldWords_filter (x : Tab (Option Word)) (h : HostPort) (off : Nat) :
    Tab.get none (x.filter (fun p => p.1 % 2 != hostNum h)) (holdKey h off) = none
    ∧ Tab.get none (x.filter (fun p => p.1 % 2 != hostNum h)) (holdKey (other h) off) = x.get none (holdKey (other h) off) := by
  unfold Tab.get
  rw [Tab.find_filter_drop x (fun i => i % 2 != hostNum h) _ (holdKey_own h off),
    Tab.find_filter_keep x (fun i => i % 2 != hostNum h) _ (holdKey_other h off)]
  exact ⟨rfl, rfl⟩

theorem loopback_stops (s : State) (h : HostPort) (kind : PortResetKind) : ∃ x,
    (if kind == .perst && s.test.hlb.port == h then s.withTest { s.test with hlb := { s.test.hlb with running := false } } else s)
      = s.withTest x ∧ (kind = .perst → x.hlb.port = h → x.hlb.running = false) := by
  split
  · exact ⟨_, rfl, fun _ _ => rfl⟩
  · next no => exact ⟨s.test, rfl, fun perst own => absurd (by simp [perst, own]) no⟩

theorem claim_released (s : State) (h : HostPort) : ∃ y,
    (if s.boot.claim == some h then s.withBoot { s.boot with claim := none } else s) = s.withBoot y
    ∧ (s.boot.claim = some h → y.claim = none) ∧ (s.boot.claim ≠ some h → y.claim = s.boot.claim) := by
  split
  · next own => exact ⟨_, rfl, fun _ => rfl, fun no => absurd (beq_iff_eq.1 own) no⟩
  · next other => exact ⟨s.boot, rfl, fun own => absurd (beq_iff_eq.2 own) other, fun _ => rfl⟩

/-- The state in which a host's words are dropped and RESET_CAUSE is marked. -/
def State.portMarked (s : State) (h : HostPort) : State :=
  let s := (s.withHold (s.hold.filter (fun p => p.1 % 2 != hostNum h))).withLatch (s.latch.filter (fun p => p.1 % 2 != hostNum h))
  s.wr Reg.resetCause (setBit (s.rd Reg.resetCause) 5)

theorem portCleared_eq (s : State) (h : HostPort) (kind : PortResetKind) : ∃ x y,
    s.portCleared h kind = (((s.withHost h { s.host h with perst := kind == .perst, d3hot := false }).withTest x).withBoot y).portMarked h
    ∧ (kind = .perst → x.hlb.port = h → x.hlb.running = false) ∧ (s.boot.claim = some h → y.claim = none)
    ∧ (s.boot.claim ≠ some h → y.claim = s.boot.claim) := by
  have boot : (s.withHost h { s.host h with perst := kind == .perst, d3hot := false }).boot = s.boot := by cases h <;> rfl
  obtain ⟨x, stops, still⟩ := loopback_stops (s.withHost h { s.host h with perst := kind == .perst, d3hot := false }) h kind
  obtain ⟨y, released, own, other⟩ := claim_released ((s.withHost h { s.host h with perst := kind == .perst, d3hot := false }).withTest x) h
  refine ⟨x, y, ?_, still, fun e => own (by rw [← e, ← boot]; rfl), fun ne => ?_⟩
  · rw [← released, ← stops]
    rfl
  · rw [other (fun e => ne (by rw [← e, ← boot]; rfl)), ← boot]
    rfl

/-- What follows the fall of a port leaves of the state. -/
theorem portCleared_clears (s : State) (h : HostPort) (kind : PortResetKind) :
    let t := s.portCleared h kind
    ((t.host h).dlUp = (s.host h).dlUp ∧ (t.host h).perst = (kind == .perst) ∧ (t.host h).d3hot = false
        ∧ (t.host h).bar4 = (s.host h).bar4 ∧ (t.host h).fm = (s.host h).fm)
    ∧ ((s.boot.claim = some h → t.boot.claim = none) ∧ (s.boot.claim ≠ some h → t.boot.claim = s.boot.claim))
    ∧ t.rd Reg.resetCause = setBit (s.rd Reg.resetCause) 5 ∧ t.rd (errOf h) = s.rd (errOf h)
    ∧ t.hold = s.hold.filter (fun p => p.1 % 2 != hostNum h) ∧ t.latch = s.latch.filter (fun p => p.1 % 2 != hostNum h)
    ∧ (kind = .perst → t.test.hlb.port = h → t.test.hlb.running = false)
    ∧ t.pool = s.pool ∧ t.links = s.links ∧ t.mort = s.mort ∧ t.bell = s.bell := by
  obtain ⟨x, y, e, still, own, other⟩ := portCleared_eq s h kind
  have err : errOf h ≠ Reg.resetCause := by cases h <;> decide
  rw [e]
  refine ⟨?_, ⟨own, other⟩, ?_, ?_, ?_⟩
  · cases h <;> exact ⟨rfl, rfl, rfl, rfl, rfl⟩
  · refine (State.rd_wr_same ..).trans ?_
    cases h <;> rfl
  · refine (State.rd_wr_other _ _ err).trans ?_
    cases h <;> rfl
  · cases h <;> exact ⟨rfl, rfl, still, rfl, rfl, rfl, rfl⟩

/-- PORT_RESET: the port goes down, what is held for its host is dropped, and RESET_CAUSE tells of it (R476, R527, R538). -/
theorem portReset_effect (h : HostPort) (kind : PortResetKind) (s : State) : ∃ t, exec (.portReset h kind) s = .next t
    ∧ (s.powered = false → t = s)
    ∧ (s.powered = true → (t.host h).dlUp = false ∧ (t.host h).perst = (kind == .perst) ∧ (t.host h).d3hot = false
        ∧ (t.host h).bar4 = [] ∧ (t.host h).fm = FmSession.reset
        ∧ (s.boot.claim = some h → t.boot.claim = none) ∧ (s.boot.claim ≠ some h → t.boot.claim = s.boot.claim)
        ∧ t.rd Reg.resetCause = setBit (s.rd Reg.resetCause) 5 ∧ bit (t.rd (Reg.hostErr (hostNum h))) 11 = true
        ∧ (∀ off, t.hold.get none (holdKey h off) = none ∧ t.latch.get none (holdKey h off) = none
            ∧ t.hold.get none (holdKey (other h) off) = s.hold.get none (holdKey (other h) off)
            ∧ t.latch.get none (holdKey (other h) off) = s.latch.get none (holdKey (other h) off))
        ∧ (kind = .perst → t.test.hlb.port = h → t.test.hlb.running = false)
        ∧ t.pool = s.pool ∧ t.links = s.links ∧ TablesSame s t ∧ t.bell.now = s.bell.now) := by
  rw [exec_portReset]
  cases powered : s.powered
  · exact ⟨s, rfl, fun _ => rfl, nofun⟩
  · obtain ⟨falls, set, down, bar4, fm⟩ := portDown_falls (s := s) (h := h)
    obtain ⟨⟨dlUp, perst, d3hot, bar4', fm'⟩, ⟨own, other⟩, cause, err, hold, latch, still, pool, links, mort, bell⟩ :=
      portCleared_clears (s.portDown h) h kind
    have boot : (s.portDown h).boot = s.boot := by rw [falls.rest]
    have holds : (s.portDown h).hold = s.hold := by rw [falls.rest]
    have latches : (s.portDown h).latch = s.latch := by rw [falls.rest]
    have pools : (s.portDown h).pool = s.pool := by rw [falls.rest]
    have linked : (s.portDown h).links = s.links := by rw [falls.rest]
    have tables : (s.portDown h).mort = s.mort := by rw [falls.rest]
    have time : (s.portDown h).bell = s.bell := by rw [falls.rest]
    rw [boot] at own other
    rw [falls.cause] at cause
    rw [holds] at hold
    rw [latches] at latch
    refine ⟨_, rfl, nofun, fun _ => ⟨dlUp.trans down, perst, d3hot, bar4'.trans bar4, fm'.trans fm, own, other, cause, ?_, fun off => ?_, still,
      pool.trans pools, links.trans linked, .of_mort (mort.trans tables), by rw [bell, time]⟩⟩
    · exact (congrArg (bit · 11) err).trans set
    · rw [hold, latch]
      exact ⟨(heldWords_filter s.hold h off).1, (heldWords_filter s.latch h off).1, (heldWords_filter s.hold h off).2,
        (heldWords_filter s.latch h off).2⟩

end Sys2Proof.Machine

/-! ## Supplies and resets (R525, R527, R528, R531, R538) -/
namespace Sys2Proof.Machine

variable {a b c s t u : State} {g h : HostPort} {v : Word}

/-! Supplies. -/

theorem auxGood_effect (s : State) : ∃ t, exec .auxGood s = .next t ∧ (s.boot.auxGood = true → t = s)
    ∧ (s.boot.auxGood = false → t.rd Reg.resetCause = 1 ∧ t.boot.auxGood = true ∧ Boots .auxOnly [Reg.resetCause] s t) := by
  have run : exec .auxGood s = if s.boot.auxGood then .next s
    else .next (((s.withBoot { s.boot with auxGood := true }).wr Reg.resetCause 1).enterBoot .auxOnly) := rfl
  rw [run]
  cases good : s.boot.auxGood
  · have caused : ∀ u : State, RegsOnly [Reg.resetCause] u (u.wr Reg.resetCause 1) := fun u =>
      ⟨rfl, fun off out => State.rd_wr_other _ _ (fun e => out (List.mem_singleton.2 e))⟩
    refine ⟨_, rfl, nofun, fun _ => ⟨?_, rfl, enterBoot_boots (Prepares.trans Prepares.withBoot (.wrs (caused _)))⟩⟩
    rw [rd_enterBoot _ _ (by decide) (by decide), State.rd_wr_same]
  · exact ⟨s, rfl, fun _ => rfl, nofun⟩

theorem mainEnable_effect (s : State) : ∃ t, exec .mainEnable s = .next t
    ∧ (s.boot.auxGood = true ∧ s.mod.trip = false ∧ s.boot.state = .auxOnly → t = s.withBoot { s.boot with pwrGood := true })
    ∧ (s.boot.auxGood = false ∨ s.mod.trip = true ∨ s.boot.state ≠ .auxOnly → t = s) := by
  have run : exec .mainEnable s = if s.boot.auxGood && !s.boot.pwrGood && !s.mod.trip && s.boot.state == .auxOnly then
    .next (s.withBoot { s.boot with pwrGood := true }) else .next s := rfl
  rw [run]
  split
  · next all =>
    simp only [Bool.and_eq_true, Bool.not_eq_true', beq_iff_eq] at all
    obtain ⟨⟨⟨good, -⟩, cool⟩, here⟩ := all
    refine ⟨_, rfl, fun _ => rfl, fun no => ?_⟩
    simp [good, cool, here] at no
  · next no =>
    refine ⟨s, rfl, fun ⟨good, cool, here⟩ => ?_, fun _ => rfl⟩
    have on : s.boot.pwrGood = true := by simpa [good, cool, here] using no
    rw [← on]
    rfl

theorem mainResetRelease_effect (s : State) : ∃ t, exec .mainResetRelease s = .next t
    ∧ (s.boot.pwrGood = false ∨ s.boot.held = true ∨ s.boot.state ≠ .auxOnly → t = s)
    ∧ (s.boot.pwrGood = true → s.boot.held = false → s.boot.state = .auxOnly →
        Restarted false .romStart (if s.boot.lossSeen = true then s.rd Reg.resetCause &&& 2 else 0x400) s t ∧ t.boot.force = false) := by
  have run : exec .mainResetRelease s = if s.boot.pwrGood && !s.boot.held && s.boot.state == .auxOnly then
    .next (s.resetMain .cold .romStart (if s.boot.lossSeen then s.rd Reg.resetCause &&& 2 else 0x400) false) else .next s := rfl
  rw [run]
  split
  · next all =>
    simp only [Bool.and_eq_true, Bool.not_eq_true', beq_iff_eq] at all
    obtain ⟨⟨on, free⟩, here⟩ := all
    refine ⟨_, rfl, fun no => ?_, fun _ _ _ => ⟨resetMain_restarted _ .cold _ _ _, rfl⟩⟩
    simp [on, free, here] at no
  · next no =>
    exact ⟨s, rfl, fun _ => rfl, fun on free here => absurd (by simp [on, free, here]) no⟩

theorem mainLoss_effect (s : State) : ∃ t, exec .mainLoss s = .next t ∧ (s.boot.pwrGood = false → t = s)
    ∧ (s.boot.pwrGood = true → Restarted false .auxOnly 2 (s.withBoot { s.boot with pwrGood := false, lossSeen := true }) t) := by
  have run : exec .mainLoss s = if s.boot.pwrGood then .next s.loseMain else .next s := rfl
  rw [run]
  cases on : s.boot.pwrGood
  · exact ⟨s, rfl, fun _ => rfl, nofun⟩
  · exact ⟨_, rfl, nofun, fun _ => resetMain_restarted _ .cold _ _ _⟩

/-! RESET_CTRL (R528, R531, R538). -/

/-- RESET_CAUSE as a write of RESET_CTRL asks for it. -/
def resetCauseOf (h : HostPort) (v : Word) : Word :=
  BitVec.ofNat 32 (4 * b2n (bit v 1) + 8 * b2n (bit v 0) + 128 * b2n (bit v 2) + 256 * (hostNum h + 1))

/-- A write of RESET_CTRL with its code and a kind. -/
def AllowsReset (v : Word) : Prop := v.extractLsb' 16 16 = 0xA5C3 ∧ (bit v 0 = true ∨ bit v 1 = true)

/-- The reset that is asked for after a write of RESET_CTRL (R528). -/
def State.resetAsked (s : State) (h : HostPort) (v : Word) : PendingReset :=
  match s.boot.pendReset with
  | none => ⟨if bit v 1 then .cold else .warm, resetCauseOf h v, bit v 2, s.bell.ticks⟩
  | some p => { p with kind := if p.kind == .cold then .cold else if bit v 1 then .cold else .warm,
                       cause := p.cause ||| resetCauseOf h v, force := p.force || bit v 2 }

theorem writeResetCtrl_refused (no : ¬ AllowsReset v) : s.writeResetCtrl h v = s := by
  refine if_pos ?_
  by_contra ok
  simp only [Bool.or_eq_true, bne_iff_ne, Bool.and_eq_true, Bool.not_eq_true', not_or, not_not, not_and_or, Bool.not_eq_false] at ok
  exact no ok

theorem writeResetCtrl_asks (ok : AllowsReset v) :
    s.writeResetCtrl h v = s.withBoot { s.boot with pendReset := some (s.resetAsked h v) } := by
  obtain ⟨code, kind⟩ := ok
  refine if_neg ?_
  rcases kind with kind | kind <;> simp [code, kind]

theorem resetAsked_strongest {p : PendingReset} (waits : s.boot.pendReset = some p) :
    (s.resetAsked h v).at_ = p.at_ ∧ (s.resetAsked h v).cause = p.cause ||| resetCauseOf h v
    ∧ (s.resetAsked h v).force = (p.force || bit v 2) ∧ ((s.resetAsked h v).kind = .cold ↔ p.kind = .cold ∨ bit v 1 = true) := by
  unfold State.resetAsked
  rw [waits]
  refine ⟨rfl, rfl, rfl, ?_⟩
  dsimp only
  split
  · next cold => simp [beq_iff_eq.1 cold]
  · next warm =>
    have warm : p.kind ≠ .cold := fun e => warm (beq_iff_eq.2 e)
    split <;> simp_all

/-- A write of RESET_CTRL (R528, R538). -/
theorem resetCtrl_effect : (¬ AllowsReset v → (s.touch h).writeResetCtrl h v = s.touch h)
    ∧ (AllowsReset v → (∃ r, (s.touch h).writeResetCtrl h v = (s.touch h).withBoot { s.boot with pendReset := some r })
      ∧ ∀ r, ((s.touch h).writeResetCtrl h v).boot.pendReset = some r →
        (s.boot.pendReset = none → r = ⟨if bit v 1 = true then .cold else .warm, resetCauseOf h v, bit v 2, s.bell.ticks⟩)
        ∧ (∀ p, s.boot.pendReset = some p → r.at_ = p.at_ ∧ r.cause = p.cause ||| resetCauseOf h v ∧ r.force = (p.force || bit v 2)
            ∧ (r.kind = .cold ↔ p.kind = .cold ∨ bit v 1 = true))) := by
  refine ⟨writeResetCtrl_refused, fun ok => ?_⟩
  rw [writeResetCtrl_asks ok, touch_boot]
  refine ⟨⟨_, rfl⟩, fun r asked => ?_⟩
  cases Option.some.inj asked
  refine ⟨fun none => ?_, fun p waits => resetAsked_strongest (by rw [touch_boot]; exact waits)⟩
  unfold State.resetAsked
  rw [touch_boot, none, touch_bell]

theorem exec_resetCold (reaches : Reaches s h Reg.resetCtrl) :
    exec (.resetCold h v) s = .next ((s.touch h).writeResetCtrl h (setBit v 1)) := congrArg Host.Outcome.next (hostWrite_reaches reaches)

theorem exec_resetWarm (reaches : Reaches s h Reg.resetCtrl) :
    exec (.resetWarm h v) s = .next ((s.touch h).writeResetCtrl h (setBit v 0)) := congrArg Host.Outcome.next (hostWrite_reaches reaches)

theorem exec_forceRecovery (reaches : Reaches s h Reg.resetCtrl) :
    exec (.forceRecovery h v) s = .next ((s.touch h).writeResetCtrl h (setBit v 2)) := congrArg Host.Outcome.next (hostWrite_reaches reaches)

/-! A reset whose time has come (R528). -/

theorem resetDue_due {r : PendingReset} (waits : s.boot.pendReset = some r) (due : r.at_ + slotsPerUs ≤ s.bell.ticks) :
    s.resetDue = s.resetMain r.kind .romStart (r.cause ||| (if s.boot.shutDown then 0x40 else 0)) r.force := by
  unfold State.resetDue
  rw [waits]
  exact if_neg (Nat.not_lt.2 due)

theorem bellSlotAdvance_resets {r : PendingReset} (good : s.boot.auxGood = true) (waits : s.boot.pendReset = some r)
    (due : r.at_ + 125 ≤ s.bell.ticks) :
    ∃ t, exec .bellSlotAdvance s = .next t ∧ t.boot.state = .romStart ∧ t.boot.force = r.force ∧ t.boot.pendReset = none
    ∧ t.rd Reg.resetCause = r.cause ||| (if s.boot.shutDown = true then 0x40 else 0)
    ∧ t.links = [] ∧ t.pool = Pool.reset ∧ t.mort = Mortise.reset ∧ t.bell.lock = .unlocked ∧ t.bell.ticks = s.bell.ticks + 1
    ∧ t.hostA = s.hostA.restart (r.kind == .warm) ∧ t.hostB = s.hostB.restart (r.kind == .warm) := by
  obtain ⟨x, u, run, moves, ticks, -⟩ := exec_bellSlotAdvance good
  have boot : u.boot = s.boot := moves.boot
  have time : u.bell.ticks = s.bell.ticks + 1 := by rw [moves.bell]; exact ticks
  have late : r.at_ + slotsPerUs ≤ u.bell.ticks := by rw [time]; exact Nat.le_succ_of_le due
  rw [resetDue_due (by rw [boot]; exact waits) late, boot] at run
  have restarted := resetMain_restarted u r.kind .romStart (r.cause ||| (if s.boot.shutDown then 0x40 else 0)) r.force
  obtain ⟨links, -, mort, pool, -⟩ := restarted.main
  obtain ⟨hostA, hostB⟩ := restarted.hosts
  obtain ⟨-, ran, -, lock⟩ := restarted.bell
  obtain ⟨state, -, none, -⟩ := restarted.boot
  exact ⟨_, run, state, rfl, none, restarted.cause.1, links, pool, mort, lock, ran.trans time,
    hostA.trans (moves.ports.restart _ .a), hostB.trans (moves.ports.restart _ .b)⟩

/-- Settles O58: one clause for each command. -/
theorem powerAndResets : Obligations.PowerAndResets := by
  refine ⟨auxGood_effect, mainEnable_effect, mainResetRelease_effect, mainLoss_effect, fun s => ?_, fun h v s reaches => ?_,
    fun s r good waits due => bellSlotAdvance_resets good waits due, portReset_effect⟩
  · exact ⟨_, rfl, rfl, rfl, fun _ => rfl, rfl, rfl, rfl, rfl, rfl, rfl, rfl, rfl⟩
  · exact ⟨⟨_, exec_resetCold reaches, resetCtrl_effect⟩, ⟨_, exec_resetWarm reaches, resetCtrl_effect⟩,
      ⟨_, exec_forceRecovery reaches, resetCtrl_effect⟩⟩

end Sys2Proof.Machine

/-! ## What single operations show of a link, of a register and of time (R98, R122, R127, R172) -/
namespace Sys2Proof.Machine

variable {a b c s t : State} {ls ms : List LinkId} {l m : List Nat} {k j : LinkId} {p : Port}

/-! A touch of a host port. -/

@[simp] theorem touch_link (s : State) (h : HostPort) (k : LinkId) : (s.touch h).link k = s.link k := by rw [touch_rest]; rfl
@[simp] theorem touch_fault (s : State) (h : HostPort) : (s.touch h).fault = s.fault := by rw [touch_rest]
@[simp] theorem touch_test (s : State) (h : HostPort) : (s.touch h).test = s.test := by rw [touch_rest]

@[simp] theorem touch_isMember (s : State) (h : HostPort) (p : Port) : (s.touch h).isMember p = s.isMember p := by
  simp only [State.isMember, touch_rd]

@[simp] theorem touch_groupOk (s : State) (h : HostPort) (p : Port) : (s.touch h).groupOk p = s.groupOk p := by
  simp only [State.groupOk, touch_rd]

@[simp] theorem touch_isFabric (s : State) (h : HostPort) : (s.touch h).isFabric = s.isFabric := by
  simp only [State.isFabric, State.identity, touch_boot, touch_rd]

@[simp] theorem touch_traysBut (s : State) (h : HostPort) (p : Port) : (s.touch h).traysBut p = s.traysBut p := by
  simp only [State.traysBut, touch_rd, touch_isMember]

@[simp] theorem touch_isFenced (s : State) (h : HostPort) (part : Nat) : (s.touch h).isFenced part = s.isFenced part := by
  simp only [State.isFenced, touch_fault]

@[simp] theorem touch_proceeded (s : State) (h : HostPort) : (s.touch h).proceeded = s.proceeded := by
  simp only [State.proceeded, touch_boot]

@[simp] theorem touch_entropyOk (s : State) (h : HostPort) : (s.touch h).entropyOk = s.entropyOk := by
  simp only [State.entropyOk, touch_rd]

/-! Links. -/

@[simp] theorem link_wr (s : State) (off : Nat) (v : Word) (k : LinkId) : (s.wr off v).link k = s.link k := rfl
@[simp] theorem link_bump (s : State) (off : Nat) (k : LinkId) : (s.bump off).link k = s.link k := rfl

theorem ChangesOnly.link (h : ChangesOnly l a b) (k : LinkId) : b.link k = a.link k := by rw [h.rest]; rfl

@[simp] theorem link_raise (s : State) (e n : Nat) (caps : List (Nat × Word)) (k : LinkId) : (s.raise e n caps).link k = s.link k :=
  (raise_changes (l := recordRegs e ++ caps.map Prod.fst) e n caps (fun _ m => List.mem_append_left _ m)
    (fun _ m => List.mem_append_right _ (List.mem_map_of_mem m))).link k

@[simp] theorem link_raisePort (s : State) (k : LinkId) (n : Nat) (j : LinkId) : (s.raisePort k n).link j = s.link j := by
  unfold State.raisePort
  dsimp only
  split <;> simp only [link_wr, link_raise]

@[simp] theorem link_enter (s : State) (k : LinkId) (to_ : Train) :
    (s.enter k to_).link k = { s.link k with train := to_, enteredAt := s.bell.ticks } := link_modLink_same ..

@[simp] theorem link_sendCtl (s : State) (k : LinkId) (type : BitVec 4) (content : Bytes) :
    (s.sendCtl k type content).link k = { s.link k with ctlOut := (s.link k).ctlOut ++ [⟨type, content⟩] } := link_modLink_same ..

@[simp] theorem link_sendReplayReq (s : State) (k : LinkId) :
    (s.sendReplayReq k).link k =
      { s.link k with ctlOut := (s.link k).ctlOut ++ [⟨5, leBytes 2 ((s.link k).rxNext % 65536)⟩] } := link_sendCtl ..

@[simp] theorem link_modKex (s : State) (k : LinkId) (f : Kex → Kex) :
    (s.modKex k f).link k = { s.link k with kex := f (s.link k).kex } := link_modLink_same ..

@[simp] theorem link_timeLinkCheck (s : State) (k : LinkId) : s.timeLinkCheck.link k = s.link k :=
  timeLinkCheck_moves.link List.not_mem_nil

@[simp] theorem link_toRecovery (s : State) (k : LinkId) :
    (s.toRecovery k).link k = { s.link k with train := .recovery, enteredAt := s.bell.ticks } :=
  (link_timeLinkCheck ..).trans (link_enter ..)

/-- An update of one link leaves every other alone. -/
theorem link_modLink_other (s : State) {k j : LinkId} (f : Link → Link) (ne : j ≠ k) : (s.modLink k f).link j = s.link j := by
  rw [link_modLink, if_neg ne]

/-- An update of one link is all that changes. -/
theorem relinked_modLink (s : State) (k : LinkId) (f : Link → Link) : Relinked s (s.modLink k f) k (f (s.link k)) :=
  ⟨link_modLink_same .., fun _ ne => link_modLink_other s f ne, rfl⟩

theorem Relinked.trans {x y : Link} (h : Relinked a b k x) (g : Relinked b c k y) : Relinked a c k y := by
  obtain ⟨-, hothers, hrest⟩ := h
  obtain ⟨glink, gothers, grest⟩ := g
  refine ⟨glink, fun j ne => (gothers j ne).trans (hothers j ne), ?_⟩
  rw [hrest] at grest
  exact grest

/-! Time and registers. -/

@[simp] theorem bell_modLink (s : State) (k : LinkId) (f : Link → Link) : (s.modLink k f).bell = s.bell := rfl
@[simp] theorem bell_raise (s : State) (e n : Nat) (caps : List (Nat × Word)) : (s.raise e n caps).bell = s.bell :=
  (raise_changes (l := recordRegs e ++ caps.map Prod.fst) e n caps (fun _ m => List.mem_append_left _ m)
    (fun _ m => List.mem_append_right _ (List.mem_map_of_mem m))).bell
@[simp] theorem bell_raisePort (s : State) (k : LinkId) (n : Nat) : (s.raisePort k n).bell = s.bell := by
  unfold State.raisePort
  dsimp only
  split
  · exact bell_raise ..
  · exact bell_raise ..

@[simp] theorem rd_modLink (s : State) (k : LinkId) (f : Link → Link) (off : Nat) : (s.modLink k f).rd off = s.rd off := rfl

theorem Counted.of_rd {off n : Nat} (h : Counted off n a b) (after : c.rd off = b.rd off) : Counted off n a c := by
  rw [Counted, after]
  exact h

theorem Counted.before {off n : Nat} (h : Counted off n b c) (same : b.rd off = a.rd off) : Counted off n a c := by
  rw [Counted, same] at h
  exact h

/-- The registers of a port lie below those that reports to the hosts write. -/
theorem reportReg_port {off : Nat} (lt : off < 0x800000) : reportReg off = false := reportReg_below (by omega)

theorem LinkMoves.rd (h : LinkMoves ls l a b) {off : Nat} (out : off ∉ l) (low : off < 0x800000) : b.rd off = a.rd off :=
  h.effect.reg off out (reportReg_port low)

/-! Frames of the operations of a link. -/

theorem wr_linkMoves {off : Nat} {v : Word} (mem : off ∈ l) : LinkMoves ls l s (s.wr off v) :=
  ⟨⟨rfl, ⟨rfl, rfl⟩, fun _ _ => rfl, (ChangesOnly.wr (Or.inl mem)).reg⟩, fun g => by rw [wr_host], rfl⟩

theorem LinkMoves.withFree {n : Nat} : LinkMoves ls l s (s.withFree n) :=
  ⟨⟨rfl, ⟨rfl, rfl⟩, fun _ _ => rfl, fun _ _ _ => rfl⟩, fun g => by cases g <;> rfl, rfl⟩

theorem LinkMoves.emit {o : Out} : LinkMoves ls l s (s.emit o) :=
  ⟨⟨rfl, ⟨rfl, rfl⟩, fun _ _ => rfl, fun _ _ _ => rfl⟩, fun g => by rw [emit_host], rfl⟩

theorem LinkMoves.modLink {f : Link → Link} (mem : k ∈ ls) : LinkMoves ls l s (s.modLink k f) := LinkMoves.setLink mem

/-- A raise for a port: its record, and HALF1 in it. -/
theorem raisePort_linkMoves {n : Nat} (sub : recordRegs (Reg.portErr k.port.val) ⊆ l) : LinkMoves ls l s (s.raisePort k n) := by
  have raised : LinkMoves ls l s (s.raise (Reg.portErr k.port.val) n) :=
    raise_linkMoves (fun _ m => sub m) (fun _ m => absurd m List.not_mem_nil)
  unfold State.raisePort
  dsimp only
  split
  · exact raised.trans (wr_linkMoves (sub (List.mem_cons_self ..)))
  · exact raised

theorem raisePort_sets (s : State) (k : LinkId) {n : Nat} (lt : n < 32) :
    bit ((s.raisePort k n).rd (Reg.portErr k.port.val)) n = true := by
  have := k.port.isLt
  have raised : bit ((s.raise (Reg.portErr k.port.val) n).rd (Reg.portErr k.port.val)) n = true :=
    raiseCap_sets _ _ _ _ lt (reportReg_port (by simp only [Reg.portErr]; omega))
  unfold State.raisePort
  dsimp only
  split
  · rw [State.rd_wr_same]
    exact bit_setBit_keeps raised
  · exact raised

theorem timeLinkCheck_linkMoves (sub : recordRegs Reg.bellErr ⊆ l) : LinkMoves ls l s s.timeLinkCheck :=
  timeLinkCheck_moves.mono (List.nil_subset _) sub

theorem toRecovery_linkMoves (mem : k ∈ ls) (sub : recordRegs Reg.bellErr ⊆ l) : LinkMoves ls l s (s.toRecovery k) :=
  (LinkMoves.enter mem).trans (timeLinkCheck_linkMoves sub)

/-- The record of a port's errors is not among those of the bell. -/
theorem portErr_not_bellErr (p : Port) : Reg.portErr p.val ∉ recordRegs Reg.bellErr := by
  simp only [recordRegs, List.mem_cons, List.not_mem_nil, or_false, Reg.portErr, Reg.bellErr]
  omega

theorem rd_portErr_timeLinkCheck (s : State) (p : Port) : s.timeLinkCheck.rd (Reg.portErr p.val) = s.rd (Reg.portErr p.val) :=
  timeLinkCheck_moves.rd (portErr_not_bellErr p) (by simp only [Reg.portErr]; omega)

/-! What the end of a session leaves of the registers (R170). -/

/-- A partial frame that is lost is counted and raises SW_ERR; no other register changes. -/
theorem rd_losePartial (s : State) (x : Arriving) {off : Nat} (out : off ∉ Reg.swPartialDrop :: swErrRegs) (low : off < 0x800000) :
    (s.losePartial x).rd off = s.rd off := by
  have counted {i o cl : Nat} : ((s.bump Reg.swPartialDrop).raiseSw 1 i o cl).rd off = s.rd off :=
    LinkMoves.rd (ls := []) ((bump_linkMoves (List.mem_cons_self ..)).trans (raiseSw_linkMoves (List.subset_cons_self ..))) out low
  unfold State.losePartial
  split
  · rfl
  · split
    · rfl
    · dsimp only
      split <;> exact counted

/-- Beyond its partial frames the end of a session writes no register. -/
theorem regs_endSession (s : State) (k : LinkId) :
    (s.endSession k).regs = ((s.link k).arriving.foldl (fun s x => s.losePartial x) s).regs := by
  unfold State.endSession
  dsimp only
  generalize (s.link k).arriving.foldl (fun s x => s.losePartial x) s = u
  have set : (u.setLink k (s.link k).ended).regs = u.regs := rfl
  split
  · exact set
  · split <;> split <;> simp only [State.gatewayDown, State.withMort_regs, State.withSw_regs, set]

theorem rd_endSession (s : State) (k : LinkId) {off : Nat} (out : off ∉ Reg.swPartialDrop :: swErrRegs) (low : off < 0x800000) :
    (s.endSession k).rd off = s.rd off := by
  rw [State.rd, regs_endSession]
  exact foldl_keeps (φ := fun u => u.rd off) (fun u x => rd_losePartial u x out low) _ s

/-- No register of a port is one that the loss of a partial frame writes. -/
theorem portReg_not_partial {off : Nat} (lo : 0x400000 ≤ off) (hi : off < 0x700000) : off ∉ Reg.swPartialDrop :: swErrRegs := by
  simp only [swErrRegs, recordRegs, List.mem_cons, List.not_mem_nil, or_false, Reg.swPartialDrop, Reg.swErr, Reg.swErrCapture]
  omega

theorem rd_toDetect (s : State) (k : LinkId) {off : Nat} (lo : 0x400000 ≤ off) (hi : off < 0x700000) :
    (s.toDetect k).rd off = s.rd off := by
  have ended := rd_endSession s k (portReg_not_partial lo hi) (by omega)
  unfold State.toDetect
  dsimp only
  split <;> exact ended

/-- A link that goes to DETECT has forgotten its session. -/
theorem link_toDetect_ended (s : State) (k : LinkId) (open_ : s.isFenced (bits (s.rd (Reg.portCfg k.port.val)).toNat 21 16) = false) :
    (s.toDetect k).link k = { (s.link k).ended with fencedByMismatch := false, train := .detect, enteredAt := (s.endSession k).bell.ticks } := by
  have fenced : (s.endSession k).isFenced (bits ((s.endSession k).rd (Reg.portCfg k.port.val)).toNat 21 16) = false := by
    rw [endSession_moves.rd_portCfg k.port.isLt, State.isFenced, endSession_moves.fault]
    exact open_
  unfold State.toDetect
  dsimp only
  rw [fenced, if_neg Bool.false_ne_true]
  simp

end Sys2Proof.Machine

/-! ## Host writes of PORT_CFG, PORT_CTRL and LANE_MARGIN_CTRL (R27, R89, R96, R122, R124 to R127, R540) -/
namespace Sys2Proof.Machine

variable {a b s t : State} {k : LinkId} {p : Port} {h : HostPort}

/-! PORT_CFG (R27, R89, R96, R126). -/

theorem hostWriteRwl_unlocked {off : Nat} {f : State → State} (hr : Reaches s h off) (unlocked : s.locked = false) :
    s.hostWriteRwl h off f = f (s.touch h) := by
  rw [State.hostWriteRwl, hostWrite_reaches hr, touch_locked, unlocked]
  rfl

theorem exec_portCfgWrite {v : Word} (hr : Reaches s h (Reg.portCfg p.val)) (unlocked : s.locked = false) :
    exec (.portCfgWrite h p v) s = .next ((s.touch h).writePortCfg p v) :=
  congrArg Host.Outcome.next (hostWriteRwl_unlocked hr unlocked)

theorem writePortCfg_member {v : Word} (member : s.isMember p = true) : s.writePortCfg p v = s := if_pos member

/-- The register after a write of PORT_CFG, with the error of a role that is refused. -/
def State.storePortCfg (s : State) (p : Port) (v : Word) : State :=
  let off := Reg.portCfg p.val
  let was := bits (s.rd off).toNat 5 4
  let role := bits v.toNat 5 4
  if role == 2 && decide (32 < s.traysBut p + traySize v) then (s.wr off (withRole v was)).raisePort p.link 7
  else if role == 3 && !s.isFabric then (s.wr off (withRole v was)).raisePort p.link 6
  else s.wr off v

@[simp] theorem link_storePortCfg (s : State) (p : Port) (v : Word) (k : LinkId) : (s.storePortCfg p v).link k = s.link k := by
  unfold State.storePortCfg
  dsimp only
  split
  · rw [link_raisePort, link_wr]
  · split
    · rw [link_raisePort, link_wr]
    · rw [link_wr]

/-- Where no link is fenced by a mismatch, a write of PORT_CFG is the register's alone. -/
theorem writePortCfg_stores {v : Word} (member : s.isMember p = false)
    (calm : ∀ k ∈ bothLinks p, (s.link k).train ≠ .fenced ∨ (s.link k).fencedByMismatch = false) :
    s.writePortCfg p v = s.storePortCfg p (v &&& regMask (Reg.portCfg p.val)) := by
  have settled : ∀ u : State, (∀ k ∈ bothLinks p, u.link k = s.link k) →
      (bothLinks p).foldl (fun s k => if (s.link k).train == .fenced && (s.link k).fencedByMismatch then s.toDetect k else s) u = u := by
    intro u same
    have stays : ∀ k ∈ bothLinks p, (if (u.link k).train == .fenced && (u.link k).fencedByMismatch then u.toDetect k else u) = u := by
      intro k m
      rw [same k m]
      refine if_neg ?_
      rcases calm k m with other | free
      · simp [other]
      · simp [free]
    simp only [bothLinks, List.mem_cons, List.not_mem_nil, or_false, forall_eq_or_imp, forall_eq] at stays
    simp only [bothLinks, List.foldl_cons, List.foldl_nil, stays]
  unfold State.writePortCfg
  rw [if_neg (by simp [member])]
  exact settled _ (fun k _ => link_storePortCfg s p _ k)

/-- A role that is refused: the old role is kept, and the port's record takes the error. -/
theorem refusedRole_moves (s : State) (p : Port) (v : Word) {n : Nat} (lt : n < 32) :
    let off := Reg.portCfg p.val
    let t := (s.wr off v).raisePort p.link n
    t.rd off = v ∧ bit (t.rd (Reg.portErr p.val)) n = true ∧ ChangesOnly (off :: recordRegs (Reg.portErr p.val)) s t := by
  have apart : Reg.portCfg p.val ∉ recordRegs (Reg.portErr p.val) := by
    simp only [recordRegs, List.mem_cons, List.not_mem_nil, or_false, Reg.portErr, Reg.portCfg]
    omega
  have raised : ChangesOnly (recordRegs (Reg.portErr p.val)) (s.wr (Reg.portCfg p.val) v) ((s.wr (Reg.portCfg p.val) v).raisePort p.link n) := by
    rw [raisePort_eq]
    exact raise_changes _ _ _ (fun _ m => m) (fun _ m => absurd m List.not_mem_nil)
  have sets := raisePort_sets (s.wr (Reg.portCfg p.val) v) p.link lt
  rw [link_port] at sets
  refine ⟨?_, sets, ?_⟩
  · rw [raised.reg _ apart (reportReg_port (by simp only [Reg.portCfg]; omega)), State.rd_wr_same]
  · exact (ChangesOnly.wr (Or.inl (List.mem_cons_self ..))).trans (raised.mono (fun _ m => List.mem_cons_of_mem _ m))

theorem portCfgWrite_stores (h : HostPort) (p : Port) (v : Word) (s : State) (hr : Reaches s h (Reg.portCfg p.val))
    (unlocked : s.locked = false) (calm : ∀ k ∈ bothLinks p, (s.link k).train ≠ .fenced ∨ (s.link k).fencedByMismatch = false) :
    let off := Reg.portCfg p.val
    let v' := v &&& regMask off
    let role := bits v'.toNat 5 4
    let was := bits (s.rd off).toNat 5 4
    ∃ t, exec (.portCfgWrite h p v) s = .next t
    ∧ (s.isMember p = true → t = s.touch h)
    ∧ (s.isMember p = false → (role = 2 → s.traysBut p + traySize v' ≤ 32) → (role = 3 → s.isFabric = true) →
        t.rd off = v' ∧ RegsOnly [off] (s.touch h) t)
    ∧ (s.isMember p = false → role = 2 → 32 < s.traysBut p + traySize v' →
        t.rd off = withRole v' was ∧ bit (t.rd (Reg.portErr p.val)) 7 = true
        ∧ ChangesOnly (off :: recordRegs (Reg.portErr p.val)) (s.touch h) t)
    ∧ (s.isMember p = false → role = 3 → s.isFabric = false →
        t.rd off = withRole v' was ∧ bit (t.rd (Reg.portErr p.val)) 6 = true
        ∧ ChangesOnly (off :: recordRegs (Reg.portErr p.val)) (s.touch h) t) := by
  intro off v' role was
  have stores : s.isMember p = false → (s.touch h).writePortCfg p v = (s.touch h).storePortCfg p v' := fun member =>
    writePortCfg_stores (by rw [touch_isMember]; exact member) (by simpa only [touch_link] using calm)
  refine ⟨_, exec_portCfgWrite hr unlocked, fun member => ?_, fun member trays fabric => ?_, fun member tray many => ?_,
    fun member gateway single => ?_⟩
  · exact writePortCfg_member (by rw [touch_isMember]; exact member)
  · have stored : (s.touch h).storePortCfg p v' = (s.touch h).wr off v' := by
      unfold State.storePortCfg
      dsimp only
      rw [touch_traysBut, touch_isFabric, if_neg, if_neg]
      · simp only [Bool.and_eq_true, beq_iff_eq, Bool.not_eq_eq_eq_not, Bool.not_true, not_and, Bool.not_eq_false]
        exact fabric
      · simp only [Bool.and_eq_true, beq_iff_eq, decide_eq_true_eq, not_and, not_lt]
        exact trays
    rw [stores member, stored]
    exact ⟨State.rd_wr_same .., RegsOnly.wr (List.mem_singleton_self _)⟩
  · have stored : (s.touch h).storePortCfg p v' = ((s.touch h).wr off (withRole v' was)).raisePort p.link 7 := by
      unfold State.storePortCfg
      dsimp only
      rw [touch_traysBut, touch_rd, if_pos]
      simp only [Bool.and_eq_true, beq_iff_eq, decide_eq_true_eq]
      exact ⟨tray, many⟩
    rw [stores member, stored]
    exact refusedRole_moves _ p _ (by decide)
  · have stored : (s.touch h).storePortCfg p v' = ((s.touch h).wr off (withRole v' was)).raisePort p.link 6 := by
      have other : ¬ (role == 2) = true := by rw [show role = 3 from gateway]; decide
      unfold State.storePortCfg
      dsimp only
      rw [touch_isFabric, touch_rd, if_neg (fun both => other ((Bool.and_eq_true _ _ ▸ both).1)), if_pos]
      simp only [Bool.and_eq_true, beq_iff_eq, Bool.not_eq_eq_eq_not, Bool.not_true]
      exact ⟨gateway, single⟩
    rw [stores member, stored]
    exact refusedRole_moves _ p _ (by decide)

/-! PORT_CTRL.RETRAIN (R125). -/

theorem exec_portRetrain (hr : Reaches s h (Reg.portCtrl p.val)) : exec (.portRetrain h p) s = .next ((s.touch h).retrain p) :=
  congrArg Host.Outcome.next (hostWrite_reaches hr)

/-- A step for each link of a port, the second after the first. -/
theorem bothLinks_foldl (f : State → LinkId → State) (p : Port) (s : State) :
    (bothLinks p).foldl f s = f (f s p.link) ⟨2 * p.val + 1, by omega⟩ := rfl

theorem bothLinks_moves {f : State → LinkId → State} {l : List Nat} (each : ∀ u k, k.port = p → LinkMoves [k] l u (f u k)) (s : State) :
    LinkMoves (bothLinks p) l s ((bothLinks p).foldl f s) :=
  LinkMoves.foldl _ (fun u k m => (each u k (port_of_bothLinks m)).mono (by simpa using m) (List.Subset.refl _)) s

/-- What a step for each link of a port does to one of them: its own step, from a state in which that link is as before. -/
theorem bothLinks_own {f : State → LinkId → State} {l : List Nat} (each : ∀ u k, k.port = p → LinkMoves [k] l u (f u k)) (s : State)
    (mem : k ∈ bothLinks p) : ∃ u, LinkMoves (bothLinks p) l s u ∧ u.link k = s.link k ∧ ((bothLinks p).foldl f s).link k = (f u k).link k := by
  have first := each s p.link (link_port p)
  simp only [bothLinks, List.mem_cons, List.not_mem_nil, or_false] at mem
  have apart : p.link ≠ (⟨2 * p.val + 1, by omega⟩ : LinkId) := fun e => by simp [Port.link] at e
  rw [bothLinks_foldl]
  rcases mem with rfl | rfl
  · exact ⟨s, LinkMoves.refl s, rfl, (each _ _ (port_of_bothLinks (by simp [bothLinks]))).link (by simpa using apart)⟩
  · exact ⟨f s p.link, first.mono (by simp [bothLinks]) (List.Subset.refl _), first.link (by simpa using apart.symm), rfl⟩

theorem retrainLink_moves (s : State) (k : LinkId) : LinkMoves [k] (sessionRegs k.port) s (s.retrainLink k) := by
  unfold State.retrainLink
  dsimp only
  split
  · exact LinkMoves.refl s
  · split
    · exact LinkMoves.refl s
    · split
      · split
        · exact toDetect_moves
        · exact LinkMoves.refl s
      · exact toDetect_moves

theorem retrainLink_active (active : (s.link k).train = .active) (plain : (s.link k).looped = false) : s.retrainLink k = s.toDetect k := by
  simp [State.retrainLink, active, plain]

/-- The port is idle: both links DISABLED and in no loop-back. -/
def State.idlePort (s : State) (p : Port) : Bool := (bothLinks p).all (fun k => (s.link k).train == .disabled && !(s.link k).looped)

theorem idlePort_iff : s.idlePort p = true ↔ ∀ k ∈ bothLinks p, (s.link k).train = .disabled ∧ (s.link k).looped = false := by
  simp [State.idlePort]

theorem retrain_idle (up : s.proceeded = true) (member : s.isMember p = false) (idle : s.idlePort p = true) :
    s.retrain p = s.startTraining p := by
  unfold State.retrain
  rw [if_neg (by simp [up, member])]
  exact if_pos idle

theorem retrain_busy (up : s.proceeded = true) (member : s.isMember p = false) (busy : s.idlePort p = false) :
    s.retrain p = (bothLinks p).foldl State.retrainLink s := by
  unfold State.retrain
  rw [if_neg (by simp [up, member])]
  exact if_neg (by rw [Bool.not_eq_true]; exact busy)

theorem retrainLinks_moves (s : State) (p : Port) : LinkMoves (bothLinks p) (sessionRegs p) s ((bothLinks p).foldl State.retrainLink s) :=
  bothLinks_moves (fun u k e => by have := retrainLink_moves u k; rwa [e] at this) s

theorem retrainLinks_link (mem : k ∈ bothLinks p) (open_ : s.isFenced (bits (s.rd (Reg.portCfg p.val)).toNat 21 16) = false)
    (active : (s.link k).train = .active) (plain : (s.link k).looped = false) :
    (((bothLinks p).foldl State.retrainLink s).link k).train = .detect := by
  obtain ⟨u, before, same, own⟩ := bothLinks_own (f := State.retrainLink) (l := sessionRegs p)
    (fun u k e => by have := retrainLink_moves u k; rwa [e] at this) s mem
  rw [own, retrainLink_active (by rw [same]; exact active) (by rw [same]; exact plain)]
  refine (link_toDetect u k ?_).1
  rw [port_of_bothLinks mem, before.rd_portCfg p.isLt, State.isFenced, before.fault]
  exact open_

theorem portRetrain_moves (h : HostPort) (p : Port) (s : State) (hr : Reaches s h (Reg.portCtrl p.val)) (up : s.proceeded = true)
    (member : s.isMember p = false) (open_ : s.isFenced (bits (s.rd (Reg.portCfg p.val)).toNat 21 16) = false) :
    ∃ t, exec (.portRetrain h p) s = .next t ∧ LinkEffect (bothLinks p) (sessionRegs p) (s.touch h) t
    ∧ (∀ l ∈ bothLinks p, (s.link l).train = .active → (s.link l).looped = false → (t.link l).train = .detect)
    ∧ ((∀ l ∈ bothLinks p, (s.link l).train = .disabled ∧ (s.link l).looped = false) → bit (s.rd (Reg.portCfg p.val)) 0 = true →
        bits (s.rd (Reg.portCfg p.val)).toNat 5 4 ≠ 0 → s.groupOk p = true →
        (t.link p.link).train = .detect ∧ (t.link p.link).cfg = s.rd (Reg.portCfg p.val)) := by
  refine ⟨_, exec_portRetrain hr, ?_⟩
  have up' : (s.touch h).proceeded = true := by rw [touch_proceeded]; exact up
  have member' : (s.touch h).isMember p = false := by rw [touch_isMember]; exact member
  have open' : (s.touch h).isFenced (bits ((s.touch h).rd (Reg.portCfg p.val)).toNat 21 16) = false := by
    rw [touch_isFenced, touch_rd]; exact open_
  have same : (s.touch h).idlePort p = s.idlePort p := by simp only [State.idlePort, touch_link]
  cases idle : s.idlePort p with
  | true =>
    have off := idlePort_iff.1 idle
    rw [retrain_idle up' member' (same.trans idle)]
    refine ⟨startTraining_moves.effect, fun l m active => ?_, fun _ on role good => ?_⟩
    · exact absurd (active.symm.trans (off l m).1) (by decide)
    · rw [← touch_rd s h] at on role ⊢
      refine startTraining_link member' on role (by rw [touch_groupOk]; exact good) ?_ open'
      rw [touch_link]
      exact (off _ (link_mem_bothLinks p)).1
  | false =>
    rw [retrain_busy up' member' (same.trans idle)]
    refine ⟨(retrainLinks_moves _ p).effect, fun l m active plain => ?_, fun off => ?_⟩
    · exact retrainLinks_link m open' (by rw [touch_link]; exact active) (by rw [touch_link]; exact plain)
    · rw [idlePort_iff.2 off] at idle
      exact absurd idle (by decide)

/-! PORT_CTRL.DISABLE (R125, R540). -/

theorem exec_portDisable (hr : Reaches s h (Reg.portCtrl p.val)) : exec (.portDisable h p) s = .next ((s.touch h).disablePort p) :=
  congrArg Host.Outcome.next (hostWrite_reaches hr)

/-- DISABLE of one link. -/
def State.disableLink (s : State) (k : LinkId) : State :=
  if (s.link k).train == .disabled && !(s.link k).looped then s else s.toDisabled k

theorem disablePort_eq (s : State) (p : Port) : s.disablePort p = (bothLinks p).foldl State.disableLink s := rfl

theorem disableLink_moves (s : State) (k : LinkId) : LinkMoves [k] (sessionRegs k.port) s (s.disableLink k) := by
  unfold State.disableLink
  split
  · exact LinkMoves.refl s
  · exact toDisabled_moves

theorem link_disableLink (s : State) (k : LinkId) :
    ((s.disableLink k).link k).train = .disabled ∧ ((s.disableLink k).link k).looped = false := by
  unfold State.disableLink
  split
  · next off => simpa using off
  · exact link_toDisabled s k

theorem disablePort_moves (s : State) (p : Port) : LinkMoves (bothLinks p) (sessionRegs p) s (s.disablePort p) :=
  bothLinks_moves (fun u k e => by have := disableLink_moves u k; rwa [e] at this) s

theorem disablePort_link (s : State) (mem : k ∈ bothLinks p) :
    ((s.disablePort p).link k).train = .disabled ∧ ((s.disablePort p).link k).looped = false := by
  obtain ⟨u, -, -, own⟩ := bothLinks_own (f := State.disableLink) (l := sessionRegs p)
    (fun u k e => by have := disableLink_moves u k; rwa [e] at this) s mem
  rw [disablePort_eq, own]
  exact link_disableLink u k

/-! PORT_CTRL.REKEY (R122, R498). -/

theorem exec_portRekey (hr : Reaches s h (Reg.portCtrl p.val)) : exec (.portRekey h p) s = .next ((s.touch h).rekeyPort p) :=
  congrArg Host.Outcome.next (hostWrite_reaches hr)

/-- Link-layer flits that are queued one after another. -/
theorem link_sendCtls (k : LinkId) (type : BitVec 4) (cs : List Bytes) (s : State) :
    (cs.foldl (fun s x => s.sendCtl k type x) s).link k =
      { s.link k with ctlOut := (s.link k).ctlOut ++ cs.map (fun x => ⟨type, x⟩) } := by
  induction cs generalizing s with
  | nil => simp
  | cons x xs ih => simp [ih]

theorem sendCtls_moves {ls : List LinkId} {l : List Nat} (mem : k ∈ ls) (type : BitVec 4) (cs : List Bytes) (s : State) :
    LinkMoves ls l s (cs.foldl (fun s x => s.sendCtl k type x) s) :=
  LinkMoves.foldl _ (fun _ _ _ => LinkMoves.modLink mem) s

/-- Outside SECURE a message of a key exchange leaves by the egress. -/
theorem sendMsg_queued {msg : BitVec 8} {content : Bytes} (other : (s.link k).train ≠ .secure) :
    s.sendMsg k msg content = (fragments msg content).foldl (fun s x => s.sendCtl k 3 x) s := by
  unfold State.sendMsg
  rw [if_neg (by simpa using other)]

/-- The link may start a rekey (R122). -/
def Link.mayRekey (x : Link) : Bool :=
  x.train == .active && x.encrypted && !x.looped && !x.kex.rekeyOwn && x.nextKey.isNone

theorem startRekey_idle (no : (s.link k).mayRekey = false ∨ s.entropyOk = false) : s.startRekey k = s := by
  refine if_neg ?_
  unfold Link.mayRekey at no
  rcases no with no | no <;> simp [no]

/-- The exchange after this side has begun a rekey with keys of its own. -/
def Kex.rekeying (x : Kex) (keys : Bytes × Bytes) : Kex := { x with rekeyOwn := true, rekeyEk := keys.1, rekeyDk := keys.2 }

theorem startRekey_starts (may : (s.link k).mayRekey = true) (entropy : s.entropyOk = true) :
    ∃ keys : Bytes × Bytes, s.startRekey k =
      (fragments 0x11 keys.1).foldl (fun s x => s.sendCtl k 3 x) (s.draw.2.modKex k (fun x => x.rekeying keys)) := by
  refine ⟨Config.kemKeygen s.draw.1, ?_⟩
  have active : (s.link k).train = .active := by
    simp only [Link.mayRekey, Bool.and_eq_true, beq_iff_eq] at may
    exact may.1.1.1.1
  rw [← sendMsg_queued (by rw [link_modKex]; show (s.link k).train ≠ _; rw [active]; decide)]
  unfold State.startRekey
  rw [if_pos (by unfold Link.mayRekey at may; simp [may, entropy])]
  rfl

theorem startRekey_moves (s : State) (k : LinkId) : LinkMoves [k] [] s (s.startRekey k) := by
  by_cases no : (s.link k).mayRekey = false ∨ s.entropyOk = false
  · rw [startRekey_idle no]
    exact LinkMoves.refl s
  · rw [not_or, Bool.not_eq_false, Bool.not_eq_false] at no
    obtain ⟨keys, starts⟩ := startRekey_starts no.1 no.2
    rw [starts]
    exact (LinkMoves.withFree.trans (LinkMoves.modLink (List.mem_singleton_self k))).trans (sendCtls_moves (List.mem_singleton_self k) ..)

theorem link_startRekey (may : (s.link k).mayRekey = true) (entropy : s.entropyOk = true) :
    let t := s.startRekey k
    (t.link k).kex.rekeyOwn = true
    ∧ (t.link k).ctlOut = (s.link k).ctlOut ++ (fragments 0x11 (t.link k).kex.rekeyEk).map (fun x => ⟨3, x⟩) := by
  obtain ⟨keys, starts⟩ := startRekey_starts may entropy
  rw [starts]
  dsimp only
  rw [link_sendCtls, link_modKex]
  exact ⟨rfl, rfl⟩

theorem LinkMoves.entropyOk {ls : List LinkId} (moves : LinkMoves ls [] a b) : b.entropyOk = a.entropyOk := by
  rw [State.entropyOk, moves.effect.reg _ List.not_mem_nil (by decide)]
  rfl

theorem portRekey_moves (h : HostPort) (p : Port) (s : State) (hr : Reaches s h (Reg.portCtrl p.val)) (entropy : s.entropyOk = true) :
    ∃ t, exec (.portRekey h p) s = .next t ∧ LinkEffect (bothLinks p) [] (s.touch h) t
    ∧ ∀ l ∈ bothLinks p, (s.link l).train = .active → (s.link l).encrypted = true → (s.link l).looped = false →
        (s.link l).kex.rekeyOwn = false → (s.link l).nextKey = none →
        (t.link l).kex.rekeyOwn = true
        ∧ (t.link l).ctlOut = (s.link l).ctlOut ++ (fragments 0x11 (t.link l).kex.rekeyEk).map (fun c => ⟨3, c⟩) := by
  refine ⟨_, exec_portRekey hr, (bothLinks_moves (fun u k _ => startRekey_moves u k) _).effect, ?_⟩
  intro l mem active encrypted plain own none
  obtain ⟨u, before, same, last⟩ := bothLinks_own (f := State.startRekey) (l := []) (fun u k _ => startRekey_moves u k) (s.touch h) mem
  rw [touch_link] at same
  have may : (u.link l).mayRekey = true := by
    rw [same]
    simp [Link.mayRekey, active, encrypted, plain, own, none]
  have started := link_startRekey may (by rw [before.entropyOk, touch_entropyOk]; exact entropy)
  unfold State.rekeyPort
  rw [last, ← same]
  exact started

/-! PORT_CTRL.CLR_COUNTERS (R125). -/

theorem exec_portClrCounters (hr : Reaches s h (Reg.portCtrl p.val)) : exec (.portClrCounters h p) s = .next ((s.touch h).clearPort p) :=
  congrArg Host.Outcome.next (hostWrite_reaches hr)

/-- The counters of a port that CLR_COUNTERS sets to 0. -/
def portCounters (n : Nat) : List Nat :=
  [Reg.portFecCorrLo n, Reg.portFecCorrHi n, Reg.portFecUncorr n, Reg.portCrcErr n, Reg.portDup n, Reg.portGap n,
    Reg.portReplay n, Reg.portHold n, Reg.portSchedStall n, Reg.portAuthFail n, Reg.portRoleDrop n]
    ++ (List.range 4).flatMap (fun j => [Reg.laneBerLo n j, Reg.laneBerHi n j])

theorem clearPort_eq (s : State) (p : Port) : s.clearPort p =
    (s.zeroRegs (portCounters p.val)).wr (Reg.portTrainFail p.val) ((s.zeroRegs (portCounters p.val)).rd (Reg.portTrainFail p.val) &&& 0xF0000000) := rfl

theorem portTrainFail_not_counter (n : Nat) : Reg.portTrainFail n ∉ portCounters n := by
  simp [portCounters, List.range, List.range.loop, Reg.portTrainFail, Reg.laneBerLo, Reg.laneBerHi]
  omega

theorem clearPort_clears (s : State) (p : Port) :
    (∀ off ∈ portCounters p.val, (s.clearPort p).rd off = 0)
    ∧ (s.clearPort p).rd (Reg.portTrainFail p.val) = s.rd (Reg.portTrainFail p.val) &&& 0xF0000000
    ∧ RegsOnly (Reg.portTrainFail p.val :: portCounters p.val) s (s.clearPort p) := by
  have zeroed : RegsOnly (portCounters p.val) s (s.zeroRegs (portCounters p.val)) := RegsOnly.zeroRegs (fun _ m => m)
  rw [clearPort_eq]
  refine ⟨fun off mem => ?_, ?_, ?_⟩
  · rw [State.rd_wr_other _ _ (ne_of_mem_of_not_mem mem (portTrainFail_not_counter p.val)), rd_zeroRegs mem]
  · rw [State.rd_wr_same, zeroed.2 _ (portTrainFail_not_counter p.val)]
  · exact (zeroed.mono (fun _ m => List.mem_cons_of_mem _ m)).trans (RegsOnly.wr (List.mem_cons_self ..))

/-! Margin scans (R124). -/

theorem exec_laneMarginStart {lane : Fin 4} (hr : Reaches s h (Reg.laneMarginCtrl p.val lane.val)) :
    exec (.laneMarginStart h p lane) s = .next ((s.touch h).startScan p lane) := congrArg Host.Outcome.next (hostWrite_reaches hr)

theorem startScan_starts (s : State) (p : Port) (lane : Fin 4) :
    let off := Reg.laneMarginStatus p.val lane.val
    let t := s.startScan p lane
    t.rd off = 0 ∧ (p, lane) ∈ t.test.scans ∧ RegsOnly [off] (s.withTest { s.test with scans := t.test.scans }) t := by
  have stored : RegsOnly [Reg.laneMarginStatus p.val lane.val] s (s.wr (Reg.laneMarginStatus p.val lane.val) 0) :=
    RegsOnly.wr (List.mem_singleton_self _)
  unfold State.startScan
  dsimp only
  split
  · next runs => exact ⟨State.rd_wr_same .., by simpa using runs, rfl, stored.2⟩
  · exact ⟨State.rd_wr_same .., by simp, rfl, stored.2⟩

theorem exec_laneMarginDone {lane : Fin 4} {eye : Word} (runs : (p, lane) ∈ s.test.scans) :
    exec (.laneMarginDone p lane eye) s = .next (((s.withTest { s.test with scans := s.test.scans.erase (p, lane) }).wr
      (Reg.laneEye p.val lane.val) eye).wr (Reg.laneMarginStatus p.val lane.val) 1) := if_pos (by simpa using runs)

/-- Settles O23: a write of PORT_CFG stores or keeps the role; the commands of PORT_CTRL walk over the links of the port. -/
theorem portRegisters : Obligations.PortRegisters := by
  refine ⟨portCfgWrite_stores, portRetrain_moves, fun h p s hr => ?_, portRekey_moves, fun h p s hr => ?_, fun h p lane s hr => ?_,
    fun p lane eye s runs => ?_⟩
  · refine ⟨_, exec_portDisable hr, (disablePort_moves _ p).effect, fun l mem => disablePort_link _ mem⟩
  · have cleared := clearPort_clears (s.touch h) p
    rw [touch_rd] at cleared
    exact ⟨_, exec_portClrCounters hr, cleared⟩
  · have started := startScan_starts (s.touch h) p lane
    rw [touch_test] at started
    exact ⟨_, exec_laneMarginStart hr, started⟩
  · refine ⟨_, exec_laneMarginDone runs, ?_, State.rd_wr_same .., ?_⟩
    · rw [State.rd_wr_other _ _ (by simp only [Reg.laneEye, Reg.laneMarginStatus]; omega), State.rd_wr_same]
    · exact (RegsOnly.wr (List.mem_cons_self ..)).trans (RegsOnly.wr (List.mem_cons_of_mem _ (List.mem_cons_self ..)))

end Sys2Proof.Machine

/-! ## Training, step by step (R90, R92 to R94, R98, R99, R107, R114, R126, R508) -/
namespace Sys2Proof.Machine

variable {a b s t : State} {ls : List LinkId} {l : List Nat} {k : LinkId} {p : Port}

theorem relinked_modLink_modLink (s : State) (k : LinkId) (f g : Link → Link) :
    Relinked s ((s.modLink k f).modLink k g) k (g (f (s.link k))) := by
  have second := relinked_modLink (s.modLink k f) k g
  rw [link_modLink_same] at second
  exact (relinked_modLink s k f).trans second

theorem relinked_modLink_enter (s : State) (k : LinkId) (f : Link → Link) (to_ : Train) :
    Relinked s ((s.modLink k f).enter k to_) k { f (s.link k) with train := to_, enteredAt := s.bell.ticks } :=
  relinked_modLink_modLink ..

theorem relinked_enter (s : State) (k : LinkId) (to_ : Train) :
    Relinked s (s.enter k to_) k { s.link k with train := to_, enteredAt := s.bell.ticks } := relinked_modLink ..

/-- A fold of steps that neither change an observation nor are blind to one is as good as its last change. -/
theorem foldl_settles {α β : Type} {φ : State → α} {f : State → β → State} {v : α} {x : β} {xs : List β} (mem : x ∈ xs)
    (sets : ∀ u, φ (f u x) = v) (keeps : ∀ u y, φ u = v → φ (f u y) = v) (s : State) : φ (xs.foldl f s) = v := by
  have kept : ∀ (ys : List β) (u : State), φ u = v → φ (ys.foldl f u) = v := by
    intro ys
    induction ys with
    | nil => exact fun _ e => e
    | cons y ys ih => exact fun u e => ih _ (keeps u y e)
  obtain ⟨ys, zs, rfl⟩ := List.append_of_mem mem
  rw [List.foldl_append, List.foldl_cons]
  exact kept zs _ (sets _)

/-! SIGNAL_DETECT, EQ_LOW_DONE and LANE_MAP_DONE (R92 to R94, R98). -/

theorem signalDetect_trains (k : LinkId) (lanes : BitVec 16) (s : State) : let cfg := s.rd (Reg.portCfg k.port.val)
    (s.link k).train = .detect → (s.link k).looped = false → bit cfg 0 = true → bits cfg.toNat 5 4 ≠ 0 → s.groupOk k.port = true →
    bit cfg 3 = bit (s.link k).cfg 3 → hasLanes lanes (bits cfg.toNat 11 10) = true →
    ∃ t, exec (.signalDetect k lanes) s = .next t
    ∧ Relinked s t k { s.link k with cfg := cfg, lanes := lanes, train := .eqLow, enteredAt := s.bell.ticks } := by
  intro cfg here plain on role good split signal
  have run : exec (.signalDetect k lanes) s = .next ((s.modLink k (fun x => { x with cfg := cfg, lanes := lanes })).enter k .eqLow) := by
    change (if (s.link k).train == .detect then _ else _) = _
    rw [if_pos (by simp [here])]
    unfold State.leaveDetect
    simp [plain, on, role, good, split, signal, cfg]
  exact ⟨_, run, relinked_modLink_enter s k _ .eqLow⟩

theorem eqLowDone_trains (k : LinkId) (lanes : BitVec 16) (s : State) (here : (s.link k).train = .eqLow) :
    ∃ t, exec (.eqLowDone k lanes) s = .next t
    ∧ Relinked s t k { s.link k with lanes := (s.link k).lanes &&& lanes, train := .laneMap, enteredAt := s.bell.ticks } :=
  ⟨_, if_pos (by simp [here]), relinked_modLink_enter ..⟩

/-- PORT_LANE_MAP as a link reports it: reversal in bit 3, polarity above it. -/
theorem laneMap_fields (inv : Nat) (rev : Bool) :
    bit (BitVec.ofNat 32 (inv * 16 + 8 * b2n rev)) 3 = rev
    ∧ (inv < 16 → bits (BitVec.ofNat 32 (inv * 16 + 8 * b2n rev)).toNat 7 4 = inv) := by
  constructor
  · rw [bit, BitVec.getLsbD_ofNat, Nat.testBit_eq_decide_div_mod_eq]
    cases rev <;> simp [b2n] <;> omega
  · intro lt
    rw [bits, BitVec.toNat_ofNat, Nat.shiftRight_eq_div_pow]
    cases rev <;> simp [b2n] <;> omega

theorem laneMapDone_trains (k : LinkId) (rev : Bool) (inv : BitVec 4) (s : State) (here : (s.link k).train = .laneMap) :
    ∃ t, exec (.laneMapDone k rev inv) s = .next t
    ∧ Relinked (s.withRegs t.regs) t k { s.link k with train := .version, enteredAt := s.bell.ticks }
    ∧ bit (t.rd (Reg.portLaneMap k.port.val)) 3 = rev
    ∧ (bit (s.link k).cfg 3 = false → bits (t.rd (Reg.portLaneMap k.port.val)).toNat 7 4 = inv.toNat)
    ∧ ∀ off, off ≠ Reg.portLaneMap k.port.val → t.rd off = s.rd off := by
  have run (n : Nat) : Relinked (s.wr (Reg.portLaneMap k.port.val) (BitVec.ofNat 32 n))
      ((s.wr (Reg.portLaneMap k.port.val) (BitVec.ofNat 32 n)).enter k .version) k
      { s.link k with train := .version, enteredAt := s.bell.ticks } := relinked_enter ..
  refine ⟨_, if_pos (by simp [here]), run _, ?_, fun whole => ?_, fun off ne => State.rd_wr_other _ _ ne⟩
  · rw [State.enter, rd_modLink, State.rd_wr_same]
    exact (laneMap_fields ..).1
  · rw [State.enter, rd_modLink, State.rd_wr_same, whole]
    exact (laneMap_fields ..).2 inv.isLt

/-! Entering CONFIG and SECURE (R98, R107, R494, R496). -/

/-- The link as it enters CONFIG, with the credits that it advertises. -/
def Link.configured (x : Link) (adv : Vector Nat 8) : Link :=
  { x with txNext := 0, replay := [], replayBase := 0, replayPos := none, rxNext := 0, waiting := false, reqs := 0,
           owed := Vector.replicate 8 0, credits := Vector.replicate 8 0, adv := adv, keyBase := 0, tsCount := 0,
           tsArrived := 0, key := x.kex.k.map (fun m => linkKeyOf m x.kex.initiator), nextKey := none,
           phase := if x.encrypted then 1 else 0 }

theorem enterConfig_moves (sub : recordRegs (Reg.portErr k.port.val) ⊆ l) : LinkMoves [k] l s (s.enterConfig k) := by
  have entered : LinkMoves [k] l s (s.enter k .config) := LinkMoves.enter (List.mem_singleton_self k)
  unfold State.enterConfig
  dsimp only
  split
  · exact (entered.trans (LinkMoves.modLink (List.mem_singleton_self k))).trans (raisePort_linkMoves sub)
  · exact entered.trans (LinkMoves.modLink (List.mem_singleton_self k))

theorem link_enterConfig (s : State) (k : LinkId) :
    ∃ adv, (s.enterConfig k).link k = { s.link k with train := .config, enteredAt := s.bell.ticks }.configured adv := by
  refine ⟨((s.enter k .config).advertise k).1, ?_⟩
  unfold State.enterConfig
  dsimp only
  split
  · rw [link_raisePort, link_modLink_same, link_enter]
    rfl
  · rw [link_modLink_same, link_enter]
    rfl

@[simp] theorem train_enterConfig (s : State) (k : LinkId) : ((s.enterConfig k).link k).train = .config := by
  obtain ⟨adv, e⟩ := link_enterConfig s k
  rw [e]
  rfl

@[simp] theorem kex_enterConfig (s : State) (k : LinkId) : ((s.enterConfig k).link k).kex = (s.link k).kex := by
  obtain ⟨adv, e⟩ := link_enterConfig s k
  rw [e]
  rfl

theorem emits_moves (k : LinkId) (fs : List Bytes) (s : State) :
    LinkMoves ls l s (fs.foldl (fun s x => s.emit (.flit k (secureFlit x))) s) :=
  LinkMoves.foldl _ (fun _ _ _ => LinkMoves.emit) s

theorem link_emits (k : LinkId) (fs : List Bytes) (s : State) (j : LinkId) :
    (fs.foldl (fun s x => s.emit (.flit k (secureFlit x))) s).link j = s.link j :=
  foldl_keeps (φ := fun u => u.link j) (f := fun s x => s.emit (.flit k (secureFlit x))) (fun _ _ => rfl) fs s

theorem sendMsg_moves {msg : BitVec 8} {content : Bytes} (mem : k ∈ ls) : LinkMoves ls l s (s.sendMsg k msg content) := by
  unfold State.sendMsg
  dsimp only
  split
  · exact (LinkMoves.modLink mem).trans (emits_moves k _ _)
  · exact sendCtls_moves mem ..

/-- In SECURE a message is sent at once, and kept to be sent again. -/
theorem link_sendMsg_secure {msg : BitVec 8} {content : Bytes} (secure : (s.link k).train = .secure) :
    (s.sendMsg k msg content).link k =
      { s.link k with kex := { (s.link k).kex with sent := (s.link k).kex.sent ++ [(msg, content)], lastTick := s.bell.ticks } } := by
  unfold State.sendMsg
  rw [if_pos (by simp [secure])]
  exact (link_emits ..).trans (link_modLink_same ..)

theorem modKex_moves {f : Kex → Kex} (mem : k ∈ ls) : LinkMoves ls l s (s.modKex k f) := LinkMoves.modLink mem

@[simp] theorem train_sendMsg (s : State) (k : LinkId) (msg : BitVec 8) (content : Bytes) :
    ((s.sendMsg k msg content).link k).train = (s.link k).train := by
  by_cases secure : (s.link k).train = .secure
  · rw [link_sendMsg_secure secure]
  · rw [sendMsg_queued secure, link_sendCtls]

/-- A new exchange with a peer; it stops at once where no random values can be drawn (R494). -/
def State.startKex (s : State) (k : LinkId) (c : PeerCaps) : State :=
  s.modKex k (fun _ => { Kex.reset with initiator := s.isInitiator k c, stopped := !s.entropyOk })

/-- HELLO with fresh random bytes (R496). -/
def State.sayHello (s : State) (k : LinkId) : State :=
  let hello := (s.randomBytes 32).1 ++ Config.deviceCert ++ Config.caCert
  ((s.randomBytes 32).2.modKex k (fun x => { x with helloOwn := hello })).sendMsg k 1 hello

theorem enterSecure_cases (s : State) (k : LinkId) : s.enterSecure k = s.enter k .secure
    ∨ ∃ c, s.enterSecure k = (s.enter k .secure).startKex k c ∨ s.enterSecure k = ((s.enter k .secure).startKex k c).sayHello k := by
  unfold State.enterSecure
  generalize s.enter k .secure = u
  dsimp only
  split
  · exact Or.inl rfl
  · next c _ =>
    refine Or.inr ⟨c, ?_⟩
    split
    · exact Or.inl rfl
    · exact Or.inr rfl

theorem startKex_moves {c : PeerCaps} (mem : k ∈ ls) : LinkMoves ls l s (s.startKex k c) := modKex_moves mem

theorem sayHello_moves (mem : k ∈ ls) : LinkMoves ls l s (s.sayHello k) := by
  have drawn : LinkMoves ls l s (s.randomBytes 32).2 := LinkMoves.withFree
  exact (drawn.trans (modKex_moves mem)).trans (sendMsg_moves mem)

theorem enterSecure_moves : LinkMoves [k] l s (s.enterSecure k) := by
  have mem := List.mem_singleton_self k
  have entered : LinkMoves [k] l s (s.enter k .secure) := LinkMoves.enter mem
  rcases enterSecure_cases s k with e | ⟨c, e | e⟩ <;> rw [e]
  · exact entered
  · exact entered.trans (startKex_moves mem)
  · exact (entered.trans (startKex_moves mem)).trans (sayHello_moves mem)

theorem train_startKex (s : State) (k : LinkId) (c : PeerCaps) : ((s.startKex k c).link k).train = (s.link k).train := by
  rw [State.startKex, link_modKex]

theorem train_sayHello (s : State) (k : LinkId) : ((s.sayHello k).link k).train = (s.link k).train := by
  unfold State.sayHello
  dsimp only
  rw [train_sendMsg, link_modKex]
  rfl

@[simp] theorem train_enterSecure (s : State) (k : LinkId) : ((s.enterSecure k).link k).train = .secure := by
  have entered : ((s.enter k .secure).link k).train = .secure := by rw [link_enter]
  rcases enterSecure_cases s k with e | ⟨c, e | e⟩ <;> rw [e]
  · exact entered
  · rw [train_startKex, entered]
  · rw [train_sayHello, train_startKex, entered]

/-! VERSION_DECIDE (R90, R92, R99). -/

/-- The link with what a version that both sides speak settles, at width code `w`. -/
def Link.versioned (x : Link) (v09 : Bool) (peer : PeerCaps) (w : Nat) : Link :=
  { x with v09 := v09, encrypted := !v09 && peer.encSupport, fecLL := !v09 && bit x.cfg 24 && peer.fecLL, peer := some peer,
           width := BitVec.ofNat 2 w, degraded := decide (w < cfgWidth x.cfg) }

/-- A version is settled; a width below the configured one raises LINK_DEGRADED. -/
def State.settleVersion (s : State) (k : LinkId) (v09 : Bool) (peer : PeerCaps) (w : Nat) : State :=
  let t := s.modLink k (fun x => x.versioned v09 peer w)
  if w < cfgWidth (s.link k).cfg then t.raisePort k 9 else t

theorem settleVersion_moves {v09 : Bool} {peer : PeerCaps} {w : Nat} (sub : recordRegs (Reg.portErr k.port.val) ⊆ l) :
    LinkMoves [k] l s (s.settleVersion k v09 peer w) := by
  have settled : LinkMoves [k] l s (s.modLink k (fun x => x.versioned v09 peer w)) := LinkMoves.modLink (List.mem_singleton_self k)
  unfold State.settleVersion
  dsimp only
  split
  · exact settled.trans (raisePort_linkMoves sub)
  · exact settled

theorem link_settleVersion (s : State) (k : LinkId) (v09 : Bool) (peer : PeerCaps) (w : Nat) :
    (s.settleVersion k v09 peer w).link k = (s.link k).versioned v09 peer w ∧ (s.settleVersion k v09 peer w).bell = s.bell := by
  unfold State.settleVersion
  dsimp only
  split
  · rw [link_raisePort, link_modLink_same, bell_raisePort]
    exact ⟨rfl, rfl⟩
  · exact ⟨link_modLink_same .., rfl⟩

theorem settleVersion_degraded {v09 : Bool} {peer : PeerCaps} {w : Nat} (low : w < cfgWidth (s.link k).cfg) :
    bit ((s.settleVersion k v09 peer w).rd (Reg.portErr k.port.val)) 9 = true := by
  unfold State.settleVersion
  dsimp only
  rw [if_pos low]
  exact raisePort_sets _ k (by decide)

/-- A partition that is not the peer's: the link ends in FENCED (R99, R508). -/
def State.mismatch (s : State) (k : LinkId) (peer : PeerCaps) : State :=
  (((s.endSession k).modLink k (fun x => { x with fencedByMismatch := true, peer := some peer })).enter k .fenced).raisePort k 8

theorem mismatch_moves {peer : PeerCaps} : LinkMoves [k] (sessionRegs k.port) s (s.mismatch k peer) := by
  have mem := List.mem_singleton_self k
  exact ((endSession_moves.trans (LinkMoves.modLink mem)).trans (LinkMoves.enter mem)).trans (raisePort_linkMoves (portErr_session _))

theorem link_mismatch (s : State) (k : LinkId) (peer : PeerCaps) :
    ((s.mismatch k peer).link k).train = .fenced ∧ ((s.mismatch k peer).link k).fencedByMismatch = true
    ∧ bit ((s.mismatch k peer).rd (Reg.portErr k.port.val)) 8 = true := by
  refine ⟨?_, ?_, raisePort_sets _ k (by decide)⟩ <;>
    rw [State.mismatch, link_raisePort, link_enter, link_modLink_same]

theorem refuseTraining_moves {n : Nat} : LinkMoves [k] (sessionRegs k.port) s (s.refuseTraining k n) :=
  toDisabled_moves.trans (raisePort_linkMoves (portErr_session _))

theorem refuseTraining_refuses (s : State) (k : LinkId) {n : Nat} (lt : n < 32) :
    ((s.refuseTraining k n).link k).train = .disabled ∧ bit ((s.refuseTraining k n).rd (Reg.portErr k.port.val)) n = true := by
  refine ⟨?_, raisePort_sets _ k lt⟩
  rw [State.refuseTraining, link_raisePort]
  exact (link_toDisabled s k).1

/-- What a version that both sides speak leads to: a refusal, a fence, or the next state at the widest width that fits. -/
def State.decideVersion (s : State) (k : LinkId) (peer : PeerCaps) (v09 : Bool) : State :=
  let cfg := (s.link k).cfg
  if v09 && (!bit cfg 26 || bit cfg 3) then s.refuseTraining k 5
  else if peer.kind.toNat != bits cfg.toNat 5 4 then s.refuseTraining k 6
  else if peer.partition != cfg.extractLsb' 16 6 then s.mismatch k peer
  else if !(!v09 && peer.encSupport) && (bit cfg 25 || peer.encRequired) then s.refuseTraining k 10
  else match usableWidth cfg (s.link k).lanes with
    | none => s
    | some w => if v09 then (s.settleVersion k v09 peer w).enterConfig k else (s.settleVersion k v09 peer w).enter k .eqFull

section Version

variable {peer : PeerCaps} (here : (s.link k).train = .version)
include here

theorem exec_versionDecide_none (none : commonVersion peer = none) :
    exec (.versionDecide k peer) s = .next (s.refuseTraining k 5) := by
  change execVersionDecide k peer s = _
  unfold execVersionDecide
  simp [here, none]

theorem exec_versionDecide_some {v09 : Bool} (both : commonVersion peer = some v09) :
    exec (.versionDecide k peer) s = .next (s.decideVersion k peer v09) := by
  change execVersionDecide k peer s = _
  unfold execVersionDecide State.decideVersion
  rw [both]
  dsimp only
  rw [if_neg (by simp [here])]
  cases usableWidth (s.link k).cfg (s.link k).lanes with
  | none => simp only [apply_ite Host.Outcome.next, State.mismatch]
  | some w =>
    simp only [apply_ite Host.Outcome.next, State.mismatch, State.settleVersion, decide_eq_true_eq]
    rfl

end Version

theorem decideVersion_moves {peer : PeerCaps} {v09 : Bool} : LinkMoves [k] (sessionRegs k.port) s (s.decideVersion k peer v09) := by
  unfold State.decideVersion
  dsimp only
  split
  · exact refuseTraining_moves
  split
  · exact refuseTraining_moves
  split
  · exact mismatch_moves
  split
  · exact refuseTraining_moves
  split
  · exact LinkMoves.refl s
  · next w _ =>
    have settled : LinkMoves [k] (sessionRegs k.port) s (s.settleVersion k v09 peer w) := settleVersion_moves (portErr_session _)
    split
    · exact settled.trans (enterConfig_moves (portErr_session _))
    · exact settled.trans (LinkMoves.enter (List.mem_singleton_self k))

section Peer

variable {peer : PeerCaps} (kind : peer.kind.toNat = bits (s.link k).cfg.toNat 5 4)

theorem decideVersion_kind (other : peer.kind.toNat ≠ bits (s.link k).cfg.toNat 5 4) :
    s.decideVersion k peer false = s.refuseTraining k 6 := by
  simp [State.decideVersion, other]

include kind

theorem decideVersion_partition (other : peer.partition ≠ (s.link k).cfg.extractLsb' 16 6) :
    s.decideVersion k peer false = s.mismatch k peer := by
  simp [State.decideVersion, kind, other]

variable (part : peer.partition = (s.link k).cfg.extractLsb' 16 6)
include part

theorem decideVersion_encryption (clear : peer.encSupport = false) (demanded : ¬ (bit (s.link k).cfg 25 = false ∧ peer.encRequired = false)) :
    s.decideVersion k peer false = s.refuseTraining k 10 := by
  rw [not_and_or, Bool.not_eq_false, Bool.not_eq_false] at demanded
  simp [State.decideVersion, kind, part, clear, demanded]

theorem decideVersion_fits {w : Nat} (fits : usableWidth (s.link k).cfg (s.link k).lanes = some w)
    (free : peer.encSupport = true ∨ bit (s.link k).cfg 25 = false ∧ peer.encRequired = false) :
    s.decideVersion k peer false = (s.settleVersion k false peer w).enter k .eqFull := by
  rcases free with support | ⟨own, theirs⟩
  · simp [State.decideVersion, kind, part, fits, support]
  · simp [State.decideVersion, kind, part, fits, own, theirs]

theorem decideVersion_fits09 {w : Nat} (fits : usableWidth (s.link k).cfg (s.link k).lanes = some w)
    (allowed : bit (s.link k).cfg 26 = true) (whole : bit (s.link k).cfg 3 = false)
    (free : bit (s.link k).cfg 25 = false ∧ peer.encRequired = false) :
    s.decideVersion k peer true = (s.settleVersion k true peer w).enterConfig k := by
  obtain ⟨own, theirs⟩ := free
  simp [State.decideVersion, kind, part, fits, allowed, whole, own, theirs]

end Peer

theorem Link.versioned_configured (x : Link) (peer : PeerCaps) (w n : Nat) (adv : Vector Nat 8) :
    let y := { x.versioned true peer w with train := .config, enteredAt := n }.configured adv
    y.train = .config ∧ y.v09 = true ∧ y.encrypted = false := ⟨rfl, rfl, rfl⟩

theorem versionDecide_decides (k : LinkId) (peer : PeerCaps) (s : State) (here : (s.link k).train = .version) :
    let x := s.link k
    let cfg := x.cfg
    let okKind := peer.kind.toNat = bits cfg.toNat 5 4
    let okPart := peer.partition = cfg.extractLsb' 16 6
    let free := bit cfg 25 = false ∧ peer.encRequired = false
    ∃ t, exec (.versionDecide k peer) s = .next t ∧ LinkEffect [k] (sessionRegs k.port) s t
    ∧ (∀ w, commonVersion peer = some false → okKind → okPart → (peer.encSupport = true ∨ free) →
        usableWidth cfg x.lanes = some w →
        t.link k = { x with v09 := false, encrypted := peer.encSupport, fecLL := bit cfg 24 && peer.fecLL, peer := some peer,
                            width := BitVec.ofNat 2 w, degraded := decide (w < cfgWidth cfg), train := .eqFull,
                            enteredAt := s.bell.ticks }
        ∧ (w < cfgWidth cfg → bit (t.rd (Reg.portErr k.port.val)) 9 = true))
    ∧ (∀ w, commonVersion peer = some true → bit cfg 26 = true → bit cfg 3 = false → okKind → okPart → free →
        usableWidth cfg x.lanes = some w → (t.link k).train = .config ∧ (t.link k).v09 = true ∧ (t.link k).encrypted = false)
    ∧ (commonVersion peer = none → (t.link k).train = .disabled ∧ bit (t.rd (Reg.portErr k.port.val)) 5 = true)
    ∧ (commonVersion peer = some false → ¬ okKind →
        (t.link k).train = .disabled ∧ bit (t.rd (Reg.portErr k.port.val)) 6 = true)
    ∧ (commonVersion peer = some false → okKind → ¬ okPart → (t.link k).train = .fenced ∧ (t.link k).fencedByMismatch = true
        ∧ bit (t.rd (Reg.portErr k.port.val)) 8 = true)
    ∧ (commonVersion peer = some false → okKind → okPart → peer.encSupport = false → ¬ free →
        (t.link k).train = .disabled ∧ bit (t.rd (Reg.portErr k.port.val)) 10 = true) := by
  intro x cfg okKind okPart free
  cases speaks : commonVersion peer with
  | none =>
    refine ⟨_, exec_versionDecide_none here speaks, refuseTraining_moves.effect, nofun, nofun, fun _ => ?_, nofun, nofun, nofun⟩
    exact refuseTraining_refuses s k (by decide)
  | some v09 =>
    refine ⟨_, exec_versionDecide_some here speaks, decideVersion_moves.effect, fun w v kind part enc fits => ?_,
      fun w v allowed whole kind part enc fits => ?_, nofun, fun v kind => ?_, fun v kind part => ?_, fun v kind part clear enc => ?_⟩ <;>
      obtain rfl := Option.some.inj v
    · obtain ⟨link, bell⟩ := link_settleVersion s k false peer w
      rw [decideVersion_fits kind part fits enc, link_enter, link, bell]
      exact ⟨rfl, settleVersion_degraded⟩
    · obtain ⟨adv, link⟩ := link_enterConfig (s.settleVersion k true peer w) k
      rw [decideVersion_fits09 kind part fits allowed whole enc, link, (link_settleVersion s k true peer w).1]
      exact Link.versioned_configured ..
    · rw [decideVersion_kind kind]
      exact refuseTraining_refuses s k (by decide)
    · rw [decideVersion_partition kind part]
      exact link_mismatch s k peer
    · rw [decideVersion_encryption kind part clear enc]
      exact refuseTraining_refuses s k (by decide)

/-! EQ_FULL_DONE (R98). -/

/-- The registers in which a link reports the preset and the signal-to-noise ratio of its lanes. -/
def presetRegs (p : Nat) : List Nat := (List.range 4).flatMap (fun j => [Reg.laneTxPreset p j, Reg.laneSnr p j])

/-- The lanes of a port that a link takes up: both halves share them (R93). -/
def Link.ownLanes (x : Link) (k : LinkId) : List Nat := if bit x.cfg 3 then (if k.val % 2 == 1 then [2, 3] else [0, 1]) else [0, 1, 2, 3]

/-- What is reported of one lane. -/
def State.reportLane (p : Nat) (preset : BitVec 16) (s : State) (j : Nat) : State :=
  (s.draw.2.wr (Reg.laneTxPreset p j) ((preset.extractLsb' (4 * j) 4).setWidth 32)).wr (Reg.laneSnr p j)
    ((s.draw.1.extractLsb' 0 16).setWidth 32)

theorem exec_eqFullDone {preset : BitVec 16} (here : (s.link k).train = .eqFull) : exec (.eqFullDone k preset) s = .next (
    let t := ((s.link k).ownLanes k).foldl (State.reportLane k.port.val preset) s
    if (s.link k).encrypted then t.enterSecure k else t.enterConfig k) := by
  change execEqFullDone k preset s = _
  exact if_neg (by simp [here])

theorem ownLanes_lt {x : Link} {j : Nat} (mem : j ∈ x.ownLanes k) : j < 4 := by
  unfold Link.ownLanes at mem
  split at mem
  · split at mem <;> simp at mem <;> omega
  · simp at mem
    omega

theorem reportLane_moves {n : Nat} {preset : BitVec 16} {j : Nat} (lt : j < 4) (sub : presetRegs n ⊆ l) :
    LinkMoves ls l s (s.reportLane n preset j) := by
  have own : Reg.laneTxPreset n j ∈ presetRegs n ∧ Reg.laneSnr n j ∈ presetRegs n := by
    constructor <;> exact List.mem_flatMap.2 ⟨j, List.mem_range.2 lt, by simp⟩
  have drawn : LinkMoves ls l s s.draw.2 := LinkMoves.withFree
  exact (drawn.trans (wr_linkMoves (sub own.1))).trans (wr_linkMoves (sub own.2))

theorem reportLanes_moves (x : Link) (preset : BitVec 16) (sub : presetRegs k.port.val ⊆ l) (s : State) :
    LinkMoves [k] l s ((x.ownLanes k).foldl (State.reportLane k.port.val preset) s) :=
  LinkMoves.foldl _ (fun _ _ m => reportLane_moves (ownLanes_lt m) sub) s

/-- The preset of lane `j` is bits [4j + 3 : 4j] of the operand. -/
theorem reportLanes_preset (n : Nat) (preset : BitVec 16) {js : List Nat} {j : Nat} (mem : j ∈ js) (s : State) :
    ((js.foldl (State.reportLane n preset) s).rd (Reg.laneTxPreset n j)).toNat = preset.toNat / 16 ^ j % 16 := by
  have stored : (js.foldl (State.reportLane n preset) s).rd (Reg.laneTxPreset n j) = (preset.extractLsb' (4 * j) 4).setWidth 32 := by
    have apart (i : Nat) : Reg.laneTxPreset n j ≠ Reg.laneSnr n i := by simp only [Reg.laneTxPreset, Reg.laneSnr]; omega
    refine foldl_settles (φ := fun u => u.rd (Reg.laneTxPreset n j)) mem (fun u => ?_) (fun u i kept => ?_) s
    · rw [State.reportLane, State.rd_wr_other _ _ (apart j), State.rd_wr_same]
    · rw [State.reportLane, State.rd_wr_other _ _ (apart i)]
      by_cases same : j = i
      · rw [same, State.rd_wr_same]
      · rw [State.rd_wr_other _ _ (by simp only [Reg.laneTxPreset]; omega)]
        exact kept
  have power : (16 : Nat) ^ j = 2 ^ (4 * j) := by rw [pow_mul]; norm_num
  rw [stored, BitVec.toNat_setWidth, BitVec.extractLsb'_toNat, Nat.shiftRight_eq_div_pow, power]
  omega

theorem eqFullDone_trains (k : LinkId) (preset : BitVec 16) (s : State) (here : (s.link k).train = .eqFull) :
    ∃ t, exec (.eqFullDone k preset) s = .next t
    ∧ ((s.link k).encrypted = true → (t.link k).train = .secure) ∧ ((s.link k).encrypted = false → (t.link k).train = .config)
    ∧ (bit (s.link k).cfg 3 = false → ∀ j < 4, (t.rd (Reg.laneTxPreset k.port.val j)).toNat = preset.toNat / 16 ^ j % 16)
    ∧ LinkEffect [k] (recordRegs (Reg.portErr k.port.val)
        ++ (List.range 4).flatMap (fun j => [Reg.laneTxPreset k.port.val j, Reg.laneSnr k.port.val j])) s t := by
  generalize reported : ((s.link k).ownLanes k).foldl (State.reportLane k.port.val preset) s = u
  have before : LinkMoves [k] (recordRegs (Reg.portErr k.port.val) ++ presetRegs k.port.val) s u :=
    reported ▸ reportLanes_moves _ _ (List.subset_append_right _ _) s
  have presets : bit (s.link k).cfg 3 = false → ∀ j < 4, (u.rd (Reg.laneTxPreset k.port.val j)).toNat = preset.toNat / 16 ^ j % 16 := by
    intro whole j lt
    rw [← reported]
    exact reportLanes_preset _ _ (by simp [Link.ownLanes, whole]; omega) s
  have kept {t : State} (after : LinkMoves [k] (recordRegs (Reg.portErr k.port.val)) u t) (j : Nat) (lt : j < 4) :
      t.rd (Reg.laneTxPreset k.port.val j) = u.rd (Reg.laneTxPreset k.port.val j) := by
    have := k.port.isLt
    refine after.rd ?_ (by simp only [Reg.laneTxPreset]; omega)
    simp only [recordRegs, List.mem_cons, List.not_mem_nil, or_false, Reg.laneTxPreset, Reg.portErr]
    omega
  refine ⟨_, exec_eqFullDone here, ?_⟩
  dsimp only
  rw [reported]
  cases (s.link k).encrypted with
  | true =>
    rw [if_pos rfl]
    refine ⟨fun _ => train_enterSecure u k, nofun, fun whole j lt => ?_, (before.trans enterSecure_moves).effect⟩
    rw [kept enterSecure_moves j lt]
    exact presets whole j lt
  | false =>
    rw [if_neg (by decide)]
    refine ⟨nofun, fun _ => train_enterConfig u k, fun whole j lt => ?_,
      (before.trans (enterConfig_moves (List.subset_append_left _ _))).effect⟩
    rw [kept (enterConfig_moves (List.Subset.refl _)) j lt]
    exact presets whole j lt

/-! CONFIG_DONE (R98, R107, R114). -/

theorem configDone_trains (k : LinkId) (credits : List (BitVec 16)) (s : State) (here : (s.link k).train = .config)
    (plain : (s.link k).looped = false) :
    ∃ t, exec (.configDone k credits) s = .next t ∧ (t.link k).train = .active ∧ (t.link k).aliveAt = s.bell.ticks
    ∧ (∀ c : Cls, (t.link k).credits[c.val] = (credits.getD c.val 0).toNat)
    ∧ (∀ l', l' ≠ k → t.link l' = s.link l') ∧ t = (s.withLinks t.links).withRoll { s.roll with sessions := t.roll.sessions }
    ∧ t.roll.sessions.get 0 k.port.val = s.roll.sessions.get 0 k.port.val % 255 + 1 := by
  have run : exec (.configDone k credits) s = .next (((s.modLink k (fun x =>
      { x with credits := (Vector.range 8).map (fun i => (credits.getD i 0).toNat), aliveAt := s.bell.ticks })).enter k .active).newSession k.port) := by
    change execConfigDone k credits s = _
    unfold execConfigDone
    simp [here, plain]
  obtain ⟨link, others, rest⟩ := relinked_modLink_enter s k (fun x =>
      { x with credits := (Vector.range 8).map (fun i => (credits.getD i 0).toNat), aliveAt := s.bell.ticks }) .active
  generalize (s.modLink k _).enter k .active = u at run link others rest
  refine ⟨_, run, ?_⟩
  have same : ∀ j, (u.newSession k.port).link j = u.link j := fun _ => rfl
  simp only [same]
  refine ⟨by rw [link], by rw [link], fun c => by simp [link], others, ?_, ?_⟩
  · rw [rest]
    rfl
  · rw [State.newSession, State.withRoll_roll, Tab.get_put_same, rest]
    rfl

/-! TRAIN_TIMEOUT (R98). -/

/-- PORT_TRAIN_FAIL after one more failure: the state that it came from, and the count. -/
def failWord (state : Train) (old : Word) : Word :=
  BitVec.ofNat 32 (state.code.toNat * 2 ^ 28 + min 0xFFFF (old.toNat % 65536 + 1))

theorem failWord_fields (state : Train) (old : Word) :
    (failWord state old).toNat / 2 ^ 28 = state.code.toNat ∧ (failWord state old).toNat % 65536 = min 0xFFFF (old.toNat % 65536 + 1) := by
  have := state.code.isLt
  rw [failWord, BitVec.toNat_ofNat]
  omega

/-- A failure of training is counted and raised. -/
def State.failTraining (s : State) (k : LinkId) : State :=
  (s.wr (Reg.portTrainFail k.port.val) (failWord (s.link k).train (s.rd (Reg.portTrainFail k.port.val)))).raisePort k 1

theorem exec_trainTimeout {n : Nat} (limit : (s.link k).train.limit = some n) (late : (s.link k).enteredAt + n ≤ s.bell.ticks) :
    exec (.trainTimeout k) s = .next ((s.failTraining k).toDetect k) := by
  change execTrainTimeout k s = _
  unfold execTrainTimeout
  dsimp only
  rw [limit]
  exact if_pos late

theorem failTraining_moves : LinkMoves ls (Reg.portTrainFail k.port.val :: sessionRegs k.port) s (s.failTraining k) :=
  (wr_linkMoves (List.mem_cons_self ..)).trans (raisePort_linkMoves (fun _ m => List.mem_cons_of_mem _ (portErr_session _ m)))

theorem rd_failTraining (s : State) (k : LinkId) {off : Nat} (out : off ∉ recordRegs (Reg.portErr k.port.val)) (low : off < 0x800000) :
    (s.failTraining k).rd off =
      (s.wr (Reg.portTrainFail k.port.val) (failWord (s.link k).train (s.rd (Reg.portTrainFail k.port.val)))).rd off :=
  LinkMoves.rd (ls := []) (raisePort_linkMoves (List.Subset.refl _)) out low

/-- The registers of a port before its counters are not those of its error record. -/
theorem portReg_not_portErr {off : Nat} (p : Port) (low : off < Reg.portErr p.val) : off ∉ recordRegs (Reg.portErr p.val) := by
  simp only [recordRegs, List.mem_cons, List.not_mem_nil, or_false]
  omega

theorem trainTimeout_counts (k : LinkId) (n : Nat) (s : State) (limit : (s.link k).train.limit = some n)
    (late : (s.link k).enteredAt + n ≤ s.bell.ticks) (open_ : s.isFenced (bits (s.rd (Reg.portCfg k.port.val)).toNat 21 16) = false) :
    ∃ t, exec (.trainTimeout k) s = .next t ∧ (t.link k).train = .detect ∧ bit (t.rd (Reg.portErr k.port.val)) 1 = true
    ∧ (t.rd (Reg.portTrainFail k.port.val)).toNat / 2 ^ 28 = (s.link k).train.code.toNat
    ∧ (t.rd (Reg.portTrainFail k.port.val)).toNat % 65536 = min 0xFFFF ((s.rd (Reg.portTrainFail k.port.val)).toNat % 65536 + 1)
    ∧ LinkEffect [k] (Reg.portTrainFail k.port.val :: sessionRegs k.port) s t := by
  have := k.port.isLt
  have low : Reg.portTrainFail k.port.val < 0x700000 ∧ Reg.portErr k.port.val < 0x700000 ∧ Reg.portCfg k.port.val < 0x700000 := by
    simp only [Reg.portTrainFail, Reg.portErr, Reg.portCfg]
    omega
  have fail : ((s.failTraining k).toDetect k).rd (Reg.portTrainFail k.port.val)
      = failWord (s.link k).train (s.rd (Reg.portTrainFail k.port.val)) := by
    rw [rd_toDetect _ _ (by simp only [Reg.portTrainFail]; omega) low.1,
      rd_failTraining s k (portReg_not_portErr _ (by simp only [Reg.portTrainFail, Reg.portErr]; omega)) (by omega), State.rd_wr_same]
  have fenced : (s.failTraining k).isFenced (bits ((s.failTraining k).rd (Reg.portCfg k.port.val)).toNat 21 16) = false := by
    have faults : (s.failTraining k).fault = s.fault := (failTraining_moves (ls := [])).fault
    rw [State.isFenced, faults,
      rd_failTraining s k (portReg_not_portErr _ (by simp only [Reg.portCfg, Reg.portErr]; omega)) (by omega),
      State.rd_wr_other _ _ (by simp only [Reg.portCfg, Reg.portTrainFail]; omega)]
    exact open_
  obtain ⟨state, count⟩ := failWord_fields (s.link k).train (s.rd (Reg.portTrainFail k.port.val))
  refine ⟨_, exec_trainTimeout limit late, (link_toDetect _ k fenced).1, ?_, fail ▸ state, fail ▸ count, ?_⟩
  · rw [rd_toDetect _ _ (by simp only [Reg.portErr]; omega) low.2.1]
    exact raisePort_sets _ k (by decide)
  · exact (failTraining_moves.trans (toDetect_moves.mono (List.Subset.refl _) (List.subset_cons_self ..))).effect

/-- Settles O24: each event of training in the state that its rule names. -/
theorem trainingSteps : Obligations.TrainingSteps :=
  ⟨signalDetect_trains, eqLowDone_trains, laneMapDone_trains, versionDecide_decides, eqFullDone_trains, configDone_trains,
    trainTimeout_counts⟩

end Sys2Proof.Machine

/-! ## What a received flit is counted for, and when its link recovers (R102, R112, R117, R121) -/
namespace Sys2Proof.Machine

variable {a b c s t : State} {ls ms : List LinkId} {l m : List Nat} {k : LinkId} {p : Port} {f : Flit}

theorem LinkEffect.trans (h : LinkEffect ls l a b) (g : LinkEffect ls l b c) : LinkEffect ls l a c where
  rest := by
    have e := g.rest
    rw [h.rest] at e
    exact e
  time := ⟨g.time.1.trans h.time.1, g.time.2.trans h.time.2⟩
  link := fun k n => (g.link k n).trans (h.link k n)
  reg := fun off n r => (g.reg off n r).trans (h.reg off n r)

/-! Forward error correction (R102). -/

/-- The registers that count what forward error correction does on a port. -/
def fecRegs (p : Port) : List Nat := [Reg.portFecCorrLo p.val, Reg.portFecCorrHi p.val, Reg.portFecUncorr p.val]
  ++ (List.range 4).flatMap (fun j => [Reg.laneBerLo p.val j, Reg.laneBerHi p.val j])

/-- The count of corrected symbols, and of bits on each lane. -/
def State.countCorrected (s : State) (p : Port) (corrected : Nat) : State :=
  if corrected == 0 then s
  else (List.range 4).foldl (fun s j => s.draw.2.add64 (Reg.laneBerLo p.val j) (s.draw.1.toNat % (10 * corrected + 1)))
    (s.add64 (Reg.portFecCorrLo p.val) corrected)

/-- The counts that a received flit brings: those of its period, of its link and of its port. -/
def State.hear (s : State) (k : LinkId) (corrected n : Nat) : State :=
  (((s.errPeriod k).countCorrected k.port corrected).addReg (Reg.portFecUncorr k.port.val) n).modLink k
    (fun x => { x with uncorr := x.uncorr + n })

theorem fecCount_eq (s : State) (k : LinkId) (corrected n : Nat) : (s.errPeriod k).fecCount k corrected n =
    let u := s.hear k corrected n
    let was := ((((s.errPeriod k).countCorrected k.port corrected).addReg (Reg.portFecUncorr k.port.val) n).link k).uncorr
    if (u.link k).train == .active && was ≤ 16 && 16 < was + n then ((u.raisePort k 12).toRecovery k).recalFailed k.port else u := rfl

theorem corrLo_high (n : Nat) : Reg.portFecCorrLo n + 4 = Reg.portFecCorrHi n := by simp only [Reg.portFecCorrLo, Reg.portFecCorrHi]; omega

theorem laneBer_high (n j : Nat) : Reg.laneBerLo n j + 4 = Reg.laneBerHi n j := by simp only [Reg.laneBerLo, Reg.laneBerHi]; omega

theorem add64_linkMoves {lo n : Nat} (low : lo ∈ l) (high : lo + 4 ∈ l) : LinkMoves ls l s (s.add64 lo n) :=
  (wr_linkMoves low).trans (wr_linkMoves high)

theorem countCorrected_moves {corrected : Nat} : LinkMoves ls (fecRegs p) s (s.countCorrected p corrected) := by
  unfold State.countCorrected
  split
  · exact LinkMoves.refl s
  · refine LinkMoves.trans (add64_linkMoves (by simp [fecRegs]) (by simp [fecRegs, corrLo_high])) (LinkMoves.foldl _ (fun u j m => ?_) _)
    have own : Reg.laneBerLo p.val j ∈ fecRegs p ∧ Reg.laneBerLo p.val j + 4 ∈ fecRegs p := by
      constructor <;> exact List.mem_append_right _ (List.mem_flatMap.2 ⟨j, m, by simp [laneBer_high]⟩)
    exact LinkMoves.trans (LinkMoves.withFree (n := u.free + 1)) (add64_linkMoves own.1 own.2)

theorem hear_moves {corrected n : Nat} : LinkMoves [k] (fecRegs k.port) s (s.hear k corrected n) := by
  have mem := List.mem_singleton_self k
  refine LinkMoves.trans ?_ (LinkMoves.modLink mem)
  refine LinkMoves.trans ?_ (wr_linkMoves (by simp [fecRegs]))
  exact LinkMoves.trans (LinkMoves.modLink mem) countCorrected_moves

/-- A link with the counts of errors that one period brought. -/
def Link.heard (x : Link) (bound n : Nat) : Link :=
  { x with errBound := bound, uncorr := (if x.errBound = bound then x.uncorr else 0) + n,
           tagFails := if x.errBound = bound then x.tagFails else 0 }

theorem link_errPeriod (s : State) (k : LinkId) : (s.errPeriod k).link k = (s.link k).heard s.bell.bounds 0 := by
  rw [State.errPeriod, link_modLink_same, Link.heard]
  by_cases same : (s.link k).errBound = s.bell.bounds
  · simp [same]
    rw [← same]
  · simp [same]

theorem link_countCorrected (s : State) (p : Port) (corrected : Nat) (k : LinkId) : (s.countCorrected p corrected).link k = s.link k :=
  countCorrected_moves.link List.not_mem_nil

/-- What is counted before the codewords of a flit are weighed. -/
theorem link_beforeWeighing (s : State) (k : LinkId) (corrected n : Nat) :
    (((s.errPeriod k).countCorrected k.port corrected).addReg (Reg.portFecUncorr k.port.val) n).link k = (s.link k).heard s.bell.bounds 0 :=
  (link_countCorrected ..).trans (link_errPeriod s k)

theorem link_hear (s : State) (k : LinkId) (corrected n : Nat) : (s.hear k corrected n).link k = (s.link k).heard s.bell.bounds n := by
  rw [State.hear, link_modLink_same, link_beforeWeighing]
  rfl

theorem bell_countCorrected (s : State) (p : Port) (corrected : Nat) : (s.countCorrected p corrected).bell = s.bell := by
  unfold State.countCorrected
  split
  · rfl
  · exact foldl_keeps (φ := State.bell)
      (f := fun s j => s.draw.2.add64 (Reg.laneBerLo p.val j) (s.draw.1.toNat % (10 * corrected + 1))) (fun _ _ => rfl) _ _

@[simp] theorem bell_hear (s : State) (k : LinkId) (corrected n : Nat) : (s.hear k corrected n).bell = s.bell :=
  bell_countCorrected (s.errPeriod k) ..

/-- The count of corrected symbols and that of uncorrectable codewords are apart. -/
theorem rd_countCorrected (s : State) (p : Port) (corrected : Nat) :
    (s.countCorrected p corrected).rd (Reg.portFecUncorr p.val) = s.rd (Reg.portFecUncorr p.val) := by
  have kept : ∀ (u : State) (lo n : Nat), Reg.portFecUncorr p.val ≠ lo → Reg.portFecUncorr p.val ≠ lo + 4 →
      (u.add64 lo n).rd (Reg.portFecUncorr p.val) = u.rd (Reg.portFecUncorr p.val) := fun u lo n first second => by
    rw [State.add64, State.wr64, State.rd_wr_other _ _ second, State.rd_wr_other _ _ first]
  unfold State.countCorrected
  split
  · rfl
  · refine (foldl_keeps (φ := fun u => u.rd (Reg.portFecUncorr p.val)) (fun u j => ?_) _ _).trans
      (kept _ _ _ (by simp only [Reg.portFecUncorr, Reg.portFecCorrLo]; omega) (by simp only [Reg.portFecUncorr, Reg.portFecCorrLo]; omega))
    exact kept _ _ _ (by simp only [Reg.portFecUncorr, Reg.laneBerLo]; omega) (by simp only [Reg.portFecUncorr, Reg.laneBerLo]; omega)

theorem hear_counts (s : State) (k : LinkId) (corrected n : Nat) : Counted (Reg.portFecUncorr k.port.val) n s (s.hear k corrected n) :=
  (counted_addReg _ _ n).before (rd_countCorrected ..)

/-- Up to 16 uncorrectable codewords in a period are counted only. -/
theorem fecCount_counts (s : State) (k : LinkId) {corrected n : Nat} (few : ((s.link k).heard s.bell.bounds n).uncorr ≤ 16 ∨ n = 0) :
    (s.errPeriod k).fecCount k corrected n = s.hear k corrected n := by
  rw [fecCount_eq]
  refine if_neg ?_
  simp only [Bool.and_eq_true, decide_eq_true_eq, not_and, not_lt]
  rw [link_beforeWeighing]
  simp only [Link.heard, Nat.add_zero] at few ⊢
  omega

/-- The seventeenth of a period sends an ACTIVE link to RECOVERY. -/
theorem fecCount_recovers (s : State) (k : LinkId) {corrected n : Nat} (active : (s.link k).train = .active)
    (first : (s.link k).errBound ≠ s.bell.bounds) (many : 16 < n) :
    (s.errPeriod k).fecCount k corrected n = (((s.hear k corrected n).raisePort k 12).toRecovery k).recalFailed k.port := by
  rw [fecCount_eq]
  refine if_pos ?_
  rw [link_beforeWeighing, link_hear]
  simp [Link.heard, first, active, many]

/-! FLIT_RECEIVE in ACTIVE (R110, R117). -/

theorem openFlit_heard (x : Link) (bound n : Nat) (f : Flit) : openFlit (x.heard bound n) f = openFlit x f := rfl

/-- On a link without encryption the check of a flit is CRC-64 (R117). -/
theorem openFlit_clear {x : Link} (clear : x.encrypted = false) :
    openFlit x f = if f.check == crc64 (flitBody f) then some f.payload else none := by
  simp [openFlit, clear]

theorem train_heard (x : Link) (bound n : Nat) : (x.heard bound n).train = x.train := rfl

section Active

variable {corrected : Nat} (active : (s.link k).train = .active)
include active

theorem exec_flitReceive_uncorrectable {n : Nat} (some : n ≠ 0) :
    exec (.flitReceive k f corrected n) s = .next ((s.errPeriod k).fecCount k corrected n) := by
  change execFlitReceive k f corrected n s = _
  unfold execFlitReceive
  simp [active, some]

theorem exec_flitReceive_sound {payload : Bytes} (opens : openFlit (s.link k) f = some payload) (formed : flitMalformed f = false)
    (seq : sequenced (flType f) = true) :
    exec (.flitReceive k f corrected 0) s = .next (((s.hear k corrected 0).takeAck k (flAck f)).rollCall k f payload) := by
  have typed : ¬ (flType f == 6) = true := by
    simp only [sequenced, decide_eq_true_eq] at seq
    simp only [beq_iff_eq]
    omega
  change execFlitReceive k f corrected 0 s = _
  unfold execFlitReceive
  rw [if_neg (by simp [active])]
  dsimp only
  rw [fecCount_counts s k (Or.inr rfl), link_hear, train_heard, active, if_neg (by decide), if_neg typed, openFlit_heard, opens]
  dsimp only
  rw [formed, if_neg Bool.false_ne_true, if_neg (by decide), if_neg (by simp [seq]), if_pos (by decide)]

/-- The arrival of a TIMESTAMP flit is counted before its check (R120); then a flit that fails its check is counted. -/
theorem exec_flitReceive_failing (fails : openFlit (s.link k) f = none) (clear : (s.link k).encrypted = false) :
    ∃ v n, exec (.flitReceive k f corrected 0) s = .next (v.bump (Reg.portCrcErr k.port.val))
    ∧ LinkMoves [k] [] (s.hear k corrected 0) v ∧ v.link k = { (s.link k).heard s.bell.bounds 0 with tsArrived := n } := by
  have bad : (f.check == crc64 (flitBody f)) = false := by simpa [openFlit_clear clear] using fails
  have failing (v : State) (same : (v.link k).encrypted = false) : v.checkFailed k f = v.bump (Reg.portCrcErr k.port.val) := by
    simp [State.checkFailed, same]
  have run (v : State) (same : (v.link k).encrypted = false)
      (counts : v = if flType f == 6 then (s.hear k corrected 0).modLink k (fun x => { x with tsArrived := x.tsArrived + 1 })
        else s.hear k corrected 0) : exec (.flitReceive k f corrected 0) s = .next (v.bump (Reg.portCrcErr k.port.val)) := by
    change execFlitReceive k f corrected 0 s = _
    unfold execFlitReceive
    rw [if_neg (by simp [active])]
    dsimp only
    rw [fecCount_counts s k (Or.inr rfl), link_hear, train_heard, active, if_neg (by decide), ← counts,
      openFlit_clear (x := (s.link k).heard s.bell.bounds 0) clear, bad]
    exact congrArg Host.Outcome.next (failing v same)
  by_cases typed : (flType f == 6) = true
  · exact ⟨_, _, run _ (by rw [link_modLink_same, link_hear]; exact clear) (if_pos typed).symm, LinkMoves.modLink (List.mem_singleton_self k),
      by rw [link_modLink_same, link_hear]⟩
  · exact ⟨_, _, run _ (by rw [link_hear]; exact clear) (if_neg typed).symm, LinkMoves.refl _, link_hear ..⟩

end Active

theorem portReg_not_fec {off : Nat} (p : Port) (lo : Reg.portFecUncorr p.val < off) (hi : off < Reg.laneBerLo p.val 0) : off ∉ fecRegs p := by
  simp only [fecRegs, List.mem_append, List.mem_cons, List.not_mem_nil, or_false, List.mem_flatMap, List.mem_range, not_or, not_exists,
    not_and, Reg.portFecCorrLo, Reg.portFecCorrHi, Reg.portFecUncorr, Reg.laneBerLo, Reg.laneBerHi] at lo hi ⊢
  exact ⟨by omega, fun j _ => by omega⟩

theorem flitReceive_failing (k : LinkId) (f : Flit) (corrected : Nat) (s : State) (active : (s.link k).train = .active)
    (fails : openFlit (s.link k) f = none) (clear : (s.link k).encrypted = false) :
    ∃ t, exec (.flitReceive k f corrected 0) s = .next t
    ∧ (t.rd (Reg.portCrcErr k.port.val)).toNat = min ((s.rd (Reg.portCrcErr k.port.val)).toNat + 1) 0xFFFFFFFF
    ∧ (t.link k).train = .active ∧ (t.link k).rxNext = (s.link k).rxNext ∧ (t.link k).arriving = (s.link k).arriving
    ∧ LinkEffect [k] (Reg.portCrcErr k.port.val :: fecRegs k.port) s t := by
  obtain ⟨v, n, run, moves, link⟩ := exec_flitReceive_failing (corrected := corrected) active fails clear
  have before : LinkMoves [k] (fecRegs k.port) s v := hear_moves.trans (moves.mono (List.Subset.refl _) (List.nil_subset _))
  refine ⟨_, run, ?_, ?_, ?_, ?_, ?_⟩
  · refine (counted_bump v _).before (before.rd ?_ ?_)
    · exact portReg_not_fec _ (by simp only [Reg.portFecUncorr, Reg.portCrcErr]; omega) (by simp only [Reg.laneBerLo, Reg.portCrcErr]; omega)
    · simp only [Reg.portCrcErr]
      omega
  · rw [link_bump, link]
    exact active
  · rw [link_bump, link]
    rfl
  · rw [link_bump, link]
    rfl
  · exact ((before.mono (List.Subset.refl _) (List.subset_cons_self ..)).trans (bump_linkMoves (List.mem_cons_self ..))).effect

/-! More than 16 uncorrectable codewords (R102, R549). -/

theorem recalFailed_effect : LinkEffect ls l s (s.recalFailed p) := ⟨rfl, ⟨rfl, rfl⟩, fun _ _ => rfl, fun _ _ _ => rfl⟩

theorem portReg_not_recovery {off : Nat} (p : Port) (lo : 0x400000 ≤ off) (hi : off < 0x700000) (out : off ∉ recordRegs (Reg.portErr p.val)) :
    off ∉ sessionRegs p := by
  simp only [sessionRegs, recordRegs, List.mem_append, List.mem_cons, List.not_mem_nil, or_false, not_or, Reg.swErr,
    Reg.swErrCapture, Reg.swPartialDrop, Reg.bellErr] at out ⊢
  omega

/-- A link that goes to RECOVERY for a reason that its port's record names. -/
theorem recovers_moves {n : Nat} (mem : k ∈ ls) : LinkMoves ls (sessionRegs k.port) s ((s.raisePort k n).toRecovery k) :=
  (raisePort_linkMoves (portErr_session _)).trans (toRecovery_linkMoves mem (bellErr_session _))

theorem recovers_raises (s : State) (k : LinkId) {n : Nat} (lt : n < 32) :
    bit (((s.raisePort k n).toRecovery k).rd (Reg.portErr k.port.val)) n = true := by
  rw [State.toRecovery, rd_portErr_timeLinkCheck]
  exact raisePort_sets s k lt

theorem link_recovers (s : State) (k : LinkId) (n : Nat) :
    ((s.raisePort k n).toRecovery k).link k = { s.link k with train := .recovery, enteredAt := s.bell.ticks } := by
  rw [link_toRecovery, link_raisePort, bell_raisePort]

theorem flitReceive_uncorrectable (k : LinkId) (f : Flit) (corrected n : Nat) (s : State) (active : (s.link k).train = .active)
    (first : (s.link k).errBound ≠ s.bell.bounds) (some : n ≠ 0) :
    ∃ t, exec (.flitReceive k f corrected n) s = .next t
    ∧ (t.rd (Reg.portFecUncorr k.port.val)).toNat = min ((s.rd (Reg.portFecUncorr k.port.val)).toNat + n) 0xFFFFFFFF
    ∧ (16 < n → (t.link k).train = .recovery ∧ bit (t.rd (Reg.portErr k.port.val)) 12 = true)
    ∧ (n ≤ 16 → (t.link k).train = .active) ∧ (t.link k).rxNext = (s.link k).rxNext ∧ (t.link k).arriving = (s.link k).arriving
    ∧ LinkEffect [k] (fecRegs k.port ++ sessionRegs k.port) s t := by
  have counts := hear_counts s k corrected n
  have heard : LinkMoves [k] (fecRegs k.port ++ sessionRegs k.port) s (s.hear k corrected n) :=
    hear_moves.mono (List.Subset.refl _) (List.subset_append_left _ _)
  refine ⟨_, exec_flitReceive_uncorrectable active some, ?_⟩
  by_cases many : 16 < n
  · have out : Reg.portFecUncorr k.port.val ∉ sessionRegs k.port := by
      refine portReg_not_recovery _ ?_ ?_ (portReg_not_portErr _ ?_) <;> simp only [Reg.portFecUncorr, Reg.portErr] <;> omega
    have recovers : LinkMoves [k] (sessionRegs k.port) (s.hear k corrected n) (((s.hear k corrected n).raisePort k 12).toRecovery k) :=
      recovers_moves (List.mem_singleton_self k)
    have same : ∀ u : State, (u.recalFailed k.port).link k = u.link k := fun _ => rfl
    rw [fecCount_recovers s k active first many]
    refine ⟨counts.of_rd (recovers.rd out (by simp only [Reg.portFecUncorr]; omega)), fun _ => ⟨?_, recovers_raises _ k (by decide)⟩,
      fun few => absurd many (by omega), ?_, ?_, ?_⟩
    · rw [same, link_recovers]
    · rw [same, link_recovers, link_hear]
      rfl
    · rw [same, link_recovers, link_hear]
      rfl
    · exact (heard.trans (recovers.mono (List.Subset.refl _) (List.subset_append_right _ _))).effect.trans recalFailed_effect
  · have few : ((s.link k).heard s.bell.bounds n).uncorr ≤ 16 := by
      simp only [Link.heard, first, if_false]
      omega
    rw [fecCount_counts s k (Or.inl few)]
    exact ⟨counts, fun e => absurd e many, fun _ => by rw [link_hear]; exact active, by rw [link_hear]; rfl, by rw [link_hear]; rfl, heard.effect⟩

/-! REPLAY_REQ (R110, R111). -/

/-- The link with a REPLAY_REQ for its expected count queued. -/
def Link.requesting (x : Link) : Link := { x with ctlOut := x.ctlOut ++ [⟨5, leBytes 2 (x.rxNext % 65536)⟩] }

/-- The link in replay wait, its first request made. -/
def Link.asking (x : Link) (now : Nat) : Link := { x with waiting := true, reqs := 1, waitTick := now }

theorem sendReplayReq_eq (s : State) (k : LinkId) : s.sendReplayReq k = s.modLink k Link.requesting := rfl

theorem sendReplayReq_moves (mem : k ∈ ls) : LinkMoves ls l s (s.sendReplayReq k) := by
  rw [sendReplayReq_eq]
  exact LinkMoves.modLink mem

/-! Replay, silence and RECOVERY (R111, R112, R114, R115). -/

theorem replayReqReceive_acts (k : LinkId) (n : BitVec 16) (s : State) : let x := s.link k
    let d := (n.toNat + 65536 - x.replayBase % 65536) % 65536
    x.train = .active → x.reqIn = some n → x.replayPos = none →
    ∃ t, exec (.replayReqReceive k) s = .next t ∧ (t.link k).reqIn = none
    ∧ (d < x.replay.length → (t.link k).replayPos = some (x.replayBase + d) ∧ (t.link k).train = .active
        ∧ (t.rd (Reg.portReplay k.port.val)).toNat = min ((s.rd (Reg.portReplay k.port.val)).toNat + 1) 0xFFFFFFFF)
    ∧ (x.replay.length < d → (t.link k).train = .recovery ∧ bit (t.rd (Reg.portErr k.port.val)) 3 = true)
    ∧ (t.link k).replay = x.replay ∧ LinkEffect [k] (Reg.portReplay k.port.val :: sessionRegs k.port) s t := by
  intro x d active asked idle
  have mem := List.mem_singleton_self k
  generalize taken : s.modLink k (fun x => { x with reqIn := none }) = u
  have link : u.link k = { x with reqIn := none } := by rw [← taken, link_modLink_same]
  have moves : LinkMoves [k] (Reg.portReplay k.port.val :: sessionRegs k.port) s u := taken ▸ LinkMoves.modLink mem
  have run : exec (.replayReqReceive k) s = if d ≤ x.replay.length then
        (if d == x.replay.length then .next u
         else .next ((u.modLink k (fun y => { y with replayPos := some (x.replayBase + d) })).bump (Reg.portReplay k.port.val)))
      else .next ((u.raisePort k 3).toRecovery k) := by
    change execReplayReqReceive k s = _
    unfold execReplayReqReceive
    simp [x, d, asked, active, idle, taken]
  rw [run]
  rcases Nat.lt_trichotomy d x.replay.length with inside | next | beyond
  · rw [if_pos (Nat.le_of_lt inside), if_neg (by simp; omega)]
    refine ⟨_, rfl, ?_, fun _ => ⟨?_, ?_, ?_⟩, fun e => absurd e (by omega), ?_, ?_⟩
    · rw [link_bump, link_modLink_same, link]
    · rw [link_bump, link_modLink_same]
    · rw [link_bump, link_modLink_same, link]
      exact active
    · exact (counted_bump _ _).before (by rw [rd_modLink, ← taken, rd_modLink])
    · rw [link_bump, link_modLink_same, link]
    · exact (moves.trans ((LinkMoves.modLink mem).trans (bump_linkMoves (List.mem_cons_self ..)))).effect
  · rw [if_pos (Nat.le_of_eq next), if_pos (by simp [next])]
    exact ⟨_, rfl, by rw [link], fun e => absurd e (by omega), fun e => absurd e (by omega), by rw [link], moves.effect⟩
  · rw [if_neg (by omega)]
    refine ⟨_, rfl, ?_, fun e => absurd e (by omega), fun _ => ⟨?_, recovers_raises u k (by decide)⟩, ?_, ?_⟩
    · rw [link_recovers, link]
    · rw [link_recovers]
    · rw [link_recovers, link]
    · exact (moves.trans ((recovers_moves mem).mono (List.Subset.refl _) (List.subset_cons_self ..))).effect

theorem replayWaitRetry_acts (k : LinkId) (s : State) : let x := s.link k
    x.train = .active → x.waiting = true → x.waitTick + 125 ≤ s.bell.ticks →
    ∃ t, exec (.replayWaitRetry k) s = .next t ∧ LinkEffect [k] (sessionRegs k.port) s t
    ∧ (x.reqs < 4 → t.link k = { x with reqs := x.reqs + 1, waitTick := s.bell.ticks,
                                        ctlOut := x.ctlOut ++ [⟨5, leBytes 2 (x.rxNext % 65536)⟩] })
    ∧ (4 ≤ x.reqs → t.link k = { x with train := .recovery, enteredAt := s.bell.ticks }
        ∧ bit (t.rd (Reg.portErr k.port.val)) 3 = true) := by
  intro x active waits late
  have mem := List.mem_singleton_self k
  have run : exec (.replayWaitRetry k) s = if 4 ≤ x.reqs then .next ((s.raisePort k 3).toRecovery k)
      else .next ((s.modLink k (fun y => { y with reqs := y.reqs + 1, waitTick := s.bell.ticks })).sendReplayReq k) := by
    change execReplayWaitRetry k s = _
    unfold execReplayWaitRetry
    simp [x, active, waits, late]
  rw [run]
  by_cases last : 4 ≤ x.reqs
  · rw [if_pos last]
    exact ⟨_, rfl, (recovers_moves mem).effect, fun e => absurd e (by omega), fun _ => ⟨link_recovers .., recovers_raises s k (by decide)⟩⟩
  · rw [if_neg last]
    refine ⟨_, rfl, ((LinkMoves.modLink mem).trans (sendReplayReq_moves mem)).effect, fun _ => ?_, fun e => absurd e last⟩
    rw [link_sendReplayReq, link_modLink_same]

theorem peerDead_detects (k : LinkId) (s : State) : let x := s.link k
    (x.train = .active ∨ x.train = .recovery) → x.aliveAt + 2048 ≤ s.bell.ticks →
    s.isFenced (bits (s.rd (Reg.portCfg k.port.val)).toNat 21 16) = false →
    ∃ t, exec (.peerDead k) s = .next t ∧ (t.link k).train = .detect ∧ (t.link k).arriving = [] ∧ (t.link k).replay = []
    ∧ bit (t.rd (Reg.portErr k.port.val)) 2 = true ∧ LinkEffect [k] (sessionRegs k.port) s t := by
  intro x up silent open_
  have run : exec (.peerDead k) s = .next (((s.raisePort k 2).toDetect k).timeLinkCheck) := by
    change execPeerDead k s = _
    unfold execPeerDead
    exact if_pos (by simpa [x] using ⟨up, silent⟩)
  have raised : LinkMoves [k] (sessionRegs k.port) s (s.raisePort k 2) := raisePort_linkMoves (portErr_session _)
  have detects := link_toDetect_ended (s.raisePort k 2) k (by
    rw [raised.rd_portCfg k.port.isLt, State.isFenced, raised.fault]
    exact open_)
  refine ⟨_, run, ?_, ?_, ?_, ?_, ?_⟩
  · rw [link_timeLinkCheck, detects]
  · rw [link_timeLinkCheck, detects]
    rfl
  · rw [link_timeLinkCheck, detects]
    rfl
  · rw [rd_portErr_timeLinkCheck, rd_toDetect _ _ (by simp only [Reg.portErr]; omega) (by simp only [Reg.portErr]; omega)]
    exact raisePort_sets s k (by decide)
  · exact ((raised.trans toDetect_moves).trans ((timeLinkCheck_linkMoves (bellErr_session _)))).effect

theorem recoveryDone_asks (k : LinkId) (s : State) (here : (s.link k).train = .recovery) : let x := s.link k
    ∃ t, exec (.recoveryDone k) s = .next t
    ∧ Relinked s t k { x with train := .active, enteredAt := s.bell.ticks, waiting := true, reqs := 1, waitTick := s.bell.ticks,
                              ctlOut := x.ctlOut ++ [⟨5, leBytes 2 (x.rxNext % 65536)⟩] } := by
  have asked := relinked_modLink_modLink (s.enter k .active) k (fun x => x.asking s.bell.ticks) Link.requesting
  rw [link_enter] at asked
  exact ⟨_, if_pos (by simp [here]), (relinked_enter s k .active).trans asked⟩

end Sys2Proof.Machine

/-! ## What a link in session does with a sequenced flit (R106, R108, R110, R122) -/
namespace Sys2Proof.Machine

variable {a b c s t : State} {ls : List LinkId} {l : List Nat} {k : LinkId} {p : Port} {f : Flit} {payload : Bytes}

/-! Acceptance in three parts: the count and its credits, the key it may retire, the content. -/

/-- A link with a flit accepted: its expected count, its credits and the count under the next key. -/
def Link.accepted (x : Link) (f : Flit) (now : Nat) (next : Bool) : Link :=
  let credits := if h : flCrClass f < 8 then x.credits.set (flCrClass f) (x.credits[flCrClass f] + flCrCount f) else x.credits
  { x with rxNext := x.rxNext + 1, waiting := false, reqs := 0, waitTick := now, aliveAt := now, credits := credits,
           rxNew := if next then x.rxNew + 1 else x.rxNew }

/-- The key in use gives way to the next one after 512 flits (R122). -/
def State.retireKey (s : State) (k : LinkId) : State :=
  let x := s.link k
  if 512 ≤ x.rxNew && x.nextKey.isSome && (x.txSwitch.any (· ≤ x.txNext)) then
    (s.modLink k (fun x => { x with key := x.nextKey, nextKey := none, phase := 3 - x.phase, rxNew := 0,
                                    keyBase := x.txSwitch.getD x.txNext, txSwitch := none })).bump Reg.secRekeys
  else s

/-- The content of an accepted flit goes where its type says. -/
def State.deliverFlit (s : State) (k : LinkId) (f : Flit) (payload : Bytes) : State :=
  match flType f with
  | 1 => if (s.link k).looped then s.acceptLooped k f payload else s.acceptData k f payload
  | 2 => s.modLink k (fun x => { x with ctlIn := some (field payload 0 8) })
  | 3 => s.takeFragment k (payload.take (flValid f))
  | _ => s

theorem acceptFlit_eq (s : State) (k : LinkId) (f : Flit) (payload : Bytes) : s.acceptFlit k f payload =
    ((s.modLink k (fun x => x.accepted f s.bell.ticks (flPhase f != (s.link k).phase.toNat && (s.link k).encrypted))).retireKey
      k).deliverFlit k f payload := rfl

/-- A credit count of three bits always names a class. -/
theorem flCrClass_lt (f : Flit) : flCrClass f < 8 := by
  unfold flCrClass bits
  exact Nat.mod_lt _ (by decide)

theorem credits_accepted (x : Link) (f : Flit) (now : Nat) (next : Bool) (n : Cls) :
    (x.accepted f now next).credits[n.val] = x.credits[n.val] + (if flCrClass f = n.val then flCrCount f else 0) := by
  have := n.isLt
  simp only [Link.accepted, dif_pos (flCrClass_lt f)]
  rw [Vector.getElem_set]
  by_cases same : flCrClass f = n.val
  · simp [same]
  · simp [same]

/-! What comes after the count leaves it alone. -/

/-- The parts of a link that the content of a flit does not touch. -/
def Link.Settled (x y : Link) : Prop :=
  y.train = x.train ∧ y.cfg = x.cfg ∧ y.looped = x.looped ∧ y.rxNext = x.rxNext ∧ y.waiting = x.waiting ∧ y.aliveAt = x.aliveAt
  ∧ y.credits = x.credits

theorem Link.Settled.trans {x y z : Link} (h : Link.Settled x y) (g : Link.Settled y z) : Link.Settled x z := by
  obtain ⟨htrain, hcfg, hlooped, hnext, hwaiting, halive, hcredits⟩ := h
  obtain ⟨gtrain, gcfg, glooped, gnext, gwaiting, galive, gcredits⟩ := g
  exact ⟨gtrain.trans htrain, gcfg.trans hcfg, glooped.trans hlooped, gnext.trans hnext, gwaiting.trans hwaiting, galive.trans halive,
    gcredits.trans hcredits⟩

/-- The registers that a sequenced flit may write, beside the counts of R102. -/
def flitRegs (p : Port) : List Nat := sessionRegs p ++ [Reg.portDup p.val, Reg.portGap p.val, Reg.portRoleDrop p.val, Reg.secRekeys]

theorem secRekeys_flitRegs (p : Port) : Reg.secRekeys ∈ flitRegs p := List.mem_append_right _ (by simp)

/-- What the content of an accepted flit does. -/
structure Delivers (k : LinkId) (a b : State) : Prop where
  moves : LinkMoves [k] (flitRegs k.port) a b
  settled : Link.Settled (a.link k) (b.link k)

theorem Delivers.refl (s : State) : Delivers k s s := ⟨LinkMoves.refl s, rfl, rfl, rfl, rfl, rfl, rfl, rfl⟩

theorem Delivers.trans (h : Delivers k a b) (g : Delivers k b c) : Delivers k a c :=
  ⟨h.moves.trans g.moves, h.settled.trans g.settled⟩

theorem Delivers.modLink {g : Link → Link} (keeps : ∀ x, Link.Settled x (g x)) : Delivers k s (s.modLink k g) :=
  ⟨LinkMoves.modLink (List.mem_singleton_self k), link_modLink_same s k g ▸ keeps _⟩

/-- A step that moves no link. -/
theorem Delivers.of_moves (h : LinkMoves [] (flitRegs k.port) a b) : Delivers k a b := by
  refine ⟨h.mono (List.nil_subset _) (List.Subset.refl _), ?_⟩
  rw [h.link List.not_mem_nil]
  exact ⟨rfl, rfl, rfl, rfl, rfl, rfl, rfl⟩

theorem roleDrop_delivers : Delivers k s (s.roleDrop k) :=
  Delivers.of_moves ((bump_linkMoves (by simp [flitRegs])).trans
    (raisePort_linkMoves (List.Subset.trans (portErr_session _) (List.subset_append_left _ _))))

theorem losePartial_delivers {x : Arriving} : Delivers k s (s.losePartial x) :=
  Delivers.of_moves ((losePartial_moves (p := k.port)).mono (List.Subset.refl _) (List.subset_append_left _ _))

theorem oweCredit_delivers {n : Cls} {m : Nat} : Delivers k s (s.oweCredit k n m) :=
  Delivers.modLink (fun _ => ⟨rfl, rfl, rfl, rfl, rfl, rfl, rfl⟩)

theorem Delivers.oweCredit {n : Cls} {m : Nat} (h : Delivers k a b) : Delivers k a (b.oweCredit k n m) := h.trans oweCredit_delivers

/-- What arrives on a link may be replaced. -/
theorem Delivers.arriving {g : Link → List Arriving} (h : Delivers k a b) :
    Delivers k a (b.modLink k (fun x => { x with arriving := g x })) :=
  h.trans (Delivers.modLink (fun _ => ⟨rfl, rfl, rfl, rfl, rfl, rfl, rfl⟩))

theorem startData_delivers : Delivers k s (s.startData k f) := by
  have drops (u : State) : Delivers k u (if bits (u.link k).cfg.toNat 5 4 == 2 && flFirst f && (flClass f).val < 4 then u.roleDrop k else u) := by
    split
    · exact roleDrop_delivers
    · exact Delivers.refl u
  unfold State.startData
  dsimp only
  refine Delivers.trans ?_ (drops _)
  split
  · exact losePartial_delivers.arriving
  · exact Delivers.refl s

theorem growFrame_delivers {content : Bytes} {x : Arriving} {lost : Bool} : Delivers k s (s.growFrame k f content x lost) := by
  unfold State.growFrame
  dsimp only
  generalize grown : s.modLink k _ = u
  have held : Delivers k s u := by
    rw [← grown]
    exact (Delivers.refl s).arriving
  split
  · exact held.oweCredit
  · split
    · exact held
    · exact held.trans (Delivers.of_moves LinkMoves.withSw)

theorem acceptData_delivers : Delivers k s (s.acceptData k f payload) := by
  unfold State.acceptData
  dsimp only
  generalize started : s.startData k f = u
  have held : Delivers k s u := started ▸ startData_delivers
  split
  · exact held.oweCredit
  · exact held.trans growFrame_delivers

/-- On a looped link a FIRST flit ends the request frame that is open in its class. -/
def State.endLooped (s : State) (k : LinkId) (f : Flit) : State :=
  match flFirst f, (s.link k).arriving.find? (fun a => a.cls == flClass f && !a.whole) with
  | true, some a => (s.oweCredit k (flClass f) a.flits).modLink k (fun x => { x with arriving := x.arriving.erase a })
  | _, _ => s

theorem endLooped_delivers : Delivers k s (s.endLooped k f) := by
  unfold State.endLooped
  split
  · exact (Delivers.refl s).oweCredit.arriving
  · exact Delivers.refl s

/-- A flit of a looped link goes back, is counted for its buffer, or joins a request frame. -/
theorem acceptLooped_cases (s : State) (k : LinkId) (f : Flit) (payload : Bytes) :
    (∃ e, s.acceptLooped k f payload = s.modLink k (fun x => { x with echo := x.echo ++ [e] }))
    ∨ s.acceptLooped k f payload = (s.endLooped k f).oweCredit k (flClass f) 1
    ∨ ∃ g : Link → List Arriving, s.acceptLooped k f payload = (s.endLooped k f).modLink k (fun x => { x with arriving := g x }) := by
  unfold State.acceptLooped
  dsimp only
  split
  · exact Or.inl ⟨_, rfl⟩
  · split
    · exact Or.inr (Or.inl rfl)
    · exact Or.inr (Or.inr ⟨_, rfl⟩)

theorem acceptLooped_delivers : Delivers k s (s.acceptLooped k f payload) := by
  obtain ⟨e, echoed⟩ | owed | ⟨g, joined⟩ := acceptLooped_cases s k f payload
  · rw [echoed]
    exact Delivers.modLink (fun _ => ⟨rfl, rfl, rfl, rfl, rfl, rfl, rfl⟩)
  · rw [owed]
    exact endLooped_delivers.oweCredit
  · rw [joined]
    exact endLooped_delivers.arriving

theorem takeFragment_delivers {content : Bytes} : Delivers k s (s.takeFragment k content) := by
  unfold State.takeFragment
  dsimp only
  refine iteInduction (motive := Delivers k s) (fun _ => Delivers.refl s) (fun _ => ?_)
  exact Delivers.modLink (fun _ => ⟨rfl, rfl, rfl, rfl, rfl, rfl, rfl⟩)

theorem deliverFlit_delivers : Delivers k s (s.deliverFlit k f payload) := by
  unfold State.deliverFlit
  split
  · split
    · exact acceptLooped_delivers
    · exact acceptData_delivers
  · exact Delivers.modLink (fun _ => ⟨rfl, rfl, rfl, rfl, rfl, rfl, rfl⟩)
  · exact takeFragment_delivers
  · exact Delivers.refl s

theorem retireKey_delivers : Delivers k s (s.retireKey k) := by
  unfold State.retireKey
  dsimp only
  split
  · refine Delivers.trans (Delivers.modLink (fun _ => ?_)) (Delivers.of_moves (bump_linkMoves (secRekeys_flitRegs _)))
    exact ⟨rfl, rfl, rfl, rfl, rfl, rfl, rfl⟩
  · exact Delivers.refl s

/-! A frame that starts is held. -/

/-- The frame that a FIRST flit starts joins those that are arriving, unless the role drops it. -/
theorem acceptData_arriving (first : flFirst f = true) (keeps : bits (s.link k).cfg.toNat 5 4 ≠ 2) :
    ∃ x ∈ ((s.acceptData k f payload).link k).arriving,
      x.cls = flClass f ∧ x.bytes = payload.take (flValid f) ∧ x.whole = flLast f := by
  obtain ⟨-, cfg, -⟩ := (startData_delivers (k := k) (f := f) (s := s)).settled
  have open_ : (bits ((s.startData k f).link k).cfg.toNat 5 4 == 2) = false := by simpa [cfg] using keeps
  unfold State.acceptData
  dsimp only
  rw [if_pos first]
  simp only [open_, State.frameGone, State.growFrame, first, Bool.or_self, if_true, Bool.false_eq_true, if_false, Option.isSome_none,
    Bool.and_false, link_modLink_same, List.mem_append, List.mem_singleton]
  exact ⟨_, Or.inr rfl, rfl, List.nil_append _, rfl⟩

theorem deliverFlit_arriving (data : flType f = 1) (first : flFirst f = true) (own : (s.link k).looped = false)
    (keeps : bits (s.link k).cfg.toNat 5 4 ≠ 2) : ∃ x ∈ ((s.deliverFlit k f payload).link k).arriving,
      x.cls = flClass f ∧ x.bytes = payload.take (flValid f) ∧ x.whole = flLast f := by
  have held : s.deliverFlit k f payload = s.acceptData k f payload := by simp [State.deliverFlit, data, own]
  rw [held]
  exact acceptData_arriving first keeps

/-! The roll call (R110). -/

theorem link_takeAck (s : State) (k : LinkId) (ack : Nat) : ∃ r n q,
    (s.takeAck k ack).link k = { s.link k with replay := r, replayBase := n, replayPos := q } := by
  rw [State.takeAck, link_modLink_same]
  dsimp only
  split
  · exact ⟨_, _, _, rfl⟩
  · exact ⟨_, _, _, rfl⟩

/-- How far a flit is ahead of the expected count, in counts of 16 bits. -/
def Link.ahead (x : Link) (f : Flit) : Nat := (flRoll f + 65536 - x.rxNext % 65536) % 65536

theorem rollCall_next (next : (s.link k).ahead f = 0) : s.rollCall k f payload = s.acceptFlit k f payload := by
  unfold Link.ahead at next
  unfold State.rollCall
  dsimp only
  rw [next]
  rfl

theorem rollCall_earlier (earlier : 32768 ≤ (s.link k).ahead f) : s.rollCall k f payload = s.bump (Reg.portDup k.port.val) := by
  unfold Link.ahead at earlier
  unfold State.rollCall
  dsimp only
  rw [if_neg (by simp only [beq_iff_eq]; omega), if_pos earlier]

theorem rollCall_later (ahead : 0 < (s.link k).ahead f) (near : (s.link k).ahead f < 32768) : s.rollCall k f payload =
    if (s.link k).waiting then s
    else ((s.bump (Reg.portGap k.port.val)).modLink k (fun x => x.asking s.bell.ticks)).sendReplayReq k := by
  unfold Link.ahead at ahead near
  unfold State.rollCall
  dsimp only
  rw [if_neg (by simp only [beq_iff_eq]; omega), if_neg (by omega)]
  rfl

theorem acceptFlit_moves : LinkMoves [k] (flitRegs k.port) s (s.acceptFlit k f payload) := by
  rw [acceptFlit_eq]
  exact (LinkMoves.modLink (List.mem_singleton_self k)).trans (retireKey_delivers.trans deliverFlit_delivers).moves

/-- Whatever its count, a flit leaves the training state alone. -/
theorem rollCall_moves : LinkMoves [k] (flitRegs k.port) s (s.rollCall k f payload)
    ∧ ((s.rollCall k f payload).link k).train = (s.link k).train := by
  rcases Nat.eq_zero_or_pos ((s.link k).ahead f) with next | ahead
  · rw [rollCall_next next]
    refine ⟨acceptFlit_moves, ?_⟩
    rw [acceptFlit_eq]
    obtain ⟨train, -⟩ := ((retireKey_delivers (k := k)).trans (deliverFlit_delivers (f := f) (payload := payload))).settled
    rw [train, link_modLink_same]
    rfl
  · rcases Nat.lt_or_ge ((s.link k).ahead f) 32768 with near | earlier
    · rw [rollCall_later ahead near]
      split
      · exact ⟨LinkMoves.refl s, rfl⟩
      · refine ⟨((bump_linkMoves (by simp [flitRegs])).trans (LinkMoves.modLink (List.mem_singleton_self k))).trans
          (sendReplayReq_moves (List.mem_singleton_self k)), ?_⟩
        rw [link_sendReplayReq, link_modLink_same, link_bump]
        rfl
    · rw [rollCall_earlier earlier]
      exact ⟨bump_linkMoves (by simp [flitRegs]), rfl⟩

/-- An accepted flit advances the count, gives its credits and starts its frame. -/
theorem acceptFlit_accepts (s : State) (k : LinkId) (f : Flit) (payload : Bytes) : let t := s.acceptFlit k f payload
    (t.link k).rxNext = (s.link k).rxNext + 1 ∧ (t.link k).waiting = false ∧ (t.link k).aliveAt = s.bell.ticks
    ∧ (∀ n : Cls, (t.link k).credits[n.val] = (s.link k).credits[n.val] + (if flCrClass f = n.val then flCrCount f else 0))
    ∧ (flType f = 1 → flFirst f = true → (s.link k).looped = false → bits (s.link k).cfg.toNat 5 4 ≠ 2 →
        ∃ x ∈ (t.link k).arriving, x.cls = flClass f ∧ x.bytes = payload.take (flValid f) ∧ x.whole = flLast f) := by
  intro t
  generalize next : (flPhase f != (s.link k).phase.toNat && (s.link k).encrypted) = phase
  generalize counted : s.modLink k (fun x => x.accepted f s.bell.ticks phase) = u
  have accepted : u.link k = (s.link k).accepted f s.bell.ticks phase := by rw [← counted, link_modLink_same]
  have parts : t = (u.retireKey k).deliverFlit k f payload := by rw [← counted, ← next]; rfl
  obtain ⟨-, cfg, looped, -⟩ := (retireKey_delivers (k := k) (s := u)).settled
  obtain ⟨-, -, -, rxNext, waiting, aliveAt, credits⟩ :=
    ((retireKey_delivers (k := k) (s := u)).trans (deliverFlit_delivers (f := f) (payload := payload))).settled
  rw [accepted] at cfg looped rxNext waiting aliveAt credits
  rw [parts]
  refine ⟨rxNext, waiting, aliveAt, fun n => ?_, fun data first own keeps => ?_⟩
  · rw [credits]
    exact credits_accepted ..
  · exact deliverFlit_arriving data first (looped.trans own) (by rw [cfg]; exact keeps)

/-! The flit that passes its check. -/

theorem portDup_not_fec (p : Port) : Reg.portDup p.val ∉ fecRegs p := by
  refine portReg_not_fec p ?_ ?_ <;> simp only [Reg.portFecUncorr, Reg.portDup, Reg.laneBerLo] <;> omega

theorem portGap_not_fec (p : Port) : Reg.portGap p.val ∉ fecRegs p := by
  refine portReg_not_fec p ?_ ?_ <;> simp only [Reg.portFecUncorr, Reg.portGap, Reg.laneBerLo] <;> omega

theorem flitReceive_sound (k : LinkId) (f : Flit) (corrected : Nat) (s : State) (payload : Bytes) : let x := s.link k
    let d := (flRoll f + 65536 - x.rxNext % 65536) % 65536
    x.train = .active → openFlit x f = some payload → flitMalformed f = false → sequenced (flType f) = true →
    ∃ t, exec (.flitReceive k f corrected 0) s = .next t ∧ (t.link k).train = .active
    ∧ LinkEffect [k] (fecRegs k.port ++ sessionRegs k.port
        ++ [Reg.portDup k.port.val, Reg.portGap k.port.val, Reg.portRoleDrop k.port.val, Reg.secRekeys]) s t
    ∧ (d = 0 → (t.link k).rxNext = x.rxNext + 1 ∧ (t.link k).waiting = false ∧ (t.link k).aliveAt = s.bell.ticks
        ∧ (∀ n : Cls, (t.link k).credits[n.val] = x.credits[n.val] + (if flCrClass f = n.val then flCrCount f else 0))
        ∧ (flType f = 1 → flFirst f = true → x.looped = false → bits x.cfg.toNat 5 4 ≠ 2 →
            ∃ y ∈ (t.link k).arriving, y.cls = flClass f ∧ y.bytes = payload.take (flValid f) ∧ y.whole = flLast f))
    ∧ (32768 ≤ d → (t.rd (Reg.portDup k.port.val)).toNat = min ((s.rd (Reg.portDup k.port.val)).toNat + 1) 0xFFFFFFFF
        ∧ (t.link k).rxNext = x.rxNext ∧ (t.link k).arriving = x.arriving)
    ∧ (0 < d → d < 32768 → x.waiting = false →
        (t.rd (Reg.portGap k.port.val)).toNat = min ((s.rd (Reg.portGap k.port.val)).toNat + 1) 0xFFFFFFFF
        ∧ (t.link k).rxNext = x.rxNext ∧ (t.link k).waiting = true ∧ (t.link k).reqs = 1
        ∧ (t.link k).ctlOut = x.ctlOut ++ [⟨5, leBytes 2 (x.rxNext % 65536)⟩]) := by
  intro x d active opens formed seq
  have mem := List.mem_singleton_self k
  generalize heard : (s.hear k corrected 0).takeAck k (flAck f) = u
  obtain ⟨r, n, q, link⟩ : ∃ r n q, u.link k = { x.heard s.bell.bounds 0 with replay := r, replayBase := n, replayPos := q } := by
    rw [← heard, ← link_hear]
    exact link_takeAck ..
  have before : LinkMoves [k] (fecRegs k.port) s u := heard ▸ hear_moves.trans (LinkMoves.modLink mem)
  have ticks : u.bell.ticks = s.bell.ticks := by rw [← heard, State.takeAck, bell_modLink, bell_hear]
  have ahead : (u.link k).ahead f = d := by rw [link]; rfl
  obtain ⟨moves, train⟩ := rollCall_moves (s := u) (k := k) (f := f) (payload := payload)
  refine ⟨u.rollCall k f payload, heard ▸ exec_flitReceive_sound active opens formed seq, ?_, ?_, fun next => ?_, fun earlier => ?_,
    fun later near idle => ?_⟩
  · rw [train, link]
    exact active
  · rw [List.append_assoc]
    exact ((before.mono (List.Subset.refl _) (List.subset_append_left _ _)).trans
      (moves.mono (List.Subset.refl _) (List.subset_append_right _ _))).effect
  · rw [rollCall_next (ahead.trans next)]
    have accepts := acceptFlit_accepts u k f payload
    rw [link, ticks] at accepts
    exact accepts
  · rw [rollCall_earlier (ahead ▸ earlier)]
    refine ⟨(counted_bump u _).before (before.rd (portDup_not_fec _) (by simp only [Reg.portDup]; omega)), ?_, ?_⟩
    · rw [link_bump, link]
      rfl
    · rw [link_bump, link]
      rfl
  · have wait : (u.link k).waiting = false := by rw [link]; exact idle
    rw [rollCall_later (ahead ▸ later) (ahead ▸ near), if_neg (by simp [wait])]
    have asked := link_sendReplayReq ((u.bump (Reg.portGap k.port.val)).modLink k (fun x => x.asking u.bell.ticks)) k
    rw [link_modLink_same, link_bump, link] at asked
    refine ⟨?_, ?_, ?_, ?_, ?_⟩
    · exact ((counted_bump u _).before (before.rd (portGap_not_fec _) (by simp only [Reg.portGap]; omega))).of_rd rfl
    all_goals rw [asked]; rfl

/-- Settles O25: FLIT_RECEIVE in ACTIVE is a count of codewords, an acknowledgement and a roll call; the replay steps are RECOVERY or
an update of the link. -/
theorem flitsAndReplay : Obligations.FlitsAndReplay :=
  ⟨flitReceive_sound, flitReceive_failing, flitReceive_uncorrectable, replayReqReceive_acts, replayWaitRetry_acts, peerDead_detects,
    recoveryDone_asks⟩

end Sys2Proof.Machine

/-! ## The SECURE exchange and rekeying, message by message (R122, R495 to R498, R505, R506) -/
namespace Sys2Proof.Machine

variable {a b s t : State} {ls : List LinkId} {l : List Nat} {k : LinkId} {n : BitVec 8} {m : Bytes}
  {rest : List (BitVec 8 × Bytes)}

/-! The front message of an exchange. -/

/-- The exchange of a link runs, and this message is the next to be acted on. -/
def Front (k : LinkId) (s : State) (n : BitVec 8) (m : Bytes) : Prop :=
  s.kexRuns k = true ∧ ∃ rest, (s.link k).kex.inbox = (n, m) :: rest

/-- What remains after the front message. -/
def State.taken (s : State) (k : LinkId) (rest : List (BitVec 8 × Bytes)) : State := s.modKex k (fun x => { x with inbox := rest })

theorem kexTake_front (e : (s.link k).kex.inbox = (n, m) :: rest) : s.kexTake k n = some (m, s.taken k rest) := by
  unfold State.kexTake
  rw [e]
  exact if_pos (beq_self_eq_true n)

@[simp] theorem link_taken (s : State) (k : LinkId) (rest : List (BitVec 8 × Bytes)) :
    (s.taken k rest).link k = { s.link k with kex := { (s.link k).kex with inbox := rest } } := link_modKex ..

@[simp] theorem kexRuns_taken (s : State) (k : LinkId) (rest : List (BitVec 8 × Bytes)) : (s.taken k rest).kexRuns k = s.kexRuns k := by
  simp [State.kexRuns]

@[simp] theorem checkChain_taken (s : State) (k : LinkId) (rest : List (BitVec 8 × Bytes)) (certs : Bytes) (kind : Nat) :
    (s.taken k rest).checkChain certs kind = s.checkChain certs kind := rfl

theorem taken_moves : LinkMoves [k] l s (s.taken k rest) := modKex_moves (List.mem_singleton_self k)

theorem train_of_kexRuns (runs : s.kexRuns k = true) : (s.link k).train = .secure := by
  simp only [State.kexRuns, Bool.and_eq_true, beq_iff_eq] at runs
  exact runs.1

/-! The shared steps: news from the peer, a refusal, FINISHED, the end of the exchange. -/

@[simp] theorem link_kexHeard (s : State) (k : LinkId) :
    (s.kexHeard k).link k = { s.link k with kex := { (s.link k).kex with sent := [], lastTick := s.bell.ticks } } := link_modKex ..

theorem kexHeard_moves : LinkMoves [k] l s (s.kexHeard k) := modKex_moves (List.mem_singleton_self k)

/-- The registers that a refused exchange writes. -/
def refusalRegs : List Nat := recordRegs Reg.secErr ++ [Reg.secErrCapture, Reg.secAuthFail]

/-- The exchange stops, with an error and a count (R497, R506). -/
def Stops (k : LinkId) (e : Nat) (a b : State) : Prop :=
  (b.link k).kex.stopped = true ∧ (b.link k).kex.sent = [] ∧ (b.link k).train = .secure ∧ bit (b.rd Reg.secErr) e = true
  ∧ (b.rd Reg.secAuthFail).toNat = min ((a.rd Reg.secAuthFail).toNat + 1) 0xFFFFFFFF ∧ LinkEffect [k] refusalRegs a b

theorem raiseSec_moves {e source unit : Nat} : LinkMoves ls (recordRegs Reg.secErr ++ [Reg.secErrCapture]) s (s.raiseSec e source unit) :=
  raise_linkMoves (fun _ m => List.mem_append_left _ m) (fun x m => by simp [List.mem_singleton.1 m])

theorem link_raiseSec (s : State) (e source unit : Nat) (k : LinkId) : (s.raiseSec e source unit).link k = s.link k := link_raise ..

/-- ABORT is sent, and nothing is sent again. -/
def State.abort (s : State) (k : LinkId) : State :=
  ((s.kexHeard k).sendMsg k 5 []).modKex k (fun x => { x with stopped := true, sent := [] })

theorem kexRefuse_eq (s : State) (k : LinkId) (untrusted : Bool) :
    s.kexRefuse k untrusted = ((s.abort k).bump Reg.secAuthFail).raiseSec (if untrusted then 1 else 0) 0 k.port.val := rfl

theorem abort_moves : LinkMoves [k] l s (s.abort k) :=
  (kexHeard_moves.trans (sendMsg_moves (List.mem_singleton_self k))).trans (modKex_moves (List.mem_singleton_self k))

theorem kexRefuse_stops (s : State) (k : LinkId) (untrusted : Bool) (secure : (s.link k).train = .secure) :
    Stops k (if untrusted then 1 else 0) s (s.kexRefuse k untrusted) := by
  have aborted : LinkMoves [k] [] s (s.abort k) := abort_moves
  rw [kexRefuse_eq]
  refine ⟨?_, ?_, ?_, ?_, ?_, ?_⟩
  · rw [link_raiseSec, link_bump, State.abort, link_modKex]
  · rw [link_raiseSec, link_bump, State.abort, link_modKex]
  · rw [link_raiseSec, link_bump, State.abort, link_modKex]
    rw [train_sendMsg, link_kexHeard]
    exact secure
  · exact raiseCap_sets _ _ _ _ (by cases untrusted <;> decide) (by decide)
  · rw [(raiseSec_moves (ls := [])).effect.reg Reg.secAuthFail (by decide) (by decide)]
    exact (counted_bump _ _).before (aborted.effect.reg _ List.not_mem_nil (by decide))
  · exact (((aborted.mono (List.Subset.refl _) (List.nil_subset _)).trans (bump_linkMoves (by decide))).trans
      (raiseSec_moves.mono (List.Subset.refl _) (by decide))).effect

theorem kexRefuse_taken {untrusted : Bool} (secure : (s.link k).train = .secure) :
    Stops k (if untrusted then 1 else 0) s ((s.taken k rest).kexRefuse k untrusted) := by
  obtain ⟨stopped, sent, train, error, counts, effect⟩ := kexRefuse_stops (s.taken k rest) k untrusted (by rw [link_taken]; exact secure)
  exact ⟨stopped, sent, train, error, counts, taken_moves.effect.trans effect⟩

/-- What this side proves with FINISHED that it holds K. -/
def Kex.finished (x : Kex) (key : Bytes) : Bytes := Config.shake256 (ascii (if x.initiator then "FIN-I" else "FIN-R") ++ key) 32

theorem sendFinished_eq (s : State) (k : LinkId) (key : Bytes) : s.sendFinished k key =
    (s.sendMsg k 4 ((s.link k).kex.finished key)).modKex k (fun x => { x with finSent := true, k := some key }) := rfl

theorem link_sendFinished (secure : (s.link k).train = .secure) (key : Bytes) : (s.sendFinished k key).link k =
    { s.link k with kex := { (s.link k).kex with sent := (s.link k).kex.sent ++ [(4, (s.link k).kex.finished key)],
                                                 lastTick := s.bell.ticks, finSent := true, k := some key } } := by
  rw [sendFinished_eq, link_modKex, link_sendMsg_secure secure]

theorem sendFinished_moves {key : Bytes} : LinkMoves [k] l s (s.sendFinished k key) := by
  rw [sendFinished_eq]
  exact (sendMsg_moves (List.mem_singleton_self k)).trans (modKex_moves (List.mem_singleton_self k))

/-- The registers that the end of an exchange writes. -/
def exchangeRegs (p : Port) : List Nat := recordRegs (Reg.portErr p.val) ++ [Reg.secSecureDone]

theorem kexDone_moves : LinkMoves [k] (exchangeRegs k.port) s (s.kexDone k) := by
  unfold State.kexDone
  dsimp only
  split
  · exact (bump_linkMoves (List.mem_append_right _ (List.mem_singleton_self _))).trans (enterConfig_moves (List.subset_append_left _ _))
  · exact LinkMoves.refl s

@[simp] theorem kex_kexDone (s : State) (k : LinkId) : ((s.kexDone k).link k).kex = (s.link k).kex := by
  unfold State.kexDone
  dsimp only
  split
  · rw [kex_enterConfig, link_bump]
  · rfl

/-- The link goes to CONFIG when both FINISHED messages are done. -/
theorem train_kexDone (secure : (s.link k).train = .secure) : ((s.kexDone k).link k).train =
    if ((s.link k).kex.finSent && (s.link k).kex.finGot) = true then .config else .secure := by
  unfold State.kexDone
  dsimp only
  split
  · exact train_enterConfig ..
  · exact secure

theorem kexDone_counts (both : ((s.link k).kex.finSent && (s.link k).kex.finGot) = true) : Counted Reg.secSecureDone 1 s (s.kexDone k) := by
  have done : s.kexDone k = (s.bump Reg.secSecureDone).enterConfig k := if_pos both
  rw [done]
  refine (counted_bump s _).of_rd ((enterConfig_moves (List.Subset.refl _)).effect.reg _ ?_ (by decide))
  have := k.port.isLt
  simp only [recordRegs, List.mem_cons, List.not_mem_nil, or_false, Reg.secSecureDone, Reg.portErr]
  omega

/-! SECURE_HELLO (R496 steps 1 and 2). -/

/-- The exchange after this side has offered keys, over both HELLO messages. -/
def Kex.offering (x : Kex) (keys : Bytes × Bytes) (hellos : Bytes) : Kex :=
  { x with ek := keys.1, dk := keys.2, h1 := Config.shake256 (hellos ++ keys.1) 64 }

/-- KEM_EK with fresh keys and a signature over both HELLO messages and the key. -/
def State.sendKemEk (s : State) (k : LinkId) (hellos : Bytes) : State :=
  let keys := Config.kemKeygen s.draw.1
  (s.draw.2.draw.2.modKex k (fun x => x.offering keys hellos)).sendMsg k 2
    (keys.1 ++ Config.falconSign Config.otpSeed (Config.shake256 (hellos ++ keys.1) 64) s.draw.2.draw.1)

/-- The peer's chain has passed. -/
def State.trust (s : State) (k : LinkId) (hello leaf : Bytes) : State :=
  (s.kexHeard k).modKex k (fun x => { x with helloPeer := hello, peerOk := true, peerLeaf := leaf })

/-- What a HELLO leads to. -/
def State.answerHello (s : State) (k : LinkId) (hello : Bytes) : State :=
  match s.checkChain (hello.drop 32) (leafKind (((s.link k).peer.map (·.kind)).getD 0)) with
  | .bad => s.kexRefuse k false
  | .untrusted => s.kexRefuse k true
  | .ok leaf => if (s.link k).kex.initiator then (s.trust k hello leaf).sendKemEk k ((s.link k).kex.helloOwn ++ hello) else s.trust k hello leaf

theorem exec_secureHello (runs : s.kexRuns k = true) (front : (s.link k).kex.inbox = (1, m) :: rest)
    (first : (s.link k).kex.helloPeer = []) : exec (.secureHello k) s = .next ((s.taken k rest).answerHello k m) := by
  change execSecureHello k s = _
  unfold execSecureHello State.answerHello
  rw [kexTake_front front]
  dsimp only
  rw [if_neg (by simp [runs, first])]
  cases (s.taken k rest).checkChain (m.drop 32) (leafKind ((((s.taken k rest).link k).peer.map (·.kind)).getD 0)) with
  | bad => rfl
  | untrusted => rfl
  | ok leaf =>
    cases own : ((s.taken k rest).link k).kex.initiator with
    | false => rfl
    | true =>
      dsimp only
      rw [if_neg (by decide), if_pos rfl]
      unfold State.trust
      generalize ((s.taken k rest).kexHeard k).modKex k _ = u
      rfl

theorem trust_moves {hello leaf : Bytes} : LinkMoves [k] l s (s.trust k hello leaf) :=
  kexHeard_moves.trans (modKex_moves (List.mem_singleton_self k))

theorem link_trust (s : State) (k : LinkId) (hello leaf : Bytes) : (s.trust k hello leaf).link k =
    { s.link k with kex := { (s.link k).kex with sent := [], lastTick := s.bell.ticks, helloPeer := hello, peerOk := true,
                                                 peerLeaf := leaf } } := by
  rw [State.trust, link_modKex, link_kexHeard]

theorem draw_moves : LinkMoves ls l s s.draw.2 := LinkMoves.withFree

theorem sendKemEk_moves {hellos : Bytes} : LinkMoves [k] l s (s.sendKemEk k hellos) :=
  ((draw_moves.trans draw_moves).trans (modKex_moves (List.mem_singleton_self k))).trans (sendMsg_moves (List.mem_singleton_self k))

theorem link_sendKemEk (secure : (s.link k).train = .secure) (hellos : Bytes) : ∃ keys sig,
    (s.sendKemEk k hellos).link k = { s.link k with
      kex := { (s.link k).kex.offering keys hellos with sent := (s.link k).kex.sent ++ [(2, keys.1 ++ sig)], lastTick := s.bell.ticks } } := by
  refine ⟨Config.kemKeygen s.draw.1, ?_, ?_⟩
  rotate_left
  · unfold State.sendKemEk
    dsimp only
    rw [link_sendMsg_secure (by rw [link_modKex]; exact secure), link_modKex]
    rfl

theorem secureHello_acts (k : LinkId) (m : Bytes) (s : State) (front : Front k s 1 m) (first : (s.link k).kex.helloPeer = []) :
    let kind := leafKind (((s.link k).peer.map (·.kind)).getD 0)
    ∃ t, exec (.secureHello k) s = .next t
    ∧ (s.checkChain (m.drop 32) kind = .bad → Stops k 0 s t)
    ∧ (s.checkChain (m.drop 32) kind = .untrusted → Stops k 1 s t)
    ∧ (∀ leaf, s.checkChain (m.drop 32) kind = .ok leaf → LinkEffect [k] [] s t ∧ (t.link k).kex.peerOk = true
        ∧ (t.link k).kex.peerLeaf = leaf ∧ (t.link k).kex.helloPeer = m ∧ (t.link k).train = .secure
        ∧ ((s.link k).kex.initiator = true → ∃ sig, (t.link k).kex.sent = [(2, (t.link k).kex.ek ++ sig)]
            ∧ (t.link k).kex.h1 = Config.shake256 ((s.link k).kex.helloOwn ++ m ++ (t.link k).kex.ek) 64)
        ∧ ((s.link k).kex.initiator = false → (t.link k).kex.sent = [])) := by
  obtain ⟨runs, rest, inbox⟩ := front
  have secure := train_of_kexRuns runs
  intro kind
  refine ⟨_, exec_secureHello runs inbox first, ?_⟩
  have chain : (s.taken k rest).checkChain (m.drop 32) (leafKind ((((s.taken k rest).link k).peer.map (·.kind)).getD 0))
      = s.checkChain (m.drop 32) kind := by rw [link_taken, checkChain_taken]
  unfold State.answerHello
  rw [chain]
  cases s.checkChain (m.drop 32) kind with
  | bad => exact ⟨fun _ => kexRefuse_taken secure, nofun, nofun⟩
  | untrusted => exact ⟨nofun, fun _ => kexRefuse_taken secure, nofun⟩
  | ok leaf =>
    refine ⟨nofun, nofun, fun cert same => ?_⟩
    obtain rfl : leaf = cert := by injection same
    have trusted : LinkMoves [k] [] s ((s.taken k rest).trust k m leaf) := taken_moves.trans trust_moves
    have link := link_trust (s.taken k rest) k m leaf
    rw [link_taken] at link
    dsimp only
    rw [link_taken]
    dsimp only
    cases (s.link k).kex.initiator with
    | false =>
      rw [if_neg Bool.false_ne_true, link]
      exact ⟨trusted.effect, rfl, rfl, rfl, secure, nofun, fun _ => rfl⟩
    | true =>
      obtain ⟨keys, sig, sent⟩ := link_sendKemEk (s := (s.taken k rest).trust k m leaf) (k := k) (by rw [link]; exact secure)
        ((s.link k).kex.helloOwn ++ m)
      rw [link] at sent
      rw [if_pos rfl, sent]
      exact ⟨(trusted.trans sendKemEk_moves).effect, rfl, rfl, rfl, secure, fun _ => ⟨sig, rfl, rfl⟩, nofun⟩

/-! SECURE_KEM_EK (R496 step 3). -/

/-- K of R496, from the shared secret and the second transcript hash. -/
def exchangeKey (ss h2 : Bytes) : Bytes := Config.shake256 (ascii "THOADE-LINK" ++ ss ++ h2) 136

/-- KEM_CT with a fresh ciphertext and its signature, then FINISHED. -/
def State.answerKemEk (s : State) (k : LinkId) (ek h1 : Bytes) : State :=
  let t := s.kexHeard k
  let enc := Config.kemEncaps ek t.draw.1
  let h2 := Config.shake256 (h1 ++ enc.1) 64
  let t := t.draw.2.draw.2.sendMsg k 3 (enc.1 ++ Config.falconSign Config.otpSeed h2 t.draw.2.draw.1)
  (t.modKex k (fun x => { x with h1 := h1, h2 := h2 })).sendFinished k (exchangeKey enc.2 h2)

/-- The transcript hash that a KEM_EK is signed over. -/
def Kex.kemEkHash (x : Kex) (m : Bytes) : Bytes := Config.shake256 (x.helloPeer ++ x.helloOwn ++ byteRun m 0 1568) 64

/-- The signature of a KEM message, after the 1,568 bytes of its content, verifies against the peer's leaf. -/
def Kex.verifies (x : Kex) (hash m : Bytes) : Bool := Config.falconVerify (certKey x.peerLeaf) hash (byteRun m 1568 1280)

theorem exec_secureKemEk (runs : s.kexRuns k = true) (front : (s.link k).kex.inbox = (2, m) :: rest)
    (responds : (s.link k).kex.initiator = false) (ok : (s.link k).kex.peerOk = true) (before : (s.link k).kex.finSent = false) :
    exec (.secureKemEk k) s = .next (
      if (s.link k).kex.verifies ((s.link k).kex.kemEkHash m) m then
        ((s.taken k rest).answerKemEk k (byteRun m 0 1568) ((s.link k).kex.kemEkHash m)).kexDone k
      else (s.taken k rest).kexRefuse k false) := by
  change execSecureKemEk k s = _
  unfold execSecureKemEk
  rw [kexTake_front front]
  dsimp only
  rw [if_neg (by simp [runs, responds, ok, before]), link_taken]
  dsimp only
  change (if !(s.link k).kex.verifies ((s.link k).kex.kemEkHash m) m then _ else _) = _
  cases (s.link k).kex.verifies ((s.link k).kex.kemEkHash m) m with
  | false => rfl
  | true =>
    rw [if_neg (by decide), if_pos rfl]
    unfold State.answerKemEk
    generalize (s.taken k rest).kexHeard k = u
    rfl

theorem answerKemEk_moves {ek h1 : Bytes} : LinkMoves [k] l s (s.answerKemEk k ek h1) :=
  (((kexHeard_moves.trans (draw_moves.trans draw_moves)).trans (sendMsg_moves (List.mem_singleton_self k))).trans
    (modKex_moves (List.mem_singleton_self k))).trans sendFinished_moves

theorem link_answerKemEk (secure : (s.link k).train = .secure) (ek h1 : Bytes) : ∃ v sig fin tick,
    let enc := Config.kemEncaps ek v
    let h2 := Config.shake256 (h1 ++ enc.1) 64
    (s.answerKemEk k ek h1).link k = { s.link k with
      kex := { (s.link k).kex with h1 := h1, h2 := h2, sent := [(3, enc.1 ++ sig), (4, fin)], lastTick := tick, finSent := true,
                                   k := some (exchangeKey enc.2 h2) } } := by
  unfold State.answerKemEk
  dsimp only
  refine ⟨(s.kexHeard k).draw.1, ?_, ?_, ?_, ?_⟩
  rotate_left 3
  have heard : ((s.kexHeard k).draw.2.draw.2.link k).train = .secure := by
    change ((s.kexHeard k).link k).train = _
    rw [link_kexHeard]
    exact secure
  have same : (s.kexHeard k).draw.2.draw.2.link k = (s.kexHeard k).link k := rfl
  rw [link_sendFinished (by rw [link_modKex]; dsimp only; rw [train_sendMsg]; exact heard), link_modKex, link_sendMsg_secure heard, same,
    link_kexHeard]
  rfl

theorem secureKemEk_acts (k : LinkId) (m : Bytes) (s : State) (front : Front k s 2 m) (responds : (s.link k).kex.initiator = false)
    (ok : (s.link k).kex.peerOk = true) (before : (s.link k).kex.finSent = false) : let x := (s.link k).kex
    let h1 := Config.shake256 (x.helloPeer ++ x.helloOwn ++ byteRun m 0 1568) 64
    let good := Config.falconVerify (certKey x.peerLeaf) h1 (byteRun m 1568 1280)
    ∃ t, exec (.secureKemEk k) s = .next t ∧ (good = false → Stops k 0 s t)
    ∧ (good = true → (t.link k).kex.finSent = true ∧ (t.link k).train = (if x.finGot then .config else .secure)
        ∧ LinkEffect [k] (exchangeRegs k.port) s t
        ∧ ∃ v, (t.link k).kex.k = some (Config.shake256 (ascii "THOADE-LINK" ++ (Config.kemEncaps (byteRun m 0 1568) v).2
            ++ Config.shake256 (h1 ++ (Config.kemEncaps (byteRun m 0 1568) v).1) 64) 136)
          ∧ ∃ sig fin, (t.link k).kex.sent = [(3, (Config.kemEncaps (byteRun m 0 1568) v).1 ++ sig), (4, fin)]) := by
  obtain ⟨runs, rest, inbox⟩ := front
  have secure := train_of_kexRuns runs
  intro x h1 good
  refine ⟨_, exec_secureKemEk runs inbox responds ok before, fun bad => ?_, fun verified => ?_⟩
  · rw [if_neg (by change ¬ good = true; simp [bad])]
    exact kexRefuse_taken secure
  · rw [if_pos (by exact verified)]
    obtain ⟨v, sig, fin, tick, link⟩ := link_answerKemEk (s := s.taken k rest) (k := k) (by rw [link_taken]; exact secure)
      (byteRun m 0 1568) ((s.link k).kex.kemEkHash m)
    rw [link_taken] at link
    refine ⟨?_, ?_, ((taken_moves.trans answerKemEk_moves).trans kexDone_moves).effect, v, ?_, sig, fin, ?_⟩
    · rw [kex_kexDone, link]
    · rw [train_kexDone (by rw [link]; exact secure), link]
      rfl
    · rw [kex_kexDone, link]
      rfl
    · rw [kex_kexDone, link]

end Sys2Proof.Machine

/-! ## The end of the SECURE exchange, its repetition, and rekeying (R122, R495 to R498) -/
namespace Sys2Proof.Machine

variable {a b s t : State} {ls : List LinkId} {l : List Nat} {k : LinkId} {m : Bytes} {rest : List (BitVec 8 × Bytes)}

/-! SECURE_KEM_CT (R496 step 4). -/

/-- FINISHED of the initiator, that holds K from the peer's ciphertext. -/
def State.answerKemCt (s : State) (k : LinkId) (ss h2 : Bytes) : State :=
  ((s.kexHeard k).modKex k (fun x => { x with h2 := h2 })).sendFinished k (exchangeKey ss h2)

/-- The transcript hash that a KEM_CT is signed over. -/
def Kex.kemCtHash (x : Kex) (m : Bytes) : Bytes := Config.shake256 (x.h1 ++ byteRun m 0 1568) 64

theorem exec_secureKemCt (runs : s.kexRuns k = true) (front : (s.link k).kex.inbox = (3, m) :: rest)
    (initiates : (s.link k).kex.initiator = true) (ok : (s.link k).kex.peerOk = true) (before : (s.link k).kex.finSent = false) :
    exec (.secureKemCt k) s = .next (
      if (s.link k).kex.verifies ((s.link k).kex.kemCtHash m) m then
        ((s.taken k rest).answerKemCt k (Config.kemDecaps (s.link k).kex.dk (byteRun m 0 1568)) ((s.link k).kex.kemCtHash m)).kexDone k
      else (s.taken k rest).kexRefuse k false) := by
  change execSecureKemCt k s = _
  unfold execSecureKemCt
  rw [kexTake_front front]
  dsimp only
  rw [if_neg (by simp [runs, initiates, ok, before]), link_taken]
  dsimp only
  change (if !(s.link k).kex.verifies ((s.link k).kex.kemCtHash m) m then _ else _) = _
  cases (s.link k).kex.verifies ((s.link k).kex.kemCtHash m) m with
  | false => rfl
  | true =>
    rw [if_neg (by decide), if_pos rfl]
    unfold State.answerKemCt
    generalize (s.taken k rest).kexHeard k = u
    rfl

theorem answerKemCt_moves {ss h2 : Bytes} : LinkMoves [k] l s (s.answerKemCt k ss h2) :=
  (kexHeard_moves.trans (modKex_moves (List.mem_singleton_self k))).trans sendFinished_moves

theorem link_answerKemCt (secure : (s.link k).train = .secure) (ss h2 : Bytes) : (s.answerKemCt k ss h2).link k =
    { s.link k with kex := { (s.link k).kex with h2 := h2, sent := [(4, (s.link k).kex.finished (exchangeKey ss h2))],
                                                 lastTick := s.bell.ticks, finSent := true, k := some (exchangeKey ss h2) } } := by
  unfold State.answerKemCt
  rw [link_sendFinished (by rw [link_modKex, link_kexHeard]; exact secure), link_modKex, link_kexHeard]
  rfl

theorem secureKemCt_acts (k : LinkId) (m : Bytes) (s : State) (front : Front k s 3 m) (initiates : (s.link k).kex.initiator = true)
    (ok : (s.link k).kex.peerOk = true) (before : (s.link k).kex.finSent = false) : let x := (s.link k).kex
    let h2 := Config.shake256 (x.h1 ++ byteRun m 0 1568) 64
    let good := Config.falconVerify (certKey x.peerLeaf) h2 (byteRun m 1568 1280)
    let key := Config.shake256 (ascii "THOADE-LINK" ++ Config.kemDecaps x.dk (byteRun m 0 1568) ++ h2) 136
    ∃ t, exec (.secureKemCt k) s = .next t ∧ (good = false → Stops k 0 s t)
    ∧ (good = true → (t.link k).kex.finSent = true ∧ (t.link k).kex.k = some key
        ∧ (t.link k).kex.sent = [(4, Config.shake256 (ascii "FIN-I" ++ key) 32)]
        ∧ (t.link k).train = (if x.finGot then .config else .secure) ∧ LinkEffect [k] (exchangeRegs k.port) s t) := by
  obtain ⟨runs, rest, inbox⟩ := front
  have secure := train_of_kexRuns runs
  intro x h2 good key
  refine ⟨_, exec_secureKemCt runs inbox initiates ok before, fun bad => ?_, fun verified => ?_⟩
  · rw [if_neg (by change ¬ good = true; simp [bad])]
    exact kexRefuse_taken secure
  · rw [if_pos (by exact verified)]
    have link := link_answerKemCt (s := s.taken k rest) (k := k) (by rw [link_taken]; exact secure)
      (Config.kemDecaps (s.link k).kex.dk (byteRun m 0 1568)) ((s.link k).kex.kemCtHash m)
    rw [link_taken] at link
    have label : (s.link k).kex.finished key = Config.shake256 (ascii "FIN-I" ++ key) 32 := by
      rw [Kex.finished, if_pos initiates]
    refine ⟨?_, ?_, ?_, ?_, ((taken_moves.trans answerKemCt_moves).trans kexDone_moves).effect⟩
    · rw [kex_kexDone, link]
    · rw [kex_kexDone, link]
      rfl
    · rw [kex_kexDone, link, ← label]
      rfl
    · rw [train_kexDone (by rw [link]; exact secure), link]
      rfl

/-! SECURE_FINISHED (R496 step 5). -/

/-- The FINISHED that the peer sends with K. -/
def Kex.finishedPeer (x : Kex) (key : Bytes) : Bytes := Config.shake256 (ascii (if x.initiator then "FIN-R" else "FIN-I") ++ key) 32

/-- The peer's FINISHED is taken. -/
def State.takeFinished (s : State) (k : LinkId) : State := (s.kexHeard k).modKex k (fun x => { x with finGot := true })

theorem exec_secureFinished {key : Bytes} (runs : s.kexRuns k = true) (front : (s.link k).kex.inbox = (4, m) :: rest)
    (holds : (s.link k).kex.k = some key) (before : (s.link k).kex.finGot = false) :
    exec (.secureFinished k) s = .next (if m == (s.link k).kex.finishedPeer key then ((s.taken k rest).takeFinished k).kexDone k
      else (s.taken k rest).kexRefuse k false) := by
  change execSecureFinished k s = _
  unfold execSecureFinished
  rw [holds]
  dsimp only
  rw [kexTake_front front]
  dsimp only
  rw [if_neg (by simp [runs, before]), link_taken]
  dsimp only
  exact (apply_ite Host.Outcome.next _ _ _).symm

theorem link_takeFinished (s : State) (k : LinkId) : (s.takeFinished k).link k =
    { s.link k with kex := { (s.link k).kex with sent := [], lastTick := s.bell.ticks, finGot := true } } := by
  rw [State.takeFinished, link_modKex, link_kexHeard]

theorem takeFinished_moves : LinkMoves [k] l s (s.takeFinished k) :=
  kexHeard_moves.trans (modKex_moves (List.mem_singleton_self k))

theorem secureFinished_acts (k : LinkId) (m key : Bytes) (s : State) (front : Front k s 4 m) (holds : (s.link k).kex.k = some key)
    (before : (s.link k).kex.finGot = false) :
    let good := m == Config.shake256 (ascii (if (s.link k).kex.initiator then "FIN-R" else "FIN-I") ++ key) 32
    ∃ t, exec (.secureFinished k) s = .next t ∧ (good = false → Stops k 0 s t)
    ∧ (good = true → (t.link k).kex.finGot = true ∧ (t.link k).kex.sent = []
        ∧ (t.link k).train = (if (s.link k).kex.finSent then .config else .secure) ∧ LinkEffect [k] (exchangeRegs k.port) s t
        ∧ ((s.link k).kex.finSent = true →
            (t.rd Reg.secSecureDone).toNat = min ((s.rd Reg.secSecureDone).toNat + 1) 0xFFFFFFFF)) := by
  obtain ⟨runs, rest, inbox⟩ := front
  have secure := train_of_kexRuns runs
  intro good
  refine ⟨_, exec_secureFinished runs inbox holds before, fun bad => ?_, fun matched => ?_⟩
  · rw [if_neg (by change ¬ good = true; simp [bad])]
    exact kexRefuse_taken secure
  · rw [if_pos (by exact matched)]
    have took : LinkMoves [k] [] s ((s.taken k rest).takeFinished k) := taken_moves.trans takeFinished_moves
    have link := link_takeFinished (s.taken k rest) k
    rw [link_taken] at link
    refine ⟨?_, ?_, ?_, ((took.mono (List.Subset.refl _) (List.nil_subset _)).trans kexDone_moves).effect, fun sent => ?_⟩
    · rw [kex_kexDone, link]
    · rw [kex_kexDone, link]
    · rw [train_kexDone (by rw [link]; exact secure), link]
      dsimp only
      rw [Bool.and_true]
    · exact (kexDone_counts (by rw [link]; simp [sent])).before (took.effect.reg _ List.not_mem_nil (by decide))

theorem relinked_modKex_modKex (s : State) (k : LinkId) (f g : Kex → Kex) :
    Relinked s ((s.modKex k f).modKex k g) k { s.link k with kex := g (f (s.link k).kex) } :=
  relinked_modLink_modLink s k (fun x => { x with kex := f x.kex }) (fun x => { x with kex := g x.kex })

/-! SECURE_ABORT and SECURE_RESEND (R495, R497). -/

theorem secureAbort_acts (k : LinkId) (m : Bytes) (s : State) (rest : List (BitVec 8 × Bytes)) (secure : (s.link k).train = .secure)
    (front : (s.link k).kex.inbox = (5, m) :: rest) :
    ∃ t, exec (.secureAbort k) s = .next t
    ∧ Relinked s t k { s.link k with kex := { (s.link k).kex with inbox := rest, stopped := true, sent := [] } } := by
  have run : exec (.secureAbort k) s = .next ((s.taken k rest).modKex k (fun x => { x with stopped := true, sent := [] })) := by
    change execSecureAbort k s = _
    unfold execSecureAbort
    rw [kexTake_front front]
    dsimp only
    rw [if_pos (by simp [secure])]
  exact ⟨_, run, relinked_modKex_modKex s k (fun x => { x with inbox := rest }) (fun x => { x with stopped := true, sent := [] })⟩

/-- Emissions of one kind stand in the output in the order opposite to that in which they were made. -/
theorem foldl_emit {β : Type} (o : β → Out) (xs : List β) (s : State) :
    xs.foldl (fun s x => s.emit (o x)) s = s.withOut ((xs.map o).reverse ++ s.out) := by
  induction xs generalizing s with
  | nil => rfl
  | cons x xs ih =>
    rw [List.foldl_cons, ih, List.map_cons, List.reverse_cons, List.append_assoc]
    rfl

theorem secureResend_acts (k : LinkId) (s : State) (runs : s.kexRuns k = true) (some : (s.link k).kex.sent ≠ [])
    (late : (s.link k).kex.lastTick + 125000 ≤ s.bell.ticks) :
    ∃ t, exec (.secureResend k) s = .next t
    ∧ t.out = (((s.link k).kex.sent.flatMap (fun m => fragments m.1 m.2)).map (fun c => Out.flit k (secureFlit c))).reverse ++ s.out
    ∧ Relinked (s.withOut t.out) t k { s.link k with kex := { (s.link k).kex with lastTick := s.bell.ticks } } := by
  have flits : ((s.link k).kex.sent.flatMap (fun m => (fragments m.1 m.2).map secureFlit)).map (Out.flit k)
      = ((s.link k).kex.sent.flatMap (fun m => fragments m.1 m.2)).map (fun c => Out.flit k (secureFlit c)) := by
    simp only [List.map_flatMap, List.map_map]
    rfl
  refine ⟨_, if_pos (by simp [runs, some, late]), ?_, ?_⟩
  · rw [foldl_emit (Out.flit k), flits]
    rfl
  · rw [foldl_emit (Out.flit k)]
    exact relinked_modLink (s.withOut _) k (fun x => { x with kex := { x.kex with lastTick := s.bell.ticks } })

/-! Rekeying (R122, R498). -/

/-- The rekey of this side is over. -/
def Kex.rekeyed (x : Kex) : Kex := { x with rekeyOwn := false, rekeyEk := [], rekeyDk := [] }

/-- The key that follows the one in use. -/
def Link.nextOf (x : Link) (ss : Bytes) : LinkKey :=
  linkKeyOf (Config.shake256 (ascii "THOADE-REKEY" ++ ss ++ ((x.key.map (·.chain)).getD [])) 136) x.kex.initiator

theorem setNextKey_eq (s : State) (k : LinkId) (ss : Bytes) :
    s.setNextKey k ss = s.modLink k (fun x => { x with nextKey := some (x.nextOf ss), rxNew := 0, txSwitch := none }) := rfl

/-- REKEY_CT for a REKEY_EK, and the next key. -/
def State.answerRekey (s : State) (k : LinkId) (ek : Bytes) : State :=
  let enc := Config.kemEncaps ek s.draw.1
  ((s.draw.2.modKex k Kex.rekeyed).setNextKey k enc.2).sendMsg k 0x12 enc.1

theorem exec_rekeyEk (active : (s.link k).train = .active) (front : (s.link k).kex.inbox = (0x11, m) :: rest)
    (encrypted : (s.link k).encrypted = true) (single : (s.link k).nextKey = none)
    (yields : (s.link k).kex.rekeyOwn = true → (s.link k).kex.initiator = false) (entropy : s.entropyOk = true) :
    exec (.rekeyEk k) s = .next ((s.taken k rest).answerRekey k m) := by
  have both : ((s.link k).kex.rekeyOwn && (s.link k).kex.initiator) = false := by
    cases own : (s.link k).kex.rekeyOwn with
    | false => rfl
    | true => exact yields own
  have random : (s.taken k rest).entropyOk = true := entropy
  change execRekeyEk k s = _
  unfold execRekeyEk
  rw [kexTake_front front]
  dsimp only
  rw [if_neg (by simp [active, encrypted, single, both, random])]
  rfl

theorem rekeyEk_acts (k : LinkId) (m : Bytes) (s : State) (rest : List (BitVec 8 × Bytes)) (active : (s.link k).train = .active)
    (front : (s.link k).kex.inbox = (0x11, m) :: rest) (encrypted : (s.link k).encrypted = true) (single : (s.link k).nextKey = none)
    (yields : (s.link k).kex.rekeyOwn = true → (s.link k).kex.initiator = false) (entropy : s.entropyOk = true) :
    ∃ t v, exec (.rekeyEk k) s = .next t ∧ (t.link k).nextKey.isSome = true ∧ (t.link k).kex.rekeyOwn = false
    ∧ (t.link k).ctlOut = (s.link k).ctlOut ++ (fragments 0x12 (Config.kemEncaps m v).1).map (fun c => ⟨3, c⟩)
    ∧ (t.link k).key = (s.link k).key ∧ LinkEffect [k] [] s t := by
  have mem := List.mem_singleton_self k
  refine ⟨_, (s.taken k rest).draw.1, exec_rekeyEk active front encrypted single yields entropy, ?_⟩
  unfold State.answerRekey
  dsimp only
  rw [setNextKey_eq]
  generalize answered : ((s.taken k rest).draw.2.modKex k Kex.rekeyed).modLink k _ = u
  have link : ∃ key, u.link k = { s.link k with kex := { (s.link k).kex with inbox := rest }.rekeyed, nextKey := some key, rxNew := 0,
                                                txSwitch := none } := by
    have drawn : (s.taken k rest).draw.2.link k = (s.taken k rest).link k := rfl
    rw [← answered, link_modLink_same, link_modKex, drawn, link_taken]
    exact ⟨_, rfl⟩
  have moves : LinkMoves [k] [] s u :=
    answered ▸ ((taken_moves.trans draw_moves).trans (modKex_moves mem)).trans (LinkMoves.modLink mem)
  obtain ⟨key, link⟩ := link
  rw [sendMsg_queued (by rw [link]; simp [active])]
  refine ⟨?_, ?_, ?_, ?_, (moves.trans (sendCtls_moves mem ..)).effect⟩ <;> rw [link_sendCtls, link] <;> rfl

/-- The next key, and the announcement of its first flit (R122). -/
def State.finishRekey (s : State) (k : LinkId) (ss : Bytes) : State := ((s.modKex k Kex.rekeyed).setNextKey k ss).announceKey k

theorem exec_rekeyCt (active : (s.link k).train = .active) (front : (s.link k).kex.inbox = (0x12, m) :: rest)
    (own : (s.link k).kex.rekeyOwn = true) :
    exec (.rekeyCt k) s = .next ((s.taken k rest).finishRekey k (Config.kemDecaps (s.link k).kex.rekeyDk m)) := by
  change execRekeyCt k s = _
  unfold execRekeyCt
  rw [kexTake_front front]
  dsimp only
  rw [if_neg (by simp [active, own]), link_taken]
  rfl

@[simp] theorem link_setSwitch (s : State) (k : LinkId) (n : Nat) :
    (s.setSwitch k n).link k = { s.link k with txSwitch := some (max n ((s.link k).txSwitch.getD 0)) } := link_modLink_same ..

theorem announceKey_eq (s : State) (k : LinkId) : s.announceKey k =
    (s.setSwitch k (max (s.link k).txNext (s.link k).rxNext + 2048)).sendCtl k 2
      (leBytes 8 (max (s.link k).txNext (s.link k).rxNext + 2048)) := rfl

theorem announceKey_moves : LinkMoves [k] l s (s.announceKey k) := by
  rw [announceKey_eq]
  exact (LinkMoves.modLink (List.mem_singleton_self k)).trans (LinkMoves.modLink (List.mem_singleton_self k))

theorem rekeyCt_acts (k : LinkId) (m : Bytes) (s : State) (rest : List (BitVec 8 × Bytes)) (active : (s.link k).train = .active)
    (front : (s.link k).kex.inbox = (0x12, m) :: rest) (own : (s.link k).kex.rekeyOwn = true) :
    let n := max (s.link k).txNext (s.link k).rxNext + 2048
    ∃ t, exec (.rekeyCt k) s = .next t ∧ (t.link k).nextKey.isSome = true ∧ (t.link k).kex.rekeyOwn = false
    ∧ (t.link k).txSwitch = some n
    ∧ (t.link k).ctlOut = (s.link k).ctlOut ++ [⟨2, leBytes 8 n⟩] ∧ (t.link k).key = (s.link k).key ∧ LinkEffect [k] [] s t := by
  intro n
  have mem := List.mem_singleton_self k
  refine ⟨_, exec_rekeyCt active front own, ?_⟩
  unfold State.finishRekey
  rw [setNextKey_eq]
  generalize keyed : ((s.taken k rest).modKex k Kex.rekeyed).modLink k _ = u
  have link : ∃ key, u.link k = { s.link k with kex := { (s.link k).kex with inbox := rest }.rekeyed, nextKey := some key, rxNew := 0,
                                                txSwitch := none } := by
    rw [← keyed, link_modLink_same, link_modKex, link_taken]
    exact ⟨_, rfl⟩
  have moves : LinkMoves [k] [] s u := keyed ▸ (taken_moves.trans (modKex_moves mem)).trans (LinkMoves.modLink mem)
  obtain ⟨key, link⟩ := link
  have announced : (u.announceKey k).link k = { u.link k with txSwitch := some n, ctlOut := (s.link k).ctlOut ++ [⟨2, leBytes 8 n⟩] } := by
    rw [announceKey_eq, link_sendCtl, link_setSwitch, link]
    dsimp only
    rw [Option.getD_none, Nat.max_zero]
  rw [link] at announced
  refine ⟨?_, ?_, ?_, ?_, ?_, (moves.trans announceKey_moves).effect⟩ <;> rw [announced] <;> rfl

theorem linkCtlRekeyAnnounce_acts (k : LinkId) (n : Nat) (s : State) (announced : (s.link k).ctlIn = some n)
    (next : (s.link k).nextKey.isSome = true) : let m := max n ((s.link k).txSwitch.getD 0)
    ∃ t, exec (.linkCtlRekeyAnnounce k) s = .next t ∧ Relinked s t k { s.link k with ctlIn := none, txSwitch := some m } := by
  intro m
  have run : exec (.linkCtlRekeyAnnounce k) s = .next ((s.modLink k (fun x => { x with ctlIn := none })).setSwitch k n) := by
    change execLinkCtlRekeyAnnounce k s = _
    unfold execLinkCtlRekeyAnnounce
    rw [announced]
    exact if_pos (by rw [link_modLink_same]; exact next)
  exact ⟨_, run, relinked_modLink_modLink ..⟩

/-- Settles O26: each message of an exchange that runs, by what it does to the exchange and to the link. -/
theorem linkKeyExchange : Obligations.LinkKeyExchange :=
  ⟨secureHello_acts, secureKemEk_acts, secureKemCt_acts, secureFinished_acts, secureAbort_acts, secureResend_acts, rekeyEk_acts,
    rekeyCt_acts, linkCtlRekeyAnnounce_acts⟩

end Sys2Proof.Machine

/-! ## A frame in progress under a class that is not its own (R106, R173) -/
namespace Sys2Proof.Machine

/-! The statement is about every state: here the egress names an entry as the frame in progress of class 1, and it is of class 2.
R173's pick goes by the name; the flit and its credit go by the entry. -/

/-- A SEND window of port 0 and class 1 on slots 0 to 9 of every period. -/
def classOneWindow : BitVec 128 := (1#128 <<< 64) ||| (9#128 <<< 16) ||| (1#128 <<< 4) ||| 1#128

/-- A frame of class 2, one flit sent and the next at hand. -/
def classTwoEntry : QEntry :=
  { id := 0, input := 192, half1 := false, dest := .port 0, toHalf1 := none, cls := 2, hdr := 0, bytes := [], flits := 2, whole := false,
    short := false, saf := false, eligible := true, sent := 1, lastAt := 0, tick := 0, bound := 0, len := 65536, crossed := false,
    past := false }

/-- The egress of link 0 holds entry 0 to be in progress in class 1. -/
def misnamedEgress : Egress := { Egress.reset with busy := Egress.reset.busy.set 1 (some 0) }

/-- An A-role link in ACTIVE that has one credit of each class. -/
def creditedLink : Link := { Link.reset with train := .active, cfg := 0x0111, credits := Vector.replicate 8 1 }

/-- In bell lock at slot 0 of the window, with that frame and that egress. -/
def misnamedState : State :=
  { State.reset with
    bell := { Bell.reset with lock := .locked }
    tt := { Timetable.reset with bank0 := [(0, classOneWindow)] }
    links := [(0, creditedLink)]
    sw := { Switch.reset with queue := [classTwoEntry], egress := [(0, misnamedEgress)] } }

theorem misnamed_pick : misnamedState.openWindow 0 = some classOneWindow ∧ bit (misnamedState.gate 0) 1 = true
    ∧ misnamedState.inRecess 0 0 = false ∧ misnamedState.scheduledPick 0 classOneWindow 1 0 = some classTwoEntry := by decide +kernel

/-- The flit position is the frame's: its flit leaves. -/
theorem misnamed_sends : exec (.egressFlitPosition 0 0) misnamedState = .next (misnamedState.sendData 0 classTwoEntry) := by
  obtain ⟨window, -, -, pick⟩ := misnamed_pick
  have own : misnamedState.scheduledPick 0 classOneWindow ⟨ttClass classOneWindow % 8, Nat.mod_lt _ (by decide)⟩ 0 = some classTwoEntry :=
    pick
  have payload : misnamedState.payloadFlit 0 0 = misnamedState.sendData 0 classTwoEntry := by
    unfold State.payloadFlit
    dsimp only
    rw [window]
    dsimp only
    rw [if_pos (by decide +kernel), own]
    exact if_neg (by decide +kernel)
  rw [← payload]
  rfl

/-- The credit that it costs is one of class 2. -/
theorem misnamed_credit : ((misnamedState.sendData 0 classTwoEntry).link 0).credits[1] = 1 := by decide +kernel

/-- Refutes O27: the last clause asks for a flit of the window's class and a credit of that class; a state whose egress names an
entry of class 2 as the frame in progress of class 1 sends a flit of class 2 and keeps its credit of class 1. -/
theorem not_egressFlits : ¬ Obligations.EgressFlits := by
  unfold Obligations.EgressFlits
  intro h
  obtain ⟨-, -, -, sends⟩ := h
  obtain ⟨t, f, run, -, -, -, -, -, -, picked⟩ :=
    sends 0 0 misnamedState rfl rfl rfl (by decide +kernel) rfl (by decide +kernel) rfl rfl
  obtain ⟨window, gate, work, pick⟩ := misnamed_pick
  obtain rfl : misnamedState.sendData 0 classTwoEntry = t := by
    rw [misnamed_sends] at run
    injection run
  obtain ⟨-, charged⟩ := picked classOneWindow classTwoEntry window gate work rfl pick
  obtain ⟨-, -, -, -, credit⟩ := charged (by decide +kernel)
  exact absurd (misnamed_credit.symm.trans credit) (by decide +kernel)

end Sys2Proof.Machine
